-- ==== Sys2Proof/Word.lean ====
section
/-!
DEFINITION. The word types of the H8 (R7, R8, R167): bytes, 64-bit registers, 256-bit vector registers and
32-bit masks, and their plainest arithmetic.
-/
namespace Sys2Proof

/-- One byte. -/
abbrev Byte := BitVec 8
/-- The contents of a g register, of a state register or of a handle word. -/
abbrev Word := BitVec 64
/-- The contents of a v register: byte 0 is bits [7:0] (R8). -/
abbrev VWord := BitVec 256
/-- The contents of an m register: bit k is the bit of byte lane k. -/
abbrev MWord := BitVec 32
/-- One instruction word of 96 bits (R171). -/
abbrev IWord := BitVec 96

end Sys2Proof
end

