-- ==== Sys2Proof/Syntax.lean ====
section
/-!
DEFINITION. The syntax of the H8: operand forms (R167 to R170), one operand record per shape of instruction, and
`Instr`, with one constructor for every row of the opcode table. Rows that have an encoding carry their header
fields (R171) and their operands; rows that are steps of the machine without an encoding carry the data that names
which agent, queue or object takes the step.
-/
namespace Sys2Proof

/-- Operand types (R170). -/
inductive Ty
  | b | h | w | d | sb | sh | sw | sd | f64 | f32 | f16 | bf16 | e4m3 | e5m2 | bfp8 | bfp4
  deriving DecidableEq, Repr

/-- Extensions of a g-register source (R169). -/
inductive Ext
  | none | sx8 | sx16 | sx32 | zx8 | zx16 | zx32
  deriving DecidableEq, Repr

/-- Shift classes of a g-register source (R169). -/
inductive ShiftKind
  | none | shl | shr | sar
  deriving DecidableEq, Repr

/-- A modifier of a g-register source (R169): the extension comes first, then the shift. -/
structure GMod where
  shift : ShiftKind
  ext : Ext
  dist : BitVec 6
  deriving DecidableEq, Repr

/-- Lane-rearrangement classes of a v-register source (R168). -/
inductive LaneClass
  | none | rot | bfly | bcast
  deriving DecidableEq, Repr

/-- A modifier of a v-register source (R168). -/
structure VMod where
  cls : LaneClass
  seg : BitVec 3
  dist : BitVec 7
  deriving DecidableEq, Repr

/-- A g register with its modifier. -/
structure GReg where
  r : BitVec 6
  m : GMod
  deriving DecidableEq, Repr

/-- A v register with its modifier. -/
structure VReg where
  r : BitVec 5
  m : VMod
  deriving DecidableEq, Repr

/-- A scalar source: a g register with its modifier, or an inline constant (R167). -/
inductive GSrc
  | reg (g : GReg)
  | imm (k : BitVec 7)
  deriving DecidableEq, Repr

/-- A lane source: a v register with its modifier, or an inline constant for every lane (R167). -/
inductive VSrc
  | reg (v : VReg)
  | imm (k : BitVec 7)
  deriving DecidableEq, Repr

/-- A source of the FP64 unit: a g register without modifier, or an inline constant (R236). -/
inductive FSrc
  | reg (r : BitVec 6)
  | imm (k : BitVec 7)
  deriving DecidableEq, Repr

/-- Rounding codes of an instruction (R114). -/
inductive Rnd
  | dyn | rne | rtz | rup | rdn | rna | sr
  deriving DecidableEq, Repr

/-- The header fields that every instruction word carries beside its opcode (R171). -/
structure Hdr where
  stall : BitVec 4
  pneg : Bool
  preg : BitVec 3
  deriving DecidableEq, Repr

/-! ### Operand records, majors 0x10 to 0x25 (R193 to R206) -/

structure GBin where
  ty : Ty
  d : BitVec 6
  a : GSrc
  b : GSrc
  deriving DecidableEq, Repr

structure GUn where
  ty : Ty
  d : BitVec 6
  a : GSrc
  deriving DecidableEq, Repr

structure GTri where
  ty : Ty
  d : BitVec 6
  a : GSrc
  b : GSrc
  c : BitVec 6
  deriving DecidableEq, Repr

/-- Compare into a mask register. -/
structure MCmp where
  ty : Ty
  d : BitVec 3
  a : GSrc
  b : GSrc
  deriving DecidableEq, Repr

/-- `sel`: c is a mask register. -/
structure GSel where
  ty : Ty
  d : BitVec 6
  a : GSrc
  b : GSrc
  c : BitVec 3
  deriving DecidableEq, Repr

structure GImm where
  ty : Ty
  d : BitVec 6
  a : GSrc
  imm : BitVec 32
  deriving DecidableEq, Repr

structure MImm where
  ty : Ty
  d : BitVec 3
  a : GSrc
  imm : BitVec 32
  deriving DecidableEq, Repr

structure GMovI where
  d : BitVec 6
  imm : BitVec 32
  deriving DecidableEq, Repr

/-! ### Control transfers and state registers (R207 to R216) -/

/-- A relative target (R173): a line displacement and a slot. -/
structure BRel where
  disp : BitVec 29
  slot : BitVec 3
  deriving DecidableEq, Repr

structure BCond where
  a : GReg
  t : BRel
  deriving DecidableEq, Repr

structure BReg where
  a : GReg
  deriving DecidableEq, Repr

structure BLoop where
  a : GSrc
  t : BRel
  deriving DecidableEq, Repr

structure SrRd where
  d : BitVec 6
  sr : BitVec 12
  deriving DecidableEq, Repr

structure SrWr where
  sr : BitVec 12
  a : GSrc
  deriving DecidableEq, Repr

structure SrWrI where
  sr : BitVec 12
  imm : BitVec 12
  deriving DecidableEq, Repr

structure TrapOp where
  code : BitVec 12
  deriving DecidableEq, Repr

/-! ### Vector operands (R217 to R235) -/

structure VBin where
  ty : Ty
  d : BitVec 5
  a : VSrc
  b : VSrc
  deriving DecidableEq, Repr

structure VUn where
  ty : Ty
  d : BitVec 5
  a : VSrc
  deriving DecidableEq, Repr

structure VTri where
  ty : Ty
  d : BitVec 5
  a : VSrc
  b : VSrc
  c : BitVec 5
  deriving DecidableEq, Repr

structure VCmp where
  ty : Ty
  d : BitVec 3
  a : VSrc
  b : VSrc
  deriving DecidableEq, Repr

structure VSel where
  ty : Ty
  d : BitVec 5
  a : VSrc
  b : VSrc
  c : BitVec 3
  deriving DecidableEq, Repr

structure MBin where
  d : BitVec 3
  a : BitVec 3
  b : BitVec 3
  deriving DecidableEq, Repr

structure MUn where
  d : BitVec 3
  a : BitVec 3
  deriving DecidableEq, Repr

structure MToG where
  d : BitVec 6
  a : BitVec 3
  deriving DecidableEq, Repr

structure MFromG where
  d : BitVec 3
  a : GReg
  deriving DecidableEq, Repr

structure VBcstI where
  ty : Ty
  d : BitVec 5
  imm : BitVec 32
  deriving DecidableEq, Repr

structure VBcst where
  ty : Ty
  d : BitVec 5
  a : BitVec 6
  deriving DecidableEq, Repr

structure VFBin where
  ty : Ty
  rm : Rnd
  d : BitVec 5
  a : VSrc
  b : VSrc
  deriving DecidableEq, Repr

structure VFUn where
  ty : Ty
  rm : Rnd
  d : BitVec 5
  a : VSrc
  deriving DecidableEq, Repr

structure VFTri where
  ty : Ty
  rm : Rnd
  d : BitVec 5
  a : VSrc
  b : VSrc
  c : BitVec 5
  deriving DecidableEq, Repr

/-- `vcvt` (R228): source type, destination type and part. -/
structure VCvt where
  src : Ty
  ty : Ty
  part : BitVec 4
  rm : Rnd
  d : BitVec 5
  a : VSrc
  deriving DecidableEq, Repr

/-- `vbfpx` (R229): the group base is a v register whose number is a multiple of 4. -/
structure Vbfpx where
  ty : Ty
  d : BitVec 6
  base : BitVec 5
  deriving DecidableEq, Repr

structure Vbfpe where
  ty : Ty
  rm : Rnd
  d : BitVec 5
  base : BitVec 5
  b : GReg
  deriving DecidableEq, Repr

structure Vbfpd where
  ty : Ty
  n : BitVec 3
  d : BitVec 5
  a : VReg
  b : GReg
  deriving DecidableEq, Repr

structure VSlide where
  ty : Ty
  d : BitVec 5
  a : VSrc
  b : GSrc
  c : BitVec 5
  deriving DecidableEq, Repr

structure VRed where
  ty : Ty
  rm : Rnd
  d : BitVec 6
  a : VSrc
  deriving DecidableEq, Repr

structure RngOp where
  d : BitVec 6
  a : GSrc
  b : GSrc
  deriving DecidableEq, Repr

structure VRngOp where
  d : BitVec 5
  a : GSrc
  b : GSrc
  deriving DecidableEq, Repr

structure VIns where
  ty : Ty
  d : BitVec 5
  a : GReg
  b : GSrc
  deriving DecidableEq, Repr

structure VExt where
  ty : Ty
  d : BitVec 6
  a : VReg
  b : GSrc
  deriving DecidableEq, Repr

/-! ### FP64 operands (R236 to R240) -/

structure FBin where
  rm : Rnd
  d : BitVec 6
  a : FSrc
  b : FSrc
  deriving DecidableEq, Repr

structure FUn where
  rm : Rnd
  d : BitVec 6
  a : FSrc
  deriving DecidableEq, Repr

structure FTri where
  rm : Rnd
  d : BitVec 6
  a : FSrc
  b : FSrc
  c : BitVec 6
  deriving DecidableEq, Repr

structure FCmp where
  d : BitVec 3
  a : FSrc
  b : FSrc
  deriving DecidableEq, Repr

structure FCvt where
  src : Ty
  ty : Ty
  rm : Rnd
  d : BitVec 6
  a : FSrc
  deriving DecidableEq, Repr

/-! ### Matrix operands (R243 to R255); `acc` is bit [12]: false a0, true a1 -/

structure MatAcc where
  acc : Bool
  deriving DecidableEq, Repr

structure MatRow where
  acc : Bool
  row : BitVec 4
  d : BitVec 5
  deriving DecidableEq, Repr

structure MatWRow where
  acc : Bool
  row : BitVec 4
  a : VReg
  deriving DecidableEq, Repr

structure GReg2 where
  a : GReg
  b : GReg
  deriving DecidableEq, Repr

structure GSrc2 where
  a : GSrc
  b : GSrc
  deriving DecidableEq, Repr

structure MmaOp where
  ta : Ty
  tb : Ty
  acc : Bool
  nkb : BitVec 12
  deriving DecidableEq, Repr

structure MdrainOp where
  ty : Ty
  rm : Rnd
  acc : Bool
  a : GReg
  b : GReg
  vr : BitVec 5
  vc : BitVec 5
  nos : Bool
  zero : Bool
  deriving DecidableEq, Repr

/-! ### Memory operands (R260 to R278); `a` and `disp` form the effective address -/

structure MemLd where
  ty : Ty
  d : BitVec 6
  a : GReg
  disp : BitVec 14
  deriving DecidableEq, Repr

structure MemLdV where
  ty : Ty
  d : BitVec 5
  a : GReg
  disp : BitVec 14
  deriving DecidableEq, Repr

structure MemSt where
  ty : Ty
  a : GReg
  disp : BitVec 14
  b : GSrc
  deriving DecidableEq, Repr

structure MemStV where
  ty : Ty
  a : GReg
  disp : BitVec 14
  b : VReg
  deriving DecidableEq, Repr

/-- An acquire load; `s` is the scope field (R261). -/
structure MemLdS where
  ty : Ty
  d : BitVec 6
  a : GReg
  disp : BitVec 14
  s : BitVec 6
  deriving DecidableEq, Repr

structure MemStS where
  ty : Ty
  a : GReg
  disp : BitVec 14
  b : GSrc
  s : BitVec 6
  deriving DecidableEq, Repr

structure Gather where
  ty : Ty
  d : BitVec 5
  a : GReg
  disp : BitVec 14
  idx : VReg
  deriving DecidableEq, Repr

structure Scatter where
  ty : Ty
  a : GReg
  disp : BitVec 14
  idx : VReg
  data : BitVec 5
  deriving DecidableEq, Repr

structure Prefetch where
  a : GReg
  disp : BitVec 14
  deriving DecidableEq, Repr

/-- A single-address atomic (R269); `ar` is the `.ar` bit. -/
structure Amo where
  ar : Bool
  ty : Ty
  d : BitVec 6
  a : GReg
  disp : BitVec 14
  b : GSrc
  s : BitVec 6
  deriving DecidableEq, Repr

/-- The operand of a reduction (R270). -/
inductive RedSrc
  | g (b : GSrc)
  | v (b : VReg)
  deriving DecidableEq, Repr

structure Red where
  ty : Ty
  a : GReg
  disp : BitVec 14
  b : RedSrc
  deriving DecidableEq, Repr

/-- A two-address operation (R271): first address `a`, second base `a2`. -/
structure Amo2 where
  ty : Ty
  d : BitVec 6
  a : GReg
  a2 : BitVec 6
  b : GSrc
  s : BitVec 6
  deriving DecidableEq, Repr

structure Amove where
  ty : Ty
  d : BitVec 6
  a : GReg
  a2 : BitVec 6
  s : BitVec 6
  deriving DecidableEq, Repr

structure FenceS where
  s : BitVec 6
  deriving DecidableEq, Repr

structure WaitAddr where
  ty : Ty
  d : BitVec 6
  a : GReg
  disp : BitVec 14
  b : GSrc
  t : BitVec 6
  deriving DecidableEq, Repr

structure EvSig where
  n : BitVec 4
  b : GSrc
  deriving DecidableEq, Repr

structure EvWait where
  d : BitVec 6
  n : BitVec 4
  b : GSrc
  t : BitVec 6
  deriving DecidableEq, Repr

structure Send where
  r : GReg
  b : GSrc
  tag : BitVec 14
  deriving DecidableEq, Repr

structure SendV where
  r : GReg
  b : VReg
  tag : BitVec 14
  deriving DecidableEq, Repr

structure SendRel where
  r : GReg
  b : GSrc
  tag : BitVec 14
  s : BitVec 6
  deriving DecidableEq, Repr

structure Recv where
  d : BitVec 6
  src : GReg
  m : BitVec 6
  deriving DecidableEq, Repr

structure RecvV where
  d : BitVec 5
  src : GReg
  m : BitVec 6
  deriving DecidableEq, Repr

structure RecvAny where
  d : BitVec 6
  m : BitVec 6
  deriving DecidableEq, Repr

structure RecvVAny where
  d : BitVec 5
  m : BitVec 6
  deriving DecidableEq, Repr

structure BarOp where
  d : BitVec 6
  id : BitVec 4
  s : BitVec 6
  deriving DecidableEq, Repr

structure DstG where
  d : BitVec 6
  deriving DecidableEq, Repr

/-! ### Engine operands (R279 to R297) -/

/-- `fork` (R282): an absent program is `none`, and its handle field is then 0. -/
structure ForkOp where
  hm : BitVec 4
  hc : BitVec 4
  gm : Option GReg
  gc : Option GReg
  deriving DecidableEq, Repr

structure Rdv where
  mask : BitVec 16
  deriving DecidableEq, Repr

structure HRd where
  d : BitVec 6
  hs : BitVec 4
  deriving DecidableEq, Repr

structure HPass where
  hs : BitVec 4
  r : GReg
  hd : BitVec 4
  deriving DecidableEq, Repr

structure HOp where
  h : BitVec 4
  deriving DecidableEq, Repr

structure Cpy where
  h : BitVec 4
  q : BitVec 2
  dst : GReg
  src : GReg
  len : BitVec 6
  deriving DecidableEq, Repr

structure CpyB where
  h : BitVec 4
  q : BitVec 2
  src : GReg
  b : GReg
  deriving DecidableEq, Repr

structure QFence where
  mask : BitVec 8
  deriving DecidableEq, Repr

/-- Kinds of collective (R292). -/
inductive CollKind
  | bcast | allreduce | reduce | allgather | redscat | barrier
  deriving DecidableEq, Repr

inductive CollOp
  | sum | max | min
  deriving DecidableEq, Repr

/-- Orders of a floating-point sum (R293): code 0, 1, 2. -/
inductive CollOrder
  | any | tree | canonical
  deriving DecidableEq, Repr

structure Coll where
  h : BitVec 4
  a : GReg
  kind : CollKind
  op : CollOp
  ty : Ty
  order : CollOrder
  deriving DecidableEq, Repr

structure Contend where
  h : BitVec 4
  a : GSrc
  lane : BitVec 4
  id : BitVec 8
  deriving DecidableEq, Repr

structure AfClaim where
  h : BitVec 4
  die : Bool
  np : BitVec 7
  deriving DecidableEq, Repr

structure AfA where
  h : BitVec 4
  a : GReg
  deriving DecidableEq, Repr

structure AfScale where
  a : GReg
  b : GSrc
  deriving DecidableEq, Repr

structure AfSample where
  h : BitVec 4
  a : GReg
  b : GReg
  cnt : BitVec 7
  deriving DecidableEq, Repr

/-! ### Privileged operands (R299, R335, R343, R344, R376, R377) -/

structure CtxSave where
  d : BitVec 6
  a : GReg
  b : GReg
  full : Bool
  slot : BitVec 2
  deriving DecidableEq, Repr

structure CtxLoad where
  d : BitVec 6
  a : GReg
  b : GReg
  data : Bool
  own : Bool
  slot : BitVec 2
  deriving DecidableEq, Repr

structure Fret where
  d : BitVec 6
  a : GReg
  slot : BitVec 2
  deriving DecidableEq, Repr

structure TlbWr where
  d : BitVec 6
  a : BitVec 6
  b : BitVec 6
  dest : BitVec 2
  gen : BitVec 3
  c : BitVec 7
  deriving DecidableEq, Repr

structure TlbInv where
  d : BitVec 6
  a : BitVec 6
  b : BitVec 6
  kind : BitVec 2
  reach : BitVec 2
  deriving DecidableEq, Repr

structure Mseal where
  d : BitVec 6
  a : GReg
  b : GReg
  deriving DecidableEq, Repr

/-! ### Names used by the steps that have no encoding (rows 297 to 371) -/

/-- A context identifier (R332). -/
abbrev CtxId := Nat
/-- A region identifier. -/
abbrev RegionId := Nat
/-- A user cell of the package: frame × 8,192 + frame cell index (R16). -/
abbrev CellId := Nat
/-- A comb of the package: frame × 64 + comb index (R16). -/
abbrev CombId := Nat

/-- Homes of addresses (R83); `hbm` names frame and pseudo-channel, `remote` another
package by the import index of its pages. -/
inductive Home
  | cell (i : CellId)
  | vault (k : CombId)
  | hbm (frame : Nat) (slice : Nat)
  | cxl (port : Nat)
  | host (ep : Nat)
  | event (k : CombId)
  | remote (unit : Nat)
  | service (n : Nat)
  deriving DecidableEq, Repr

/-- Sources of messages (R82). -/
inductive Source
  | ctx (c : CtxId)
  | engine (c : CtxId) (q : Nat)
  | wcb (c : CtxId)
  | hub (ep : Nat)
  | fabric (die : Nat)
  deriving DecidableEq, Repr

/-- A firmware image (R379): the hash of the public key that it comes with, its version, its contents and its signature. -/
structure Image where
  keyHash : Nat
  version : Nat
  body : Nat
  signature : Nat
  deriving DecidableEq, Repr

/-- What a bring-up meets (R366, R379): a stage that fails before the images are read, or the images of package and comb
firmware. -/
inductive BringUp
  | fuse | link | fabric
  | images (pkg comb : Image)
  deriving DecidableEq, Repr

/-- What a patrol scrub read of one HBM sector found (R378). -/
inductive ScrubResult
  | clean | corrected | uncorrectable
  deriving DecidableEq, Repr

/-- What the sensors and activity estimates report for one budget interval (R367, R369), in mW and °C. -/
structure BudgetInput where
  hub : Nat
  hbm : Nat
  cf : Nat
  demands : List (CellId × Nat)
  temps : List (CombId × Nat)
  deriving DecidableEq, Repr, Inhabited

/-- One member of a collective group (R365): package, frame and root region. -/
structure GroupMember where
  pkg : Nat
  frame : Nat
  region : RegionId
  deriving DecidableEq, Repr

/-- A collective group as firmware creates it (R365), with its partition (R350); T_g is in µs (R161). -/
structure GroupDef where
  id : Nat
  partition : Nat
  members : List GroupMember
  tg : Nat
  deriving DecidableEq, Repr

/-- The instructions and steps of the H8: one constructor for each row of the opcode table. -/
inductive Instr
  /-- no effect (R190) -/
  | nop (h : Hdr)
  /-- a + b (R194) -/
  | add (h : Hdr) (o : GBin)
  /-- a - b (R194) -/
  | sub (h : Hdr) (o : GBin)
  /-- -a (R194) -/
  | neg (h : Hdr) (o : GUn)
  /-- |a| for signed types, a for unsigned types (R194) -/
  | abs (h : Hdr) (o : GUn)
  /-- a + b, clamped (R194) -/
  | adds (h : Hdr) (o : GBin)
  /-- a - b, clamped (R194) -/
  | subs (h : Hdr) (o : GBin)
  /-- a + b + c (R194) -/
  | add3 (h : Hdr) (o : GTri)
  /-- a AND b (R195) -/
  | and (h : Hdr) (o : GBin)
  /-- a OR b (R195) -/
  | or (h : Hdr) (o : GBin)
  /-- a XOR b (R195) -/
  | xor (h : Hdr) (o : GBin)
  /-- a AND NOT b (R195) -/
  | andn (h : Hdr) (o : GBin)
  /-- a OR NOT b (R195) -/
  | orn (h : Hdr) (o : GBin)
  /-- NOT (a XOR b) (R195) -/
  | xnor (h : Hdr) (o : GBin)
  /-- NOT a (R195) -/
  | not (h : Hdr) (o : GUn)
  /-- shift left (R196) -/
  | shl (h : Hdr) (o : GBin)
  /-- logical shift right (R196) -/
  | shr (h : Hdr) (o : GBin)
  /-- arithmetic shift right (R196) -/
  | sar (h : Hdr) (o : GBin)
  /-- rotate left (R196) -/
  | rol (h : Hdr) (o : GBin)
  /-- rotate right (R196) -/
  | ror (h : Hdr) (o : GBin)
  /-- a * b (R197) -/
  | mul (h : Hdr) (o : GBin)
  /-- high half of the product (R197) -/
  | mulh (h : Hdr) (o : GBin)
  /-- a * b + c (R197) -/
  | mad (h : Hdr) (o : GTri)
  /-- quotient truncated toward zero (R198) -/
  | div (h : Hdr) (o : GBin)
  /-- remainder (R198) -/
  | rem (h : Hdr) (o : GBin)
  /-- a = b (R199) -/
  | ceq (h : Hdr) (o : MCmp)
  /-- a /= b (R199) -/
  | cne (h : Hdr) (o : MCmp)
  /-- a < b (R199) -/
  | clt (h : Hdr) (o : MCmp)
  /-- a <= b (R199) -/
  | cle (h : Hdr) (o : MCmp)
  /-- a > b (R199) -/
  | cgt (h : Hdr) (o : MCmp)
  /-- a >= b (R199) -/
  | cge (h : Hdr) (o : MCmp)
  /-- (a AND b) /= 0 (R199) -/
  | ctst (h : Hdr) (o : MCmp)
  /-- (a AND b) = 0 (R199) -/
  | ctstz (h : Hdr) (o : MCmp)
  /-- a or b by bit 0 of a mask (R200) -/
  | sel (h : Hdr) (o : GSel)
  /-- a when c = 0, else b (R200) -/
  | selz (h : Hdr) (o : GTri)
  /-- number of one bits (R201) -/
  | popc (h : Hdr) (o : GUn)
  /-- leading zeros (R201) -/
  | clz (h : Hdr) (o : GUn)
  /-- trailing zeros (R201) -/
  | ctz (h : Hdr) (o : GUn)
  /-- bits reversed (R201) -/
  | brev (h : Hdr) (o : GUn)
  /-- bytes reversed (R201) -/
  | bswap (h : Hdr) (o : GUn)
  /-- bit field of a (R201) -/
  | bext (h : Hdr) (o : GBin)
  /-- a with a bit field replaced by c (R201) -/
  | bins (h : Hdr) (o : GTri)
  /-- minimum (R202) -/
  | min (h : Hdr) (o : GBin)
  /-- maximum (R202) -/
  | max (h : Hdr) (o : GBin)
  /-- min(max(a, b), c) (R202) -/
  | clamp (h : Hdr) (o : GTri)
  /-- a + b + c (R203) -/
  | lea (h : Hdr) (o : GTri)
  /-- frame cell window address (R203) -/
  | lcell (h : Hdr) (o : GBin)
  /-- vault window slice address (R203) -/
  | lslice (h : Hdr) (o : GBin)
  /-- a + imm (R204) -/
  | addImm (h : Hdr) (o : GImm)
  /-- a - imm (R204) -/
  | subImm (h : Hdr) (o : GImm)
  /-- a + imm, clamped (R204) -/
  | addsImm (h : Hdr) (o : GImm)
  /-- a - imm, clamped (R204) -/
  | subsImm (h : Hdr) (o : GImm)
  /-- imm - a (R204) -/
  | rsub (h : Hdr) (o : GImm)
  /-- a AND imm (R204) -/
  | andImm (h : Hdr) (o : GImm)
  /-- a OR imm (R204) -/
  | orImm (h : Hdr) (o : GImm)
  /-- a XOR imm (R204) -/
  | xorImm (h : Hdr) (o : GImm)
  /-- a AND NOT imm (R204) -/
  | andnImm (h : Hdr) (o : GImm)
  /-- a OR NOT imm (R204) -/
  | ornImm (h : Hdr) (o : GImm)
  /-- NOT (a XOR imm) (R204) -/
  | xnorImm (h : Hdr) (o : GImm)
  /-- shift left by imm (R204) -/
  | shlImm (h : Hdr) (o : GImm)
  /-- logical shift right by imm (R204) -/
  | shrImm (h : Hdr) (o : GImm)
  /-- arithmetic shift right by imm (R204) -/
  | sarImm (h : Hdr) (o : GImm)
  /-- rotate left by imm (R204) -/
  | rolImm (h : Hdr) (o : GImm)
  /-- rotate right by imm (R204) -/
  | rorImm (h : Hdr) (o : GImm)
  /-- a = imm (R204) -/
  | ceqImm (h : Hdr) (o : MImm)
  /-- a /= imm (R204) -/
  | cneImm (h : Hdr) (o : MImm)
  /-- a < imm (R204) -/
  | cltImm (h : Hdr) (o : MImm)
  /-- a <= imm (R204) -/
  | cleImm (h : Hdr) (o : MImm)
  /-- a > imm (R204) -/
  | cgtImm (h : Hdr) (o : MImm)
  /-- a >= imm (R204) -/
  | cgeImm (h : Hdr) (o : MImm)
  /-- (a AND imm) /= 0 (R204) -/
  | ctstImm (h : Hdr) (o : MImm)
  /-- (a AND imm) = 0 (R204) -/
  | ctstzImm (h : Hdr) (o : MImm)
  /-- sign-extended immediate (R205) -/
  | movi (h : Hdr) (o : GMovI)
  /-- zero-extended immediate (R205) -/
  | movzi (h : Hdr) (o : GMovI)
  /-- immediate into bits [63:32] (R205) -/
  | movhi (h : Hdr) (o : GMovI)
  /-- a + imm (R206) -/
  | leai (h : Hdr) (o : GImm)
  /-- address relative to the own slot (R206) -/
  | leapc (h : Hdr) (o : GMovI)
  /-- relative branch (R208) -/
  | br (h : Hdr) (o : BRel)
  /-- branch when a = 0 (R208) -/
  | bz (h : Hdr) (o : BCond)
  /-- branch when a /= 0 (R208) -/
  | bnz (h : Hdr) (o : BCond)
  /-- branch when a < 0 (R208) -/
  | blz (h : Hdr) (o : BCond)
  /-- branch when a >= 0 (R208) -/
  | bgez (h : Hdr) (o : BCond)
  /-- indirect jump (R208) -/
  | jr (h : Hdr) (o : BReg)
  /-- relative call (R209) -/
  | call (h : Hdr) (o : BRel)
  /-- indirect call (R209) -/
  | callr (h : Hdr) (o : BReg)
  /-- return to lk (R209) -/
  | ret (h : Hdr)
  /-- counted loop (R210) -/
  | loop (h : Hdr) (o : BLoop)
  /-- leave the innermost loop (R211) -/
  | lbrk (h : Hdr)
  /-- detach a gang follower (R213) -/
  | gdet (h : Hdr)
  /-- gang barrier (R213) -/
  | gjoin (h : Hdr)
  /-- read a state register (R214) -/
  | srrd (h : Hdr) (o : SrRd)
  /-- write a state register (R214) -/
  | srwr (h : Hdr) (o : SrWr)
  /-- write a state register from an immediate (R214) -/
  | srwri (h : Hdr) (o : SrWrI)
  /-- user trap (R216) -/
  | trap (h : Hdr) (o : TrapOp)
  /-- end the program (R216) -/
  | halt (h : Hdr)
  /-- lane a + b (R219) -/
  | vaddInt (h : Hdr) (o : VBin)
  /-- lane a - b (R219) -/
  | vsubInt (h : Hdr) (o : VBin)
  /-- lane -a (R219) -/
  | vnegInt (h : Hdr) (o : VUn)
  /-- lane absolute value (R219) -/
  | vabsInt (h : Hdr) (o : VUn)
  /-- lane a + b, clamped (R219) -/
  | vadds (h : Hdr) (o : VBin)
  /-- lane a - b, clamped (R219) -/
  | vsubs (h : Hdr) (o : VBin)
  /-- lane a * b (R219) -/
  | vmulInt (h : Hdr) (o : VBin)
  /-- lane high half of the product (R219) -/
  | vmulh (h : Hdr) (o : VBin)
  /-- lane a * b + c (R219) -/
  | vmad (h : Hdr) (o : VTri)
  /-- lane minimum (R219) -/
  | vminInt (h : Hdr) (o : VBin)
  /-- lane maximum (R219) -/
  | vmaxInt (h : Hdr) (o : VBin)
  /-- lane AND (R220) -/
  | vand (h : Hdr) (o : VBin)
  /-- lane OR (R220) -/
  | vor (h : Hdr) (o : VBin)
  /-- lane XOR (R220) -/
  | vxor (h : Hdr) (o : VBin)
  /-- lane a AND NOT b (R220) -/
  | vandn (h : Hdr) (o : VBin)
  /-- lane NOT (R220) -/
  | vnot (h : Hdr) (o : VUn)
  /-- lane shift left (R220) -/
  | vshl (h : Hdr) (o : VBin)
  /-- lane logical shift right (R220) -/
  | vshr (h : Hdr) (o : VBin)
  /-- lane arithmetic shift right (R220) -/
  | vsar (h : Hdr) (o : VBin)
  /-- lane a = b (R221) -/
  | vceq (h : Hdr) (o : VCmp)
  /-- lane a /= b (R221) -/
  | vcne (h : Hdr) (o : VCmp)
  /-- lane a < b (R221) -/
  | vclt (h : Hdr) (o : VCmp)
  /-- lane a <= b (R221) -/
  | vcle (h : Hdr) (o : VCmp)
  /-- lane a > b (R221) -/
  | vcgt (h : Hdr) (o : VCmp)
  /-- lane a >= b (R221) -/
  | vcge (h : Hdr) (o : VCmp)
  /-- lane select by a mask (R221) -/
  | vsel (h : Hdr) (o : VSel)
  /-- mask AND (R222) -/
  | mand (h : Hdr) (o : MBin)
  /-- mask OR (R222) -/
  | mor (h : Hdr) (o : MBin)
  /-- mask XOR (R222) -/
  | mxor (h : Hdr) (o : MBin)
  /-- mask a AND NOT b (R222) -/
  | mandn (h : Hdr) (o : MBin)
  /-- mask NOT (R222) -/
  | mnot (h : Hdr) (o : MUn)
  /-- number of set mask bits (R222) -/
  | mpopc (h : Hdr) (o : MToG)
  /-- lowest set mask bit (R222) -/
  | mfirst (h : Hdr) (o : MToG)
  /-- g into mask (R222) -/
  | mfromg (h : Hdr) (o : MFromG)
  /-- mask into g (R222) -/
  | mtog (h : Hdr) (o : MToG)
  /-- broadcast an immediate (R223) -/
  | vbcsti (h : Hdr) (o : VBcstI)
  /-- broadcast a g register (R223) -/
  | vbcst (h : Hdr) (o : VBcst)
  /-- lane a + b (R224) -/
  | vaddFp (h : Hdr) (o : VFBin)
  /-- lane a - b (R224) -/
  | vsubFp (h : Hdr) (o : VFBin)
  /-- lane a * b (R224) -/
  | vmulFp (h : Hdr) (o : VFBin)
  /-- lane minimum (R224) -/
  | vminFp (h : Hdr) (o : VFBin)
  /-- lane maximum (R224) -/
  | vmaxFp (h : Hdr) (o : VFBin)
  /-- lane sign cleared (R224) -/
  | vabsFp (h : Hdr) (o : VFUn)
  /-- lane sign inverted (R224) -/
  | vnegFp (h : Hdr) (o : VFUn)
  /-- lane a * b + c (R225) -/
  | vfma (h : Hdr) (o : VFTri)
  /-- lane a * b - c (R225) -/
  | vfms (h : Hdr) (o : VFTri)
  /-- lane -(a * b) + c (R225) -/
  | vfnma (h : Hdr) (o : VFTri)
  /-- lane -(a * b) - c (R225) -/
  | vfnms (h : Hdr) (o : VFTri)
  /-- lane a / b (R226) -/
  | vdiv (h : Hdr) (o : VFBin)
  /-- lane square root (R226) -/
  | vsqrt (h : Hdr) (o : VFUn)
  /-- lane e^a (R226) -/
  | vexp (h : Hdr) (o : VFUn)
  /-- lane ln a (R226) -/
  | vlog (h : Hdr) (o : VFUn)
  /-- lane 2^a (R226) -/
  | vexp2 (h : Hdr) (o : VFUn)
  /-- lane log2 a (R226) -/
  | vlog2 (h : Hdr) (o : VFUn)
  /-- lane tanh a (R226) -/
  | vtanh (h : Hdr) (o : VFUn)
  /-- estimate of 1 / a (R227) -/
  | vrcpe (h : Hdr) (o : VFUn)
  /-- estimate of 1 / sqrt a (R227) -/
  | vrsqrte (h : Hdr) (o : VFUn)
  /-- estimate of e^a (R227) -/
  | vexpe (h : Hdr) (o : VFUn)
  /-- estimate of ln a (R227) -/
  | vloge (h : Hdr) (o : VFUn)
  /-- estimate of tanh a (R227) -/
  | vtanhe (h : Hdr) (o : VFUn)
  /-- estimate of the sigmoid (R227) -/
  | vsigme (h : Hdr) (o : VFUn)
  /-- lane conversion (R228) -/
  | vcvt (h : Hdr) (o : VCvt)
  /-- exponent pair of a block (R229) -/
  | vbfpx (h : Hdr) (o : Vbfpx)
  /-- encode a block, or its low half (R230) -/
  | vbfpe (h : Hdr) (o : Vbfpe)
  /-- encode a block into the high half (R230) -/
  | vbfpeHi (h : Hdr) (o : Vbfpe)
  /-- decode eight elements (R231) -/
  | vbfpd (h : Hdr) (o : Vbfpd)
  /-- permute lanes (R232) -/
  | vperm (h : Hdr) (o : VBin)
  /-- permute lanes of two registers (R232) -/
  | vperm2 (h : Hdr) (o : VTri)
  /-- slide lanes (R232) -/
  | vslide (h : Hdr) (o : VSlide)
  /-- interleave low halves (R232) -/
  | vzipl (h : Hdr) (o : VBin)
  /-- interleave high halves (R232) -/
  | vziph (h : Hdr) (o : VBin)
  /-- even lanes (R232) -/
  | vuzpe (h : Hdr) (o : VBin)
  /-- odd lanes (R232) -/
  | vuzpo (h : Hdr) (o : VBin)
  /-- lane sum (R233) -/
  | vrsum (h : Hdr) (o : VRed)
  /-- lane minimum (R233) -/
  | vrmin (h : Hdr) (o : VRed)
  /-- lane maximum (R233) -/
  | vrmax (h : Hdr) (o : VRed)
  /-- AND of the lanes (R233) -/
  | vrand (h : Hdr) (o : VRed)
  /-- OR of the lanes (R233) -/
  | vror (h : Hdr) (o : VRed)
  /-- hive mix word (R234) -/
  | rng (h : Hdr) (o : RngOp)
  /-- hive mix words into lanes (R234) -/
  | vrng (h : Hdr) (o : VRngOp)
  /-- g into one lane (R235) -/
  | vins (h : Hdr) (o : VIns)
  /-- one lane into g (R235) -/
  | vext (h : Hdr) (o : VExt)
  /-- copy lanes (R235) -/
  | vmov (h : Hdr) (o : VUn)
  /-- FP64 a + b (R237) -/
  | fadd (h : Hdr) (o : FBin)
  /-- FP64 a - b (R237) -/
  | fsub (h : Hdr) (o : FBin)
  /-- FP64 a * b (R237) -/
  | fmul (h : Hdr) (o : FBin)
  /-- FP64 minimum (R237) -/
  | fmin (h : Hdr) (o : FBin)
  /-- FP64 maximum (R237) -/
  | fmax (h : Hdr) (o : FBin)
  /-- FP64 sign cleared (R237) -/
  | fabs (h : Hdr) (o : FUn)
  /-- FP64 sign inverted (R237) -/
  | fneg (h : Hdr) (o : FUn)
  /-- FP64 a * b + c (R238) -/
  | ffma (h : Hdr) (o : FTri)
  /-- FP64 a * b - c (R238) -/
  | ffms (h : Hdr) (o : FTri)
  /-- FP64 -(a * b) + c (R238) -/
  | ffnma (h : Hdr) (o : FTri)
  /-- FP64 -(a * b) - c (R238) -/
  | ffnms (h : Hdr) (o : FTri)
  /-- FP64 a / b (R239) -/
  | fdiv (h : Hdr) (o : FBin)
  /-- FP64 square root (R239) -/
  | fsqrt (h : Hdr) (o : FUn)
  /-- FP64 e^a (R239) -/
  | fexp (h : Hdr) (o : FUn)
  /-- FP64 ln a (R239) -/
  | flog (h : Hdr) (o : FUn)
  /-- FP64 2^a (R239) -/
  | fexp2 (h : Hdr) (o : FUn)
  /-- FP64 log2 a (R239) -/
  | flog2 (h : Hdr) (o : FUn)
  /-- FP64 a = b (R240) -/
  | fceq (h : Hdr) (o : FCmp)
  /-- FP64 a /= b (R240) -/
  | fcne (h : Hdr) (o : FCmp)
  /-- FP64 a < b (R240) -/
  | fclt (h : Hdr) (o : FCmp)
  /-- FP64 a <= b (R240) -/
  | fcle (h : Hdr) (o : FCmp)
  /-- FP64 a > b (R240) -/
  | fcgt (h : Hdr) (o : FCmp)
  /-- FP64 a >= b (R240) -/
  | fcge (h : Hdr) (o : FCmp)
  /-- conversion to or from FP64 (R240) -/
  | fcvt (h : Hdr) (o : FCvt)
  /-- clear an accumulator (R244) -/
  | mzero (h : Hdr) (o : MatAcc)
  /-- read an accumulator row (R244) -/
  | mrdrow (h : Hdr) (o : MatRow)
  /-- write an accumulator row (R244) -/
  | mwrrow (h : Hdr) (o : MatWRow)
  /-- copy the other accumulator (R244) -/
  | mmov (h : Hdr) (o : MatAcc)
  /-- select A and its strides (R245) -/
  | masel (h : Hdr) (o : GReg2)
  /-- select the A exponents (R245) -/
  | masx (h : Hdr) (o : BReg)
  /-- select B and its exponents (R245) -/
  | mbsel (h : Hdr) (o : GSrc2)
  /-- multiply-accumulate K blocks (R250) -/
  | mma (h : Hdr) (o : MmaOp)
  /-- scale, convert and store an accumulator (R256) -/
  | mdrain (h : Hdr) (o : MdrainOp)
  /-- plain load (R263) -/
  | ld (h : Hdr) (o : MemLd)
  /-- vector load (R263) -/
  | ldv (h : Hdr) (o : MemLdV)
  /-- load and broadcast (R263) -/
  | ldvb (h : Hdr) (o : MemLdV)
  /-- plain store (R263) -/
  | st (h : Hdr) (o : MemSt)
  /-- vector store (R263) -/
  | stv (h : Hdr) (o : MemStV)
  /-- decoding load (R264) -/
  | ldf (h : Hdr) (o : MemLd)
  /-- decoding load of the high nibble (R264) -/
  | ldfh (h : Hdr) (o : MemLd)
  /-- decoding vector load (R264) -/
  | ldfv (h : Hdr) (o : MemLdV)
  /-- raw load (R264) -/
  | ldr (h : Hdr) (o : MemLd)
  /-- raw vector load (R264) -/
  | ldrv (h : Hdr) (o : MemLdV)
  /-- companion bytes (R264) -/
  | ldrx (h : Hdr) (o : MemLd)
  /-- acquire load (R265) -/
  | ldAcq (h : Hdr) (o : MemLdS)
  /-- release store (R265) -/
  | stRel (h : Hdr) (o : MemStS)
  /-- streaming store (R266) -/
  | sts (h : Hdr) (o : MemSt)
  /-- streaming vector store (R266) -/
  | stsv (h : Hdr) (o : MemStV)
  /-- gather (R267) -/
  | vgather (h : Hdr) (o : Gather)
  /-- scatter (R267) -/
  | vscatter (h : Hdr) (o : Scatter)
  /-- TLB prefetch (R268) -/
  | pft (h : Hdr) (o : Prefetch)
  /-- home prefetch (R268) -/
  | pfh (h : Hdr) (o : Prefetch)
  /-- atomic swap (R269) -/
  | amoSwap (h : Hdr) (o : Amo)
  /-- atomic add (R269) -/
  | amoAdd (h : Hdr) (o : Amo)
  /-- atomic and (R269) -/
  | amoAnd (h : Hdr) (o : Amo)
  /-- atomic or (R269) -/
  | amoOr (h : Hdr) (o : Amo)
  /-- atomic xor (R269) -/
  | amoXor (h : Hdr) (o : Amo)
  /-- atomic min (R269) -/
  | amoMin (h : Hdr) (o : Amo)
  /-- atomic max (R269) -/
  | amoMax (h : Hdr) (o : Amo)
  /-- atomic cas (R269) -/
  | cas (h : Hdr) (o : Amo)
  /-- posted reduction add (R270) -/
  | redAdd (h : Hdr) (o : Red)
  /-- posted reduction and (R270) -/
  | redAnd (h : Hdr) (o : Red)
  /-- posted reduction or (R270) -/
  | redOr (h : Hdr) (o : Red)
  /-- posted reduction xor (R270) -/
  | redXor (h : Hdr) (o : Red)
  /-- posted reduction min (R270) -/
  | redMin (h : Hdr) (o : Red)
  /-- posted reduction max (R270) -/
  | redMax (h : Hdr) (o : Red)
  /-- two-address swap (R271) -/
  | amo2Swap (h : Hdr) (o : Amo2)
  /-- two-address add (R271) -/
  | amo2Add (h : Hdr) (o : Amo2)
  /-- two-address and (R271) -/
  | amo2And (h : Hdr) (o : Amo2)
  /-- two-address or (R271) -/
  | amo2Or (h : Hdr) (o : Amo2)
  /-- two-address xor (R271) -/
  | amo2Xor (h : Hdr) (o : Amo2)
  /-- double compare and swap (R271) -/
  | dcas (h : Hdr) (o : Amo2)
  /-- move the second word into the first and clear the second (R271) -/
  | amove (h : Hdr) (o : Amove)
  /-- acquire fence (R272) -/
  | fenceAcq (h : Hdr)
  /-- release fence (R272) -/
  | fenceRel (h : Hdr) (o : FenceS)
  /-- full fence (R272) -/
  | fenceFull (h : Hdr) (o : FenceS)
  /-- wait on an address (R274) -/
  | waitaddr (h : Hdr) (o : WaitAddr)
  /-- add to an event counter (R275) -/
  | evsig (h : Hdr) (o : EvSig)
  /-- wait on an event counter (R275) -/
  | evwait (h : Hdr) (o : EvWait)
  /-- send 8 bytes (R277) -/
  | send (h : Hdr) (o : Send)
  /-- send 32 bytes (R277) -/
  | sendv (h : Hdr) (o : SendV)
  /-- send 8 bytes after a release (R277) -/
  | sendRel (h : Hdr) (o : SendRel)
  /-- receive 8 bytes (R277) -/
  | recv (h : Hdr) (o : Recv)
  /-- receive 32 bytes (R277) -/
  | recvv (h : Hdr) (o : RecvV)
  /-- receive 8 bytes from any source (R277) -/
  | recvAny (h : Hdr) (o : RecvAny)
  /-- receive 32 bytes from any source (R277) -/
  | recvvAny (h : Hdr) (o : RecvVAny)
  /-- join the superstep barrier (R278) -/
  | sstep (h : Hdr)
  /-- join a scoped barrier (R278) -/
  | bar (h : Hdr) (o : BarOp)
  /-- forager probe (R278) -/
  | fprobe (h : Hdr) (o : DstG)
  /-- start engine programs (R282) -/
  | fork (h : Hdr) (o : ForkOp)
  /-- rendezvous on handles (R282) -/
  | rdv (h : Hdr) (o : Rdv)
  /-- wait for a handle, result word (R282) -/
  | hwait (h : Hdr) (o : HRd)
  /-- wait for a handle, detail word (R282) -/
  | hdet (h : Hdr) (o : HRd)
  /-- state of a handle (R284) -/
  | htest (h : Hdr) (o : HRd)
  /-- pass a handle (R285) -/
  | hpass (h : Hdr) (o : HPass)
  /-- cancel a handle (R286) -/
  | hcancel (h : Hdr) (o : HOp)
  /-- raw copy (R288) -/
  | cpy (h : Hdr) (o : Cpy)
  /-- format-aware copy (R288) -/
  | cpyf (h : Hdr) (o : Cpy)
  /-- stage a B panel (R290) -/
  | cpyb (h : Hdr) (o : CpyB)
  /-- fence of engine queues (R98) -/
  | qfence (h : Hdr) (o : QFence)
  /-- collective (R291) -/
  | coll (h : Hdr) (o : Coll)
  /-- contest (R296) -/
  | contend (h : Hdr) (o : Contend)
  /-- claim patches (R297) -/
  | afclaim (h : Hdr) (o : AfClaim)
  /-- calibrate (R297) -/
  | afcal (h : Hdr) (o : HOp)
  /-- load a configuration table (R297) -/
  | afcfg (h : Hdr) (o : AfA)
  /-- declare scales (R297) -/
  | afscale (h : Hdr) (o : AfScale)
  /-- run (R297) -/
  | afrun (h : Hdr) (o : HOp)
  /-- settle (R297) -/
  | afsettle (h : Hdr) (o : AfA)
  /-- sample integrators (R297) -/
  | afsample (h : Hdr) (o : AfSample)
  /-- stop (R297) -/
  | afstop (h : Hdr) (o : HOp)
  /-- release the claim (R297) -/
  | afrel (h : Hdr) (o : HOp)
  /-- save a context (R335) -/
  | ctxsave (h : Hdr) (o : CtxSave)
  /-- load a context (R335) -/
  | ctxload (h : Hdr) (o : CtxLoad)
  /-- send a mesh interrupt (R335) -/
  | mint (h : Hdr) (o : GReg2)
  /-- mark a parked slot ready (R335) -/
  | fret (h : Hdr) (o : Fret)
  /-- write a TLB entry (R343) -/
  | tlbwr (h : Hdr) (o : TlbWr)
  /-- invalidate TLB entries (R344) -/
  | tlbinv (h : Hdr) (o : TlbInv)
  /-- fire the snapshot trigger (R376) -/
  | snap (h : Hdr) (o : DstG)
  /-- seal a meter block (R377) -/
  | mseal (h : Hdr) (o : Mseal)
  /-- the oldest operation of IQ(c) issues (R85) -/
  | evIssue (c : CtxId)
  /-- the head message of CH(src, h) arrives at AQ(h) (R86) -/
  | evArrival (src : Source) (h : Home)
  /-- the first message of AQ(h) that no line lock holds is performed (R87) -/
  | evPerform (h : Home)
  /-- the head of WQ(h) is applied to the array (R87) -/
  | evApply (h : Home)
  /-- the pair operation at AQ(h) locks and reads its second line, writes both words and unlocks (R96) -/
  | evPairSecondHome (h : Home)
  /-- the n-th reply under way reaches its source (R87) -/
  | evReplyDelivery (n : Nat)
  /-- a line of WCB(c) is flushed as one masked write (R93) -/
  | evWcbFlush (c : CtxId) (line : Nat)
  /-- the head entry of EQ(c, q) begins (R97) -/
  | evEngineEntryBegin (c : CtxId) (q : Nat)
  /-- the completed head entry of EQ(c, q) resolves its handle (R54) -/
  | evHandleResolve (c : CtxId) (q : Nat)
  /-- the n-th wake under way reaches its waiter (R105) -/
  | evWakeDelivery (n : Nat)
  /-- the timeout of the wait of c has expired (R274) -/
  | evWaitTimeout (c : CtxId)
  /-- a posted write of the host is sent to its home (R100) -/
  | evHostInboundWrite (ep : Nat) (addr : Nat) (data : List Byte)
  /-- a read of the host is performed (R100) -/
  | evHostInboundRead (ep : Nat) (addr : Nat) (len : Nat)
  /-- the zero-length read on an endpoint completes for a system-scope release of c (R101) -/
  | evHostFlushRead (ep : Nat) (c : CtxId)
  /-- the n-th waiting message of c enters its mailbox (R276) -/
  | evMailboxDeliver (c : CtxId) (n : Nat)
  /-- the running context of a cell gives way to a ready one (R53) -/
  | evContextTimeslice (i : CellId)
  /-- the n-th interrupt message under way reaches its cell (R336) -/
  | evMintArrival (n : Nat)
  /-- the pending fault record of c is posted (R330) -/
  | evFaultRecordPost (c : CtxId)
  /-- firmware of a service cell advances sr.fqtail (R330) -/
  | evFqtailWrite (k : CombId) (trans : Bool) (v : Word)
  /-- the supervisor ends a fault domain (R52) -/
  | evFaultDomainEnd (dom : Nat)
  /-- the trap collection window of a region closes (R124) -/
  | evFpWindowClose (r : RegionId)
  /-- the cell of an ended context completes (R33) -/
  | evCellComplete (c : CtxId)
  /-- the next child of a region is launched, on the cells its launch logic chose (R30) -/
  | evChildLaunch (r : RegionId) (cells : List CellId)
  /-- the launch logic of a frame chooses a candidate and assigns its cells (R358) -/
  | evLaunchSelect (frame : Nat) (cells : List CellId)
  /-- the next transfer of the exchange of a region is performed (R36) -/
  | evExchangeTransfer (r : RegionId)
  /-- the round timer of a cell expires (R42) -/
  | evRoundTimerExpiry (c : CtxId)
  /-- a round marker arrives on the input from a logical cell (R42) -/
  | evRoundMarkerArrival (c : CtxId) (src : Nat)
  /-- the passive cell that holds the forager token passes it on (R46) -/
  | evTokenPass (r : RegionId)
  /-- the contend entry at the head of EQ(c, 6) registers (R153) -/
  | evContendRegister (c : CtxId)
  /-- a contest runs on a lane (R151) -/
  | evWaggleContest (lane : Nat)
  /-- the result of a contest reaches its candidates (R154) -/
  | evContestResult (lane : Nat)
  /-- the sequencer binds the next collective of a group (R157) -/
  | evSequencerBind (g : Nat)
  /-- a member receives a binding (R157) -/
  | evBindingReceive (num : Nat) (rank : Nat)
  /-- a member starts a collective (R159) -/
  | evCollectiveStart (num : Nat) (rank : Nat)
  /-- the contribution of a member arrives (R162) -/
  | evContributionArrival (num : Nat) (rank : Nat)
  /-- a bound number has not started everywhere within T_g (R161) -/
  | evTgTimeout (num : Nat)
  /-- a cancel record reaches a member (R162) -/
  | evCancelRecord (num : Nat) (rank : Nat)
  /-- a Valtia switch discards a partial result (R163) -/
  | evSwitchFailure (num : Nat) (bitmap : Nat)
  /-- the sequencer multicasts a heartbeat (R364) -/
  | evSequencerHeartbeat
  /-- a standby takes over (R164) -/
  | evSequencerFailover (n : Nat)
  /-- a member sends an unanswered registration again (R164) -/
  | evRegistrationRetry (c : CtxId)
  /-- the calibration of the claim of c completes (R136) -/
  | evAfcalComplete (c : CtxId)
  /-- an integrator or summer of the claim of c passes 1.25 (R137) -/
  | evFabricSaturation (c : CtxId) (n : Nat)
  /-- the hold window of the settle of c is met (R138) -/
  | evFabricSettleDone (c : CtxId)
  /-- the timeout of the settle of c elapses (R138) -/
  | evFabricSettleTimeout (c : CtxId)
  /-- the host writes a queue tail (R354) -/
  | evQueueDoorbell (q : Nat) (tail : Nat)
  /-- a launch entry of a queue is taken up (R355) -/
  | evQueueLaunch (q : Nat)
  /-- a fence entry of a queue is taken up (R355) -/
  | evQueueFence (q : Nat)
  /-- a fence of a queue completes (R355) -/
  | evQueueFenceComplete (q : Nat)
  /-- a cancel entry of a queue is taken up (R355) -/
  | evQueueCancel (q : Nat)
  /-- a write to a register without behaviour of its own (R10) -/
  | evRegisterWrite (addr : Nat) (v : Word)
  /-- a corrupted flit is sent again (R362) -/
  | evLinkRetry (l : Nat)
  /-- a link fails (R362) -/
  | evLinkFail (l : Nat)
  /-- the width or rate of a link changes (R363) -/
  | evLinkRateChange (l : Nat) (width : Nat) (rate : Nat)
  /-- the power arbiter closes a budget interval (R367) -/
  | evBudgetInterval (inp : BudgetInput)
  /-- the setpoint of a frame changes (R370) -/
  | evFrequencyStep (frame : Nat) (mhz : Nat)
  /-- the clocks of a frame restart (R370) -/
  | evRelockRestart (frame : Nat)
  /-- every block latches its snapshot registers (R376) -/
  | evSnapshotTrigger
  /-- a management request for context identifiers (R375) -/
  | evMeterList
  /-- a management request for one sealed meter block (R375) -/
  | evMeterRead (c : CtxId)
  /-- SPDM GET_VERSION (R380) -/
  | evGetVersion
  /-- SPDM GET_CAPABILITIES (R380) -/
  | evGetCapabilities
  /-- SPDM NEGOTIATE_ALGORITHMS (R380) -/
  | evNegotiateAlgorithms (ed25519 : Bool) (sha512 : Bool)
  /-- SPDM GET_DIGESTS (R380) -/
  | evGetDigests
  /-- SPDM GET_CERTIFICATE (R380) -/
  | evGetCertificate (slot : Nat)
  /-- SPDM CHALLENGE (R380) -/
  | evChallenge (nonce : Nat)
  /-- SPDM GET_MEASUREMENTS (R380) -/
  | evGetMeasurements (index : Nat)
  /-- reset and bring-up of the package (R366) -/
  | evPackageReset (up : BringUp)
  /-- patrol scrub reads one HBM sector (R378) -/
  | evPatrolScrub (frame : Nat) (sector : Nat) (res : ScrubResult)
  /-- an uncorrectable error arises in a cell (R329) -/
  | evCellError (c : CtxId)
  /-- the host writes the en and size fields of a queue (R358) -/
  | evQueueEnable (q : Nat) (en : Bool) (size : Nat)
  /-- firmware creates a collective group (R365) -/
  | evGroupCreate (g : GroupDef)
  /-- firmware names a replacement standby (R364) -/
  | evStandbyReplacement (n : Nat)
  /-- an export is revoked (R352) -/
  | evExportRevocation (frame : Nat) (index : Nat)
  /-- firmware releases the previous snapshot (R376) -/
  | evSnapshotRelease
  deriving DecidableEq, Repr

end Sys2Proof
end

