-- ==== Sys2Proof/Config.lean ====
section
/-!
DEFINITION. What an implementation of the H8 fixes and the manual leaves open: values without a body, which no
proof can see, so that a claim holds whatever they are. Every use is named in the assumption log.
-/
namespace Sys2Proof.Config

/-- The number of this package in its pod (R351, R365). -/
opaque package : Nat
/-- The forms of R1: the package and its module, with 8, 6 or 4 live frames. -/
inductive Form
  | h8 | h86 | h84 | h8m | h8m6 | h8m4
  deriving DecidableEq, Repr, Inhabited

/-- Live frames of a form (R1). -/
def Form.frames : Form → Nat
  | .h8 | .h8m => 8
  | .h86 | .h8m6 => 6
  | .h84 | .h8m4 => 4

/-- Is the form a module, which has a limit at its edge as well (R1). -/
def Form.isModule : Form → Bool
  | .h8m | .h8m6 | .h8m4 => true
  | _ => false

/-- The power limit of the package in mW (R1, R4). -/
def packageLimit : Nat := 2600000

/-- The power limit in mW at the boundary that the form's part number names (R1). -/
def Form.limit (f : Form) : Nat := if f.isModule then 2800000 else packageLimit

/-- The allowance of a module for its own conversion losses and controller, in mW (R1). -/
def Form.moduleOwn (f : Form) : Nat := if f.isModule then 200000 else 0

/-- What the power arbiter divides (R367): the package limit, and of a module at most what its edge leaves for the package
(R1, R4, R5). -/
def Form.budget (f : Form) : Nat := min packageLimit (f.limit - f.moduleOwn)

/-- The part number of this machine (R1). -/
opaque form : Form
/-- The fuse map (R2, R3): bit f for frame f. -/
opaque fuseMap : BitVec 8
/-- Set bits of a frame mask. -/
def frameCount (m : BitVec 8) : Nat := ((List.range 8).filter fun f => m.getLsbD f).length
/-- The live frames that the fuse map reports (R2, R3, R366): as many as the form has; a map of another count belongs to
no form, and the frames from 0 on stand for it. -/
def liveFrames : BitVec 8 := if frameCount fuseMap = form.frames then fuseMap else BitVec.ofNat 8 (2 ^ form.frames - 1)
/-- The estimate of an implementation (R227): minor, type code and operand bits; used only within its bound. -/
opaque estimate : Nat → Nat → Nat → Nat
/-- An inline constant that its floating type cannot hold exactly (R167, FP8 sources of `vcvt` only): type code,
constant. -/
opaque inexactConst : Nat → Nat → Nat
/-- The reading of an ADC at a sample instant (R140): a count of readings, the claim-relative integrator. -/
opaque adcCode : Nat → Nat → BitVec 14
/-- The digits that a calibration gives an integrator, true for 12 and false for 11 (R141): a count of calibrations, the
claim-relative integrator. -/
opaque digits12 : Nat → Nat → Bool
/-- The gap between a physical quantity of a claim and that of its programmed system (R131, R141), in units of 2^-32 full
scale: reference time, claim and quantity. -/
opaque mismatch : Nat → Nat → Int
/-- What separates the solution of a programmed system over one nanosecond from one step along its present slope (R137), in
units of 2^-32 full scale, used only within the bound that the system gives: reference time, claim and integrator. -/
opaque bend : Nat → Nat → Int
/-- An integrator state that calibration leaves undefined (R136): a count, the claim-relative integrator. -/
opaque looseState : Nat → Nat → Int
/-- sr.taddr of a fault whose description gives it no value (FP traps, R123; fabric-state faults, R135): cause, address
of the instruction, time. -/
opaque openAddr : Nat → Nat → Nat → BitVec 64
/-- The seal of a meter block (R333): context identifier and the counters, in order. -/
opaque meterSeal : Nat → List (BitVec 64) → BitVec 64
/-- The shape of the pairwise tree of order 1 (R293): placement and level, giving whether neighbours pair from the left. -/
opaque treeShape : Nat → Nat → Bool
/-- Whether a Valtia switch performs a reduction that R163 allows it to perform. -/
opaque inSwitch : Nat → Bool
/-- Bytes that a member in another package contributes to a collective: swarm number, rank, place. -/
opaque remoteByte : Nat → Nat → Nat → BitVec 8
/-- Of a group with members in other packages: whether the next registration that reaches the sequencer is one of theirs. -/
opaque remoteFirst : Nat → Bool
/-- The operation, count and root with which a member in another package registers: group, number k, rank. -/
opaque remoteColl : Nat → Nat → Nat → Nat
/-- Whether a member in another package asks to cancel a swarm number. -/
opaque remoteCancel : Nat → Bool
/-- Whether a contributor in another package fails: swarm number, rank. -/
opaque remoteFails : Nat → Nat → Bool
/-- The half of a byte beside an odd number of BFP4 elements that a collective writes: swarm number, rank. -/
opaque oddHalf : Nat → Nat → BitVec 4
/-- The bytes that `sendv` sends in an inactive lane (R217, R260): a count, the lane. -/
opaque sendLane : Nat → Nat → BitVec 64
/-- A byte that a load finds in the pages of a view beyond its last entry (R64, R374): region, offset. -/
opaque viewPad : Nat → Nat → BitVec 8
/-- The Valtia Link that carries the contribution of a member to a collective (R163): swarm number, rank. -/
opaque collLink : Nat → Nat → Nat
/-- The Valtia Link that carries accesses to a unit of another package's memory (R362). -/
opaque peerLink : Nat → Nat
/-- The package of a standby of the sequencer, as the pod is configured (R364). -/
opaque standbyPackage : Nat → Nat
/-- The CXL port that serves a 64 KiB page of the CXL tier (R361), as package firmware programs the decoders. -/
opaque cxlPort : Nat → Nat
/-- The home, at its exporter, of a 256-byte unit of another package's memory (R72, R83, R351). -/
opaque remoteHome : Nat → Nat
/-- The system contest for a power surplus that a budget interval enters (R148), if any: a count, giving lane, identifier
above 0xC00 and key. -/
opaque surplus : Nat → Option (Nat × Nat × BitVec 64)
/-- Which 16 KiB pages of a frame's stack hold fault queues, spill queues and save areas (R326, R330, R332, R336): frame,
page. -/
opaque systemPage : Nat → Nat → Bool
/-- Which 16 KiB pages of a frame's stack hold the page tables of its firmware (R347): frame, page. -/
opaque tablePage : Nat → Nat → Bool
/-- The firmware image in the own memory of a service cell (R21): cell, address. -/
opaque firmwareByte : Nat → Nat → BitVec 8
/-- The address the launch gives a cell map (R64): a count, giving a 64-byte unit. -/
opaque cmapUnit : Nat → Nat
/-- The energy in µJ of a root region (R372). -/
opaque kernelEnergy : Nat → BitVec 64
/-- Bytes of an attestation message that depend on keys, certificates and images (R380): response code, and what the request
names and the message reports. -/
opaque spdmBytes : Nat → List Nat → List (BitVec 8)
/-- The fused hash of the root public key (R379). -/
opaque rootKeyHash : Nat
/-- The fused security-version counter (R379). -/
opaque securityVersion : Nat
/-- The identity key that the security processor derives from a fused secret (R380). -/
opaque identityKey : Nat
/-- Whether a signature of an image verifies (R379): hash of the public key, image, signature. -/
opaque signatureOk : Nat → Nat → Nat → Bool
/-- What one nanosecond adds to a meter counter that the model does not time (R373): counter word, context identifier,
nanosecond. -/
opaque meterStep : Nat → Nat → Nat → Nat
/-- The readings of the sensors at a budget interval (R367, R369): a count. -/
opaque budgetInput : Nat → BudgetInput
/-- The supply of a comb's cells in mV (R369). -/
opaque millivolts : Nat → Nat
/-- Leakage table entries that bring-up loads from fuse data (R369): comb, point. -/
opaque leakage : Nat → Nat → BitVec 16

end Sys2Proof.Config
end

