-- ==== Sys2Proof/Machine/State.lean ====
section
/-!
DEFINITION. The state of one H8 package as plain data: contexts, memory and its message queues, cells, combs, frames,
regions, the hub, the waggle plane, the swarm sequencer, the fabric claims, power, meters and trust. `State.reset` is
the state after package reset.
-/
namespace Sys2Proof.Machine

/-! ### Faults and accesses -/

/-- A precise fault (R328, R329): cause, detail and sr.taddr. -/
structure Trap where
  cause : Nat
  detail : Nat
  addr : Word
  deriving DecidableEq, Repr

/-- A TLB entry as its two words (R340, R341). -/
structure TlbEntry where
  w0 : Word
  w1 : Word
  deriving DecidableEq, Repr

/-- The meter level of an access (R71). -/
inductive MLevel
  | local_ | vault | hbm | cxl | host | peer
  deriving DecidableEq, Repr

/-- One part of an access (R84): virtual and physical address, length, the page it lies in. -/
structure Part where
  va : Nat
  pa : Nat
  len : Nat
  entry : Option TlbEntry
  level : MLevel
  deriving DecidableEq, Repr

/-! ### Contexts (R19, R31, R53, R326) -/

/-- Where a context runs (R14, R326). -/
inductive Place
  | user (i : CellId)
  | supervisor (k : CombId)
  | translator (k : CombId)
  | security
  deriving DecidableEq, Repr

/-- Privilege levels of instruction streams (R326). -/
inductive Level
  | user | comb | package
  deriving DecidableEq, Repr

/-- Why a parked context waits (R53). -/
inductive Park
  /-- a watched line (R274) -/
  | addr
  /-- an event counter (R275) -/
  | event
  /-- a mailbox receive (R277) -/
  | mailbox
  /-- handles (R55) -/
  | handle
  /-- the superstep barrier or a scoped barrier (R34, R278) -/
  | barrier
  /-- `gjoin` (R213) -/
  | gang
  /-- the head of queue 7 (R280) -/
  | fabric
  /-- a local access of a context that is not the owner (R334) -/
  | localMem
  /-- room in the dirty log (R349) -/
  | dirtyLog
  /-- its own earlier operations (R103, R106, R216, R242) -/
  | drain
  /-- its supervisor, after a fault or a pre-emption (R332, R336) -/
  | supervisor
  deriving DecidableEq, Repr

/-- States of a context (R53); `saved` is a context outside its cell, in its save area (R332). -/
inductive Status
  | empty
  | running
  | ready
  | parked (why : Park)
  | saved
  deriving DecidableEq, Repr

/-- Handle states (R54, R281). -/
inductive HState
  | empty | pending | done | failed | cancelled
  deriving DecidableEq, Repr

/-- A handle (R281); `op` names the operation that resolves it; `seen` is false while a resolved sample waits for its
first read (R140). -/
structure Handle where
  st : HState
  res : Word
  det : Word
  op : Nat
  seen : Bool
  deriving DecidableEq, Repr

/-- The general registers (R167). -/
structure Regs where
  g : Vector Word 64
  v : Vector VWord 32
  m : Vector MWord 8
  deriving DecidableEq, Repr

/-- The matrix state (R241, R251); `koff` is sr.mprog[15:5]. -/
structure MatState where
  a0 : Vector (BitVec 32) 128
  a1 : Vector (BitVec 32) 128
  abase : BitVec 56
  rs : BitVec 32
  ks : BitVec 32
  axbase : BitVec 56
  bo : BitVec 16
  xo : BitVec 16
  koff : BitVec 11
  deriving DecidableEq, Repr

/-- The strides in use and the tiling of A (R247). -/
structure AStream where
  rsx : Nat
  ksx : Nat
  tiling : Nat
  paged : Bool
  deriving DecidableEq, Repr

/-- An `mma` that has begun (R249 to R253): its A stream, whether the reads of a block are under way, and the bytes of a
block whose reads have returned. `MatState.koff` is its position. -/
structure MatRun where
  a : AStream
  waiting : Bool
  buf : Option (List Byte)
  deriving DecidableEq, Repr

/-- The state registers a context holds (R186). sr.coord, sr.cyc, sr.ncyc, sr.reftime and sr.fstep are functions of
the place and of time; sr.mprog and sr.loop are read from `MatState.koff` and the loop stack. -/
structure SrBank where
  ctl : Word
  fpctl : Word
  fpstat : Word
  srctr : Word
  seed : Word
  det : Word
  lcell : Word
  gang : Word
  cmap : Word
  ssnum : Word
  round : Word
  stkbase : Word
  stklim : Word
  ovfptr : Word
  tcause : Word
  taddr : Word
  tpc : Word
  afstat : Word
  deriving DecidableEq, Repr

/-- One level of the loop stack (R210); the innermost level comes first. -/
structure LoopLevel where
  start : Word
  exit : Word
  rem : BitVec 32
  deriving DecidableEq, Repr

/-- An open fixed-latency write (R180, R332): specifier, remaining distance, value. -/
structure OpenWrite where
  spec : BitVec 8
  left : Nat
  val : VWord
  deriving DecidableEq, Repr

/-- A decoded slot of the group in issue (R178). -/
structure SlotInstr where
  pc : Word
  word : IWord
  i : Instr
  deriving DecidableEq, Repr

/-- The group in issue: its first slot, all its slots, the slots still to execute with the one in execution first, the
address after it, its stall count, whether it ended in a taken transfer, the target that it checked when it began, and
whether its outcome has been compared in its gang (R49, R178, R179, R188, R338). -/
structure GroupIssue where
  first : Word
  slots : List SlotInstr
  rest : List SlotInstr
  next : Word
  stall : Nat
  taken : Bool
  target : Option Word
  told : Bool
  deriving DecidableEq, Repr

/-- Where an interlocked result goes and how its bytes become a value (R179, R263 to R275). -/
inductive Dest
  /-- the bytes, extended by type, to a g register (R263) -/
  | g (r : BitVec 6) (ty : Ty)
  /-- the bytes of the lanes in `lanes`, to a v register; the other lanes are those of `old`, the register as the
  instruction found it (R180, R217, R263, R267) -/
  | v (r : BitVec 5) (ty : Ty) (lanes : BitVec 32) (old : VWord)
  /-- one value to every lane in `lanes` (R263) -/
  | vb (r : BitVec 5) (ty : Ty) (lanes : BitVec 32) (old : VWord)
  /-- a decoded element under a page format: element bytes, then companion bytes (R264) -/
  | ldf (r : BitVec 6) (fmt : Nat) (hi : Bool)
  /-- decoded elements of the lanes in `lanes`; the lanes from `cut` on lie in the next block (R264) -/
  | ldfv (r : BitVec 5) (fmt : Nat) (lanes : BitVec 8) (cut : Nat) (old : VWord)
  /-- two old words {B, A} (R271) -/
  | pair (r : BitVec 6)
  /-- a status code of a wait (R273) -/
  | status (r : BitVec 6)
  /-- the bytes of one K block, to the `mma` in progress (R250) -/
  | mat
  /-- an invalidation in progress: the contexts whose operations below a number it waits for (R344) -/
  | inv (bounds : List (Nat × Nat))
  /-- no register: the mark of a `zero` drain whose stores are placed (R257) -/
  | none
  deriving DecidableEq, Repr

/-- An interlocked result on its way: the bytes gathered so far (R87, R179). `held` says that its instruction waits for it
where it stands (R70, R123). -/
structure Pend where
  id : Nat
  pc : Word
  dest : Dest
  left : Nat
  buf : List Byte
  held : Bool
  deriving DecidableEq, Repr

/-- A message of R276, a handle passed by `hpass` (R285), or a round marker (R42). -/
inductive Payload
  | data (bytes : List Byte)
  | handle (h : Handle) (hd : BitVec 4)
  | marker (round : Nat)
  deriving DecidableEq, Repr

/-- A message; `n` is its place among the messages of its sender. -/
structure Mail where
  sender : BitVec 16
  tag : BitVec 14
  body : Payload
  n : Nat
  deriving DecidableEq, Repr

/-- Read-modify-write operations of R269 to R271. -/
inductive RmwOp
  | swap | add | and | or | xor | min | max | cas
  deriving DecidableEq, Repr

/-- Waits as their messages carry them (R274, R275). -/
structure WaitMsg where
  ty : Ty
  expect : Word
  deriving DecidableEq, Repr

/-- What a message does at its home (R87, R94 to R96, R105). -/
inductive Act
  /-- read `len` bytes into the buffer of `pend` at `off`; `buffered` holds the bytes found in WCB(c) at issue (R93) -/
  | load (pend : Nat) (off len : Nat) (buffered : List (Option Byte))
  /-- write bytes under a mask: `none` leaves a byte -/
  | store (bytes : List (Option Byte))
  | amo (op : RmwOp) (ty : Ty) (b cmp : Word) (pend : Nat)
  /-- elements at offsets within the line -/
  | red (op : RmwOp) (ty : Ty) (elems : List (Nat × Word))
  /-- a two-address operation: its words, the virtual address of the higher one, the operands, what was read at the
  first home -/
  | pair (op : RmwOp) (dcas : Bool) (move : Bool) (ty : Ty) (a b : Nat) (vaHigh : Word) (opA opB cmpA cmpB : Word)
      (second : Bool) (low : Word) (pend : Nat)
  | wait (w : WaitMsg) (pend : Nat)
  | evsig (r : RegionId) (n : BitVec 4) (v : BitVec 32)
  | evwait (r : RegionId) (n : BitVec 4) (thr : BitVec 32) (pend : Nat)
  | mail (dst : CtxId) (m : Mail)
  | prefetch
  deriving DecidableEq, Repr

/-- What an operation asks of the order of its context (R90, R91, R104). -/
structure Order where
  acq : Bool
  rel : Option Word
  deriving DecidableEq, Repr

/-- One part of a memory operation (R84): its program-order number, home, flat physical address and action. `dirt` lists the
entries with d = 0 that it was placed through (R348). -/
structure MemOp where
  seq : Nat
  home : Home
  pa : Nat
  va : Word
  order : Order
  act : Act
  stream : Bool
  dirt : List TlbEntry
  deriving DecidableEq, Repr

/-- An issued operation that has not been acknowledged (R87, R91). -/
structure Outstanding where
  seq : Nat
  home : Home
  isLoad : Bool
  acq : Bool
  deriving DecidableEq, Repr

inductive FenceKind
  | acq | rel | full
  deriving DecidableEq, Repr

/-- A fence marker (R92): it holds back operations with a later number. -/
structure Marker where
  seq : Nat
  kind : FenceKind
  scope : Word
  deriving DecidableEq, Repr

/-- A line of the write-combining buffer (R93): 64 masked bytes, and the entries with d = 0 that they were placed through
(R348). -/
structure WcbLine where
  home : Home
  line : Nat
  va : Word
  seq : Nat
  bytes : List (Option Byte)
  dirt : List TlbEntry
  deriving DecidableEq, Repr

/-- The memory operations of a context (R82): IQ(c), what has issued, fence markers, WCB(c), and the host endpoints
that carried a write since the last system-scope release (R101). -/
structure MemQ where
  next : Nat
  iq : List MemOp
  outs : List Outstanding
  marks : List Marker
  wcb : List WcbLine
  eps : List Nat
  deriving DecidableEq, Repr

/-- The copies of R287: `cpy`, `cpyf`, `cpyb`. -/
inductive CopyKind
  | raw | formatted | panel
  deriving DecidableEq, Repr

/-- A piece of a copy whose source bytes are being read (R288 to R290): where they go, the position after it, and the
fault that ends the copy there. -/
structure Piece where
  dst : List (Part × Nat)
  next : Nat
  fault : Option Trap
  deriving DecidableEq, Repr

/-- What a formatted or panel copy has found in its checks (R289, R290): the fmt and geometry of its pages. -/
structure CopyPage where
  fmt : Nat
  geom : Nat
  deriving DecidableEq, Repr

/-- A copy (R287 to R290): its ranges, the register gb of `cpyb`, and the source bytes copied so far; the length of
`cpyb` is its number of K blocks. `comp` says that the companion bytes of the piece at `pos` are next; `fin` holds the
words of its handle once only acknowledgements are missing (R99). -/
structure CopyOp where
  kind : CopyKind
  dst : Word
  src : Word
  len : Nat
  bsel : Word
  pos : Nat
  comp : Bool
  piece : Option Piece
  page : Option CopyPage
  fin : Option (HState × Word × Word)
  deriving DecidableEq, Repr

/-- The copy of registers a forked program runs on, its position, the copy it is making, the `mma` it has begun, and the
words of its handle once only acknowledgements are missing (R99, R283). -/
structure Prog where
  regs : Regs
  pc : Word
  index : Nat
  cur : Option CopyOp
  run : Option MatRun
  fin : Option (HState × Word × Word)
  deriving DecidableEq, Repr

/-- A collective operation as issued (R291). -/
structure CollOpnd where
  kind : CollKind
  op : CollOp
  ty : Ty
  order : CollOrder
  desc : Word
  deriving DecidableEq, Repr

/-- Fabric operations of queue 7 (R297). A configuration holds the entries of its table that have been read, a sample the
readings and the time of its sample instant (R140). -/
inductive AfOp
  | claim (die : Bool) (np : Nat)
  | cal
  | cfg (tab : Word) (entries : List Word)
  | scale (a : Word) (e : Word)
  | run
  | settle (p : Word)
  | sample (dst : Word) (nums : List Nat) (codes : List (BitVec 14)) (digits : Nat) (at_ : Nat)
  | stop
  | rel
  deriving DecidableEq, Repr

/-- What an engine queue entry does (R97, R98). -/
inductive Work
  | prog (matrix : Bool) (p : Prog)
  | copy (c : CopyOp)
  | coll (c : CollOpnd)
  | contend (key : Word) (lane : BitVec 4) (id : BitVec 8)
  | fabric (o : AfOp)
  | fence (id : Nat) (mask : BitVec 8)
  deriving DecidableEq, Repr

/-- The course of an engine entry: waiting, begun, its work done with the words of its handle. -/
inductive Course
  | waiting
  | begun
  | done (st : HState) (res det : Word)
  deriving DecidableEq, Repr

/-- An entry of an engine queue (R97); `seq` is its place in program order, `cancel` a kept cancel (R286), `undo` the handle
of a fabric instruction whose issue is not complete, as it was before (R280), `held` says that its last write found no
room in the dirty log (R349). -/
structure Entry where
  op : Nat
  seq : Nat
  work : Work
  course : Course
  cancel : Bool
  since : Nat
  undo : Option (BitVec 4 × Handle)
  held : Bool
  deriving DecidableEq, Repr

/-- A wait of the main thread (R274, R275): its result register, its deadline, the counter at entry. -/
structure WaitState where
  pend : Nat
  dest : BitVec 6
  deadline : Option Nat
  counter : Option (BitVec 4 × BitVec 32)
  entered : Bool
  deriving DecidableEq, Repr

/-- The signature state of a block (R338): its address, its identifier, its sums and its predecessor. -/
structure SigState where
  block : Word
  id : BitVec 16
  cs : BitVec 32
  ds : BitVec 32
  pred : Option (BitVec 16)
  deriving DecidableEq, Repr

/-- The usage meter counters of a context (R373), from offset 0x08 to 0x70. -/
structure Meters where
  issued : Word
  vector : Word
  fp64 : Word
  matrix : Word
  copy : Word
  gated : Word
  bLocal : Word
  bVault : Word
  bHbm : Word
  bCxl : Word
  bHost : Word
  bPeer : Word
  energy : Word
  patch : Word
  deriving DecidableEq, Repr

/-- The fault a context has stopped on (R328, R330): its record, and whether the record has been posted. -/
structure FaultRec where
  cause : BitVec 16
  detail : BitVec 16
  pc : Word
  addr : Word
  time : Nat
  posted : Bool
  deriving DecidableEq, Repr

/-- The mailbox side of a context (R45, R276, R336); `spilled` counts the entries that its spill ring has taken. -/
structure MailBox where
  box : List Mail
  spill : List Mail
  spilled : Nat
  sent : Word
  received : Word
  flag : Bool
  deriving DecidableEq, Repr

/-- A group of the leader's stream (R48, R49): the group as the leader fetched it, where control went after it, and
whether it ended in a taken transfer. -/
structure GangStep where
  grp : GroupIssue
  pc : Word
  taken : Bool
  deriving DecidableEq, Repr

/-- The gang position of a context (R48 to R50): its leader, the groups its leader has executed that it has not yet
executed, and whether it waits in `gjoin`. -/
structure GangPos where
  leader : Option CtxId
  trace : List GangStep
  joined : Bool
  deriving DecidableEq, Repr

/-- A register context (R19, R53). `mrun` is an inline `mma` in progress; `told` says that termination has woken its
mailbox receive (R47); `unplaced` says that operations loaded from a save area have still to be placed (R103, R342), and
`savedEq` keeps the engine area of its last save area (R332). -/
structure Ctx where
  cid : CtxId
  place : Place
  slot : Nat
  level : Level
  region : Option RegionId
  asid : BitVec 16
  status : Status
  ended : Bool
  completed : Bool
  regs : Regs
  h : Vector Handle 16
  mat : MatState
  mrun : Option MatRun
  sr : SrBank
  pc : Word
  grp : Option GroupIssue
  openW : List OpenWrite
  pend : List Pend
  loops : List LoopLevel
  mq : MemQ
  eq : Vector (List Entry) 8
  nextOp : Nat
  mail : MailBox
  wait : Option WaitState
  told : Bool
  sig : Option SigState
  sigPred : Option (BitVec 16)
  meters : Meters
  meterLatch : List (Nat × BitVec 32)
  fault : Option FaultRec
  gang : GangPos
  restarts : Nat
  since : Nat
  roundAt : Nat
  saveArea : Option Word
  unplaced : Bool
  savedEq : List Byte
  deriving DecidableEq, Repr

/-- A restart point (R42, R43, R52): a context, its carve-out, the inputs whose marker has arrived, the messages of
the cut, and whether the edge is complete. -/
structure RestartPoint where
  ctx : Ctx
  carve : List Byte
  marked : List Nat
  msgs : List Mail
  round : Nat
  done : Bool
  deriving DecidableEq, Repr

end Sys2Proof.Machine

namespace Sys2Proof.Config
/-- The engine area of a save area (R332): the 4,096 bytes of engine queues and forked programs. -/
opaque packEngines : Vector (List Machine.Entry) 8 → List Byte
/-- The queues and programs that an engine area stands for that is not the one a context was saved with. -/
opaque unpackEngines : List Byte → Vector (List Machine.Entry) 8
end Sys2Proof.Config

namespace Sys2Proof.Machine

/-! ### Memory and messages (R82 to R87, R95, R96, R105) -/

/-- Bytes that differ from what an unlisted address reads as, by flat physical address, strictly rising. -/
abbrev Memory := List Host.Cell

structure Flight where
  src : Source
  op : MemOp
  deriving DecidableEq, Repr

/-- An entry of a write queue (R87, R95): masked bytes from an address, or a reduction entry of a line. -/
inductive WEntry
  | write (pa : Nat) (bytes : List (Option Byte))
  | red (line : Nat) (op : RmwOp) (ty : Ty) (elems : List (Nat × Word)) (isOpen : Bool)
  deriving DecidableEq, Repr

/-- A reply on its way (R87); `bad` is an error answer (R70, R337). -/
structure Reply where
  src : Source
  seq : Nat
  pend : Option (Nat × Nat)
  bytes : List Byte
  bad : Bool
  va : Word
  deriving DecidableEq, Repr

/-- A wake on its way to a waiter (R105): the status code and, for counters, the counter (R273, R275). -/
structure Wake where
  cid : CtxId
  pend : Nat
  code : Nat
  counter : Option (BitVec 32)
  deriving DecidableEq, Repr

/-- A line of a watch table and its waiters (R274), the line entered longest ago first. -/
structure Watch where
  home : Home
  line : Nat
  waiters : List (CtxId × Nat)
  deriving DecidableEq, Repr

/-- A waiter of an event counter (R275). -/
structure EvWaiter where
  region : RegionId
  n : BitVec 4
  cid : CtxId
  thr : BitVec 32
  pend : Nat
  deriving DecidableEq, Repr

structure Lock where
  line : Nat
  cid : CtxId
  deriving DecidableEq, Repr

/-- A read of the host (R100): its bytes, once every part has been answered. -/
structure HostRead where
  id : Nat
  ep : Nat
  addr : Nat
  bytes : Option (List Byte)
  deriving DecidableEq, Repr

/-- The accesses that an engine, a fabric die or a host port has under way (R86, R97, R100): the bytes read so far, the
answers that are missing to reads and to writes, and the first error answer. `id` is the sequence number that its
messages carry. -/
structure Io where
  src : Source
  id : Nat
  buf : List Byte
  reads : Nat
  acks : Nat
  bad : Option Trap
  deriving DecidableEq, Repr

/-- An interrupt message of `mint` (R336). -/
structure MintMsg where
  target : CellId
  reason : Word
  deriving DecidableEq, Repr

structure Net where
  ch : List Flight
  aq : List Flight
  wq : List (Home × WEntry)
  replies : List Reply
  ios : List Io
  locks : List Lock
  watch : List Watch
  evwait : List EvWaiter
  wakes : List Wake
  hostReads : List HostRead
  hostNext : Nat
  mints : List MintMsg
  deriving DecidableEq, Repr

/-! ### Cells, combs and frames (R14, R327, R334, R339 to R345, R351, R367 to R371) -/

/-- A user cell (R334, R337, R339, R368); a cell without a record is as after reset. The TLB lists the most
recently used entry first. `duty` was set at `dutyAt`, when `dutyFrom` was in force. `gated` sums what power, thermal and current have gated, in MHz
times sixteenths times ns (R372). -/
structure CellRec where
  id : CellId
  owner : Option CtxId
  heldFor : Option RegionId
  isSealed : Bool
  isFailed : Bool
  tlb : List TlbEntry
  duty : Nat
  why : Nat
  dutyFrom : Nat
  dutyAt : Nat
  gated : List Nat
  deriving DecidableEq, Repr

/-- The privileged registers of one service cell (R327). -/
structure ServiceRegs where
  fqbase : Word
  fqhead : BitVec 8
  fqtail : BitVec 8
  fqcount : Nat
  spbase : Word
  sigerr : BitVec 32
  deriving DecidableEq, Repr

/-- A comb (R14, R327, R339, R345, R369); `asks` holds the pages, by address-space number and page number, that `pft` and
failing copies ask its translation cell for (R268, R288). -/
structure CombRec where
  id : CombId
  tlb : List TlbEntry
  tlbgen : BitVec 32
  sup : ServiceRegs
  trans : ServiceRegs
  leak : List (Nat × BitVec 16)
  asks : List (Nat × Nat)
  deriving DecidableEq, Repr

/-- One entry of a frame's import table (R351). -/
structure Import where
  index : Nat
  words : List Word
  revoked : Bool
  deriving DecidableEq, Repr

/-- A frame (R24, R350, R351, R358, R367, R370, R371, R381); a relock began at `relockAt`; `laterStep` holds the setpoint
written during it and its reason, `lateDuties` the duties set during it with their reasons. -/
structure FrameRec where
  id : Nat
  mhz : Nat
  ceiling : Nat
  relock : Option Nat
  relockAt : Nat
  laterStep : Option (Nat × Nat)
  lateDuties : List (CellId × Nat × Nat)
  cycBase : Nat
  cycSince : Nat
  fstep : Word
  lowRuns : Nat
  highRuns : Nat
  partition : Nat
  imports : List Import
  lastServed : Nat
  held : Option Nat
  deriving DecidableEq, Repr

/-! ### Regions (R27 to R58, R357) -/

/-- Statuses of cells, regions and queue entries, from best to worst, then those of entries only (R33, R356). -/
inductive CStatus
  | ok | restarted | budget | failed | cancelled | illegal
  deriving DecidableEq, Repr

/-- The attributes of a region (R27, R357). -/
structure Attrs where
  cells : Nat
  vault : Nat
  stack : Nat
  spill : Nat
  power : Nat
  prio : Nat
  effPrio : Nat
  domain : Nat
  nested : Bool
  free : Bool
  det : Nat
  frames : BitVec 8
  limit : Nat
  seed : Word
  rounds : Bool
  period : Nat
  deriving DecidableEq, Repr

/-- One transfer of a schedule (R37). -/
structure Xfer where
  slot : Nat
  len : Nat
  srcCell : Nat
  srcVault : Bool
  srcOff : Nat
  dstCell : Nat
  dstVault : Bool
  dstOff : Nat
  deriving DecidableEq, Repr

/-- How far the transfer in progress of an exchange is (R36): its source is being read, or its destination written. -/
inductive XMove
  | idle | reading | writing
  deriving DecidableEq, Repr

/-- A scoped barrier (R278): id, members by logical number, who has joined and which result waits for it, how often
it has completed. -/
structure ScopedBar where
  id : BitVec 4
  members : List Nat
  joined : List (Nat × Nat)
  count : Nat
  deriving DecidableEq, Repr

/-- The forager token (R45, R46). -/
structure Token where
  pos : Nat
  mark : Bool
  balance : Int
  pass : Nat
  started : Bool
  deriving DecidableEq, Repr

/-- A collected FP trap (R124). -/
structure FpEvent where
  key : Word
  record : FaultRec
  slot : Nat
  cell : Nat
  deriving DecidableEq, Repr

/-- The phases of a region (R30). -/
inductive Phase
  | own | children | done
  deriving DecidableEq, Repr

/-- A region (R27 to R58, R357): `home` is the frame whose stack holds its RCB (log 16), `fpWindow` is one more than the
collection window whose record has been written, `logCount` counts the records of its fault log; `xpos` and `xmove` say how
far the exchange is. The `domain` of its attributes is that of R52: the identifier in its low 32 bits, above them the
number of the region that brought the domain into being. `ending` says that its domain has ended and its cells are
stopping; `cyc0` and `gated0` are the cycle counts of its frames and the gated cycles of its cells at launch (R372). -/
structure Region where
  id : RegionId
  home : Nat
  rcb : Word
  asid : BitVec 16
  queue : Option (Nat × Nat × Word)
  parent : Option RegionId
  a : Attrs
  entry : Word
  slot : Option Nat
  sigTable : Word
  phase : Phase
  status : CStatus
  map : List CellId
  ctxs : List CtxId
  kids : Nat
  nextKid : Nat
  cmap : Word
  chans : Option (List (List Nat))
  sched : List (List Xfer)
  joined : List Nat
  closed : Option Nat
  xpos : Nat
  xmove : XMove
  bars : List ScopedBar
  ev : Vector (BitVec 32) 16
  token : Token
  terminated : Bool
  fpEvents : List FpEvent
  fpWindow : Nat
  logCount : Nat
  combsDone : List CombId
  framesDone : List Nat
  launched : Nat
  doneCells : List Nat
  ending : Bool
  cyc0 : List (Nat × Nat)
  gated0 : List Nat
  deriving DecidableEq, Repr

/-! ### Launches (R357) -/

/-- An RCB as its 32 words (R357). -/
structure Rcb where
  w : List Nat
  deriving DecidableEq, Repr

/-- What a launch has read and checked, and keeps (R37, R41, R48, R357); `ok` is false for a breach. -/
structure Plan where
  ok : Bool
  rcb : Rcb
  a : Attrs
  gangs : List Nat
  chans : Option (List (List Nat))
  sched : List (List Xfer)
  deriving DecidableEq, Repr

/-! ### The hub (R354 to R366) -/

/-- A work queue's registers (R354). -/
structure QueueRegs where
  base : Word
  ctrl : Word
  tail : BitVec 16
  head : BitVec 16
  cbase : Word
  deriving DecidableEq, Repr

/-- States of an accepted entry (R355, R359). -/
inductive EntryState
  | accepted | launched | completed
  deriving DecidableEq, Repr

/-- An accepted queue entry (R355, R358): `taken` says that the launch logic has it as a candidate, or that its fence has
been taken up; `plan` is what the launch keeps of its RCB, read when it becomes a candidate (R37, R41); `assigned` holds
the cells that frames hold for it. -/
structure QEntry where
  seq : Nat
  queue : Nat
  index : Nat
  op : Nat
  rcb : Word
  tag : Word
  st : EntryState
  status : CStatus
  taken : Bool
  plan : Option Plan
  assigned : List (Nat × List CellId)
  deriving DecidableEq, Repr

/-- A journal entry (R359). -/
structure JournalRec where
  seq : Nat
  op : Nat
  st : EntryState
  status : CStatus
  queue : Nat
  tag : Word
  time : Nat
  deriving DecidableEq, Repr

/-- A link of the hub (R360 to R363): lanes, rate in units of 0.1 GT/s, whether it is up, and a change that waits. Links 0 and 1 are PCIe
endpoints, 2 to 5 CXL ports, 6 to 29 Valtia Links. -/
structure Link where
  id : Nat
  width : Nat
  rate : Nat
  up : Bool
  pending : Option (Nat × Nat)
  deriving DecidableEq, Repr

structure Hub where
  live : BitVec 8
  err : BitVec 4
  stage : BitVec 4
  queues : List (Nat × QueueRegs)
  entries : List QEntry
  journal : List JournalRec
  nextSeq : Nat
  msix : List (Nat × Nat)
  links : List Link
  deriving DecidableEq, Repr

/-! ### Waggle plane, swarm, fabric (R128 to R165, R364, R365) -/

/-- A candidate of a lane (R148 to R153): program candidates name a context and the operation that contends, claims a die
and patches. -/
structure Cand where
  lane : Nat
  id : Nat
  key : Word
  die : Nat
  logical : Nat
  cid : CtxId
  op : Nat
  time : Nat
  committed : Bool
  np : Nat
  deriving DecidableEq, Repr

/-- The result of a contest on its way (R154). -/
structure ContestResult where
  lane : Nat
  id : Nat
  key : Word
  die : Nat
  logical : Nat
  winner : CtxId
  cands : List Cand
  due : Nat
  deriving DecidableEq, Repr

structure Lane where
  id : Nat
  last : Nat
  next : Nat
  deriving DecidableEq, Repr

structure Plane where
  lanes : List Lane
  cands : List Cand
  results : List ContestResult
  deriving DecidableEq, Repr

/-- A registration of a member with the sequencer (R156, R157, R160); `out` holds the outcome that the member has met by
itself, `held` says that its last write found no room in the dirty log (R349). -/
structure Registration where
  group : Nat
  rank : Nat
  k : Nat
  cid : CtxId
  op : Nat
  c : CollOpnd
  count : Nat
  root : Nat
  src : Word
  dst : Word
  status : Word
  sent : Bool
  cancel : Bool
  out : Option (HState × Word × Word)
  held : Bool
  deriving DecidableEq, Repr

/-- A binding (R157 to R163): per rank, the number bound before it on the rank's device (`prev`), who holds it, who has
started, what was sent, whose contribution has arrived and since when, who has written, whether the number is retired,
whom the retirement has reached, and the cause code of a failure. -/
structure Binding where
  num : Nat
  group : Nat
  k : Nat
  c : CollOpnd
  count : Nat
  root : Nat
  time : Nat
  prev : List (Option Nat)
  received : List Nat
  started : List Nat
  contribs : List (Nat × List Byte)
  arrived : List Nat
  firstAt : Option Nat
  written : List Nat
  retired : Bool
  reached : List Nat
  cause : Nat
  deriving DecidableEq, Repr

/-- A collective group (R156, R365): its definition and, per rank, the next sequence number. -/
structure Group where
  d : GroupDef
  ks : List Nat
  deriving DecidableEq, Repr

structure Swarm where
  groups : List Group
  regs : List Registration
  binds : List Binding
  next : Nat
  lastBeat : Nat
  standbys : List Nat
  deriving DecidableEq, Repr

/-- Claim states (R135). -/
inductive ClaimState
  | free | idle | run | hold
  deriving DecidableEq, Repr

/-- A claim of a context (R134 to R144); `since` is the instant up to which its context's patch counter is charged
(R373). `xi` holds the integrator states in units of 2^-32 full scale, `held` the integrators that are held at ±1.25,
`latched` those that have saturated since sat was last cleared (R137), `calm` for how long every summer output has stayed
within the threshold of the settle (R138), `calib` the calibration that its digits come from (R141). -/
structure Claim where
  cid : CtxId
  die : Nat
  np : Nat
  st : ClaimState
  cal : Bool
  cfg : Bool
  sat : Bool
  sint : BitVec 12
  table : List Word
  scales : List (Nat × Int)
  since : Nat
  xi : List Int
  held : List Nat
  latched : List Nat
  calm : Nat
  calib : Nat
  deriving DecidableEq, Repr

/-! ### Power, meters and trust (R367 to R380) -/

/-- Power, meters and ECC. `enforced` lists the parts (hub, HBM4E, CF dies) that have passed their internal allocations
(R4, R367); `ring` and `recNext` are the address of the record ring and its next place (R372); `snapArmed` holds the
context, the result and the instant of an armed snapshot (R376); `poison` marks 32-byte sectors, `sram` 8-byte words of
vaults (R378). -/
structure PowerState where
  nextInterval : Nat
  enforced : List Nat
  ring : Option Nat
  recNext : Nat
  recordKind : List (Nat × Bool)
  snapArmed : Option (CtxId × Nat × Nat)
  snapSeq : BitVec 32
  snapHeld : Bool
  latched : List (CtxId × Meters)
  ended : List (CtxId × Meters)
  corrections : List (Nat × Nat)
  poison : List Nat
  sram : List Nat
  mctp : List (List Word)
  deriving DecidableEq, Repr

/-- The security processor: the fused hash of the root key and security-version counter (R379), the identity key and the
SPDM responder (R380). `booted` holds what bring-up has measured: body and version of the package image, then of the comb
image. -/
structure SecState where
  keyHash : Nat
  minVersion : Nat
  identity : Nat
  versioned : Bool
  capable : Bool
  algorithms : Bool
  replies : List (Nat × List Byte)
  booted : List Nat
  deriving DecidableEq, Repr

/-! ### Partitions (R350) -/

/-- A partition of the live frames (R350): its range of address-space numbers, its 64 KiB pages of the CXL tier, its Valtia
Links and its contest slots. Frames and groups name their partition. -/
structure Partition where
  id : Nat
  asidLo : Nat
  asidHi : Nat
  cxlLo : Nat
  cxlHi : Nat
  links : List Nat
  slots : List Nat
  deriving DecidableEq, Repr

/-! ### The machine -/

/-- Steps of firmware, drivers and error hardware that the manual describes and no row of the opcode table lists. -/
inductive Unlisted
  /-- package firmware writes the firmware fields of a queue (R354) -/
  | queue (q : Nat) (asid : BitVec 16) (pcap : Nat)
  /-- package firmware defines a partition (R350) -/
  | partition (p : Partition)
  /-- package firmware moves a frame to a partition (R350) -/
  | framePartition (frame p : Nat)
  /-- package firmware sets the ceiling of a setpoint (R367) -/
  | ceiling (frame mhz : Nat)
  /-- package firmware selects the records of a partition (R372) -/
  | recordKind (p : Nat) (kernel : Bool)
  /-- the driver supplies the ring of power records (R372) -/
  | recordRing (pa : Nat)
  /-- firmware writes an entry of an import table (R351) -/
  | importEntry (frame : Nat) (m : Import)
  /-- a sealed cell fails its test (R337) -/
  | testFailed (cell : CellId)
  /-- a stack corrects an error of a read (R378) -/
  | corrected (frame : Nat)
  /-- data become uncorrectable: HBM, CXL or vault (R70, R378) -/
  | uncorrectable (pa : Nat)
  /-- the translation cell forwards a fault to the supervisor (R346) -/
  | forward (c : CtxId)
  deriving DecidableEq, Repr

/-- Which agent moves next: a context issues, an engine takes one step, a step without an encoding is taken, a step that
no row of the opcode table lists is taken, or time passes. -/
inductive Move
  | issue (c : CtxId)
  | engine (c : CtxId) (q : Nat)
  | event (i : Instr)
  | unlisted (x : Unlisted)
  | time (ns : Nat)
  deriving DecidableEq, Repr

structure State where
  th : Ctx
  pool : List Ctx
  mem : Memory
  net : Net
  cells : List CellRec
  combs : List CombRec
  frames : List FrameRec
  partitions : List Partition
  regions : List Region
  points : List RestartPoint
  hub : Hub
  plane : Plane
  swarm : Swarm
  claims : List Claim
  power : PowerState
  sec : SecState
  now : Nat
  tick : Nat
  agenda : List Move
  deriving DecidableEq, Repr

/-- Reasons the machine stops with a fault of the model. The traps of R329 are no such faults: they are next
states. -/
inductive Fault
  /-- An access through a TLB entry to the stack of a frame that is fused off (R2): the memory does not exist.
  Raised by every memory operation; safe, since the machine stops where the manual gives no access. -/
  | absentStack (frame : Nat)
  deriving DecidableEq, Repr

/-- Reasons a step is refused. -/
inductive Refusal
  /-- An instruction without a meaning in this model. Raised by the arm of `exec` of that instruction; safe. -/
  | notModelled (mnemonic : String)
  deriving DecidableEq, Repr

/-! ### Reset -/

def Handle.reset : Handle := ⟨.empty, 0, 0, 0, true⟩

/-- Registers as a launch leaves them (R31): masks all-true. -/
def Regs.launch : Regs := ⟨Vector.replicate 64 0, Vector.replicate 32 0, Vector.replicate 8 0xFFFFFFFF⟩

def Regs.reset : Regs := ⟨Vector.replicate 64 0, Vector.replicate 32 0, Vector.replicate 8 0⟩

def MatState.reset : MatState :=
  ⟨Vector.replicate 128 0, Vector.replicate 128 0, 0, 0, 0, 0, 0, 0, 0⟩

/-- sr.fpctl resets to 0x001 (R120); every other state register to 0. -/
def SrBank.reset : SrBank := ⟨0, 1, 0, 0, 0, 0, 0, 0, 0, 0, 0, 0, 0, 0, 0, 0, 0, 0⟩

def MemQ.reset : MemQ := ⟨0, [], [], [], [], []⟩
def Meters.reset : Meters := ⟨0, 0, 0, 0, 0, 0, 0, 0, 0, 0, 0, 0, 0, 0⟩
def MailBox.reset : MailBox := ⟨[], [], 0, 0, 0, false⟩
def GangPos.solo : GangPos := ⟨none, [], false⟩

/-- A context slot that holds nothing (R53). -/
def Ctx.reset : Ctx :=
  { cid := 0, place := .user 0, slot := 0, level := .user, region := none, asid := 0, status := .empty,
    ended := false, completed := false, regs := .reset, h := Vector.replicate 16 .reset, mat := .reset, mrun := none,
    sr := .reset, pc := 0, grp := none, openW := [], pend := [], loops := [], mq := .reset, eq := Vector.replicate 8 [],
    nextOp := 1, mail := .reset, wait := none, told := false, sig := none, sigPred := none, meters := .reset, meterLatch := [],
    fault := none, gang := .solo, restarts := 0, since := 0, roundAt := 0,
    saveArea := none, unplaced := false, savedEq := [] }

def Net.reset : Net := ⟨[], [], [], [], [], [], [], [], [], [], 0, []⟩

/-- A cell without a record (R334, R337, R368). -/
def CellRec.reset (i : CellId) : CellRec := ⟨i, none, none, false, false, [], 16, 0, 16, 0, [0, 0, 0]⟩
def ServiceRegs.reset : ServiceRegs := ⟨0, 0, 0, 0, 0, 0⟩
def CombRec.reset (k : CombId) : CombRec := ⟨k, [], 0, .reset, .reset, [], []⟩
/-- A frame without a record: setpoint and ceiling 1,800 MHz (log 18), partition 0, no import (log 72). -/
def FrameRec.reset (f : Nat) : FrameRec := ⟨f, 1800, 1800, none, 0, none, [], 0, 0, 0, 0, 0, 0, [], 0, none⟩
/-- DESIGN CHOICE (log 66): until package firmware divides the frames, partition 0 holds everything. -/
def Partition.whole : Partition := ⟨0, 0, 2 ^ 16, 0, 2 ^ 26, (List.range 24).map (· + 6), List.range 12⟩
def QueueRegs.reset : QueueRegs := ⟨0, 0, 0, 0, 0⟩
def Lane.reset (l : Nat) : Lane := ⟨l, 0xFFF, 0⟩
def Token.start : Token := ⟨0, false, 0, 0, false⟩

/-- The hub after reset: stage 1 (R366). -/
def Hub.reset : Hub := ⟨0, 0, 1, [], [], [], 0, [], []⟩
def Swarm.reset : Swarm := ⟨[], [], [], 0, 0, [1, 2]⟩
def PowerState.reset : PowerState := ⟨10000, [], none, 0, [], none, 0, false, [], [], [], [], [], []⟩
/-- Fuses give the key hash, the counter and the secret of the identity key (R379, R380). -/
def SecState.reset : SecState := ⟨Config.rootKeyHash, Config.securityVersion, Config.identityKey, false, false, false, [], []⟩

/-- The machine right after package reset. -/
def State.reset : State :=
  { th := .reset, pool := [], mem := [], net := .reset, cells := [], combs := [], frames := [],
    partitions := [.whole], regions := [],
    points := [], hub := .reset, plane := ⟨[], [], []⟩, swarm := .reset, claims := [], power := .reset, sec := .reset,
    now := 0, tick := 0, agenda := [] }

end Sys2Proof.Machine
end

