-- ==== Sys2Proof/Machine/Bits.lean ====
section
/-!
DEFINITION. Bit-field helpers of the machine: sign and zero extension (R192), bytes in little-endian order (R8), lanes
of a v register (R217) and bits of a mask.
-/
namespace Sys2Proof.Machine

/-- The low `w` bits of a number, read as signed. -/
def signedOf (w : Nat) (x : Nat) : Int :=
  let y := x % 2 ^ w
  if 2 * y < 2 ^ w then (y : Int) else (y : Int) - (2 ^ w : Nat)

/-- A mathematical integer modulo 2^w. -/
def wrapNat (w : Nat) (x : Int) : Nat := (x % ((2 ^ w : Nat) : Int)).toNat

/-- x[w-1:0] sign-extended to 64 bits (R192). -/
def sext64 (w : Nat) (x : Nat) : Word := BitVec.ofInt 64 (signedOf w x)

/-- x[w-1:0] zero-extended to 64 bits (R192). -/
def zext64 (w : Nat) (x : Nat) : Word := BitVec.ofNat 64 (x % 2 ^ w)

/-- Bits [lo+n-1:lo] of a number. -/
def bitsAt (x lo n : Nat) : Nat := (x >>> lo) % 2 ^ n

/-- The value of an inline constant (R167): sext(spec[6:0], 7). -/
def immInt (k : BitVec 7) : Int := k.toInt
def immWord (k : BitVec 7) : Word := k.signExtend 64

/-! ### Bytes -/

/-- The `n` bytes of a number, lowest first. -/
def bytesOf (n x : Nat) : List Byte := natToBytesLE n x
where
  natToBytesLE : Nat → Nat → List Byte
    | 0, _ => []
    | k + 1, y => BitVec.ofNat 8 y :: natToBytesLE k (y / 256)

/-- The little-endian number of bytes. -/
def ofBytes : List Byte → Nat
  | [] => 0
  | b :: bs => b.toNat + 256 * ofBytes bs

/-- The bytes of a list at a position, zero beyond its end. -/
def bytesAt (bs : List Byte) (off n : Nat) : Nat := ofBytes ((bs.drop off).take n)

/-- Replace the bytes of a list from a position on; the list keeps its length. -/
def putBytes (bs : List Byte) (off : Nat) (new : List Byte) : List Byte :=
  bs.take off ++ (new.take (bs.length - off)) ++ bs.drop (off + new.length)

/-! ### Lanes -/

/-- Lane `j` of width `w` bits. -/
def laneOf (w : Nat) (v : VWord) (j : Nat) : Nat := bitsAt v.toNat (w * j) w

/-- The number whose `w`-bit lanes are the list, lane 0 first. -/
def packLanes (w : Nat) : List Nat → Nat
  | [] => 0
  | x :: xs => x % 2 ^ w + 2 ^ w * packLanes w xs

/-- The v register with the given lanes. -/
def ofLanes (w : Nat) (xs : List Nat) : VWord := BitVec.ofNat 256 (packLanes w xs)

/-- The lanes of a v register. -/
def lanesOf (w : Nat) (v : VWord) : List Nat := (List.range (256 / w)).map (laneOf w v)

/-- Lane `j` active under a mask: the bit of its lowest byte (R174, R217). -/
def laneActive (bytes : Nat) (p : MWord) (j : Nat) : Bool := p.getLsbD (j * bytes)

/-- Merge lanes: an inactive lane keeps the old value (R217). -/
def mergeLanes (w : Nat) (p : MWord) (old new : VWord) : VWord :=
  ofLanes w ((List.range (256 / w)).map fun j =>
    if laneActive (w / 8) p j then laneOf w new j else laneOf w old j)

/-- The bytes of a v register. -/
def vBytes (v : VWord) : List Byte := bytesOf 32 v.toNat

/-- The v register of 32 bytes. -/
def ofVBytes (bs : List Byte) : VWord := BitVec.ofNat 256 (ofBytes bs)

/-! ### Bit counts -/

/-- Number of one bits among the low `n` bits. -/
def popCount : Nat → Nat → Nat
  | 0, _ => 0
  | n + 1, x => x % 2 + popCount n (x / 2)

/-- Index of the lowest one bit among `n` bits; `n` when there is none. -/
def trailingZeros : Nat → Nat → Nat
  | 0, _ => 0
  | n + 1, x => if x % 2 = 1 then 0 else 1 + trailingZeros n (x / 2)

/-- The low `n` bits in reverse order. -/
def reverseBits : Nat → Nat → Nat
  | 0, _ => 0
  | n + 1, x => (x % 2) * 2 ^ n + reverseBits n (x / 2)

/-- Leading zeros among `n` bits. -/
def leadingZeros (n x : Nat) : Nat := trailingZeros n (reverseBits n x)

/-- Even parity bit: the XOR of the low `n` bits. -/
def parity (n x : Nat) : Nat := popCount n x % 2

/-- The function of R116 (`hivemix`), modulo 2^64. -/
def hivemix (k c : Word) : Word :=
  let x := k ^^^ (c * 0x8F3A5C71D24BE6C9)
  let x := x ^^^ (x >>> 31)
  let x := x * 0xB5E10A9347F62C1D
  let x := x ^^^ (x >>> 29)
  let x := x * 0x8F3A5C71D24BE6C9
  x ^^^ (x >>> 32)

/-! ### Lists -/

/-- Replace the first entry that satisfies a test, or add one at the end. -/
def upsert {α : Type} (p : α → Bool) (x : α) : List α → List α
  | [] => [x]
  | y :: ys => if p y then x :: ys else y :: upsert p x ys

/-- Change the entries that satisfy a test. -/
def updateAll {α : Type} (p : α → Bool) (f : α → α) (xs : List α) : List α :=
  xs.map fun y => if p y then f y else y

/-- Remove the first entry that satisfies a test. -/
def dropFirst {α : Type} (p : α → Bool) : List α → List α
  | [] => []
  | y :: ys => if p y then ys else y :: dropFirst p ys

/-- The entry at a position removed. -/
def dropAt {α : Type} : Nat → List α → List α
  | _, [] => []
  | 0, _ :: ys => ys
  | n + 1, y :: ys => y :: dropAt n ys

end Sys2Proof.Machine
end

