-- ==== Sys2Proof/Machine/Types.lean ====
section
/-!
DEFINITION. What the codes of an encoding mean: type codes, widths and the type sets of the families (R170), limits
of source modifiers (R168, R169), rounding codes (R114) and the user state registers (R186).
-/
namespace Sys2Proof

/-- The code of a type (R170). -/
def Ty.code : Ty → BitVec 4
  | .b => 0 | .h => 1 | .w => 2 | .d => 3 | .sb => 4 | .sh => 5 | .sw => 6 | .sd => 7
  | .f64 => 8 | .f32 => 9 | .f16 => 10 | .bf16 => 11 | .e4m3 => 12 | .e5m2 => 13 | .bfp8 => 14 | .bfp4 => 15

/-- The type of a code (R170); every code names one. -/
def Ty.ofCode (c : BitVec 4) : Ty :=
  match c.toNat with
  | 0 => .b | 1 => .h | 2 => .w | 3 => .d | 4 => .sb | 5 => .sh | 6 => .sw | 7 => .sd
  | 8 => .f64 | 9 => .f32 | 10 => .f16 | 11 => .bf16 | 12 => .e4m3 | 13 => .e5m2 | 14 => .bfp8 | _ => .bfp4

/-- Bytes of a lane or of a memory element of the type (R170, R217); the block types are read byte by byte. -/
def Ty.bytes : Ty → Nat
  | .b | .sb | .e4m3 | .e5m2 | .bfp8 | .bfp4 => 1
  | .h | .sh | .f16 | .bf16 => 2
  | .w | .sw | .f32 => 4
  | .d | .sd | .f64 => 8

/-- Bits of a lane of the type. -/
def Ty.bits (t : Ty) : Nat := 8 * t.bytes

/-- Lanes of the type in a v register (R217). -/
def Ty.lanes (t : Ty) : Nat := 32 / t.bytes

/-- The signed integer types. -/
def Ty.signed : Ty → Bool
  | .sb | .sh | .sw | .sd => true
  | _ => false

/-- Codes 0x0 to 0x7. -/
def Ty.isInt (t : Ty) : Bool := t.code.toNat < 8
/-- Codes 0x0 to 0x3. -/
def Ty.isRaw (t : Ty) : Bool := t.code.toNat < 4
/-- Code 0x3 only. -/
def Ty.isD (t : Ty) : Bool := t == .d
/-- Code 0x1 only. -/
def Ty.isH (t : Ty) : Bool := t == .h
/-- Code 0x9 only. -/
def Ty.isF32 (t : Ty) : Bool := t == .f32
/-- The lane floating types 0x9 to 0xB (R218). -/
def Ty.isVF (t : Ty) : Bool := t == .f32 || t == .f16 || t == .bf16
/-- Codes 0x0 to 0x7 and 0x9 to 0xB (R221, R223, R233). -/
def Ty.isCmp (t : Ty) : Bool := t.isInt || t.isVF
/-- Codes 0x8 to 0xD: the floating types of a conversion (R228). -/
def Ty.isFloat (t : Ty) : Bool := 8 ≤ t.code.toNat && t.code.toNat ≤ 13
/-- Codes 0x0 to 0xB: loads and stores (R263). -/
def Ty.isLd (t : Ty) : Bool := t.code.toNat < 12
/-- Codes 0x0 to 0x3, 0x8 and 0x9: acquire and release (R265). -/
def Ty.isAcq (t : Ty) : Bool := t.isRaw || t == .f64 || t == .f32
/-- Codes 0x0 to 0x3 and 0x8 to 0xB: gather and scatter (R267). -/
def Ty.isGather (t : Ty) : Bool := t.isRaw || t == .f64 || t.isVF
/-- Codes 0x2, 0x3, 0x6, 0x7: integer atomics (R269). -/
def Ty.isAmoInt (t : Ty) : Bool := t == .w || t == .d || t == .sw || t == .sd
/-- Codes 0x2, 0x3 and 0x6 to 0x9: numeric atomics (R269). -/
def Ty.isAmoNum (t : Ty) : Bool := t.isAmoInt || t == .f64 || t == .f32
/-- Codes 0x2 and 0x6: two-address words (R271). -/
def Ty.isPair (t : Ty) : Bool := t == .w || t == .sw
/-- Types of a reducing collective (R292). -/
def Ty.isColl (t : Ty) : Bool := t.isAmoNum || t == .f16 || t == .bf16 || t == .bfp8
/-- The block formats, codes 0xE and 0xF. -/
def Ty.isBfp (t : Ty) : Bool := t == .bfp8 || t == .bfp4
/-- Destination types of `mdrain` (R255). -/
def Ty.isDrain (t : Ty) : Bool := 9 ≤ t.code.toNat

/-- The accepted pairs of `mma` (R246). -/
def mmaPair (ta tb : Ty) : Bool :=
  (ta == .bfp8 && tb == .bfp8) || (ta == .bfp4 && tb == .bfp4) ||
  ((ta.isVF && ta != .f32 || ta == .e4m3 || ta == .e5m2) && (tb.isVF && tb != .f32 || tb == .e4m3 || tb == .e5m2))

/-- The conversion pairs of `vcvt` (R228). -/
def cvtPair (src dst : Ty) : Bool :=
  src.code.toNat ≤ 13 && dst.code.toNat ≤ 13 && src != dst && (src.isFloat || dst.isFloat)

/-- Parts of a conversion between lane counts (R228).
DESIGN CHOICE (log 99): a code of block floating point, which is no pair of `vcvt`, counts as 8-bit lanes here, so
that its part number can break a rule as well. -/
def cvtParts (src dst : Ty) : Nat := Nat.max src.lanes dst.lanes / Nat.min src.lanes dst.lanes

/-- The conversion pairs of `fcvt` (R240): exactly one side is FP64. -/
def fcvtPair (src dst : Ty) : Bool :=
  (src == .f64 && dst.isCmp) || (dst == .f64 && src.isCmp)

/-- Parts that `vbfpd` can name (R231). -/
def bfpdParts (t : Ty) : Nat := if t == .bfp8 then 4 else 8

/-- The code of a rounding choice (R114). -/
def Rnd.code : Rnd → BitVec 3
  | .dyn => 0 | .rne => 1 | .rtz => 2 | .rup => 3 | .rdn => 4 | .rna => 5 | .sr => 6

/-- The rounding choice of a code; code 0b111 is illegal (R114). -/
def Rnd.ofCode (c : BitVec 3) : Rnd :=
  match c.toNat with
  | 1 => .rne | 2 => .rtz | 3 => .rup | 4 => .rdn | 5 => .rna | 6 => .sr | _ => .dyn

/-- Extend codes (R169). -/
def Ext.code : Ext → BitVec 3
  | .none => 0 | .sx8 => 1 | .sx16 => 2 | .sx32 => 3 | .zx8 => 5 | .zx16 => 6 | .zx32 => 7

def Ext.ofCode (c : BitVec 3) : Ext :=
  match c.toNat with
  | 1 => .sx8 | 2 => .sx16 | 3 => .sx32 | 5 => .zx8 | 6 => .zx16 | 7 => .zx32 | _ => .none

def ShiftKind.code : ShiftKind → BitVec 2
  | .none => 0 | .shl => 1 | .shr => 2 | .sar => 3

def ShiftKind.ofCode (c : BitVec 2) : ShiftKind :=
  match c.toNat with
  | 1 => .shl | 2 => .shr | 3 => .sar | _ => .none

def LaneClass.code : LaneClass → BitVec 2
  | .none => 0 | .rot => 1 | .bfly => 2 | .bcast => 3

def LaneClass.ofCode (c : BitVec 2) : LaneClass :=
  match c.toNat with
  | 1 => .rot | 2 => .bfly | 3 => .bcast | _ => .none

/-- A g-source modifier without a shift has distance 0 (R169). -/
def GMod.ok (m : GMod) : Bool := m.shift != .none || m.dist == 0

/-- The limits of a v-source modifier for `lanes` lanes (R168). -/
def VMod.ok (lanes : Nat) (m : VMod) : Bool :=
  if m.cls == .none then m.seg == 0 && m.dist == 0
  else 2 ^ m.seg.toNat ≤ lanes && m.dist.toNat < 2 ^ m.seg.toNat

/-- The modifier that changes nothing. -/
def GMod.id : GMod := ⟨.none, .none, 0⟩
def VMod.id : VMod := ⟨.none, 0, 0⟩

def GReg.ok (g : GReg) : Bool := g.m.ok
def VReg.ok (lanes : Nat) (v : VReg) : Bool := v.m.ok lanes

def GSrc.ok : GSrc → Bool
  | .reg g => g.ok
  | .imm _ => true

def VSrc.ok (lanes : Nat) : VSrc → Bool
  | .reg v => v.ok lanes
  | .imm _ => true

/-- The user state registers of R186. -/
def userSrNumbers : List Nat :=
  [0x000, 0x001, 0x002, 0x003, 0x004, 0x005, 0x008, 0x009, 0x00A, 0x00B, 0x00C, 0x00D, 0x010, 0x011, 0x012,
   0x018, 0x019, 0x01A, 0x01B, 0x020, 0x021, 0x022, 0x023, 0x024, 0x028]

/-- A state register number that an instruction may name (R186, R214): privileged numbers reach their check at
execution. -/
def srNumberOk (n : BitVec 12) : Bool := 0x800 ≤ n.toNat || userSrNumbers.contains n.toNat

/-- The endpoint of a host home. -/
def Home.ep? : Home → Option Nat
  | .host e => some e
  | _ => none

/-- The context that a source of messages belongs to. -/
def Source.ctx? : Source → Option CtxId
  | .ctx c | .wcb c | .engine c _ => some c
  | _ => none

end Sys2Proof
end

