-- ==== Sys2Proof/Machine/Float.lean ====
section
/-!
DEFINITION. Floating-point arithmetic of the H8: formats and values (R108, R109), special values (R113), rounding
(R114 to R117), conversions, comparisons and the flags they raise. Every operation computes an exact value, or a value
with a sticky mark, and rounds it once.
-/
namespace Sys2Proof.Machine

/-- How a format uses its largest exponent (R108): infinities and NaNs; one NaN code; neither. -/
inductive FForm
  | ieee | e4m3 | e2m1
  deriving DecidableEq, Repr

structure FFmt where
  ebits : Nat
  fbits : Nat
  bias : Nat
  form : FForm
  deriving DecidableEq, Repr

def FFmt.f64 : FFmt := ⟨11, 52, 1023, .ieee⟩
def FFmt.f32 : FFmt := ⟨8, 23, 127, .ieee⟩
def FFmt.f16 : FFmt := ⟨5, 10, 15, .ieee⟩
def FFmt.bf16 : FFmt := ⟨8, 7, 127, .ieee⟩
def FFmt.e5m2 : FFmt := ⟨5, 2, 15, .ieee⟩
def FFmt.e4m3 : FFmt := ⟨4, 3, 7, .e4m3⟩
def FFmt.e2m1 : FFmt := ⟨2, 1, 1, .e2m1⟩

/-- The format of a floating type (R170). -/
def Ty.fmt : Ty → FFmt
  | .f64 => .f64
  | .f16 => .f16
  | .bf16 => .bf16
  | .e4m3 => .e4m3
  | .e5m2 => .e5m2
  | _ => .f32

def FFmt.width (f : FFmt) : Nat := 1 + f.ebits + f.fbits
/-- The sign bit. -/
def FFmt.signBit (f : FFmt) : Nat := 2 ^ (f.ebits + f.fbits)
/-- +∞ of a format that has it; the code after the largest finite one otherwise. -/
def FFmt.infBits (f : FFmt) : Nat := (2 ^ f.ebits - 1) * 2 ^ f.fbits
/-- The largest finite magnitude (R108). -/
def FFmt.maxBits (f : FFmt) : Nat :=
  match f.form with
  | .ieee => f.infBits - 1
  | .e4m3 => 2 ^ (f.ebits + f.fbits) - 2
  | .e2m1 => 2 ^ (f.ebits + f.fbits) - 1
/-- The canonical NaN (R109). -/
def FFmt.nanBits (f : FFmt) : Nat :=
  match f.form with
  | .e4m3 => 2 ^ (f.ebits + f.fbits) - 1
  | _ => f.infBits + 2 ^ (f.fbits - 1)
/-- Exponent of the smallest normal value. -/
def FFmt.emin (f : FFmt) : Int := 1 - (f.bias : Int)

/-- The value of an encoding: m × 2^e with a sign, an infinity or a NaN (R108, R109). -/
inductive FVal
  | nan (sig : Bool)
  | inf (neg : Bool)
  | fin (neg : Bool) (m : Nat) (e : Int)
  deriving DecidableEq, Repr

/-- The value of the bits of a format (R108, R109). -/
def FFmt.value (f : FFmt) (x : Nat) : FVal :=
  let neg := bitsAt x (f.ebits + f.fbits) 1 == 1
  let ex := bitsAt x f.fbits f.ebits
  let fr := bitsAt x 0 f.fbits
  if ex == 2 ^ f.ebits - 1 && f.form == .ieee then
    if fr = 0 then .inf neg else .nan (fr < 2 ^ (f.fbits - 1))
  else if ex == 2 ^ f.ebits - 1 && f.form == .e4m3 && fr == 2 ^ f.fbits - 1 then .nan false
  else if ex = 0 then .fin neg fr (f.emin - f.fbits)
  else .fin neg (2 ^ f.fbits + fr) ((ex : Int) - f.bias - f.fbits)

def FVal.isNan : FVal → Bool
  | .nan _ => true
  | _ => false
def FVal.isSig : FVal → Bool
  | .nan s => s
  | _ => false
def FVal.isZero : FVal → Bool
  | .fin _ 0 _ => true
  | _ => false
/-- The value with its sign inverted when `flip` holds. -/
def FVal.flip (v : FVal) (flip : Bool) : FVal :=
  match v with
  | .nan s => .nan s
  | .inf n => .inf (n != flip)
  | .fin n m e => .fin (n != flip) m e

/-! ### Flags (R113, R121) -/

/-- The flags IV, DZ, OF, UF, IX in bits 4 to 0. -/
abbrev FFlags := BitVec 5
def fIV : FFlags := 16
def fDZ : FFlags := 8
def fOF : FFlags := 4
def fUF : FFlags := 2
def fIX : FFlags := 1
def fWhen (b : Bool) (f : FFlags) : FFlags := if b then f else 0

/-- The bits of a result and the flags it raises. -/
structure FRes where
  bits : Nat
  flags : FFlags
  deriving DecidableEq, Repr

/-! ### Rounding (R114 to R117) -/

/-- A resolved rounding mode; SR carries its word w (R116). -/
inductive RMode
  | rne | rtz | rup | rdn | rna
  | sr (w : Nat)
  deriving DecidableEq, Repr

/-- m × 2^e, or a value between m × 2^e and (m + 1) × 2^e when `st` is set. -/
structure Ex where
  neg : Bool
  m : Nat
  e : Int
  st : Bool
  deriving DecidableEq, Repr

/-- Round the magnitude to a multiple of 2^q: the multiple, and whether the result is inexact. -/
def roundMag (mode : RMode) (x : Ex) (q : Int) : Nat × Bool :=
  if q ≤ x.e then (x.m <<< (x.e - q).toNat, x.st)
  else
    let sh := (q - x.e).toNat
    let t := x.m >>> sh
    let r := x.m % 2 ^ sh
    let inexact := r != 0 || x.st
    let half := 2 ^ (sh - 1)
    let up : Bool :=
      match mode with
      | .rne => r > half || (r == half && (x.st || t % 2 == 1))
      | .rtz => false
      | .rup => inexact && !x.neg
      | .rdn => inexact && x.neg
      | .rna => r ≥ half
      | .sr w =>
        let f := if 32 ≤ sh then r >>> (sh - 32) else r <<< (32 - sh)
        2 ^ 32 ≤ f + w
    (if up then t + 1 else t, inexact)

/-- The result of a magnitude beyond the largest finite value (R113, R115). -/
def overflowBits (f : FFmt) (mode : RMode) (neg : Bool) : Nat :=
  let big : Bool :=
    match mode with
    | .rne | .rna | .sr _ => true
    | .rtz => false
    | .rup => !neg
    | .rdn => neg
  if f.form == .ieee && big then f.infBits else f.maxBits

/-- Round an exact value into a format (R115 to R117). -/
def roundTo (f : FFmt) (mode : RMode) (x : Ex) : FRes :=
  let s := if x.neg then f.signBit else 0
  if x.m = 0 && !x.st then ⟨s, 0⟩
  else
    let top := (Nat.log2 x.m : Int) + x.e
    let qmin := f.emin - f.fbits
    let qfull := top - f.fbits
    let q := max qfull qmin
    let r := roundMag mode x q
    let mag := (q - qmin).toNat * 2 ^ f.fbits + r.1
    if mag > f.maxBits then ⟨s + overflowBits f mode x.neg, fOF ||| fIX⟩
    else
      let tiny := top < f.emin &&
        !(top == f.emin - 1 && (roundMag mode x qfull).1 == 2 ^ (f.fbits + 1))
      ⟨s + mag, fWhen r.2 fIX ||| fWhen (r.2 && tiny) fUF⟩

/-- What an operation yields before rounding: a NaN, with or without IV; an infinity, with or without DZ; a value. -/
inductive Raw
  | nan (iv : Bool)
  | inf (neg dz : Bool)
  | ex (x : Ex)
  deriving DecidableEq, Repr

/-- Round the outcome of an operation into a format; ±∞ into E4M3 gives NaN with IV (R113). -/
def Raw.round (f : FFmt) (mode : RMode) : Raw → FRes
  | .nan iv => ⟨f.nanBits, fWhen iv fIV⟩
  | .inf neg dz =>
    if f.form == .ieee then ⟨(if neg then f.signBit else 0) + f.infBits, fWhen dz fDZ⟩
    else ⟨f.nanBits, fIV⟩
  | .ex x => roundTo f mode x

def Raw.zero (neg : Bool) : Raw := .ex ⟨neg, 0, 0, false⟩
def Raw.one (neg : Bool) : Raw := .ex ⟨neg, 1, 0, false⟩

/-! ### Arithmetic (R113, R224 to R226, R237 to R239) -/

/-- m × 2^e as a multiple of 2^e0, with its sign. -/
def scaled (neg : Bool) (m : Nat) (e e0 : Int) : Int :=
  let k : Int := (m <<< (e - e0).toNat : Nat)
  if neg then -k else k

/-- a + b; the sign of an exact zero sum depends on whether the mode is RDN (R113). -/
def rawAdd (rdn : Bool) : FVal → FVal → Raw
  | .nan s, b => .nan (s || b.isSig)
  | _, .nan s => .nan s
  | .inf n, .inf n' => if n == n' then .inf n false else .nan true
  | .inf n, .fin _ _ _ => .inf n false
  | .fin _ _ _, .inf n => .inf n false
  | .fin n m e, .fin n' m' e' =>
    let e0 := min e e'
    let k := scaled n m e e0 + scaled n' m' e' e0
    if k = 0 then Raw.zero (if n == n' then n else rdn)
    else .ex ⟨decide (k < 0), k.natAbs, e0, false⟩

/-- The exact product as an operand (R113): `none` for 0 × ∞. -/
def prodVal (a b : FVal) : Option FVal :=
  match a, b with
  | .nan s, c => some (.nan (s || c.isSig))
  | _, .nan s => some (.nan s)
  | .inf n, .inf n' => some (.inf (n != n'))
  | .inf n, .fin n' m _ => if m = 0 then none else some (.inf (n != n'))
  | .fin n m _, .inf n' => if m = 0 then none else some (.inf (n != n'))
  | .fin n m e, .fin n' m' e' => some (.fin (n != n') (m * m') (e + e'))

def rawOf : FVal → Raw
  | .nan s => .nan s
  | .inf n => .inf n false
  | .fin n m e => .ex ⟨n, m, e, false⟩

def rawMul (a b : FVal) : Raw :=
  match prodVal a b with
  | none => .nan true
  | some p => rawOf p

/-- ±(a × b) ± c, rounded once; 0 × ∞ raises IV even when c is a quiet NaN (R225). -/
def rawFma (rdn negP negC : Bool) (a b c : FVal) : Raw :=
  match prodVal a b with
  | none => .nan true
  | some p => rawAdd rdn (p.flip negP) (c.flip negC)

/-- a ÷ b with `p` + 40 bits and a sticky mark (R113, R226). -/
def rawDiv (p : Nat) : FVal → FVal → Raw
  | .nan s, b => .nan (s || b.isSig)
  | _, .nan s => .nan s
  | .inf _, .inf _ => .nan true
  | .inf n, .fin n' _ _ => .inf (n != n') false
  | .fin n _ _, .inf n' => Raw.zero (n != n')
  | .fin n m e, .fin n' m' e' =>
    if m' = 0 then (if m = 0 then .nan true else .inf (n != n') true)
    else if m = 0 then Raw.zero (n != n')
    else
      let sh := p + 40 + Nat.log2 m'
      let a := m <<< sh
      .ex ⟨n != n', a / m', e - e' - sh, a % m' != 0⟩

/-- ⌊√n⌋ for n < 4^k: one bit of the root at a time, from the top. -/
def isqrt : Nat → Nat → Nat → Nat
  | 0, _, r => r
  | k + 1, n, r =>
    let c := r + 2 ^ k
    if c * c ≤ n then isqrt k n c else isqrt k n r

/-- ⌊√n⌋. -/
def natSqrt (n : Nat) : Nat := isqrt (Nat.log2 n / 2 + 1) n 0

/-- √a with more than `p` + 40 bits and a sticky mark (R113, R226). -/
def rawSqrt (p : Nat) : FVal → Raw
  | .nan s => .nan s
  | .inf n => if n then .nan true else .inf false false
  | .fin n m e =>
    if m = 0 then Raw.zero n
    else if n then .nan true
    else
      let odd := e % 2 != 0
      let m := if odd then 2 * m else m
      let e := if odd then e - 1 else e
      let k := p + 40
      let a := m <<< (2 * k)
      let r := natSqrt a
      .ex ⟨false, r, e / 2 - k, r * r != a⟩

/-! ### Order (R113) -/

/-- The order of two values that are not NaN; zeros are equal. -/
def cmpVal : FVal → FVal → Ordering
  | .inf n, .inf n' => compare (!n) (!n')
  | .inf n, _ => if n then .lt else .gt
  | _, .inf n => if n then .gt else .lt
  | .fin n m e, .fin n' m' e' =>
    let e0 := min e e'
    compare (scaled n m e e0) (scaled n' m' e' e0)
  | _, _ => .eq

def FVal.neg? : FVal → Bool
  | .nan _ => false
  | .inf n => n
  | .fin n _ _ => n

/-- a < b with −0 below +0, for min and max (R113). -/
def lessVal (a b : FVal) : Bool :=
  match cmpVal a b with
  | .lt => true
  | .gt => false
  | .eq => a.neg? && !b.neg?

/-- min or max of two encodings: bits of an operand, or the canonical NaN (R113). -/
def fminmax (f : FFmt) (isMax : Bool) (a b : Nat) : FRes :=
  let va := f.value a
  let vb := f.value b
  if va.isNan || vb.isNan then ⟨f.nanBits, fWhen (va.isSig || vb.isSig) fIV⟩
  else if isMax then ⟨if lessVal va vb then b else a, 0⟩
  else ⟨if lessVal vb va then b else a, 0⟩

/-- Relations of the compares (R199, R221, R240). -/
inductive Rel
  | eq | ne | lt | le | gt | ge
  deriving DecidableEq, Repr

/-- A relation from an order. -/
def Rel.holds : Rel → Ordering → Bool
  | .eq, o => o == .eq
  | .ne, o => o != .eq
  | .lt, o => o == .lt
  | .le, o => o != .gt
  | .gt, o => o == .gt
  | .ge, o => o != .lt

/-- Does the relation hold; a NaN makes `ne` hold and the others not, and only a signalling NaN raises IV (R113). -/
def fcompare (f : FFmt) (r : Rel) (a b : Nat) : Bool × FFlags :=
  let va := f.value a
  let vb := f.value b
  if va.isNan || vb.isNan then (r == .ne, fWhen (va.isSig || vb.isSig) fIV)
  else (r.holds (cmpVal va vb), 0)

/-! ### Conversions (R113, R228, R240) -/

/-- Limits of an integer type of `w` bits. -/
def intMin (signed : Bool) (w : Nat) : Int := if signed then -(2 ^ (w - 1) : Nat) else 0
def intMax (signed : Bool) (w : Nat) : Int := if signed then (2 ^ (w - 1) : Nat) - 1 else (2 ^ w : Nat) - 1

/-- A floating value to an integer of `w` bits (R113). -/
def floatToInt (signed : Bool) (w : Nat) (mode : RMode) : FVal → FRes
  | .nan _ => ⟨0, fIV⟩
  | .inf n => ⟨wrapNat w (if n then intMin signed w else intMax signed w), fIV⟩
  | .fin n m e =>
    let r := roundMag mode ⟨n, m, e, false⟩ 0
    let k : Int := if n then -(r.1 : Int) else r.1
    if k < intMin signed w then ⟨wrapNat w (intMin signed w), fIV⟩
    else if k > intMax signed w then ⟨wrapNat w (intMax signed w), fIV⟩
    else ⟨wrapNat w k, fWhen r.2 fIX⟩

/-- An integer as a value. -/
def intVal (k : Int) : FVal := .fin (decide (k < 0)) k.natAbs 0

/-- The integer that the low bits of a number hold, read by type. -/
def intOf (t : Ty) (x : Nat) : Int := if t.signed then signedOf t.bits x else ((x % 2 ^ t.bits : Nat) : Int)

/-- The value that an encoding of a type has: a number for the integer types. -/
def valueOf (t : Ty) (x : Nat) : FVal := if t.isInt then intVal (intOf t x) else (Ty.fmt t).value x

/-- Conversion between two types, at least one of them floating (R113, R228, R240). -/
def convert (src dst : Ty) (mode : RMode) (x : Nat) : FRes :=
  let v := valueOf src x
  if dst.isInt then floatToInt dst.signed dst.bits mode v
  else (rawOf v).round (Ty.fmt dst) mode

/-- An inline constant as bits of a type (R167). It is exact in every type but FP8, where a constant that the format
cannot hold is a free value. -/
def immBits (t : Ty) (k : BitVec 7) : Nat :=
  if t.isInt then wrapNat t.bits (immInt k)
  else
    let r := (rawOf (intVal (immInt k))).round (Ty.fmt t) .rne
    if r.flags = 0 then r.bits else Config.inexactConst t.code.toNat k.toNat % 2 ^ t.bits

end Sys2Proof.Machine
end

