-- ==== Sys2Proof/Machine/Memory.lean ====
section
/-!
DEFINITION. Physical memory of the package in its one canonical form: (address, byte) pairs, addresses strictly rising,
no entry equal to what an unlisted address reads as. The flat numbering of addresses is log 6; an unlisted byte
reads 0, and in a service cell's own memory as the firmware image (log 4).
-/
namespace Sys2Proof.Machine

/-- The first flat address of the service cells' own memory (R21, log 16): 2^16 bytes a cell. -/
def serviceBase : Nat := 2 ^ 39
def serviceEnd : Nat := 2 ^ 39 + 2 ^ 27

/-- What a byte that nothing has written reads as (log 4). -/
def unlistedByte (a : Nat) : Byte :=
  if serviceBase ≤ a ∧ a < serviceEnd then Config.firmwareByte ((a - serviceBase) / 2 ^ 16) ((a - serviceBase) % 2 ^ 16)
  else 0

/-- The byte at an address. -/
def Memory.get : Memory → Nat → Byte
  | [], a => unlistedByte a
  | (k, v) :: m, a => if k = a then v else Memory.get m a

/-- The memory with one byte written. -/
def Memory.set : Memory → Nat → Byte → Memory
  | [], a, b => if b = unlistedByte a then [] else [(a, b)]
  | (k, v) :: m, a, b =>
    if a < k then (if b = unlistedByte a then (k, v) :: m else (a, b) :: (k, v) :: m)
    else if a = k then (if b = unlistedByte a then m else (a, b) :: m)
    else (k, v) :: Memory.set m a b

/-- Every address is above a bound, addresses rise strictly, and no entry is what an unlisted address reads as. -/
def Memory.wfFrom : Option Nat → Memory → Bool
  | _, [] => true
  | lo, (k, v) :: m =>
    (match lo with
      | none => true
      | some l => decide (l < k)) && v != unlistedByte k && Memory.wfFrom (some k) m

/-- The canonical form. -/
def Memory.wf (m : Memory) : Bool := Memory.wfFrom none m

/-- The `n` bytes from an address on. -/
def Memory.read (m : Memory) : Nat → Nat → List Byte
  | _, 0 => []
  | a, n + 1 => m.get a :: Memory.read m (a + 1) n

/-- Write bytes from an address on. -/
def Memory.write (m : Memory) : Nat → List Byte → Memory
  | _, [] => m
  | a, b :: bs => Memory.write (m.set a b) (a + 1) bs

/-- Write bytes under a mask: `none` leaves a byte. -/
def Memory.writeMasked (m : Memory) : Nat → List (Option Byte) → Memory
  | _, [] => m
  | a, none :: bs => Memory.writeMasked m (a + 1) bs
  | a, some b :: bs => Memory.writeMasked (m.set a b) (a + 1) bs

/-- The memory with the firmware images in the service cells' own memory (R366, log 79). -/
def Memory.withImages (m : Memory) : Memory := m.filter fun c => decide (c.1 < serviceBase ∨ serviceEnd ≤ c.1)

/-- The little-endian number of `n` bytes (R8). -/
def Memory.num (m : Memory) (a n : Nat) : Nat := ofBytes (m.read a n)

/-- Write a number of `n` bytes. -/
def Memory.setNum (m : Memory) (a n x : Nat) : Memory := m.write a (bytesOf n x)

/-! ### The flat numbering of physical addresses (log 6) -/

/-- A byte of the local memory of a cell (R14, R65). -/
def paLocal (i : CellId) (off : Nat) : Nat := i * 2 ^ 16 + off
/-- A byte of a comb's vault (R20). -/
def paVault (k : CombId) (off : Nat) : Nat := 2 ^ 32 + k * 2 ^ 24 + off
/-- A byte of a frame's HBM stack. -/
def paHbm (frame off : Nat) : Nat := 2 ^ 40 + frame * 2 ^ 36 + off
/-- The physical address of a launch structure. -/
def launchPa (frame : Nat) (va : Nat) : Nat := paHbm frame (va % 2 ^ 36)
/-- A byte of the CXL tier. -/
def paCxl (off : Nat) : Nat := 2 ^ 43 + off
/-- A byte of host memory behind an endpoint. -/
def paHost (ep addr : Nat) : Nat := 2 ^ 44 + ep * 2 ^ 42 + addr
/-- A byte of another package, under the exporter's package, frame, address-space number and virtual page (R351). -/
def paRemote (pkg frame asid vpn off : Nat) : Nat := 2 ^ 48 + (((pkg * 8 + frame) * 2 ^ 16 + asid) * 2 ^ 40 + vpn) * 2 ^ 16 + off
/-- A byte of the own memory of a service cell: supervisor and translation cell of each comb, then the security
processor (R21, log 16). -/
def paService (cell off : Nat) : Nat := serviceBase + cell * 2 ^ 16 + off

/-- A byte of the read-only views that a launch maps at sr.cmap: the cell map and the meter view (R64, R374). -/
def paView (r : RegionId) (off : Nat) : Nat := 2 ^ 47 + r * 2 ^ 26 + off

/-- The home of a flat physical address (R83). DESIGN CHOICE (log 73): the views at sr.cmap (cell map and meters), whose
home the manual does not name, have HBM slice 0 of frame 0, and the own memory of a service cell has a home of its own.
Which port serves a CXL page, and which home of another package its address has, is fixed and free (log 81). -/
def homeOf (pa : Nat) : Home :=
  if pa < 2 ^ 32 then .cell (pa / 2 ^ 16)
  else if serviceBase ≤ pa ∧ pa < serviceEnd then .service ((pa - serviceBase) / 2 ^ 16)
  else if pa < 2 ^ 40 then .vault ((pa - 2 ^ 32) / 2 ^ 24)
  else if pa < 2 ^ 43 then .hbm ((pa - 2 ^ 40) / 2 ^ 36) (((pa - 2 ^ 40) % 2 ^ 36 / 256) % 96)
  else if pa < 2 ^ 44 then .cxl (Config.cxlPort ((pa - 2 ^ 43) / 2 ^ 16) % 4)
  else if pa < 2 ^ 47 then .host ((pa - 2 ^ 44) / 2 ^ 42)
  else if pa < 2 ^ 48 then .hbm 0 0
  else .remote (Config.remoteHome ((pa - 2 ^ 48) / 256))

/-- The number of the 64-byte line of an address. -/
def lineOf (pa : Nat) : Nat := pa / 64

/-! ### Reading through a write queue (R87, R95) -/

/-- One operation of R269 to R271 on the bits of a type: integers wrap; floating forms round RNE and raise nothing. -/
def rmw (op : RmwOp) (t : Ty) (old b : Nat) : Nat :=
  match op with
  | .swap => b % 2 ^ t.bits
  | .cas => b % 2 ^ t.bits
  | .add =>
    if t.isInt then (old + b) % 2 ^ t.bits
    else ((rawAdd false ((Ty.fmt t).value old) ((Ty.fmt t).value b)).round (Ty.fmt t) .rne).bits
  | .and => (old &&& b) % 2 ^ t.bits
  | .or => (old ||| b) % 2 ^ t.bits
  | .xor => (old ^^^ b) % 2 ^ t.bits
  | .min =>
    if t.isInt then (if intOf t b < intOf t old then b else old) % 2 ^ t.bits
    else (fminmax (Ty.fmt t) false old b).bits
  | .max =>
    if t.isInt then (if intOf t old < intOf t b then b else old) % 2 ^ t.bits
    else (fminmax (Ty.fmt t) true old b).bits

/-- A write-queue entry applied to memory. -/
def WEntry.apply (m : Memory) : WEntry → Memory
  | .write pa bs => m.writeMasked pa bs
  | .red line op ty elems _ =>
    elems.foldl (fun m e =>
      m.setNum (line * 64 + e.1) ty.bytes (rmw op ty (m.num (line * 64 + e.1) ty.bytes) e.2.toNat)) m

/-- Memory as loads see it: the entries of the write queues applied in order (R87). -/
def throughWq (m : Memory) (wq : List (Home × WEntry)) : Memory :=
  wq.foldl (fun m e => WEntry.apply m e.2) m

end Sys2Proof.Machine
end

