-- ==== Sys2Proof/Machine/Formats.lean ====
section
/-!
DEFINITION. Block formats and page formats: BFP values, exponent pairs and encoding (R110, R111, R229, R230), MX
decode (R112), the element and companion geometry of a page (R73, R75), and exact block sums (R118, R119).
-/
namespace Sys2Proof.Machine

/-! ### Page formats (R73, R75) -/

/-- Element bits of a format code; 0 for raw and reserved codes (R73). -/
def fmtEbits : Nat → Nat
  | 1 | 3 | 4 | 6 | 7 | 8 => 8
  | 2 | 5 => 4
  | 9 | 10 => 16
  | _ => 0

/-- Companion bytes of a block; 0 for a format without blocks (R73). -/
def fmtCb : Nat → Nat
  | 1 | 2 => 2
  | 3 | 4 | 5 | 6 => 1
  | _ => 0

/-- Element pages that one companion page serves (R73). -/
def fmtSlots : Nat → Nat
  | 1 | 5 => 16
  | 2 => 8
  | 3 | 4 | 6 => 32
  | _ => 0

/-- Bytes of one block of a block format. -/
def fmtBlockBytes (fmt : Nat) : Nat := fmtEbits fmt * 32 / 8

/-- Offset of an element's companion bytes from the companion page (R75): page bytes, slot, byte offset. -/
def companionOff (fmt pageBytes slot off : Nat) : Nat :=
  let e := off * 8 / fmtEbits fmt
  let blocks := pageBytes * 8 / (fmtEbits fmt * 32)
  slot * blocks * fmtCb fmt + e / 32 * fmtCb fmt

/-! ### Values (R110, R112) -/

/-- A BFP element under its pair (R110); `four` selects BFP4. -/
def bfpValue (four : Bool) (raw e0 e1 : Nat) : FVal :=
  let mb := if four then 2 else 6
  let m := bitsAt raw 0 mb
  let s := bitsAt raw mb 1 == 1
  let e := if bitsAt raw (mb + 1) 1 = 1 then e1 else e0
  if e = 0 then .fin s 0 0
  else if e = 0xFF then (if m = 0 then .inf s else .nan false)
  else .fin s m ((e : Int) - 127 - (mb - 1 : Nat))

/-- An element of a page format with its companion bytes, lowest first (R112). -/
def pageValue (fmt raw comp : Nat) : FVal :=
  let mx (v : FVal) : FVal :=
    if comp % 256 = 0xFF then .nan false
    else match v with
      | .fin n m e => .fin n m (e + (comp % 256 : Nat) - 127)
      | w => match w with
        | .nan _ => .nan false
        | x => x
  match fmt with
  | 1 => bfpValue false raw (comp % 256) (comp / 256 % 256)
  | 2 => bfpValue true raw (comp % 256) (comp / 256 % 256)
  | 3 => mx (FFmt.e4m3.value (raw % 256))
  | 4 => mx (FFmt.e5m2.value (raw % 256))
  | 5 => mx (FFmt.e2m1.value (raw % 16))
  | 6 => mx (let k := signedOf 8 raw; .fin (decide (k < 0)) k.natAbs (-6))
  | 7 => FFmt.e4m3.value (raw % 256)
  | 8 => match FFmt.e5m2.value (raw % 256) with
    | .nan _ => .nan false
    | v => v
  | 9 => FFmt.bf16.value (raw % 2 ^ 16)
  | _ => FFmt.f16.value (raw % 2 ^ 16)

/-- The FP32 that a decoding load delivers, and its flags (R112): an MX product may round, every other decode is exact
and raises nothing. -/
def pageDecode (fmt raw comp : Nat) : FRes :=
  let r := (rawOf (pageValue fmt raw comp)).round .f32 .rne
  if 3 ≤ fmt && fmt ≤ 6 then r else ⟨r.bits, 0⟩

/-! ### Encoding a block (R111, R229, R230) -/

/-- q, mmax and gap of R111. -/
def bfpQ (four : Bool) : Nat := if four then 1 else 5
def bfpMax (four : Bool) : Nat := if four then 3 else 63
def bfpGap (four : Bool) : Nat := if four then 2 else 3

/-- m × 2^e ≤ bnd × 2^k, with bnd = mmax / q (R111). -/
def withinBnd (four : Bool) (m : Nat) (e k : Int) : Bool :=
  let e0 := min (e + bfpQ four) k
  scaled false m (e + bfpQ four) e0 ≤ scaled false (bfpMax four) k e0

/-- a ≤ b for magnitudes. -/
def magLe (a b : Nat × Int) : Bool :=
  let e0 := min a.2 b.2
  scaled false a.1 a.2 e0 ≤ scaled false b.1 b.2 e0

/-- The largest finite magnitude of a block, (0, 0) if none. -/
def blockMax : List FVal → Nat × Int
  | [] => (0, 0)
  | .fin _ m e :: xs =>
    let r := blockMax xs
    if magLe (m, e) r then r else (m, e)
  | _ :: xs => blockMax xs

/-- The exponent pair of 32 FP32 values (first part of R111): E0, E1. -/
def bfpPair (four : Bool) (xs : List FVal) : Nat × Nat :=
  let special := xs.any fun v => match v with | .fin _ _ _ => false | _ => true
  let mm := blockMax xs
  let hi : Nat :=
    if mm.1 = 0 then 0
    else
      let e := (Nat.log2 mm.1 : Int) + mm.2
      let h := if withinBnd four mm.1 mm.2 e then e + 127 else e + 128
      if h < 1 then 1 else if h > 254 then 254 else h.toNat
  if special then (hi, 0xFF)
  else (if hi = 0 then 0 else Nat.max (hi - bfpGap four) 1, hi)

/-- {selector, sign, m} of one element. -/
def bfpCode (four : Bool) (sel s : Bool) (m : Nat) : Nat :=
  let mb := if four then 2 else 6
  (if sel then 2 ^ (mb + 1) else 0) + (if s then 2 ^ mb else 0) + m

/-- Encode one element of sign `s` under a pair (R230; the same element as R111 under the pair of R111). -/
def bfpEncode (four : Bool) (e0 e1 : Nat) (mode : RMode) (s : Bool) : FVal → FRes
  | .inf _ =>
    if e1 = 0xFF then ⟨bfpCode four true s 0, 0⟩ else ⟨bfpCode four true s (bfpMax four), fIV⟩
  | .nan sig =>
    if e1 = 0xFF then ⟨bfpCode four true s 1, fWhen sig fIV⟩
    else ⟨bfpCode four true s (bfpMax four), fIV⟩
  | .fin _ m e =>
    let special := e1 = 0xFF
    let sel := !(special || (e0 ≠ 0 && withinBnd four m e ((e0 : Int) - 127)))
    let x := if sel then e1 else e0
    if x = 0 then ⟨bfpCode four sel s 0, fWhen (m ≠ 0) fIX⟩
    else if x = 0xFF then ⟨bfpCode four sel s 1, fIV⟩
    else
      let r := roundMag mode ⟨s, m, e + bfpQ four + 127 - (x : Int), false⟩ 0
      if r.1 > bfpMax four then ⟨bfpCode four sel s (bfpMax four), fOF ||| fIX⟩
      else ⟨bfpCode four sel s r.1, fWhen r.2 fIX⟩

/-! ### Block sums (R118, R119) -/

/-- The value of an operand of the matrix unit (R118, R246): FP8 NaNs count as quiet. -/
def operandValue (t : Ty) (raw e0 e1 : Nat) : FVal :=
  match t with
  | .bfp8 => bfpValue false raw e0 e1
  | .bfp4 => bfpValue true raw e0 e1
  | t =>
    match (Ty.fmt t).value raw with
    | .nan s => .nan (s && t.bytes == 2)
    | v => v

/-- What the products of a block hold (R118): a NaN, an invalid product or a signalling operand, infinities of either
sign, and the exact sum of the finite ones in units of 2^`bsumExp`. -/
structure BTerms where
  nan : Bool
  iv : Bool
  pos : Bool
  neg : Bool
  k : Int
  deriving DecidableEq, Repr

/-- Common exponent of the exact sum: every product of the input formats is a multiple of 2^−320. -/
def bsumExp : Int := -320

/-- The products of a block, one after another. -/
def blockTerms : List (FVal × FVal) → BTerms
  | [] => ⟨false, false, false, false, 0⟩
  | p :: ps =>
    let t := blockTerms ps
    match prodVal p.1 p.2 with
    | none => { t with nan := true, iv := true }
    | some (.nan s) => { t with nan := true, iv := t.iv || s }
    | some (.inf n) => if n then { t with neg := true } else { t with pos := true }
    | some (.fin n m e) => { t with k := t.k + scaled n m e bsumExp }

/-- The sum of the products of a block (R118): a value, or NaN with or without IV. -/
inductive BSum
  | nan (iv : Bool)
  | inf (neg : Bool)
  | fin (k : Int)
  deriving DecidableEq, Repr

/-- The exact block sum (R118). -/
def blockSum (ps : List (FVal × FVal)) : BSum :=
  let t := blockTerms ps
  let mixed := t.pos && t.neg
  if t.nan || mixed then .nan (t.iv || mixed)
  else if t.pos then .inf false
  else if t.neg then .inf true
  else .fin t.k

/-- An accumulator element after one K block (R118): bits and flags IV, OF. -/
def accStep (c : Nat) (s : BSum) : FRes :=
  let v := FFmt.f32.value c
  let sig := fWhen v.isSig fIV
  match s with
  | .nan iv => ⟨FFmt.f32.nanBits, fWhen iv fIV ||| sig⟩
  | .inf n =>
    let r := (rawAdd false v (.inf n)).round .f32 .rne
    ⟨r.bits, r.flags &&& fIV⟩
  | .fin k =>
    if k = 0 then ⟨c, 0⟩
    else
      let t := roundTo .f32 .rne ⟨decide (k < 0), k.natAbs, bsumExp, false⟩
      let r := (rawAdd false v (FFmt.f32.value t.bits)).round .f32 .rne
      ⟨r.bits, (t.flags ||| r.flags) &&& (fIV ||| fOF)⟩

end Sys2Proof.Machine
end

