-- ==== Sys2Proof/Machine/Flags.lean ====
section
/-!
DEFINITION. Floating-point control and status (R120 to R123), the resolution of rounding modes (R114, R116), and the
flags that instructions raise. The sticky flag of saturating integer forms (R107) is here too.
-/
namespace Sys2Proof.Machine

/-! ### Causes (R329) -/

def cIllegal : Nat := 0x01
def cTarget : Nat := 0x02
def cFetchParity : Nat := 0x03
def cStall : Nat := 0x04
def cPrivilege : Nat := 0x05
def cUserTrap : Nat := 0x06
def cDeterminism : Nat := 0x07
def cMode : Nat := 0x08
def cChannel : Nat := 0x09
def cLocality : Nat := 0x0A
def cBound : Nat := 0x0B
def cUnassigned : Nat := 0x0C
def cStraddle : Nat := 0x0D
def cOverflow : Nat := 0x0E
def cPeer : Nat := 0x0F
def cTranslation : Nat := 0x10
def cProtection : Nat := 0x11
def cFormat : Nat := 0x12
def cUncorrectable : Nat := 0x13
def cMisaligned : Nat := 0x14
def cAtomicHome : Nat := 0x15
def cScope : Nat := 0x16
def cPairOverlap : Nat := 0x17
def cHandleBusy : Nat := 0x18
def cEmptyHandle : Nat := 0x19
def cMatrix : Nat := 0x1A
def cFp : Nat := 0x1B
def cLoop : Nat := 0x1C
def cContest : Nat := 0x1D
def cFabricState : Nat := 0x1E
def cFabricOperand : Nat := 0x1F
def cFabricSat : Nat := 0x20
def cMailSize : Nat := 0x21
def cSignature : Nat := 0x22
def cCellError : Nat := 0x23

/-! ### Rounding modes (R114, R116) -/

/-- The mode that a rounding code selects: code 0 names sr.fpctl.rm, whose codes 0 and 7 never stand there. -/
def resolveRnd (fpctl : Word) (r : Rnd) : Rnd :=
  if r == .dyn then
    match Rnd.ofCode (fpctl.extractLsb' 0 3) with
    | .dyn => .rne
    | m => m
  else r

/-- A cell's rounding key (R116): sr.seed ⊕ (sr.lcell.num << 32). -/
def srKey (c : SrBank) : Word := c.seed ^^^ (((c.lcell &&& 0xFFFF) <<< 32))

/-- The random word of a counter value (R116). -/
def srWord (c : SrBank) (n : Word) : Nat := bitsAt (hivemix (srKey c) n).toNat 32 32

/-- The mode for element `i` of an instruction (R114, R116). -/
def modeAt (c : SrBank) (r : Rnd) (i : Nat) : RMode :=
  match resolveRnd c.fpctl r with
  | .dyn | .rne => .rne
  | .rtz => .rtz
  | .rup => .rup
  | .rdn => .rdn
  | .rna => .rna
  | .sr => .sr (srWord c (c.srctr + BitVec.ofNat 64 i))

/-- sr.srctr after an instruction that rounds `n` elements (R116, R218). -/
def SrBank.consume (c : SrBank) (r : Rnd) (n : Nat) : SrBank :=
  if resolveRnd c.fpctl r == .sr then { c with srctr := c.srctr + BitVec.ofNat 64 n } else c

/-! ### Raising flags (R121, R123) -/

/-- The union of the flags of the elements. -/
def orFlags (fs : List FFlags) : FFlags := fs.foldr (· ||| ·) 0

/-- The exceptions enabled in sr.fpctl, in the order of the flags (R120, R121). -/
def fpEnables (c : SrBank) : FFlags := c.fpctl.extractLsb' 4 5

/-- The lowest element that raised an enabled exception. -/
def fpLane (en : FFlags) : List FFlags → Nat → Nat
  | [], _ => 0
  | f :: fs, i => if f &&& en != 0 then i else fpLane en fs (i + 1)

/-- sr.fpstat with sticky flags set (R121). -/
def SrBank.raise (c : SrBank) (f : FFlags) : SrBank := { c with fpstat := c.fpstat ||| f.zeroExtend 64 }

/-- sr.fpstat with the flag of a clamped integer form (R107). -/
def SrBank.setSv (c : SrBank) (clamped : Bool) : SrBank :=
  if clamped then { c with fpstat := c.fpstat ||| 0x20 } else c

/-- Flags, and the bank with them raised; an enabled one asks for a trap, whose cause and lane the bank then holds
(R121, R123). -/
def SrBank.fpDone (c : SrBank) (fs : List FFlags) : SrBank × Bool :=
  let all := orFlags fs
  let en := fpEnables c
  let c := c.raise all
  if all &&& en = 0 then (c, false)
  else
    let lane := BitVec.ofNat 6 (fpLane en fs 0)
    let keep : Word := c.fpstat &&& 0xFFFFFFFFFFC0E0FF
    ({ c with fpstat := keep ||| (lane.zeroExtend 64 <<< 16) ||| ((all &&& en).zeroExtend 64 <<< 8) }, true)

end Sys2Proof.Machine
end

