-- ==== Sys2Proof/Machine/Operands.lean ====
section
/-!
DEFINITION. Operand forms: reads of g, v and m registers (R167), source modifiers (R168, R169), inline constants,
predicates (R174), and writes of results with their latency (R179, R180).
-/
namespace Sys2Proof.Machine

/-! ### Registers (R167) -/

/-- A g register: g0 reads 0. -/
def Regs.rg (R : Regs) (r : BitVec 6) : Word := if r = 0 then 0 else R.g.get r.toFin
/-- A v register. -/
def Regs.rv (R : Regs) (r : BitVec 5) : VWord := R.v.get r.toFin
/-- An m register: m0 reads all ones. -/
def Regs.rm (R : Regs) (r : BitVec 3) : MWord := if r = 0 then 0xFFFFFFFF else R.m.get r.toFin

/-- A g register written: a write to g0 is discarded. -/
def Regs.wg (R : Regs) (r : BitVec 6) (x : Word) : Regs := if r = 0 then R else { R with g := R.g.set r.toNat x r.isLt }
def Regs.wv (R : Regs) (r : BitVec 5) (x : VWord) : Regs := { R with v := R.v.set r.toNat x r.isLt }
/-- An m register written: a write to m0 is discarded. -/
def Regs.wm (R : Regs) (r : BitVec 3) (x : MWord) : Regs := if r = 0 then R else { R with m := R.m.set r.toNat x r.isLt }

/-! ### Predicates (R174) -/

/-- The mask p of an instruction. -/
def predMask (h : Hdr) (R : Regs) : MWord := if h.pneg then ~~~(R.rm h.preg) else R.rm h.preg

/-- Does an instruction that is whole execute: bit 0 of p. -/
def predOn (h : Hdr) (R : Regs) : Bool := (predMask h R).getLsbD 0

/-! ### Scalar sources (R167, R169, R193) -/

/-- The extension of a modifier. -/
def Ext.apply (e : Ext) (x : Word) : Word :=
  match e with
  | .none => x
  | .sx8 => sext64 8 x.toNat
  | .sx16 => sext64 16 x.toNat
  | .sx32 => sext64 32 x.toNat
  | .zx8 => zext64 8 x.toNat
  | .zx16 => zext64 16 x.toNat
  | .zx32 => zext64 32 x.toNat

/-- A modifier applied to a value (R169): extension first, then the shift. -/
def GMod.apply (m : GMod) (x : Word) : Word :=
  let y := Ext.apply m.ext x
  match m.shift with
  | .none => y
  | .shl => y <<< m.dist.toNat
  | .shr => y >>> m.dist.toNat
  | .sar => y.sshiftRight m.dist.toNat

/-- A g register prepared. -/
def Regs.gr (R : Regs) (x : GReg) : Word := GMod.apply x.m (R.rg x.r)

/-- A scalar source prepared. -/
def Regs.gs (R : Regs) : GSrc → Word
  | .reg x => R.gr x
  | .imm k => immWord k

/-- A source of the FP64 unit as FP64 bits (R236). -/
def Regs.fs (R : Regs) : FSrc → Nat
  | .reg r => (R.rg r).toNat
  | .imm k => immBits .f64 k

/-! ### Lane sources (R168, R217) -/

/-- Lane `j` as a modifier reads it. -/
def VMod.lane (m : VMod) (j : Nat) : Nat :=
  let s := 2 ^ m.seg.toNat
  let r := j % s
  let b := j - r
  match m.cls with
  | .none => j
  | .rot => b + (r + m.dist.toNat) % s
  | .bfly => b + (r ^^^ m.dist.toNat)
  | .bcast => b + m.dist.toNat

/-- The lanes of width `w` bits of a v register, rearranged. -/
def Regs.vrLanes (R : Regs) (w : Nat) (x : VReg) : List Nat :=
  (List.range (256 / w)).map fun j => laneOf w (R.rv x.r) (VMod.lane x.m j)

/-- The lanes of a lane source of a type. -/
def Regs.vs (R : Regs) (t : Ty) : VSrc → List Nat
  | .reg x => R.vrLanes t.bits x
  | .imm k => List.replicate t.lanes (immBits t k)

/-- The lanes of a v register without modifier. -/
def Regs.vl (R : Regs) (t : Ty) (r : BitVec 5) : List Nat := lanesOf t.bits (R.rv r)

/-! ### Results (R179, R180, R193) -/

/-- A mathematical integer modulo 2^w, extended to 64 bits by the type (R193). -/
def extByType (t : Ty) (r : Int) : Word :=
  if t.signed then sext64 t.bits (wrapNat t.bits r) else zext64 t.bits (wrapNat t.bits r)

/-- Register specifiers (R167). -/
def specG (r : BitVec 6) : BitVec 8 := r.zeroExtend 8
def specV (r : BitVec 5) : BitVec 8 := 0x40 + r.zeroExtend 8
def specM (r : BitVec 3) : BitVec 8 := 0x60 + r.zeroExtend 8

/-- Write a register named by its specifier; other files and g0, m0 discard the write. -/
def Regs.wspec (R : Regs) (spec : BitVec 8) (x : VWord) : Regs :=
  if spec < 0x40 then R.wg (spec.extractLsb' 0 6) (x.extractLsb' 0 64)
  else if spec < 0x60 then R.wv (spec.extractLsb' 0 5) x
  else if spec < 0x68 then R.wm (spec.extractLsb' 0 3) (x.extractLsb' 0 32)
  else R

/-- A result of latency class `lat` (R179, R180). A result of latency 1, and an interlocked one, stands in the
register at once, since no earlier reader of the group sees it and later readers wait for it; it ends every open
window of its register. A longer one opens a window and ends those that would close after it. -/
def Ctx.result (c : Ctx) (spec : BitVec 8) (lat : Nat) (x : VWord) : Ctx :=
  if spec = 0 || spec = 0x60 then c
  else if lat ≤ 1 then
    { c with regs := c.regs.wspec spec x, openW := c.openW.filter fun w => w.spec != spec }
  else { c with openW := (c.openW.filter fun w => w.spec != spec || w.left ≤ lat) ++ [⟨spec, lat, x⟩] }

def Ctx.resG (c : Ctx) (r : BitVec 6) (lat : Nat) (x : Word) : Ctx := c.result (specG r) lat (x.zeroExtend 256)
def Ctx.resV (c : Ctx) (r : BitVec 5) (lat : Nat) (x : VWord) : Ctx := c.result (specV r) lat x
def Ctx.resM (c : Ctx) (r : BitVec 3) (lat : Nat) (x : MWord) : Ctx := c.result (specM r) lat (x.zeroExtend 256)

/-- Open windows after a distance (R179, R180): those that close, oldest first, reach their registers. `none` closes
every window. -/
def Ctx.age (c : Ctx) (d : Option Nat) : Ctx :=
  let closes := fun (w : OpenWrite) => match d with
    | none => true
    | some n => decide (w.left ≤ n)
  let done := c.openW.filter closes
  let rest := (c.openW.filter fun w => !closes w).map fun w =>
    { w with left := w.left - d.getD 0 }
  let sorted := (List.range 17).flatMap fun k => done.filter fun w => w.left == k
  { c with regs := sorted.foldl (fun R w => R.wspec w.spec w.val) c.regs, openW := rest }

/-- Lanes merged under a predicate into the old value of the destination (R217). -/
def Ctx.mergeV (c : Ctx) (p : MWord) (t : Ty) (d : BitVec 5) (lanes : List Nat) : VWord :=
  mergeLanes t.bits p (c.regs.rv d) (ofLanes t.bits lanes)

end Sys2Proof.Machine
end

