-- ==== Sys2Proof/Machine/Translate.lean ====
section
/-!
DEFINITION. Where an access goes: positions of cells (R16, R17), windows and their bounds (R59 to R63), stack accesses
(R68), TLB entries and lookup (R339 to R342), imports (R351), superstep locality (R35), the order of the address
checks of R262, companions of a decoding access (R75, R76), and scopes (R88, R89).
-/
namespace Sys2Proof.Machine

/-! ### Positions (R16) -/

def cellFrame (i : CellId) : Nat := i / 8192
def cellFci (i : CellId) : Nat := i % 8192
/-- The comb of a cell, counted over the package. -/
def cellComb (i : CellId) : CombId := i / 128
/-- The comb cell index c. -/
def cellIdx (i : CellId) : Nat := i % 128
def combFrame (k : CombId) : Nat := k / 64
def cellX (i : CellId) : Nat := (cellFrame i % 4) * 128 + (cellComb i % 64 % 8) * 16 + cellIdx i % 16
def cellY (i : CellId) : Nat := (cellFrame i / 4) * 64 + (cellComb i % 64 / 8) * 8 + cellIdx i / 16

/-- The cell a context runs on; a service context has none. -/
def Ctx.cell? (c : Ctx) : Option CellId :=
  match c.place with
  | .user i => some i
  | _ => none

/-- The cell of a user context, 0 for a service context. -/
def Ctx.cell (c : Ctx) : CellId := c.cell?.getD 0

/-- The comb a context runs in; the security processor on the hub is in none. -/
def Ctx.comb? (c : Ctx) : Option CombId :=
  match c.place with
  | .user i => some (cellComb i)
  | .supervisor k => some k
  | .translator k => some k
  | .security => none

/-- The comb of a context. DESIGN CHOICE (log 67): the manual gives the security processor no cell clock; its sr.cyc
counts, and stops in a relock, with the clock of frame 0. -/
def Ctx.comb (c : Ctx) : CombId := c.comb?.getD 0

/-- The number of a service cell (R14, log 79): supervisor and translation cell of each comb, then the security
processor. -/
def Ctx.service? (c : Ctx) : Option Nat :=
  match c.place with
  | .user _ => none
  | .supervisor k => some (2 * k)
  | .translator k => some (2 * k + 1)
  | .security => some 1024

/-! ### Records -/

def State.ctxs (s : State) : List Ctx := s.th :: s.pool
def State.ctx? (s : State) (c : CtxId) : Option Ctx := s.ctxs.find? fun x => x.cid == c
def State.region? (s : State) (r : Option RegionId) : Option Region :=
  match r with
  | none => none
  | some r => s.regions.find? fun x => x.id == r
def State.cellRec (s : State) (i : CellId) : CellRec := (s.cells.find? fun x => x.id == i).getD (.reset i)
def State.combRec (s : State) (k : CombId) : CombRec := (s.combs.find? fun x => x.id == k).getD (.reset k)
def State.frameRec (s : State) (f : Nat) : FrameRec := (s.frames.find? fun x => x.id == f).getD (.reset f)

def State.setCell (s : State) (x : CellRec) : State := { s with cells := upsert (fun y => y.id == x.id) x s.cells }
def State.setComb (s : State) (x : CombRec) : State := { s with combs := upsert (fun y => y.id == x.id) x s.combs }
def State.setFrame (s : State) (x : FrameRec) : State := { s with frames := upsert (fun y => y.id == x.id) x s.frames }
/-- Change every context with an identifier. -/
def State.updCtx (s : State) (c : CtxId) (f : Ctx → Ctx) : State :=
  { s with th := if s.th.cid = c then f s.th else s.th, pool := updateAll (fun x => x.cid == c) f s.pool }
def State.updRegion (s : State) (r : RegionId) (f : Region → Region) : State :=
  { s with regions := updateAll (fun x => x.id == r) f s.regions }

/-! ### Stopped clocks (R370) -/

/-- The cell clocks of a frame stand still in a relock. -/
def State.stopped (s : State) (f : Nat) : Bool := (s.frameRec f).relock.isSome
/-- The clocks of a context's cell stand still: the FIFOs between its cell and the routers hold every flit. -/
def State.ctxStopped (s : State) (c : CtxId) : Bool := (s.ctx? c).any fun x => s.stopped (combFrame x.comb)
/-- The clocks of a home in the cell domain stand still. DESIGN CHOICE (log 60): vaults, event units and memory ports lie in
the router domain. -/
def State.homeStopped (s : State) : Home → Bool
  | .cell i => s.stopped (cellFrame i)
  | .service n => n < 1024 && s.stopped (n / 128)
  | _ => false
/-- The clocks of a source in the cell domain stand still. -/
def State.sourceStopped (s : State) : Source → Bool
  | .ctx c | .wcb c | .engine c _ => s.ctxStopped c
  | .hub _ | .fabric _ => false

/-- The region of a context. -/
def State.regionOf (s : State) (c : Ctx) : Option Region := s.region? c.region
/-- Free mode: a context without a region counts as free. -/
def State.isFree (s : State) (c : Ctx) : Bool := ((s.regionOf c).map fun r => r.a.free).getD true
/-- The determinism level sr.det reports (R125). -/
def detLevel (c : Ctx) : Nat := c.sr.det.toNat % 4
/-- Logical cell number (R18). -/
def Ctx.logical (c : Ctx) : Nat := c.sr.lcell.toNat % 2 ^ 16

/-! ### TLB entries (R340, R341) -/

def TlbEntry.asid (e : TlbEntry) : Nat := bitsAt e.w0.toNat 48 16
def TlbEntry.vpn (e : TlbEntry) : Nat := bitsAt e.w0.toNat 8 40
def TlbEntry.size (e : TlbEntry) : Nat := bitsAt e.w0.toNat 6 2
def TlbEntry.valid (e : TlbEntry) : Bool := bitsAt e.w0.toNat 5 1 == 1
def TlbEntry.slot (e : TlbEntry) : Nat := bitsAt e.w0.toNat 0 5
def TlbEntry.kind (e : TlbEntry) : Nat := bitsAt e.w1.toNat 61 3
def TlbEntry.ppn (e : TlbEntry) : Nat := bitsAt e.w1.toNat 35 26
def TlbEntry.cdelta (e : TlbEntry) : Int := signedOf 19 (bitsAt e.w1.toNat 16 19)
def TlbEntry.fmt (e : TlbEntry) : Nat := bitsAt e.w1.toNat 12 4
def TlbEntry.geom (e : TlbEntry) : Nat := bitsAt e.w1.toNat 8 4
def TlbEntry.r (e : TlbEntry) : Bool := bitsAt e.w1.toNat 7 1 == 1
def TlbEntry.w (e : TlbEntry) : Bool := bitsAt e.w1.toNat 6 1 == 1
def TlbEntry.x (e : TlbEntry) : Bool := bitsAt e.w1.toNat 5 1 == 1
def TlbEntry.d (e : TlbEntry) : Bool := bitsAt e.w1.toNat 4 1 == 1
def TlbEntry.ep (e : TlbEntry) : Nat := bitsAt e.w1.toNat 3 1
def TlbEntry.setD (e : TlbEntry) : TlbEntry := { e with w1 := e.w1 ||| 0x10 }

/-- Page bytes of a size code (R340). -/
def pageBytes (size : Nat) : Nat := if size = 0 then 2 ^ 16 else if size = 1 then 2 ^ 21 else 2 ^ 30
def TlbEntry.bytes (e : TlbEntry) : Nat := pageBytes e.size
/-- First virtual address of the page. -/
def TlbEntry.base (e : TlbEntry) : Nat := e.vpn * 2 ^ 16
def TlbEntry.covers (e : TlbEntry) (asid va : Nat) : Bool :=
  e.valid && e.asid == asid && e.base ≤ va && va < e.base + e.bytes

/-- The flat physical address of a virtual address under an entry (R341, log 6). -/
def TlbEntry.pa (e : TlbEntry) (va : Nat) : Nat :=
  let off := va - e.base
  match e.kind with
  | 0 => paHbm (bitsAt e.ppn 23 3) (bitsAt e.ppn 0 20 * 2 ^ 16 + off)
  | 1 => paCxl (e.ppn * 2 ^ 16 + off)
  | 2 => paHost e.ep (e.ppn * 2 ^ 16 + off)
  | 3 =>
    let f := bitsAt e.ppn 23 3
    let p := bitsAt e.ppn 0 15
    if p < 8192 then paLocal (f * 8192 + p) off
    else paVault (f * 64 + (p - 8192) / 256) ((p - 8192) % 256 * 2 ^ 16 + off)
  | _ => paRemote 0 0 0 e.ppn off

/-- The exporter's page of an entry of kind 4 (R341, R351): the import that its index names in the frame's table. -/
def FrameRec.importPa (f : FrameRec) (e : TlbEntry) (off : Nat) : Option Nat :=
  (f.imports.find? fun m => m.index == bitsAt e.ppn 16 10 && !m.revoked).map fun m =>
    let w := (m.words.getD 2 0).toNat
    paRemote (bitsAt w 46 18) (bitsAt w 43 3) (bitsAt (m.words.getD 3 0).toNat 48 16) (bitsAt w 0 40 + bitsAt e.ppn 0 16) off

/-- The flat physical address of a virtual address for a context (R341, R351, log 6). -/
def State.entryPa (s : State) (c : Ctx) (e : TlbEntry) (va : Nat) : Option Nat :=
  if e.kind = 4 then (s.frameRec (combFrame c.comb)).importPa e (va - e.base) else some (e.pa va)

/-- Most recently used first: the entry moves to the front of a TLB of `cap` entries, and entries of its asid that
overlap it leave (R339, R343). -/
def tlbPut (cap : Nat) (e : TlbEntry) (tlb : List TlbEntry) : List TlbEntry :=
  (e :: tlb.filter fun y => !(y.asid == e.asid && y.base < e.base + e.bytes && e.base < y.base + y.bytes)).take cap

/-! ### Accesses -/

/-- Kinds of use of an access (R342). -/
inductive Use
  | read | write | fetch
  deriving DecidableEq, Repr

def Part.home (p : Part) : Home := homeOf p.pa

/-- The aligned 64-byte pieces of a range (R84). -/
def splitLines (va len : Nat) : List (Nat × Nat) :=
  (List.range ((va % 64 + len + 63) / 64)).map fun i =>
    let lo := if i = 0 then va else va / 64 * 64 + 64 * i
    let hi := min (va + len) (va / 64 * 64 + 64 * (i + 1))
    (lo, hi - lo)

/-- The import of a frame that covers an address of the peer window (R72, R351); a revoked import covers nothing (R352). -/
def FrameRec.import? (f : FrameRec) (va : Nat) : Option Import :=
  f.imports.find? fun m =>
    let base := 2 ^ 40 + (m.words.getD 0 0).toNat % 2 ^ 40 * 2 ^ 16
    !m.revoked && base ≤ va && va < base + (m.words.getD 1 0).toNat % 2 ^ 32 * 2 ^ 16
def FrameRec.imported (f : FrameRec) (va : Nat) : Bool := (f.import? va).isSome

/-- What an import grants (R351): reads, writes, decoding. -/
def Import.r (m : Import) : Bool := (m.words.getD 3 0).getLsbD 0
def Import.w (m : Import) : Bool := (m.words.getD 3 0).getLsbD 1
def Import.decode (m : Import) : Bool := (m.words.getD 3 0).getLsbD 2
/-- The page format of an entry under an import: raw without decode (R79, R351). -/
def Import.narrow (m : Import) (e : TlbEntry) : TlbEntry := if m.decode then e else { e with w1 := e.w1 &&& 0xFFFFFFFFFFFF0FFF }
/-- An import allows a use; it never allows a fetch. DESIGN CHOICE (log 72): an export names r and w and no right to
execute. -/
def Import.allows (m : Import) : Use → Bool
  | .read => m.r
  | .write => m.w
  | .fetch => false

/-- The import of a context's frame that an address of the peer window goes through. -/
def State.importOf (s : State) (c : Ctx) (va : Nat) : Option Import :=
  if va < 2 ^ 48 then (s.frameRec (combFrame c.comb)).import? va else none

/-- The entry that translates an address for a context: its cell TLB, then its comb TLB (R339). -/
def State.tlbFind (s : State) (c : Ctx) (va : Nat) : Option TlbEntry :=
  let own := match c.cell? with
    | some i => (s.cellRec i).tlb.find? fun e => e.covers c.asid.toNat va
    | none => none
  own <|> (s.combRec c.comb).tlb.find? fun e => e.covers c.asid.toNat va

/-- The level of a translated page (R71). DESIGN CHOICE (log 92): the table does not list pages of another frame's local
memory or vault, or of another package, that a program reaches in paged global space; they count as peer. -/
def pageLevel (va : Nat) (e : TlbEntry) : MLevel :=
  if va < 2 ^ 48 then .peer
  else match e.kind with
    | 0 => .hbm
    | 1 => .cxl
    | 2 => .host
    | _ => .peer

/-- The offset of a part in the views that a launch maps at sr.cmap, 4 bytes a cell, and from 0x4_0000 on 256 bytes a cell
(R64, R374): a part that begins there touches a view, and none that begins before does, since the views begin at multiples
of 64. -/
def viewOffset (c : Ctx) (n va : Nat) : Option Nat :=
  let base := c.sr.cmap.toNat
  if base ≤ va ∧ va < base + 4 * n then some (va - base)
  else if base + 0x40000 ≤ va ∧ va < base + 0x40000 + 256 * n then some (va - base)
  else none

/-- The place of an access that touches the views of a context's region. -/
def State.viewAt (s : State) (c : Ctx) (va : Nat) : Option Nat :=
  match s.regionOf c with
  | none => none
  | some r => (viewOffset c r.map.length va).map (paView r.id)

/-- Check and place the parts of a paged access (R262 check 5): superstep locality, peer-unmapped, translation,
protection. `code` allows a load from executable pages that are not writable in superstep mode (R35). -/
def State.pagedParts (s : State) (c : Ctx) (use : Use) (sup : Bool) : List (Nat × Nat) → Except Trap (List Part)
  | [] => .ok []
  | (va, len) :: ps =>
    let w : Word := BitVec.ofNat 64 va
    if sup && (use == .write || va < 2 ^ 48) then .error ⟨cLocality, 0, w⟩
    else if va < 2 ^ 48 && !(s.frameRec (combFrame c.comb)).imported va then .error ⟨cPeer, 0, w⟩
    else
      match s.viewAt c va with
      | some pa =>
        if sup then .error ⟨cLocality, 0, w⟩
        else if use != .read then .error ⟨cProtection, 0, w⟩
        else
          match s.pagedParts c use sup ps with
          | .error t => .error t
          | .ok qs => .ok (⟨va, pa, len, none, .hbm⟩ :: qs)
      | none =>
      match s.tlbFind c va with
      | none => .error ⟨cTranslation, 0, w⟩
      | some e =>
        if sup && use == .read && !(e.x && !e.w) then .error ⟨cLocality, 0, w⟩
        else if !(match use with | .read => e.r | .write => e.w | .fetch => e.x) || !(s.importOf c va).all fun m => m.allows use then
          .error ⟨cProtection, 0, w⟩
        else
          match s.entryPa c e va with
          | none => .error ⟨cPeer, 0, w⟩
          | some pa =>
            match s.pagedParts c use sup ps with
            | .error t => .error t
            | .ok qs => .ok (⟨va, pa, len, some e, pageLevel va e⟩ :: qs)

/-- The entry as a part sees it: under an import, its format is raw unless the import grants decoding (R79, R351). -/
def State.seenEntry (s : State) (c : Ctx) (p : Part) : Option TlbEntry :=
  p.entry.map fun e => ((s.importOf c p.va).map fun m => m.narrow e).getD e

/-- Granules that a region grants (R63). -/
def Region.granules (r : Region) : Nat := r.a.vault / 2 ^ 16

/-- The logical number of a cell of a region. -/
def Region.logicalOf (r : Region) (i : CellId) : Option Nat :=
  let k := r.map.findIdx fun j => j == i
  if k < r.map.length then some k else none

/-- Is a granule of a vault slice granted (R63): the cell whose slice it is, upper or lower. -/
def Region.granted (r : Region) (i : CellId) (upper : Bool) : Bool :=
  match r.logicalOf i with
  | none => false
  | some k => decide (2 * k + (if upper then 1 else 0) < r.granules)

/-- The lowest byte of a range in the vault window that no granted granule holds (R63). -/
def State.vaultBad (s : State) (c : Ctx) (off len : Nat) : Option Nat :=
  ((List.range ((off % 2 ^ 16 + len + 2 ^ 16 - 1) / 2 ^ 16)).find? fun n =>
    let g := off / 2 ^ 16 + n
    let i := cellFrame c.cell * 8192 + g / 2
    !(((s.regionOf c).map fun r => r.granted i (g % 2 == 1)).getD false)).map fun n =>
      if n = 0 then off else (off / 2 ^ 16 + n) * 2 ^ 16

/-- Parts of an access to fixed memory. -/
def fixedParts (va : Nat) (pa len : Nat) (l : MLevel) : List Part :=
  (splitLines va len).map fun p => ⟨p.1, pa + (p.1 - va), p.2, none, l⟩

/-- Superstep mode of the running region (R35). -/
def State.superstep (s : State) (c : Ctx) : Bool := c.level == .user && !s.isFree c

/-- A unit that acts for a context: the locality of superstep mode binds the loads, stores and atomics of the cell, and
the copies and matrix accesses that say so (R35). -/
def Ctx.asUnit (c : Ctx) : Ctx := { c with level := .comb }

/-- The first byte of an access to the vault window that does not lie in the own slice (R35). -/
def sliceLeft (i : CellId) (off : Nat) : Nat := if off / 2 ^ 17 = cellFci i then (cellFci i + 1) * 2 ^ 17 else off

/-- The address checks for an access of a user cell that is no stack access (R59, R61 to R63, then R35, R72, R339,
R342). -/
def State.userPlace (s : State) (c : Ctx) (i : CellId) (use : Use) (va : Word) (len : Nat) : Except Trap (List Part) :=
  let a := va.toNat
  let sup := s.superstep c
  if a < 2 ^ 16 then
    if a + len > 0xF800 then .error ⟨cBound, 0, va⟩
    else .ok (fixedParts a (paLocal i a) len .local_)
  else if 2 ^ 32 ≤ a ∧ a < 2 ^ 32 + 2 ^ 29 then
    let j := cellFrame i * 8192 + (a - 2 ^ 32) / 2 ^ 16
    let off := a % 2 ^ 16
    let inRegion := ((s.regionOf c).map fun r => (r.logicalOf j).isSome).getD false
    if j = i then
      if off + len > 0xF800 then .error ⟨cBound, 0, va⟩ else .ok (fixedParts a (paLocal i off) len .local_)
    else if !inRegion || off + len > c.sr.stklim.toNat then .error ⟨cBound, 0, va⟩
    else if sup then .error ⟨cLocality, 0, va⟩
    else .ok (fixedParts a (paLocal j off) len .local_)
  else if 2 ^ 33 ≤ a ∧ a < 2 ^ 33 + 2 ^ 30 then
    let off := a - 2 ^ 33
    if off + len > 2 ^ 30 || (s.vaultBad c off len).isSome then .error ⟨cBound, 0, va⟩
    else if sup && !(off / 2 ^ 17 == cellFci i && (off + len - 1) / 2 ^ 17 == cellFci i) then
      .error ⟨cLocality, 0, BitVec.ofNat 64 (2 ^ 33 + sliceLeft i off)⟩
    else .ok (fixedParts a (paVault (cellFrame i * 64) off) len .vault)
  else if 2 ^ 40 ≤ a ∧ a < 2 ^ 41 then
    if a + len > 2 ^ 41 then .error ⟨cUnassigned, 0, va⟩ else s.pagedParts c use sup (splitLines a len)
  else if 2 ^ 48 ≤ a ∧ a < 2 ^ 56 then
    if a + len > 2 ^ 56 then .error ⟨cUnassigned, 0, va⟩ else s.pagedParts c use sup (splitLines a len)
  else .error ⟨cUnassigned, 0, va⟩

/-- Does a range lie in another. -/
def within (a len base n : Nat) : Bool := decide (base ≤ a ∧ a + len ≤ base + n)

/-- The page tables that firmware keeps on the stack of its frame (R15, R346, R347), in 16 KiB pages; the rest of the stack
is tenant data or the structures below. DESIGN CHOICE (log 16): which pages hold tables is fixed and free. -/
def inTables (c : Ctx) (a len : Nat) : Bool :=
  decide (2 ^ 48 ≤ a) && decide (0 < len) && ([a, a + len - 1].all fun x => Config.tablePage (combFrame c.comb) (x % 2 ^ 36 / 2 ^ 14))

/-- The pages of a frame's stack that are set aside for the system structures of R330, R332 and R336: no tenant page is
mapped there, and firmware reaches nothing else through the addresses that it writes into its registers (R326). DESIGN
CHOICE (log 16): which pages they are is fixed and free. -/
def inSystem (c : Ctx) (a len : Nat) : Bool :=
  decide (2 ^ 48 ≤ a) && decide (0 < len) && ([a, a + len - 1].all fun x => Config.systemPage (combFrame c.comb) (x % 2 ^ 36 / 2 ^ 14))

/-- The system structures of a comb in paged global space that its service cells reach (R326, R330, R332, R336, R347): its
fault queues, its spill queues, the save areas of its contexts with their data areas, and the page tables. -/
def State.firmwareRange (s : State) (c : Ctx) (a len : Nat) : Bool :=
  match c.comb? with
  | none => false
  | some k =>
    let r := s.combRec k
    inTables c a len || (inSystem c a len &&
      (within a len r.trans.fqbase.toNat 8192 || within a len r.sup.fqbase.toNat 8192 ||
        s.ctxs.any fun x => x.comb? == some k &&
          (within a len (r.sup.spbase.toNat + x.cid * 196608) 196608 || x.saveArea.any fun v => within a len v.toNat (2 ^ 17))))

/-- A context of the comb whose posted fault names the page of an address, as sr.tpc or sr.taddr (R326). -/
def State.servedBy (s : State) (c : Ctx) (a : Nat) : Option Ctx :=
  s.ctxs.find? fun x => x.cell?.isSome && x.comb? == c.comb? &&
    x.fault.any fun f => f.posted && (f.addr.toNat / 2 ^ 16 == a / 2 ^ 16 || f.pc.toNat / 2 ^ 16 == a / 2 ^ 16)

/-- An access of a service cell (R14, R21, R326, log 16, log 79): its own memory, the system areas of its comb's cells,
the system structures of its comb, and, through their translation, the addresses of the faults it services. -/
def State.servicePlace (s : State) (c : Ctx) (n : Nat) (use : Use) (va : Word) (len : Nat) : Except Trap (List Part) :=
  let a := va.toNat
  let j := cellFrame (c.comb * 128) * 8192 + (a - 2 ^ 32) / 2 ^ 16
  if a + len ≤ 2 ^ 16 then .ok (fixedParts a (paService n a) len .local_)
  else if within a len (2 ^ 32) (2 ^ 29) && 0xF800 ≤ a % 2 ^ 16 && a % 2 ^ 16 + len ≤ 2 ^ 16 && c.comb? == some (cellComb j) then
    .ok (fixedParts a (paLocal j (a % 2 ^ 16)) len .local_)
  else if s.firmwareRange c a len then .ok (fixedParts a (paHbm (combFrame c.comb) (a % 2 ^ 36)) len .hbm)
  else
    match s.servedBy c a with
    | none => .error ⟨cUnassigned, 0, va⟩
    | some x => s.userPlace x.asUnit x.cell use va len

/-- The address checks for an access that is no stack access. -/
def State.placeAt (s : State) (c : Ctx) (use : Use) (va : Word) (len : Nat) : Except Trap (List Part) :=
  match c.cell?, c.service? with
  | some i, _ => s.userPlace c i use va len
  | none, some n => s.servicePlace c n use va len
  | none, none => .error ⟨cUnassigned, 0, va⟩

/-- Is a base register sp (R68). -/
def isSp (r : BitVec 6) : Bool := r == 62

/-- Place a stack access (R68). -/
def State.placeStack (s : State) (c : Ctx) (use : Use) (va : Word) (len : Nat) : Except Trap (List Part) :=
  let ea := va.toInt
  let lim : Int := c.sr.stklim.toNat % 2 ^ 16
  let size := c.sr.ovfptr.toNat % 32
  let ovsz : Int := if size = 0 then 0 else (2 ^ size : Nat)
  let top : Int := c.sr.ovfptr.toNat % 2 ^ 56 / 2 ^ 16 * 2 ^ 16
  if lim ≤ ea ∧ ea + len ≤ 0xF800 then .ok (fixedParts ea.toNat (paLocal c.cell ea.toNat) len .local_)
  else if ea + len ≤ lim ∧ lim - ovsz ≤ ea then
    s.pagedParts c use (s.superstep c) (splitLines (top - (lim - ea)).toNat len)
  else if ea < lim ∧ lim < ea + len then .error ⟨cStraddle, 0, va⟩
  else if ea < lim then .error ⟨cOverflow, 0, va⟩
  else .error ⟨cBound, 0, va⟩

/-- Check and place an access (R262 check 5). `stack` says that its base register is sp (R68). DESIGN CHOICE (log 93): a
service cell has no carve-out, and its accesses through sp are ordinary ones. -/
def State.place (s : State) (c : Ctx) (use : Use) (stack : Bool) (va : Word) (len : Nat) : Except Trap (List Part) :=
  if stack && c.cell?.isSome then s.placeStack c use va len else s.placeAt c use va len

/-- The entries an access used, moved to the front of their TLBs; a comb entry is copied into the cell TLB (R339). -/
def State.tlbTouch (s : State) (c : Ctx) (ps : List Part) : State :=
  match c.cell? with
  | none => s
  | some i =>
    let es := (ps.filterMap fun p => p.entry).foldl (fun (l : List TlbEntry) e => if l.head? == some e then l else e :: l) []
    if es.isEmpty then s
    else
      let put := fun (cap : Nat) (t : List TlbEntry) => es.foldr (fun e t => tlbPut cap e t) t
      let cr := s.cellRec i
      let k := s.combRec (cellComb i)
      let s := s.setCell { cr with tlb := put 64 cr.tlb }
      s.setComb { k with tlb := (es.filter fun e => k.tlb.contains e).foldr (fun e t => tlbPut 1024 e t) k.tlb }

/-- Ask the translation cell of a context's comb for the page of an address (R268, R288). DESIGN CHOICE (log 82): the
manual does not say in what form the request reaches its firmware; the comb holds it until `tlbwr` writes an entry that
covers the page. -/
def State.askPage (s : State) (c : Ctx) (va : Nat) : State :=
  match c.comb? with
  | none => s
  | some k =>
    let r := s.combRec k
    let a := (c.asid.toNat, va / 2 ^ 16)
    if r.asks.contains a then s else s.setComb { r with asks := r.asks ++ [a] }

/-! ### Decoding accesses (R75, R76, R264, R342) -/

/-- The page of a decoding access, if its format allows one (R76). DESIGN CHOICE (log 70): of an access that R68
redirects, sr.taddr of a fault found here is the effective address, and of one found at its companion the global
address. -/
def State.decodeEntry (s : State) (c : Ctx) (va : Word) (p : Part) : Except Trap TlbEntry :=
  match s.seenEntry c p with
  | none => .error ⟨cFormat, 0, va⟩
  | some e =>
    if fmtEbits e.fmt = 0 || e.geom % 4 != 0 || e.geom / 4 == 3 then .error ⟨cFormat, 0, va⟩
    else if fmtCb e.fmt ≠ 0 ∧ (e.cdelta = 0 ∨ fmtSlots e.fmt ≤ e.slot) then .error ⟨cFormat, 0, va⟩
    else .ok e

/-- The companion parts of an element (R75, R342): none for a format without blocks. -/
def State.companionAt (s : State) (c : Ctx) (use : Use) (e : TlbEntry) (va : Word) : Except Trap (List Part) :=
  if fmtCb e.fmt = 0 then .ok []
  else
    let cp : Int := (e.base : Int) + e.cdelta * (e.bytes : Nat)
    let ca := (cp + companionOff e.fmt e.bytes e.slot (va.toNat - e.base)).toNat
    match s.placeAt c use (BitVec.ofNat 64 ca) (fmtCb e.fmt) with
    | .error t => .error t
    | .ok ps =>
      match ps.head?.bind fun p => p.entry with
      | none => .error ⟨cFormat, 0, va⟩
      | some k => if k.fmt ≠ 0 ∨ k.size ≠ e.size then .error ⟨cFormat, 0, va⟩ else .ok ps

/-- The companion parts that a load reads. -/
def State.companion (s : State) (c : Ctx) (e : TlbEntry) (va : Word) : Except Trap (List Part) :=
  s.companionAt c .read e va

/-! ### Scopes (R88, R89, R261) -/

/-- The scope of a synchronising form: field 0 names the executing cell (R261). DESIGN CHOICE (log 79): a service cell
has no coordinates (R14), and its field 0 stands for its own comb. -/
def scopeValue (c : Ctx) (f : BitVec 6) : Word :=
  if f = 0 then
    match c.cell? with
    | some i => BitVec.ofNat 64 (2 ^ 60 + cellY i * 2 ^ 16 + cellX i)
    | none => 0x2000000000000000
  else c.regs.rg f

/-- Is a scope value legal (R88). -/
def scopeOk (v : Word) : Bool :=
  let x := v.toNat
  let kind := bitsAt x 60 4
  let used : Nat := if kind = 0 then 0xF07F01FF007F01FF else if kind = 1 then 0xF0000000007F01FF else 0xF000000000000000
  kind ≤ 5 && x &&& used == x &&
    !(kind == 0 && (bitsAt x 32 9 < bitsAt x 0 9 || bitsAt x 48 7 < bitsAt x 16 7))

/-- Does a cell lie in the scope of a context of a comb: the rectangle, the cell, its comb or its frame. -/
def scopeHasCell (v : Word) (own : Option CombId) (i : CellId) : Bool :=
  let x := v.toNat
  match bitsAt x 60 4 with
  | 0 => bitsAt x 0 9 ≤ cellX i && cellX i ≤ bitsAt x 32 9 && bitsAt x 16 7 ≤ cellY i && cellY i ≤ bitsAt x 48 7
  | 1 => cellX i == bitsAt x 0 9 && cellY i == bitsAt x 16 7
  | 2 => own == some (cellComb i)
  | 3 => own.map combFrame == some (cellFrame i)
  | _ => true

/-- The cell at package coordinates (R16). -/
def cellAt (x y : Nat) : CellId :=
  ((y / 64) * 4 + x / 128) * 8192 + ((y % 64 / 8) * 8 + x % 128 / 16) * 128 + (y % 8) * 16 + x % 16

/-- Does a comb hold a cell of a scope (kinds 0 and 1). -/
def scopeHasComb (v : Word) (own : Option CombId) (k : CombId) : Bool :=
  (List.range 128).any fun c => scopeHasCell v own (k * 128 + c)

/-- Does a scope of a context cover a home (R89, R102); every scope covers the executing cell. -/
def scopeCovers (v : Word) (c : Ctx) (h : Home) : Bool :=
  let own := c.comb?
  match h with
  | .cell i => c.cell? == some i || scopeHasCell v own i
  | .vault k | .event k => scopeHasComb v own k
  | .hbm f _ =>
    match bitsAt v.toNat 60 4 with
    | 0 | 1 | 2 => false
    | 3 => own.map combFrame == some f
    | _ => true
  | .cxl _ => 4 ≤ bitsAt v.toNat 60 4
  | .host _ | .remote _ => bitsAt v.toNat 60 4 == 5
  | .service n => c.service? == some n || 4 ≤ bitsAt v.toNat 60 4

/-- Own-cell, package and system scope values (R88, R261). -/
def scopePackage : Word := 0x4000000000000000
def scopeSystem : Word := 0x5000000000000000

end Sys2Proof.Machine
end

