-- ==== Sys2Proof/Machine/Ops.lean ====
section
/-!
DEFINITION. The shared operations of the machine: advancing the program counter and the end test of loops (R178, R211),
taking an exception and returning from one (R328, R335), control transfers (R207), fetch (R175, R176), fixed-latency
results of a group, placing memory operations (R84, R85), meters (R71, R373), handles (R54, R281) and engine queues (R97).
-/
namespace Sys2Proof.Machine

/-- The outcome of a step of this machine. -/
abbrev Out := Host.Outcome State Fault Refusal

/-- Change the context that issues. -/
def State.mapTh (s : State) (f : Ctx → Ctx) : State := { s with th := f s.th }

/-! ### Free values (log 19) -/

/-- Advance the counter that free values are applied to. -/
def State.bump (s : State) : State := { s with tick := s.tick + 1 }

/-! ### Program counter and loops (R178, R211) -/

/-- The slot after a slot: slot 4 is followed by slot 0 of the next line (R175). -/
def nextSlot (pc : Word) : Word := if pc.toNat % 64 = 48 then pc + 16 else pc + 12

/-- The end test of R211 at an address: levels popped or counted down, and where control continues. -/
def endTest : List LoopLevel → Word → List LoopLevel × Word
  | [], pc => ([], pc)
  | l :: ls, pc =>
    if pc = l.exit then
      if l.rem = 1 then endTest ls pc
      else ({ l with rem := l.rem - 1 } :: ls, l.start)
    else (l :: ls, pc)

/-- The first slot of the group that follows the group in issue (R178, R209). -/
def Ctx.nextGroup (c : Ctx) : Word :=
  match c.grp with
  | some g => g.next
  | none => nextSlot c.pc

/-- An instruction that does not transfer control has completed: the next slot of the group, or the next group, with
the end test on sequential arrival (R178, R211). -/
def Ctx.retire (c : Ctx) : Ctx :=
  match c.grp with
  | some g =>
    match g.rest with
    | _ :: n :: r => { c with pc := n.pc, grp := some { g with rest := n :: r } }
    | _ =>
      let t := endTest c.loops g.next
      { c with pc := t.2, loops := t.1, grp := some { g with rest := [] } }
  | none =>
    let t := endTest c.loops (nextSlot c.pc)
    { c with pc := t.2, loops := t.1 }

def State.retire (s : State) : State := s.mapTh Ctx.retire

/-- Control continues at an address: the group ends (R207). -/
def Ctx.jump (c : Ctx) (pc : Word) : Ctx :=
  { c with pc := pc, grp := c.grp.map fun g => { g with rest := [], taken := true } }

/-! ### Gangs (R48 to R51) -/

def gangRole (c : Ctx) : Nat := c.sr.gang.toNat % 4
def Ctx.setRole (c : Ctx) (r : Nat) : Ctx :=
  { c with sr := { c.sr with gang := (c.sr.gang &&& 0xFFFFFFFFFFFFFFFC) ||| BitVec.ofNat 64 (r % 4) } }
/-- An attached follower detaches (R49); any other context is unchanged. -/
def Ctx.detach (c : Ctx) : Ctx :=
  if gangRole c = 2 then { c.setRole 3 with gang := { c.gang with trace := [], joined := false } } else c
/-- The attached followers of a leader detach (R49). -/
def State.detachFollowers (s : State) (leader : CtxId) : State :=
  let leave := fun (c : Ctx) => if c.gang.leader = some leader then c.detach else c
  { s with th := leave s.th, pool := s.pool.map leave }

/-! ### Parking (R53, R274, R275) -/

/-- Where a context goes that waits no longer for something else: it is parked while a wait of its own stands in a table
(R274, R275), and ready otherwise. -/
def Ctx.onward (c : Ctx) : Status :=
  match c.wait with
  | some w => if w.entered then .parked (if w.counter.isSome then .event else .addr) else .ready
  | none => .ready

/-! ### Exceptions (R103, R328, R330, R335) -/

/-- A fault inside a block abandons it: a replay from its first slot begins it afresh, and what follows a replay from
elsewhere has it as predecessor (R338, log 94). -/
def Ctx.abandon (c : Ctx) : Ctx :=
  match c.sig with
  | none => c
  | some g => { c with sig := none, sigPred := if c.pc = g.block then c.sigPred else some g.id }

/-- A context stops: sr.tcause, sr.taddr and sr.tpc are written, the context waits on its supervisor, and its record waits to
be posted (R328, R330, R332). -/
def Ctx.stopOn (c : Ctx) (t : Trap) (now : Nat) : Ctx :=
  { c with
    sr := { c.sr with tcause := BitVec.ofNat 64 (t.detail % 2 ^ 16 * 2 ^ 16 + t.cause % 2 ^ 16), taddr := t.addr, tpc := c.pc },
    status := .parked .supervisor,
    fault := some ⟨BitVec.ofNat 16 t.cause, BitVec.ofNat 16 t.detail, c.pc, t.addr, now, false⟩ }

/-- A context stops on a fault of its instruction, which a replay executes again. Open windows, a wait of an earlier
instruction and everything else stand. DESIGN CHOICE (log 26): a follower that is stopped while it waits in `gjoin` has not
reached it. -/
def Ctx.fault' (c : Ctx) (t : Trap) (now : Nat) : Ctx :=
  { c.abandon.detach with
    gang := { c.abandon.detach.gang with joined := false }, grp := none, mrun := none }.stopOn t now

/-- Taking an exception in the context that issues; the followers of a leader detach (R49). -/
def State.trap (s : State) (t : Trap) : State :=
  { s with th := s.th.fault' t s.now }.detachFollowers s.th.cid

/-- Return from an exception (`fret`, R335): a context that stopped on a fault becomes ready at its sr.tpc; one that was
pre-empted goes on where it stopped (R336), and so does one whose saved operations have been placed (R103). -/
def Ctx.resume (c : Ctx) (placed : Bool) : Ctx :=
  let again := c.fault.isSome && !placed
  { c with status := c.onward, pc := if again then c.sr.tpc else c.pc, grp := if again then none else c.grp, fault := none }

/-- An instruction that raises a fault. -/
def faultOut (s : State) (t : Trap) : Out := .next (s.trap t)

/-- The context parks; its instruction stays where it is and is tried again (R53). -/
def parkOut (s : State) (why : Park) : Out := .next (s.mapTh fun c => { c with status := .parked why })

/-- The context of an instruction that completes is running. -/
def Ctx.run (c : Ctx) : Ctx := { c with status := .running }

/-! ### Instructions that change only their context -/

/-- An instruction that is whole and changes only the registers of its context: effect when the predicate passes, then
the next slot (R174, R178). -/
def whole (h : Hdr) (f : Ctx → Ctx) (s : State) : Out :=
  .next (s.mapTh fun c => (if predOn h c.regs then f c else c).retire)

/-- The effect of an instruction of vector lanes: it takes its effect lane by lane (R217). -/
def lanewise (f : Ctx → Ctx) (s : State) : Out := .next (s.mapTh fun c => (f c).retire)

/-- A precise FP trap (R123): the manual gives sr.taddr no value. -/
def fpTrap (pc : Word) (now : Nat) : Trap := ⟨cFp, 0, Config.openAddr cFp pc.toNat now⟩

/-- Finish a floating instruction (R123): flags raised, or a precise trap that writes no destination and undoes the use
of the counter. `before` is the context at the start, `after` the context with results and counter. -/
def fpFinish (s : State) (fs : List FFlags) (after : Ctx → Ctx) : Out :=
  let b := s.th.sr.fpDone fs
  if b.2 then faultOut { s with th := { s.th with sr := b.1 } } (fpTrap s.th.pc s.now)
  else .next { s with th := (after { s.th with sr := b.1 }).retire }

/-! ### Fetch (R175 to R177) -/

/-- Bytes that hold uncorrectable data (R70, R378): 32-byte sectors of HBM and CXL, 8-byte words of a vault. -/
def State.poisoned (s : State) (pa len : Nat) : Bool :=
  (s.power.poison.any fun x => pa / 32 ≤ x && x ≤ (pa + len - 1) / 32) ||
    s.power.sram.any fun x => pa / 8 ≤ x && x ≤ (pa + len - 1) / 8

/-- The 64 bytes of the fetch line of an address for a context. -/
def State.fetchLine (s : State) (c : Ctx) (pc : Word) : Except Trap (List Byte) :=
  let a := BitVec.ofNat 64 (pc.toNat / 64 * 64)
  match s.placeAt c.asUnit .fetch a 64 with
  | .error t => .error t
  | .ok ps =>
    match ps with
    | [p] =>
      if s.poisoned p.pa 64 then .error ⟨cUncorrectable, 0, a⟩
      else .ok ((throughWq s.mem s.net.wq).read p.pa 64)
    | _ => .error ⟨cUnassigned, 0, a⟩

def lineWord (line : List Byte) : Nat := bytesAt line 60 4
def slotWord (line : List Byte) (k : Nat) : Nat := bytesAt line (12 * k) 12
/-- The slot number of an address; 5 for an address that is no slot. -/
def slotOf (pc : Word) : Nat := if pc.toNat % 64 % 12 = 0 ∧ pc.toNat % 64 < 60 then pc.toNat % 64 / 12 else 5

/-- Is a target legal (R207): bits [63:56] zero, a slot address, its tmask bit set; a target that the group of the
context was checked for when it began stays legal (R188). A fault of fetch at the target belongs to the target group.
DESIGN CHOICE (log 77): the tmask bit is read from the line word whatever its parity is. -/
def State.targetOk (s : State) (c : Ctx) (t : Word) : Bool :=
  (c.grp.bind GroupIssue.target) == some t ||
    (t.toNat < 2 ^ 56 && slotOf t < 5 &&
      match s.fetchLine c t with
      | .error _ => true
      | .ok line => bitsAt (lineWord line) (11 + slotOf t) 1 == 1)

/-- A relative target (R173): L + (disp << 6) + 12 × slot. -/
def relTarget (pc : Word) (t : BRel) : Word :=
  BitVec.ofNat 64 (pc.toNat / 64 * 64) + (t.disp.signExtend 64 <<< 6) + BitVec.ofNat 64 (12 * t.slot.toNat)

/-- A taken transfer (R207): the target is checked before any effect. -/
def transfer (s : State) (t : Word) (f : Ctx → Ctx) : Out :=
  if s.targetOk s.th t then .next (s.mapTh fun c => (f c).jump t)
  else faultOut s ⟨cTarget, 0, t⟩

/-! ### Memory operations (R84, R85) -/

/-- Add one part to IQ(c). -/
def Ctx.push (c : Ctx) (f : Nat → MemOp) : Ctx :=
  { c with mq := { c.mq with next := c.mq.next + 1, iq := c.mq.iq ++ [f c.mq.next] } }

def Ctx.pushAll (c : Ctx) (fs : List (Nat → MemOp)) : Ctx := fs.foldl Ctx.push c

def Order.plain : Order := ⟨false, none⟩

/-- A fresh identifier in program order. -/
def Ctx.fresh (c : Ctx) : Nat × Ctx := (c.mq.next, { c with mq := { c.mq with next := c.mq.next + 1 } })

/-- A result that waits for `n` replies into a buffer of `len` bytes (R87, R179). -/
def Ctx.expect (c : Ctx) (dest : Dest) (n len : Nat) : Nat × Ctx :=
  let f := c.fresh
  (f.1, { f.2 with pend := f.2.pend ++ [⟨f.1, c.pc, dest, n, List.replicate len 0, false⟩] })

/-- The entry with d = 0 that a part was placed through (R348). -/
def Part.dirt (p : Part) : List TlbEntry := p.entry.toList.filter fun e => !e.d

/-- The operation of one part. -/
def Part.op (p : Part) (o : Order) (a : Act) (seq : Nat) : MemOp :=
  ⟨seq, p.home, p.pa, BitVec.ofNat 64 p.va, o, a, false, p.dirt⟩

/-- An operation that is no access to memory. -/
def plainOp (h : Home) (o : Order) (a : Act) (seq : Nat) : MemOp := ⟨seq, h, 0, 0, o, a, false, []⟩

/-- A load of parts, each with its place in the buffer. -/
def Ctx.pushLoad (c : Ctx) (dest : Dest) (len : Nat) (ps : List (Part × Nat)) (o : Order) : Ctx :=
  let e := c.expect dest ps.length len
  e.2.pushAll (ps.map fun p => p.1.op o (.load e.1 p.2 p.1.len []))

/-- Stores of parts; the bytes of a part follow its place. -/
def Ctx.pushStore (c : Ctx) (ps : List (Part × List (Option Byte))) (o : Order) (stream : Bool) : Ctx :=
  c.pushAll (ps.map fun p seq => { p.1.op o (.store p.2) seq with stream := stream })

/-- Its latest instruction waits for the results that it has asked for (R70, R123). -/
def Ctx.holdLast (c : Ctx) : Ctx := { c with pend := c.pend.map fun p => if p.pc = c.pc then { p with held := true } else p }

/-- The parts of a run of bytes, each with its offset from the start of the access plus `base`. -/
def withOffsets (start base : Nat) (ps : List Part) : List (Part × Nat) := ps.map fun p => (p, base + (p.va - start))

/-- The next operations of a context are placed, none is on its way, and WCB(c) is empty (R103). -/
def Ctx.drained (c : Ctx) : Bool := c.mq.iq.isEmpty && c.mq.outs.isEmpty && c.mq.wcb.isEmpty

/-- Every earlier operation to a home in a scope has been acknowledged, WCB lines included (R91, R92, R106). -/
def Ctx.scopeDrained (c : Ctx) (v : Word) : Bool :=
  c.mq.iq.isEmpty && !(c.mq.outs.any fun o => scopeCovers v c o.home) &&
    !(c.mq.wcb.any fun l => scopeCovers v c l.home)

/-! ### Meters (R71, R373) -/

/-- A counter that stays at its largest value (R373). -/
def satAdd (x : Word) (n : Nat) : Word := BitVec.ofNat 64 (min (x.toNat + n) (2 ^ 64 - 1))

def Meters.charge (m : Meters) (l : MLevel) (n : Nat) : Meters :=
  match l with
  | .local_ => { m with bLocal := satAdd m.bLocal n }
  | .vault => { m with bVault := satAdd m.bVault n }
  | .hbm => { m with bHbm := satAdd m.bHbm n }
  | .cxl => { m with bCxl := satAdd m.bCxl n }
  | .host => { m with bHost := satAdd m.bHost n }
  | .peer => { m with bPeer := satAdd m.bPeer n }

/-- The bytes of the parts of an access, counted at their levels. -/
def Ctx.charge (c : Ctx) (ps : List Part) : Ctx :=
  { c with meters := ps.foldl (fun m p => m.charge p.level p.len) c.meters }

/-! ### Handles (R54, R281) -/

def Ctx.handle (c : Ctx) (i : BitVec 4) : Handle := c.h.get i.toFin
def Ctx.setHandle (c : Ctx) (i : BitVec 4) (x : Handle) : Ctx := { c with h := c.h.set i.toNat x i.isLt }
def Handle.pending (op : Nat) : Handle := ⟨.pending, 0, 0, op, true⟩
def Handle.resolved (h : Handle) : Bool := h.st == .done || h.st == .failed || h.st == .cancelled
/-- The state code of R281. -/
def HState.code : HState → Nat
  | .empty => 0 | .pending => 1 | .done => 2 | .failed => 3 | .cancelled => 4

/-! ### Engine queues (R97) -/

/-- Change an engine queue. -/
def Ctx.mapQ (c : Ctx) (q : Nat) (f : List Entry → List Entry) : Ctx :=
  { c with eq := (Vector.ofFn fun (i : Fin 8) => if i.val = q then f (c.eq.get i) else c.eq.get i) }

/-- An engine queue. -/
def Ctx.queue (c : Ctx) (q : Nat) : List Entry := if h : q < 8 then c.eq.get ⟨q, h⟩ else []

/-- An entry of a queue changes. -/
def Ctx.setEntry (c : Ctx) (q : Nat) (op : Nat) (f : Entry → Entry) : Ctx := c.mapQ q (updateAll (fun e => e.op == op) f)

/-- Its work is over: the words of its handle. -/
def Ctx.entryDone (c : Ctx) (q op : Nat) (st : HState) (res det : Word) : Ctx :=
  c.setEntry q op fun e => { e with course := .done st res det }

/-- Operation identifiers of a context: unique over the package. -/
def opId (c : Ctx) : Nat := c.nextOp * 2 ^ 32 + c.cid

/-- Everything before entry number `n` of a context has been acknowledged, the streaming lines before it have been
flushed, and the zero-length reads of a system-scope fence before it have completed (R97, R101, R103). -/
def Ctx.ackedBelow (c : Ctx) (n : Nat) : Bool :=
  !(c.mq.iq.any fun o => o.seq < n) && !(c.mq.outs.any fun o => o.seq < n) && !(c.mq.wcb.any fun l => l.seq < n) &&
    !(c.mq.marks.any fun m => m.seq < n && m.kind != .acq && bitsAt m.scope.toNat 60 4 == 5 && !c.mq.eps.isEmpty)

/-- An entry on a queue, its handle PENDING (R54, R97, R280). -/
def Ctx.enqueue (c : Ctx) (q : Nat) (h : Option (BitVec 4)) (w : Work) (now : Nat) : Ctx :=
  let e : Entry := ⟨opId c, c.mq.next, w, .waiting, false, now, none, false⟩
  let c := (c.mapQ q (· ++ [e]))
  let c := match h with
    | some i => c.setHandle i (.pending e.op)
    | none => c
  { c with nextOp := c.nextOp + 1, mq := { c.mq with next := c.mq.next + 1 } }

end Sys2Proof.Machine
end

