-- ==== Sys2Proof/Machine/Deliver.lean ====
section
/-!
DEFINITION. What an interlocked result does when its last reply arrives (R87, R179, R263, R264, R271, R273), and the
barriers: the superstep barrier with its compute phases (R34, R38, R39) and scoped barriers (R278, R106).
-/
namespace Sys2Proof.Machine

/-! ### Results that arrive -/

/-- The value of loaded bytes in a g register (R193, R263): integers extended by type, float bits zero-extended. -/
def loadValue (t : Ty) (bytes : List Byte) : Word :=
  let x := bytesAt bytes 0 t.bytes
  if t.signed then sext64 t.bits x else zext64 t.bits x

/-- A lane of a v register from a buffer. -/
def bufLanes (t : Ty) (bytes : List Byte) : List Nat := (List.range t.lanes).map fun j => bytesAt bytes (j * t.bytes) t.bytes

/-- The raw element of lane `j` in the buffer of `ldfv`, whose bytes begin with the byte at `ea`. -/
def ldfvRaw (fmt : Nat) (buf : List Byte) (j : Nat) : Nat := bitsAt (bytesAt buf 0 16) (j * fmtEbits fmt) (fmtEbits fmt)

/-- The block of lane `j`: lanes from `cut` on lie in the next one. -/
def ldfvBlock (cut j : Nat) : Nat := if j < cut then 0 else 1

/-- The first active lane. -/
def firstLane (lanes : BitVec 8) : Nat := ((List.range 8).find? fun j => lanes.getLsbD j).getD 0

/-- The companion bytes of lane `j`: those of the first block that is read stand first. -/
def ldfvPair (fmt : Nat) (lanes : BitVec 8) (cut : Nat) (buf : List Byte) (j : Nat) : Nat :=
  bytesAt buf (16 + fmtCb fmt * (ldfvBlock cut j - ldfvBlock cut (firstLane lanes))) (fmtCb fmt)

/-- The decoded lane `j` of `ldfv`, with the companion bytes of its block; an inactive lane raises nothing. -/
def ldfvLane (fmt : Nat) (lanes : BitVec 8) (cut : Nat) (buf : List Byte) (j : Nat) : FRes :=
  if lanes.getLsbD j then pageDecode fmt (ldfvRaw fmt buf j) (ldfvPair fmt lanes cut buf j) else ⟨0, 0⟩

/-- Byte mask of the active FP32 lanes. -/
def spread4 (lanes : BitVec 8) : MWord :=
  BitVec.ofNat 32 (packLanes 4 ((List.range 8).map fun j => if lanes.getLsbD j then 15 else 0))

/-- A context waits on the instruction of a result: with traps enabled, no later instruction has an effect before a decoding
load has returned (R123), nor before a load that meets uncorrectable data (R70). -/
def Ctx.heldBy (c : Ctx) (p : Pend) : Bool := p.held && c.status == .parked .drain && c.pc == p.pc

/-- A floating result that arrives: its flags are raised. A load that was issued with traps enabled holds its context
(R123, R214), and traps at its own address; a context that has been stopped there meanwhile executes it again, and the
result is dropped. A load that was issued with none enabled raises flags only. -/
def Ctx.landFp (c : Ctx) (p : Pend) (now : Nat) (fs : List FFlags) (f : Ctx → Ctx) : Ctx :=
  let b := c.sr.fpDone fs
  if !p.held then f { c with sr := c.sr.raise (orFlags fs) }
  else if !c.heldBy p then c
  else if b.2 then { c with sr := b.1, pc := p.pc }.fault' (fpTrap p.pc now) now
  else f { c with sr := b.1 }

/-- The result of a completed buffer reaches its register. -/
def Ctx.land (c : Ctx) (p : Pend) (now : Nat) : Ctx :=
  match p.dest with
  | .g r ty => c.resG r 0 (loadValue ty p.buf)
  | .v r ty lanes old => c.resV r 0 (mergeLanes ty.bits lanes old (ofLanes ty.bits (bufLanes ty p.buf)))
  | .vb r ty lanes old =>
    c.resV r 0 (mergeLanes ty.bits lanes old
      (ofLanes ty.bits (List.replicate ty.lanes (bytesAt p.buf 0 ty.bytes))))
  | .ldf r fmt hi =>
    let n := fmtEbits fmt / 8 + (if fmtEbits fmt = 4 then 1 else 0)
    let raw := bytesAt p.buf 0 n
    let x := pageDecode fmt (if hi then raw / 16 else if fmtEbits fmt = 4 then raw % 16 else raw) (bytesAt p.buf n 2)
    c.landFp p now [x.flags] fun c => c.resG r 0 (zext64 32 x.bits)
  | .ldfv r fmt lanes cut old =>
    let xs := (List.range 8).map (ldfvLane fmt lanes cut p.buf)
    c.landFp p now (xs.map FRes.flags) fun c =>
      c.resV r 0 (mergeLanes 32 (spread4 lanes) old (ofLanes 32 (xs.map FRes.bits)))
  | .pair r => c.resG r 0 (BitVec.ofNat 64 (bytesAt p.buf 0 8))
  | .status r => c.resG r 0 (BitVec.ofNat 64 (bytesAt p.buf 0 8))
  | .mat => { c with mrun := c.mrun.map fun r => { r with waiting := false, buf := some p.buf } }
  | .inv _ | .none => c

/-- A parked context whose wait has ended goes on; a context that waits on its supervisor stays there. -/
def Ctx.wakeFrom (c : Ctx) (why : Park) : Ctx := if c.status = .parked why then { c with status := c.onward } else c

/-- The step that enters a wait in its table parks the context (R274, R275); one that is parked for something else stays so
until that is over. -/
def Ctx.enter (c : Ctx) (counter : Option (BitVec 4 × BitVec 32)) : Ctx :=
  let c := { c with wait := c.wait.map fun w => { w with entered := true, counter := counter } }
  if c.status = .running ∨ c.status = .ready then { c with status := c.onward } else c

/-- Bytes of a reply reach the buffer of a result; the last reply completes it. -/
def Ctx.deliver (c : Ctx) (id off : Nat) (bytes : List Byte) (now : Nat) : Ctx :=
  match c.pend.find? fun p => p.id == id with
  | none => c
  | some p =>
    let p' := { p with left := p.left - 1, buf := putBytes p.buf off bytes }
    if p'.left = 0 then
      let held := c.heldBy p
      let c := { c with pend := c.pend.filter fun q => q.id != id }
      let c := c.land p' now
      if held && c.status == .parked .drain then { c.retire with status := c.onward } else c
    else { c with pend := updateAll (fun q => q.id == id) (fun _ => p') c.pend }

/-- A result given as one number: it completes whatever it still waits for. -/
def Ctx.fulfil (c : Ctx) (id : Nat) (x : Word) (now : Nat) : Ctx :=
  ({ c with pend := updateAll (fun q => q.id == id) (fun q => { q with left := 1 }) c.pend }).deliver id 0
    (bytesOf 8 x.toNat) now

/-! ### Members of a region -/

/-- The context of a logical cell of a region, while it exists. -/
def State.member? (s : State) (r : Region) (k : Nat) : Option Ctx :=
  match r.ctxs[k]? with
  | none => none
  | some c => s.ctx? c

/-- A logical cell whose program has ended, or whose context is gone, is not waited for (R38). -/
def State.memberEnded (s : State) (r : Region) (k : Nat) : Bool :=
  match s.member? r k with
  | none => true
  | some c => c.ended || c.completed

/-! ### The superstep barrier (R34 to R39) -/

/-- The superstep in progress, as the first member that has not ended counts it (R39). -/
def State.superstepOf (s : State) (r : Region) : Nat :=
  match (List.range r.ctxs.length).find? fun k => !s.memberEnded r k with
  | none => 0
  | some k => ((s.member? r k).map fun c => c.sr.ssnum.toNat).getD 0

/-- The list of transfers of the exchange after superstep `n` (R37). -/
def Region.exchange (r : Region) (n : Nat) : List Xfer := r.sched.getD (n % r.sched.length) []

/-- A member that has joined waits in its cell: the barrier waits for one that has been stopped to resume (R38, R57). -/
def State.joinHere (s : State) (r : Region) (k : Nat) : Bool :=
  match s.member? r k with
  | none => true
  | some c => c.ended || c.completed || c.status == .parked .barrier

/-- The bytes of a context's carve-out: in local memory for its owner, otherwise in its save area (R334). -/
def State.carveOut (s : State) (c : Ctx) : List Byte :=
  let lim := c.sr.stklim.toNat
  let at_ := match c.saveArea with
    | some va =>
      if (s.cellRec c.cell).owner = some c.cid then paLocal c.cell lim
      else paHbm (combFrame c.comb) ((va.toNat + lim + 0x800) % 2 ^ 36)
    | none => paLocal c.cell lim
  (throughWq s.mem s.net.wq).read at_ (0xF800 - lim)

/-- A context as it is becomes its restart point (R42, R52); its older ones go. -/
def State.notePoint (s : State) (c : Ctx) : State :=
  { s with points := (s.points.filter fun p => p.ctx.cid != c.cid) ++ [⟨c, s.carveOut c, [], [], c.sr.ssnum.toNat, true⟩] }

/-- The start of a superstep is the restart point of each member (R52). -/
def State.notePoints (s : State) (id : RegionId) : State :=
  (s.ctxs.filter fun c => c.region == some id && !c.ended && !c.completed).foldl State.notePoint s

/-- The next compute phase begins on every member (R34, R39). -/
def State.computeBegin (s : State) (r : Region) : State :=
  let up := fun (c : Ctx) =>
    if c.region == some r.id && !c.ended && !c.completed then
      { c.wakeFrom .barrier with sr := { c.sr with ssnum := c.sr.ssnum + 1 } }
    else c
  ({ s with th := up s.th, pool := s.pool.map up }.updRegion r.id fun r =>
    { r with joined := [], closed := none, xpos := 0, xmove := .idle }).notePoints r.id

/-- The barrier closes when every member has joined or ended (R34, R38), and the next compute phase begins when the whole
exchange has been performed and every member waits in its cell. -/
def State.closeBarrier (s : State) (id : RegionId) : State :=
  match s.region? (some id) with
  | none => s
  | some r =>
    let all := (List.range r.map.length).all fun k => (r.joined.contains k && s.joinHere r k) || s.memberEnded r k
    let moved := decide ((r.exchange (s.superstepOf r)).length ≤ r.xpos)
    if r.a.free || r.joined.isEmpty || !all then s
    else if moved then s.computeBegin r
    else if r.closed.isSome then s
    else s.updRegion id fun r => { r with closed := some s.now, xpos := 0 }

/-! ### Scoped barriers (R278) -/

/-- One scoped barrier completes when every member that has not ended has joined and waits in its cell: it counts, and
every joiner gets the count and goes on. -/
def State.closeBar (s : State) (id : RegionId) (b : ScopedBar) : State :=
  match s.region? (some id) with
  | none => s
  | some r =>
    if b.joined.isEmpty then s
    else if b.members.all fun k => ((b.joined.any fun j => j.1 == k) && s.joinHere r k) || s.memberEnded r k then
      let n := b.count + 1
      let s := b.joined.foldl (fun (s : State) j =>
        match r.ctxs[j.1]? with
        | none => s
        | some c => s.updCtx c fun x => (x.fulfil j.2 (BitVec.ofNat 64 n) s.now).wakeFrom .barrier) s
      let same := fun (y : ScopedBar) => y.id == b.id && y.members == b.members
      let reset := fun (y : ScopedBar) => { y with joined := [], count := n }
      s.updRegion id fun r => { r with bars := updateAll same reset r.bars }
    else s

/-- Every barrier of a region that can complete does. -/
def State.closeBars (s : State) (id : RegionId) : State :=
  match s.region? (some id) with
  | none => s
  | some r => r.bars.foldl (fun s b => s.closeBar id b) (s.closeBarrier id)

/-- The region of a context re-examines its barriers, after a cell has ended (R38). -/
def State.leaveBarriers (s : State) (c : Ctx) : State :=
  match c.region with
  | none => s
  | some r => s.closeBars r

end Sys2Proof.Machine
end

