-- ==== Sys2Proof/Machine/StateRegs.lean ====
section
/-!
DEFINITION. State registers (R186, R214, R215): the value of each, what a write changes, and the privileged registers of
service cells (R327).
-/
namespace Sys2Proof.Machine

/-! ### Time (R24, R370, R371) -/

/-- Cycles of a frame's cell clock since package reset; a relock counts none. -/
def FrameRec.cyc (f : FrameRec) (now : Nat) : Nat :=
  match f.relock with
  | some _ => f.cycBase
  | none => f.cycBase + (now - f.cycSince) * f.mhz / 1000

/-- sr.cyc of a context. -/
def State.cyc (s : State) (c : Ctx) : Nat := (s.frameRec (combFrame c.comb)).cyc s.now

/-! ### Composed registers -/

/-- sr.coord (R17); a service cell holds no coordinates (R14). -/
def coordWord (c : Ctx) : Word :=
  match c.cell? with
  | none => 0
  | some i => BitVec.ofNat 64 (cellFrame i * 2 ^ 24 + cellY i * 2 ^ 16 + cellX i)

/-- sr.loop (R212). -/
def loopWord (ls : List LoopLevel) : Word :=
  BitVec.ofNat 64 (((ls.head?.map fun l => l.rem.toNat).getD 0) * 2 ^ 32 + ls.length)

def ClaimState.code : ClaimState → Nat
  | .free => 0 | .idle => 1 | .run => 2 | .hold => 3

/-- The claim of a context. -/
def State.claimOf (s : State) (c : CtxId) : Option Claim := s.claims.find? fun x => x.cid == c

/-- sr.afstat (R144): the claim, and the digits of the last sample read, which the context holds. -/
def State.afstat (s : State) (c : Ctx) : Word :=
  let d := c.sr.afstat &&& 0xF
  match s.claimOf c.cid with
  | none => d
  | some k =>
    d ||| BitVec.ofNat 64
      ((if k.sat then k.sint.toNat * 2 ^ 48 + 2 ^ 7 else 0) + k.np * 2 ^ 32 + k.st.code * 2 ^ 20 +
        k.die % 2 * 2 ^ 16 + (if k.cfg then 2 ^ 9 else 0) + (if k.cal then 2 ^ 8 else 0))

/-- The value of a user state register (R186). -/
def State.srValue (s : State) (c : Ctx) (n : Nat) : Word :=
  match n with
  | 0x000 => c.sr.ctl
  | 0x001 => c.sr.fpctl
  | 0x002 => c.sr.fpstat
  | 0x003 => c.sr.srctr
  | 0x004 => c.sr.seed
  | 0x005 => c.sr.det
  | 0x008 => c.sr.lcell
  | 0x009 => coordWord c
  | 0x00A => c.sr.gang
  | 0x00B => c.sr.cmap
  | 0x00C => c.sr.ssnum
  | 0x00D => c.sr.round
  | 0x010 => c.sr.stkbase
  | 0x011 => c.sr.stklim
  | 0x012 => c.sr.ovfptr
  | 0x018 => BitVec.ofNat 64 (s.cyc c)
  | 0x019 => BitVec.ofNat 64 (s.now * 9 / 5)
  | 0x01A => BitVec.ofNat 64 s.now
  | 0x01B => (s.frameRec (combFrame c.comb)).fstep
  | 0x020 => c.sr.tcause
  | 0x021 => c.sr.taddr
  | 0x022 => c.sr.tpc
  | 0x023 => c.mat.koff.zeroExtend 64 <<< 5
  | 0x024 => s.afstat c
  | _ => loopWord c.loops

/-- What a user write changes (R114, R121, R122, R181, R215, R251). -/
def Ctx.srWrite (c : Ctx) (n : Nat) (x : Word) : Ctx :=
  match n with
  | 0x000 => { c with sr := { c.sr with ctl := (c.sr.ctl &&& 0xFFFFFFFFFFFFFFFC) ||| (x &&& 3) } }
  | 0x001 =>
    let rm := x &&& 7
    let rm := if rm = 0 ∨ rm = 7 then 1 else rm
    { c with sr := { c.sr with fpctl := (c.sr.fpctl &&& 0xFFFFFFFFFFFFFE08) ||| (x &&& 0x1F0) ||| rm } }
  | 0x002 => { c with sr := { c.sr with fpstat := c.sr.fpstat &&& ~~~(x &&& 0x3F) } }
  | 0x003 => { c with sr := { c.sr with srctr := x } }
  | 0x023 => { c with mat := { c.mat with koff := x.extractLsb' 5 11 } }
  | _ => c

/-! ### Privileged registers (R327) -/

/-- The comb whose service cell a context runs on, and whether it is the translation cell. -/
def serviceOf (c : Ctx) : Option (CombId × Bool) :=
  match c.place with
  | .supervisor k => some (k, false)
  | .translator k => some (k, true)
  | _ => none

def State.setService (s : State) (k : CombId) (trans : Bool) (f : ServiceRegs → ServiceRegs) : State :=
  let r := s.combRec k
  s.setComb (if trans then { r with trans := f r.trans } else { r with sup := f r.sup })

/-- Firmware advances sr.fqtail: the records up to it are consumed (R327, R330). -/
def ServiceRegs.consume (r : ServiceRegs) (v : Word) : ServiceRegs :=
  let t := v.extractLsb' 0 8
  { r with fqtail := t, fqcount := r.fqcount - (t - r.fqtail).toNat }

/-- The value of a privileged register (R327, R345). -/
def CombRec.privValue (k : CombRec) (trans : Bool) (n : Nat) : Option Word :=
  let r := if trans then k.trans else k.sup
  match n with
  | 0x800 => some r.fqbase
  | 0x801 => some (r.fqhead.zeroExtend 64)
  | 0x802 => some (r.fqtail.zeroExtend 64)
  | 0x803 => some r.spbase
  | 0x804 => some (r.sigerr.zeroExtend 64)
  | 0x805 => some (k.tlbgen.zeroExtend 64)
  | _ => none

/-- The leakage table entry of a point (R369). -/
def CombRec.leakAt (k : CombRec) (i : Nat) : BitVec 16 := ((k.leak.find? fun x => x.1 == i).map Prod.snd).getD 0

/-- The duty of a cell at a time: the supply's limiter lets it rise by 4 sixteenths per µs (R368). -/
def CellRec.dutyAtTime (c : CellRec) (now : Nat) : Nat := min c.duty (c.dutyFrom + 4 * (now - c.dutyAt) / 1000)

/-- The reason of a duty: 3 while the limiter holds it (R368). -/
def CellRec.whyAtTime (c : CellRec) (now : Nat) : Nat := if c.dutyAtTime now < c.duty then 3 else c.why

/-- The duty register of a cell (R368). -/
def CellRec.dutyWord (c : CellRec) (now : Nat) : Word :=
  BitVec.ofNat 64 (c.whyAtTime now % 16 * 256 + c.dutyAtTime now % 32)

/-- A privileged register of a service cell; a supervisor cell also has the leakage table and the duties of its user
cells (R368, R369). -/
def State.privRead (s : State) (c : Ctx) (n : Nat) : Option Word :=
  (serviceOf c).bind fun k =>
    if !k.2 && 0x820 ≤ n && n < 0x830 then some (((s.combRec k.1).leakAt (n - 0x820)).zeroExtend 64)
    else if !k.2 && 0x880 ≤ n && n < 0x900 then some ((s.cellRec (k.1 * 128 + (n - 0x880))).dutyWord s.now)
    else (s.combRec k.1).privValue k.2 n

def ServiceRegs.write (r : ServiceRegs) (n : Nat) (x : Word) : ServiceRegs :=
  match n with
  | 0x800 => { r with fqbase := x &&& 0x00FFFFFFFFFFFFFF }
  | 0x802 => r.consume x
  | 0x803 => { r with spbase := x &&& 0x00FFFFFFFFFFFFFF }
  | 0x804 => { r with sigerr := r.sigerr &&& ~~~(x.extractLsb' 0 32) }
  | _ => r

/-! ### Access from an instruction (R214) -/

/-- The fault of a privileged number: privilege in a user context, and reason 0x03 for a number no register of the
service cell has. `none` allows the access. -/
def State.srFault (s : State) (c : Ctx) (n : BitVec 12) (hi : Word) : Option Trap :=
  if n.toNat < 0x800 then none
  else if c.level = .user then some ⟨cPrivilege, 0, n.zeroExtend 64⟩
  else
    match s.privRead c n.toNat with
    | none => some ⟨cIllegal, 3, hi⟩
    | some _ => none

def State.srRead (s : State) (c : Ctx) (n : BitVec 12) : Word :=
  if n.toNat < 0x800 then s.srValue c n.toNat
  else (s.privRead c n.toNat).getD 0

/-- A write takes effect at its slot. -/
def State.srStore (s : State) (n : BitVec 12) (x : Word) : State :=
  if n.toNat < 0x800 then s.mapTh fun c => c.srWrite n.toNat x
  else
    match serviceOf s.th with
    | some k =>
      if !k.2 && 0x820 ≤ n.toNat && n.toNat < 0x830 then
        let r := s.combRec k.1
        s.setComb { r with leak := upsert (fun y => y.1 == n.toNat - 0x820) (n.toNat - 0x820, x.extractLsb' 0 16) r.leak }
      else s.setService k.1 k.2 fun r => r.write n.toNat x
    | none => s

end Sys2Proof.Machine
end

