-- ==== Sys2Proof/Machine/Homes.lean ====
section
/-!
DEFINITION. What a home does (R83, R87, R94, R95, R105): reading through its write queue, writing, merging reductions,
waking watchers; what holds a message back (R96, R334) and what an access meets that cannot be answered (R2, R70, R337);
the views of R64 and R374; fault queues (R330) and the dirty log (R348, R349).
-/
namespace Sys2Proof.Machine

/-! ### Views mapped by a launch (R64, R374) -/

/-- The counters of a meter block, by word (R373). -/
def Meters.words (id : Nat) (m : Meters) : List Word :=
  [BitVec.ofNat 64 id, m.issued, m.vector, m.fp64, m.matrix, m.copy, m.gated, m.bLocal, m.bVault, m.bHbm, m.bCxl,
   m.bHost, m.bPeer, m.energy, m.patch]

/-- Patch-microseconds of a claim that are not yet in its context's counter (R373): patches times whole microseconds. -/
def State.patchDue (s : State) (k : Claim) : Nat := k.np * ((s.now - k.since) / 1000)

/-- A meter counter that the model does not time, word `i` of the block (R373): what each nanosecond up to now has added.
What one adds is a free value, so that the counter never falls. -/
def meterSum (i : Nat) (cid : CtxId) (now : Nat) : Nat := ((List.range now).map (Config.meterStep i cid)).sum

/-- The meters of a context at this instant (R373): the cycles that the model does not time and the energy are sums of free
values, and the patches of a claim that is held count up to now. -/
def State.meterNow (s : State) (c : Ctx) : Meters :=
  let f := fun i => satAdd 0 (meterSum i c.cid s.now)
  { c.meters with
    vector := f 2, fp64 := f 3, matrix := f 4, copy := f 5, gated := f 6, energy := f 13,
    patch := satAdd c.meters.patch (((s.claimOf c.cid).map s.patchDue).getD 0) }

/-- A live meter block of 256 bytes (R373). -/
def State.meterWords (s : State) (c : Ctx) : List Word := (s.meterNow c).words c.cid

/-- The bytes of a view of a region. DESIGN CHOICE (log 73): an access that runs past the last entry finds free bytes
there. -/
def State.viewBytes (s : State) (rid off len : Nat) : List Byte :=
  match s.region? (some rid) with
  | none => List.replicate len 0
  | some r =>
    (List.range len).map fun k =>
      let o := off + k
      if 4 * r.map.length ≤ o ∧ o < 0x40000 ∨ 0x40000 + 256 * r.map.length ≤ o then Config.viewPad rid o
      else if o < 0x40000 then
        let i := r.map.getD (o / 4) 0
        BitVec.ofNat 8 ((cellFrame i * 2 ^ 16 + cellFci i) / 256 ^ (o % 4))
      else
        let o := o - 0x40000
        match s.member? r (o / 256) with
        | none => 0
        | some c => BitVec.ofNat 8 (((s.meterWords c).getD (o % 256 / 8) 0).toNat / 256 ^ (o % 8))

/-- The bytes that a load performed now returns (R87). -/
def State.peek (s : State) (pa len : Nat) : List Byte :=
  if 2 ^ 47 ≤ pa then s.viewBytes ((pa - 2 ^ 47) / 2 ^ 26) ((pa - 2 ^ 47) % 2 ^ 26) len
  else (throughWq s.mem s.net.wq).read pa len

/-! ### What holds an access back -/

/-- The line of an address is not locked by a pair operation (R96). -/
def State.unlocked (s : State) (pa : Nat) : Bool := s.net.locks.all fun l => l.line != lineOf pa

/-- The data area of a cell stays in local memory for the region of a context that has been saved (R334). -/
def State.heldData (s : State) (c : Ctx) (i : CellId) (pa : Nat) : Bool :=
  c.status == .saved && (s.cellRec i).owner == none && c.region.isSome && (s.cellRec i).heldFor == c.region &&
    decide (pa % 2 ^ 16 < c.sr.stklim.toNat)

/-- An access of a context to local memory waits until its owner is the context itself, or, from another cell, a
context of the same region (R334). The engines and the fabric of a saved context reach the data area that its cell holds
for its region. -/
def State.ownerOk (s : State) (c : Ctx) (pa : Nat) : Bool :=
  match homeOf pa, c.place with
  | .cell i, .user j =>
    let o := (s.cellRec i).owner
    if i = j then o == some c.cid || s.heldData c i pa else (o.bind s.ctx?).any fun x => x.region == c.region
  | _, _ => true

/-! ### What an access meets that cannot be answered -/

/-- The frame that holds a byte of the package, if one does. -/
def frameOf (pa : Nat) : Option Nat :=
  match homeOf pa with
  | .cell i => some (cellFrame i)
  | .vault k => some (combFrame k)
  | .hbm f _ => if pa < 2 ^ 43 then some f else none
  | _ => none

/-- The absent frame that an address names: its stack, its local memories and its vaults do not exist (R2). -/
def State.absent? (s : State) (pa : Nat) : Option Nat :=
  (frameOf pa).bind fun f => if s.hub.live.getLsbD f then none else some f

/-- The first absent frame that parts name. A fixed window reaches the own frame, which is live. -/
def State.absentPart (s : State) (ps : List Part) : Option Nat :=
  (ps.filterMap fun p => if p.entry.isSome || decide (2 ^ 40 ≤ p.pa) then s.absent? p.pa else none).head?

/-- The first absent frame that a range of physical addresses names. -/
def State.absentRange (s : State) (pa len : Nat) : Option Nat :=
  ((splitLines pa len).filterMap fun p => s.absent? p.1).head?

/-- A sealed cell answers every access with an error (R337). -/
def State.sealedAt (s : State) (pa : Nat) : Bool :=
  match homeOf pa with
  | .cell i => (s.cellRec i).isSealed
  | _ => false

/-- A read that is answered with an error: uncorrectable data, or a sealed cell (R70, R337, R378). -/
def State.badRead (s : State) (pa len : Nat) : Bool := s.poisoned pa len || s.sealedAt pa

/-- A read of parts would be answered with an error now (R70, R337). -/
def State.badParts (s : State) (ps : List Part) : Bool := ps.any fun p => s.badRead p.pa p.len

/-- The uncorrectable-data fault of a write to a sealed cell (R337). -/
def State.sealedPart (s : State) (ps : List Part) : Option Trap :=
  (ps.find? fun p => s.sealedAt p.pa).map fun p => ⟨cUncorrectable, 0, BitVec.ofNat 64 p.va⟩

/-! ### What a context waits for before its next access (R85, R90 to R92, R101) -/

/-- A load, whose value `fence.acq` waits for (R92). -/
def Act.isLoad : Act → Bool
  | .load _ _ _ _ => true
  | _ => false

/-- Earlier operations to homes in a scope that are not acknowledged, WCB lines included. -/
def Ctx.owes (c : Ctx) (seq : Nat) (scope : Word) : Bool :=
  (c.mq.iq.any fun o => o.seq < seq && scopeCovers scope c o.home) ||
    (c.mq.outs.any fun o => o.seq < seq && scopeCovers scope c o.home) ||
    (c.mq.wcb.any fun l => l.seq < seq && scopeCovers scope c l.home)

/-- Endpoints other than the release's own that carried a write and have not answered a zero-length read since (R101). -/
def Ctx.owesHost (c : Ctx) (scope : Word) (own : Option Nat) : Bool :=
  bitsAt scope.toNat 60 4 == 5 && c.mq.eps.any fun e => some e != own

/-- A fence marker still holds later operations back (R92). -/
def Ctx.markHolds (c : Ctx) (m : Marker) : Bool :=
  match m.kind with
  | .acq =>
    (c.mq.iq.any fun o => o.seq < m.seq && o.act.isLoad) || (c.mq.outs.any fun o => o.seq < m.seq && o.isLoad)
  | _ => c.owes m.seq m.scope || c.owesHost m.scope none

/-- An acquire is outstanding (R90). -/
def Ctx.acquiring (c : Ctx) : Bool := c.mq.outs.any fun o => o.acq

/-- Neither an acquire nor a fence holds back a later operation that is neither write, atomic nor engine entry (R90,
R92). -/
def Ctx.unheld (c : Ctx) : Bool := !c.acquiring && !(c.mq.marks.any fun m => m.kind != .rel && c.markHolds m)

/-- A message of a context to its own cell has not been performed. -/
def State.ownMessage (s : State) (c : Ctx) : Bool :=
  (s.net.ch ++ s.net.aq).any fun f => f.src == .ctx c.cid && c.cell?.any fun i => f.op.home == .cell i

/-- An access of a context to its own cell can be performed now without passing an earlier operation (R85, R86, R90,
R92). -/
def State.caughtUp (s : State) (c : Ctx) : Bool := c.mq.iq.isEmpty && c.unheld && !s.ownMessage c

/-! ### Performing (R87, R94, R95, R105) -/

/-- An open reduction entry of a line closes (R95). -/
def State.closeLine (s : State) (line : Nat) : State :=
  { s with net := { s.net with wq := s.net.wq.map fun e =>
      match e.2 with
      | .red l op ty es isOpen => (e.1, .red l op ty es (isOpen && l != line))
      | w => (e.1, w) } }

/-- A load performed at its home: its bytes; the line's reductions close. -/
def State.readAt (s : State) (pa len : Nat) : List Byte × State := (s.peek pa len, s.closeLine (lineOf pa))

/-- Wakes for every waiter of a watched line; the line leaves the table (R105, R274). -/
def State.wakeLine (s : State) (line : Nat) : State :=
  let ws := (s.net.watch.filter fun w => w.line == line).flatMap fun w => w.waiters
  { s with net := { s.net with
      watch := s.net.watch.filter fun w => w.line != line,
      wakes := s.net.wakes ++ ws.map fun w => ⟨w.1, w.2, 0, none⟩ } }

/-- Does a masked write cover a whole 32-byte sector. -/
def coversSector (pa : Nat) (bytes : List (Option Byte)) (x : Nat) : Bool :=
  pa ≤ 32 * x && 32 * x + 32 ≤ pa + bytes.length && ((bytes.drop (32 * x - pa)).take 32).all Option.isSome

/-- A write of a whole poisoned sector clears its mark; a write of a part leaves it (R378). DESIGN CHOICE (log 53): so it is
with a word of a vault. -/
def State.clearPoison (s : State) (pa : Nat) (bytes : List (Option Byte)) : State :=
  let word := fun (x : Nat) =>
    pa ≤ 8 * x && 8 * x + 8 ≤ pa + bytes.length && ((bytes.drop (8 * x - pa)).take 8).all Option.isSome
  { s with power := { s.power with
      poison := s.power.poison.filter fun x => !coversSector pa bytes x, sram := s.power.sram.filter fun x => !word x } }

/-- A write performed at its home: it enters the write queue, then wakes go out. -/
def State.writeAt (s : State) (pa : Nat) (bytes : List (Option Byte)) : State :=
  let s := (s.closeLine (lineOf pa)).clearPoison pa bytes
  { s with net := { s.net with wq := s.net.wq ++ [(homeOf pa, WEntry.write pa bytes)] } }.wakeLine (lineOf pa)

/-- A number of whole bytes written. -/
def State.writeNum (s : State) (pa n x : Nat) : State := s.writeAt pa ((bytesOf n x).map some)

/-- Merge elements of a reduction into an entry's (R95). -/
def mergeElems (op : RmwOp) (ty : Ty) (old new : List (Nat × Word)) : List (Nat × Word) :=
  new.foldl (fun es e =>
    match es.find? fun x => x.1 == e.1 with
    | none => es ++ [e]
    | some x => updateAll (fun y => y.1 == e.1)
        (fun y => (y.1, BitVec.ofNat 64 (rmw op ty x.2.toNat e.2.toNat))) es) old

/-- A reduction performed at its home: it merges into an open entry of its line with the same operation and type, or
enters the queue as a new one, which closes any other (R95). -/
def State.reduceAt (s : State) (pa : Nat) (op : RmwOp) (ty : Ty) (elems : List (Nat × Word)) : State :=
  let line := lineOf pa
  let fits := fun (e : Home × WEntry) => match e.2 with
    | .red l o t _ isOpen => isOpen && l == line && o == op && t == ty
    | _ => false
  let s :=
    if s.net.wq.any fits then
      let merge := fun (e : Home × WEntry) => match e.2 with
        | .red l o t es isOpen => (e.1, WEntry.red l o t (if fits e then mergeElems op ty es elems else es) isOpen)
        | w => (e.1, w)
      { s with net := { s.net with wq := s.net.wq.map merge } }
    else
      let s := s.closeLine line
      { s with net := { s.net with wq := s.net.wq ++ [(homeOf pa, WEntry.red line op ty elems true)] } }
  s.wakeLine line

/-! ### Accesses of engines and hub agents as messages (R84, R86, R97, R100) -/

/-- The accesses that a source has under way under a number. -/
def State.io? (s : State) (src : Source) (id : Nat) : Option Io := s.net.ios.find? fun x => x.src == src && x.id == id

/-- No answer is missing to the reads of a number. -/
def State.ioRead? (s : State) (src : Source) (id : Nat) : Bool := (s.io? src id).all fun x => x.reads == 0
/-- No answer at all is missing: every access of the number has been acknowledged (R97, R99). -/
def State.ioOver (s : State) (src : Source) (id : Nat) : Bool := (s.io? src id).all fun x => x.reads == 0 && x.acks == 0

/-- The bytes that the reads of a number have returned. -/
def State.ioBytes (s : State) (src : Source) (id : Nat) : List Byte := ((s.io? src id).map Io.buf).getD []
/-- The first error answer to the accesses of a number. -/
def State.ioBad (s : State) (src : Source) (id : Nat) : Option Trap := (s.io? src id).bind Io.bad

/-- The accesses of a number change. -/
def State.ioPut (s : State) (x : Io) : State :=
  { s with net := { s.net with ios := upsert (fun y => y.src == x.src && y.id == x.id) x s.net.ios } }
/-- The accesses of a number are forgotten. -/
def State.ioDrop (s : State) (src : Source) (id : Nat) : State :=
  { s with net := { s.net with ios := s.net.ios.filter fun y => !(y.src == src && y.id == id) } }

/-- One message for each part: it enters the channel of its source and home. -/
def State.sendParts (s : State) (src : Source) (id : Nat) (ps : List (Part × Act)) : State :=
  { s with net := { s.net with ch := s.net.ch ++ ps.map fun p =>
      ⟨src, p.1.op .plain p.2 id⟩ } }

/-- Send the reads of parts, each with its place in a buffer of `len` bytes. -/
def State.ioSendReads (s : State) (src : Source) (id len : Nat) (ps : List (Part × Nat)) : State :=
  let old := (s.io? src id).getD ⟨src, id, [], 0, 0, none⟩
  (s.ioPut { old with buf := List.replicate len 0, reads := ps.length }).sendParts src id
    (ps.map fun p => (p.1, Act.load id p.2 p.1.len []))

/-- A write to an endpoint is remembered until the next system-scope release (R101). -/
def MemQ.useEp (q : MemQ) (h : Home) : MemQ :=
  match h.ep? with
  | some e => if q.eps.contains e then q else { q with eps := q.eps ++ [e] }
  | none => q

/-- Send the writes of parts. -/
def State.ioSendWrites (s : State) (src : Source) (id : Nat) (ps : List (Part × List (Option Byte))) : State :=
  let old := (s.io? src id).getD ⟨src, id, [], 0, 0, none⟩
  let s := (s.ioPut { old with acks := old.acks + ps.length }).sendParts src id (ps.map fun p => (p.1, Act.store p.2))
  match src.ctx? with
  | none => s
  | some c => s.updCtx c fun c => { c with mq := ps.foldl (fun q p => q.useEp p.1.home) c.mq }

/-- An answer reaches a source that is no context (R87): bytes to their place, and the first error is kept. -/
def State.ioReply (s : State) (r : Reply) (t : Trap) : State :=
  match s.io? r.src r.seq with
  | none => s
  | some x =>
    let bad := if r.bad then x.bad <|> some t else x.bad
    match r.pend with
    | some p => s.ioPut { x with buf := if r.bad then x.buf else putBytes x.buf p.2 r.bytes, reads := x.reads - 1, bad := bad }
    | none => s.ioPut { x with acks := x.acks - 1, bad := bad }

/-- The bytes of a run of parts, each with its place. -/
def partData (bytes : List Byte) (ps : List (Part × Nat)) : List (Part × List (Option Byte)) :=
  ps.map fun p => (p.1, ((bytes.drop p.2).take p.1.len).map some)

/-! ### Reads and writes at one instant (log 7) -/

/-- Read every part. -/
def State.readParts : List Part → State → List Byte × State
  | [], s => ([], s)
  | p :: ps, s =>
    let r := s.readAt p.pa p.len
    let t := State.readParts ps r.2
    (r.1 ++ t.1, t.2)

/-- Write bytes over parts, in order. -/
def State.writeParts : List Part → List Byte → State → State
  | [], _, s => s
  | p :: ps, bs, s => State.writeParts ps (bs.drop p.len) (s.writeAt p.pa ((bs.take p.len).map some))

/-! ### Queue registers (R354) -/

def State.queueRegs (s : State) (q : Nat) : QueueRegs :=
  ((s.hub.queues.find? fun x => x.1 == q).map Prod.snd).getD .reset
def State.setQueue (s : State) (q : Nat) (r : QueueRegs) : State :=
  { s with hub := { s.hub with queues := upsert (fun x => x.1 == q) (q, r) s.hub.queues } }

def QueueRegs.asid (r : QueueRegs) : BitVec 16 := r.ctrl.extractLsb' 48 16
def QueueRegs.pcap (r : QueueRegs) : Nat := bitsAt r.ctrl.toNat 12 4
def QueueRegs.det (r : QueueRegs) : Nat := bitsAt r.ctrl.toNat 8 2
def QueueRegs.size (r : QueueRegs) : Nat := bitsAt r.ctrl.toNat 1 4
/-- Sizes other than 4 to 15 hold the queue disabled. -/
def QueueRegs.enabled (r : QueueRegs) : Bool := bitsAt r.ctrl.toNat 0 1 == 1 && 4 ≤ r.size

/-- The physical address of a ring entry: host memory behind an endpoint, or a virtual address, read by stack offset of
the queue's frame (log 16). -/
def ringPa (q : Nat) (base : Word) (off : Nat) : Nat :=
  let a := base.toNat % 2 ^ 56 + off
  if base.msb then launchPa (q / 128) a else paHost (bitsAt base.toNat 62 1) a

/-! ### Links (R360 to R363) -/

/-- A link as it trains: lanes and rate in units of 0.1 GT/s or Gb/s (R360 to R362). -/
def Link.trained (l : Nat) : Link :=
  if l < 2 then ⟨l, 16, 1280, true, none⟩ else if l < 6 then ⟨l, 16, 640, true, none⟩ else ⟨l, 8, 2240, true, none⟩

/-- A link; one that bring-up has not trained is down (R366). -/
def State.link (s : State) (l : Nat) : Link := (s.hub.links.find? fun x => x.id == l).getD { Link.trained l with up := false }
def State.setLink (s : State) (x : Link) : State :=
  { s with hub := { s.hub with links := upsert (fun y => y.id == x.id) x s.hub.links } }

/-! ### Fault queues (R330) -/

/-- The words of a record. -/
def recordWords (c : Ctx) (f : FaultRec) : List Word :=
  [BitVec.ofNat 64 (f.cause.toNat * 2 ^ 48 + f.detail.toNat * 2 ^ 32 + c.slot % 4 * 2 ^ 24 + cellIdx c.cell),
   f.pc, f.addr, BitVec.ofNat 64 f.time]

def wordsBytes (ws : List Word) : List Byte := ws.flatMap fun w => bytesOf 8 w.toNat

/-- Write 64-byte-line pieces of a run of bytes at a physical address. -/
def State.writeRun (s : State) (pa : Nat) (bs : List Byte) : State :=
  State.writeParts (fixedParts pa pa bs.length .hbm) bs s

/-- Post a record to a service cell of a comb, if its ring has room (R330): word by word at sr.fqbase, which is a stack
offset of the comb's own frame (log 16). -/
def State.postRecord (s : State) (k : CombId) (trans : Bool) (ws : List Word) : Option State :=
  let r := if trans then (s.combRec k).trans else (s.combRec k).sup
  if 256 ≤ r.fqcount then none
  else
    let pa := paHbm (combFrame k) ((r.fqbase.toNat + r.fqhead.toNat * 32) % 2 ^ 36)
    let s := s.writeRun pa (wordsBytes ws)
    some (s.setService k trans fun r => { r with fqhead := r.fqhead + 1, fqcount := r.fqcount + 1 })

/-! ### The dirty log (R348, R349) -/

def State.logHead (s : State) (i : CellId) : Nat := ofBytes (s.peek (paLocal i 0xFE00) 2) % 512
def State.logTail (s : State) (i : CellId) : Nat := ofBytes (s.peek (paLocal i 0xFE04) 2) % 512
def State.logUsed (s : State) (i : CellId) : Nat := (s.logHead i + 512 - s.logTail i) % 512

/-- A write that was placed through an entry with d = 0 newly dirties its page, unless an earlier write has set d in the
TLBs since. An entry that has left them since is logged too, so that no write is lost (R348, R353). -/
def State.undirtied (s : State) (c : Ctx) (e : TlbEntry) : Bool :=
  match s.tlbFind c e.base with
  | some x => !(x.w0 == e.w0 && x.w1 == e.setD.w1)
  | none => true

/-- Append an entry to the log of a cell and set d in its TLBs; the notice of a half-full log goes to the supervisor. A
full log, or a notice that its queue cannot take, holds the write back. -/
def State.logDirty (s : State) (c : Ctx) (i : CellId) (e : TlbEntry) : Option State :=
  let used := s.logUsed i
  if 256 ≤ used then none
  else
    let head := s.logHead i
    let entry := c.slot % 4 * 2 ^ 46 + e.size * 2 ^ 44 + e.vpn
    let m := s.mem.setNum (paLocal i (0xF800 + 6 * (head % 256))) 6 entry
    let s := { s with mem := m.setNum (paLocal i 0xFE00) 2 ((head + 1) % 512) }
    let mark := fun (x : TlbEntry) => if x.w0 = e.w0 ∧ x.w1 = e.w1 then x.setD else x
    let cr := s.cellRec i
    let s := s.setCell { cr with tlb := cr.tlb.map mark }
    let k := s.combRec (cellComb i)
    let s := s.setComb { k with tlb := k.tlb.map mark }
    if used + 1 = 128 then
      s.postRecord (cellComb i) false (recordWords c ⟨0x0100, 0, c.sr.tpc, c.sr.taddr, s.now, true⟩)
    else some s

/-- Dirty the pages of a write that was placed through entries with d = 0, where they are not dirtied yet; `none` holds the
write back. -/
def State.dirty (c : Ctx) : List TlbEntry → State → Option State
  | [], s => some s
  | e :: es, s =>
    match c.cell? with
    | none => some s
    | some i =>
      match if s.undirtied c e then s.logDirty c i e else some s with
      | none => none
      | some s => State.dirty c es s

/-- Dirty the pages of several parts (R348). -/
def State.dirtyParts (c : Ctx) (ps : List Part) (s : State) : Option State := State.dirty c (ps.flatMap Part.dirt) s

end Sys2Proof.Machine
end

