-- ==== Sys2Proof/Machine/MemAccess.lean ====
section
/-!
DEFINITION. Loads and stores (R260 to R267): the effective address, the checks of R262 in their order, plain, decoding,
raw, acquire, release and streaming forms, gather and scatter, and the prefetches (R268). An instruction places its
parts in IQ(c); the steps of R85 to R87 move them.
-/
namespace Sys2Proof.Machine

/-! ### Addresses and operands (R260, R261) -/

/-- The effective address. -/
def effAddr (c : Ctx) (a : GReg) (disp : BitVec 14) : Word := c.regs.gr a + disp.signExtend 64

/-- The bits that a scalar data source stores: a constant is converted to a floating type (R167, R263). -/
def storeBits (R : Regs) (t : Ty) : GSrc → Nat
  | .reg x => (R.gr x).toNat % 2 ^ t.bits
  | .imm k => immBits t k % 2 ^ t.bits

/-- The scope fault of a synchronising form (R88, R262 check 3). -/
def scopeFault (c : Ctx) (f : BitVec 6) : Option Trap :=
  let v := scopeValue c f
  if scopeOk v then none else some ⟨cScope, 0, v⟩

/-- The misalignment fault (R262 check 4). -/
def alignFault (ea : Word) (n : Nat) : Option Trap :=
  if ea.toNat % n = 0 then none else some ⟨cMisaligned, 0, ea⟩

/-- The first fault of a list of checks. -/
def firstFault : List (Option Trap) → Option Trap
  | [] => none
  | some t :: _ => some t
  | none :: ts => firstFault ts

/-! ### Active lanes (R217, R263) -/

/-- The active lanes of a type. -/
def activeLanes (h : Hdr) (R : Regs) (t : Ty) : List Bool :=
  (List.range t.lanes).map (laneActive t.bytes (predMask h R))

/-- The bytes of the active lanes. -/
def activeBytes (t : Ty) (active : List Bool) : List Bool := active.flatMap (List.replicate t.bytes)

/-! ### Accesses -/

/-- One access of an instruction: its address, its length, and its place in the buffer or in the data. -/
structure Access where
  va : Word
  len : Nat
  off : Nat
  deriving DecidableEq, Repr

/-- The access of a run of bytes at `ea` of which some are active: from the first active byte to the last. It is at most
32 bytes, so that each part of it, and each page and sector that it touches, holds an active byte. A fault names the
first active byte that it concerns (`Trap.atLive`). -/
def hullAccess (ea : Word) (act : List Bool) : List Access :=
  let on := (List.range act.length).filter fun k => act.getD k false
  match on.head?, on.getLast? with
  | some lo, some hi => [⟨ea + BitVec.ofNat 64 lo, hi + 1 - lo, lo⟩]
  | _, _ => []

/-- The access of the active lanes of a vector at `ea`. -/
def laneAccesses (t : Ty) (ea : Word) (active : List Bool) : List Access := hullAccess ea (activeBytes t active)

/-- The fault of an access that begins at `start` names its first active byte from the place of the fault on: `live` says
which bytes are active, from place `off` on. -/
def Trap.atLive (t : Trap) (start off len : Nat) (live : Nat → Bool) : Trap :=
  let k := t.addr.toNat - start
  match (List.range len).find? fun j => k ≤ j && live (off + j) with
  | some j => { t with addr := t.addr + BitVec.ofNat 64 (j - k) }
  | none => t

/-- Where the checks look for the first byte of an access: R68 may have redirected it. -/
def State.placedStart (s : State) (c : Ctx) (use : Use) (stack : Bool) (va : Word) : Nat :=
  match s.place c use stack va 1 with
  | .ok (p :: _) => p.va
  | _ => va.toNat

/-- Place accesses one after another; each part with its place in the buffer or data. -/
def State.placeAll (s : State) (c : Ctx) (use : Use) (stack : Bool) (live : Nat → Bool) :
    List Access → Except Trap (List (Part × Nat))
  | [] => .ok []
  | a :: as =>
    match s.place c use stack a.va a.len with
    | .error t => .error (t.atLive (s.placedStart c use stack a.va) a.off a.len live)
    | .ok ps =>
      match s.placeAll c use stack live as with
      | .error t => .error t
      | .ok qs => .ok (withOffsets ((ps.head?.map fun p => p.va).getD 0) a.off ps ++ qs)

/-- A part as the meters count it: only its active bytes (R260, R262). -/
def meterPart (live : Nat → Bool) (p : Part × Nat) : Part :=
  { p.1 with len := ((List.range p.1.len).filter fun k => live (p.2 + k)).length }

/-- Every byte is active. -/
def allLive (_ : Nat) : Bool := true

/-- An access whose parts have entered IQ(c) completes. One whose read meets uncorrectable data holds its context until the
answer has come, so that its fault is precise (R70, R262); DESIGN CHOICE (log 24): the write of a sealed cell takes its
fault as it executes. -/
def settleAccess (s : State) (use : Use) (parts : List Part) (after : State) : Out :=
  if use = .write then
    match s.sealedPart parts with
    | some t => faultOut { s with th := { s.th with meters := after.th.meters } } t
    | none => .next (after.mapTh Ctx.retire)
  else if s.badParts parts then parkOut (after.mapTh Ctx.holdLast) .drain
  else .next (after.mapTh Ctx.retire)

/-- The parts of an access enter IQ(c), and the meters count its active bytes. -/
def placed (s : State) (use : Use) (ps : List (Part × Nat)) (live : Nat → Bool) (f : Ctx → Ctx) : Out :=
  let parts := ps.map Prod.fst
  match s.absentPart parts with
  | some k => .fault (.absentStack k)
  | none => settleAccess s use parts ((s.mapTh fun c => ((f c).charge (ps.map (meterPart live))).run).tlbTouch s.th parts)

/-- A load of accesses into a result buffer of `len` bytes. -/
def loadAccesses (s : State) (stack : Bool) (as : List Access) (live : Nat → Bool) (dest : Dest) (len : Nat) (o : Order) :
    Out :=
  match s.placeAll s.th .read stack live as with
  | .error t => faultOut s t
  | .ok ps => placed s .read ps live fun c => c.pushLoad dest len ps o

/-- The masked bytes of each part: a part at `off` of the data writes the active bytes of the data from there on. -/
def partBytes (data : List Byte) (live : Nat → Bool) (ps : List (Part × Nat)) : List (Part × List (Option Byte)) :=
  ps.map fun p => (p.1, ((data.drop p.2).take p.1.len).mapIdx fun k b => if live (p.2 + k) then some b else none)

/-- A store of accesses from data. -/
def storeAccesses (s : State) (stack : Bool) (as : List Access) (live : Nat → Bool) (data : List Byte) (o : Order)
    (stream : Bool) : Out :=
  match s.placeAll s.th .write stack live as with
  | .error t => faultOut s t
  | .ok ps => placed s .write ps live fun c => c.pushStore (partBytes data live ps) o stream

/-! ### Plain loads and stores (R263) -/

/-- A scalar load after its first checks. -/
def loadG (ty : Ty) (d : BitVec 6) (a : GReg) (ea : Word) (o : Order) (s : State) : Out :=
  loadAccesses s (isSp a.r) [⟨ea, ty.bytes, 0⟩] allLive (.g d ty) ty.bytes o

/-- A scalar store after its first checks. -/
def storeG (ty : Ty) (a : GReg) (ea : Word) (b : GSrc) (o : Order) (stream : Bool) (s : State) : Out :=
  storeAccesses s (isSp a.r) [⟨ea, ty.bytes, 0⟩] allLive (bytesOf ty.bytes (storeBits s.th.regs ty b)) o stream

/-- An instruction that is whole: it does nothing when its predicate fails. -/
def onPred (h : Hdr) (f : State → Out) (s : State) : Out := if predOn h s.th.regs then f s else .next s.retire

/-- A lane form with no active lane does nothing. -/
def onLanes (h : Hdr) (t : Ty) (f : State → Out) (s : State) : Out :=
  if (activeLanes h s.th.regs t).any id then f s else .next s.retire

def execLd (h : Hdr) (o : MemLd) (s : State) : Out :=
  onPred h (fun s => loadG o.ty o.d o.a (effAddr s.th o.a o.disp) .plain s) s

/-- Is a byte of a vector one of an active lane. -/
def liveLane (h : Hdr) (R : Regs) (t : Ty) (k : Nat) : Bool := (activeLanes h R t).getD (k / t.bytes) false

/-- `ldv`: the bytes of inactive lanes reach no register. -/
def loadV (h : Hdr) (o : MemLdV) (s : State) : Out :=
  onLanes h o.ty (fun s =>
    loadAccesses s (isSp o.a.r) (laneAccesses o.ty (effAddr s.th o.a o.disp) (activeLanes h s.th.regs o.ty))
      (liveLane h s.th.regs o.ty) (.v o.d o.ty (predMask h s.th.regs) (s.th.regs.rv o.d)) 32 .plain) s
def execLdv (h : Hdr) (o : MemLdV) (s : State) : Out := loadV h o s

/-- `ldvb`: the bytes are read once. -/
def execLdvb (h : Hdr) (o : MemLdV) (s : State) : Out :=
  onLanes h o.ty (fun s =>
    loadAccesses s (isSp o.a.r) [⟨effAddr s.th o.a o.disp, o.ty.bytes, 0⟩] allLive
      (.vb o.d o.ty (predMask h s.th.regs) (s.th.regs.rv o.d))
      o.ty.bytes .plain) s

def execSt (h : Hdr) (o : MemSt) (s : State) : Out :=
  onPred h (fun s => storeG o.ty o.a (effAddr s.th o.a o.disp) o.b .plain false s) s

/-- A vector store: no byte of an inactive lane is written. -/
def storeV (h : Hdr) (o : MemStV) (stream : Bool) (s : State) : Out :=
  onLanes h o.ty (fun s =>
    storeAccesses s (isSp o.a.r) (laneAccesses o.ty (effAddr s.th o.a o.disp) (activeLanes h s.th.regs o.ty))
      (liveLane h s.th.regs o.ty) (vBytes (ofLanes o.ty.bits (s.th.regs.vrLanes o.ty.bits o.b))) .plain stream) s
def execStv (h : Hdr) (o : MemStV) (s : State) : Out := storeV h o false s

/-! ### Decoding and raw loads (R264) -/

/-- An element that a decoding load reads: its lane, its offset from `ea`. -/
def ldfOffset (fmt j : Nat) : Nat := j * fmtEbits fmt / 8

/-- Bytes of an element, at least one. -/
def ldfBytes (fmt : Nat) : Nat := if fmtEbits fmt = 16 then 2 else 1

/-- The part that holds the first byte of the element of lane `j`, for elements of `b` bits: the page that gives a
decoding load its format. -/
def State.ldfElement (s : State) (stack : Bool) (ea : Word) (j b : Nat) : Except Trap Part :=
  let va := ea + BitVec.ofNat 64 (j * b / 8)
  match s.place s.th .read stack va 1 with
  | .error t => .error t
  | .ok ps =>
    match ps with
    | [] => .error ⟨cFormat, 0, va⟩
    | p :: _ => .ok p

/-- Does the page of an element have the element width that leads to it. -/
def State.widthFits (s : State) (b : Nat) : Except Trap Part → Bool
  | .ok p => (s.seenEntry s.th p).any fun e => fmtEbits e.fmt == b
  | .error _ => false

/-- The part of the first active element, lane `j`, of a decoding load at `ea`: the width of the elements is the one that
the page found with it has; with no such width, the byte at `ea` decides. -/
def State.ldfPage (s : State) (stack : Bool) (ea : Word) (j : Nat) : Except Trap Part :=
  ((([4, 8, 16] : List Nat).find? fun b => s.widthFits b (s.ldfElement stack ea j b)).map fun b =>
    s.ldfElement stack ea j b).getD (s.ldfElement stack ea 0 8)

/-- The companion parts of a run of `n` blocks from the block of an element on, in one access (R75, R78). -/
def State.companionRun (s : State) (c : Ctx) (e : TlbEntry) (va : Word) (n : Nat) : Except Trap (List Part) :=
  match s.companion c e va with
  | .error t => .error t
  | .ok ps =>
    match ps.head? with
    | none => .ok []
    | some p =>
      match s.placeAt c .read (BitVec.ofNat 64 p.va) (n * fmtCb e.fmt) with
      | .error t => .error t
      | .ok qs => .ok qs

/-- The access of the elements of some lanes, ascending, at `ea`: from the first byte of the first to the last of the
last. -/
def ldfAccess (fmt : Nat) (ea : Word) (lanes : List Nat) : Access :=
  let lo := ldfOffset fmt (lanes.headD 0)
  ⟨ea + BitVec.ofNat 64 lo, ldfOffset fmt (lanes.getLastD 0) + ldfBytes fmt - lo, lo⟩

/-- Is a byte of the buffer of a decoding load one of an active element, or a companion byte. -/
def ldfLive (fmt at0 : Nat) (lanes : List Nat) (k : Nat) : Bool :=
  at0 ≤ k || lanes.any fun j => ldfOffset fmt j ≤ k && k < ldfOffset fmt j + ldfBytes fmt

/-- The format faults of the elements of a decoding load, whose page allows the load (R76, R264). -/
def ldfFormat (ea : Word) (va j : Nat) (lanes : List Nat) (hi : Bool) (e : TlbEntry) : Option Trap :=
  if (hi && fmtEbits e.fmt != 4) || (fmtEbits e.fmt == 16 && ea.toNat % 2 != 0) then
    some ⟨cFormat, 0, ea + BitVec.ofNat 64 (ldfOffset e.fmt j)⟩
  else
    (lanes.find? fun k => decide (e.base + e.bytes < va + ldfOffset e.fmt k + ldfBytes e.fmt)).map fun k =>
      ⟨cFormat, 0, ea + BitVec.ofNat 64 (ldfOffset e.fmt k)⟩

/-- Decoding load of the elements of some lanes: one read of element bytes and one of companion bytes (R78). Checks: the
addresses of the elements and of their companions, then the format (R262). With traps enabled the load holds its context
until it has returned (R123). -/
def loadDecoded (stack : Bool) (ea : Word) (lanes : List Nat) (hi : Bool) (at0 : Nat → Nat) (dest : Nat → Nat → Dest)
    (s : State) : Out :=
  let j := lanes.headD 0
  match s.ldfPage stack ea j with
  | .error t => faultOut s t
  | .ok p =>
    let fmt := ((s.seenEntry s.th p).map fun e => e.fmt).getD 0
    match s.placeAll s.th .read stack (ldfLive fmt 64 lanes) [ldfAccess fmt ea lanes] with
    | .error t => faultOut s t
    | .ok ps =>
      match s.decodeEntry s.th (ea + BitVec.ofNat 64 (ldfOffset fmt j)) p with
      | .error t => faultOut s t
      | .ok e =>
        let va := p.va - ldfOffset fmt j
        let cut := 32 - ((va : Int) - e.base).toNat * 8 / fmtEbits fmt % 32
        let blocks := ldfvBlock cut (lanes.getLastD 0) - ldfvBlock cut j + 1
        let comp := s.companionRun s.th e (BitVec.ofNat 64 p.va) blocks
        match comp, ldfFormat ea va j lanes hi e with
        | .error t, f => faultOut s (if t.cause = cFormat then f.getD t else t)
        | .ok _, some t => faultOut s t
        | .ok qs, none =>
          let all := ps ++ withOffsets ((qs.head?.map fun p => p.va).getD 0) (at0 fmt) qs
          let parts := all.map Prod.fst
          match s.absentPart parts with
          | some k => .fault (.absentStack k)
          | none =>
            let meter := all.map (meterPart (ldfLive fmt (at0 fmt) lanes))
            let push := fun (c : Ctx) => ((c.pushLoad (dest fmt cut) (at0 fmt + 4) all .plain).charge meter).run
            let s' := (s.mapTh push).tlbTouch s.th parts
            if fpEnables s.th.sr = 0 then settleAccess s .read parts s' else parkOut (s'.mapTh Ctx.holdLast) .drain

/-- The scalar decoding loads: element bytes, then companion bytes. -/
def loadElement (h : Hdr) (o : MemLd) (hi : Bool) (s : State) : Out :=
  onPred h (fun s => loadDecoded (isSp o.a.r) (effAddr s.th o.a o.disp) [0] hi ldfBytes (fun fmt _ => .ldf o.d fmt hi) s) s

def execLdf (h : Hdr) (o : MemLd) (s : State) : Out := loadElement h o false s
def execLdfh (h : Hdr) (o : MemLd) (s : State) : Out := loadElement h o true s

def execLdfv (h : Hdr) (o : MemLdV) (s : State) : Out :=
  onLanes h .f32 (fun s =>
    let act := activeLanes h s.th.regs .f32
    let lanes := (List.range 8).filter fun j => act.getD j false
    let mask : BitVec 8 := BitVec.ofNat 8 (packLanes 1 (act.map fun b => if b then 1 else 0))
    loadDecoded (isSp o.a.r) (effAddr s.th o.a o.disp) lanes false (fun _ => 16) (fun fmt cut => .ldfv o.d fmt mask cut (s.th.regs.rv o.d)) s) s

def execLdr (h : Hdr) (o : MemLd) (s : State) : Out :=
  onPred h (fun s => loadG o.ty o.d o.a (effAddr s.th o.a o.disp) .plain s) s
def execLdrv (h : Hdr) (o : MemLdV) (s : State) : Out := loadV h o s

/-- `ldrx`: the companion bytes of the element at `ea`. -/
def execLdrx (h : Hdr) (o : MemLd) (s : State) : Out :=
  onPred h (fun s =>
    let ea := effAddr s.th o.a o.disp
    match s.ldfElement (isSp o.a.r) ea 0 8 with
    | .error t => faultOut s t
    | .ok p =>
      match s.decodeEntry s.th ea p with
      | .error t => faultOut s t
      | .ok e =>
        if fmtCb e.fmt = 0 then faultOut s ⟨cFormat, 0, ea⟩
        else
          match s.companion s.th e (BitVec.ofNat 64 p.va) with
          | .error t => faultOut s t
          | .ok ps =>
            let n := fmtCb e.fmt
            let qs := withOffsets ((ps.head?.map fun p => p.va).getD 0) 0 ps
            placed s .read qs allLive fun c => c.pushLoad (.g o.d (if n = 2 then .h else .b)) n qs .plain) s

/-! ### Acquire, release and streaming (R265, R266) -/

def execLdAcq (h : Hdr) (o : MemLdS) (s : State) : Out :=
  onPred h (fun s =>
    let ea := effAddr s.th o.a o.disp
    match firstFault [scopeFault s.th o.s, alignFault ea o.ty.bytes] with
    | some t => faultOut s t
    | none => loadG o.ty o.d o.a ea ⟨true, none⟩ s) s

def execStRel (h : Hdr) (o : MemStS) (s : State) : Out :=
  onPred h (fun s =>
    let ea := effAddr s.th o.a o.disp
    match firstFault [scopeFault s.th o.s, alignFault ea o.ty.bytes] with
    | some t => faultOut s t
    | none => storeG o.ty o.a ea o.b ⟨false, some (scopeValue s.th o.s)⟩ false s) s

def execSts (h : Hdr) (o : MemSt) (s : State) : Out :=
  onPred h (fun s => storeG o.ty o.a (effAddr s.th o.a o.disp) o.b .plain true s) s
def execStsv (h : Hdr) (o : MemStV) (s : State) : Out := storeV h o true s

/-! ### Gather and scatter (R267) -/

/-- The accesses of the active lanes of a gather or scatter, in ascending lane order. -/
def gatherAccesses (R : Regs) (t : Ty) (ea : Word) (idx : VReg) (active : List Bool) : List Access :=
  let ix := R.vrLanes t.bits idx
  ((List.range t.lanes).filter fun j => active.getD j false).map fun j =>
    ⟨ea + BitVec.ofInt 64 (signedOf t.bits (ix.getD j 0) * t.bytes), t.bytes, j * t.bytes⟩

def execVgather (h : Hdr) (o : Gather) (s : State) : Out :=
  onLanes h o.ty (fun s =>
    loadAccesses s (isSp o.a.r)
      (gatherAccesses s.th.regs o.ty (effAddr s.th o.a o.disp) o.idx (activeLanes h s.th.regs o.ty))
      allLive (.v o.d o.ty (predMask h s.th.regs) (s.th.regs.rv o.d)) 32 .plain) s

def execVscatter (h : Hdr) (o : Scatter) (s : State) : Out :=
  onLanes h o.ty (fun s =>
    storeAccesses s (isSp o.a.r)
      (gatherAccesses s.th.regs o.ty (effAddr s.th o.a o.disp) o.idx (activeLanes h s.th.regs o.ty))
      allLive (vBytes (s.th.regs.rv o.data)) .plain false) s

/-! ### Prefetches (R268) -/

/-- `pft` brings the entry of a page into the cell's TLB: from the comb's TLB, or by asking the translation cell. A page
that would fault is left alone. DESIGN CHOICE (log 71): the access whose page it looks for has one byte. -/
def execPft (h : Hdr) (o : Prefetch) (s : State) : Out :=
  onPred h (fun s =>
    match s.place s.th .read (isSp o.a.r) (effAddr s.th o.a o.disp) 1 with
    | .error t => .next (if t.cause = cTranslation then s.askPage s.th t.addr.toNat else s).retire
    | .ok ps => .next (s.tlbTouch s.th ps).retire) s

/-- `pfh`: a message without a reply; the meters count 64 bytes. It is dropped where a read would fault. DESIGN CHOICE
(log 71): the access that the checks place has one byte. -/
def execPfh (h : Hdr) (o : Prefetch) (s : State) : Out :=
  onPred h (fun s =>
    match s.place s.th .read (isSp o.a.r) (effAddr s.th o.a o.disp) 1 with
    | .error _ => .next s.retire
    | .ok ps =>
      match ps.head? with
      | none => .next s.retire
      | some p =>
        if s.absentPart [p] = none then
          let line : Part := { p with len := 64 }
          .next (s.mapTh fun c =>
            ((c.push (p.op .plain .prefetch)).charge [line]).retire)
        else .next s.retire) s

end Sys2Proof.Machine
end

