-- ==== Sys2Proof/Machine/Atomics.lean ====
section
/-!
DEFINITION. Single-address atomics (R269), reductions (R270) and two-address operations (R271), with the determinism
faults of R126.
-/
namespace Sys2Proof.Machine

/-! ### Checks -/

/-- The determinism fault (R126): before everything else, whatever the predicate. -/
def detFault (c : Ctx) (level : Nat) (applies : Bool) : Option Trap :=
  if applies && level ≤ detLevel c then some ⟨cDeterminism, 0, 0⟩ else none

/-- Run an instruction after its determinism check. -/
def onDet (level : Nat) (applies : State → Bool) (f : State → Out) (s : State) : Out :=
  match detFault s.th level (applies s) with
  | some t => faultOut s t
  | none => f s

/-- An atomic at a host port is refused by its home (R262 check 7). -/
def atomicHome (ea : Word) (ps : List Part) : Option Trap :=
  if ps.any fun p => match p.home with | .host _ => true | _ => false then some ⟨cAtomicHome, 0, ea⟩ else none

/-! ### Single-address atomics (R269) -/

/-- An atomic with its operation: the old value returns to gd; `cas` takes gd as the expected value. -/
def atomicOp (op : RmwOp) (h : Hdr) (o : Amo) (s : State) : Out :=
  onDet 1 (fun s => s.isFree s.th || o.ty.isFloat) (onPred h fun s =>
    let ea := effAddr s.th o.a o.disp
    match firstFault [if o.ar then scopeFault s.th o.s else none, alignFault ea o.ty.bytes] with
    | some t => faultOut s t
    | none =>
      match s.place s.th .write (isSp o.a.r) ea o.ty.bytes with
      | .error t => faultOut s t
      | .ok ps =>
        match atomicHome ea ps with
        | some t => faultOut s t
        | none =>
          let b := BitVec.ofNat 64 (storeBits s.th.regs o.ty o.b)
          let cmp := zext64 o.ty.bits (s.th.regs.rg o.d).toNat
          let order : Order := if o.ar then ⟨true, some (scopeValue s.th o.s)⟩ else .plain
          placed s .read (ps.map fun p => (p, 0)) allLive fun c =>
            let e := c.expect (.g o.d o.ty) 1 o.ty.bytes
            e.2.pushAll (ps.map fun p => p.op order (.amo op o.ty b cmp e.1))) s

def execAmoSwap (h : Hdr) (o : Amo) (s : State) : Out := atomicOp .swap h o s
def execAmoAdd (h : Hdr) (o : Amo) (s : State) : Out := atomicOp .add h o s
def execAmoAnd (h : Hdr) (o : Amo) (s : State) : Out := atomicOp .and h o s
def execAmoOr (h : Hdr) (o : Amo) (s : State) : Out := atomicOp .or h o s
def execAmoXor (h : Hdr) (o : Amo) (s : State) : Out := atomicOp .xor h o s
def execAmoMin (h : Hdr) (o : Amo) (s : State) : Out := atomicOp .min h o s
def execAmoMax (h : Hdr) (o : Amo) (s : State) : Out := atomicOp .max h o s
def execCas (h : Hdr) (o : Amo) (s : State) : Out := atomicOp .cas h o s

/-! ### Reductions (R270) -/

/-- The elements of the active lanes of a v source, by offset in the line. -/
def redLanes (h : Hdr) (R : Regs) (t : Ty) (x : VReg) (off : Nat) : List (Nat × Word) :=
  let xs := R.vrLanes t.bits x
  let act := activeLanes h R t
  ((List.range t.lanes).filter fun j => act.getD j false).map fun j =>
    (off + j * t.bytes, BitVec.ofNat 64 (xs.getD j 0))

/-- The reduction of elements into an aligned access of `n` bytes. -/
def reduceOp (op : RmwOp) (ty : Ty) (a : GReg) (disp : BitVec 14) (n : Nat) (live : Nat → Bool)
    (elems : Nat → List (Nat × Word)) (s : State) : Out :=
  let ea := effAddr s.th a disp
  match alignFault ea n with
  | some t => faultOut s t
  | none =>
    match s.place s.th .write (isSp a.r) ea n with
    | .error t => faultOut s t
    | .ok ps =>
      match atomicHome ea ps with
      | some t => faultOut s t
      | none =>
        placed s .write (ps.map fun p => (p, 0)) live fun c =>
          c.pushAll (ps.map fun p => p.op .plain (.red op ty (elems (p.pa % 64))))

/-- A reduction with its operation: floating forms fault at levels 1 to 3. -/
def reduction (op : RmwOp) (h : Hdr) (o : Red) (s : State) : Out :=
  onDet 1 (fun _ => o.ty.isFloat) (fun s =>
    match o.b with
    | .g b =>
      onPred h (fun s =>
        let x := BitVec.ofNat 64 (storeBits s.th.regs o.ty b)
        reduceOp op o.ty o.a o.disp o.ty.bytes allLive (fun off => [(off, x)]) s) s
    | .v x =>
      onLanes h o.ty (fun s =>
        reduceOp op o.ty o.a o.disp 32 (liveLane h s.th.regs o.ty) (redLanes h s.th.regs o.ty x) s) s) s

def execRedAdd (h : Hdr) (o : Red) (s : State) : Out := reduction .add h o s
def execRedAnd (h : Hdr) (o : Red) (s : State) : Out := reduction .and h o s
def execRedOr (h : Hdr) (o : Red) (s : State) : Out := reduction .or h o s
def execRedXor (h : Hdr) (o : Red) (s : State) : Out := reduction .xor h o s
def execRedMin (h : Hdr) (o : Red) (s : State) : Out := reduction .min h o s
def execRedMax (h : Hdr) (o : Red) (s : State) : Out := reduction .max h o s

/-! ### Two-address operations (R271) -/

/-- Do two words of `n` bytes share a byte. -/
def overlaps (n a b : Nat) : Bool := decide (a < b + n ∧ b < a + n)

/-- The two words placed in ascending address order (R262): A's part, then B's. -/
def State.placePair (s : State) (n : Nat) (a b : Word) (spA spB : Bool) : Except Trap (Part × Part) :=
  let one := fun (x : Word) (sp : Bool) =>
    match s.place s.th .write sp x n with
    | .error t => Except.error t
    | .ok ps =>
      match ps with
      | p :: _ => Except.ok p
      | [] => Except.error (⟨cUnassigned, 0, x⟩ : Trap)
  if a < b then
    match one a spA with
    | .error t => .error t
    | .ok p =>
      match one b spB with
      | .error t => .error t
      | .ok q => .ok (p, q)
  else
    match one b spB with
    | .error t => .error t
    | .ok q =>
      match one a spA with
      | .error t => .error t
      | .ok p => .ok (p, q)

/-- The atomic-home fault of the two words, the lower address first. -/
def pairHome (a b : Word) (p q : Part) : Option Trap :=
  if a < b then firstFault [atomicHome a [p], atomicHome b [q]] else firstFault [atomicHome b [q], atomicHome a [p]]

/-- A two-address operation of class PAIR. `act` takes the physical addresses and the result. The message goes first to
the home of the lower physical address (R96). -/
def pairOp (h : Hdr) (ty : Ty) (a : GReg) (a2 sc : BitVec 6) (dest : Dest) (len : Nat) (act : Nat → Nat → Word → Nat → Act)
    (s : State) : Out :=
  onDet 1 (fun s => s.isFree s.th) (onPred h fun s =>
    let x := s.th.regs.gr a
    let y := s.th.regs.rg a2
    match firstFault [scopeFault s.th sc, alignFault x ty.bytes, alignFault y ty.bytes,
        if overlaps ty.bytes x.toNat y.toNat then some ⟨cPairOverlap, 0, x⟩ else none] with
    | some t => faultOut s t
    | none =>
      match s.placePair ty.bytes x y (isSp a.r) (isSp a2) with
      | .error t => faultOut s t
      | .ok (p, q) =>
        match firstFault [if overlaps ty.bytes p.pa q.pa then some ⟨cPairOverlap, 0, x⟩ else none, pairHome x y p q] with
        | some t => faultOut s t
        | none =>
          let low := if p.pa < q.pa then p else q
          let high := if p.pa < q.pa then q else p
          placed s .read [(p, 0), (q, 0)] allLive fun c =>
            let e := c.expect dest 1 len
            e.2.push fun seq =>
              { low.op ⟨true, some (scopeValue s.th sc)⟩ (act p.pa q.pa (BitVec.ofNat 64 high.va) e.1) seq with
                dirt := low.dirt ++ high.dirt }) s

/-- `amo2` and `dcas`: the operands of A are the low words. -/
def pairWords (op : RmwOp) (dcas : Bool) (h : Hdr) (o : Amo2) (s : State) : Out :=
  let b := s.th.regs.gs o.b
  let g := s.th.regs.rg o.d
  let lo := fun (x : Word) => x &&& 0xFFFFFFFF
  pairOp h o.ty o.a o.a2 o.s (.pair o.d) 8
    (fun pa qa va pend => .pair op dcas false o.ty pa qa va (lo b) (b >>> 32) (lo g) (g >>> 32) false 0 pend) s

def execAmo2Swap (h : Hdr) (o : Amo2) (s : State) : Out := pairWords .swap false h o s
def execAmo2Add (h : Hdr) (o : Amo2) (s : State) : Out := pairWords .add false h o s
def execAmo2And (h : Hdr) (o : Amo2) (s : State) : Out := pairWords .and false h o s
def execAmo2Or (h : Hdr) (o : Amo2) (s : State) : Out := pairWords .or false h o s
def execAmo2Xor (h : Hdr) (o : Amo2) (s : State) : Out := pairWords .xor false h o s
def execDcas (h : Hdr) (o : Amo2) (s : State) : Out := pairWords .cas true h o s

/-- `amove`: A takes the old B and B takes 0. -/
def execAmove (h : Hdr) (o : Amove) (s : State) : Out :=
  pairOp h o.ty o.a o.a2 o.s (.g o.d o.ty) o.ty.bytes
    (fun pa qa va pend => .pair .swap false true o.ty pa qa va 0 0 0 0 false 0 pend) s

end Sys2Proof.Machine
end

