-- ==== Sys2Proof/WellFormed.lean ====
section
/-!
DEFINITION. Well-formed instructions: the operand limits of the instruction descriptions (R167 to R174, R193 to
R300). `Instr.wellFormed` refuses a term that no encoding stands for. Steps without an encoding carry any data.
-/
namespace Sys2Proof

def GBin.wf (tys : Ty → Bool) (o : GBin) : Bool := tys o.ty && o.a.ok && o.b.ok
def GUn.wf (tys : Ty → Bool) (o : GUn) : Bool := tys o.ty && o.a.ok
def GTri.wf (tys : Ty → Bool) (o : GTri) : Bool := tys o.ty && o.a.ok && o.b.ok
def MCmp.wf (tys : Ty → Bool) (o : MCmp) : Bool := tys o.ty && o.a.ok && o.b.ok
def GSel.wf (tys : Ty → Bool) (o : GSel) : Bool := tys o.ty && o.a.ok && o.b.ok
def GImm.wf (tys : Ty → Bool) (o : GImm) : Bool := tys o.ty && o.a.ok
def MImm.wf (tys : Ty → Bool) (o : MImm) : Bool := tys o.ty && o.a.ok
/-- Target slots 5 to 7 are illegal (R173). -/
def BRel.wf (o : BRel) : Bool := o.slot.toNat < 5
def BCond.wf (o : BCond) : Bool := o.a.ok && o.t.wf
def BReg.wf (o : BReg) : Bool := o.a.ok
def BLoop.wf (o : BLoop) : Bool := o.a.ok && o.t.wf
def SrRd.wf (o : SrRd) : Bool := srNumberOk o.sr
def SrWr.wf (o : SrWr) : Bool := srNumberOk o.sr && o.a.ok
def SrWrI.wf (o : SrWrI) : Bool := srNumberOk o.sr
def VBin.wf (tys : Ty → Bool) (o : VBin) : Bool := tys o.ty && o.a.ok o.ty.lanes && o.b.ok o.ty.lanes
def VUn.wf (tys : Ty → Bool) (o : VUn) : Bool := tys o.ty && o.a.ok o.ty.lanes
def VTri.wf (tys : Ty → Bool) (o : VTri) : Bool := tys o.ty && o.a.ok o.ty.lanes && o.b.ok o.ty.lanes
def VCmp.wf (tys : Ty → Bool) (o : VCmp) : Bool := tys o.ty && o.a.ok o.ty.lanes && o.b.ok o.ty.lanes
def VSel.wf (tys : Ty → Bool) (o : VSel) : Bool := tys o.ty && o.a.ok o.ty.lanes && o.b.ok o.ty.lanes
def MFromG.wf (o : MFromG) : Bool := o.a.ok
def VBcstI.wf (tys : Ty → Bool) (o : VBcstI) : Bool := tys o.ty
def VBcst.wf (tys : Ty → Bool) (o : VBcst) : Bool := tys o.ty
/-- A form that does not round holds rounding code 0 (R172). -/
def VFBin.wf (rounds : Bool) (o : VFBin) : Bool :=
  o.ty.isVF && (rounds || o.rm == .dyn) && o.a.ok o.ty.lanes && o.b.ok o.ty.lanes
def VFUn.wf (rounds : Bool) (o : VFUn) : Bool := o.ty.isVF && (rounds || o.rm == .dyn) && o.a.ok o.ty.lanes
def VFTri.wf (o : VFTri) : Bool := o.ty.isVF && o.a.ok o.ty.lanes && o.b.ok o.ty.lanes
def VCvt.wf (o : VCvt) : Bool :=
  cvtPair o.src o.ty && o.part.toNat < cvtParts o.src o.ty && o.a.ok o.src.lanes
/-- The block instructions run unpredicated (R229, R230). -/
def Hdr.plain (h : Hdr) : Bool := h.preg == 0 && !h.pneg
def Vbfpx.wf (h : Hdr) (o : Vbfpx) : Bool :=
  (o.ty == .bfp8 || o.ty == .bfp4) && o.base.toNat % 4 == 0 && h.plain
def Vbfpe.wf (hi : Bool) (h : Hdr) (o : Vbfpe) : Bool :=
  ((o.ty == .bfp8 && !hi) || o.ty == .bfp4) && o.base.toNat % 4 == 0 && o.b.ok && h.plain
def Vbfpd.wf (o : Vbfpd) : Bool :=
  (o.ty == .bfp8 || o.ty == .bfp4) && o.n.toNat < bfpdParts o.ty && o.a.ok 32 && o.b.ok
def VSlide.wf (tys : Ty → Bool) (o : VSlide) : Bool := tys o.ty && o.a.ok o.ty.lanes && o.b.ok
def VRed.wf (tys : Ty → Bool) (rounds : Bool) (o : VRed) : Bool :=
  tys o.ty && (o.rm == .dyn || rounds && o.ty.isVF) && o.a.ok o.ty.lanes
def RngOp.wf (o : RngOp) : Bool := o.a.ok && o.b.ok
def VRngOp.wf (o : VRngOp) : Bool := o.a.ok && o.b.ok
def VIns.wf (o : VIns) : Bool := o.ty.isRaw && o.a.ok && o.b.ok
def VExt.wf (o : VExt) : Bool := o.ty.isRaw && o.a.ok o.ty.lanes && o.b.ok
def FBin.wf (rounds : Bool) (o : FBin) : Bool := rounds || o.rm == .dyn
def FUn.wf (rounds : Bool) (o : FUn) : Bool := rounds || o.rm == .dyn
def FCvt.wf (o : FCvt) : Bool := fcvtPair o.src o.ty
def MatWRow.wf (o : MatWRow) : Bool := o.a.ok 8
def GReg2.wf (o : GReg2) : Bool := o.a.ok && o.b.ok
def GSrc2.wf (o : GSrc2) : Bool := o.a.ok && o.b.ok
def MmaOp.wf (o : MmaOp) : Bool := mmaPair o.ta o.tb && 1 ≤ o.nkb.toNat && o.nkb.toNat ≤ 1024
def MdrainOp.wf (o : MdrainOp) : Bool :=
  o.ty.isDrain && o.a.ok && o.b.ok && o.vr.toNat % 2 == 0 && (!o.nos || o.vr == 0 && o.vc == 0)
def MemLd.wf (tys : Ty → Bool) (o : MemLd) : Bool := tys o.ty && o.a.ok
def MemLdV.wf (tys : Ty → Bool) (o : MemLdV) : Bool := tys o.ty && o.a.ok
def MemSt.wf (tys : Ty → Bool) (o : MemSt) : Bool := tys o.ty && o.a.ok && o.b.ok
def MemStV.wf (tys : Ty → Bool) (o : MemStV) : Bool := tys o.ty && o.a.ok && o.b.ok o.ty.lanes
def MemLdS.wf (o : MemLdS) : Bool := o.ty.isAcq && o.a.ok
def MemStS.wf (o : MemStS) : Bool := o.ty.isAcq && o.a.ok && o.b.ok
def Gather.wf (o : Gather) : Bool := o.ty.isGather && o.a.ok && o.idx.ok o.ty.lanes
def Scatter.wf (o : Scatter) : Bool := o.ty.isGather && o.a.ok && o.idx.ok o.ty.lanes
def Prefetch.wf (o : Prefetch) : Bool := o.a.ok
/-- Without `.ar` the scope field is unused (R269). -/
def Amo.wf (tys : Ty → Bool) (o : Amo) : Bool := tys o.ty && o.a.ok && o.b.ok && (o.ar || o.s == 0)
/-- BF16 is a type of v-source sums, minima and maxima only (R270). -/
def Red.wf (tys : Ty → Bool) (num : Bool) (o : Red) : Bool :=
  o.a.ok && match o.b with
    | .g b => tys o.ty && b.ok
    | .v b => (tys o.ty || num && o.ty == .bf16) && b.ok o.ty.lanes
def Amo2.wf (o : Amo2) : Bool := o.ty.isPair && o.a.ok && o.b.ok
def Amove.wf (o : Amove) : Bool := o.ty.isAmoInt && o.a.ok
def WaitAddr.wf (o : WaitAddr) : Bool := o.ty.isAmoInt && o.a.ok && o.b.ok
def EvSig.wf (o : EvSig) : Bool := o.b.ok
def EvWait.wf (o : EvWait) : Bool := o.b.ok
def Send.wf (o : Send) : Bool := o.r.ok && o.b.ok
def SendV.wf (o : SendV) : Bool := o.r.ok && o.b.ok 4
def SendRel.wf (o : SendRel) : Bool := o.r.ok && o.b.ok
def Recv.wf (o : Recv) : Bool := o.src.ok
def RecvV.wf (o : RecvV) : Bool := o.src.ok
/-- A barrier names a scope register (R278). -/
def BarOp.wf (o : BarOp) : Bool := o.s != 0
/-- A present program is not named by an unmodified g0, an absent one carries no handle, and the two handles
differ (R282). -/
def progWf (g : Option GReg) (hd : BitVec 4) : Bool :=
  match g with
  | none => hd == 0
  | some g => g.ok && g.r != 0
def ForkOp.wf (o : ForkOp) : Bool :=
  progWf o.gm o.hm && progWf o.gc o.hc && (o.gm.isSome || o.gc.isSome) &&
    !(o.gm.isSome && o.gc.isSome && o.hm == o.hc)
def HPass.wf (o : HPass) : Bool := o.r.ok
def Cpy.wf (o : Cpy) : Bool := o.dst.ok && o.src.ok
def CpyB.wf (o : CpyB) : Bool := o.src.ok && o.b.ok
/-- Kinds 0, 3 and 5 carry no operation; the reducing kinds accept the types of R292 (R291, R292). -/
def CollKind.reduces : CollKind → Bool
  | .allreduce | .reduce | .redscat => true
  | _ => false
def Coll.wf (o : Coll) : Bool := o.a.ok && (if o.kind.reduces then o.ty.isColl else o.op == .sum)
def Contend.wf (o : Contend) : Bool := o.a.ok
def AfClaim.wf (o : AfClaim) : Bool := 1 ≤ o.np.toNat && o.np.toNat ≤ 64
def AfA.wf (o : AfA) : Bool := o.a.ok
def AfScale.wf (o : AfScale) : Bool := o.a.ok && o.b.ok
def AfSample.wf (o : AfSample) : Bool := o.a.ok && o.b.ok && 1 ≤ o.cnt.toNat && o.cnt.toNat ≤ 64
def CtxSave.wf (o : CtxSave) : Bool := o.a.ok && o.b.ok
def CtxLoad.wf (o : CtxLoad) : Bool := o.a.ok && o.b.ok
def Fret.wf (o : Fret) : Bool := o.a.ok
def Mseal.wf (o : Mseal) : Bool := o.a.ok && o.b.ok

/-- The terms that an encoding stands for; a step without an encoding is well-formed with any data. -/
def Instr.wellFormed : Instr → Bool
  | .nop h => h.plain
  | .add _ o => o.wf Ty.isInt
  | .sub _ o => o.wf Ty.isInt
  | .neg _ o => o.wf Ty.isInt
  | .abs _ o => o.wf Ty.isInt
  | .adds _ o => o.wf Ty.isInt
  | .subs _ o => o.wf Ty.isInt
  | .add3 _ o => o.wf Ty.isInt
  | .and _ o => o.wf Ty.isInt
  | .or _ o => o.wf Ty.isInt
  | .xor _ o => o.wf Ty.isInt
  | .andn _ o => o.wf Ty.isInt
  | .orn _ o => o.wf Ty.isInt
  | .xnor _ o => o.wf Ty.isInt
  | .not _ o => o.wf Ty.isInt
  | .shl _ o => o.wf Ty.isInt
  | .shr _ o => o.wf Ty.isInt
  | .sar _ o => o.wf Ty.isInt
  | .rol _ o => o.wf Ty.isInt
  | .ror _ o => o.wf Ty.isInt
  | .mul _ o => o.wf Ty.isInt
  | .mulh _ o => o.wf Ty.isInt
  | .mad _ o => o.wf Ty.isInt
  | .div _ o => o.wf Ty.isInt
  | .rem _ o => o.wf Ty.isInt
  | .ceq _ o => o.wf Ty.isInt
  | .cne _ o => o.wf Ty.isInt
  | .clt _ o => o.wf Ty.isInt
  | .cle _ o => o.wf Ty.isInt
  | .cgt _ o => o.wf Ty.isInt
  | .cge _ o => o.wf Ty.isInt
  | .ctst _ o => o.wf Ty.isInt
  | .ctstz _ o => o.wf Ty.isInt
  | .sel _ o => o.wf Ty.isInt
  | .selz _ o => o.wf Ty.isInt
  | .popc _ o => o.wf Ty.isInt
  | .clz _ o => o.wf Ty.isInt
  | .ctz _ o => o.wf Ty.isInt
  | .brev _ o => o.wf Ty.isInt
  | .bswap _ o => o.wf Ty.isInt
  | .bext _ o => o.wf Ty.isInt
  | .bins _ o => o.wf Ty.isInt
  | .min _ o => o.wf Ty.isInt
  | .max _ o => o.wf Ty.isInt
  | .clamp _ o => o.wf Ty.isInt
  | .lea _ o => o.wf Ty.isD
  | .lcell _ o => o.wf Ty.isD
  | .lslice _ o => o.wf Ty.isD
  | .addImm _ o => o.wf Ty.isInt
  | .subImm _ o => o.wf Ty.isInt
  | .addsImm _ o => o.wf Ty.isInt
  | .subsImm _ o => o.wf Ty.isInt
  | .rsub _ o => o.wf Ty.isInt
  | .andImm _ o => o.wf Ty.isInt
  | .orImm _ o => o.wf Ty.isInt
  | .xorImm _ o => o.wf Ty.isInt
  | .andnImm _ o => o.wf Ty.isInt
  | .ornImm _ o => o.wf Ty.isInt
  | .xnorImm _ o => o.wf Ty.isInt
  | .shlImm _ o => o.wf Ty.isInt
  | .shrImm _ o => o.wf Ty.isInt
  | .sarImm _ o => o.wf Ty.isInt
  | .rolImm _ o => o.wf Ty.isInt
  | .rorImm _ o => o.wf Ty.isInt
  | .ceqImm _ o => o.wf Ty.isInt
  | .cneImm _ o => o.wf Ty.isInt
  | .cltImm _ o => o.wf Ty.isInt
  | .cleImm _ o => o.wf Ty.isInt
  | .cgtImm _ o => o.wf Ty.isInt
  | .cgeImm _ o => o.wf Ty.isInt
  | .ctstImm _ o => o.wf Ty.isInt
  | .ctstzImm _ o => o.wf Ty.isInt
  | .movi _ _ => true
  | .movzi _ _ => true
  | .movhi _ _ => true
  | .leai _ o => o.wf Ty.isD
  | .leapc _ _ => true
  | .br _ o => o.wf
  | .bz _ o => o.wf
  | .bnz _ o => o.wf
  | .blz _ o => o.wf
  | .bgez _ o => o.wf
  | .jr _ o => o.wf
  | .call _ o => o.wf
  | .callr _ o => o.wf
  | .ret _ => true
  | .loop _ o => o.wf
  | .lbrk _ => true
  | .gdet h => h.plain
  | .gjoin h => h.plain
  | .srrd _ o => o.wf
  | .srwr _ o => o.wf
  | .srwri _ o => o.wf
  | .trap _ _ => true
  | .halt _ => true
  | .vaddInt _ o => o.wf Ty.isInt
  | .vsubInt _ o => o.wf Ty.isInt
  | .vnegInt _ o => o.wf Ty.isInt
  | .vabsInt _ o => o.wf Ty.isInt
  | .vadds _ o => o.wf Ty.isInt
  | .vsubs _ o => o.wf Ty.isInt
  | .vmulInt _ o => o.wf Ty.isInt
  | .vmulh _ o => o.wf Ty.isInt
  | .vmad _ o => o.wf Ty.isInt
  | .vminInt _ o => o.wf Ty.isInt
  | .vmaxInt _ o => o.wf Ty.isInt
  | .vand _ o => o.wf Ty.isInt
  | .vor _ o => o.wf Ty.isInt
  | .vxor _ o => o.wf Ty.isInt
  | .vandn _ o => o.wf Ty.isInt
  | .vnot _ o => o.wf Ty.isInt
  | .vshl _ o => o.wf Ty.isInt
  | .vshr _ o => o.wf Ty.isInt
  | .vsar _ o => o.wf Ty.isInt
  | .vceq _ o => o.wf Ty.isCmp
  | .vcne _ o => o.wf Ty.isCmp
  | .vclt _ o => o.wf Ty.isCmp
  | .vcle _ o => o.wf Ty.isCmp
  | .vcgt _ o => o.wf Ty.isCmp
  | .vcge _ o => o.wf Ty.isCmp
  | .vsel _ o => o.wf Ty.isRaw
  | .mand _ _ => true
  | .mor _ _ => true
  | .mxor _ _ => true
  | .mandn _ _ => true
  | .mnot _ _ => true
  | .mpopc _ _ => true
  | .mfirst _ _ => true
  | .mfromg _ o => o.wf
  | .mtog _ _ => true
  | .vbcsti _ o => o.wf Ty.isCmp
  | .vbcst _ o => o.wf Ty.isCmp
  | .vaddFp _ o => o.wf true
  | .vsubFp _ o => o.wf true
  | .vmulFp _ o => o.wf true
  | .vminFp _ o => o.wf false
  | .vmaxFp _ o => o.wf false
  | .vabsFp _ o => o.wf false
  | .vnegFp _ o => o.wf false
  | .vfma _ o => o.wf
  | .vfms _ o => o.wf
  | .vfnma _ o => o.wf
  | .vfnms _ o => o.wf
  | .vdiv _ o => o.wf true
  | .vsqrt _ o => o.wf true
  | .vexp _ o => o.wf true
  | .vlog _ o => o.wf true
  | .vexp2 _ o => o.wf true
  | .vlog2 _ o => o.wf true
  | .vtanh _ o => o.wf true
  | .vrcpe _ o => o.wf false
  | .vrsqrte _ o => o.wf false
  | .vexpe _ o => o.wf false
  | .vloge _ o => o.wf false
  | .vtanhe _ o => o.wf false
  | .vsigme _ o => o.wf false
  | .vcvt _ o => o.wf
  | .vbfpx h o => o.wf h
  | .vbfpe h o => o.wf false h
  | .vbfpeHi h o => o.wf true h
  | .vbfpd _ o => o.wf
  | .vperm _ o => o.wf Ty.isRaw
  | .vperm2 _ o => o.wf Ty.isRaw
  | .vslide _ o => o.wf Ty.isRaw
  | .vzipl _ o => o.wf Ty.isRaw
  | .vziph _ o => o.wf Ty.isRaw
  | .vuzpe _ o => o.wf Ty.isRaw
  | .vuzpo _ o => o.wf Ty.isRaw
  | .vrsum _ o => o.wf Ty.isCmp true
  | .vrmin _ o => o.wf Ty.isCmp false
  | .vrmax _ o => o.wf Ty.isCmp false
  | .vrand _ o => o.wf Ty.isInt false
  | .vror _ o => o.wf Ty.isInt false
  | .rng _ o => o.wf
  | .vrng _ o => o.wf
  | .vins _ o => o.wf
  | .vext _ o => o.wf
  | .vmov _ o => o.wf Ty.isRaw
  | .fadd _ o => o.wf true
  | .fsub _ o => o.wf true
  | .fmul _ o => o.wf true
  | .fmin _ o => o.wf false
  | .fmax _ o => o.wf false
  | .fabs _ o => o.wf false
  | .fneg _ o => o.wf false
  | .ffma _ _ => true
  | .ffms _ _ => true
  | .ffnma _ _ => true
  | .ffnms _ _ => true
  | .fdiv _ o => o.wf true
  | .fsqrt _ o => o.wf true
  | .fexp _ o => o.wf true
  | .flog _ o => o.wf true
  | .fexp2 _ o => o.wf true
  | .flog2 _ o => o.wf true
  | .fceq _ _ => true
  | .fcne _ _ => true
  | .fclt _ _ => true
  | .fcle _ _ => true
  | .fcgt _ _ => true
  | .fcge _ _ => true
  | .fcvt _ o => o.wf
  | .mzero _ _ => true
  | .mrdrow _ _ => true
  | .mwrrow _ o => o.wf
  | .mmov _ _ => true
  | .masel _ o => o.wf
  | .masx _ o => o.wf
  | .mbsel _ o => o.wf
  | .mma _ o => o.wf
  | .mdrain _ o => o.wf
  | .ld _ o => o.wf Ty.isLd
  | .ldv _ o => o.wf Ty.isLd
  | .ldvb _ o => o.wf Ty.isLd
  | .st _ o => o.wf Ty.isLd
  | .stv _ o => o.wf Ty.isLd
  | .ldf _ o => o.wf Ty.isF32
  | .ldfh _ o => o.wf Ty.isF32
  | .ldfv _ o => o.wf Ty.isF32
  | .ldr _ o => o.wf Ty.isLd
  | .ldrv _ o => o.wf Ty.isLd
  | .ldrx _ o => o.wf Ty.isH
  | .ldAcq _ o => o.wf
  | .stRel _ o => o.wf
  | .sts _ o => o.wf Ty.isLd
  | .stsv _ o => o.wf Ty.isLd
  | .vgather _ o => o.wf
  | .vscatter _ o => o.wf
  | .pft _ o => o.wf
  | .pfh _ o => o.wf
  | .amoSwap _ o => o.wf Ty.isAmoInt
  | .amoAdd _ o => o.wf Ty.isAmoNum
  | .amoAnd _ o => o.wf Ty.isAmoInt
  | .amoOr _ o => o.wf Ty.isAmoInt
  | .amoXor _ o => o.wf Ty.isAmoInt
  | .amoMin _ o => o.wf Ty.isAmoNum
  | .amoMax _ o => o.wf Ty.isAmoNum
  | .cas _ o => o.wf Ty.isAmoInt
  | .redAdd _ o => o.wf Ty.isAmoNum true
  | .redAnd _ o => o.wf Ty.isAmoInt false
  | .redOr _ o => o.wf Ty.isAmoInt false
  | .redXor _ o => o.wf Ty.isAmoInt false
  | .redMin _ o => o.wf Ty.isAmoNum true
  | .redMax _ o => o.wf Ty.isAmoNum true
  | .amo2Swap _ o => o.wf
  | .amo2Add _ o => o.wf
  | .amo2And _ o => o.wf
  | .amo2Or _ o => o.wf
  | .amo2Xor _ o => o.wf
  | .dcas _ o => o.wf
  | .amove _ o => o.wf
  | .fenceAcq _ => true
  | .fenceRel _ _ => true
  | .fenceFull _ _ => true
  | .waitaddr _ o => o.wf
  | .evsig _ o => o.wf
  | .evwait _ o => o.wf
  | .send _ o => o.wf
  | .sendv _ o => o.wf
  | .sendRel _ o => o.wf
  | .recv _ o => o.wf
  | .recvv _ o => o.wf
  | .recvAny _ _ => true
  | .recvvAny _ _ => true
  | .sstep _ => true
  | .bar _ o => o.wf
  | .fprobe _ _ => true
  | .fork _ o => o.wf
  | .rdv _ _ => true
  | .hwait _ _ => true
  | .hdet _ _ => true
  | .htest _ _ => true
  | .hpass _ o => o.wf
  | .hcancel _ _ => true
  | .cpy _ o => o.wf
  | .cpyf _ o => o.wf
  | .cpyb _ o => o.wf
  | .qfence _ _ => true
  | .coll _ o => o.wf
  | .contend _ o => o.wf
  | .afclaim _ o => o.wf
  | .afcal _ _ => true
  | .afcfg _ o => o.wf
  | .afscale _ o => o.wf
  | .afrun _ _ => true
  | .afsettle _ o => o.wf
  | .afsample _ o => o.wf
  | .afstop _ _ => true
  | .afrel _ _ => true
  | .ctxsave _ o => o.wf
  | .ctxload _ o => o.wf
  | .mint _ o => o.wf
  | .fret _ o => o.wf
  | .tlbwr _ _ => true
  | .tlbinv _ _ => true
  | .snap _ _ => true
  | .mseal _ o => o.wf
  | .evIssue _ => true
  | .evArrival _ _ => true
  | .evPerform _ => true
  | .evApply _ => true
  | .evPairSecondHome _ => true
  | .evReplyDelivery _ => true
  | .evWcbFlush _ _ => true
  | .evEngineEntryBegin _ _ => true
  | .evHandleResolve _ _ => true
  | .evWakeDelivery _ => true
  | .evWaitTimeout _ => true
  | .evHostInboundWrite _ _ _ => true
  | .evHostInboundRead _ _ _ => true
  | .evHostFlushRead _ _ => true
  | .evMailboxDeliver _ _ => true
  | .evContextTimeslice _ => true
  | .evMintArrival _ => true
  | .evFaultRecordPost _ => true
  | .evFqtailWrite _ _ _ => true
  | .evFaultDomainEnd _ => true
  | .evFpWindowClose _ => true
  | .evCellComplete _ => true
  | .evChildLaunch _ _ => true
  | .evLaunchSelect _ _ => true
  | .evExchangeTransfer _ => true
  | .evRoundTimerExpiry _ => true
  | .evRoundMarkerArrival _ _ => true
  | .evTokenPass _ => true
  | .evContendRegister _ => true
  | .evWaggleContest _ => true
  | .evContestResult _ => true
  | .evSequencerBind _ => true
  | .evBindingReceive _ _ => true
  | .evCollectiveStart _ _ => true
  | .evContributionArrival _ _ => true
  | .evTgTimeout _ => true
  | .evCancelRecord _ _ => true
  | .evSwitchFailure _ _ => true
  | .evSequencerHeartbeat => true
  | .evSequencerFailover _ => true
  | .evRegistrationRetry _ => true
  | .evAfcalComplete _ => true
  | .evFabricSaturation _ _ => true
  | .evFabricSettleDone _ => true
  | .evFabricSettleTimeout _ => true
  | .evQueueDoorbell _ _ => true
  | .evQueueLaunch _ => true
  | .evQueueFence _ => true
  | .evQueueFenceComplete _ => true
  | .evQueueCancel _ => true
  | .evRegisterWrite _ _ => true
  | .evLinkRetry _ => true
  | .evLinkFail _ => true
  | .evLinkRateChange _ _ _ => true
  | .evBudgetInterval _ => true
  | .evFrequencyStep _ _ => true
  | .evRelockRestart _ => true
  | .evSnapshotTrigger => true
  | .evMeterList => true
  | .evMeterRead _ => true
  | .evGetVersion => true
  | .evGetCapabilities => true
  | .evNegotiateAlgorithms _ _ => true
  | .evGetDigests => true
  | .evGetCertificate _ => true
  | .evChallenge _ => true
  | .evGetMeasurements _ => true
  | .evPackageReset _ => true
  | .evPatrolScrub _ _ _ => true
  | .evCellError _ => true
  | .evQueueEnable _ _ _ => true
  | .evGroupCreate _ => true
  | .evStandbyReplacement _ => true
  | .evExportRevocation _ _ => true
  | .evSnapshotRelease => true

end Sys2Proof
end

