-- ==== Sys2Proof/Decode.lean ====
section
/-!
DEFINITION. Decoding of 96-bit instruction words (R167 to R190) and, after it, the encoder. The decoder is total:
it answers an instruction or the reason code of R187, the lowest one that applies to the word (R188). The register
fields are read here, once; the machine never sees a raw specifier.
-/
namespace Sys2Proof

/-- The reasons of an illegal encoding, line or group (R187). -/
inductive Reason
  /-- 0x01, a reserved major opcode -/
  | reservedMajor
  /-- 0x02, an unassigned minor code -/
  | unassignedMinor
  /-- 0x03, a non-zero reserved field, unused operand or unused modifier -/
  | reservedField
  /-- 0x04, a type code that the instruction does not accept -/
  | typeCode
  /-- 0x05, a rounding code that is illegal or stands on an operation that does not round -/
  | roundingCode
  /-- 0x06, a specifier from a register file that the operand does not accept -/
  | registerFile
  /-- 0x07, a reserved specifier, or an inline constant as destination -/
  | specifier
  /-- 0x08, a modifier outside R168 or R169 -/
  | modifier
  /-- 0x09, a target slot 5 to 7 -/
  | targetSlot
  /-- 0x0A, reserved bits of the line word -/
  | lineReserved
  /-- 0x0B, a tmask bit on a slot that does not begin a group -/
  | lineTmask
  /-- 0x0C, two instructions of one class in a group -/
  | groupClass
  /-- 0x0D, a register dependence in a group -/
  | groupDependence
  /-- 0x0E, a control transfer that is not last in its group -/
  | groupTransfer
  /-- 0x0F, `nop` with a non-zero field other than stall -/
  | nopField
  deriving DecidableEq, Repr

/-- The reason code (R187). -/
def Reason.code : Reason → Nat
  | .reservedMajor => 1 | .unassignedMinor => 2 | .reservedField => 3 | .typeCode => 4 | .roundingCode => 5
  | .registerFile => 6 | .specifier => 7 | .modifier => 8 | .targetSlot => 9 | .lineReserved => 10
  | .lineTmask => 11 | .groupClass => 12 | .groupDependence => 13 | .groupTransfer => 14 | .nopField => 15

/-- The reason with the lowest code of a list (R188). -/
def lowestReason : List Reason → Option Reason
  | [] => none
  | r :: rs =>
    match lowestReason rs with
    | none => some r
    | some q => some (if r.code ≤ q.code then r else q)

/-- What a reader of operands found: every reason that applies, and the value read. -/
structure Chk (α : Type) where
  bad : List Reason
  val : α

/-- One condition of an encoding: a reason when it does not hold. -/
def need (c : Bool) (r : Reason) : List Reason := if c then [] else [r]

/-- The lowest reason, or the value. -/
def Chk.toExcept {α : Type} (c : Chk α) : Except Reason α :=
  match lowestReason c.bad with
  | none => .ok c.val
  | some r => .error r

/-! ### Register specifiers and modifiers (R167 to R169) -/

/-- Register files of a specifier (R167). -/
inductive RegFile
  | g | v | m | h | a | reserved | const
  deriving DecidableEq, Repr

def fileOf (s : BitVec 8) : RegFile :=
  if s.toNat < 0x40 then .g
  else if s.toNat < 0x60 then .v
  else if s.toNat < 0x68 then .m
  else if s.toNat < 0x78 then .h
  else if s.toNat < 0x7A then .a
  else if s.toNat < 0x80 then .reserved
  else .const

def specG (r : BitVec 6) : BitVec 8 := 0#2 ++ r
def specV (r : BitVec 5) : BitVec 8 := 2#3 ++ r
def specM (r : BitVec 3) : BitVec 8 := 12#5 ++ r
def specH (r : BitVec 4) : BitVec 8 := 0x68 + r.setWidth 8
def specA (a : Bool) : BitVec 8 := if a then 0x79 else 0x78
def specImm (k : BitVec 7) : BitVec 8 := 1#1 ++ k

def numG (s : BitVec 8) : BitVec 6 := s.setWidth 6
def numV (s : BitVec 8) : BitVec 5 := s.setWidth 5
def numM (s : BitVec 8) : BitVec 3 := s.setWidth 3
def numH (s : BitVec 8) : BitVec 4 := (s - 0x68).setWidth 4
def numImm (s : BitVec 8) : BitVec 7 := s.setWidth 7

/-- A specifier of a file other than the one an operand accepts (reasons 0x06 and 0x07). -/
def wrongFile (s : BitVec 8) (dst : Bool) : Reason :=
  match fileOf s with
  | .reserved => .specifier
  | .const => if dst then .specifier else .registerFile
  | _ => .registerFile

/-- The specifier of a destination. -/
def dstOk (f : RegFile) (s : BitVec 8) : List Reason :=
  if fileOf s = f then [] else [wrongFile s true]

/-- The specifier of a source that carries no modifier field. -/
def srcOk (f : RegFile) (s : BitVec 8) : List Reason :=
  if fileOf s = f then [] else [wrongFile s false]

/-- The fields of a g-source modifier (R169). -/
def gmodOf (m : BitVec 12) : GMod :=
  ⟨ShiftKind.ofCode (m.extractLsb' 10 2), Ext.ofCode (m.extractLsb' 7 3), m.setWidth 6⟩

def gmodBits (m : GMod) : BitVec 12 := m.shift.code ++ m.ext.code ++ 0#1 ++ m.dist

/-- A modifier inside R169: extend code 0b100 and distances of 64 or more are illegal. -/
def gmodOk (m : BitVec 12) : Bool :=
  m.extractLsb' 7 3 != 4 && m.extractLsb' 6 1 == 0 && (gmodOf m).ok

def vmodOf (m : BitVec 12) : VMod :=
  ⟨LaneClass.ofCode (m.extractLsb' 10 2), m.extractLsb' 7 3, m.setWidth 7⟩

def vmodBits (m : VMod) : BitVec 12 := m.cls.code ++ m.seg ++ m.dist

def gregOf (s : BitVec 8) (m : BitVec 12) : GReg := ⟨numG s, gmodOf m⟩
def vregOf (s : BitVec 8) (m : BitVec 12) : VReg := ⟨numV s, vmodOf m⟩

def gregOk (s : BitVec 8) (m : BitVec 12) : List Reason :=
  match fileOf s with
  | .g => need (gmodOk m) .modifier
  | _ => [wrongFile s false] ++ need (m == 0) .modifier

def vregOk (lanes : Nat) (s : BitVec 8) (m : BitVec 12) : List Reason :=
  match fileOf s with
  | .v => need ((vmodOf m).ok lanes) .modifier
  | _ => [wrongFile s false] ++ need (m == 0) .modifier

def gsrcOf (s : BitVec 8) (m : BitVec 12) : GSrc :=
  match fileOf s with
  | .const => .imm (numImm s)
  | _ => .reg (gregOf s m)

def gsrcOk (s : BitVec 8) (m : BitVec 12) : List Reason :=
  match fileOf s with
  | .const => need (m == 0) .modifier
  | _ => gregOk s m

def vsrcOf (s : BitVec 8) (m : BitVec 12) : VSrc :=
  match fileOf s with
  | .const => .imm (numImm s)
  | _ => .reg (vregOf s m)

def vsrcOk (lanes : Nat) (s : BitVec 8) (m : BitVec 12) : List Reason :=
  match fileOf s with
  | .const => need (m == 0) .modifier
  | _ => vregOk lanes s m

def fsrcOf (s : BitVec 8) : FSrc :=
  match fileOf s with
  | .const => .imm (numImm s)
  | _ => .reg (numG s)

/-- FP64 sources carry no modifier (R236). -/
def fsrcOk (s : BitVec 8) (m : BitVec 12) : List Reason :=
  match fileOf s with
  | .g | .const => need (m == 0) .modifier
  | _ => [wrongFile s false] ++ need (m == 0) .modifier

/-- A source of one file without modifiers. -/
def plainOk (f : RegFile) (s : BitVec 8) (m : BitVec 12) : List Reason :=
  srcOk f s ++ need (m == 0) .modifier

/-- An operand position that the instruction does not use (R167). -/
def unusedOp (s : BitVec 8) (m : BitVec 12) : List Reason := need (s == 0 && m == 0) .reservedField

def GReg.spec (g : GReg) : BitVec 8 := specG g.r
def GReg.mod (g : GReg) : BitVec 12 := gmodBits g.m
def VReg.spec (v : VReg) : BitVec 8 := specV v.r
def VReg.mod (v : VReg) : BitVec 12 := vmodBits v.m

def GSrc.spec : GSrc → BitVec 8
  | .reg g => g.spec
  | .imm k => specImm k

def GSrc.mod : GSrc → BitVec 12
  | .reg g => g.mod
  | .imm _ => 0

def VSrc.spec : VSrc → BitVec 8
  | .reg v => v.spec
  | .imm k => specImm k

def VSrc.mod : VSrc → BitVec 12
  | .reg v => v.mod
  | .imm _ => 0

def FSrc.spec : FSrc → BitVec 8
  | .reg r => specG r
  | .imm k => specImm k

def tyOk (c : Bool) : List Reason := need c .typeCode

/-- The rounding field (R114, R172). -/
def rndOk (c : BitVec 3) (rounds : Bool) : List Reason := need (c == 0 || c != 7 && rounds) .roundingCode

/-- A field that must hold zero. -/
def zeroField (c : Bool) : List Reason := need c .reservedField

/-! ### The formats (R171, R172): the fields of a word under each format -/

structure Head where
  dst : BitVec 8
  sa : BitVec 8
  sam : BitVec 12
  deriving DecidableEq, Repr

structure SrcB where
  sb : BitVec 8
  sbm : BitVec 12
  deriving DecidableEq, Repr

def Head.none : Head := ⟨0, 0, 0⟩
def SrcB.none : SrcB := ⟨0, 0⟩

/-- The bits [95:52] of a word: major, stall, pneg, preg, dst, sa, sam. -/
def headBits (major : BitVec 8) (h : Hdr) (x : Head) : BitVec 44 :=
  major ++ h.stall ++ BitVec.ofBool h.pneg ++ h.preg ++ x.dst ++ x.sa ++ x.sam

def majorOf (w : IWord) : BitVec 8 := w.extractLsb' 88 8
def hdrOf (w : IWord) : Hdr := ⟨w.extractLsb' 84 4, w.getLsbD 83, w.extractLsb' 80 3⟩
def headOf (w : IWord) : Head := ⟨w.extractLsb' 72 8, w.extractLsb' 64 8, w.extractLsb' 52 12⟩
def srcBOf (w : IWord) : SrcB := ⟨w.extractLsb' 44 8, w.extractLsb' 32 12⟩

/-- Format RRR. -/
structure FRrr where
  h : Hdr
  x : Head
  y : SrcB
  ty : BitVec 4
  c : BitVec 8
  minor : BitVec 8
  rm : BitVec 3
  z : BitVec 9
  deriving DecidableEq, Repr

def FRrr.of (w : IWord) : FRrr :=
  ⟨hdrOf w, headOf w, srcBOf w, w.extractLsb' 28 4, w.extractLsb' 20 8, w.extractLsb' 12 8, w.extractLsb' 9 3,
    w.extractLsb' 0 9⟩

def FRrr.word (f : FRrr) (major : BitVec 8) : IWord :=
  headBits major f.h f.x ++ f.y.sb ++ f.y.sbm ++ f.ty ++ f.c ++ f.minor ++ f.rm ++ f.z

/-- Format RRI. -/
structure FRri where
  h : Hdr
  x : Head
  minor : BitVec 8
  ty : BitVec 4
  z : BitVec 5
  rm : BitVec 3
  imm : BitVec 32
  deriving DecidableEq, Repr

def FRri.of (w : IWord) : FRri :=
  ⟨hdrOf w, headOf w, w.extractLsb' 44 8, w.extractLsb' 40 4, w.extractLsb' 35 5, w.extractLsb' 32 3,
    w.extractLsb' 0 32⟩

def FRri.word (f : FRri) (major : BitVec 8) : IWord :=
  headBits major f.h f.x ++ f.minor ++ f.ty ++ f.z ++ f.rm ++ f.imm

/-- Format MEM; `d` holds the displacement, or the second base register above eight zeros. -/
structure FMem where
  h : Hdr
  x : Head
  y : SrcB
  minor : BitVec 8
  ty : BitVec 4
  s : BitVec 6
  d : BitVec 14
  deriving DecidableEq, Repr

def FMem.of (w : IWord) : FMem :=
  ⟨hdrOf w, headOf w, srcBOf w, w.extractLsb' 24 8, w.extractLsb' 20 4, w.extractLsb' 14 6, w.extractLsb' 0 14⟩

def FMem.word (f : FMem) (major : BitVec 8) : IWord :=
  headBits major f.h f.x ++ f.y.sb ++ f.y.sbm ++ f.minor ++ f.ty ++ f.s ++ f.d

/-- Format BR. -/
structure FBr where
  h : Hdr
  x : Head
  minor : BitVec 8
  z : BitVec 12
  disp : BitVec 29
  slot : BitVec 3
  deriving DecidableEq, Repr

def FBr.of (w : IWord) : FBr :=
  ⟨hdrOf w, headOf w, w.extractLsb' 44 8, w.extractLsb' 32 12, w.extractLsb' 3 29, w.extractLsb' 0 3⟩

def FBr.word (f : FBr) (major : BitVec 8) : IWord :=
  headBits major f.h f.x ++ f.minor ++ f.z ++ f.disp ++ f.slot

/-- Format MAT. -/
structure FMat where
  h : Hdr
  x : Head
  y : SrcB
  minor : BitVec 8
  ta : BitVec 4
  tb : BitVec 4
  rm : BitVec 3
  acc : Bool
  op : BitVec 12
  deriving DecidableEq, Repr

def FMat.of (w : IWord) : FMat :=
  ⟨hdrOf w, headOf w, srcBOf w, w.extractLsb' 24 8, w.extractLsb' 20 4, w.extractLsb' 16 4, w.extractLsb' 13 3,
    w.getLsbD 12, w.extractLsb' 0 12⟩

def FMat.word (f : FMat) (major : BitVec 8) : IWord :=
  headBits major f.h f.x ++ f.y.sb ++ f.y.sbm ++ f.minor ++ f.ta ++ f.tb ++ f.rm ++ BitVec.ofBool f.acc ++ f.op

/-- Format ENG. -/
structure FEng where
  h : Hdr
  x : Head
  y : SrcB
  minor : BitVec 8
  q : BitVec 4
  hd : BitVec 4
  op : BitVec 16
  deriving DecidableEq, Repr

def FEng.of (w : IWord) : FEng :=
  ⟨hdrOf w, headOf w, srcBOf w, w.extractLsb' 24 8, w.extractLsb' 20 4, w.extractLsb' 16 4, w.extractLsb' 0 16⟩

def FEng.word (f : FEng) (major : BitVec 8) : IWord :=
  headBits major f.h f.x ++ f.y.sb ++ f.y.sbm ++ f.minor ++ f.q ++ f.hd ++ f.op

/-- Format SYS. -/
structure FSys where
  h : Hdr
  x : Head
  y : SrcB
  minor : BitVec 8
  sr : BitVec 12
  op : BitVec 12
  deriving DecidableEq, Repr

def FSys.of (w : IWord) : FSys :=
  ⟨hdrOf w, headOf w, srcBOf w, w.extractLsb' 24 8, w.extractLsb' 12 12, w.extractLsb' 0 12⟩

def FSys.word (f : FSys) (major : BitVec 8) : IWord :=
  headBits major f.h f.x ++ f.y.sb ++ f.y.sbm ++ f.minor ++ f.sr ++ f.op

/-- One row of a major's minor codes: the minors `lo` to `lo + span - 1` and their reader. -/
structure MRow (φ : Type) where
  lo : Nat
  span : Nat
  read : φ → Chk Instr

def findRow {φ : Type} (rows : List (MRow φ)) (minor : BitVec 8) : Option (MRow φ) :=
  rows.find? fun r => r.lo ≤ minor.toNat && minor.toNat < r.lo + r.span

/-! ### Readers, format RRR (R193, R217, R236) -/

/-- The fields every RRR instruction leaves at zero or restricts. -/
def rrrCommon (f : FRrr) (rounds : Bool) : List Reason := zeroField (f.z == 0) ++ rndOk f.rm rounds

def unusedC (f : FRrr) : List Reason := zeroField (f.c == 0)

def readGBin (tys : Ty → Bool) (mk : Hdr → GBin → Instr) (f : FRrr) : Chk Instr :=
  let t := Ty.ofCode f.ty
  ⟨rrrCommon f false ++ unusedC f ++ tyOk (tys t) ++ dstOk .g f.x.dst ++ gsrcOk f.x.sa f.x.sam ++
      gsrcOk f.y.sb f.y.sbm,
    mk f.h ⟨t, numG f.x.dst, gsrcOf f.x.sa f.x.sam, gsrcOf f.y.sb f.y.sbm⟩⟩

def readGUn (tys : Ty → Bool) (mk : Hdr → GUn → Instr) (f : FRrr) : Chk Instr :=
  let t := Ty.ofCode f.ty
  ⟨rrrCommon f false ++ unusedC f ++ unusedOp f.y.sb f.y.sbm ++ tyOk (tys t) ++ dstOk .g f.x.dst ++
      gsrcOk f.x.sa f.x.sam,
    mk f.h ⟨t, numG f.x.dst, gsrcOf f.x.sa f.x.sam⟩⟩

def readGTri (tys : Ty → Bool) (mk : Hdr → GTri → Instr) (f : FRrr) : Chk Instr :=
  let t := Ty.ofCode f.ty
  ⟨rrrCommon f false ++ tyOk (tys t) ++ dstOk .g f.x.dst ++ gsrcOk f.x.sa f.x.sam ++ gsrcOk f.y.sb f.y.sbm ++
      srcOk .g f.c,
    mk f.h ⟨t, numG f.x.dst, gsrcOf f.x.sa f.x.sam, gsrcOf f.y.sb f.y.sbm, numG f.c⟩⟩

def readMCmp (tys : Ty → Bool) (mk : Hdr → MCmp → Instr) (f : FRrr) : Chk Instr :=
  let t := Ty.ofCode f.ty
  ⟨rrrCommon f false ++ unusedC f ++ tyOk (tys t) ++ dstOk .m f.x.dst ++ gsrcOk f.x.sa f.x.sam ++
      gsrcOk f.y.sb f.y.sbm,
    mk f.h ⟨t, numM f.x.dst, gsrcOf f.x.sa f.x.sam, gsrcOf f.y.sb f.y.sbm⟩⟩

def readGSel (tys : Ty → Bool) (mk : Hdr → GSel → Instr) (f : FRrr) : Chk Instr :=
  let t := Ty.ofCode f.ty
  ⟨rrrCommon f false ++ tyOk (tys t) ++ dstOk .g f.x.dst ++ gsrcOk f.x.sa f.x.sam ++ gsrcOk f.y.sb f.y.sbm ++
      srcOk .m f.c,
    mk f.h ⟨t, numG f.x.dst, gsrcOf f.x.sa f.x.sam, gsrcOf f.y.sb f.y.sbm, numM f.c⟩⟩

def readVBin (tys : Ty → Bool) (mk : Hdr → VBin → Instr) (f : FRrr) : Chk Instr :=
  let t := Ty.ofCode f.ty
  ⟨rrrCommon f false ++ unusedC f ++ tyOk (tys t) ++ dstOk .v f.x.dst ++ vsrcOk t.lanes f.x.sa f.x.sam ++
      vsrcOk t.lanes f.y.sb f.y.sbm,
    mk f.h ⟨t, numV f.x.dst, vsrcOf f.x.sa f.x.sam, vsrcOf f.y.sb f.y.sbm⟩⟩

def readVUn (tys : Ty → Bool) (mk : Hdr → VUn → Instr) (f : FRrr) : Chk Instr :=
  let t := Ty.ofCode f.ty
  ⟨rrrCommon f false ++ unusedC f ++ unusedOp f.y.sb f.y.sbm ++ tyOk (tys t) ++ dstOk .v f.x.dst ++
      vsrcOk t.lanes f.x.sa f.x.sam,
    mk f.h ⟨t, numV f.x.dst, vsrcOf f.x.sa f.x.sam⟩⟩

def readVTri (tys : Ty → Bool) (mk : Hdr → VTri → Instr) (f : FRrr) : Chk Instr :=
  let t := Ty.ofCode f.ty
  ⟨rrrCommon f false ++ tyOk (tys t) ++ dstOk .v f.x.dst ++ vsrcOk t.lanes f.x.sa f.x.sam ++
      vsrcOk t.lanes f.y.sb f.y.sbm ++ srcOk .v f.c,
    mk f.h ⟨t, numV f.x.dst, vsrcOf f.x.sa f.x.sam, vsrcOf f.y.sb f.y.sbm, numV f.c⟩⟩

def readVCmp (tys : Ty → Bool) (mk : Hdr → VCmp → Instr) (f : FRrr) : Chk Instr :=
  let t := Ty.ofCode f.ty
  ⟨rrrCommon f false ++ unusedC f ++ tyOk (tys t) ++ dstOk .m f.x.dst ++ vsrcOk t.lanes f.x.sa f.x.sam ++
      vsrcOk t.lanes f.y.sb f.y.sbm,
    mk f.h ⟨t, numM f.x.dst, vsrcOf f.x.sa f.x.sam, vsrcOf f.y.sb f.y.sbm⟩⟩

def readVSel (tys : Ty → Bool) (mk : Hdr → VSel → Instr) (f : FRrr) : Chk Instr :=
  let t := Ty.ofCode f.ty
  ⟨rrrCommon f false ++ tyOk (tys t) ++ dstOk .v f.x.dst ++ vsrcOk t.lanes f.x.sa f.x.sam ++
      vsrcOk t.lanes f.y.sb f.y.sbm ++ srcOk .m f.c,
    mk f.h ⟨t, numV f.x.dst, vsrcOf f.x.sa f.x.sam, vsrcOf f.y.sb f.y.sbm, numM f.c⟩⟩

/-- Mask operations require type 0x2 (R222). -/
def maskTy (f : FRrr) : List Reason := tyOk (f.ty == 2)

def readMBin (mk : Hdr → MBin → Instr) (f : FRrr) : Chk Instr :=
  ⟨rrrCommon f false ++ unusedC f ++ maskTy f ++ dstOk .m f.x.dst ++ plainOk .m f.x.sa f.x.sam ++
      plainOk .m f.y.sb f.y.sbm,
    mk f.h ⟨numM f.x.dst, numM f.x.sa, numM f.y.sb⟩⟩

def readMUn (mk : Hdr → MUn → Instr) (f : FRrr) : Chk Instr :=
  ⟨rrrCommon f false ++ unusedC f ++ unusedOp f.y.sb f.y.sbm ++ maskTy f ++ dstOk .m f.x.dst ++
      plainOk .m f.x.sa f.x.sam,
    mk f.h ⟨numM f.x.dst, numM f.x.sa⟩⟩

def readMToG (mk : Hdr → MToG → Instr) (f : FRrr) : Chk Instr :=
  ⟨rrrCommon f false ++ unusedC f ++ unusedOp f.y.sb f.y.sbm ++ maskTy f ++ dstOk .g f.x.dst ++
      plainOk .m f.x.sa f.x.sam,
    mk f.h ⟨numG f.x.dst, numM f.x.sa⟩⟩

def readMFromG (mk : Hdr → MFromG → Instr) (f : FRrr) : Chk Instr :=
  ⟨rrrCommon f false ++ unusedC f ++ unusedOp f.y.sb f.y.sbm ++ maskTy f ++ dstOk .m f.x.dst ++
      gregOk f.x.sa f.x.sam,
    mk f.h ⟨numM f.x.dst, gregOf f.x.sa f.x.sam⟩⟩

def readVFBin (rounds : Bool) (mk : Hdr → VFBin → Instr) (f : FRrr) : Chk Instr :=
  let t := Ty.ofCode f.ty
  ⟨rrrCommon f rounds ++ unusedC f ++ tyOk t.isVF ++ dstOk .v f.x.dst ++ vsrcOk t.lanes f.x.sa f.x.sam ++
      vsrcOk t.lanes f.y.sb f.y.sbm,
    mk f.h ⟨t, Rnd.ofCode f.rm, numV f.x.dst, vsrcOf f.x.sa f.x.sam, vsrcOf f.y.sb f.y.sbm⟩⟩

def readVFUn (rounds : Bool) (mk : Hdr → VFUn → Instr) (f : FRrr) : Chk Instr :=
  let t := Ty.ofCode f.ty
  ⟨rrrCommon f rounds ++ unusedC f ++ unusedOp f.y.sb f.y.sbm ++ tyOk t.isVF ++ dstOk .v f.x.dst ++
      vsrcOk t.lanes f.x.sa f.x.sam,
    mk f.h ⟨t, Rnd.ofCode f.rm, numV f.x.dst, vsrcOf f.x.sa f.x.sam⟩⟩

def readVFTri (mk : Hdr → VFTri → Instr) (f : FRrr) : Chk Instr :=
  let t := Ty.ofCode f.ty
  ⟨rrrCommon f true ++ tyOk t.isVF ++ dstOk .v f.x.dst ++ vsrcOk t.lanes f.x.sa f.x.sam ++
      vsrcOk t.lanes f.y.sb f.y.sbm ++ srcOk .v f.c,
    mk f.h ⟨t, Rnd.ofCode f.rm, numV f.x.dst, vsrcOf f.x.sa f.x.sam, vsrcOf f.y.sb f.y.sbm, numV f.c⟩⟩

/-- `vcvt`: the minor is the part and the source type (R228). -/
def readVCvt (mk : Hdr → VCvt → Instr) (f : FRrr) : Chk Instr :=
  let s := Ty.ofCode (f.minor.setWidth 4)
  let t := Ty.ofCode f.ty
  let p := f.minor.extractLsb' 4 4
  ⟨rrrCommon f true ++ unusedC f ++ unusedOp f.y.sb f.y.sbm ++
      need (p.toNat < cvtParts s t) .unassignedMinor ++ tyOk (cvtPair s t) ++ dstOk .v f.x.dst ++
      vsrcOk s.lanes f.x.sa f.x.sam,
    mk f.h ⟨s, t, p, Rnd.ofCode f.rm, numV f.x.dst, vsrcOf f.x.sa f.x.sam⟩⟩

def blockTy (t : Ty) : Bool := t == .bfp8 || t == .bfp4

/-- The base of a group of four registers: a v register without modifier, a multiple of 4 (R229, R230).
DESIGN CHOICE (log 99): a base of another register file answers 0x06 alone, whatever its modifier. -/
def baseOk (f : FRrr) : List Reason :=
  srcOk .v f.x.sa ++
    zeroField (!(srcOk .v f.x.sa).isEmpty || ((numV f.x.sa).toNat % 4 == 0 && f.x.sam == 0))

/-- `vbfpx` (R229): its rounding code, unused operands and predicate stand under reason 0x03. -/
def readVbfpx (mk : Hdr → Vbfpx → Instr) (f : FRrr) : Chk Instr :=
  let t := Ty.ofCode f.ty
  ⟨zeroField (f.z == 0) ++ zeroField (f.rm == 0) ++ unusedC f ++ unusedOp f.y.sb f.y.sbm ++
      zeroField f.h.plain ++ tyOk (blockTy t) ++ dstOk .g f.x.dst ++ baseOk f,
    mk f.h ⟨t, numG f.x.dst, numV f.x.sa⟩⟩

/-- `vbfpe` (R230).
DESIGN CHOICE (log 99): the rule gives no code for a predicate other than m0 with pneg 0; as for `vbfpx` it is 0x03. -/
def readVbfpe (hi : Bool) (mk : Hdr → Vbfpe → Instr) (f : FRrr) : Chk Instr :=
  let t := Ty.ofCode f.ty
  ⟨rrrCommon f true ++ unusedC f ++ zeroField f.h.plain ++ need (!(hi && t == .bfp8)) .unassignedMinor ++
      tyOk (blockTy t) ++ dstOk .v f.x.dst ++ baseOk f ++ gregOk f.y.sb f.y.sbm,
    mk f.h ⟨t, Rnd.ofCode f.rm, numV f.x.dst, numV f.x.sa, gregOf f.y.sb f.y.sbm⟩⟩

/-- `vbfpd`: the minor is 0x10 + N (R231). -/
def readVbfpd (mk : Hdr → Vbfpd → Instr) (f : FRrr) : Chk Instr :=
  let t := Ty.ofCode f.ty
  let n : BitVec 3 := f.minor.setWidth 3
  ⟨rrrCommon f false ++ unusedC f ++ need (!(t == .bfp8 && 4 ≤ n.toNat)) .unassignedMinor ++
      tyOk (blockTy t) ++ dstOk .v f.x.dst ++ vregOk 32 f.x.sa f.x.sam ++ gregOk f.y.sb f.y.sbm,
    mk f.h ⟨t, n, numV f.x.dst, vregOf f.x.sa f.x.sam, gregOf f.y.sb f.y.sbm⟩⟩

def readVSlide (tys : Ty → Bool) (mk : Hdr → VSlide → Instr) (f : FRrr) : Chk Instr :=
  let t := Ty.ofCode f.ty
  ⟨rrrCommon f false ++ tyOk (tys t) ++ dstOk .v f.x.dst ++ vsrcOk t.lanes f.x.sa f.x.sam ++
      gsrcOk f.y.sb f.y.sbm ++ srcOk .v f.c,
    mk f.h ⟨t, numV f.x.dst, vsrcOf f.x.sa f.x.sam, gsrcOf f.y.sb f.y.sbm, numV f.c⟩⟩

/-- Lane reductions; only a floating sum rounds (R233). -/
def readVRed (tys : Ty → Bool) (rounds : Bool) (mk : Hdr → VRed → Instr) (f : FRrr) : Chk Instr :=
  let t := Ty.ofCode f.ty
  ⟨rrrCommon f (rounds && t.isVF) ++ unusedC f ++ unusedOp f.y.sb f.y.sbm ++ tyOk (tys t) ++ dstOk .g f.x.dst ++
      vsrcOk t.lanes f.x.sa f.x.sam,
    mk f.h ⟨t, Rnd.ofCode f.rm, numG f.x.dst, vsrcOf f.x.sa f.x.sam⟩⟩

def readRngOp (mk : Hdr → RngOp → Instr) (f : FRrr) : Chk Instr :=
  ⟨rrrCommon f false ++ unusedC f ++ tyOk (f.ty == 3) ++ dstOk .g f.x.dst ++ gsrcOk f.x.sa f.x.sam ++
      gsrcOk f.y.sb f.y.sbm,
    mk f.h ⟨numG f.x.dst, gsrcOf f.x.sa f.x.sam, gsrcOf f.y.sb f.y.sbm⟩⟩

def readVRngOp (mk : Hdr → VRngOp → Instr) (f : FRrr) : Chk Instr :=
  ⟨rrrCommon f false ++ unusedC f ++ tyOk (f.ty == 3) ++ dstOk .v f.x.dst ++ gsrcOk f.x.sa f.x.sam ++
      gsrcOk f.y.sb f.y.sbm,
    mk f.h ⟨numV f.x.dst, gsrcOf f.x.sa f.x.sam, gsrcOf f.y.sb f.y.sbm⟩⟩

def readVIns (mk : Hdr → VIns → Instr) (f : FRrr) : Chk Instr :=
  let t := Ty.ofCode f.ty
  ⟨rrrCommon f false ++ unusedC f ++ tyOk t.isRaw ++ dstOk .v f.x.dst ++ gregOk f.x.sa f.x.sam ++
      gsrcOk f.y.sb f.y.sbm,
    mk f.h ⟨t, numV f.x.dst, gregOf f.x.sa f.x.sam, gsrcOf f.y.sb f.y.sbm⟩⟩

def readVExt (mk : Hdr → VExt → Instr) (f : FRrr) : Chk Instr :=
  let t := Ty.ofCode f.ty
  ⟨rrrCommon f false ++ unusedC f ++ tyOk t.isRaw ++ dstOk .g f.x.dst ++ vregOk t.lanes f.x.sa f.x.sam ++
      gsrcOk f.y.sb f.y.sbm,
    mk f.h ⟨t, numG f.x.dst, vregOf f.x.sa f.x.sam, gsrcOf f.y.sb f.y.sbm⟩⟩

def readFBin (rounds : Bool) (mk : Hdr → FBin → Instr) (f : FRrr) : Chk Instr :=
  ⟨rrrCommon f rounds ++ unusedC f ++ tyOk (f.ty == 8) ++ dstOk .g f.x.dst ++ fsrcOk f.x.sa f.x.sam ++
      fsrcOk f.y.sb f.y.sbm,
    mk f.h ⟨Rnd.ofCode f.rm, numG f.x.dst, fsrcOf f.x.sa, fsrcOf f.y.sb⟩⟩

def readFUn (rounds : Bool) (mk : Hdr → FUn → Instr) (f : FRrr) : Chk Instr :=
  ⟨rrrCommon f rounds ++ unusedC f ++ unusedOp f.y.sb f.y.sbm ++ tyOk (f.ty == 8) ++ dstOk .g f.x.dst ++
      fsrcOk f.x.sa f.x.sam,
    mk f.h ⟨Rnd.ofCode f.rm, numG f.x.dst, fsrcOf f.x.sa⟩⟩

def readFTri (mk : Hdr → FTri → Instr) (f : FRrr) : Chk Instr :=
  ⟨rrrCommon f true ++ tyOk (f.ty == 8) ++ dstOk .g f.x.dst ++ fsrcOk f.x.sa f.x.sam ++
      fsrcOk f.y.sb f.y.sbm ++ srcOk .g f.c,
    mk f.h ⟨Rnd.ofCode f.rm, numG f.x.dst, fsrcOf f.x.sa, fsrcOf f.y.sb, numG f.c⟩⟩

def readFCmp (mk : Hdr → FCmp → Instr) (f : FRrr) : Chk Instr :=
  ⟨rrrCommon f false ++ unusedC f ++ tyOk (f.ty == 8) ++ dstOk .m f.x.dst ++ fsrcOk f.x.sa f.x.sam ++
      fsrcOk f.y.sb f.y.sbm,
    mk f.h ⟨numM f.x.dst, fsrcOf f.x.sa, fsrcOf f.y.sb⟩⟩

/-- `fcvt`: the minor is 0x10 with the source type (R240). -/
def readFCvt (mk : Hdr → FCvt → Instr) (f : FRrr) : Chk Instr :=
  let s := Ty.ofCode (f.minor.setWidth 4)
  let t := Ty.ofCode f.ty
  ⟨rrrCommon f true ++ unusedC f ++ unusedOp f.y.sb f.y.sbm ++ tyOk (fcvtPair s t) ++ dstOk .g f.x.dst ++
      fsrcOk f.x.sa f.x.sam,
    mk f.h ⟨s, t, Rnd.ofCode f.rm, numG f.x.dst, fsrcOf f.x.sa⟩⟩

/-! ### Readers, format RRI (R204 to R206, R223) -/

def rriCommon (f : FRri) : List Reason := zeroField (f.z == 0) ++ rndOk f.rm false

def readGImm (tys : Ty → Bool) (mk : Hdr → GImm → Instr) (f : FRri) : Chk Instr :=
  let t := Ty.ofCode f.ty
  ⟨rriCommon f ++ tyOk (tys t) ++ dstOk .g f.x.dst ++ gsrcOk f.x.sa f.x.sam,
    mk f.h ⟨t, numG f.x.dst, gsrcOf f.x.sa f.x.sam, f.imm⟩⟩

def readMImm (tys : Ty → Bool) (mk : Hdr → MImm → Instr) (f : FRri) : Chk Instr :=
  let t := Ty.ofCode f.ty
  ⟨rriCommon f ++ tyOk (tys t) ++ dstOk .m f.x.dst ++ gsrcOk f.x.sa f.x.sam,
    mk f.h ⟨t, numM f.x.dst, gsrcOf f.x.sa f.x.sam, f.imm⟩⟩

def readGMovI (mk : Hdr → GMovI → Instr) (f : FRri) : Chk Instr :=
  ⟨rriCommon f ++ tyOk (f.ty == 3) ++ dstOk .g f.x.dst ++ unusedOp f.x.sa f.x.sam,
    mk f.h ⟨numG f.x.dst, f.imm⟩⟩

def readVBcstI (tys : Ty → Bool) (mk : Hdr → VBcstI → Instr) (f : FRri) : Chk Instr :=
  let t := Ty.ofCode f.ty
  ⟨rriCommon f ++ tyOk (tys t) ++ dstOk .v f.x.dst ++ unusedOp f.x.sa f.x.sam,
    mk f.h ⟨t, numV f.x.dst, f.imm⟩⟩

def readVBcst (tys : Ty → Bool) (mk : Hdr → VBcst → Instr) (f : FRri) : Chk Instr :=
  let t := Ty.ofCode f.ty
  ⟨rriCommon f ++ zeroField (f.imm == 0) ++ tyOk (tys t) ++ dstOk .v f.x.dst ++ plainOk .g f.x.sa f.x.sam,
    mk f.h ⟨t, numV f.x.dst, numG f.x.sa⟩⟩

/-! ### Readers, format BR (R207 to R213); dst is 0x00 -/

def brCommon (f : FBr) : List Reason := zeroField (f.z == 0 && f.x.dst == 0)
def noTarget (f : FBr) : List Reason := zeroField (f.disp == 0 && f.slot == 0)
def slotOk (f : FBr) : List Reason := need (f.slot.toNat < 5) .targetSlot

def readBRel (mk : Hdr → BRel → Instr) (f : FBr) : Chk Instr :=
  ⟨brCommon f ++ unusedOp f.x.sa f.x.sam ++ slotOk f, mk f.h ⟨f.disp, f.slot⟩⟩

def readBCond (mk : Hdr → BCond → Instr) (f : FBr) : Chk Instr :=
  ⟨brCommon f ++ gregOk f.x.sa f.x.sam ++ slotOk f, mk f.h ⟨gregOf f.x.sa f.x.sam, ⟨f.disp, f.slot⟩⟩⟩

def readBReg (mk : Hdr → BReg → Instr) (f : FBr) : Chk Instr :=
  ⟨brCommon f ++ noTarget f ++ gregOk f.x.sa f.x.sam, mk f.h ⟨gregOf f.x.sa f.x.sam⟩⟩

def readBLoop (mk : Hdr → BLoop → Instr) (f : FBr) : Chk Instr :=
  ⟨brCommon f ++ gsrcOk f.x.sa f.x.sam ++ slotOk f, mk f.h ⟨gsrcOf f.x.sa f.x.sam, ⟨f.disp, f.slot⟩⟩⟩

def readHBr (mk : Hdr → Instr) (f : FBr) : Chk Instr :=
  ⟨brCommon f ++ unusedOp f.x.sa f.x.sam ++ noTarget f, mk f.h⟩

def readHGang (mk : Hdr → Instr) (f : FBr) : Chk Instr :=
  ⟨brCommon f ++ unusedOp f.x.sa f.x.sam ++ noTarget f ++ zeroField f.h.plain, mk f.h⟩

/-! ### Readers, format SYS (R214, R216, R299, R335, R343, R344) -/

def noDst (x : Head) : List Reason := zeroField (x.dst == 0)
def noA (x : Head) : List Reason := unusedOp x.sa x.sam
def noB (y : SrcB) : List Reason := unusedOp y.sb y.sbm

def readSrRd (mk : Hdr → SrRd → Instr) (f : FSys) : Chk Instr :=
  ⟨noA f.x ++ noB f.y ++ zeroField (f.op == 0 && srNumberOk f.sr) ++ dstOk .g f.x.dst, mk f.h ⟨numG f.x.dst, f.sr⟩⟩

def readSrWr (mk : Hdr → SrWr → Instr) (f : FSys) : Chk Instr :=
  ⟨noDst f.x ++ noB f.y ++ zeroField (f.op == 0 && srNumberOk f.sr) ++ gsrcOk f.x.sa f.x.sam,
    mk f.h ⟨f.sr, gsrcOf f.x.sa f.x.sam⟩⟩

def readSrWrI (mk : Hdr → SrWrI → Instr) (f : FSys) : Chk Instr :=
  ⟨noDst f.x ++ noA f.x ++ noB f.y ++ zeroField (srNumberOk f.sr), mk f.h ⟨f.sr, f.op⟩⟩

def readTrapOp (mk : Hdr → TrapOp → Instr) (f : FSys) : Chk Instr :=
  ⟨noDst f.x ++ noA f.x ++ noB f.y ++ zeroField (f.sr == 0), mk f.h ⟨f.op⟩⟩

def readHSys (mk : Hdr → Instr) (f : FSys) : Chk Instr :=
  ⟨noDst f.x ++ noA f.x ++ noB f.y ++ zeroField (f.sr == 0 && f.op == 0), mk f.h⟩

def readCtxSave (mk : Hdr → CtxSave → Instr) (f : FSys) : Chk Instr :=
  ⟨zeroField (f.sr == 0 && f.op.extractLsb' 3 9 == 0) ++ dstOk .g f.x.dst ++ gregOk f.x.sa f.x.sam ++
      gregOk f.y.sb f.y.sbm,
    mk f.h ⟨numG f.x.dst, gregOf f.x.sa f.x.sam, gregOf f.y.sb f.y.sbm, f.op.getLsbD 2, f.op.setWidth 2⟩⟩

def readCtxLoad (mk : Hdr → CtxLoad → Instr) (f : FSys) : Chk Instr :=
  ⟨zeroField (f.sr == 0 && f.op.extractLsb' 4 8 == 0) ++ dstOk .g f.x.dst ++ gregOk f.x.sa f.x.sam ++
      gregOk f.y.sb f.y.sbm,
    mk f.h ⟨numG f.x.dst, gregOf f.x.sa f.x.sam, gregOf f.y.sb f.y.sbm, f.op.getLsbD 3, f.op.getLsbD 2,
      f.op.setWidth 2⟩⟩

def readMint (mk : Hdr → GReg2 → Instr) (f : FSys) : Chk Instr :=
  ⟨zeroField (f.sr == 0 && f.op == 0) ++ noDst f.x ++ gregOk f.x.sa f.x.sam ++ gregOk f.y.sb f.y.sbm,
    mk f.h ⟨gregOf f.x.sa f.x.sam, gregOf f.y.sb f.y.sbm⟩⟩

def readFret (mk : Hdr → Fret → Instr) (f : FSys) : Chk Instr :=
  ⟨zeroField (f.sr == 0 && f.op.extractLsb' 2 10 == 0) ++ noB f.y ++ dstOk .g f.x.dst ++ gregOk f.x.sa f.x.sam,
    mk f.h ⟨numG f.x.dst, gregOf f.x.sa f.x.sam, f.op.setWidth 2⟩⟩

def readTlbWr (mk : Hdr → TlbWr → Instr) (f : FSys) : Chk Instr :=
  ⟨zeroField (f.sr == 0) ++ dstOk .g f.x.dst ++ plainOk .g f.x.sa f.x.sam ++ plainOk .g f.y.sb f.y.sbm,
    mk f.h ⟨numG f.x.dst, numG f.x.sa, numG f.y.sb, f.op.extractLsb' 10 2, f.op.extractLsb' 7 3, f.op.setWidth 7⟩⟩

def readTlbInv (mk : Hdr → TlbInv → Instr) (f : FSys) : Chk Instr :=
  ⟨zeroField (f.sr == 0 && f.op.extractLsb' 4 8 == 0) ++ dstOk .g f.x.dst ++ plainOk .g f.x.sa f.x.sam ++
      plainOk .g f.y.sb f.y.sbm,
    mk f.h ⟨numG f.x.dst, numG f.x.sa, numG f.y.sb, f.op.setWidth 2, f.op.extractLsb' 2 2⟩⟩

def readSnap (mk : Hdr → DstG → Instr) (f : FSys) : Chk Instr :=
  ⟨noA f.x ++ noB f.y ++ zeroField (f.sr == 0 && f.op == 0) ++ dstOk .g f.x.dst, mk f.h ⟨numG f.x.dst⟩⟩

def readMseal (mk : Hdr → Mseal → Instr) (f : FSys) : Chk Instr :=
  ⟨zeroField (f.sr == 0 && f.op == 0) ++ dstOk .g f.x.dst ++ gregOk f.x.sa f.x.sam ++ gregOk f.y.sb f.y.sbm,
    mk f.h ⟨numG f.x.dst, gregOf f.x.sa f.x.sam, gregOf f.y.sb f.y.sbm⟩⟩

/-! ### Readers, format MAT (R243 to R255) -/

def matTypes (f : FMat) (ta tb : BitVec 4) : List Reason := tyOk (f.ta == ta && f.tb == tb)
def matFixed (f : FMat) : List Reason := rndOk f.rm false

def readMatAcc (mk : Hdr → MatAcc → Instr) (f : FMat) : Chk Instr :=
  ⟨noDst f.x ++ noA f.x ++ noB f.y ++ matTypes f 0 0 ++ matFixed f ++ zeroField (f.op == 0), mk f.h ⟨f.acc⟩⟩

def readMatRow (mk : Hdr → MatRow → Instr) (f : FMat) : Chk Instr :=
  ⟨noA f.x ++ noB f.y ++ matTypes f 9 0 ++ matFixed f ++ zeroField (f.op.extractLsb' 4 8 == 0) ++
      dstOk .v f.x.dst,
    mk f.h ⟨f.acc, f.op.setWidth 4, numV f.x.dst⟩⟩

def readMatWRow (mk : Hdr → MatWRow → Instr) (f : FMat) : Chk Instr :=
  ⟨noDst f.x ++ noB f.y ++ matTypes f 9 0 ++ matFixed f ++ zeroField (f.op.extractLsb' 4 8 == 0) ++
      vregOk 8 f.x.sa f.x.sam,
    mk f.h ⟨f.acc, f.op.setWidth 4, vregOf f.x.sa f.x.sam⟩⟩

/-- The descriptor writers hold zero in their types, bit [12] and [11:0] (R245). -/
def selCommon (f : FMat) : List Reason :=
  noDst f.x ++ zeroField (!f.acc && f.op == 0) ++ matTypes f 0 0 ++ matFixed f

def readMasel (mk : Hdr → GReg2 → Instr) (f : FMat) : Chk Instr :=
  ⟨selCommon f ++ gregOk f.x.sa f.x.sam ++ gregOk f.y.sb f.y.sbm,
    mk f.h ⟨gregOf f.x.sa f.x.sam, gregOf f.y.sb f.y.sbm⟩⟩

def readMasx (mk : Hdr → BReg → Instr) (f : FMat) : Chk Instr :=
  ⟨selCommon f ++ noB f.y ++ gregOk f.x.sa f.x.sam, mk f.h ⟨gregOf f.x.sa f.x.sam⟩⟩

def readMbsel (mk : Hdr → GSrc2 → Instr) (f : FMat) : Chk Instr :=
  ⟨selCommon f ++ gsrcOk f.x.sa f.x.sam ++ gsrcOk f.y.sb f.y.sbm,
    mk f.h ⟨gsrcOf f.x.sa f.x.sam, gsrcOf f.y.sb f.y.sbm⟩⟩

def readMmaOp (mk : Hdr → MmaOp → Instr) (f : FMat) : Chk Instr :=
  ⟨noDst f.x ++ noA f.x ++ noB f.y ++ tyOk (mmaPair (Ty.ofCode f.ta) (Ty.ofCode f.tb)) ++ matFixed f ++
      zeroField (1 ≤ f.op.toNat && f.op.toNat ≤ 1024),
    mk f.h ⟨Ty.ofCode f.ta, Ty.ofCode f.tb, f.acc, f.op⟩⟩

def readMdrainOp (mk : Hdr → MdrainOp → Instr) (f : FMat) : Chk Instr :=
  let t := Ty.ofCode f.ta
  let vr : BitVec 5 := f.op.extractLsb' 7 5
  let vc : BitVec 5 := f.op.extractLsb' 2 5
  let nos := f.op.getLsbD 1
  ⟨noDst f.x ++ tyOk (t.isDrain && f.tb == 0) ++ rndOk f.rm true ++
      zeroField (vr.toNat % 2 == 0 && (!nos || vr == 0 && vc == 0)) ++ gregOk f.x.sa f.x.sam ++
      gregOk f.y.sb f.y.sbm,
    mk f.h ⟨t, Rnd.ofCode f.rm, f.acc, gregOf f.x.sa f.x.sam, gregOf f.y.sb f.y.sbm, vr, vc, nos, f.op.getLsbD 0⟩⟩

/-! ### Readers, format MEM (R260 to R278) -/

def noScope (f : FMem) : List Reason := zeroField (f.s == 0)
def noDisp (f : FMem) : List Reason := zeroField (f.d == 0)

def readMemLd (tys : Ty → Bool) (mk : Hdr → MemLd → Instr) (f : FMem) : Chk Instr :=
  let t := Ty.ofCode f.ty
  ⟨noB f.y ++ noScope f ++ tyOk (tys t) ++ dstOk .g f.x.dst ++ gregOk f.x.sa f.x.sam,
    mk f.h ⟨t, numG f.x.dst, gregOf f.x.sa f.x.sam, f.d⟩⟩

def readMemLdV (tys : Ty → Bool) (mk : Hdr → MemLdV → Instr) (f : FMem) : Chk Instr :=
  let t := Ty.ofCode f.ty
  ⟨noB f.y ++ noScope f ++ tyOk (tys t) ++ dstOk .v f.x.dst ++ gregOk f.x.sa f.x.sam,
    mk f.h ⟨t, numV f.x.dst, gregOf f.x.sa f.x.sam, f.d⟩⟩

def readMemSt (tys : Ty → Bool) (mk : Hdr → MemSt → Instr) (f : FMem) : Chk Instr :=
  let t := Ty.ofCode f.ty
  ⟨noDst f.x ++ noScope f ++ tyOk (tys t) ++ gregOk f.x.sa f.x.sam ++ gsrcOk f.y.sb f.y.sbm,
    mk f.h ⟨t, gregOf f.x.sa f.x.sam, f.d, gsrcOf f.y.sb f.y.sbm⟩⟩

def readMemStV (tys : Ty → Bool) (mk : Hdr → MemStV → Instr) (f : FMem) : Chk Instr :=
  let t := Ty.ofCode f.ty
  ⟨noDst f.x ++ noScope f ++ tyOk (tys t) ++ gregOk f.x.sa f.x.sam ++ vregOk t.lanes f.y.sb f.y.sbm,
    mk f.h ⟨t, gregOf f.x.sa f.x.sam, f.d, vregOf f.y.sb f.y.sbm⟩⟩

def readMemLdS (mk : Hdr → MemLdS → Instr) (f : FMem) : Chk Instr :=
  let t := Ty.ofCode f.ty
  ⟨noB f.y ++ tyOk t.isAcq ++ dstOk .g f.x.dst ++ gregOk f.x.sa f.x.sam,
    mk f.h ⟨t, numG f.x.dst, gregOf f.x.sa f.x.sam, f.d, f.s⟩⟩

def readMemStS (mk : Hdr → MemStS → Instr) (f : FMem) : Chk Instr :=
  let t := Ty.ofCode f.ty
  ⟨noDst f.x ++ tyOk t.isAcq ++ gregOk f.x.sa f.x.sam ++ gsrcOk f.y.sb f.y.sbm,
    mk f.h ⟨t, gregOf f.x.sa f.x.sam, f.d, gsrcOf f.y.sb f.y.sbm, f.s⟩⟩

def readGather (mk : Hdr → Gather → Instr) (f : FMem) : Chk Instr :=
  let t := Ty.ofCode f.ty
  ⟨noScope f ++ tyOk t.isGather ++ dstOk .v f.x.dst ++ gregOk f.x.sa f.x.sam ++ vregOk t.lanes f.y.sb f.y.sbm,
    mk f.h ⟨t, numV f.x.dst, gregOf f.x.sa f.x.sam, f.d, vregOf f.y.sb f.y.sbm⟩⟩

/-- `vscatter`: the dst field names the data register, which is read (R267). -/
def readScatter (mk : Hdr → Scatter → Instr) (f : FMem) : Chk Instr :=
  let t := Ty.ofCode f.ty
  ⟨noScope f ++ tyOk t.isGather ++ dstOk .v f.x.dst ++ gregOk f.x.sa f.x.sam ++ vregOk t.lanes f.y.sb f.y.sbm,
    mk f.h ⟨t, gregOf f.x.sa f.x.sam, f.d, vregOf f.y.sb f.y.sbm, numV f.x.dst⟩⟩

def readPrefetch (mk : Hdr → Prefetch → Instr) (f : FMem) : Chk Instr :=
  ⟨noDst f.x ++ noB f.y ++ noScope f ++ zeroField (f.ty == 0) ++ gregOk f.x.sa f.x.sam,
    mk f.h ⟨gregOf f.x.sa f.x.sam, f.d⟩⟩

/-- Atomics: bit [7] of the minor is `.ar` (R269). -/
def readAmo (tys : Ty → Bool) (ar : Bool) (mk : Hdr → Amo → Instr) (f : FMem) : Chk Instr :=
  let t := Ty.ofCode f.ty
  ⟨zeroField (ar || f.s == 0) ++ tyOk (tys t) ++ dstOk .g f.x.dst ++ gregOk f.x.sa f.x.sam ++
      gsrcOk f.y.sb f.y.sbm,
    mk f.h ⟨ar, t, numG f.x.dst, gregOf f.x.sa f.x.sam, f.d, gsrcOf f.y.sb f.y.sbm, f.s⟩⟩

/-- Reductions with a g source: bit [4] of the minor is 0 (R270). -/
def readRedG (tys : Ty → Bool) (mk : Hdr → Red → Instr) (f : FMem) : Chk Instr :=
  let t := Ty.ofCode f.ty
  ⟨noDst f.x ++ noScope f ++ tyOk (tys t) ++ gregOk f.x.sa f.x.sam ++ gsrcOk f.y.sb f.y.sbm,
    mk f.h ⟨t, gregOf f.x.sa f.x.sam, f.d, .g (gsrcOf f.y.sb f.y.sbm)⟩⟩

def readRedV (tys : Ty → Bool) (num : Bool) (mk : Hdr → Red → Instr) (f : FMem) : Chk Instr :=
  let t := Ty.ofCode f.ty
  ⟨noDst f.x ++ noScope f ++ tyOk (tys t || num && t == .bf16) ++ gregOk f.x.sa f.x.sam ++
      vregOk t.lanes f.y.sb f.y.sbm,
    mk f.h ⟨t, gregOf f.x.sa f.x.sam, f.d, .v (vregOf f.y.sb f.y.sbm)⟩⟩

/-- The two-address layout: the second base register in [13:8], zeros below (R172). -/
def secondBase (f : FMem) : BitVec 6 := f.d.extractLsb' 8 6
def secondOk (f : FMem) : List Reason := zeroField (f.d.setWidth 8 == 0)

def readAmo2 (mk : Hdr → Amo2 → Instr) (f : FMem) : Chk Instr :=
  let t := Ty.ofCode f.ty
  ⟨secondOk f ++ tyOk t.isPair ++ dstOk .g f.x.dst ++ gregOk f.x.sa f.x.sam ++ gsrcOk f.y.sb f.y.sbm,
    mk f.h ⟨t, numG f.x.dst, gregOf f.x.sa f.x.sam, secondBase f, gsrcOf f.y.sb f.y.sbm, f.s⟩⟩

def readAmove (mk : Hdr → Amove → Instr) (f : FMem) : Chk Instr :=
  let t := Ty.ofCode f.ty
  ⟨secondOk f ++ noB f.y ++ tyOk t.isAmoInt ++ dstOk .g f.x.dst ++ gregOk f.x.sa f.x.sam,
    mk f.h ⟨t, numG f.x.dst, gregOf f.x.sa f.x.sam, secondBase f, f.s⟩⟩

def readHMem (mk : Hdr → Instr) (f : FMem) : Chk Instr :=
  ⟨noDst f.x ++ noA f.x ++ noB f.y ++ noScope f ++ noDisp f ++ zeroField (f.ty == 0), mk f.h⟩

/-- Fences: a fence uses no type, so a non-zero one is a non-zero unused field (R260, R272). -/
def readFenceS (mk : Hdr → FenceS → Instr) (f : FMem) : Chk Instr :=
  ⟨noDst f.x ++ noA f.x ++ noB f.y ++ noDisp f ++ zeroField (f.ty == 0), mk f.h ⟨f.s⟩⟩

def readWaitAddr (mk : Hdr → WaitAddr → Instr) (f : FMem) : Chk Instr :=
  let t := Ty.ofCode f.ty
  ⟨tyOk t.isAmoInt ++ dstOk .g f.x.dst ++ gregOk f.x.sa f.x.sam ++ gsrcOk f.y.sb f.y.sbm,
    mk f.h ⟨t, numG f.x.dst, gregOf f.x.sa f.x.sam, f.d, gsrcOf f.y.sb f.y.sbm, f.s⟩⟩

/-- Event counters 0 to 15 in the displacement field (R275). -/
def smallDisp (f : FMem) : List Reason := zeroField (f.d.toNat < 16)

def readEvSig (mk : Hdr → EvSig → Instr) (f : FMem) : Chk Instr :=
  ⟨noDst f.x ++ noA f.x ++ noScope f ++ smallDisp f ++ tyOk (f.ty == 2) ++ gsrcOk f.y.sb f.y.sbm,
    mk f.h ⟨f.d.setWidth 4, gsrcOf f.y.sb f.y.sbm⟩⟩

def readEvWait (mk : Hdr → EvWait → Instr) (f : FMem) : Chk Instr :=
  ⟨noA f.x ++ smallDisp f ++ tyOk (f.ty == 2) ++ dstOk .g f.x.dst ++ gsrcOk f.y.sb f.y.sbm,
    mk f.h ⟨numG f.x.dst, f.d.setWidth 4, gsrcOf f.y.sb f.y.sbm, f.s⟩⟩

def readSend (mk : Hdr → Send → Instr) (f : FMem) : Chk Instr :=
  ⟨noDst f.x ++ noScope f ++ tyOk (f.ty == 3) ++ gregOk f.x.sa f.x.sam ++ gsrcOk f.y.sb f.y.sbm,
    mk f.h ⟨gregOf f.x.sa f.x.sam, gsrcOf f.y.sb f.y.sbm, f.d⟩⟩

def readSendV (mk : Hdr → SendV → Instr) (f : FMem) : Chk Instr :=
  ⟨noDst f.x ++ noScope f ++ tyOk (f.ty == 3) ++ gregOk f.x.sa f.x.sam ++ vregOk 4 f.y.sb f.y.sbm,
    mk f.h ⟨gregOf f.x.sa f.x.sam, vregOf f.y.sb f.y.sbm, f.d⟩⟩

def readSendRel (mk : Hdr → SendRel → Instr) (f : FMem) : Chk Instr :=
  ⟨noDst f.x ++ tyOk (f.ty == 3) ++ gregOk f.x.sa f.x.sam ++ gsrcOk f.y.sb f.y.sbm,
    mk f.h ⟨gregOf f.x.sa f.x.sam, gsrcOf f.y.sb f.y.sbm, f.d, f.s⟩⟩

/-- Receives: sb names the g register of the status word and carries no modifier (R277). -/
def recvCommon (f : FMem) : List Reason :=
  noScope f ++ noDisp f ++ tyOk (f.ty == 3) ++ plainOk .g f.y.sb f.y.sbm

def readRecv (mk : Hdr → Recv → Instr) (f : FMem) : Chk Instr :=
  ⟨recvCommon f ++ dstOk .g f.x.dst ++ gregOk f.x.sa f.x.sam,
    mk f.h ⟨numG f.x.dst, gregOf f.x.sa f.x.sam, numG f.y.sb⟩⟩

def readRecvV (mk : Hdr → RecvV → Instr) (f : FMem) : Chk Instr :=
  ⟨recvCommon f ++ dstOk .v f.x.dst ++ gregOk f.x.sa f.x.sam,
    mk f.h ⟨numV f.x.dst, gregOf f.x.sa f.x.sam, numG f.y.sb⟩⟩

def readRecvAny (mk : Hdr → RecvAny → Instr) (f : FMem) : Chk Instr :=
  ⟨recvCommon f ++ noA f.x ++ dstOk .g f.x.dst, mk f.h ⟨numG f.x.dst, numG f.y.sb⟩⟩

def readRecvVAny (mk : Hdr → RecvVAny → Instr) (f : FMem) : Chk Instr :=
  ⟨recvCommon f ++ noA f.x ++ dstOk .v f.x.dst, mk f.h ⟨numV f.x.dst, numG f.y.sb⟩⟩

/-- `bar`: a displacement above 15 or a scope field of 0 stands under reason 0x03 (R278). -/
def readBarOp (mk : Hdr → BarOp → Instr) (f : FMem) : Chk Instr :=
  ⟨noA f.x ++ noB f.y ++ smallDisp f ++ zeroField (f.s != 0) ++ tyOk (f.ty == 3) ++ dstOk .g f.x.dst,
    mk f.h ⟨numG f.x.dst, f.d.setWidth 4, f.s⟩⟩

def readFprobe (mk : Hdr → DstG → Instr) (f : FMem) : Chk Instr :=
  ⟨noA f.x ++ noB f.y ++ noScope f ++ noDisp f ++ tyOk (f.ty == 3) ++ dstOk .g f.x.dst, mk f.h ⟨numG f.x.dst⟩⟩

/-! ### Readers, format ENG (R279 to R297) -/

def qIs (f : FEng) (q : BitVec 4) : List Reason := zeroField (f.q == q)
def noHandle (f : FEng) : List Reason := zeroField (f.hd == 0)
def noOp (f : FEng) : List Reason := zeroField (f.op == 0)

/-- A program operand of `fork`: 0x00 for none (R282). -/
def progOf (s : BitVec 8) (m : BitVec 12) : Option GReg := if s == 0 then none else some (gregOf s m)
def progOk (s : BitVec 8) (m : BitVec 12) (hd : BitVec 4) : List Reason :=
  if s == 0 then zeroField (m == 0 && hd == 0) else gregOk s m

def readForkOp (mk : Hdr → ForkOp → Instr) (f : FEng) : Chk Instr :=
  let hc : BitVec 4 := f.op.extractLsb' 12 4
  ⟨noDst f.x ++ qIs f 0 ++ zeroField (f.op.extractLsb' 0 12 == 0) ++ progOk f.x.sa f.x.sam f.hd ++
      progOk f.y.sb f.y.sbm hc ++ zeroField (!(f.x.sa == 0 && f.y.sb == 0)) ++
      zeroField (f.x.sa == 0 || f.y.sb == 0 || f.hd != hc),
    mk f.h ⟨f.hd, hc, progOf f.x.sa f.x.sam, progOf f.y.sb f.y.sbm⟩⟩

def readRdv (mk : Hdr → Rdv → Instr) (f : FEng) : Chk Instr :=
  ⟨noDst f.x ++ noA f.x ++ noB f.y ++ qIs f 0 ++ noHandle f, mk f.h ⟨f.op⟩⟩

def readHRd (mk : Hdr → HRd → Instr) (f : FEng) : Chk Instr :=
  ⟨noB f.y ++ qIs f 0 ++ noHandle f ++ noOp f ++ dstOk .g f.x.dst ++ plainOk .h f.x.sa f.x.sam,
    mk f.h ⟨numG f.x.dst, numH f.x.sa⟩⟩

def readHPass (mk : Hdr → HPass → Instr) (f : FEng) : Chk Instr :=
  ⟨noDst f.x ++ qIs f 0 ++ noOp f ++ plainOk .h f.x.sa f.x.sam ++ gregOk f.y.sb f.y.sbm,
    mk f.h ⟨numH f.x.sa, gregOf f.y.sb f.y.sbm, f.hd⟩⟩

def readHCancel (mk : Hdr → HOp → Instr) (f : FEng) : Chk Instr :=
  ⟨noDst f.x ++ noB f.y ++ qIs f 0 ++ noHandle f ++ noOp f ++ plainOk .h f.x.sa f.x.sam, mk f.h ⟨numH f.x.sa⟩⟩

/-- Copy queues are 0 to 3 (R287). -/
def copyQ (f : FEng) : List Reason := zeroField (f.q.toNat < 4)

def readCpy (mk : Hdr → Cpy → Instr) (f : FEng) : Chk Instr :=
  ⟨noDst f.x ++ copyQ f ++ zeroField (f.op.setWidth 10 == 0) ++ gregOk f.x.sa f.x.sam ++ gregOk f.y.sb f.y.sbm,
    mk f.h ⟨f.hd, f.q.setWidth 2, gregOf f.x.sa f.x.sam, gregOf f.y.sb f.y.sbm, f.op.extractLsb' 10 6⟩⟩

def readCpyB (mk : Hdr → CpyB → Instr) (f : FEng) : Chk Instr :=
  ⟨noDst f.x ++ copyQ f ++ noOp f ++ gregOk f.x.sa f.x.sam ++ gregOk f.y.sb f.y.sbm,
    mk f.h ⟨f.hd, f.q.setWidth 2, gregOf f.x.sa f.x.sam, gregOf f.y.sb f.y.sbm⟩⟩

def readQFence (mk : Hdr → QFence → Instr) (f : FEng) : Chk Instr :=
  ⟨noDst f.x ++ noA f.x ++ noB f.y ++ qIs f 0 ++ noHandle f ++ zeroField (f.op.extractLsb' 8 8 == 0),
    mk f.h ⟨f.op.setWidth 8⟩⟩

def CollKind.ofCode (c : BitVec 4) : CollKind :=
  match c.toNat with
  | 1 => .allreduce | 2 => .reduce | 3 => .allgather | 4 => .redscat | 5 => .barrier | _ => .bcast

def CollKind.code : CollKind → BitVec 4
  | .bcast => 0 | .allreduce => 1 | .reduce => 2 | .allgather => 3 | .redscat => 4 | .barrier => 5

def CollOp.ofCode (c : BitVec 4) : CollOp :=
  match c.toNat with
  | 1 => .max | 2 => .min | _ => .sum

def CollOp.code : CollOp → BitVec 4
  | .sum => 0 | .max => 1 | .min => 2

def CollOrder.ofCode (c : BitVec 2) : CollOrder :=
  match c.toNat with
  | 1 => .tree | 2 => .canonical | _ => .any

def CollOrder.code : CollOrder → BitVec 2
  | .any => 0 | .tree => 1 | .canonical => 2

/-- `coll` (R291, R292): an unlisted kind is reason 0x04 whatever its op is. -/
def readColl (mk : Hdr → Coll → Instr) (f : FEng) : Chk Instr :=
  let kc : BitVec 4 := f.op.extractLsb' 12 4
  let oc : BitVec 4 := f.op.extractLsb' 8 4
  let t := Ty.ofCode (f.op.extractLsb' 4 4)
  let ord : BitVec 2 := f.op.extractLsb' 2 2
  let k := CollKind.ofCode kc
  ⟨noDst f.x ++ noB f.y ++ qIs f 6 ++ zeroField (f.op.setWidth 2 == 0) ++
      zeroField (oc.toNat < 3 && ord != 3 && (6 ≤ kc.toNat || k.reduces || oc == 0)) ++
      tyOk (kc.toNat < 6 && (!k.reduces || t.isColl)) ++ gregOk f.x.sa f.x.sam,
    mk f.h ⟨f.hd, gregOf f.x.sa f.x.sam, k, CollOp.ofCode oc, t, CollOrder.ofCode ord⟩⟩

def readContend (mk : Hdr → Contend → Instr) (f : FEng) : Chk Instr :=
  ⟨noDst f.x ++ noB f.y ++ qIs f 6 ++ zeroField (f.op.extractLsb' 12 4 == 0) ++ gsrcOk f.x.sa f.x.sam,
    mk f.h ⟨f.hd, gsrcOf f.x.sa f.x.sam, f.op.extractLsb' 8 4, f.op.setWidth 8⟩⟩

/-- A count of 1 to 64 in [6:0] (R297). -/
def count64 (f : FEng) : List Reason :=
  zeroField (1 ≤ (f.op.setWidth 7).toNat && (f.op.setWidth 7).toNat ≤ 64)

def readAfClaim (mk : Hdr → AfClaim → Instr) (f : FEng) : Chk Instr :=
  ⟨noDst f.x ++ noA f.x ++ noB f.y ++ qIs f 7 ++
      zeroField (f.op.extractLsb' 9 7 == 0 && f.op.extractLsb' 7 1 == 0) ++ count64 f,
    mk f.h ⟨f.hd, f.op.getLsbD 8, f.op.setWidth 7⟩⟩

def readAfH (mk : Hdr → HOp → Instr) (f : FEng) : Chk Instr :=
  ⟨noDst f.x ++ noA f.x ++ noB f.y ++ qIs f 7 ++ noOp f, mk f.h ⟨f.hd⟩⟩

def readAfA (mk : Hdr → AfA → Instr) (f : FEng) : Chk Instr :=
  ⟨noDst f.x ++ noB f.y ++ qIs f 7 ++ noOp f ++ gregOk f.x.sa f.x.sam,
    mk f.h ⟨f.hd, gregOf f.x.sa f.x.sam⟩⟩

def readAfScale (mk : Hdr → AfScale → Instr) (f : FEng) : Chk Instr :=
  ⟨noDst f.x ++ qIs f 7 ++ noHandle f ++ noOp f ++ gregOk f.x.sa f.x.sam ++ gsrcOk f.y.sb f.y.sbm,
    mk f.h ⟨gregOf f.x.sa f.x.sam, gsrcOf f.y.sb f.y.sbm⟩⟩

def readAfSample (mk : Hdr → AfSample → Instr) (f : FEng) : Chk Instr :=
  ⟨noDst f.x ++ qIs f 7 ++ zeroField (f.op.extractLsb' 7 9 == 0) ++ count64 f ++ gregOk f.x.sa f.x.sam ++
      gregOk f.y.sb f.y.sbm,
    mk f.h ⟨f.hd, gregOf f.x.sa f.x.sam, gregOf f.y.sb f.y.sbm, f.op.setWidth 7⟩⟩

/-! ### The opcode map (R185 and the tables of minors) -/

/-- Minors of major 0x10. -/
def rows10 : List (MRow FRrr) :=
  [⟨0, 1, readGBin Ty.isInt .add⟩,
   ⟨1, 1, readGBin Ty.isInt .sub⟩,
   ⟨2, 1, readGUn Ty.isInt .neg⟩,
   ⟨3, 1, readGUn Ty.isInt .abs⟩,
   ⟨4, 1, readGBin Ty.isInt .adds⟩,
   ⟨5, 1, readGBin Ty.isInt .subs⟩,
   ⟨6, 1, readGTri Ty.isInt .add3⟩]

/-- Minors of major 0x11. -/
def rows11 : List (MRow FRrr) :=
  [⟨0, 1, readGBin Ty.isInt .and⟩,
   ⟨1, 1, readGBin Ty.isInt .or⟩,
   ⟨2, 1, readGBin Ty.isInt .xor⟩,
   ⟨3, 1, readGBin Ty.isInt .andn⟩,
   ⟨4, 1, readGBin Ty.isInt .orn⟩,
   ⟨5, 1, readGBin Ty.isInt .xnor⟩,
   ⟨6, 1, readGUn Ty.isInt .not⟩]

/-- Minors of major 0x12. -/
def rows12 : List (MRow FRrr) :=
  [⟨0, 1, readGBin Ty.isInt .shl⟩,
   ⟨1, 1, readGBin Ty.isInt .shr⟩,
   ⟨2, 1, readGBin Ty.isInt .sar⟩,
   ⟨3, 1, readGBin Ty.isInt .rol⟩,
   ⟨4, 1, readGBin Ty.isInt .ror⟩]

/-- Minors of major 0x13. -/
def rows13 : List (MRow FRrr) :=
  [⟨0, 1, readGBin Ty.isInt .mul⟩,
   ⟨1, 1, readGBin Ty.isInt .mulh⟩,
   ⟨2, 1, readGTri Ty.isInt .mad⟩]

/-- Minors of major 0x14. -/
def rows14 : List (MRow FRrr) :=
  [⟨0, 1, readGBin Ty.isInt .div⟩,
   ⟨1, 1, readGBin Ty.isInt .rem⟩]

/-- Minors of major 0x15. -/
def rows15 : List (MRow FRrr) :=
  [⟨0, 1, readMCmp Ty.isInt .ceq⟩,
   ⟨1, 1, readMCmp Ty.isInt .cne⟩,
   ⟨2, 1, readMCmp Ty.isInt .clt⟩,
   ⟨3, 1, readMCmp Ty.isInt .cle⟩,
   ⟨4, 1, readMCmp Ty.isInt .cgt⟩,
   ⟨5, 1, readMCmp Ty.isInt .cge⟩,
   ⟨6, 1, readMCmp Ty.isInt .ctst⟩,
   ⟨7, 1, readMCmp Ty.isInt .ctstz⟩]

/-- Minors of major 0x16. -/
def rows16 : List (MRow FRrr) :=
  [⟨0, 1, readGSel Ty.isInt .sel⟩,
   ⟨1, 1, readGTri Ty.isInt .selz⟩]

/-- Minors of major 0x17. -/
def rows17 : List (MRow FRrr) :=
  [⟨0, 1, readGUn Ty.isInt .popc⟩,
   ⟨1, 1, readGUn Ty.isInt .clz⟩,
   ⟨2, 1, readGUn Ty.isInt .ctz⟩,
   ⟨3, 1, readGUn Ty.isInt .brev⟩,
   ⟨4, 1, readGUn Ty.isInt .bswap⟩,
   ⟨5, 1, readGBin Ty.isInt .bext⟩,
   ⟨6, 1, readGTri Ty.isInt .bins⟩]

/-- Minors of major 0x18. -/
def rows18 : List (MRow FRrr) :=
  [⟨0, 1, readGBin Ty.isInt .min⟩,
   ⟨1, 1, readGBin Ty.isInt .max⟩,
   ⟨2, 1, readGTri Ty.isInt .clamp⟩]

/-- Minors of major 0x19. -/
def rows19 : List (MRow FRrr) :=
  [⟨0, 1, readGTri Ty.isD .lea⟩,
   ⟨1, 1, readGBin Ty.isD .lcell⟩,
   ⟨2, 1, readGBin Ty.isD .lslice⟩]

/-- Minors of major 0x40. -/
def rows40 : List (MRow FRrr) :=
  [⟨0, 1, readVBin Ty.isInt .vaddInt⟩,
   ⟨1, 1, readVBin Ty.isInt .vsubInt⟩,
   ⟨2, 1, readVUn Ty.isInt .vnegInt⟩,
   ⟨3, 1, readVUn Ty.isInt .vabsInt⟩,
   ⟨4, 1, readVBin Ty.isInt .vadds⟩,
   ⟨5, 1, readVBin Ty.isInt .vsubs⟩,
   ⟨6, 1, readVBin Ty.isInt .vmulInt⟩,
   ⟨7, 1, readVBin Ty.isInt .vmulh⟩,
   ⟨8, 1, readVTri Ty.isInt .vmad⟩,
   ⟨9, 1, readVBin Ty.isInt .vminInt⟩,
   ⟨10, 1, readVBin Ty.isInt .vmaxInt⟩]

/-- Minors of major 0x41. -/
def rows41 : List (MRow FRrr) :=
  [⟨0, 1, readVBin Ty.isInt .vand⟩,
   ⟨1, 1, readVBin Ty.isInt .vor⟩,
   ⟨2, 1, readVBin Ty.isInt .vxor⟩,
   ⟨3, 1, readVBin Ty.isInt .vandn⟩,
   ⟨4, 1, readVUn Ty.isInt .vnot⟩,
   ⟨8, 1, readVBin Ty.isInt .vshl⟩,
   ⟨9, 1, readVBin Ty.isInt .vshr⟩,
   ⟨10, 1, readVBin Ty.isInt .vsar⟩]

/-- Minors of major 0x42. -/
def rows42 : List (MRow FRrr) :=
  [⟨0, 1, readVCmp Ty.isCmp .vceq⟩,
   ⟨1, 1, readVCmp Ty.isCmp .vcne⟩,
   ⟨2, 1, readVCmp Ty.isCmp .vclt⟩,
   ⟨3, 1, readVCmp Ty.isCmp .vcle⟩,
   ⟨4, 1, readVCmp Ty.isCmp .vcgt⟩,
   ⟨5, 1, readVCmp Ty.isCmp .vcge⟩,
   ⟨8, 1, readVSel Ty.isRaw .vsel⟩]

/-- Minors of major 0x43. -/
def rows43 : List (MRow FRrr) :=
  [⟨0, 1, readMBin .mand⟩,
   ⟨1, 1, readMBin .mor⟩,
   ⟨2, 1, readMBin .mxor⟩,
   ⟨3, 1, readMBin .mandn⟩,
   ⟨4, 1, readMUn .mnot⟩,
   ⟨8, 1, readMToG .mpopc⟩,
   ⟨9, 1, readMToG .mfirst⟩,
   ⟨10, 1, readMFromG .mfromg⟩,
   ⟨11, 1, readMToG .mtog⟩]

/-- Minors of major 0x48. -/
def rows48 : List (MRow FRrr) :=
  [⟨0, 1, readVFBin true .vaddFp⟩,
   ⟨1, 1, readVFBin true .vsubFp⟩,
   ⟨2, 1, readVFBin true .vmulFp⟩,
   ⟨3, 1, readVFBin false .vminFp⟩,
   ⟨4, 1, readVFBin false .vmaxFp⟩,
   ⟨5, 1, readVFUn false .vabsFp⟩,
   ⟨6, 1, readVFUn false .vnegFp⟩]

/-- Minors of major 0x49. -/
def rows49 : List (MRow FRrr) :=
  [⟨0, 1, readVFTri .vfma⟩,
   ⟨1, 1, readVFTri .vfms⟩,
   ⟨2, 1, readVFTri .vfnma⟩,
   ⟨3, 1, readVFTri .vfnms⟩]

/-- Minors of major 0x4A. -/
def rows4A : List (MRow FRrr) :=
  [⟨0, 1, readVFBin true .vdiv⟩,
   ⟨1, 1, readVFUn true .vsqrt⟩,
   ⟨2, 1, readVFUn true .vexp⟩,
   ⟨3, 1, readVFUn true .vlog⟩,
   ⟨4, 1, readVFUn true .vexp2⟩,
   ⟨5, 1, readVFUn true .vlog2⟩,
   ⟨6, 1, readVFUn true .vtanh⟩]

/-- Minors of major 0x4B. -/
def rows4B : List (MRow FRrr) :=
  [⟨0, 1, readVFUn false .vrcpe⟩,
   ⟨1, 1, readVFUn false .vrsqrte⟩,
   ⟨2, 1, readVFUn false .vexpe⟩,
   ⟨3, 1, readVFUn false .vloge⟩,
   ⟨4, 1, readVFUn false .vtanhe⟩,
   ⟨5, 1, readVFUn false .vsigme⟩]

/-- Minors of major 0x4C. -/
def rows4C : List (MRow FRrr) :=
  [⟨0, 256, readVCvt .vcvt⟩]

/-- Minors of major 0x4D. -/
def rows4D : List (MRow FRrr) :=
  [⟨0, 1, readVbfpx .vbfpx⟩,
   ⟨1, 1, readVbfpe false .vbfpe⟩,
   ⟨2, 1, readVbfpe true .vbfpeHi⟩,
   ⟨16, 8, readVbfpd .vbfpd⟩]

/-- Minors of major 0x4E. -/
def rows4E : List (MRow FRrr) :=
  [⟨0, 1, readVBin Ty.isRaw .vperm⟩,
   ⟨1, 1, readVTri Ty.isRaw .vperm2⟩,
   ⟨2, 1, readVSlide Ty.isRaw .vslide⟩,
   ⟨3, 1, readVBin Ty.isRaw .vzipl⟩,
   ⟨4, 1, readVBin Ty.isRaw .vziph⟩,
   ⟨5, 1, readVBin Ty.isRaw .vuzpe⟩,
   ⟨6, 1, readVBin Ty.isRaw .vuzpo⟩]

/-- Minors of major 0x4F. -/
def rows4F : List (MRow FRrr) :=
  [⟨0, 1, readVRed Ty.isCmp true .vrsum⟩,
   ⟨1, 1, readVRed Ty.isCmp false .vrmin⟩,
   ⟨2, 1, readVRed Ty.isCmp false .vrmax⟩,
   ⟨3, 1, readVRed Ty.isInt false .vrand⟩,
   ⟨4, 1, readVRed Ty.isInt false .vror⟩]

/-- Minors of major 0x50. -/
def rows50 : List (MRow FRrr) :=
  [⟨0, 1, readRngOp .rng⟩,
   ⟨1, 1, readVRngOp .vrng⟩]

/-- Minors of major 0x51. -/
def rows51 : List (MRow FRrr) :=
  [⟨0, 1, readVIns .vins⟩,
   ⟨1, 1, readVExt .vext⟩,
   ⟨2, 1, readVUn Ty.isRaw .vmov⟩]

/-- Minors of major 0x60. -/
def rows60 : List (MRow FRrr) :=
  [⟨0, 1, readFBin true .fadd⟩,
   ⟨1, 1, readFBin true .fsub⟩,
   ⟨2, 1, readFBin true .fmul⟩,
   ⟨3, 1, readFBin false .fmin⟩,
   ⟨4, 1, readFBin false .fmax⟩,
   ⟨5, 1, readFUn false .fabs⟩,
   ⟨6, 1, readFUn false .fneg⟩]

/-- Minors of major 0x61. -/
def rows61 : List (MRow FRrr) :=
  [⟨0, 1, readFTri .ffma⟩,
   ⟨1, 1, readFTri .ffms⟩,
   ⟨2, 1, readFTri .ffnma⟩,
   ⟨3, 1, readFTri .ffnms⟩]

/-- Minors of major 0x62. -/
def rows62 : List (MRow FRrr) :=
  [⟨0, 1, readFBin true .fdiv⟩,
   ⟨1, 1, readFUn true .fsqrt⟩,
   ⟨2, 1, readFUn true .fexp⟩,
   ⟨3, 1, readFUn true .flog⟩,
   ⟨4, 1, readFUn true .fexp2⟩,
   ⟨5, 1, readFUn true .flog2⟩]

/-- Minors of major 0x63. -/
def rows63 : List (MRow FRrr) :=
  [⟨0, 1, readFCmp .fceq⟩,
   ⟨1, 1, readFCmp .fcne⟩,
   ⟨2, 1, readFCmp .fclt⟩,
   ⟨3, 1, readFCmp .fcle⟩,
   ⟨4, 1, readFCmp .fcgt⟩,
   ⟨5, 1, readFCmp .fcge⟩,
   ⟨16, 16, readFCvt .fcvt⟩]

/-- Rows of the majors of this format. -/
def rrrRows (major : Nat) : List (MRow FRrr) :=
  match major with
  | 0x10 => rows10
  | 0x11 => rows11
  | 0x12 => rows12
  | 0x13 => rows13
  | 0x14 => rows14
  | 0x15 => rows15
  | 0x16 => rows16
  | 0x17 => rows17
  | 0x18 => rows18
  | 0x19 => rows19
  | 0x40 => rows40
  | 0x41 => rows41
  | 0x42 => rows42
  | 0x43 => rows43
  | 0x48 => rows48
  | 0x49 => rows49
  | 0x4A => rows4A
  | 0x4B => rows4B
  | 0x4C => rows4C
  | 0x4D => rows4D
  | 0x4E => rows4E
  | 0x4F => rows4F
  | 0x50 => rows50
  | 0x51 => rows51
  | 0x60 => rows60
  | 0x61 => rows61
  | 0x62 => rows62
  | 0x63 => rows63
  | _ => []

/-- Minors of major 0x20. -/
def rows20 : List (MRow FRri) :=
  [⟨0, 1, readGImm Ty.isInt .addImm⟩,
   ⟨1, 1, readGImm Ty.isInt .subImm⟩,
   ⟨4, 1, readGImm Ty.isInt .addsImm⟩,
   ⟨5, 1, readGImm Ty.isInt .subsImm⟩,
   ⟨7, 1, readGImm Ty.isInt .rsub⟩]

/-- Minors of major 0x21. -/
def rows21 : List (MRow FRri) :=
  [⟨0, 1, readGImm Ty.isInt .andImm⟩,
   ⟨1, 1, readGImm Ty.isInt .orImm⟩,
   ⟨2, 1, readGImm Ty.isInt .xorImm⟩,
   ⟨3, 1, readGImm Ty.isInt .andnImm⟩,
   ⟨4, 1, readGImm Ty.isInt .ornImm⟩,
   ⟨5, 1, readGImm Ty.isInt .xnorImm⟩]

/-- Minors of major 0x22. -/
def rows22 : List (MRow FRri) :=
  [⟨0, 1, readGImm Ty.isInt .shlImm⟩,
   ⟨1, 1, readGImm Ty.isInt .shrImm⟩,
   ⟨2, 1, readGImm Ty.isInt .sarImm⟩,
   ⟨3, 1, readGImm Ty.isInt .rolImm⟩,
   ⟨4, 1, readGImm Ty.isInt .rorImm⟩]

/-- Minors of major 0x23. -/
def rows23 : List (MRow FRri) :=
  [⟨0, 1, readMImm Ty.isInt .ceqImm⟩,
   ⟨1, 1, readMImm Ty.isInt .cneImm⟩,
   ⟨2, 1, readMImm Ty.isInt .cltImm⟩,
   ⟨3, 1, readMImm Ty.isInt .cleImm⟩,
   ⟨4, 1, readMImm Ty.isInt .cgtImm⟩,
   ⟨5, 1, readMImm Ty.isInt .cgeImm⟩,
   ⟨6, 1, readMImm Ty.isInt .ctstImm⟩,
   ⟨7, 1, readMImm Ty.isInt .ctstzImm⟩]

/-- Minors of major 0x24. -/
def rows24 : List (MRow FRri) :=
  [⟨0, 1, readGMovI .movi⟩,
   ⟨1, 1, readGMovI .movzi⟩,
   ⟨2, 1, readGMovI .movhi⟩]

/-- Minors of major 0x25. -/
def rows25 : List (MRow FRri) :=
  [⟨0, 1, readGImm Ty.isD .leai⟩,
   ⟨1, 1, readGMovI .leapc⟩]

/-- Minors of major 0x44. -/
def rows44 : List (MRow FRri) :=
  [⟨0, 1, readVBcstI Ty.isCmp .vbcsti⟩,
   ⟨1, 1, readVBcst Ty.isCmp .vbcst⟩]

/-- Rows of the majors of this format. -/
def rriRows (major : Nat) : List (MRow FRri) :=
  match major with
  | 0x20 => rows20
  | 0x21 => rows21
  | 0x22 => rows22
  | 0x23 => rows23
  | 0x24 => rows24
  | 0x25 => rows25
  | 0x44 => rows44
  | _ => []

/-- Minors of major 0x30. -/
def rows30 : List (MRow FBr) :=
  [⟨0, 1, readBRel .br⟩,
   ⟨1, 1, readBCond .bz⟩,
   ⟨2, 1, readBCond .bnz⟩,
   ⟨3, 1, readBCond .blz⟩,
   ⟨4, 1, readBCond .bgez⟩,
   ⟨5, 1, readBReg .jr⟩]

/-- Minors of major 0x31. -/
def rows31 : List (MRow FBr) :=
  [⟨0, 1, readBRel .call⟩,
   ⟨1, 1, readBReg .callr⟩,
   ⟨2, 1, readHBr .ret⟩]

/-- Minors of major 0x32. -/
def rows32 : List (MRow FBr) :=
  [⟨0, 1, readBLoop .loop⟩,
   ⟨1, 1, readHBr .lbrk⟩]

/-- Minors of major 0x33. -/
def rows33 : List (MRow FBr) :=
  [⟨0, 1, readHGang .gdet⟩,
   ⟨1, 1, readHGang .gjoin⟩]

/-- Rows of the majors of this format. -/
def brRows (major : Nat) : List (MRow FBr) :=
  match major with
  | 0x30 => rows30
  | 0x31 => rows31
  | 0x32 => rows32
  | 0x33 => rows33
  | _ => []

/-- Minors of major 0x70. -/
def rows70 : List (MRow FMem) :=
  [⟨0, 1, readMemLd Ty.isLd .ld⟩,
   ⟨1, 1, readMemLdV Ty.isLd .ldv⟩,
   ⟨2, 1, readMemLdV Ty.isLd .ldvb⟩]

/-- Minors of major 0x71. -/
def rows71 : List (MRow FMem) :=
  [⟨0, 1, readMemSt Ty.isLd .st⟩,
   ⟨1, 1, readMemStV Ty.isLd .stv⟩]

/-- Minors of major 0x72. -/
def rows72 : List (MRow FMem) :=
  [⟨0, 1, readMemLd Ty.isF32 .ldf⟩,
   ⟨1, 1, readMemLd Ty.isF32 .ldfh⟩,
   ⟨2, 1, readMemLdV Ty.isF32 .ldfv⟩,
   ⟨3, 1, readMemLd Ty.isLd .ldr⟩,
   ⟨4, 1, readMemLdV Ty.isLd .ldrv⟩,
   ⟨5, 1, readMemLd Ty.isH .ldrx⟩]

/-- Minors of major 0x73. -/
def rows73 : List (MRow FMem) :=
  [⟨0, 1, readMemLdS .ldAcq⟩,
   ⟨1, 1, readMemStS .stRel⟩]

/-- Minors of major 0x74. -/
def rows74 : List (MRow FMem) :=
  [⟨0, 1, readMemSt Ty.isLd .sts⟩,
   ⟨1, 1, readMemStV Ty.isLd .stsv⟩]

/-- Minors of major 0x75. -/
def rows75 : List (MRow FMem) :=
  [⟨0, 1, readGather .vgather⟩,
   ⟨1, 1, readScatter .vscatter⟩]

/-- Minors of major 0x76. -/
def rows76 : List (MRow FMem) :=
  [⟨0, 1, readPrefetch .pft⟩,
   ⟨1, 1, readPrefetch .pfh⟩]

/-- Minors of major 0x77. -/
def rows77 : List (MRow FMem) :=
  [⟨0, 1, readAmo Ty.isAmoInt false .amoSwap⟩,
   ⟨1, 1, readAmo Ty.isAmoNum false .amoAdd⟩,
   ⟨2, 1, readAmo Ty.isAmoInt false .amoAnd⟩,
   ⟨3, 1, readAmo Ty.isAmoInt false .amoOr⟩,
   ⟨4, 1, readAmo Ty.isAmoInt false .amoXor⟩,
   ⟨5, 1, readAmo Ty.isAmoNum false .amoMin⟩,
   ⟨6, 1, readAmo Ty.isAmoNum false .amoMax⟩,
   ⟨7, 1, readAmo Ty.isAmoInt false .cas⟩,
   ⟨128, 1, readAmo Ty.isAmoInt true .amoSwap⟩,
   ⟨129, 1, readAmo Ty.isAmoNum true .amoAdd⟩,
   ⟨130, 1, readAmo Ty.isAmoInt true .amoAnd⟩,
   ⟨131, 1, readAmo Ty.isAmoInt true .amoOr⟩,
   ⟨132, 1, readAmo Ty.isAmoInt true .amoXor⟩,
   ⟨133, 1, readAmo Ty.isAmoNum true .amoMin⟩,
   ⟨134, 1, readAmo Ty.isAmoNum true .amoMax⟩,
   ⟨135, 1, readAmo Ty.isAmoInt true .cas⟩]

/-- Minors of major 0x78. -/
def rows78 : List (MRow FMem) :=
  [⟨1, 1, readRedG Ty.isAmoNum .redAdd⟩,
   ⟨2, 1, readRedG Ty.isAmoInt .redAnd⟩,
   ⟨3, 1, readRedG Ty.isAmoInt .redOr⟩,
   ⟨4, 1, readRedG Ty.isAmoInt .redXor⟩,
   ⟨5, 1, readRedG Ty.isAmoNum .redMin⟩,
   ⟨6, 1, readRedG Ty.isAmoNum .redMax⟩,
   ⟨17, 1, readRedV Ty.isAmoNum true .redAdd⟩,
   ⟨18, 1, readRedV Ty.isAmoInt false .redAnd⟩,
   ⟨19, 1, readRedV Ty.isAmoInt false .redOr⟩,
   ⟨20, 1, readRedV Ty.isAmoInt false .redXor⟩,
   ⟨21, 1, readRedV Ty.isAmoNum true .redMin⟩,
   ⟨22, 1, readRedV Ty.isAmoNum true .redMax⟩]

/-- Minors of major 0x79. -/
noncomputable def rows79 : List (MRow FMem) :=
  [⟨0, 1, readAmo2 .amo2Swap⟩,
   ⟨1, 1, readAmo2 .amo2Add⟩,
   ⟨2, 1, readAmo2 .amo2And⟩,
   ⟨3, 1, readAmo2 .amo2Or⟩,
   ⟨4, 1, readAmo2 .amo2Xor⟩,
   ⟨8, 1, readAmo2 .dcas⟩,
   ⟨9, 1, readAmove .amove⟩]

/-- Minors of major 0x7A. -/
noncomputable def rows7A : List (MRow FMem) :=
  [⟨0, 1, readHMem .fenceAcq⟩,
   ⟨1, 1, readFenceS .fenceRel⟩,
   ⟨2, 1, readFenceS .fenceFull⟩]

/-- Minors of major 0x7B. -/
noncomputable def rows7B : List (MRow FMem) :=
  [⟨0, 1, readWaitAddr .waitaddr⟩,
   ⟨1, 1, readEvSig .evsig⟩,
   ⟨2, 1, readEvWait .evwait⟩]

/-- Minors of major 0x7C. -/
noncomputable def rows7C : List (MRow FMem) :=
  [⟨0, 1, readSend .send⟩,
   ⟨1, 1, readSendV .sendv⟩,
   ⟨2, 1, readSendRel .sendRel⟩,
   ⟨8, 1, readRecv .recv⟩,
   ⟨9, 1, readRecvV .recvv⟩,
   ⟨10, 1, readRecvAny .recvAny⟩,
   ⟨11, 1, readRecvVAny .recvvAny⟩]

/-- Minors of major 0x7D. -/
noncomputable def rows7D : List (MRow FMem) :=
  [⟨0, 1, readHMem .sstep⟩,
   ⟨1, 1, readBarOp .bar⟩,
   ⟨2, 1, readFprobe .fprobe⟩]

/-- Rows of the majors of this format. -/
noncomputable def memRows (major : Nat) : List (MRow FMem) :=
  match major with
  | 0x70 => rows70
  | 0x71 => rows71
  | 0x72 => rows72
  | 0x73 => rows73
  | 0x74 => rows74
  | 0x75 => rows75
  | 0x76 => rows76
  | 0x77 => rows77
  | 0x78 => rows78
  | 0x79 => rows79
  | 0x7A => rows7A
  | 0x7B => rows7B
  | 0x7C => rows7C
  | 0x7D => rows7D
  | _ => []

/-- Minors of major 0x80. -/
def rows80 : List (MRow FMat) :=
  [⟨0, 1, readMatAcc .mzero⟩,
   ⟨1, 1, readMatRow .mrdrow⟩,
   ⟨2, 1, readMatWRow .mwrrow⟩,
   ⟨3, 1, readMatAcc .mmov⟩]

/-- Minors of major 0x81. -/
def rows81 : List (MRow FMat) :=
  [⟨0, 1, readMmaOp .mma⟩]

/-- Minors of major 0x82. -/
def rows82 : List (MRow FMat) :=
  [⟨0, 1, readMasel .masel⟩,
   ⟨1, 1, readMasx .masx⟩,
   ⟨2, 1, readMbsel .mbsel⟩]

/-- Minors of major 0x83. -/
def rows83 : List (MRow FMat) :=
  [⟨0, 1, readMdrainOp .mdrain⟩]

/-- Rows of the majors of this format. -/
def matRows (major : Nat) : List (MRow FMat) :=
  match major with
  | 0x80 => rows80
  | 0x81 => rows81
  | 0x82 => rows82
  | 0x83 => rows83
  | _ => []

/-- Minors of major 0x90. -/
noncomputable def rows90 : List (MRow FEng) :=
  [⟨0, 1, readForkOp .fork⟩,
   ⟨1, 1, readRdv .rdv⟩,
   ⟨2, 1, readHRd .hwait⟩,
   ⟨3, 1, readHRd .hdet⟩]

/-- Minors of major 0x91. -/
noncomputable def rows91 : List (MRow FEng) :=
  [⟨0, 1, readHRd .htest⟩,
   ⟨1, 1, readHPass .hpass⟩,
   ⟨2, 1, readHCancel .hcancel⟩]

/-- Minors of major 0x92. -/
noncomputable def rows92 : List (MRow FEng) :=
  [⟨0, 1, readCpy .cpy⟩,
   ⟨1, 1, readCpy .cpyf⟩,
   ⟨2, 1, readCpyB .cpyb⟩,
   ⟨8, 1, readQFence .qfence⟩]

/-- Minors of major 0x93. -/
noncomputable def rows93 : List (MRow FEng) :=
  [⟨0, 1, readColl .coll⟩]

/-- Minors of major 0x94. -/
noncomputable def rows94 : List (MRow FEng) :=
  [⟨0, 1, readContend .contend⟩]

/-- Minors of major 0x95. -/
noncomputable def rows95 : List (MRow FEng) :=
  [⟨0, 1, readAfClaim .afclaim⟩,
   ⟨1, 1, readAfH .afcal⟩,
   ⟨2, 1, readAfA .afcfg⟩,
   ⟨3, 1, readAfScale .afscale⟩,
   ⟨4, 1, readAfH .afrun⟩,
   ⟨5, 1, readAfA .afsettle⟩,
   ⟨6, 1, readAfSample .afsample⟩,
   ⟨7, 1, readAfH .afstop⟩,
   ⟨8, 1, readAfH .afrel⟩]

/-- Rows of the majors of this format. -/
noncomputable def engRows (major : Nat) : List (MRow FEng) :=
  match major with
  | 0x90 => rows90
  | 0x91 => rows91
  | 0x92 => rows92
  | 0x93 => rows93
  | 0x94 => rows94
  | 0x95 => rows95
  | _ => []

/-- Minors of major 0xA0. -/
def rowsA0 : List (MRow FSys) :=
  [⟨0, 1, readSrRd .srrd⟩,
   ⟨1, 1, readSrWr .srwr⟩,
   ⟨2, 1, readSrWrI .srwri⟩]

/-- Minors of major 0xA1. -/
def rowsA1 : List (MRow FSys) :=
  [⟨0, 1, readTrapOp .trap⟩,
   ⟨1, 1, readHSys .halt⟩]

/-- Minors of major 0xA2. -/
noncomputable def rowsA2 : List (MRow FSys) :=
  [⟨0, 1, readCtxSave .ctxsave⟩,
   ⟨1, 1, readCtxLoad .ctxload⟩,
   ⟨2, 1, readMint .mint⟩,
   ⟨3, 1, readFret .fret⟩,
   ⟨4, 1, readTlbWr .tlbwr⟩,
   ⟨5, 1, readTlbInv .tlbinv⟩]

/-- Minors of major 0xA3. -/
noncomputable def rowsA3 : List (MRow FSys) :=
  [⟨0, 1, readSnap .snap⟩,
   ⟨1, 1, readMseal .mseal⟩]

/-- Rows of the majors of this format. -/
noncomputable def sysRows (major : Nat) : List (MRow FSys) :=
  match major with
  | 0xA0 => rowsA0
  | 0xA1 => rowsA1
  | 0xA2 => rowsA2
  | 0xA3 => rowsA3
  | _ => []

/-- `nop`: every field other than the stall count is zero (R190). -/
def readNop (w : IWord) : Except Reason Instr :=
  if w.setWidth 84 == 0 then .ok (.nop (hdrOf w)) else .error .nopField

def readBy {φ : Type} (rows : List (MRow φ)) (minor : BitVec 8) (f : φ) : Except Reason Instr :=
  match findRow rows minor with
  | none => .error .unassignedMinor
  | some r => (r.read f).toExcept

/-- Formats of the major opcodes (R185). -/
inductive Format
  | nop | rrr | rri | mem | br | mat | eng | sys
  deriving DecidableEq, Repr

/-- The format of a major opcode; `none` is a reserved major (R185, R187, R189). -/
def formatOf (major : Nat) : Option Format :=
  if major = 0 then some .nop
  else if 0x10 ≤ major && major ≤ 0x19 then some .rrr
  else if 0x20 ≤ major && major ≤ 0x25 then some .rri
  else if 0x30 ≤ major && major ≤ 0x33 then some .br
  else if 0x40 ≤ major && major ≤ 0x43 then some .rrr
  else if major = 0x44 then some .rri
  else if 0x48 ≤ major && major ≤ 0x51 then some .rrr
  else if 0x60 ≤ major && major ≤ 0x63 then some .rrr
  else if 0x70 ≤ major && major ≤ 0x7D then some .mem
  else if 0x80 ≤ major && major ≤ 0x83 then some .mat
  else if 0x90 ≤ major && major ≤ 0x95 then some .eng
  else if 0xA0 ≤ major && major ≤ 0xA3 then some .sys
  else none

/-- The instruction of a word, or the lowest reason that applies to it (R187, R188). -/
noncomputable def decode (w : IWord) : Except Reason Instr :=
  let major := (majorOf w).toNat
  match formatOf major with
  | none => .error .reservedMajor
  | some .nop => readNop w
  | some .rrr => readBy (rrrRows major) (FRrr.of w).minor (FRrr.of w)
  | some .rri => readBy (rriRows major) (FRri.of w).minor (FRri.of w)
  | some .br => readBy (brRows major) (FBr.of w).minor (FBr.of w)
  | some .mem => readBy (memRows major) (FMem.of w).minor (FMem.of w)
  | some .mat => readBy (matRows major) (FMat.of w).minor (FMat.of w)
  | some .eng => readBy (engRows major) (FEng.of w).minor (FEng.of w)
  | some .sys => readBy (sysRows major) (FSys.of w).minor (FSys.of w)

/-- What decoding bytes can find wrong. -/
inductive DecodeError
  /-- fewer than the 12 bytes of an instruction -/
  | short
  /-- an illegal encoding, with its reason (R187) -/
  | illegal (r : Reason)
  deriving DecidableEq, Repr

/-- The little-endian number of a list of bytes (R8). -/
def bytesToNat : List Byte → Nat
  | [] => 0
  | b :: bs => b.toNat + 256 * bytesToNat bs

/-- The instruction at the head of a list of bytes and the bytes after it (R8, R171). -/
noncomputable def decodeBytes (bs : List Byte) : Except DecodeError (Instr × List Byte) :=
  if bs.length < 12 then .error .short
  else
    match decode (BitVec.ofNat 96 (bytesToNat (bs.take 12))) with
    | .error r => .error (.illegal r)
    | .ok i => .ok (i, bs.drop 12)

/-- The `n` low bytes of a number, lowest first (R8). -/
def natToBytes : Nat → Nat → List Byte
  | 0, _ => []
  | n + 1, x => BitVec.ofNat 8 x :: natToBytes n (x / 256)

/-- The instruction of a word given as the opcode table numbers its bits: the first word is the whole 96-bit
instruction, bit 0 the lowest bit of its first byte. -/
noncomputable def decodeTableWord (nbits w : Nat) : Option Instr :=
  match decodeBytes (natToBytes 12 (w % 2 ^ nbits)) with
  | .ok (i, _) => some i
  | .error _ => none

/-! ### The encoder -/

def tyBits (t : Ty) : BitVec 4 := t.code

/-- A head with a destination and a g or v source. -/
def headG (d : BitVec 6) (s : GSrc) : Head := ⟨specG d, s.spec, s.mod⟩
def headM (d : BitVec 3) (s : GSrc) : Head := ⟨specM d, s.spec, s.mod⟩
def headV (d : BitVec 5) (s : VSrc) : Head := ⟨specV d, s.spec, s.mod⟩
def srcG (s : GSrc) : SrcB := ⟨s.spec, s.mod⟩
def srcV (s : VSrc) : SrcB := ⟨s.spec, s.mod⟩
def srcGR (g : GReg) : SrcB := ⟨g.spec, g.mod⟩
def srcVR (v : VReg) : SrcB := ⟨v.spec, v.mod⟩
def headA (g : GReg) : Head := ⟨0, g.spec, g.mod⟩
def headDA (d : BitVec 8) (g : GReg) : Head := ⟨d, g.spec, g.mod⟩

def putGBin (M m : BitVec 8) (h : Hdr) (o : GBin) : IWord :=
  (FRrr.mk h (headG o.d o.a) (srcG o.b) (tyBits o.ty) 0 m 0 0).word M
def putGUn (M m : BitVec 8) (h : Hdr) (o : GUn) : IWord :=
  (FRrr.mk h (headG o.d o.a) .none (tyBits o.ty) 0 m 0 0).word M
def putGTri (M m : BitVec 8) (h : Hdr) (o : GTri) : IWord :=
  (FRrr.mk h (headG o.d o.a) (srcG o.b) (tyBits o.ty) (specG o.c) m 0 0).word M
def putMCmp (M m : BitVec 8) (h : Hdr) (o : MCmp) : IWord :=
  (FRrr.mk h (headM o.d o.a) (srcG o.b) (tyBits o.ty) 0 m 0 0).word M
def putGSel (M m : BitVec 8) (h : Hdr) (o : GSel) : IWord :=
  (FRrr.mk h (headG o.d o.a) (srcG o.b) (tyBits o.ty) (specM o.c) m 0 0).word M
def putVBin (M m : BitVec 8) (h : Hdr) (o : VBin) : IWord :=
  (FRrr.mk h (headV o.d o.a) (srcV o.b) (tyBits o.ty) 0 m 0 0).word M
def putVUn (M m : BitVec 8) (h : Hdr) (o : VUn) : IWord :=
  (FRrr.mk h (headV o.d o.a) .none (tyBits o.ty) 0 m 0 0).word M
def putVTri (M m : BitVec 8) (h : Hdr) (o : VTri) : IWord :=
  (FRrr.mk h (headV o.d o.a) (srcV o.b) (tyBits o.ty) (specV o.c) m 0 0).word M
def putVCmp (M m : BitVec 8) (h : Hdr) (o : VCmp) : IWord :=
  (FRrr.mk h ⟨specM o.d, o.a.spec, o.a.mod⟩ (srcV o.b) (tyBits o.ty) 0 m 0 0).word M
def putVSel (M m : BitVec 8) (h : Hdr) (o : VSel) : IWord :=
  (FRrr.mk h (headV o.d o.a) (srcV o.b) (tyBits o.ty) (specM o.c) m 0 0).word M
def putMBin (M m : BitVec 8) (h : Hdr) (o : MBin) : IWord :=
  (FRrr.mk h ⟨specM o.d, specM o.a, 0⟩ ⟨specM o.b, 0⟩ 2 0 m 0 0).word M
def putMUn (M m : BitVec 8) (h : Hdr) (o : MUn) : IWord :=
  (FRrr.mk h ⟨specM o.d, specM o.a, 0⟩ .none 2 0 m 0 0).word M
def putMToG (M m : BitVec 8) (h : Hdr) (o : MToG) : IWord :=
  (FRrr.mk h ⟨specG o.d, specM o.a, 0⟩ .none 2 0 m 0 0).word M
def putMFromG (M m : BitVec 8) (h : Hdr) (o : MFromG) : IWord :=
  (FRrr.mk h (headDA (specM o.d) o.a) .none 2 0 m 0 0).word M
def putVFBin (M m : BitVec 8) (h : Hdr) (o : VFBin) : IWord :=
  (FRrr.mk h (headV o.d o.a) (srcV o.b) (tyBits o.ty) 0 m o.rm.code 0).word M
def putVFUn (M m : BitVec 8) (h : Hdr) (o : VFUn) : IWord :=
  (FRrr.mk h (headV o.d o.a) .none (tyBits o.ty) 0 m o.rm.code 0).word M
def putVFTri (M m : BitVec 8) (h : Hdr) (o : VFTri) : IWord :=
  (FRrr.mk h (headV o.d o.a) (srcV o.b) (tyBits o.ty) (specV o.c) m o.rm.code 0).word M
def putVCvt (M : BitVec 8) (h : Hdr) (o : VCvt) : IWord :=
  (FRrr.mk h (headV o.d o.a) .none (tyBits o.ty) 0 (o.part ++ o.src.code) o.rm.code 0).word M
def putVbfpx (M m : BitVec 8) (h : Hdr) (o : Vbfpx) : IWord :=
  (FRrr.mk h ⟨specG o.d, specV o.base, 0⟩ .none (tyBits o.ty) 0 m 0 0).word M
def putVbfpe (M m : BitVec 8) (h : Hdr) (o : Vbfpe) : IWord :=
  (FRrr.mk h ⟨specV o.d, specV o.base, 0⟩ (srcGR o.b) (tyBits o.ty) 0 m o.rm.code 0).word M
def putVbfpd (M : BitVec 8) (h : Hdr) (o : Vbfpd) : IWord :=
  (FRrr.mk h ⟨specV o.d, o.a.spec, o.a.mod⟩ (srcGR o.b) (tyBits o.ty) 0 (2#5 ++ o.n) 0 0).word M
def putVSlide (M m : BitVec 8) (h : Hdr) (o : VSlide) : IWord :=
  (FRrr.mk h (headV o.d o.a) (srcG o.b) (tyBits o.ty) (specV o.c) m 0 0).word M
def putVRed (M m : BitVec 8) (h : Hdr) (o : VRed) : IWord :=
  (FRrr.mk h ⟨specG o.d, o.a.spec, o.a.mod⟩ .none (tyBits o.ty) 0 m o.rm.code 0).word M
def putRngOp (M m : BitVec 8) (h : Hdr) (o : RngOp) : IWord :=
  (FRrr.mk h (headG o.d o.a) (srcG o.b) 3 0 m 0 0).word M
def putVRngOp (M m : BitVec 8) (h : Hdr) (o : VRngOp) : IWord :=
  (FRrr.mk h ⟨specV o.d, o.a.spec, o.a.mod⟩ (srcG o.b) 3 0 m 0 0).word M
def putVIns (M m : BitVec 8) (h : Hdr) (o : VIns) : IWord :=
  (FRrr.mk h (headDA (specV o.d) o.a) (srcG o.b) (tyBits o.ty) 0 m 0 0).word M
def putVExt (M m : BitVec 8) (h : Hdr) (o : VExt) : IWord :=
  (FRrr.mk h ⟨specG o.d, o.a.spec, o.a.mod⟩ (srcG o.b) (tyBits o.ty) 0 m 0 0).word M
def putFBin (M m : BitVec 8) (h : Hdr) (o : FBin) : IWord :=
  (FRrr.mk h ⟨specG o.d, o.a.spec, 0⟩ ⟨o.b.spec, 0⟩ 8 0 m o.rm.code 0).word M
def putFUn (M m : BitVec 8) (h : Hdr) (o : FUn) : IWord :=
  (FRrr.mk h ⟨specG o.d, o.a.spec, 0⟩ .none 8 0 m o.rm.code 0).word M
def putFTri (M m : BitVec 8) (h : Hdr) (o : FTri) : IWord :=
  (FRrr.mk h ⟨specG o.d, o.a.spec, 0⟩ ⟨o.b.spec, 0⟩ 8 (specG o.c) m o.rm.code 0).word M
def putFCmp (M m : BitVec 8) (h : Hdr) (o : FCmp) : IWord :=
  (FRrr.mk h ⟨specM o.d, o.a.spec, 0⟩ ⟨o.b.spec, 0⟩ 8 0 m 0 0).word M
def putFCvt (M : BitVec 8) (h : Hdr) (o : FCvt) : IWord :=
  (FRrr.mk h ⟨specG o.d, o.a.spec, 0⟩ .none (tyBits o.ty) 0 (1#4 ++ o.src.code) o.rm.code 0).word M
def putGImm (M m : BitVec 8) (h : Hdr) (o : GImm) : IWord :=
  (FRri.mk h (headG o.d o.a) m (tyBits o.ty) 0 0 o.imm).word M
def putMImm (M m : BitVec 8) (h : Hdr) (o : MImm) : IWord :=
  (FRri.mk h (headM o.d o.a) m (tyBits o.ty) 0 0 o.imm).word M
def putGMovI (M m : BitVec 8) (h : Hdr) (o : GMovI) : IWord :=
  (FRri.mk h ⟨specG o.d, 0, 0⟩ m 3 0 0 o.imm).word M
def putVBcstI (M m : BitVec 8) (h : Hdr) (o : VBcstI) : IWord :=
  (FRri.mk h ⟨specV o.d, 0, 0⟩ m (tyBits o.ty) 0 0 o.imm).word M
def putVBcst (M m : BitVec 8) (h : Hdr) (o : VBcst) : IWord :=
  (FRri.mk h ⟨specV o.d, specG o.a, 0⟩ m (tyBits o.ty) 0 0 0).word M
def putBRel (M m : BitVec 8) (h : Hdr) (o : BRel) : IWord := (FBr.mk h .none m 0 o.disp o.slot).word M
def putBCond (M m : BitVec 8) (h : Hdr) (o : BCond) : IWord :=
  (FBr.mk h (headA o.a) m 0 o.t.disp o.t.slot).word M
def putBReg (M m : BitVec 8) (h : Hdr) (o : BReg) : IWord := (FBr.mk h (headA o.a) m 0 0 0).word M
def putBLoop (M m : BitVec 8) (h : Hdr) (o : BLoop) : IWord :=
  (FBr.mk h ⟨0, o.a.spec, o.a.mod⟩ m 0 o.t.disp o.t.slot).word M
def putHBr (M m : BitVec 8) (h : Hdr) : IWord := (FBr.mk h .none m 0 0 0).word M
def putHGang (M m : BitVec 8) (h : Hdr) : IWord := (FBr.mk h .none m 0 0 0).word M
def putSrRd (M m : BitVec 8) (h : Hdr) (o : SrRd) : IWord := (FSys.mk h ⟨specG o.d, 0, 0⟩ .none m o.sr 0).word M
def putSrWr (M m : BitVec 8) (h : Hdr) (o : SrWr) : IWord :=
  (FSys.mk h ⟨0, o.a.spec, o.a.mod⟩ .none m o.sr 0).word M
def putSrWrI (M m : BitVec 8) (h : Hdr) (o : SrWrI) : IWord := (FSys.mk h .none .none m o.sr o.imm).word M
def putTrapOp (M m : BitVec 8) (h : Hdr) (o : TrapOp) : IWord := (FSys.mk h .none .none m 0 o.code).word M
def putHSys (M m : BitVec 8) (h : Hdr) : IWord := (FSys.mk h .none .none m 0 0).word M
def putCtxSave (M m : BitVec 8) (h : Hdr) (o : CtxSave) : IWord :=
  (FSys.mk h (headDA (specG o.d) o.a) (srcGR o.b) m 0 (0#9 ++ BitVec.ofBool o.full ++ o.slot)).word M
def putCtxLoad (M m : BitVec 8) (h : Hdr) (o : CtxLoad) : IWord :=
  (FSys.mk h (headDA (specG o.d) o.a) (srcGR o.b) m 0
    (0#8 ++ BitVec.ofBool o.data ++ BitVec.ofBool o.own ++ o.slot)).word M
def putMint (M m : BitVec 8) (h : Hdr) (o : GReg2) : IWord := (FSys.mk h (headA o.a) (srcGR o.b) m 0 0).word M
def putFret (M m : BitVec 8) (h : Hdr) (o : Fret) : IWord :=
  (FSys.mk h (headDA (specG o.d) o.a) .none m 0 (0#10 ++ o.slot)).word M
def putTlbWr (M m : BitVec 8) (h : Hdr) (o : TlbWr) : IWord :=
  (FSys.mk h ⟨specG o.d, specG o.a, 0⟩ ⟨specG o.b, 0⟩ m 0 (o.dest ++ o.gen ++ o.c)).word M
def putTlbInv (M m : BitVec 8) (h : Hdr) (o : TlbInv) : IWord :=
  (FSys.mk h ⟨specG o.d, specG o.a, 0⟩ ⟨specG o.b, 0⟩ m 0 (0#8 ++ o.reach ++ o.kind)).word M
def putSnap (M m : BitVec 8) (h : Hdr) (o : DstG) : IWord := (FSys.mk h ⟨specG o.d, 0, 0⟩ .none m 0 0).word M
def putMseal (M m : BitVec 8) (h : Hdr) (o : Mseal) : IWord :=
  (FSys.mk h (headDA (specG o.d) o.a) (srcGR o.b) m 0 0).word M
def putMatAcc (M m : BitVec 8) (h : Hdr) (o : MatAcc) : IWord := (FMat.mk h .none .none m 0 0 0 o.acc 0).word M
def putMatRow (M m : BitVec 8) (h : Hdr) (o : MatRow) : IWord :=
  (FMat.mk h ⟨specV o.d, 0, 0⟩ .none m 9 0 0 o.acc (0#8 ++ o.row)).word M
def putMatWRow (M m : BitVec 8) (h : Hdr) (o : MatWRow) : IWord :=
  (FMat.mk h ⟨0, o.a.spec, o.a.mod⟩ .none m 9 0 0 o.acc (0#8 ++ o.row)).word M
def putMasel (M m : BitVec 8) (h : Hdr) (o : GReg2) : IWord :=
  (FMat.mk h (headA o.a) (srcGR o.b) m 0 0 0 false 0).word M
def putMasx (M m : BitVec 8) (h : Hdr) (o : BReg) : IWord := (FMat.mk h (headA o.a) .none m 0 0 0 false 0).word M
def putMbsel (M m : BitVec 8) (h : Hdr) (o : GSrc2) : IWord :=
  (FMat.mk h ⟨0, o.a.spec, o.a.mod⟩ (srcG o.b) m 0 0 0 false 0).word M
def putMmaOp (M m : BitVec 8) (h : Hdr) (o : MmaOp) : IWord :=
  (FMat.mk h .none .none m o.ta.code o.tb.code 0 o.acc o.nkb).word M
def putMdrainOp (M m : BitVec 8) (h : Hdr) (o : MdrainOp) : IWord :=
  (FMat.mk h (headA o.a) (srcGR o.b) m o.ty.code 0 o.rm.code o.acc
    (o.vr ++ o.vc ++ BitVec.ofBool o.nos ++ BitVec.ofBool o.zero)).word M
def putMemLd (M m : BitVec 8) (h : Hdr) (o : MemLd) : IWord :=
  (FMem.mk h (headDA (specG o.d) o.a) .none m (tyBits o.ty) 0 o.disp).word M
def putMemLdV (M m : BitVec 8) (h : Hdr) (o : MemLdV) : IWord :=
  (FMem.mk h (headDA (specV o.d) o.a) .none m (tyBits o.ty) 0 o.disp).word M
def putMemSt (M m : BitVec 8) (h : Hdr) (o : MemSt) : IWord :=
  (FMem.mk h (headA o.a) (srcG o.b) m (tyBits o.ty) 0 o.disp).word M
def putMemStV (M m : BitVec 8) (h : Hdr) (o : MemStV) : IWord :=
  (FMem.mk h (headA o.a) (srcVR o.b) m (tyBits o.ty) 0 o.disp).word M
def putMemLdS (M m : BitVec 8) (h : Hdr) (o : MemLdS) : IWord :=
  (FMem.mk h (headDA (specG o.d) o.a) .none m (tyBits o.ty) o.s o.disp).word M
def putMemStS (M m : BitVec 8) (h : Hdr) (o : MemStS) : IWord :=
  (FMem.mk h (headA o.a) (srcG o.b) m (tyBits o.ty) o.s o.disp).word M
def putGather (M m : BitVec 8) (h : Hdr) (o : Gather) : IWord :=
  (FMem.mk h (headDA (specV o.d) o.a) (srcVR o.idx) m (tyBits o.ty) 0 o.disp).word M
def putScatter (M m : BitVec 8) (h : Hdr) (o : Scatter) : IWord :=
  (FMem.mk h (headDA (specV o.data) o.a) (srcVR o.idx) m (tyBits o.ty) 0 o.disp).word M
def putPrefetch (M m : BitVec 8) (h : Hdr) (o : Prefetch) : IWord :=
  (FMem.mk h (headA o.a) .none m 0 0 o.disp).word M
/-- Bit [7] of the minor is `.ar` (R269). -/
def putAmo (M m : BitVec 8) (h : Hdr) (o : Amo) : IWord :=
  (FMem.mk h (headDA (specG o.d) o.a) (srcG o.b) (if o.ar then 0x80 ||| m else m) (tyBits o.ty) o.s o.disp).word M
/-- Bit [4] of the minor selects a v source (R270). -/
def putRed (M m : BitVec 8) (h : Hdr) (o : Red) : IWord :=
  match o.b with
  | .g b => (FMem.mk h (headA o.a) (srcG b) m (tyBits o.ty) 0 o.disp).word M
  | .v b => (FMem.mk h (headA o.a) (srcVR b) (0x10 ||| m) (tyBits o.ty) 0 o.disp).word M
def putAmo2 (M m : BitVec 8) (h : Hdr) (o : Amo2) : IWord :=
  (FMem.mk h (headDA (specG o.d) o.a) (srcG o.b) m (tyBits o.ty) o.s (o.a2 ++ 0#8)).word M
def putAmove (M m : BitVec 8) (h : Hdr) (o : Amove) : IWord :=
  (FMem.mk h (headDA (specG o.d) o.a) .none m (tyBits o.ty) o.s (o.a2 ++ 0#8)).word M
def putHMem (M m : BitVec 8) (h : Hdr) : IWord := (FMem.mk h .none .none m 0 0 0).word M
def putFenceS (M m : BitVec 8) (h : Hdr) (o : FenceS) : IWord := (FMem.mk h .none .none m 0 o.s 0).word M
def putWaitAddr (M m : BitVec 8) (h : Hdr) (o : WaitAddr) : IWord :=
  (FMem.mk h (headDA (specG o.d) o.a) (srcG o.b) m (tyBits o.ty) o.t o.disp).word M
def putEvSig (M m : BitVec 8) (h : Hdr) (o : EvSig) : IWord :=
  (FMem.mk h .none (srcG o.b) m 2 0 (0#10 ++ o.n)).word M
def putEvWait (M m : BitVec 8) (h : Hdr) (o : EvWait) : IWord :=
  (FMem.mk h ⟨specG o.d, 0, 0⟩ (srcG o.b) m 2 o.t (0#10 ++ o.n)).word M
def putSend (M m : BitVec 8) (h : Hdr) (o : Send) : IWord :=
  (FMem.mk h (headA o.r) (srcG o.b) m 3 0 o.tag).word M
def putSendV (M m : BitVec 8) (h : Hdr) (o : SendV) : IWord :=
  (FMem.mk h (headA o.r) (srcVR o.b) m 3 0 o.tag).word M
def putSendRel (M m : BitVec 8) (h : Hdr) (o : SendRel) : IWord :=
  (FMem.mk h (headA o.r) (srcG o.b) m 3 o.s o.tag).word M
def putRecv (M m : BitVec 8) (h : Hdr) (o : Recv) : IWord :=
  (FMem.mk h (headDA (specG o.d) o.src) ⟨specG o.m, 0⟩ m 3 0 0).word M
def putRecvV (M m : BitVec 8) (h : Hdr) (o : RecvV) : IWord :=
  (FMem.mk h (headDA (specV o.d) o.src) ⟨specG o.m, 0⟩ m 3 0 0).word M
def putRecvAny (M m : BitVec 8) (h : Hdr) (o : RecvAny) : IWord :=
  (FMem.mk h ⟨specG o.d, 0, 0⟩ ⟨specG o.m, 0⟩ m 3 0 0).word M
def putRecvVAny (M m : BitVec 8) (h : Hdr) (o : RecvVAny) : IWord :=
  (FMem.mk h ⟨specV o.d, 0, 0⟩ ⟨specG o.m, 0⟩ m 3 0 0).word M
def putBarOp (M m : BitVec 8) (h : Hdr) (o : BarOp) : IWord :=
  (FMem.mk h ⟨specG o.d, 0, 0⟩ .none m 3 o.s (0#10 ++ o.id)).word M
def putFprobe (M m : BitVec 8) (h : Hdr) (o : DstG) : IWord :=
  (FMem.mk h ⟨specG o.d, 0, 0⟩ .none m 3 0 0).word M

/-- The specifier and modifier of a program operand (R282). -/
def progA : Option GReg → BitVec 8 × BitVec 12
  | none => (0, 0)
  | some g => (g.spec, g.mod)

def putForkOp (M m : BitVec 8) (h : Hdr) (o : ForkOp) : IWord :=
  (FEng.mk h ⟨0, (progA o.gm).1, (progA o.gm).2⟩ ⟨(progA o.gc).1, (progA o.gc).2⟩ m 0 o.hm (o.hc ++ 0#12)).word M
def putRdv (M m : BitVec 8) (h : Hdr) (o : Rdv) : IWord := (FEng.mk h .none .none m 0 0 o.mask).word M
def putHRd (M m : BitVec 8) (h : Hdr) (o : HRd) : IWord :=
  (FEng.mk h ⟨specG o.d, specH o.hs, 0⟩ .none m 0 0 0).word M
def putHPass (M m : BitVec 8) (h : Hdr) (o : HPass) : IWord :=
  (FEng.mk h ⟨0, specH o.hs, 0⟩ (srcGR o.r) m 0 o.hd 0).word M
def putHCancel (M m : BitVec 8) (h : Hdr) (o : HOp) : IWord := (FEng.mk h ⟨0, specH o.h, 0⟩ .none m 0 0 0).word M
def putCpy (M m : BitVec 8) (h : Hdr) (o : Cpy) : IWord :=
  (FEng.mk h (headA o.dst) (srcGR o.src) m (0#2 ++ o.q) o.h (o.len ++ 0#10)).word M
def putCpyB (M m : BitVec 8) (h : Hdr) (o : CpyB) : IWord :=
  (FEng.mk h (headA o.src) (srcGR o.b) m (0#2 ++ o.q) o.h 0).word M
def putQFence (M m : BitVec 8) (h : Hdr) (o : QFence) : IWord :=
  (FEng.mk h .none .none m 0 0 (0#8 ++ o.mask)).word M
def putColl (M m : BitVec 8) (h : Hdr) (o : Coll) : IWord :=
  (FEng.mk h (headA o.a) .none m 6 o.h (o.kind.code ++ o.op.code ++ o.ty.code ++ o.order.code ++ 0#2)).word M
def putContend (M m : BitVec 8) (h : Hdr) (o : Contend) : IWord :=
  (FEng.mk h ⟨0, o.a.spec, o.a.mod⟩ .none m 6 o.h (0#4 ++ o.lane ++ o.id)).word M
def putAfClaim (M m : BitVec 8) (h : Hdr) (o : AfClaim) : IWord :=
  (FEng.mk h .none .none m 7 o.h (0#7 ++ BitVec.ofBool o.die ++ 0#1 ++ o.np)).word M
def putAfH (M m : BitVec 8) (h : Hdr) (o : HOp) : IWord := (FEng.mk h .none .none m 7 o.h 0).word M
def putAfA (M m : BitVec 8) (h : Hdr) (o : AfA) : IWord := (FEng.mk h (headA o.a) .none m 7 o.h 0).word M
def putAfScale (M m : BitVec 8) (h : Hdr) (o : AfScale) : IWord :=
  (FEng.mk h (headA o.a) (srcG o.b) m 7 0 0).word M
def putAfSample (M m : BitVec 8) (h : Hdr) (o : AfSample) : IWord :=
  (FEng.mk h (headA o.a) (srcGR o.b) m 7 o.h (0#9 ++ o.cnt)).word M

/-- The word of an instruction, from the same encoding tables; a step without an encoding has none. -/
def encode : Instr → Option IWord
  | .nop h => some (headBits 0 h .none ++ 0#52)
  | .add h o => some (putGBin 0x10 0x00 h o)
  | .sub h o => some (putGBin 0x10 0x01 h o)
  | .neg h o => some (putGUn 0x10 0x02 h o)
  | .abs h o => some (putGUn 0x10 0x03 h o)
  | .adds h o => some (putGBin 0x10 0x04 h o)
  | .subs h o => some (putGBin 0x10 0x05 h o)
  | .add3 h o => some (putGTri 0x10 0x06 h o)
  | .and h o => some (putGBin 0x11 0x00 h o)
  | .or h o => some (putGBin 0x11 0x01 h o)
  | .xor h o => some (putGBin 0x11 0x02 h o)
  | .andn h o => some (putGBin 0x11 0x03 h o)
  | .orn h o => some (putGBin 0x11 0x04 h o)
  | .xnor h o => some (putGBin 0x11 0x05 h o)
  | .not h o => some (putGUn 0x11 0x06 h o)
  | .shl h o => some (putGBin 0x12 0x00 h o)
  | .shr h o => some (putGBin 0x12 0x01 h o)
  | .sar h o => some (putGBin 0x12 0x02 h o)
  | .rol h o => some (putGBin 0x12 0x03 h o)
  | .ror h o => some (putGBin 0x12 0x04 h o)
  | .mul h o => some (putGBin 0x13 0x00 h o)
  | .mulh h o => some (putGBin 0x13 0x01 h o)
  | .mad h o => some (putGTri 0x13 0x02 h o)
  | .div h o => some (putGBin 0x14 0x00 h o)
  | .rem h o => some (putGBin 0x14 0x01 h o)
  | .ceq h o => some (putMCmp 0x15 0x00 h o)
  | .cne h o => some (putMCmp 0x15 0x01 h o)
  | .clt h o => some (putMCmp 0x15 0x02 h o)
  | .cle h o => some (putMCmp 0x15 0x03 h o)
  | .cgt h o => some (putMCmp 0x15 0x04 h o)
  | .cge h o => some (putMCmp 0x15 0x05 h o)
  | .ctst h o => some (putMCmp 0x15 0x06 h o)
  | .ctstz h o => some (putMCmp 0x15 0x07 h o)
  | .sel h o => some (putGSel 0x16 0x00 h o)
  | .selz h o => some (putGTri 0x16 0x01 h o)
  | .popc h o => some (putGUn 0x17 0x00 h o)
  | .clz h o => some (putGUn 0x17 0x01 h o)
  | .ctz h o => some (putGUn 0x17 0x02 h o)
  | .brev h o => some (putGUn 0x17 0x03 h o)
  | .bswap h o => some (putGUn 0x17 0x04 h o)
  | .bext h o => some (putGBin 0x17 0x05 h o)
  | .bins h o => some (putGTri 0x17 0x06 h o)
  | .min h o => some (putGBin 0x18 0x00 h o)
  | .max h o => some (putGBin 0x18 0x01 h o)
  | .clamp h o => some (putGTri 0x18 0x02 h o)
  | .lea h o => some (putGTri 0x19 0x00 h o)
  | .lcell h o => some (putGBin 0x19 0x01 h o)
  | .lslice h o => some (putGBin 0x19 0x02 h o)
  | .addImm h o => some (putGImm 0x20 0x00 h o)
  | .subImm h o => some (putGImm 0x20 0x01 h o)
  | .addsImm h o => some (putGImm 0x20 0x04 h o)
  | .subsImm h o => some (putGImm 0x20 0x05 h o)
  | .rsub h o => some (putGImm 0x20 0x07 h o)
  | .andImm h o => some (putGImm 0x21 0x00 h o)
  | .orImm h o => some (putGImm 0x21 0x01 h o)
  | .xorImm h o => some (putGImm 0x21 0x02 h o)
  | .andnImm h o => some (putGImm 0x21 0x03 h o)
  | .ornImm h o => some (putGImm 0x21 0x04 h o)
  | .xnorImm h o => some (putGImm 0x21 0x05 h o)
  | .shlImm h o => some (putGImm 0x22 0x00 h o)
  | .shrImm h o => some (putGImm 0x22 0x01 h o)
  | .sarImm h o => some (putGImm 0x22 0x02 h o)
  | .rolImm h o => some (putGImm 0x22 0x03 h o)
  | .rorImm h o => some (putGImm 0x22 0x04 h o)
  | .ceqImm h o => some (putMImm 0x23 0x00 h o)
  | .cneImm h o => some (putMImm 0x23 0x01 h o)
  | .cltImm h o => some (putMImm 0x23 0x02 h o)
  | .cleImm h o => some (putMImm 0x23 0x03 h o)
  | .cgtImm h o => some (putMImm 0x23 0x04 h o)
  | .cgeImm h o => some (putMImm 0x23 0x05 h o)
  | .ctstImm h o => some (putMImm 0x23 0x06 h o)
  | .ctstzImm h o => some (putMImm 0x23 0x07 h o)
  | .movi h o => some (putGMovI 0x24 0x00 h o)
  | .movzi h o => some (putGMovI 0x24 0x01 h o)
  | .movhi h o => some (putGMovI 0x24 0x02 h o)
  | .leai h o => some (putGImm 0x25 0x00 h o)
  | .leapc h o => some (putGMovI 0x25 0x01 h o)
  | .br h o => some (putBRel 0x30 0x00 h o)
  | .bz h o => some (putBCond 0x30 0x01 h o)
  | .bnz h o => some (putBCond 0x30 0x02 h o)
  | .blz h o => some (putBCond 0x30 0x03 h o)
  | .bgez h o => some (putBCond 0x30 0x04 h o)
  | .jr h o => some (putBReg 0x30 0x05 h o)
  | .call h o => some (putBRel 0x31 0x00 h o)
  | .callr h o => some (putBReg 0x31 0x01 h o)
  | .ret h => some (putHBr 0x31 0x02 h)
  | .loop h o => some (putBLoop 0x32 0x00 h o)
  | .lbrk h => some (putHBr 0x32 0x01 h)
  | .gdet h => some (putHGang 0x33 0x00 h)
  | .gjoin h => some (putHGang 0x33 0x01 h)
  | .srrd h o => some (putSrRd 0xA0 0x00 h o)
  | .srwr h o => some (putSrWr 0xA0 0x01 h o)
  | .srwri h o => some (putSrWrI 0xA0 0x02 h o)
  | .trap h o => some (putTrapOp 0xA1 0x00 h o)
  | .halt h => some (putHSys 0xA1 0x01 h)
  | .vaddInt h o => some (putVBin 0x40 0x00 h o)
  | .vsubInt h o => some (putVBin 0x40 0x01 h o)
  | .vnegInt h o => some (putVUn 0x40 0x02 h o)
  | .vabsInt h o => some (putVUn 0x40 0x03 h o)
  | .vadds h o => some (putVBin 0x40 0x04 h o)
  | .vsubs h o => some (putVBin 0x40 0x05 h o)
  | .vmulInt h o => some (putVBin 0x40 0x06 h o)
  | .vmulh h o => some (putVBin 0x40 0x07 h o)
  | .vmad h o => some (putVTri 0x40 0x08 h o)
  | .vminInt h o => some (putVBin 0x40 0x09 h o)
  | .vmaxInt h o => some (putVBin 0x40 0x0A h o)
  | .vand h o => some (putVBin 0x41 0x00 h o)
  | .vor h o => some (putVBin 0x41 0x01 h o)
  | .vxor h o => some (putVBin 0x41 0x02 h o)
  | .vandn h o => some (putVBin 0x41 0x03 h o)
  | .vnot h o => some (putVUn 0x41 0x04 h o)
  | .vshl h o => some (putVBin 0x41 0x08 h o)
  | .vshr h o => some (putVBin 0x41 0x09 h o)
  | .vsar h o => some (putVBin 0x41 0x0A h o)
  | .vceq h o => some (putVCmp 0x42 0x00 h o)
  | .vcne h o => some (putVCmp 0x42 0x01 h o)
  | .vclt h o => some (putVCmp 0x42 0x02 h o)
  | .vcle h o => some (putVCmp 0x42 0x03 h o)
  | .vcgt h o => some (putVCmp 0x42 0x04 h o)
  | .vcge h o => some (putVCmp 0x42 0x05 h o)
  | .vsel h o => some (putVSel 0x42 0x08 h o)
  | .mand h o => some (putMBin 0x43 0x00 h o)
  | .mor h o => some (putMBin 0x43 0x01 h o)
  | .mxor h o => some (putMBin 0x43 0x02 h o)
  | .mandn h o => some (putMBin 0x43 0x03 h o)
  | .mnot h o => some (putMUn 0x43 0x04 h o)
  | .mpopc h o => some (putMToG 0x43 0x08 h o)
  | .mfirst h o => some (putMToG 0x43 0x09 h o)
  | .mfromg h o => some (putMFromG 0x43 0x0A h o)
  | .mtog h o => some (putMToG 0x43 0x0B h o)
  | .vbcsti h o => some (putVBcstI 0x44 0x00 h o)
  | .vbcst h o => some (putVBcst 0x44 0x01 h o)
  | .vaddFp h o => some (putVFBin 0x48 0x00 h o)
  | .vsubFp h o => some (putVFBin 0x48 0x01 h o)
  | .vmulFp h o => some (putVFBin 0x48 0x02 h o)
  | .vminFp h o => some (putVFBin 0x48 0x03 h o)
  | .vmaxFp h o => some (putVFBin 0x48 0x04 h o)
  | .vabsFp h o => some (putVFUn 0x48 0x05 h o)
  | .vnegFp h o => some (putVFUn 0x48 0x06 h o)
  | .vfma h o => some (putVFTri 0x49 0x00 h o)
  | .vfms h o => some (putVFTri 0x49 0x01 h o)
  | .vfnma h o => some (putVFTri 0x49 0x02 h o)
  | .vfnms h o => some (putVFTri 0x49 0x03 h o)
  | .vdiv h o => some (putVFBin 0x4A 0x00 h o)
  | .vsqrt h o => some (putVFUn 0x4A 0x01 h o)
  | .vexp h o => some (putVFUn 0x4A 0x02 h o)
  | .vlog h o => some (putVFUn 0x4A 0x03 h o)
  | .vexp2 h o => some (putVFUn 0x4A 0x04 h o)
  | .vlog2 h o => some (putVFUn 0x4A 0x05 h o)
  | .vtanh h o => some (putVFUn 0x4A 0x06 h o)
  | .vrcpe h o => some (putVFUn 0x4B 0x00 h o)
  | .vrsqrte h o => some (putVFUn 0x4B 0x01 h o)
  | .vexpe h o => some (putVFUn 0x4B 0x02 h o)
  | .vloge h o => some (putVFUn 0x4B 0x03 h o)
  | .vtanhe h o => some (putVFUn 0x4B 0x04 h o)
  | .vsigme h o => some (putVFUn 0x4B 0x05 h o)
  | .vcvt h o => some (putVCvt 0x4C h o)
  | .vbfpx h o => some (putVbfpx 0x4D 0x00 h o)
  | .vbfpe h o => some (putVbfpe 0x4D 0x01 h o)
  | .vbfpeHi h o => some (putVbfpe 0x4D 0x02 h o)
  | .vbfpd h o => some (putVbfpd 0x4D h o)
  | .vperm h o => some (putVBin 0x4E 0x00 h o)
  | .vperm2 h o => some (putVTri 0x4E 0x01 h o)
  | .vslide h o => some (putVSlide 0x4E 0x02 h o)
  | .vzipl h o => some (putVBin 0x4E 0x03 h o)
  | .vziph h o => some (putVBin 0x4E 0x04 h o)
  | .vuzpe h o => some (putVBin 0x4E 0x05 h o)
  | .vuzpo h o => some (putVBin 0x4E 0x06 h o)
  | .vrsum h o => some (putVRed 0x4F 0x00 h o)
  | .vrmin h o => some (putVRed 0x4F 0x01 h o)
  | .vrmax h o => some (putVRed 0x4F 0x02 h o)
  | .vrand h o => some (putVRed 0x4F 0x03 h o)
  | .vror h o => some (putVRed 0x4F 0x04 h o)
  | .rng h o => some (putRngOp 0x50 0x00 h o)
  | .vrng h o => some (putVRngOp 0x50 0x01 h o)
  | .vins h o => some (putVIns 0x51 0x00 h o)
  | .vext h o => some (putVExt 0x51 0x01 h o)
  | .vmov h o => some (putVUn 0x51 0x02 h o)
  | .fadd h o => some (putFBin 0x60 0x00 h o)
  | .fsub h o => some (putFBin 0x60 0x01 h o)
  | .fmul h o => some (putFBin 0x60 0x02 h o)
  | .fmin h o => some (putFBin 0x60 0x03 h o)
  | .fmax h o => some (putFBin 0x60 0x04 h o)
  | .fabs h o => some (putFUn 0x60 0x05 h o)
  | .fneg h o => some (putFUn 0x60 0x06 h o)
  | .ffma h o => some (putFTri 0x61 0x00 h o)
  | .ffms h o => some (putFTri 0x61 0x01 h o)
  | .ffnma h o => some (putFTri 0x61 0x02 h o)
  | .ffnms h o => some (putFTri 0x61 0x03 h o)
  | .fdiv h o => some (putFBin 0x62 0x00 h o)
  | .fsqrt h o => some (putFUn 0x62 0x01 h o)
  | .fexp h o => some (putFUn 0x62 0x02 h o)
  | .flog h o => some (putFUn 0x62 0x03 h o)
  | .fexp2 h o => some (putFUn 0x62 0x04 h o)
  | .flog2 h o => some (putFUn 0x62 0x05 h o)
  | .fceq h o => some (putFCmp 0x63 0x00 h o)
  | .fcne h o => some (putFCmp 0x63 0x01 h o)
  | .fclt h o => some (putFCmp 0x63 0x02 h o)
  | .fcle h o => some (putFCmp 0x63 0x03 h o)
  | .fcgt h o => some (putFCmp 0x63 0x04 h o)
  | .fcge h o => some (putFCmp 0x63 0x05 h o)
  | .fcvt h o => some (putFCvt 0x63 h o)
  | .mzero h o => some (putMatAcc 0x80 0x00 h o)
  | .mrdrow h o => some (putMatRow 0x80 0x01 h o)
  | .mwrrow h o => some (putMatWRow 0x80 0x02 h o)
  | .mmov h o => some (putMatAcc 0x80 0x03 h o)
  | .masel h o => some (putMasel 0x82 0x00 h o)
  | .masx h o => some (putMasx 0x82 0x01 h o)
  | .mbsel h o => some (putMbsel 0x82 0x02 h o)
  | .mma h o => some (putMmaOp 0x81 0x00 h o)
  | .mdrain h o => some (putMdrainOp 0x83 0x00 h o)
  | .ld h o => some (putMemLd 0x70 0x00 h o)
  | .ldv h o => some (putMemLdV 0x70 0x01 h o)
  | .ldvb h o => some (putMemLdV 0x70 0x02 h o)
  | .st h o => some (putMemSt 0x71 0x00 h o)
  | .stv h o => some (putMemStV 0x71 0x01 h o)
  | .ldf h o => some (putMemLd 0x72 0x00 h o)
  | .ldfh h o => some (putMemLd 0x72 0x01 h o)
  | .ldfv h o => some (putMemLdV 0x72 0x02 h o)
  | .ldr h o => some (putMemLd 0x72 0x03 h o)
  | .ldrv h o => some (putMemLdV 0x72 0x04 h o)
  | .ldrx h o => some (putMemLd 0x72 0x05 h o)
  | .ldAcq h o => some (putMemLdS 0x73 0x00 h o)
  | .stRel h o => some (putMemStS 0x73 0x01 h o)
  | .sts h o => some (putMemSt 0x74 0x00 h o)
  | .stsv h o => some (putMemStV 0x74 0x01 h o)
  | .vgather h o => some (putGather 0x75 0x00 h o)
  | .vscatter h o => some (putScatter 0x75 0x01 h o)
  | .pft h o => some (putPrefetch 0x76 0x00 h o)
  | .pfh h o => some (putPrefetch 0x76 0x01 h o)
  | .amoSwap h o => some (putAmo 0x77 0x00 h o)
  | .amoAdd h o => some (putAmo 0x77 0x01 h o)
  | .amoAnd h o => some (putAmo 0x77 0x02 h o)
  | .amoOr h o => some (putAmo 0x77 0x03 h o)
  | .amoXor h o => some (putAmo 0x77 0x04 h o)
  | .amoMin h o => some (putAmo 0x77 0x05 h o)
  | .amoMax h o => some (putAmo 0x77 0x06 h o)
  | .cas h o => some (putAmo 0x77 0x07 h o)
  | .redAdd h o => some (putRed 0x78 0x01 h o)
  | .redAnd h o => some (putRed 0x78 0x02 h o)
  | .redOr h o => some (putRed 0x78 0x03 h o)
  | .redXor h o => some (putRed 0x78 0x04 h o)
  | .redMin h o => some (putRed 0x78 0x05 h o)
  | .redMax h o => some (putRed 0x78 0x06 h o)
  | .amo2Swap h o => some (putAmo2 0x79 0x00 h o)
  | .amo2Add h o => some (putAmo2 0x79 0x01 h o)
  | .amo2And h o => some (putAmo2 0x79 0x02 h o)
  | .amo2Or h o => some (putAmo2 0x79 0x03 h o)
  | .amo2Xor h o => some (putAmo2 0x79 0x04 h o)
  | .dcas h o => some (putAmo2 0x79 0x08 h o)
  | .amove h o => some (putAmove 0x79 0x09 h o)
  | .fenceAcq h => some (putHMem 0x7A 0x00 h)
  | .fenceRel h o => some (putFenceS 0x7A 0x01 h o)
  | .fenceFull h o => some (putFenceS 0x7A 0x02 h o)
  | .waitaddr h o => some (putWaitAddr 0x7B 0x00 h o)
  | .evsig h o => some (putEvSig 0x7B 0x01 h o)
  | .evwait h o => some (putEvWait 0x7B 0x02 h o)
  | .send h o => some (putSend 0x7C 0x00 h o)
  | .sendv h o => some (putSendV 0x7C 0x01 h o)
  | .sendRel h o => some (putSendRel 0x7C 0x02 h o)
  | .recv h o => some (putRecv 0x7C 0x08 h o)
  | .recvv h o => some (putRecvV 0x7C 0x09 h o)
  | .recvAny h o => some (putRecvAny 0x7C 0x0A h o)
  | .recvvAny h o => some (putRecvVAny 0x7C 0x0B h o)
  | .sstep h => some (putHMem 0x7D 0x00 h)
  | .bar h o => some (putBarOp 0x7D 0x01 h o)
  | .fprobe h o => some (putFprobe 0x7D 0x02 h o)
  | .fork h o => some (putForkOp 0x90 0x00 h o)
  | .rdv h o => some (putRdv 0x90 0x01 h o)
  | .hwait h o => some (putHRd 0x90 0x02 h o)
  | .hdet h o => some (putHRd 0x90 0x03 h o)
  | .htest h o => some (putHRd 0x91 0x00 h o)
  | .hpass h o => some (putHPass 0x91 0x01 h o)
  | .hcancel h o => some (putHCancel 0x91 0x02 h o)
  | .cpy h o => some (putCpy 0x92 0x00 h o)
  | .cpyf h o => some (putCpy 0x92 0x01 h o)
  | .cpyb h o => some (putCpyB 0x92 0x02 h o)
  | .qfence h o => some (putQFence 0x92 0x08 h o)
  | .coll h o => some (putColl 0x93 0x00 h o)
  | .contend h o => some (putContend 0x94 0x00 h o)
  | .afclaim h o => some (putAfClaim 0x95 0x00 h o)
  | .afcal h o => some (putAfH 0x95 0x01 h o)
  | .afcfg h o => some (putAfA 0x95 0x02 h o)
  | .afscale h o => some (putAfScale 0x95 0x03 h o)
  | .afrun h o => some (putAfH 0x95 0x04 h o)
  | .afsettle h o => some (putAfA 0x95 0x05 h o)
  | .afsample h o => some (putAfSample 0x95 0x06 h o)
  | .afstop h o => some (putAfH 0x95 0x07 h o)
  | .afrel h o => some (putAfH 0x95 0x08 h o)
  | .ctxsave h o => some (putCtxSave 0xA2 0x00 h o)
  | .ctxload h o => some (putCtxLoad 0xA2 0x01 h o)
  | .mint h o => some (putMint 0xA2 0x02 h o)
  | .fret h o => some (putFret 0xA2 0x03 h o)
  | .tlbwr h o => some (putTlbWr 0xA2 0x04 h o)
  | .tlbinv h o => some (putTlbInv 0xA2 0x05 h o)
  | .snap h o => some (putSnap 0xA3 0x00 h o)
  | .mseal h o => some (putMseal 0xA3 0x01 h o)
  | .evIssue _ => none
  | .evArrival _ _ => none
  | .evPerform _ => none
  | .evApply _ => none
  | .evPairSecondHome _ => none
  | .evReplyDelivery _ => none
  | .evWcbFlush _ _ => none
  | .evEngineEntryBegin _ _ => none
  | .evHandleResolve _ _ => none
  | .evWakeDelivery _ => none
  | .evWaitTimeout _ => none
  | .evHostInboundWrite _ _ _ => none
  | .evHostInboundRead _ _ _ => none
  | .evHostFlushRead _ _ => none
  | .evMailboxDeliver _ _ => none
  | .evContextTimeslice _ => none
  | .evMintArrival _ => none
  | .evFaultRecordPost _ => none
  | .evFqtailWrite _ _ _ => none
  | .evFaultDomainEnd _ => none
  | .evFpWindowClose _ => none
  | .evCellComplete _ => none
  | .evChildLaunch _ _ => none
  | .evLaunchSelect _ _ => none
  | .evExchangeTransfer _ => none
  | .evRoundTimerExpiry _ => none
  | .evRoundMarkerArrival _ _ => none
  | .evTokenPass _ => none
  | .evContendRegister _ => none
  | .evWaggleContest _ => none
  | .evContestResult _ => none
  | .evSequencerBind _ => none
  | .evBindingReceive _ _ => none
  | .evCollectiveStart _ _ => none
  | .evContributionArrival _ _ => none
  | .evTgTimeout _ => none
  | .evCancelRecord _ _ => none
  | .evSwitchFailure _ _ => none
  | .evSequencerHeartbeat => none
  | .evSequencerFailover _ => none
  | .evRegistrationRetry _ => none
  | .evAfcalComplete _ => none
  | .evFabricSaturation _ _ => none
  | .evFabricSettleDone _ => none
  | .evFabricSettleTimeout _ => none
  | .evQueueDoorbell _ _ => none
  | .evQueueLaunch _ => none
  | .evQueueFence _ => none
  | .evQueueFenceComplete _ => none
  | .evQueueCancel _ => none
  | .evRegisterWrite _ _ => none
  | .evLinkRetry _ => none
  | .evLinkFail _ => none
  | .evLinkRateChange _ _ _ => none
  | .evBudgetInterval _ => none
  | .evFrequencyStep _ _ => none
  | .evRelockRestart _ => none
  | .evSnapshotTrigger => none
  | .evMeterList => none
  | .evMeterRead _ => none
  | .evGetVersion => none
  | .evGetCapabilities => none
  | .evNegotiateAlgorithms _ _ => none
  | .evGetDigests => none
  | .evGetCertificate _ => none
  | .evChallenge _ => none
  | .evGetMeasurements _ => none
  | .evPackageReset _ => none
  | .evPatrolScrub _ _ _ => none
  | .evCellError _ => none
  | .evQueueEnable _ _ _ => none
  | .evGroupCreate _ => none
  | .evStandbyReplacement _ => none
  | .evExportRevocation _ _ => none
  | .evSnapshotRelease => none

end Sys2Proof
end

