-- ==== Sys2Proof/Machine/Control.lean ====
section
/-!
DEFINITION. Control transfers (R207 to R209), hardware loops (R210, R211), gang instructions (R49, R50, R213), state
registers (R214, R215), `trap` and `halt` (R216).
-/
namespace Sys2Proof.Machine

/-! ### Branches, calls and loops -/

/-- A branch on a condition (R208): not taken, control goes to the next group in sequence. -/
def branch (h : Hdr) (taken : Ctx → Bool) (target : Ctx → Word) (s : State) : Out :=
  if predOn h s.th.regs && taken s.th then transfer s (target s.th) id else .next s.retire

/-- A taken call writes lk with the first slot of the group that follows (R209). -/
def Ctx.link (c : Ctx) : Ctx := c.resG 63 1 c.nextGroup

def execBr (h : Hdr) (o : BRel) (s : State) : Out := branch h (fun _ => true) (fun c => relTarget c.pc o) s
def execBz (h : Hdr) (o : BCond) (s : State) : Out :=
  branch h (fun c => c.regs.gr o.a == 0) (fun c => relTarget c.pc o.t) s
def execBnz (h : Hdr) (o : BCond) (s : State) : Out :=
  branch h (fun c => c.regs.gr o.a != 0) (fun c => relTarget c.pc o.t) s
def execBlz (h : Hdr) (o : BCond) (s : State) : Out :=
  branch h (fun c => (c.regs.gr o.a).msb) (fun c => relTarget c.pc o.t) s
def execBgez (h : Hdr) (o : BCond) (s : State) : Out :=
  branch h (fun c => !(c.regs.gr o.a).msb) (fun c => relTarget c.pc o.t) s
def execJr (h : Hdr) (o : BReg) (s : State) : Out := branch h (fun _ => true) (fun c => c.regs.gr o.a) s

def execCall (h : Hdr) (o : BRel) (s : State) : Out :=
  if predOn h s.th.regs then transfer s (relTarget s.th.pc o) Ctx.link else .next s.retire
def execCallr (h : Hdr) (o : BReg) (s : State) : Out :=
  if predOn h s.th.regs then transfer s (s.th.regs.gr o.a) Ctx.link else .next s.retire
def execRet (h : Hdr) (s : State) : Out := branch h (fun _ => true) (fun c => c.regs.rg 63) s

/-- R210: the exit is checked, then the body, then the count and the depth. -/
def execLoop (h : Hdr) (o : BLoop) (s : State) : Out :=
  if predOn h s.th.regs then
    let e := relTarget s.th.pc o.t
    let n := (s.th.regs.gs o.a).extractLsb' 0 32
    let start := s.th.nextGroup
    if !s.targetOk s.th e then faultOut s ⟨cTarget, 0, e⟩
    else if e ≤ start then faultOut s ⟨cLoop, 2, 2⟩
    else if n = 0 then
      .next (s.mapTh fun c =>
        let t := endTest c.loops e
        { c with loops := t.1 }.jump t.2)
    else if s.th.loops.length = 4 then faultOut s ⟨cLoop, 1, 1⟩
    else .next (s.mapTh fun c => { c with loops := ⟨start, e, n⟩ :: c.loops }.jump start)
  else .next s.retire

/-- R211: the innermost level is popped and control continues at its exit, without an end test. -/
def execLbrk (h : Hdr) (s : State) : Out :=
  if predOn h s.th.regs then
    match s.th.loops with
    | [] => faultOut s ⟨cLoop, 3, 3⟩
    | l :: ls => transfer s l.exit fun c => { c with loops := ls }
  else .next s.retire

/-- The target of a transfer that is taken. -/
def takenTo (c : Ctx) (h : Hdr) (taken : Bool) (t : Word) : Option Word := if predOn h c.regs && taken then some t else none

/-- The target that an instruction at the program counter of a context checks (R207 to R211); an instruction that checks
none has none. -/
def Instr.checks (i : Instr) (c : Ctx) : Option Word :=
  match i with
  | .br h o => takenTo c h true (relTarget c.pc o)
  | .bz h o => takenTo c h (c.regs.gr o.a == 0) (relTarget c.pc o.t)
  | .bnz h o => takenTo c h (c.regs.gr o.a != 0) (relTarget c.pc o.t)
  | .blz h o => takenTo c h (c.regs.gr o.a).msb (relTarget c.pc o.t)
  | .bgez h o => takenTo c h (!(c.regs.gr o.a).msb) (relTarget c.pc o.t)
  | .jr h o => takenTo c h true (c.regs.gr o.a)
  | .call h o => takenTo c h true (relTarget c.pc o)
  | .callr h o => takenTo c h true (c.regs.gr o.a)
  | .ret h => takenTo c h true (c.regs.rg 63)
  | .loop h o => takenTo c h true (relTarget c.pc o.t)
  | .lbrk h => (c.loops.head?).bind fun l => takenTo c h true l.exit
  | _ => none

/-! ### Gangs (R48 to R50, R213) -/

/-- An attached follower detaches; any other context is unchanged. -/
def execGdet (_ : Hdr) (s : State) : Out := .next (s.mapTh Ctx.detach).retire

/-- The followers of a leader that have left the stream and not ended. -/
def State.looseFollowers (s : State) (leader : CtxId) : List Ctx :=
  s.pool.filter fun c => c.gang.leader == some leader && gangRole c == 3 && !c.ended && !c.completed

/-- A follower that waited in `gjoin` continues attached from the instruction after the leader's `gjoin`; its own end
test decides where that is, and at the end of the group a different place detaches it again (R49). -/
def Ctx.rejoin (next : Word) (c : Ctx) : Ctx :=
  let t := endTest c.loops next
  let c : Ctx := { c.setRole 2 with
    pc := t.2, loops := t.1, grp := (c.grp.map fun g => { g with rest := [] }),
    gang := { c.gang with trace := [], joined := false } }
  c.wakeFrom .gang

/-- An attached follower of a leader. -/
def followsIn (leader : CtxId) (c : Ctx) : Bool := c.gang.leader == some leader && gangRole c == 2

/-- An attached follower that has not executed every group that its leader has: it can still detach before the barrier. -/
def State.lagging (s : State) (leader : CtxId) : Bool :=
  s.pool.any fun c => followsIn leader c && !c.ended && !c.completed && !c.gang.trace.isEmpty

/-- The gang barrier (R50, R213): the leader waits for its detached followers, and first for its attached ones to come
to it. -/
def execGjoin (_ : Hdr) (s : State) : Out :=
  match gangRole s.th with
  | 1 =>
    let fs := s.looseFollowers s.th.cid
    if !s.lagging s.th.cid && fs.all fun c => c.gang.joined then
      let next := s.th.nextGroup
      let t := (s.mapTh Ctx.run).retire
      .next { t with pool := updateAll (fun c => fs.any fun f => f.cid == c.cid) (Ctx.rejoin next) t.pool }
    else parkOut s .gang
  | 3 =>
    let alive := (s.th.gang.leader.bind s.ctx?).any fun l => !l.ended && !l.completed
    if alive then parkOut (s.mapTh fun c => { c with gang := { c.gang with joined := true } }) .gang
    else .next (s.mapTh Ctx.run).retire
  | _ => .next s.retire

/-! ### State registers (R214, R215) -/

/-- Bits [95:32] of a SYS instruction word, which an illegal-instruction fault reports (R187). -/
def highBits (w : IWord) : Word := w.extractLsb' 32 64

/-- An earlier instruction can still set a flag: a decoding load whose value is on its way (R214). -/
def Ctx.flagsOpen (c : Ctx) : Bool :=
  c.pend.any fun p => match p.dest with
    | .ldf _ _ _ | .ldfv _ _ _ _ _ => true
    | _ => false

/-- A forked matrix program of the context is PENDING: it holds back inline matrix instructions and accesses to
sr.mprog (R242). -/
def Ctx.matrixForked (c : Ctx) : Bool :=
  (c.queue 4).any fun e => match e.work with
    | .prog true _ => true
    | _ => false

def execSrrd (h : Hdr) (o : SrRd) (s : State) : Out :=
  if predOn h s.th.regs then
    match s.srFault s.th o.sr (highBits (putSrRd 0xA0 0 h o)) with
    | some t => faultOut s t
    | none =>
      if (o.sr = 0x002 ∧ s.th.flagsOpen) ∨ (o.sr = 0x023 ∧ s.th.matrixForked) then parkOut s .drain
      else .next (s.mapTh fun c => (c.run.resG o.d 1 (s.srRead c o.sr)).retire)
  else .next s.retire

/-- A write of a state register from a value. -/
def srPut (h : Hdr) (n : BitVec 12) (hi : Word) (x : Ctx → Word) (s : State) : Out :=
  if predOn h s.th.regs then
    match s.srFault s.th n hi with
    | some t => faultOut s t
    | none =>
      if n = 0x023 ∧ s.th.matrixForked then parkOut s .drain
      else .next ((s.mapTh Ctx.run).srStore n (x s.th)).retire
  else .next s.retire

def execSrwr (h : Hdr) (o : SrWr) (s : State) : Out :=
  srPut h o.sr (highBits (putSrWr 0xA0 1 h o)) (fun c => c.regs.gs o.a) s
def execSrwri (h : Hdr) (o : SrWrI) (s : State) : Out :=
  srPut h o.sr (highBits (putSrWrI 0xA0 2 h o)) (fun _ => o.imm.zeroExtend 64) s

/-! ### Trap and halt (R216) -/

def execTrap (h : Hdr) (o : TrapOp) (s : State) : Out :=
  if predOn h s.th.regs then faultOut s ⟨cUserTrap, 0, o.code.zeroExtend 64⟩ else .next s.retire

/-- The program ends once every issued operation has been acknowledged: the loop stack is gone, followers leave the
gang, and no barrier waits for the cell (R38, R49, R216). -/
def execHalt (h : Hdr) (s : State) : Out :=
  if predOn h s.th.regs then
    let s := s.mapTh fun c => { c with loops := [] }
    if s.th.drained then
      let s := (s.mapTh fun c => { c.detach with status := .parked .drain, ended := true, grp := none }).detachFollowers s.th.cid
      .next (s.leaveBarriers s.th)
    else parkOut s .drain
  else .next s.retire

end Sys2Proof.Machine
end

