-- ==== Sys2Proof/Machine/Contest.lean ====
section
/-!
DEFINITION. The contests of the waggle plane (R148 to R153): identifiers in turn, the candidates that a contest finds, its
winner, and the contest that is due on a lane.
-/
namespace Sys2Proof.Machine

def State.lane (s : State) (l : Nat) : Lane := (s.plane.lanes.find? fun x => x.id == l).getD (.reset l)

/-- The header code of an identifier after the lane's last one (R151). -/
def contestCode (last id : Nat) : Nat := 4095 - (id + 8190 - last - 1) % 4095

/-- Patches of a die that no claim holds. -/
def State.freePatches (s : State) (die : Nat) : Nat :=
  64 - ((s.claims.filter fun k => k.die == die).map fun k => k.np).sum

/-- Patches of a die that no claim and no granted candidate holds. -/
def State.patchesLeft (s : State) (die : Nat) : Nat :=
  s.freePatches die - ((s.plane.cands.filter fun x => x.lane == 15 && x.committed && x.id == 0xCF0 + die).map fun x => x.np).sum

/-- A candidate that a contest can enter: a claim must fit in the free patches (R134). -/
def State.enters (s : State) (l : Nat) (x : Cand) : Bool :=
  x.lane == l && !x.committed && (l != 15 || x.np ≤ s.patchesLeft (x.id - 0xCF0))

/-- Candidates that a contest beginning at a time finds (R134, R153). -/
def State.eligible (s : State) (l start : Nat) : List Cand := s.plane.cands.filter fun x => s.enters l x && x.time < start

/-- Does a candidate beat another (R151, R152): key, then die; within a die the lowest logical number, then the earliest. -/
def Cand.beats (a b : Cand) : Bool :=
  if a.key ≠ b.key then b.key.toNat < a.key.toNat
  else if a.die ≠ b.die then b.die < a.die
  else if a.logical ≠ b.logical then a.logical < b.logical
  else a.time < b.time

/-- The best of candidates. -/
def bestCand : List Cand → Option Cand
  | [] => none
  | x :: xs =>
    match bestCand xs with
    | none => some x
    | some y => if Cand.beats y x then some y else some x

/-- The identifier that wins the header. -/
def headerWinner (last : Nat) (cs : List Cand) : Option Nat :=
  (cs.map fun x => x.id).foldl (fun best id =>
    match best with
    | none => some id
    | some b => if contestCode last b < contestCode last id then some id else some b) none

/-- The same candidate. -/
def Cand.same (a b : Cand) : Bool := a.lane == b.lane && a.id == b.id && a.op == b.op

/-- The number of the first contest of a lane that a candidate finds, once it has begun (R150, R153). -/
def State.firstContest (s : State) (l : Nat) : Option Nat :=
  (((s.plane.cands.filter (s.enters l)).map fun x => max (s.lane l).next (x.time / 210 + 1)).min?).filter fun q =>
    210 * q ≤ s.now

/-- Patches of a die become free: a claim that had no room enters the next contest whose header cut-off is to come (R134). -/
def State.cutLane (s : State) : State :=
  let l := s.lane 15
  { s with plane := { s.plane with
      lanes := upsert (fun y => y.id == 15) { l with next := max l.next ((s.now + 209) / 210) } s.plane.lanes } }

/-- The contest that is due on a lane: its number and the candidates of the identifier that wins the header. -/
def State.dueContest (s : State) (l : Nat) : Option (Nat × List Cand) :=
  (s.firstContest l).bind fun q =>
    let es := s.eligible l (210 * q)
    (headerWinner (s.lane l).last es).map fun id => (q, es.filter fun x => x.id == id)

/-- The candidates that a contest takes out of their lane: all of it, but of a claim contest only the one that it grants
(R134). -/
def contestants (l : Nat) (cs : List Cand) : List Cand := if l = 15 then (bestCand cs).toList else cs

/-- The cut-off of a candidate has passed (R153, R155, R286): it is in a contest that has begun. -/
def State.cutOff (s : State) (x : Cand) : Bool :=
  (s.dueContest x.lane).any fun d => (contestants x.lane d.2).any (Cand.same x)

end Sys2Proof.Machine
end

