-- ==== Sys2Proof/Machine/Matrix.lean ====
section
/-!
DEFINITION. The matrix unit (R241 to R259). Each instruction is an effect on a context that the main sequencer passes
inline, or that a forked program runs on the registers it was given (R242, R283).
-/
namespace Sys2Proof.Machine

/-! ### Outcomes of an engine instruction -/

/-- How one engine instruction of a context comes out. -/
inductive EngOut
  /-- it completed, with the state and the acting context -/
  | done (s : State) (c : Ctx)
  /-- it faulted; the state and the context hold what the fault leaves -/
  | trap (s : State) (c : Ctx) (t : Trap)
  /-- it waits for its own earlier operations, a line lock, local memory or the dirty log -/
  | wait (why : Park)
  /-- it has taken a step and is not over -/
  | busy (s : State) (c : Ctx)
  /-- it names an absent stack (R2) -/
  | absent (frame : Nat)

/-- A matrix instruction passed by the main sequencer: held back while a forked matrix program is PENDING (R242). -/
def inlineMat (h : Hdr) (f : Ctx → State → EngOut) (s : State) : Out :=
  if !predOn h s.th.regs then .next s.retire
  else if s.th.matrixForked then parkOut s .drain
  else
    match f s.th s with
    | .done s c => .next { s with th := c.run }.retire
    | .trap s c t => faultOut { s with th := c } t
    | .wait why => parkOut s why
    | .busy s c => parkOut { s with th := c } .drain
    | .absent k => .fault (.absentStack k)

/-! ### Accumulators and descriptors (R244, R245) -/

def MatState.acc (m : MatState) (a : Bool) : Vector (BitVec 32) 128 := if a then m.a1 else m.a0
def MatState.setAcc (m : MatState) (a : Bool) (v : Vector (BitVec 32) 128) : MatState :=
  if a then { m with a1 := v } else { m with a0 := v }
/-- Element C[i][j]. -/
def accAt (v : Vector (BitVec 32) 128) (n : Nat) : Nat := (v.toList.getD n 0).toNat

def Ctx.mapMat (c : Ctx) (f : MatState → MatState) : Ctx := { c with mat := f c.mat }

def matZero (o : MatAcc) (c : Ctx) (s : State) : EngOut :=
  .done s (c.mapMat fun m => m.setAcc o.acc (Vector.replicate 128 0))
def matRdRow (o : MatRow) (c : Ctx) (s : State) : EngOut :=
  .done s (c.resV o.d 0 (ofLanes 32 ((List.range 8).map fun j => accAt (c.mat.acc o.acc) (8 * o.row.toNat + j))))
/-- A row written lane by lane. -/
def putRow (v : Vector (BitVec 32) 128) (row : Nat) (xs : List Nat) : Vector (BitVec 32) 128 :=
  Vector.ofFn fun k => if k.val / 8 = row then BitVec.ofNat 32 (xs.getD (k.val % 8) 0) else v.get k
def matWrRow (o : MatWRow) (c : Ctx) (s : State) : EngOut :=
  .done s (c.mapMat fun m => m.setAcc o.acc (putRow (m.acc o.acc) o.row.toNat (c.regs.vrLanes 32 o.a)))
def matMov (o : MatAcc) (c : Ctx) (s : State) : EngOut :=
  .done s (c.mapMat fun m => m.setAcc o.acc (m.acc !o.acc))
def matSelA (o : GReg2) (c : Ctx) (s : State) : EngOut :=
  let b := c.regs.gr o.b
  .done s (c.mapMat fun m => { m with
    abase := (c.regs.gr o.a).extractLsb' 0 56, rs := b.extractLsb' 0 32, ks := b.extractLsb' 32 32 })
def matSelX (o : BReg) (c : Ctx) (s : State) : EngOut :=
  .done s (c.mapMat fun m => { m with axbase := (c.regs.gr o.a).extractLsb' 0 56 })
def matSelB (o : GSrc2) (c : Ctx) (s : State) : EngOut :=
  .done s (c.mapMat fun m => { m with
    bo := (c.regs.gs o.a).extractLsb' 0 16, xo := (c.regs.gs o.b).extractLsb' 0 16 })

/-! ### The operands of `mma` (R246 to R248) -/

/-- Block bytes of a type (R246). -/
def blockBytes (t : Ty) : Nat := if t = .bfp8 then 32 else if t = .bfp4 then 16 else 32 * t.bytes

/-- The page format that matches an A type (R247). -/
def pageFmtOf (t : Ty) : Nat :=
  match t with
  | .bfp8 => 1 | .bfp4 => 2 | .f16 => 0xA | .bf16 => 9 | .e4m3 => 7 | _ => 8

/-- The raw elements of a block. -/
def blockElems (t : Ty) (bytes : List Byte) : List Nat :=
  (List.range 32).map fun k =>
    if t = .bfp4 then bitsAt (bytesAt bytes (k / 2) 1) (4 * (k % 2)) 4
    else if t = .bfp8 then bytesAt bytes k 1
    else bytesAt bytes (k * t.bytes) t.bytes

/-- The values of a block under its exponent pair. -/
def blockVals (t : Ty) (bytes pair : List Byte) : List FVal :=
  (blockElems t bytes).map fun x => operandValue t x (bytesAt pair 0 1) (bytesAt pair 1 1)

/-- Address of row i's K block kb, modulo 2^64. -/
def AStream.blk (a : AStream) (m : MatState) (i kb : Nat) : Word :=
  BitVec.ofNat 64 (m.abase.toNat + i * a.rsx + kb * a.ksx)
/-- Address of its exponent pair in fixed memory. -/
def AStream.expo (a : AStream) (m : MatState) (bb i kb : Nat) : Word :=
  BitVec.ofNat 64 (m.axbase.toNat + 2 * ((i * a.rsx + kb * a.ksx) / bb))

/-- The first translation of `mma`: the tiling of the page that holds abase (R249). -/
def State.aStream (s : State) (c : Ctx) (bb : Nat) : Except Trap AStream :=
  let m := c.mat
  let a := m.abase.toNat
  let w : Word := m.abase.zeroExtend 64
  if a < 2 ^ 40 then .ok ⟨m.rs.toNat, m.ks.toNat, 0, false⟩
  else if 2 ^ 41 ≤ a ∧ a < 2 ^ 48 then .error ⟨cUnassigned, 0, w⟩
  else if a < 2 ^ 48 && !(s.frameRec (combFrame c.comb)).imported a then .error ⟨cPeer, 0, w⟩
  else
    match s.tlbFind c a with
    | none => .error ⟨cTranslation, 0, w⟩
    | some e =>
      if e.geom / 4 = 1 then .ok ⟨bb, 16 * bb, 1, true⟩ else .ok ⟨m.rs.toNat, m.ks.toNat, e.geom / 4, true⟩

/-- The address of a byte of sub-slice j of the own vault slice (R20, R248). -/
def sliceAddr (c : Ctx) (j off : Nat) : Word :=
  BitVec.ofNat 64 (2 ^ 33 + cellFci c.cell / 128 * 2 ^ 24 + cellIdx c.cell * 0x20000 + j * 0x4000 + off)

/-- The ranges that block kb of A reads, rows ascending, elements then exponents, as far as addresses fix them. -/
def aRanges (m : MatState) (a : AStream) (t : Ty) (kb : Nat) : List (Word × Nat) :=
  (List.range 16).flatMap fun i =>
    (a.blk m i kb, blockBytes t) ::
      (if t.isBfp && !a.paged then [(a.expo m (blockBytes t) i kb, 2)] else [])

/-- The ranges that block kb of B reads, columns ascending. -/
def bRanges (c : Ctx) (t : Ty) (kb : Nat) : List (Word × Nat) :=
  (List.range 8).flatMap fun j =>
    (sliceAddr c j (c.mat.bo.toNat + kb * blockBytes t), blockBytes t) ::
      (if t.isBfp then [(sliceAddr c j (c.mat.xo.toNat + 2 * kb), 2)] else [])

/-- A byte of the own local memory or of the own slice (R35). -/
def ownByte (c : Ctx) (a : Nat) : Bool :=
  a < 2 ^ 16 || (2 ^ 32 ≤ a && a < 2 ^ 32 + 2 ^ 29 && (a - 2 ^ 32) / 2 ^ 16 == cellFci c.cell) ||
    (2 ^ 33 ≤ a && a < 2 ^ 33 + 2 ^ 30 && (a - 2 ^ 33) / 2 ^ 17 == cellFci c.cell)

/-- The first address of ranges that is not own memory. -/
def firstForeign (c : Ctx) (rs : List (Word × Nat)) : Option Nat :=
  (rs.filterMap fun r => ((List.range r.2).find? fun k => !ownByte c (r.1.toNat + k)).map fun k => r.1.toNat + k).head?

/-- The window-bound fault of an access of `mma` or `mdrain` names its first failing byte (R249, R257). -/
def atByte (place : Word → Nat → Except Trap (List Part)) (va : Word) (len : Nat) : Except Trap (List Part) :=
  match place va len with
  | .ok ps => .ok ps
  | .error t =>
    if t.cause = cBound then
      let k := ((List.range len).find? fun k => (place (va + BitVec.ofNat 64 k) 1).toOption.isNone).getD 0
      .error { t with addr := va + BitVec.ofNat 64 k }
    else .error t

/-- The first window-bound fault of ranges in the fixed windows (R62, R63). -/
def State.firstBound (s : State) (c : Ctx) (rs : List (Word × Nat)) : Option Trap :=
  (rs.filterMap fun r =>
    if 2 ^ 40 ≤ r.1.toNat then none
    else match atByte (s.placeAt c .read) r.1 r.2 with
      | .error t => if t.cause = cBound then some t else none
      | .ok _ => none).head?

/-- The value a matrix-descriptor check finds wrong (R249 check 1), from block kb0. -/
def descriptorBad (c : Ctx) (a : AStream) (o : MmaOp) : Option Word :=
  let m := c.mat
  let n := o.nkb.toNat
  let ba := blockBytes o.ta
  let bb := blockBytes o.tb
  if n ≤ m.koff.toNat then some (BitVec.ofNat 64 (32 * m.koff.toNat))
  else if m.abase.toNat % ba ≠ 0 then some (m.abase.zeroExtend 64)
  else if a.tiling ≠ 1 ∧ m.rs.toNat % ba ≠ 0 then some (m.rs.zeroExtend 64)
  else if a.tiling ≠ 1 ∧ m.ks.toNat % ba ≠ 0 then some (m.ks.zeroExtend 64)
  else if o.ta.isBfp && !a.paged && m.axbase.toNat % 2 == 1 then some (m.axbase.zeroExtend 64)
  else if m.bo.toNat % bb ≠ 0 ∨ 0x4000 < m.bo.toNat + n * bb then some (m.bo.zeroExtend 64)
  else if o.tb.isBfp ∧ (m.xo.toNat % 2 = 1 ∨ 0x4000 < m.xo.toNat + 2 * n) then some (m.xo.zeroExtend 64)
  else none

/-- The checks of R249, in order, for blocks from kb0 on. -/
def State.mmaChecks (s : State) (c : Ctx) (a : AStream) (o : MmaOp) : Option Trap :=
  match descriptorBad c a o with
  | some x => some ⟨cMatrix, 0, x⟩
  | none =>
    let kb0 := c.mat.koff.toNat
    let kbs := (List.range (o.nkb.toNat - kb0)).map (· + kb0)
    let foreign :=
      if s.superstep c then (kbs.filterMap fun kb => firstForeign c (aRanges c.mat a o.ta kb)).head? else none
    match foreign with
    | some x => some ⟨cLocality, 0, BitVec.ofNat 64 x⟩
    | none => (kbs.filterMap fun kb => s.firstBound c (aRanges c.mat a o.ta kb ++ bRanges c o.tb kb)).head?

/-! ### Reading blocks -/

/-- The element bytes of a block of A with its page (R247). The page of paged space must have the format of the type and
the tiling of the stream. -/
def State.aElems (s : State) (c : Ctx) (a : AStream) (t : Ty) (i kb : Nat) : Except Trap (List Part × Option TlbEntry) :=
  let va := a.blk c.mat i kb
  match s.placeAt c .read va (blockBytes t) with
  | .error e => .error e
  | .ok ps =>
    if va.toNat < 2 ^ 40 then .ok (ps, none)
    else
      match ps.head?.map (s.decodeEntry c va) with
      | none => .error ⟨cFormat, 0, va⟩
      | some (.error t) => .error t
      | some (.ok e) =>
        if e.fmt ≠ pageFmtOf t ∨ e.geom ≠ 4 * a.tiling then .error ⟨cFormat, 0, va⟩ else .ok (ps, some e)

/-- The exponent pair of a block of A: in fixed memory at axbase, otherwise through the companion of its page (R247). -/
def State.aPair (s : State) (c : Ctx) (a : AStream) (t : Ty) (i kb : Nat) (e : Option TlbEntry) : Except Trap (List Part) :=
  if !t.isBfp then .ok []
  else
    match e with
    | none => s.placeAt c .read (a.expo c.mat (blockBytes t) i kb) 2
    | some e => s.companion c e (a.blk c.mat i kb)

/-- The parts of a run of bytes, each with its place in a buffer from `base` on. -/
def fromHere (base : Nat) (ps : List Part) : List (Part × Nat) :=
  withOffsets ((ps.head?.map fun p => p.va).getD 0) base ps

/-- The parts of a block of A, elements before exponents, or the fault that stops the loop (R250). -/
def State.aBlock (s : State) (c : Ctx) (a : AStream) (t : Ty) (kb i : Nat) : Except Trap (List (Part × Nat)) :=
  let at_ := i * (blockBytes t + 2)
  match s.aElems c a t i kb with
  | .error t => .error t
  | .ok (ps, e) =>
    match s.aPair c a t i kb e with
    | .error t => .error t
    | .ok qs => .ok (fromHere at_ ps ++ fromHere (at_ + blockBytes t) qs)

/-- The parts of a column's block of B and of its exponents, in the buffer from `base` on. -/
def State.bBlock (s : State) (c : Ctx) (base : Nat) (t : Ty) (kb j : Nat) : Except Trap (List (Part × Nat)) :=
  let at_ := base + j * (blockBytes t + 2)
  match s.placeAt c .read (sliceAddr c j (c.mat.bo.toNat + kb * blockBytes t)) (blockBytes t) with
  | .error t => .error t
  | .ok ps =>
    if !t.isBfp then .ok (fromHere at_ ps)
    else
      match s.placeAt c .read (sliceAddr c j (c.mat.xo.toNat + 2 * kb)) 2 with
      | .error t => .error t
      | .ok qs => .ok (fromHere at_ ps ++ fromHere (at_ + blockBytes t) qs)

/-- Pieces placed one after another; the first fault ends them. -/
def gatherParts (f : Nat → Except Trap (List (Part × Nat))) : List Nat → Except Trap (List (Part × Nat))
  | [] => .ok []
  | i :: is =>
    match f i with
    | .error t => .error t
    | .ok ps =>
      match gatherParts f is with
      | .error t => .error t
      | .ok qs => .ok (ps ++ qs)

/-- Where the blocks of B begin in the buffer of a K block. -/
def bBase (o : MmaOp) : Nat := 16 * (blockBytes o.ta + 2)
/-- Bytes of the buffer of a K block. -/
def blockLen (o : MmaOp) : Nat := bBase o + 8 * (blockBytes o.tb + 2)

/-- The reads of K block kb: rows of A ascending, then columns of B (R250). -/
def State.kBlock (s : State) (c : Ctx) (a : AStream) (o : MmaOp) (kb : Nat) : Except Trap (List (Part × Nat)) :=
  match gatherParts (s.aBlock c a o.ta kb) (List.range 16) with
  | .error t => .error t
  | .ok ps =>
    match gatherParts (s.bBlock c (bBase o) o.tb kb) (List.range 8) with
    | .error t => .error t
    | .ok qs => .ok (ps ++ qs)

/-- The values of `n` blocks that stand in a buffer from `base` on. -/
def bufBlocks (t : Ty) (base n : Nat) (buf : List Byte) : List (List FVal) :=
  (List.range n).map fun i =>
    let at_ := base + i * (blockBytes t + 2)
    blockVals t ((buf.drop at_).take (blockBytes t)) ((buf.drop (at_ + blockBytes t)).take 2)

/-- One pass of the loop: every element of the accumulator with its block sum added (R118, R250). A block that R119
skips has sum 0, which changes nothing. -/
def accumulate (acc : Vector (BitVec 32) 128) (as bs : List (List FVal)) : List FRes :=
  (List.range 128).map fun n =>
    accStep (accAt acc n) (blockSum ((as.getD (n / 8) []).zip (bs.getD (n % 8) [])))

/-- The flags of the 16 rows of results. -/
def rowFlags (rs : List FRes) : List FFlags :=
  (List.range 16).map fun i => orFlags (((rs.drop (8 * i)).take 8).map FRes.flags)

/-- A step of an `mma` on a context (R249, R250). -/
inductive MmaStep
  /-- its checks have passed -/
  | begun (a : AStream)
  /-- the reads of the block at sr.mprog issue -/
  | read (ps : List (Part × Nat))
  /-- reads are under way -/
  | wait
  /-- a block has been added, the last one when `last` -/
  | added (c : Ctx) (last : Bool)
  | trap (c : Ctx) (t : Trap)
  | absent (frame : Nat)

/-- One pass of the loop of R250: the block at sr.mprog is added, or traps and leaves everything as it was. -/
def mmaAdd (o : MmaOp) (buf : List Byte) (c : Ctx) : MmaStep :=
  let rs := accumulate (c.mat.acc o.acc) (bufBlocks o.ta 0 16 buf) (bufBlocks o.tb (bBase o) 8 buf)
  let d := c.sr.fpDone (rowFlags rs)
  if d.2 then .trap { c with sr := d.1 } ⟨cFp, 0, 0⟩
  else
    let acc := Vector.ofFn fun (k : Fin 128) => BitVec.ofNat 32 ((rs.map FRes.bits).getD k.val 0)
    let last := decide (o.nkb.toNat ≤ c.mat.koff.toNat + 1)
    .added { (c.mapMat fun m => { m.setAcc o.acc acc with koff := if last then 0 else m.koff + 1 }) with sr := d.1 } last

/-- The next step of an `mma`: its checks, the reads of a block, or the pass over a block that has been read (R249, R250,
R258). -/
def mmaStep (o : MmaOp) (run : Option MatRun) (c : Ctx) (s : State) : MmaStep :=
  match run with
  | none =>
    match s.aStream c (blockBytes o.ta) with
    | .error t => .trap c t
    | .ok a =>
      match s.mmaChecks c a o with
      | some t => .trap c t
      | none => .begun a
  | some r =>
    if r.waiting then .wait
    else
      match r.buf with
      | some buf => mmaAdd o buf c
      | none =>
        match s.kBlock c r.a o c.mat.koff.toNat with
        | .error t => .trap c t
        | .ok ps =>
          match s.absentPart (ps.map Prod.fst) with
          | some f => .absent f
          | none => .read ps

/-- Inline `mma`: its reads issue from the context, in program order (R258), and it can be stopped between two blocks
(R253). -/
def matMma (o : MmaOp) (c : Ctx) (s : State) : EngOut :=
  match mmaStep o c.mrun c s with
  | .begun a => .busy s { c with mrun := some ⟨a, false, none⟩ }
  | .read ps =>
    let parts := ps.map Prod.fst
    let c : Ctx := { c with mrun := c.mrun.map fun r => { r with waiting := true } }
    .busy (s.tlbTouch c parts) ((c.pushLoad .mat (blockLen o) ps .plain).charge parts)
  | .wait => .wait .drain
  | .added c true => .done s { c with mrun := none }
  | .added c false => .busy s { c with mrun := c.mrun.map fun r => { r with buf := none } }
  | .trap c t => .trap s c t
  | .absent f => .absent f

/-! ### mdrain (R255 to R257) -/

/-- The exact product of three values, with the specials of multiplication (R113). -/
def rawProd3 (a b c : FVal) : Raw :=
  match prodVal a b with
  | none => .nan true
  | some p => rawMul p c

/-- x = C[i][j] × r[i] × c[j]; every scale is 1.0 when nos = 1. -/
def drainRaw (o : MdrainOp) (c : Ctx) (n : Nat) : Raw :=
  let x := FFmt.f32.value (accAt (c.mat.acc o.acc) n)
  let one : FVal := .fin false 1 0
  let i := n / 8
  let r := if o.nos then one else FFmt.f32.value (laneOf 32 (c.regs.rv (o.vr + BitVec.ofNat 5 (i / 8))) (i % 8))
  let k := if o.nos then one else FFmt.f32.value (laneOf 32 (c.regs.rv o.vc) (n % 8))
  rawProd3 x r k

/-- The 128 results of a float drain. -/
def drainFloat (o : MdrainOp) (c : Ctx) : List FRes :=
  (List.range 128).map fun n => (drainRaw o c n).round (Ty.fmt o.ty) (modeAt c.sr o.rm n)

/-- The elements of a BFP drain and the pairs of its four blocks: to FP32 in RNE, then the block encode (R111). -/
def drainBfp (o : MdrainOp) (c : Ctx) : List FRes × List (Nat × Nat) :=
  let four := o.ty == .bfp4
  let t := (List.range 128).map fun n => (drainRaw o c n).round .f32 .rne
  let pairs := (List.range 4).map fun b =>
    bfpPair four (((t.drop (32 * b)).take 32).map fun r => FFmt.f32.value r.bits)
  (t.mapIdx fun n r =>
    let p := pairs.getD (n / 32) (0, 0)
    let e := bfpEncode four p.1 p.2 (modeAt c.sr o.rm n) (bitsAt r.bits 31 1 == 1) (FFmt.f32.value r.bits)
    ⟨e.bits, e.flags ||| r.flags⟩, pairs)

/-- A store of a drain: address, whether its register is sp, and the bytes. -/
structure DrainStore where
  va : Word
  stack : Bool
  bytes : List Byte
  deriving DecidableEq, Repr

/-- The stores of a drain, in order, and the flags of its rows. Only the main sequencer makes stack accesses (R68). -/
def drainStores (o : MdrainOp) (forked : Bool) (c : Ctx) : List DrainStore × List FFlags :=
  let a := c.regs.gr o.a
  let b := c.regs.gr o.b
  if o.ty.isBfp then
    let r := drainBfp o c
    let bits := if o.ty = .bfp4 then 4 else 8
    let elems := bytesOf (16 * bits) (packLanes bits (r.1.map FRes.bits))
    let pairs := r.2.flatMap fun p => [BitVec.ofNat 8 p.1, BitVec.ofNat 8 p.2]
    ([⟨a, !forked && isSp o.a.r, elems⟩, ⟨b, !forked && isSp o.b.r, pairs⟩], rowFlags r.1)
  else
    let rs := drainFloat o c
    ((List.range 16).map fun i =>
      ⟨a + BitVec.ofNat 64 i * b, !forked && isSp o.a.r,
        bytesOf (8 * o.ty.bytes) (packLanes o.ty.bits (((rs.drop (8 * i)).take 8).map FRes.bits))⟩, rowFlags rs)

/-- Place a store of a drain. -/
def State.placeDrain (s : State) (c : Ctx) (d : DrainStore) : Except Trap (List Part) :=
  atByte (s.place c .write d.stack) d.va d.bytes.length

/-- Place stores one after another, each part with its bytes. -/
def State.placeStores (s : State) (c : Ctx) : List DrainStore → Except Trap (List (Part × List (Option Byte)))
  | [] => .ok []
  | d :: ds =>
    match s.placeDrain c d with
    | .error t => .error t
    | .ok ps =>
      match s.placeStores c ds with
      | .error t => .error t
      | .ok qs => .ok (partData d.bytes (fromHere 0 ps) ++ qs)

/-- The first fault of a kind among the stores of a drain: the checks of R257 come one kind after another. -/
def State.drainFault (s : State) (c : Ctx) (ds : List DrainStore) (kind : Trap → Bool) : Option Trap :=
  (ds.filterMap fun d =>
    match s.placeDrain c d with
    | .error t => if kind t then some t else none
    | .ok _ => none).head?

/-- The first foreign address of the stores of a drain in superstep mode. -/
def State.drainForeign (s : State) (c : Ctx) (ds : List DrainStore) : Option Trap :=
  if !s.superstep c then none
  else
    (ds.filterMap fun d =>
      if d.stack then
        match s.place c .write true d.va d.bytes.length with
        | .error t => if t.cause = cLocality then some t else none
        | .ok _ => none
      else (firstForeign c [(d.va, d.bytes.length)]).map fun x => ⟨cLocality, 0, BitVec.ofNat 64 x⟩).head?

/-- The checks of `mdrain`: alignment of a BFP destination, locality, bounds, then every other address fault. -/
def State.drainChecks (s : State) (c : Ctx) (o : MdrainOp) (ds : List DrainStore) : Option Trap :=
  let a := c.regs.gr o.a
  let b := c.regs.gr o.b
  if o.ty = .bfp8 ∧ a.toNat % 32 ≠ 0 ∨ o.ty = .bfp4 ∧ a.toNat % 16 ≠ 0 then some ⟨cMatrix, 0, a⟩
  else if o.ty.isBfp ∧ b.toNat % 2 ≠ 0 then some ⟨cMatrix, 0, b⟩
  else
    match s.drainForeign c ds with
    | some t => some t
    | none =>
      match s.drainFault c ds (fun t => t.cause == cBound) with
      | some t => some t
      | none => s.drainFault c ds (fun _ => true)

/-- What a drain leaves of its context once its last store has issued (R257): its flags, its use of the counter, and the
accumulator cleared by a `zero` drain. -/
def drainEnd (o : MdrainOp) (flags : List FFlags) (c : Ctx) : Ctx :=
  let c := { c with sr := (c.sr.fpDone flags).1.consume o.rm 128 }
  if o.zero then c.mapMat fun m => m.setAcc o.acc (Vector.replicate 128 0) else c

/-- What a drain comes to. -/
inductive DrainOut
  /-- its stores, and the context once they have issued -/
  | stores (ps : List (Part × List (Option Byte))) (c : Ctx)
  | trap (c : Ctx) (t : Trap)
  | absent (frame : Nat)

/-- `mdrain` on a context, up to its stores: all or nothing (R256, R257). -/
def drainOf (o : MdrainOp) (forked : Bool) (c : Ctx) (s : State) : DrainOut :=
  let r := drainStores o forked c
  match s.drainChecks c o r.1 with
  | some t => .trap c t
  | none =>
    match s.placeStores c r.1 with
    | .error t => .trap c t
    | .ok ps =>
      let parts := ps.map Prod.fst
      let d := c.sr.fpDone r.2
      if d.2 then .trap { c with sr := d.1 } ⟨cFp, 0, 0⟩
      else
        match s.absentPart parts, s.sealedPart parts with
        | some f, _ => .absent f
        | none, some t => .trap (c.charge parts) t
        | none, none => .stores ps ((drainEnd o r.2 c).charge parts)

/-- The mark of an inline `zero` drain whose stores have been placed: they follow it in program order. -/
def Ctx.drainMark (c : Ctx) : Option Pend := c.pend.find? fun p => p.dest == Dest.none && p.pc == c.pc

/-- Inline `mdrain`: its stores issue from the context, in program order (R258); a `zero` drain is over, and clears its
accumulator, when the last of them has issued. -/
def matDrain (o : MdrainOp) (c : Ctx) (s : State) : EngOut :=
  match c.drainMark with
  | some p =>
    if c.mq.iq.any fun x => p.id < x.seq then .wait .drain
    else .done s (drainEnd o (drainStores o false c).2 { c with pend := c.pend.filter fun x => x.id != p.id })
  | none =>
    match drainOf o false c s with
    | .stores ps d =>
      let parts := ps.map Prod.fst
      if o.zero then .busy (s.tlbTouch c parts) (((c.expect Dest.none 1 0).2.pushStore ps .plain false).charge parts)
      else .done (s.tlbTouch c parts) (d.pushStore ps .plain false)
    | .trap c t => .trap s c t
    | .absent f => .absent f

/-! ### Inline forms -/

def execMzero (h : Hdr) (o : MatAcc) (s : State) : Out := inlineMat h (matZero o) s
def execMrdrow (h : Hdr) (o : MatRow) (s : State) : Out := inlineMat h (matRdRow o) s
def execMwrrow (h : Hdr) (o : MatWRow) (s : State) : Out := inlineMat h (matWrRow o) s
def execMmov (h : Hdr) (o : MatAcc) (s : State) : Out := inlineMat h (matMov o) s
def execMasel (h : Hdr) (o : GReg2) (s : State) : Out := inlineMat h (matSelA o) s
def execMasx (h : Hdr) (o : BReg) (s : State) : Out := inlineMat h (matSelX o) s
def execMbsel (h : Hdr) (o : GSrc2) (s : State) : Out := inlineMat h (matSelB o) s
def execMma (h : Hdr) (o : MmaOp) (s : State) : Out := inlineMat h (matMma o) s
def execMdrain (h : Hdr) (o : MdrainOp) (s : State) : Out := inlineMat h (matDrain o) s

end Sys2Proof.Machine
end

