-- ==== Sys2Proof/Machine/CopyEngine.lean ====
section
/-!
DEFINITION. The copy engine (R288 to R290). A copy moves piece by piece: the source bytes of a piece are read, then
written to their destination; a piece is at most one destination line of `cpy` or `cpyf`, the companion bytes of its
blocks, or one K block of `cpyb`. The accesses are messages of the queue (R84, R86, R97).
-/
namespace Sys2Proof.Machine

/-- What one step of a copy leaves. -/
inductive CopyOut
  | more (s : State) (o : CopyOp)
  | done (s : State) (st : HState) (res det : Word)
  | wait
  /-- its write finds no room in the dirty log (R349) -/
  | held
  | absent (frame : Nat)

/-- The queue that a copy runs on, with the number of its accesses. -/
structure Port where
  src : Source
  id : Nat
  deriving DecidableEq, Repr

/-! ### Result words (R281, R287) -/

/-- The result word of a copy that a fault has ended: the fault, the bytes completed. -/
def copyFault (t : Trap) (n : Nat) : Word := BitVec.ofNat 64 (2 ^ 48 + t.cause * 2 ^ 32 + n % 2 ^ 32)

/-- A copy whose words are known: it is over once every access has been acknowledged (R99). -/
def CopyOp.end_ (o : CopyOp) (s : State) (st : HState) (res det : Word) : CopyOut :=
  .more s { o with piece := none, fin := some (st, res, det) }

/-- FAILED with cause fault: the bytes completed, the failing address. A translation fault goes to the translation cell as
well (R288). -/
def CopyOp.fail (o : CopyOp) (s : State) (c : Ctx) (t : Trap) (n : Nat) : CopyOut :=
  let s := if t.cause = cTranslation then s.askPage c t.addr.toNat else s
  o.end_ s .failed (copyFault t n) t.addr
def CopyOp.format (o : CopyOp) (s : State) : CopyOut := o.end_ s .failed (BitVec.ofNat 64 (2 * 2 ^ 48)) 0
def CopyOp.overlap (o : CopyOp) (s : State) : CopyOut := o.end_ s .failed (BitVec.ofNat 64 (3 * 2 ^ 48)) 0
def CopyOp.ok (o : CopyOp) (s : State) (n : Nat) : CopyOut := o.end_ s .done (BitVec.ofNat 64 n) 0

/-! ### Ranges -/

/-- A range that is checked page by page (R288): it lies in paged global space or in the peer window. -/
def pagedRange (va : Word) (len : Nat) : Bool :=
  (2 ^ 40 ≤ va.toNat && va.toNat + len ≤ 2 ^ 41) || (2 ^ 48 ≤ va.toNat && va.toNat + len ≤ 2 ^ 56)

/-- The check of a whole range before a copy touches any byte: one that is not checked page by page. -/
def State.rangeFault (s : State) (c : Ctx) (use : Use) (va : Word) (len : Nat) : Option Trap :=
  if pagedRange va len then none
  else match s.placeAt c use va len with
    | .error t => some t
    | .ok _ => none

/-- How many of the first `n` bytes of a range can be placed, and the fault of the byte after them. -/
def State.reach (s : State) (c : Ctx) (use : Use) (va : Word) (n : Nat) : Nat × Option Trap :=
  match s.placeAt c use va n with
  | .ok _ => (n, none)
  | .error t => (min n (t.addr.toNat - va.toNat), some t)

/-- Parts that are known to be placed. -/
def State.partsOf (s : State) (c : Ctx) (use : Use) (va : Word) (n : Nat) : List Part :=
  if n = 0 then []
  else match s.placeAt c use va n with
    | .ok ps => ps
    | .error _ => []

/-- The fault that ends a piece: the one at the lower offset, the source's first. -/
def pieceFault (a b : Nat × Option Trap) : Option Trap :=
  if a.1 ≤ b.1 then firstFault [a.2, b.2] else firstFault [b.2, a.2]

/-! ### Pages of formatted and panel copies -/

/-- The entries of the 64 KiB units that hold bytes of a range, with the offset at which each begins in the range. -/
def State.unitsOf (s : State) (c : Ctx) (va : Word) (len : Nat) : List (Nat × Option TlbEntry) :=
  (List.range ((va.toNat % 2 ^ 16 + len + 2 ^ 16 - 1) / 2 ^ 16)).map fun k =>
    let a := if k = 0 then va.toNat else va.toNat / 2 ^ 16 * 2 ^ 16 + k * 2 ^ 16
    (a - va.toNat, s.tlbFind c a)

/-- The offset at which the first unit without a translation begins. -/
def missingAt (us : List (Nat × Option TlbEntry)) : Option Nat := (us.find? fun u => u.2.isNone).map Prod.fst

/-- The entries that are there. -/
def entriesOf (us : List (Nat × Option TlbEntry)) : List TlbEntry := us.filterMap Prod.snd

/-- The entry of an address, when it has the format and geometry that the checks found. A page that has others by now is met
as a translation fault: the copy has answered for the format (log 84). -/
def State.checkedEntry (s : State) (c : Ctx) (g : CopyPage) (va : Word) : Except Trap TlbEntry :=
  match s.tlbFind c va.toNat with
  | none => .error ⟨cTranslation, 0, va⟩
  | some e => if e.fmt = g.fmt ∧ e.geom = g.geom then .ok e else .error ⟨cTranslation, 0, va⟩

/-! ### Moving a piece -/

/-- Bytes of the buffer that parts with places need. -/
def bufferLen (ps : List (Part × Nat)) : Nat := ps.foldl (fun n p => max n (p.2 + p.1.len)) 0

/-- The reads of a piece issue. -/
def CopyOp.readPiece (p : Port) (o : CopyOp) (c : Ctx) (s : State) (src : List (Part × Nat)) (x : Piece) : CopyOut :=
  let sp := src.map Prod.fst
  let dp := x.dst.map Prod.fst
  match s.absentPart (sp ++ dp) with
  | some f => .absent f
  | none =>
    let s := ((s.tlbTouch c (sp ++ dp)).updCtx c.cid fun c => c.charge sp).ioSendReads p.src p.id (bufferLen src) src
    .more s { o with piece := some x }

/-- The bytes of a piece have been read: its writes issue. -/
def State.writePiece (s : State) (p : Port) (c : Ctx) (x : Piece) : Option State :=
  let dp := x.dst.map Prod.fst
  (State.dirtyParts c dp s).map fun s =>
    (s.updCtx c.cid fun c => c.charge dp).ioSendWrites p.src p.id (partData (s.ioBytes p.src p.id) x.dst)

/-- What follows a piece that has been written. -/
def CopyOp.after (o : CopyOp) (c : Ctx) (s : State) (total : Nat) (x : Piece) : CopyOut :=
  match x.fault with
  | some t => o.fail s c t x.next
  | none => if total ≤ x.next then o.ok s total else .more s { o with pos := x.next, comp := false, piece := none }

/-! ### cpy (R288) -/

/-- The checks before a copy touches any byte: overlap, then each range that is checked whole. -/
def copyStart (o : CopyOp) (c : Ctx) (s : State) (k : CopyOut) : CopyOut :=
  if o.pos ≠ 0 then k
  else if o.dst.toNat < o.src.toNat + o.len ∧ o.src.toNat < o.dst.toNat + o.len then o.overlap s
  else
    match s.rangeFault c .read o.src o.len with
    | some t => o.fail s c t 0
    | none =>
      match s.rangeFault c .write o.dst o.len with
      | some t => o.fail s c t 0
      | none => k

/-- One destination line of a copy: at most `m` bytes of it are moved, and `f` ends the copy after them. -/
def CopyOp.linePiece (p : Port) (o : CopyOp) (c : Ctx) (s : State) (m : Nat) (f : Option Trap) : CopyOut :=
  match m, f with
  | 0, some t => o.fail s c t o.pos
  | m, f =>
    let src := s.partsOf c .read (o.src + BitVec.ofNat 64 o.pos) m
    let dst := s.partsOf c .write (o.dst + BitVec.ofNat 64 o.pos) m
    o.readPiece p c s (fromHere 0 src) ⟨fromHere 0 dst, o.pos + m, f⟩

/-- The bytes of the destination line at the position of a copy. -/
def CopyOp.lineLen (o : CopyOp) : Nat := min (64 - (o.dst.toNat + o.pos) % 64) (o.len - o.pos)

/-- A destination line of a raw copy. -/
def copyLine (p : Port) (o : CopyOp) (c : Ctx) (s : State) : CopyOut :=
  let a := s.reach c .read (o.src + BitVec.ofNat 64 o.pos) o.lineLen
  let b := s.reach c .write (o.dst + BitVec.ofNat 64 o.pos) o.lineLen
  o.linePiece p c s (min a.1 b.1) (pieceFault a b)

/-! ### cpyf (R80, R289) -/

/-- What the checks of a formatted or panel copy find before it touches a byte: a page without a translation, which ends it
there (log 84), pages that do not fit, or the format and geometry of its pages. -/
inductive Fit
  | missing (t : Trap)
  | unfit
  | fits (g : CopyPage)

/-- The first page without a translation, of the source before the destination at one offset. -/
def State.missingPage (a b : Word) (us ud : List (Nat × Option TlbEntry)) : Option Trap :=
  let miss := fun (v : Word) (k : Nat) => (⟨cTranslation, 0, v + BitVec.ofNat 64 k⟩ : Trap)
  match missingAt us, missingAt ud with
  | none, none => none
  | some k, none => some (miss a k)
  | none, some k => some (miss b k)
  | some k, some l => some (if k ≤ l then miss a k else miss b l)

/-- The conditions of R80: one block format and geometry, and ranges of whole blocks. -/
def State.blocksFit (s : State) (c : Ctx) (o : CopyOp) : Fit :=
  let us := s.unitsOf c o.src o.len
  let ud := s.unitsOf c o.dst o.len
  if !(pagedRange o.src o.len && pagedRange o.dst o.len) then .unfit
  else
    match entriesOf us ++ entriesOf ud, State.missingPage o.src o.dst us ud with
    | [], some t => .missing t
    | [], none => .unfit
    | e :: es, m =>
      let bb := fmtBlockBytes e.fmt
      if fmtCb e.fmt != 0 && (es.all fun x => x.fmt == e.fmt && x.geom == e.geom) &&
          o.src.toNat % bb == 0 && o.dst.toNat % bb == 0 && o.len % bb == 0 then
        match m with
        | some t => .missing t
        | none => .fits ⟨e.fmt, e.geom⟩
      else .unfit

/-- The companion parts of a block at an offset of a formatted copy: source and destination. -/
def State.blockCompanions (s : State) (c : Ctx) (o : CopyOp) (g : CopyPage) (off : Nat) :
    Except Trap (List Part × List Part) :=
  let sv := o.src + BitVec.ofNat 64 off
  let dv := o.dst + BitVec.ofNat 64 off
  match s.checkedEntry c g sv with
  | .error t => .error t
  | .ok se =>
    match s.checkedEntry c g dv with
    | .error t => .error t
    | .ok de =>
      match s.companionAt c .read se sv with
      | .error t => .error t
      | .ok ps =>
        match s.companionAt c .write de dv with
        | .error t => .error t
        | .ok qs => .ok (ps, qs)

/-- The companions of blocks one after another, up to the first fault. DESIGN CHOICE (log 84): a page of blocks that names no
companion, or one that is not a raw page of its size, ends the copy as a translation fault at its block. -/
def State.copyCompanions (s : State) (c : Ctx) (o : CopyOp) (g : CopyPage) :
    List Nat → List (List Part × List Part) × Option Trap
  | [] => ([], none)
  | off :: offs =>
    match s.blockCompanions c o g off with
    | .error t => ([], some { t with cause := if t.cause = cFormat then cTranslation else t.cause })
    | .ok x =>
      let r := s.copyCompanions c o g offs
      (x :: r.1, r.2)

/-- The offsets of the blocks in `m` bytes at the position of a copy. -/
def CopyOp.blockOffs (o : CopyOp) (g : CopyPage) (m : Nat) : List Nat :=
  (List.range (m / fmtBlockBytes g.fmt)).map fun k => o.pos + k * fmtBlockBytes g.fmt

/-- The element bytes of the blocks of a destination line whose companions can be placed. -/
def copyBlocks (p : Port) (o : CopyOp) (c : Ctx) (g : CopyPage) (s : State) : CopyOut :=
  let a := s.reach c .read (o.src + BitVec.ofNat 64 o.pos) o.lineLen
  let b := s.reach c .write (o.dst + BitVec.ofNat 64 o.pos) o.lineLen
  let r := s.copyCompanions c o g (o.blockOffs g (min a.1 b.1))
  o.linePiece p c s (r.1.length * fmtBlockBytes g.fmt) (firstFault [r.2, pieceFault a b])

/-- The companion bytes of the blocks of a piece, after its element bytes. -/
def copyCompanionPiece (p : Port) (o : CopyOp) (c : Ctx) (g : CopyPage) (s : State) (x : Piece) : CopyOut :=
  let r := s.copyCompanions c o g (o.blockOffs g (x.next - o.pos))
  match r.2 with
  | some t => o.fail s c t o.pos
  | none =>
    let at_ := fun (f : List Part × List Part → List Part) => (r.1.mapIdx fun k b => fromHere (k * fmtCb g.fmt) (f b)).flatten
    { o with comp := true }.readPiece p c s (at_ Prod.fst) { x with dst := at_ Prod.snd }

/-! ### cpyb (R290) -/

/-- The B type of a page format, if it names one. -/
def panelTy (fmt : Nat) : Option Ty :=
  match fmt with
  | 1 => some .bfp8
  | 2 => some .bfp4
  | 7 => some .e4m3
  | 8 => some .e5m2
  | 9 => some .bf16
  | 0xA => some .f16
  | _ => none

/-- bo and xo of the register gb. -/
def panelBo (w : Word) : Nat := bitsAt w.toNat 0 16
def panelXo (w : Word) : Nat := bitsAt w.toNat 16 16

/-- The matrix-descriptor limits of a panel for a type (R249 check 1). -/
def panelBad (t : Ty) (w : Word) (nkb : Nat) : Option Word :=
  let bb := blockBytes t
  if panelBo w % bb ≠ 0 ∨ 0x4000 < panelBo w + nkb * bb then some (BitVec.ofNat 64 (panelBo w))
  else if t.isBfp ∧ (panelXo w % 2 = 1 ∨ 0x4000 < panelXo w + 2 * nkb) then some (BitVec.ofNat 64 (panelXo w))
  else none

/-- Bytes of a K block of eight columns. -/
def panelBytes (t : Ty) : Nat := 8 * blockBytes t

/-- Bytes of the source of a panel: as its first page has them, otherwise the least that a format gives. -/
def panelLen (fmt nkb : Nat) : Nat := nkb * ((panelTy fmt).map panelBytes).getD 128

/-- The conditions on the pages of a panel: tiling 0b10, one format that names a B type, and a source address on a K-block
boundary. -/
def State.panelFit (s : State) (c : Ctx) (o : CopyOp) : Fit :=
  match s.tlbFind c o.src.toNat with
  | none => if pagedRange o.src 1 then .missing ⟨cTranslation, 0, o.src⟩ else .unfit
  | some e =>
    let len := panelLen e.fmt o.len
    let us := s.unitsOf c o.src len
    match panelTy e.fmt with
    | none => .unfit
    | some t =>
      if pagedRange o.src len && (entriesOf us).all (fun x => x.geom == 8 && x.fmt == e.fmt) &&
          (o.src.toNat - e.base) % panelBytes t == 0 then
        match missingAt us with
        | some k => .missing ⟨cTranslation, 0, o.src + BitVec.ofNat 64 k⟩
        | none => .fits ⟨e.fmt, 8⟩
      else .unfit

/-- The parts of one column's block: source elements, source pair, destination elements, destination pair, each with its
place. -/
def State.panelColumn (s : State) (c : Ctx) (g : CopyPage) (t : Ty) (o : CopyOp) (kb j : Nat) :
    Except Trap (List (Part × Nat) × List (Part × Nat)) :=
  let bb := blockBytes t
  let off := o.pos + j * bb
  let at_ := j * (bb + 2)
  let v := o.src + BitVec.ofNat 64 off
  match s.placeAt c .read v bb with
  | .error t => .error t
  | .ok sp =>
    match s.checkedEntry c g v with
    | .error t => .error t
    | .ok e =>
      match s.placeAt c .write (sliceAddr c j (panelBo o.bsel + kb * bb)) bb with
      | .error t => .error t
      | .ok dp =>
        if !t.isBfp then .ok (fromHere at_ sp, fromHere at_ dp)
        else
          match s.companionAt c .read e v with
          | .error t => .error t
          | .ok sq =>
            match s.placeAt c .write (sliceAddr c j (panelXo o.bsel + 2 * kb)) 2 with
            | .error t => .error t
            | .ok dq => .ok (fromHere at_ sp ++ fromHere (at_ + bb) sq, fromHere at_ dp ++ fromHere (at_ + bb) dq)

/-- All columns of a K block. -/
def State.panelColumns (s : State) (c : Ctx) (g : CopyPage) (t : Ty) (o : CopyOp) (kb : Nat) :
    List Nat → Except Trap (List (Part × Nat) × List (Part × Nat))
  | [] => .ok ([], [])
  | j :: js =>
    match s.panelColumn c g t o kb j with
    | .error t => .error t
    | .ok p =>
      match s.panelColumns c g t o kb js with
      | .error t => .error t
      | .ok q => .ok (p.1 ++ q.1, p.2 ++ q.2)

/-- One K block of a panel copy. -/
def copyPanel (p : Port) (o : CopyOp) (c : Ctx) (g : CopyPage) (s : State) : CopyOut :=
  match panelTy g.fmt with
  | none => o.format s
  | some t =>
    match (if o.pos = 0 then panelBad t o.bsel o.len else none) with
    | some x => o.fail s c ⟨cMatrix, 0, x⟩ 0
    | none =>
      match s.panelColumns c g t o (o.pos / panelBytes t) (List.range 8) with
      | .error t => o.fail s c { t with cause := if t.cause = cFormat then cTranslation else t.cause } o.pos
      | .ok (src, dst) => o.readPiece p c s src ⟨dst, o.pos + panelBytes t, none⟩

/-! ### A step of a copy -/

/-- The length of a copy in bytes. -/
def CopyOp.total (o : CopyOp) : Nat :=
  match o.kind with
  | .panel => panelLen ((o.page.map fun g => g.fmt).getD 0) o.len
  | _ => o.len

/-- What follows the checks of format. -/
def CopyOp.fitted (o : CopyOp) (c : Ctx) (s : State) : Fit → CopyOut
  | .missing t =>
    match s.placeAt c .read t.addr 1 with
    | .error u => o.fail s c (if u.cause = cPeer then u else t) 0
    | .ok _ => o.fail s c t 0
  | .unfit => o.format s
  | .fits g => .more s { o with page := some g }

/-- The next piece of a copy; a formatted or panel copy has made its checks of format before its first piece. -/
def CopyOp.nextPiece (p : Port) (o : CopyOp) (c : Ctx) (s : State) : CopyOut :=
  match o.kind, o.page with
  | .raw, _ => copyStart o c s (copyLine p o c s)
  | .formatted, some g => copyStart o c s (copyBlocks p o c g s)
  | .formatted, none => copyStart o c s (o.fitted c s (s.blocksFit c o))
  | .panel, some g => copyPanel p o c g s
  | .panel, none => o.fitted c s (s.panelFit c o)

/-- One step of a copy: its next piece, the writes of a piece that has been read, or its end (R99). An access that is
answered with an error ends it. -/
def copyStep (p : Port) (o : CopyOp) (c : Ctx) (s : State) : CopyOut :=
  match o.fin with
  | some (st, res, det) =>
    if !s.ioOver p.src p.id then .wait
    else
      match (if st = .done then s.ioBad p.src p.id else none) with
      | some t => .done (s.ioDrop p.src p.id) .failed (copyFault t o.pos) t.addr
      | none => .done (s.ioDrop p.src p.id) st res det
  | none =>
    if !s.ioRead? p.src p.id then .wait
    else
      match s.ioBad p.src p.id with
      | some t => o.fail s c t o.pos
      | none =>
        match o.piece with
        | none => o.nextPiece p c s
        | some x =>
          match s.writePiece p c x with
          | none => .held
          | some s =>
            match o.kind, o.page, o.comp with
            | .formatted, some g, false => copyCompanionPiece p o c g s x
            | _, _, _ => o.after c s o.total x

end Sys2Proof.Machine
end

