-- ==== Sys2Proof/Machine/Sync.lean ====
section
/-!
DEFINITION. Fences (R272), waits on addresses and event counters (R273 to R275), mailboxes (R276, R277), barriers and
the forager probe (R278).
-/
namespace Sys2Proof.Machine

/-! ### Fences (R92, R272) -/

/-- Place a fence marker. -/
def Ctx.fence (c : Ctx) (k : FenceKind) (scope : Word) : Ctx :=
  let f := c.fresh
  { f.2 with mq := { f.2.mq with marks := f.2.mq.marks ++ [⟨f.1, k, scope⟩] } }

def fenceOp (k : FenceKind) (h : Hdr) (o : FenceS) (s : State) : Out :=
  onPred h (fun s =>
    match scopeFault s.th o.s with
    | some t => faultOut s t
    | none => .next (s.mapTh fun c => (c.fence k (scopeValue c o.s)).retire)) s

def execFenceAcq (h : Hdr) (s : State) : Out := onPred h (fun s => .next (s.mapTh fun c => (c.fence .acq 0).retire)) s
def execFenceRel (h : Hdr) (o : FenceS) (s : State) : Out := fenceOp .rel h o s
def execFenceFull (h : Hdr) (o : FenceS) (s : State) : Out := fenceOp .full h o s

/-! ### Waits (R274, R275) -/

/-- The deadline that a timeout register names: none for field 0 or a zero value. -/
def waitDeadline (c : Ctx) (t : BitVec 6) (now : Nat) : Option Nat :=
  let v := c.regs.rg t
  if t = 0 ∨ v = 0 then none else some (now + v.toNat)

/-- The context issues a wait; the step that enters it in its table parks the context. A context has one wait at a time:
the next one waits for the status of the one before it. DESIGN CHOICE (log 96): the manual does not say whether a wait may
issue before the one before it has been compared. -/
def Ctx.startWait (c : Ctx) (d t : BitVec 6) (now : Nat) (f : Nat → Nat → MemOp) : Ctx :=
  let e := c.expect (.status d) 1 8
  { e.2.push (f e.1) with wait := some ⟨e.1, d, waitDeadline c t now, none, false⟩ }.run

def execWaitaddr (h : Hdr) (o : WaitAddr) (s : State) : Out :=
  onDet 2 (fun s => s.isFree s.th) (onPred h fun s =>
    let ea := effAddr s.th o.a o.disp
    match alignFault ea o.ty.bytes with
    | some t => faultOut s t
    | none =>
      match s.place s.th .read (isSp o.a.r) ea o.ty.bytes with
      | .error t => faultOut s t
      | .ok ps =>
        match atomicHome ea ps with
        | some t => faultOut s t
        | none =>
          match s.absentPart ps, ps with
          | some k, _ => .fault (.absentStack k)
          | none, [] => .next s.retire
          | none, p :: _ =>
            if s.th.wait.isSome then parkOut s .drain
            else
              let x := zext64 o.ty.bits (s.th.regs.gs o.b).toNat
              let start := fun (c : Ctx) =>
                (c.charge ps).startWait o.d o.t s.now fun pend => p.op .plain (.wait ⟨o.ty, x⟩ pend)
              settleAccess s .read ps ((s.mapTh start).tlbTouch s.th ps)) s

/-- The mode fault of a form that superstep mode does not allow (R35, R262 check 2). -/
def onFree (f : State → Out) (s : State) : Out := if s.isFree s.th then f s else faultOut s ⟨cMode, 0, 0⟩

/-- The home of a region's event counters (R275). -/
def Region.eventHome (r : Region) : Home := .event (cellComb (r.map.getD 0 0))

/-- A form that names the region of its context: a context without a region has none of it (log 20). -/
def onRegion (f : Region → State → Out) (s : State) : Out :=
  match s.regionOf s.th with
  | none => .next s.retire
  | some r => f r s

def execEvsig (h : Hdr) (o : EvSig) (s : State) : Out :=
  onPred h (onFree (onRegion fun r s =>
    .next (s.mapTh fun c =>
      (c.push (plainOp r.eventHome .plain (.evsig r.id o.n ((c.regs.gs o.b).extractLsb' 0 32)))).retire))) s

def execEvwait (h : Hdr) (o : EvWait) (s : State) : Out :=
  onDet 2 (fun s => s.isFree s.th) (onPred h (onFree (onRegion fun r s =>
    if s.th.wait.isSome then parkOut s .drain
    else
      .next (s.mapTh fun c =>
        (c.startWait o.d o.t s.now fun pend =>
          plainOp r.eventHome .plain (.evwait r.id o.n ((c.regs.gs o.b).extractLsb' 0 32) pend)).retire)))) s

/-! ### Mailboxes (R276, R277) -/

/-- Is a receiver in the channel map of a sender (R40); a region without rounds has no channel map. -/
def Region.channelOk (r : Region) (sender receiver : Nat) : Bool :=
  match r.chans with
  | none => true
  | some cs => (cs.getD sender []).contains receiver

/-- A counted send (R45): the message enters IQ(c). -/
def Ctx.post (c : Ctx) (r : Region) (dst : Nat) (tag : BitVec 14) (body : Payload) (o : Order) : Ctx :=
  let m : Mail := ⟨BitVec.ofNat 16 c.logical, tag, body, c.mq.next⟩
  let c := c.push (plainOp (.cell (r.map.getD dst 0)) o (.mail (r.ctxs.getD dst 0) m))
  { c with mail := { c.mail with sent := c.mail.sent + 1, flag := true } }

/-- The bytes of a send, counted at the local level. -/
def Ctx.chargeSend (c : Ctx) (n : Nat) : Ctx := { c with meters := c.meters.charge .local_ n }

/-- A send: determinism, mode, channel, scope and receiver number. `on` says how the form is predicated (R260). -/
def sendOp (on : (State → Out) → State → Out) (ra : GReg) (tag : BitVec 14) (bytes : Ctx → List Byte)
    (sc : Option (BitVec 6)) (s : State) : Out :=
  onDet 2 (fun s => s.isFree s.th) (on (onFree (onRegion fun r s =>
    let dst := (s.th.regs.gr ra).toNat % 2 ^ 16
    if !r.channelOk s.th.logical dst then faultOut s ⟨cChannel, 0, BitVec.ofNat 64 dst⟩
    else
      match sc.bind (scopeFault s.th) with
      | some t => faultOut s t
      | none =>
        if r.map.length ≤ dst then faultOut s ⟨cBound, 0, BitVec.ofNat 64 dst⟩
        else
          let bs := bytes s.th
          let order : Order := ⟨false, sc.map (scopeValue s.th)⟩
          .next (s.mapTh fun c => ((c.post r dst tag (.data bs) order).chargeSend bs.length).retire)))) s

/-- The bytes of a vector message. DESIGN CHOICE (log 83): the message has 32 bytes under every mask, and those of an
inactive lane are a free value. -/
def sendLanes (h : Hdr) (x : VReg) (c : Ctx) : List Byte :=
  let act := activeLanes h c.regs .d
  vBytes (ofLanes 64 ((c.regs.vrLanes 64 x).mapIdx fun j w =>
    if act.getD j false then w else (Config.sendLane (c.cid * 2 ^ 64 + c.mail.sent.toNat) j).toNat))

def execSend (h : Hdr) (o : Send) (s : State) : Out :=
  sendOp (onPred h) o.r o.tag (fun c => bytesOf 8 (c.regs.gs o.b).toNat) none s
def execSendv (h : Hdr) (o : SendV) (s : State) : Out := sendOp (onLanes h .d) o.r o.tag (sendLanes h o.b) none s
def execSendRel (h : Hdr) (o : SendRel) (s : State) : Out :=
  sendOp (onPred h) o.r o.tag (fun c => bytesOf 8 (c.regs.gs o.b).toNat) (some o.s) s

/-- Is a message of a sender to a context on its way: issued and not yet in the mailbox. -/
def State.mailComing (s : State) (c : Ctx) (sender : Nat) : Bool :=
  (c.mail.spill.any fun m => m.sender.toNat == sender) ||
    ((s.net.ch ++ s.net.aq).any fun f => match f.op.act with
      | .mail d m => d == c.cid && m.sender.toNat == sender
      | _ => false)

/-- The status of a receive that finds no message: terminated, or a sealed source with nothing under way (R47, R277,
R337); otherwise the context parks. -/
def State.recvNothing (s : State) (r : Region) (src : Option Nat) : Option Word :=
  if r.terminated then some 0x8000000000000000
  else
    match src with
    | none => none
    | some k =>
      if (s.cellRec (r.map.getD k 0)).isSealed && decide (k < r.map.length) && !s.mailComing s.th k then
        some 0x4000000000000000
      else none

/-- A receive that completes without a message: gm holds a status, gd keeps its value. -/
def Ctx.recvStatus (c : Ctx) (m : BitVec 6) (w : Word) : Ctx := ({ c.run with told := false }.resG m 0 w).retire

/-- A receive of `n` bytes from one source, or from any. It follows the earlier operations to its own cell and what holds
later ones back (R85, R90, R92, R104). One that termination has woken ends with TERMINATED (R47). -/
def recvOp (on : (State → Out) → State → Out) (n : Nat) (src : Regs → Option Nat) (m : BitVec 6)
    (put : Ctx → List Byte → Ctx) (s : State) : Out :=
  let any := (src s.th.regs).isNone
  onDet (if any then 1 else 2) (fun s => any || s.isFree s.th) (on (onFree (onRegion fun r s =>
    let from? := src s.th.regs
    let hit := fun (x : Mail) => match from? with
      | none => true
      | some k => x.sender.toNat == k
    if s.th.told then .next (s.mapTh fun c => c.recvStatus m 0x8000000000000000)
    else if !s.caughtUp s.th then parkOut s .drain
    else
      match s.th.mail.box.find? hit with
      | none =>
        match s.recvNothing r from? with
        | some w => .next (s.mapTh fun c => c.recvStatus m w)
        | none => parkOut s .mailbox
      | some x =>
        match x.body with
        | .handle _ _ | .marker _ => parkOut s .mailbox
        | .data bs =>
          if bs.length ≠ n then faultOut s ⟨cMailSize, 0, BitVec.ofNat 64 bs.length⟩
          else
            .next (s.mapTh fun c =>
              let c := { c.run with mail := { c.mail with box := dropFirst hit c.mail.box } }
              ((put c bs).resG m 0 (BitVec.ofNat 64 (x.tag.toNat * 2 ^ 16 + x.sender.toNat))).retire)))) s

/-- The source register of a receive. -/
def recvFrom (a : GReg) (R : Regs) : Option Nat := some ((R.gr a).toNat % 2 ^ 16)
def putG (d : BitVec 6) (c : Ctx) (bs : List Byte) : Ctx := c.resG d 0 (BitVec.ofNat 64 (bytesAt bs 0 8))
/-- The active lanes of a vector message reach the register; the others keep its old value (R217, R260, log 83). -/
def putV (h : Hdr) (d : BitVec 5) (c : Ctx) (bs : List Byte) : Ctx :=
  c.resV d 0 (mergeLanes 64 (predMask h c.regs) (c.regs.rv d) (ofVBytes bs))

def execRecv (h : Hdr) (o : Recv) (s : State) : Out := recvOp (onPred h) 8 (recvFrom o.src) o.m (putG o.d) s
def execRecvv (h : Hdr) (o : RecvV) (s : State) : Out := recvOp (onLanes h .d) 32 (recvFrom o.src) o.m (putV h o.d) s
def execRecvAny (h : Hdr) (o : RecvAny) (s : State) : Out := recvOp (onPred h) 8 (fun _ => none) o.m (putG o.d) s
def execRecvvAny (h : Hdr) (o : RecvVAny) (s : State) : Out := recvOp (onLanes h .d) 32 (fun _ => none) o.m (putV h o.d) s

/-! ### Barriers and the forager probe (R278) -/

/-- Every operation that a join waits for is over: `fence.full` at package scope (R106), and what holds back every later
operation (R90, R92). -/
def Ctx.mayJoin (c : Ctx) : Bool := c.scopeDrained scopePackage && c.unheld

/-- `sstep` joins the region barrier after `fence.full` at package scope (R34, R106). -/
def execSstep (h : Hdr) (s : State) : Out :=
  onPred h (fun s =>
    if s.isFree s.th then faultOut s ⟨cMode, 0, 0⟩
    else onRegion (fun r s =>
      if !s.th.mayJoin then parkOut s .drain
      else
        let me := s.th.logical
        let s := (s.mapTh Ctx.retire).mapTh fun c => { c with status := .parked .barrier }
        .next ((s.updRegion r.id fun r => { r with joined := r.joined ++ [me] }).closeBarrier r.id)) s) s

/-- The members of a scoped barrier: the region's cells in the scope of the joining cell. -/
def barMembers (r : Region) (own : Option CombId) (v : Word) : List Nat :=
  (List.range r.map.length).filter fun k => scopeHasCell v own (r.map.getD k 0)

/-- A join whose kind 0 or 1 scope does not hold its own cell. -/
def barOutside (c : Ctx) (v : Word) : Bool :=
  bitsAt v.toNat 60 4 ≤ 1 && !(c.cell?.any fun i => scopeHasCell v c.comb? i)

/-- A region's barrier with an id and members, as a join finds it. -/
def Region.join (r : Region) (id : BitVec 4) (ms : List Nat) (j : Nat × Nat) : Region :=
  let same := fun (b : ScopedBar) => b.id == id && b.members == ms
  let old := (r.bars.find? same).getD ⟨id, ms, [], 0⟩
  { r with bars := upsert same { old with joined := old.joined ++ [j] } r.bars }

def execBar (h : Hdr) (o : BarOp) (s : State) : Out :=
  onPred h (onFree fun s =>
    let v := scopeValue s.th o.s
    match firstFault [scopeFault s.th o.s, if barOutside s.th v then some ⟨cScope, 0, v⟩ else none] with
    | some t => faultOut s t
    | none => onRegion (fun r s =>
      if !s.th.mayJoin then parkOut s .drain
      else
        let me := s.th.logical
        let ms := barMembers r s.th.comb? v
        let e := s.th.expect (.g o.d .d) 1 8
        let s := s.mapTh fun _ => { e.2.retire with status := .parked .barrier }
        let s := s.updRegion r.id fun r => r.join o.id ms (me, e.1)
        .next (((s.region? (some r.id)).bind fun r => r.bars.find? fun b => b.id == o.id && b.members == ms).elim s
          fun b => s.closeBar r.id b)) s) s

/-- The forager probe. -/
def execFprobe (h : Hdr) (o : DstG) (s : State) : Out :=
  onPred h (fun s =>
    let w : Nat := match s.regionOf s.th with
      | none => 0
      | some r => (if r.terminated then 2 ^ 63 else 0) + r.token.pass % 2 ^ 48
    .next (s.mapTh fun c => (c.resG o.d 0 (BitVec.ofNat 64 w)).retire)) s

end Sys2Proof.Machine
end

