-- ==== Sys2Proof/Machine/Engines.lean ====
section
/-!
DEFINITION. Handing work to the engines (R279 to R296): `fork`, rendezvous and waits on handles, testing, passing and
cancelling, copies and `qfence`, `coll` and `contend`.
-/
namespace Sys2Proof.Machine

/-! ### Checks (R280) -/

/-- The handle-busy fault (R54). -/
def busyFault (c : Ctx) (i : BitVec 4) : Option Trap :=
  if (c.handle i).st = .pending then some ⟨cHandleBusy, 0, i.zeroExtend 64⟩ else none

/-- The empty-handle fault (R55). -/
def emptyFault (c : Ctx) (i : BitVec 4) : Option Trap :=
  if (c.handle i).st = .empty then some ⟨cEmptyHandle, 0, i.zeroExtend 64⟩ else none

/-! ### fork (R282, R283) -/

/-- The program that a fork starts: it copies the registers of the context. -/
def forkWork (matrix : Bool) (R : Regs) (pc : Word) : Work := .prog matrix ⟨R, pc, 0, none, none, none⟩

/-- Place one program on its queue, if it is present. -/
def Ctx.forkOne (c : Ctx) (matrix : Bool) (R : Regs) (a : Option GReg) (h : BitVec 4) (now : Nat) : Ctx :=
  match a with
  | none => c
  | some g => c.enqueue (if matrix then 4 else 5) (some h) (forkWork matrix R (R.gr g)) now

/-- The registers are copied once every result that is on its way has arrived. -/
def execFork (h : Hdr) (o : ForkOp) (s : State) : Out :=
  onPred h (fun s =>
    let R := s.th.regs
    match firstFault [o.gm.bind fun _ => busyFault s.th o.hm, o.gc.bind fun _ => busyFault s.th o.hc,
        o.gm.bind fun g => alignFault (R.gr g) 64, o.gc.bind fun g => alignFault (R.gr g) 64] with
    | some t => faultOut s t
    | none =>
      if !s.th.pend.isEmpty then parkOut s .drain
      else .next (s.mapTh fun c => ((c.run.forkOne true R o.gm o.hm s.now).forkOne false R o.gc o.hc s.now).retire)) s

/-! ### Reading handles (R55, R99, R140, R282, R284) -/

/-- A read of a resolved handle; the first read of a sample's handle sets the digits of sr.afstat (R140). -/
def Ctx.seeHandle (c : Ctx) (i : BitVec 4) : Ctx :=
  let x := c.handle i
  if x.seen || !x.resolved then c
  else
    let d := if x.st = .done then x.res &&& 0xF else c.sr.afstat
    { (c.setHandle i { x with seen := true }) with sr := { c.sr with afstat := d } }

/-- The handles of a mask, ascending. -/
def maskHandles (m : BitVec 16) : List (BitVec 4) :=
  ((List.range 16).filter fun i => m.getLsbD i).map (BitVec.ofNat 4)

def execRdv (h : Hdr) (o : Rdv) (s : State) : Out :=
  onPred h (fun s =>
    let hs := maskHandles o.mask
    match firstFault (hs.map (emptyFault s.th)) with
    | some t => faultOut s t
    | none =>
      if hs.all fun i => (s.th.handle i).resolved then .next (s.mapTh fun c => (hs.foldl Ctx.seeHandle c.run).retire)
      else parkOut s .handle) s

/-- A read of one word of a handle: it parks until the handle has resolved. -/
def handleRead (h : Hdr) (o : HRd) (word : Handle → Word) (s : State) : Out :=
  onPred h (fun s =>
    match emptyFault s.th o.hs with
    | some t => faultOut s t
    | none =>
      let x := s.th.handle o.hs
      if x.resolved then .next (s.mapTh fun c => ((c.run.seeHandle o.hs).resG o.d 0 (word x)).retire)
      else parkOut s .handle) s

def execHwait (h : Hdr) (o : HRd) (s : State) : Out := handleRead h o Handle.res s
def execHdet (h : Hdr) (o : HRd) (s : State) : Out := handleRead h o Handle.det s

def execHtest (h : Hdr) (o : HRd) (s : State) : Out :=
  onPred h (fun s =>
    .next (s.mapTh fun c =>
      ((c.seeHandle o.hs).resG o.d 0 (BitVec.ofNat 64 (c.handle o.hs).st.code)).retire)) s

/-! ### Passing (R285) -/

/-- A handle moves within its context. -/
def Ctx.moveHandle (c : Ctx) (hs hd : BitVec 4) : Ctx :=
  if hs = hd then c else ((c.setHandle hd (c.handle hs)).setHandle hs .reset)

def execHpass (h : Hdr) (o : HPass) (s : State) : Out :=
  let dst := fun (s : State) => (s.th.regs.gr o.r).toNat % 2 ^ 16
  onDet 2 (fun s => s.isFree s.th && dst s != s.th.logical) (onPred h (onFree fun s =>
    match emptyFault s.th o.hs with
    | some t => faultOut s t
    | none => onRegion (fun r s =>
      let k := dst s
      if r.map.length ≤ k then faultOut s ⟨cBound, 0, BitVec.ofNat 64 k⟩
      else if !r.channelOk s.th.logical k then faultOut s ⟨cChannel, 0, BitVec.ofNat 64 k⟩
      else if k = s.th.logical then
        if o.hd = o.hs then .next s.retire
        else
          match busyFault s.th o.hd with
          | some t => faultOut s t
          | none => .next (s.mapTh fun c => (c.moveHandle o.hs o.hd).retire)
      else
        .next (s.mapTh fun c =>
          ((c.post r k 0 (.handle (c.handle o.hs) o.hd) .plain).setHandle o.hs .reset).retire)) s)) s

/-! ### Cancelling (R286) -/

/-- Is the candidate of an operation in a contest whose cut-off has passed (R155). -/
def State.committed (s : State) (op : Nat) : Bool :=
  s.plane.cands.any fun x => x.op == op && (x.committed || s.cutOff x)

/-- A program has not executed an instruction. -/
def Prog.fresh (p : Prog) : Bool := p.index == 0 && p.cur.isNone && p.run.isNone && p.fin.isNone

/-- What a cancel does to an entry: it resolves, it keeps the request, or it has committed. -/
def Entry.cancelled (s : State) (e : Entry) : Entry :=
  let drop := { e with course := .done .cancelled 0 0 }
  match e.course, e.work with
  | .done _ _ _, _ => e
  | _, .fence _ _ => e
  | _, .coll _ => { e with cancel := true }
  | _, .prog _ p => if p.fresh then drop else e
  | .waiting, _ => drop
  | .begun, .copy _ => e
  | .begun, .contend _ _ _ | .begun, .fabric (.claim _ _) => if s.committed e.op then e else drop
  | .begun, .fabric (.settle _) => drop
  | .begun, .fabric _ => e

/-- The candidate of an operation leaves its lane, unless its cut-off has passed (R155). -/
def State.withdraw (s : State) (op : Nat) : State :=
  if s.committed op then s else { s with plane := { s.plane with cands := s.plane.cands.filter fun x => x.op != op } }

/-- Request the cancellation of an operation (R54, R286), wherever its handle is. -/
def State.cancelOp (s : State) (op : Nat) : State :=
  let cid := op % 2 ^ 32
  match s.ctx? cid with
  | none => s
  | some _ =>
    let hit := fun (e : Entry) => e.op == op
    let change := (updateAll hit (Entry.cancelled s))
    let s := (s.withdraw op).updCtx cid fun c => (List.range 8).foldl (fun c q => c.mapQ q change) c
    { s with swarm := { s.swarm with
        regs := updateAll (fun r => r.op == op) (fun r => { r with cancel := true }) s.swarm.regs } }

def execHcancel (h : Hdr) (o : HOp) (s : State) : Out :=
  onPred h (fun s =>
    let x := s.th.handle o.h
    if x.st = .pending then .next (s.cancelOp x.op).retire else .next s.retire) s

/-! ### Copies and queue fences (R287, R290, R98) -/

/-- A copy whose ranges do not lie in own memory (R35, R287). -/
def State.copyForeign (s : State) (c : Ctx) (rs : List (Word × Nat)) : Option Trap :=
  if !s.superstep c then none
  else (rs.filterMap fun r =>
    if r.2 = 0 then none
    else if (r.1.toNat < 2 ^ 16 && r.1.toNat + r.2 ≤ 2 ^ 16) ||
        (2 ^ 32 + cellFci c.cell * 2 ^ 16 ≤ r.1.toNat && r.1.toNat + r.2 ≤ 2 ^ 32 + (cellFci c.cell + 1) * 2 ^ 16) ||
        (2 ^ 33 + cellFci c.cell * 2 ^ 17 ≤ r.1.toNat && r.1.toNat + r.2 ≤ 2 ^ 33 + (cellFci c.cell + 1) * 2 ^ 17) then none
    else some ⟨cLocality, 0, r.1⟩).head?

/-- A copy before its first step. -/
def CopyOp.start (kind : CopyKind) (dst src : Word) (len : Nat) (bsel : Word) : CopyOp :=
  ⟨kind, dst, src, len, bsel, 0, false, none, none, none⟩

/-- Issue a copy: a length of 0 resolves at once and touches no byte. -/
def issueCopy (q : Nat) (hd : BitVec 4) (o : CopyOp) (s : State) : Out :=
  if o.len = 0 then .next (s.mapTh fun c => (c.setHandle hd ⟨.done, 0, 0, 0, true⟩).retire)
  else .next (s.mapTh fun c => (c.enqueue q (some hd) (.copy o) s.now).retire)

/-- `cpy` and `cpyf`. -/
def copyRange (kind : CopyKind) (h : Hdr) (o : Cpy) (s : State) : Out :=
  onPred h (fun s =>
    let R := s.th.regs
    let n := (R.rg o.len).toNat % 2 ^ 32
    match firstFault [s.copyForeign s.th [(R.gr o.dst, n), (R.gr o.src, n)], busyFault s.th o.h] with
    | some t => faultOut s t
    | none => issueCopy o.q.toNat o.h (.start kind (R.gr o.dst) (R.gr o.src) n 0) s) s

def execCpy (h : Hdr) (o : Cpy) (s : State) : Out := copyRange .raw h o s
def execCpyf (h : Hdr) (o : Cpy) (s : State) : Out := copyRange .formatted h o s

/-- The type of a panel's source page, if the page is translated. -/
def State.panelType (s : State) (c : Ctx) (va : Word) : Option Ty :=
  match s.placeAt c .read va 1 with
  | .error _ => none
  | .ok ps => (ps.head?.bind fun p => p.entry).bind fun e => panelTy e.fmt

/-- The B types of R290. -/
def panelTypes : List Ty := [.bfp8, .bfp4, .bf16, .f16, .e4m3, .e5m2]

/-- The value of bo or xo that breaks the limits of a type at issue. DESIGN CHOICE (log 84): while the source page has no
translation its type is not known; what breaks the limits of every type faults at issue, and the engine checks the rest. -/
def panelUnfit (t : Option Ty) (gb : Word) (n : Nat) : Option Word :=
  match t with
  | some t => panelBad t gb n
  | none => if panelTypes.all fun t => (panelBad t gb n).isSome then panelBad .bfp4 gb n else none

/-- The matrix-descriptor fault of `cpyb` at issue. -/
def State.panelFault (s : State) (c : Ctx) (src gb : Word) : Option Trap :=
  let n := bitsAt gb.toNat 32 16
  if n = 0 ∨ 1024 < n then some ⟨cMatrix, 0, BitVec.ofNat 64 n⟩
  else if bitsAt gb.toNat 48 16 ≠ 0 then some ⟨cMatrix, 0, gb⟩
  else (panelUnfit (s.panelType c src) gb n).map fun x => ⟨cMatrix, 0, x⟩

/-- The window-bound fault of a slice that is not granted whole (R63, R290). -/
def State.sliceFault (s : State) (c : Ctx) : Option Trap :=
  (s.vaultBad c (cellFci c.cell * 2 ^ 17) (2 ^ 17)).map fun b => ⟨cBound, 0, BitVec.ofNat 64 (2 ^ 33 + b)⟩

def execCpyb (h : Hdr) (o : CpyB) (s : State) : Out :=
  onPred h (fun s =>
    let src := s.th.regs.gr o.src
    let gb := s.th.regs.gr o.b
    let n := bitsAt gb.toNat 32 16
    match firstFault [s.copyForeign s.th [(src, n * 128)], busyFault s.th o.h, s.panelFault s.th src gb, s.sliceFault s.th] with
    | some t => faultOut s t
    | none => .next (s.mapTh fun c => (c.enqueue o.q.toNat (some o.h) (.copy (.start .panel 0 src n gb)) s.now).retire)) s

/-- One fence entry on every named queue. -/
def Ctx.placeFence (c : Ctx) (mask : BitVec 8) (now : Nat) : Ctx :=
  let e : Entry := ⟨opId c, c.mq.next, .fence (opId c) mask, .waiting, false, now, none, false⟩
  let c := ((List.range 8).filter fun q => mask.getLsbD q).foldl (fun (c : Ctx) q => c.mapQ q (· ++ [e])) c
  { c with nextOp := c.nextOp + 1, mq := { c.mq with next := c.mq.next + 1 } }

def execQfence (h : Hdr) (o : QFence) (s : State) : Out :=
  onPred h (fun s =>
    if o.mask = 0 then .next s.retire else .next (s.mapTh fun c => (c.placeFence o.mask s.now).retire)) s

/-! ### The dirty log and the engines (R349) -/

/-- The last write of an entry found no room in the dirty log, or found it. -/
def State.holdEntry (s : State) (cid : CtxId) (q : Nat) (e : Entry) (held : Bool) : State :=
  s.updCtx cid fun x => x.setEntry q e.op fun y => { y with held := held }

/-- An engine writes parts for a context: their pages are dirtied, their bytes counted, and the messages issue (R71, R97, R339,
R348). A write that finds no room in the log waits, and its entry says so. -/
def State.engineWrite (s : State) (c : Ctx) (q : Nat) (e : Entry) (src : Source) (ps : List (Part × List (Option Byte))) : State × Bool :=
  let parts := ps.map Prod.fst
  match State.dirtyParts c parts (s.tlbTouch c parts) with
  | none => (s.holdEntry c.cid q e true, false)
  | some s => (((s.holdEntry c.cid q e false).updCtx c.cid fun c => c.charge parts).ioSendWrites src e.op ps, true)

/-! ### Collectives and contests (R291, R296) -/

/-- A collective that sums floating values (R126, R293). -/
def floatSum (o : Coll) : Bool :=
  o.op == .sum && (o.kind == .allreduce || o.kind == .reduce || o.kind == .redscat) && (o.ty.isFloat || o.ty.isBfp)

/-- The level from which a floating sum in an order faults (R293); canonical order never does. -/
def collLevel (o : Coll) : Nat := if o.order = .any then 1 else 2

def execColl (h : Hdr) (o : Coll) (s : State) : Out :=
  onDet (collLevel o) (fun _ => floatSum o && o.order != .canonical) (onPred h fun s =>
    let d := s.th.regs.gr o.a
    match firstFault [busyFault s.th o.h, alignFault d 64] with
    | some t => faultOut s t
    | none =>
      .next (s.mapTh fun c => (c.enqueue 6 (some o.h) (.coll ⟨o.kind, o.op, o.ty, o.order, d⟩) s.now).retire)) s

/-- The contest fault (R149). -/
def State.contestFault (s : State) (o : Contend) : Option Trap :=
  if o.lane = 15 || o.id = 0 || ((s.regionOf s.th).bind fun r => r.slot).isNone then
    some ⟨cContest, 0, BitVec.ofNat 64 (o.lane.toNat * 256 + o.id.toNat)⟩
  else none

def execContend (h : Hdr) (o : Contend) (s : State) : Out :=
  onDet 1 (fun _ => true) (onPred h fun s =>
    match firstFault [s.contestFault o, busyFault s.th o.h] with
    | some t => faultOut s t
    | none =>
      .next (s.mapTh fun c => (c.enqueue 6 (some o.h) (.contend (c.regs.gs o.a) o.lane o.id) s.now).retire)) s

end Sys2Proof.Machine
end

