-- ==== Sys2Proof/Machine/Fabric.lean ====
section
/-!
DEFINITION. The continuous fabric (R128 to R147, R297, R298): the nine operations of queue 7, configuration tables, the
sample of a claim, and the steps of a claim that no instruction takes.
-/
namespace Sys2Proof.Machine

/-! ### Claims (R134, R135) -/

def State.setClaim (s : State) (k : Claim) : State :=
  { s with claims := updateAll (fun x => x.cid == k.cid) (fun _ => k) s.claims }

/-- Patch-microseconds enter the counter of a context (R373). -/
def State.addPatch (s : State) (c : CtxId) (n : Nat) : State :=
  s.updCtx c fun x => { x with meters := { x.meters with patch := satAdd x.meters.patch n } }

/-- The whole microseconds of a claim so far enter the counter of its context, which a save area then holds. -/
def State.chargePatches (s : State) (c : CtxId) : State :=
  match s.claimOf c with
  | none => s
  | some k => (s.setClaim { k with since := k.since + 1000 * ((s.now - k.since) / 1000) }).addPatch c (s.patchDue k)

/-- An ended claim is metered (R373) and returns its patches (R134). -/
def State.endClaim (s : State) (c : CtxId) : State :=
  let s := s.addPatch c (((s.claimOf c).map s.patchDue).getD 0)
  if (s.claimOf c).isNone then s else { s with claims := s.claims.filter fun x => x.cid != c }.cutLane

/-- The fabric-state fault (R135). -/
def stateFault (s : State) : Trap := ⟨cFabricState, 0, Config.openAddr cFabricState s.th.pc.toNat s.now⟩

/-- The fabric-operand fault (R298). -/
def operandFault (x : Word) : Trap := ⟨cFabricOperand, 0, x⟩

/-- The fabric-saturation fault (R139). -/
def satFault (k : Claim) : Option Trap := if k.sat then some ⟨cFabricSat, 0, k.sint.zeroExtend 64⟩ else none

/-! ### Issue at the head of queue 7 (R280) -/

/-- Work of the fabric. -/
def Work.isFabric : Work → Bool
  | .fabric _ => true
  | _ => false

/-- The entry of the fabric instruction whose issue is not complete. -/
def Ctx.issuing? (c : Ctx) : Option Entry := (c.queue 7).find? fun e => e.course == .waiting && e.work.isFabric

/-- The entry is placed and its handle is PENDING; what the handle held is kept until the issue completes. -/
def Ctx.placeFabric (c : Ctx) (hd : Option (BitVec 4)) (o : AfOp) (now : Nat) : Ctx :=
  let old := hd.map fun i => (i, c.handle i)
  (c.enqueue 7 hd (.fabric o) now).mapQ 7 (updateAll (fun e => e.op == opId c) fun e => { e with undo := old })

/-- The entry leaves its queue. -/
def Ctx.dropFabric (c : Ctx) (e : Entry) : Ctx := c.mapQ 7 fun es => es.filter fun y => y.op != e.op

/-- A check at the head fails: as before the instruction, then its fault. -/
def fabricFault (e : Entry) (t : Trap) (s : State) : Out :=
  let back := fun (c : Ctx) => match e.undo with
    | some (i, x) => c.setHandle i x
    | none => c
  faultOut ((s.mapTh fun c => back (c.dropFabric e)).ioDrop (.engine s.th.cid 7) e.op) t

/-- A placed entry waits for the head of its queue, and for every earlier operation of its context (R97). -/
def atFabricHead (body : Entry → State → Out) (e : Entry) (s : State) : Out :=
  if (s.th.queue 7).head?.any (fun x => x.op == e.op) && s.th.ackedBelow e.seq then body e s else parkOut s .fabric

/-- A fabric instruction: the checks of R280, the entry, then the wait for the head. -/
def onFabric (h : Hdr) (hd : Option (BitVec 4)) (table : State → Option Word) (o : State → AfOp)
    (body : Entry → State → Out) (s : State) : Out :=
  onPred h (fun s =>
    match s.th.issuing? with
    | some e => atFabricHead body e s
    | none =>
      match firstFault [hd.bind (busyFault s.th), (table s).bind fun a => alignFault a 8] with
      | some t => faultOut s t
      | none =>
        let s := s.mapTh fun c => c.placeFabric hd (o s) s.now
        match s.th.issuing? with
        | some e => atFabricHead body e s
        | none => .next s) s

/-- The operation has begun; an event resolves it. -/
def issueBegun (e : Entry) (o : AfOp) (s : State) : State :=
  s.mapTh fun c => (c.run.mapQ 7 (updateAll (fun y => y.op == e.op) fun y =>
    { y with work := .fabric o, course := .begun, since := s.now, undo := none })).retire

/-- The operation resolves as its issue completes. -/
def issueDone (e : Entry) (st : HState) (res : Word) (s : State) : State :=
  let put := fun (c : Ctx) => match e.undo with
    | some (i, _) => c.setHandle i ⟨st, res, 0, e.op, true⟩
    | none => c
  s.mapTh fun c => (put (c.run.dropFabric e)).retire

/-- What a fabric operation does with the claim of its context: none is the fabric-state fault (R135). -/
def withClaim (f : Claim → Entry → State → Out) (e : Entry) (s : State) : Out :=
  match s.claimOf s.th.cid with
  | none => fabricFault e (stateFault s) s
  | some k => f k e s

/-! ### afclaim (R134) -/

/-- The key of a claim. -/
def claimKey (prio now : Nat) : Word :=
  BitVec.ofNat 64 (prio % 16 * 2 ^ 60 + (0xFFFFFFFF - now / 1024 % 2 ^ 32) * 2 ^ 28)

def execAfclaim (h : Hdr) (o : AfClaim) (s : State) : Out :=
  let op : AfOp := .claim o.die o.np.toNat
  onFabric h (some o.h) (fun _ => none) (fun _ => op) (fun e s =>
    if (s.claimOf s.th.cid).isSome then fabricFault e (stateFault s) s
    else
      let die := if o.die then 1 else 0
      let prio := ((s.regionOf s.th).map fun r => r.a.effPrio).getD 0
      let cand : Cand := ⟨15, 0xCF0 + die, claimKey prio s.now, combFrame s.th.comb, s.th.logical, s.th.cid, e.op, s.now,
        false, o.np.toNat⟩
      let s := issueBegun e op s
      .next { s with plane := { s.plane with cands := s.plane.cands ++ [cand] } }) s

/-! ### afcal (R136) -/

def execAfcal (h : Hdr) (o : HOp) (s : State) : Out :=
  onFabric h (some o.h) (fun _ => none) (fun _ => .cal) (withClaim fun k e s =>
    if k.st = .idle then .next (issueBegun e .cal s) else fabricFault e (stateFault s) s) s

/-! ### Configuration tables (R132, R133) -/

/-- The fields of an entry. -/
def cfgKind (w : Word) : Nat := bitsAt w.toNat 60 4
def cfgN (w : Word) : Nat := bitsAt w.toNat 48 12
def cfgSlot (w : Word) : Nat := bitsAt w.toNat 44 4
def cfgVmul (w : Word) : Bool := bitsAt w.toNat 42 1 == 1
def cfgA (w : Word) : Nat := bitsAt w.toNat 28 12
def cfgB (w : Word) : Nat := bitsAt w.toNat 16 12

/-- Bits that an entry of a kind may set. -/
def cfgUsed : Nat → Nat
  | 0 => 0
  | 1 => 0xFFFF030000000FFF
  | 2 => 0xFFFFF4FFF0000FFF
  | 3 => 0xFFFF000000000FFF
  | 4 => 0xFFFF00FFFFFF0000
  | _ => 0

/-- Do two entries set the same element. -/
def cfgSame (a b : Word) : Bool :=
  cfgKind a == cfgKind b && 1 ≤ cfgKind a && cfgKind a ≤ 4 && cfgN a == cfgN b &&
    (cfgKind a != 2 || cfgSlot a == cfgSlot b)

/-- The entries of a table that no later entry replaces, with their places. -/
def cfgKept : Nat → List Word → List (Nat × Word)
  | _, [] => []
  | i, w :: ws => if ws.any (cfgSame w) then cfgKept (i + 1) ws else (i, w) :: cfgKept (i + 1) ws

/-- A kept entry that offends by itself, for a claim of `p` patches. -/
def cfgBad (p : Nat) (kept : List (Nat × Word)) (w : Word) : Bool :=
  let integ := fun n => n < 64 * p
  let mul := fun n => n < 16 * p
  (w.toNat &&& cfgUsed (cfgKind w) != w.toNat) ||
    match cfgKind w with
    | 0 => false
    | 1 => !integ (cfgN w)
    | 2 => !integ (cfgN w) ||
        (if cfgVmul w then !mul (cfgA w) || !(kept.any fun x => cfgKind x.2 == 4 && cfgN x.2 == cfgA w)
         else !integ (cfgA w))
    | 3 => !integ (cfgN w)
    | 4 => !mul (cfgN w) || !integ (cfgA w) || !integ (cfgB w)
    | _ => true

/-- The coefficient inputs of a patch. -/
def cfgCoefs (kept : List (Nat × Word)) (patch : Nat) : List (Nat × Word) :=
  kept.filter fun x => cfgKind x.2 == 2 && cfgN x.2 / 64 == patch

/-- A source that lies outside the patch of its summer. -/
def cfgOutside (w : Word) : Bool := (if cfgVmul w then cfgA w / 16 else cfgA w / 64) != cfgN w / 64

/-- A kept entry that carries a count past its limit (R130, R133). -/
def cfgOver (kept : List (Nat × Word)) (x : Nat × Word) : Bool :=
  cfgKind x.2 == 2 &&
    let upTo := (cfgCoefs kept (cfgN x.2 / 64)).filter fun y => y.1 ≤ x.1
    let before := upTo.filter fun y => y.1 < x.1
    let sources := fun (l : List (Nat × Word)) =>
      ((l.filter fun y => cfgOutside y.2).map fun y => (cfgVmul y.2, cfgA y.2)).dedup.length
    (256 < upTo.length && before.length ≤ 256) || (64 < sources upTo && sources before ≤ 64)

/-- The index of the offending entry of a table read to its END entry or to 4,096 entries. -/
def cfgError (p : Nat) (ws : List Word) (ended : Bool) : Option Nat :=
  let kept := cfgKept 0 ws
  let bad := kept.filter fun x => cfgBad p kept x.2 || cfgOver kept x
  let is := (bad.map Prod.fst) ++ if ended then [] else [4095]
  is.head?

/-- A whole table has been read: to its END entry, or to 4,096 entries. -/
def tableOver (ws : List Word) : Bool := (ws.getLast?.any fun w => cfgKind w == 0) || decide (4096 ≤ ws.length)

/-- Reads of an entry whose issue is not complete: they issue, then wait for their answers; their bytes are given to `k`.
A fault is a precise fault of the context (R298). -/
def fabricRead (a : Word) (len : Nat) (k : List Byte → State → Out) (e : Entry) (s : State) : Out :=
  let src : Source := .engine s.th.cid 7
  if (s.io? src e.op).isNone then
    match s.placeAt s.th.asUnit .read a len with
    | .error t => fabricFault e t s
    | .ok ps =>
      match s.absentPart ps with
      | some f => .fault (.absentStack f)
      | none =>
        parkOut (((s.mapTh fun c => c.charge ps).tlbTouch s.th ps).ioSendReads src e.op len (fromHere 0 ps)) .fabric
  else if !s.ioRead? src e.op then parkOut s .fabric
  else
    match s.ioBad src e.op with
    | some t => fabricFault e t s
    | none => k (s.ioBytes src e.op) (s.ioDrop src e.op)

/-- The entries of a table that have been read. -/
def Entry.entries (e : Entry) : List Word :=
  match e.work with
  | .fabric (.cfg _ ws) => ws
  | _ => []

/-- A whole table is loaded, or refused as a whole (R133). -/
def loadTable (k : Claim) (e : Entry) (s : State) : Out :=
  let ws := e.entries
  match cfgError k.np ws (ws.getLast?.any fun w => cfgKind w == 0) with
  | some i => .next (issueDone e .failed (BitVec.ofNat 64 (7 * 2 ^ 48 + i)) s)
  | none =>
    .next ((issueDone e .done (BitVec.ofNat 64 ws.length) s).setClaim
      { k with st := .idle, cfg := true, sat := false, sint := 0, latched := [], table := ws })

/-- `afcfg` reads its table entry by entry, each in one access, before it applies any (R133). -/
def execAfcfg (h : Hdr) (o : AfA) (s : State) : Out :=
  onFabric h (some o.h) (fun s => some (s.th.regs.gr o.a)) (fun s => .cfg (s.th.regs.gr o.a) []) (withClaim fun k e s =>
    if k.st = .run then fabricFault e (stateFault s) s
    else if tableOver e.entries then loadTable k e s
    else
      let tab := s.th.regs.gr o.a
      let n := e.entries.length
      fabricRead (tab + BitVec.ofNat 64 (8 * n)) 8 (fun bs s =>
        let ws := e.entries ++ [BitVec.ofNat 64 (bytesAt bs 0 8)]
        parkOut (s.mapTh fun c => c.mapQ 7 (updateAll (fun y => y.op == e.op) fun y =>
          { y with work := .fabric (.cfg tab ws) })) .fabric) e s) s

/-! ### afscale (R142) -/

/-- The first operand of `afscale` that R298 refuses. -/
def scaleBad (p : Nat) (a e : Word) : Option Word :=
  let n := bitsAt a.toNat 0 12
  let cnt := bitsAt a.toNat 16 8
  if e.toInt < -32 ∨ 31 < e.toInt then some e
  else if 64 * p < n + cnt ∨ cnt = 0 ∨ 64 < cnt ∨ a &&& 0xFFFFFFFFFF00F000 ≠ 0 then some a
  else none

def setScale (sc : List (Nat × Int)) (n : Nat) (e : Int) : List (Nat × Int) := upsert (fun x => x.1 == n) (n, e) sc

def execAfscale (h : Hdr) (o : AfScale) (s : State) : Out :=
  onFabric h none (fun _ => none) (fun s => .scale (s.th.regs.gr o.a) (s.th.regs.gs o.b)) (withClaim fun k e s =>
    let a := s.th.regs.gr o.a
    let x := s.th.regs.gs o.b
    match scaleBad k.np a x with
    | some y => fabricFault e (operandFault y) s
    | none =>
      let ns := (List.range (bitsAt a.toNat 16 8)).map (· + bitsAt a.toNat 0 12)
      .next ((issueDone e .done 0 s).setClaim { k with scales := ns.foldl (fun sc n => setScale sc n x.toInt) k.scales })) s

/-! ### The programmed system (R128 to R132, R137) -/

/-- Full scale is 2^32 units. -/
def fullScale : Int := 2 ^ 32
/-- The level at which integrators and summers saturate: 1.25. -/
def satLevel : Int := 5 * 2 ^ 30
/-- The internal range of a variable multiplier: 1.5625. -/
def mulRange : Int := 25 * 2 ^ 28

/-- A value limited to a range on both sides of 0. -/
def levelClamp (m x : Int) : Int := max (-m) (min m x)

/-- The kept entries of a table, and those of a kind and number. -/
def Claim.kept (k : Claim) : List Word := (cfgKept 0 k.table).map Prod.snd
def entriesFor (ws : List Word) (kind n : Nat) : List Word := ws.filter fun w => cfgKind w == kind && cfgN w == n

/-- The signed 12-bit code of an entry (R129). -/
def cfgCode (w : Word) : Int := signedOf 12 (bitsAt w.toNat 0 12)

/-- The initial condition of an integrator: code × 2^-11; 0 for one that the table does not name. -/
def initialXi (ws : List Word) (n : Nat) : Int := ((entriesFor ws 1 n).head?.map fun w => cfgCode w * 2 ^ 21).getD 0
/-- The gain code of an integrator: k = 10^(3+g) per second. -/
def gainCode (ws : List Word) (n : Nat) : Nat := ((entriesFor ws 1 n).head?.map fun w => bitsAt w.toNat 40 2).getD 0
/-- The bias of a summer: code × 2^-9. -/
def biasOf (ws : List Word) (n : Nat) : Int := ((entriesFor ws 3 n).head?.map fun w => cfgCode w * 2 ^ 23).getD 0

/-- The present state of an integrator. -/
def Claim.xiAt (k : Claim) (n : Nat) : Int := k.xi.getD n 0

/-- The output of a variable multiplier: a × b of two integrator states. -/
def Claim.mulOut (k : Claim) (ws : List Word) (j : Nat) : Int :=
  match (entriesFor ws 4 j).head? with
  | none => 0
  | some w => levelClamp mulRange (k.xiAt (cfgA w) * k.xiAt (cfgB w) / fullScale)

/-- A coefficient input of a summer: c × s, with c = code × 2^-9. -/
def Claim.coefOut (k : Claim) (ws : List Word) (w : Word) : Int :=
  cfgCode w * (if cfgVmul w then k.mulOut ws (cfgA w) else k.xiAt (cfgA w)) / 2 ^ 9

/-- What the inputs of a summer carry: its bias and its coefficient inputs. -/
def Claim.carried (k : Claim) (ws : List Word) (n : Nat) : Int := biasOf ws n + ((entriesFor ws 2 n).map (k.coefOut ws)).sum

/-- The output of a summer, limited to ±1.25 (R137). -/
def Claim.summer (k : Claim) (ws : List Word) (n : Nat) : Int := levelClamp satLevel (k.carried ws n)

/-- The physical quantity that stands for one of the programmed system (R131, R141). DESIGN CHOICE (log 85): the gap between
them is a free value without a bound; by itself it takes nothing past ±1.25. -/
def Claim.physical (k : Claim) (now i : Nat) (x : Int) : Int := levelClamp satLevel (x + Config.mismatch now (k.cid * 8192 + i))

/-- The physical state of an integrator, and the physical output of its summer. -/
def Claim.stateNow (k : Claim) (now n : Nat) : Int := k.physical now n (k.xiAt n)
def Claim.outputNow (k : Claim) (ws : List Word) (now n : Nat) : Int := k.physical now (4096 + n) (k.summer ws n)

/-- Integrators of a claim. -/
def Claim.integrators (k : Claim) : List Nat := List.range (64 * k.np)

/-- Integrators whose state, or whose summer's output, passes ±1.25 and has not been dealt with (R137). -/
def Claim.passing (k : Claim) (n : Nat) : Bool :=
  (decide (satLevel < k.xiAt n ∨ k.xiAt n < -satLevel) && !k.held.contains n) ||
    (decide (k.carried k.kept n ≠ k.summer k.kept n) && !k.latched.contains n)

/-- The most that the summers of a claim change when its states change by 1: the largest sum of coefficients of one summer, a
variable multiplier counting 2.5 for its two operands within ±1.25. -/
def Claim.slope (k : Claim) (ws : List Word) : Nat :=
  (k.integrators.map fun n =>
    ((entriesFor ws 2 n).map fun w => (cfgCode w).natAbs * if cfgVmul w then 5 else 2).sum / 1024 + 1).foldl max 0

/-- How far, in one nanosecond, the solution of the programmed system leaves its present slope at an integrator of gain code
`g`: the states move by at most gain × time × the largest output, the outputs by at most `slope` times that, twice over for
what follows from it. -/
def Claim.bendBound (k : Claim) (ws : List Word) (g : Nat) : Nat :=
  let top := (k.integrators.map (gainCode ws)).foldl max 0
  let most := (k.integrators.map fun n => (k.summer ws n).natAbs).foldl max 0
  2 * (k.slope ws * (10 ^ top * most / 10 ^ 6 + 1) * 10 ^ g / 10 ^ 6) + 2

/-- One nanosecond of a running claim (R137, R138): dξ/dt = k × u for every integrator that is not held, and how long every
summer output has stayed within a threshold. DESIGN CHOICE (log 85): the solution over the nanosecond is the present slope and
a free value within its bound, which leaves room for the exact one. -/
def Claim.flow (k : Claim) (now : Nat) (theta : Option Nat) : Claim :=
  if k.st ≠ .run then k
  else
    let ws := k.kept
    let step := fun n =>
      if k.held.contains n then k.xiAt n
      else k.xiAt n + k.summer ws n * 10 ^ gainCode ws n / 10 ^ 6 +
        levelClamp (k.bendBound ws (gainCode ws n)) (Config.bend now (k.cid * 4096 + n))
    let calm := fun (th : Nat) => k.integrators.all fun n => (k.outputNow ws now n).natAbs ≤ th * 2 ^ 16
    { k with xi := k.integrators.map step, calm := if theta.any calm then k.calm + 1 else 0 }

/-! ### afrun, afstop, afrel (R135) -/

def execAfrun (h : Hdr) (o : HOp) (s : State) : Out :=
  onFabric h (some o.h) (fun _ => none) (fun _ => .run) (withClaim fun k e s =>
    if !k.cfg then fabricFault e (stateFault s) s
    else
      .next ((issueDone e .done (BitVec.ofNat 64 s.now) s).setClaim
        { k with st := .run, sat := false, sint := 0, latched := [], held := [], calm := 0,
                 xi := k.integrators.map (initialXi k.kept) })) s

def execAfstop (h : Hdr) (o : HOp) (s : State) : Out :=
  onFabric h (some o.h) (fun _ => none) (fun _ => .stop) (withClaim fun k e s =>
    .next ((issueDone e .done 0 s).setClaim { k with st := if k.st = .run then .hold else k.st })) s

def execAfrel (h : Hdr) (o : HOp) (s : State) : Out :=
  onFabric h (some o.h) (fun _ => none) (fun _ => .rel) (withClaim fun _ e s =>
    .next ((issueDone e .done 0 s).endClaim s.th.cid)) s

/-! ### afsettle (R138) -/

def settleT (p : Word) : Nat := bitsAt p.toNat 32 16
def settleTheta (p : Word) : Nat := bitsAt p.toNat 16 12
def settleHold (p : Word) : Nat := bitsAt p.toNat 0 16
def settleBad (p : Word) : Bool :=
  settleT p == 0 || settleTheta p == 0 || settleHold p == 0 || bitsAt p.toNat 28 4 != 0 || bitsAt p.toNat 48 16 != 0

def execAfsettle (h : Hdr) (o : AfA) (s : State) : Out :=
  onFabric h (some o.h) (fun _ => none) (fun s => .settle (s.th.regs.gr o.a)) (withClaim fun k e s =>
    let p := s.th.regs.gr o.a
    if k.st ≠ .run then fabricFault e (stateFault s) s
    else
      match firstFault [if settleBad p then some (operandFault p) else none, satFault k] with
      | some t => fabricFault e t s
      | none => .next ((issueBegun e (.settle p) s).setClaim { k with calm := 0 })) s

/-! ### afsample (R140, R141) -/

/-- The destination of a sample: local window or paged space, and a multiple of 4 (R298). -/
def sampleDstBad (d : Word) (n : Nat) : Bool :=
  d.toNat % 4 != 0 || !(d.toNat + 4 * n ≤ 2 ^ 16 || (2 ^ 48 ≤ d.toNat && d.toNat + 4 * n ≤ 2 ^ 56))

/-- The operand that R298 refuses: a listed number, then the destination. -/
def sampleBad (p : Nat) (d : Word) (ns : List Nat) : Option Word :=
  match ns.find? fun n => 64 * p ≤ n with
  | some n => some (BitVec.ofNat 64 n)
  | none => if sampleDstBad d ns.length then some d else none

/-- The listed numbers. -/
def sampleNums (bs : List Byte) (n : Nat) : List Nat := (List.range n).map fun k => bytesAt bs (2 * k) 2

/-- The FP32 value of a reading under a scale: exact. -/
def sampleValue (e : Int) (code : BitVec 14) : Nat :=
  ((rawOf (.fin code.msb code.toInt.natAbs (e - 12))).round .f32 .rne).bits

/-- The smallest of the calibrated digits of integrators (R141). -/
def Claim.digitsOf (k : Claim) (ns : List Nat) : Nat := if ns.all fun n => Config.digits12 k.calib n then 12 else 11

/-- Is a code beyond full scale. -/
def beyond (code : BitVec 14) : Bool := decide (4096 < code.toInt.natAbs)

/-- A reading within the bound of `d` digits of a physical state: the free reading `code`, or, when that lies outside, the
nearest one (R141). -/
def boundedCode (d : Nat) (x : Int) (code : BitVec 14) : BitVec 14 :=
  if (code.toInt * 2 ^ 20 - x).natAbs ≤ 2 ^ (32 - d) then code else BitVec.ofInt 14 ((x + 2 ^ 19) / 2 ^ 20)

/-- The sample of a claim at an instant: readings and guaranteed digits (R140, R141). The readings are free values; those of a
calibrated claim keep the bound of its digits, unless one lies beyond full scale: then no bound holds for any. -/
def Claim.sample (k : Claim) (count now : Nat) (ns : List Nat) : List (BitVec 14) × Nat :=
  let d := k.digitsOf ns
  let free := ns.map (Config.adcCode count)
  if !k.cal || free.any beyond then (free, 0)
  else
    let codes := ns.map fun n => boundedCode d (k.stateNow now n) (Config.adcCode count n)
    (codes, if codes.any beyond then 0 else d)

/-- `afsample`: its list, its operands, the saturation flag and its destination; then the sample instant (R140, R298).
DESIGN CHOICE (log 75): a fault of the list comes before the operand and saturation faults, one of the destination after
them. -/
def execAfsample (h : Hdr) (o : AfSample) (s : State) : Out :=
  onDet 1 (fun _ => true) (onFabric h (some o.h) (fun _ => none) (fun s => .sample (s.th.regs.gr o.a) [] [] 0 0)
    (withClaim fun k e s =>
      let d := s.th.regs.gr o.a
      let n := o.cnt.toNat
      if k.st = .idle then fabricFault e (stateFault s) s
      else
        fabricRead (s.th.regs.gr o.b) (2 * n) (fun bs s =>
          let ns := sampleNums bs n
          match firstFault [(sampleBad k.np d ns).map operandFault, satFault k] with
          | some t => fabricFault e t s
          | none =>
            match s.placeAt s.th.asUnit .write d (4 * n) with
            | .error t => fabricFault e t s
            | .ok _ =>
              let x := k.sample s.tick s.now ns
              .next (issueBegun e (.sample d ns x.1 x.2 s.now) s).bump) e s)) s

/-- The words that a sample writes. DESIGN CHOICE (log 74): an integrator whose scale no `afscale` has set has e = 0. -/
def Claim.sampleBytes (k : Claim) (ns : List Nat) (codes : List (BitVec 14)) : List Byte :=
  let scale := fun (n : Nat) => ((k.scales.find? fun x => x.1 == n).map Prod.snd).getD 0
  (ns.zip codes).flatMap fun x => bytesOf 4 (sampleValue (scale x.1) x.2)

/-- A begun entry of queue 7 has its words. -/
def State.fabricOver (s : State) (c : CtxId) (e : Entry) (st : HState) (res det : Word) : State :=
  s.updCtx c fun x => x.mapQ 7 (updateAll (fun y => y.op == e.op) fun y => { y with course := .done st res det })

/-- The die writes a sample that it has taken, in messages of its own (R100); the handle resolves once they have been
acknowledged (R99). -/
def State.takeSample (s : State) (c : Ctx) (e : Entry) (d : Word) (ns : List Nat) (codes : List (BitVec 14))
    (digits at_ : Nat) : Out :=
  match s.claimOf c.cid with
  | none => .next (s.fabricOver c.cid e .failed (copyFault (stateFault s) 0) 0)
  | some k =>
    let src : Source := .fabric k.die
    let fail := fun (t : Trap) => Host.Outcome.next ((s.ioDrop src e.op).fabricOver c.cid e .failed (copyFault t 0) t.addr)
    match s.io? src e.op with
    | some x =>
      if x.acks ≠ 0 then .next s
      else
        match x.bad with
        | some t => fail t
        | none =>
          .next ((s.ioDrop src e.op).fabricOver c.cid e .done
            (BitVec.ofNat 64 (ns.length % 128 * 256 + digits)) (BitVec.ofNat 64 at_))
    | none =>
      let bytes := k.sampleBytes ns codes
      match s.placeAt c.asUnit .write d bytes.length with
      | .error t => fail t
      | .ok ps =>
        match s.absentPart ps with
        | some f => .fault (.absentStack f)
        | none => .next (s.engineWrite c 7 e src (partData bytes (fromHere 0 ps))).1

/-! ### Steps of a claim (R136 to R138) -/

/-- The begun entry at the head of queue 7 of a context. -/
def State.fabricEntry (s : State) (c : CtxId) : Option Entry :=
  (s.ctx? c).bind fun x => (x.queue 7).head?.filter fun e => e.course == .begun

/-- Calibration completes (R136): it fixes the digits of each integrator (R141) and leaves the states undefined. -/
def execEvAfcalComplete (c : CtxId) (s : State) : Out :=
  match s.fabricEntry c, s.claimOf c with
  | some e, some k =>
    if e.work = .fabric .cal then
      .next ((s.fabricOver c e .done 0 0).setClaim
        { k with cal := true, calib := s.tick, xi := k.integrators.map (Config.looseState s.tick) }).bump
    else .next s
  | _, _ => .next s

/-- A settle parameter of a begun entry. -/
def Entry.settling (e : Entry) : Option Word :=
  match e.work with
  | .fabric (.settle p) => some p
  | _ => none

/-- The settle of a context that is under way. -/
def State.settleOf (s : State) (c : CtxId) : Option (Entry × Word) :=
  (s.fabricEntry c).bind fun e => e.settling.map fun p => (e, p)

/-- Integrator `n` of a running claim passes ±1.25, or the summer that feeds it does (R137): sat and sint are set, a state
that passes is held there, and a settle fails (R138). -/
def execEvFabricSaturation (c : CtxId) (n : Nat) (s : State) : Out :=
  match s.claimOf c with
  | none => .next s
  | some k =>
    if k.st = .run ∧ n < 64 * k.np ∧ k.passing n then
      let low := if k.sat then min k.sint.toNat n else n
      let x := levelClamp satLevel (k.xiAt n)
      let s := s.setClaim { k with
        sat := true, sint := BitVec.ofNat 12 low, latched := n :: k.latched,
        held := if x = k.xiAt n then k.held else n :: k.held, xi := k.xi.set n x }
      match s.settleOf c with
      | some e => .next (s.fabricOver c e.1 .failed (BitVec.ofNat 64 (9 * 2 ^ 48 + low)) 0)
      | none => .next s
    else .next s

/-- A settle whose hold window has been met (R138). -/
def State.calmFor (s : State) (c : CtxId) (p : Word) : Bool :=
  (s.claimOf c).any fun k => k.st == .run && !k.sat && decide (settleHold p * 10 ≤ k.calm)

/-- Every summer output has stayed within the threshold for the hold window, before the timeout (R138). -/
def execEvFabricSettleDone (c : CtxId) (s : State) : Out :=
  match s.settleOf c with
  | none => .next s
  | some (e, p) =>
    if s.calmFor c p && decide (s.now ≤ e.since + settleT p * 1000) then
      .next (s.fabricOver c e .done (BitVec.ofNat 64 s.now) 0)
    else .next s

/-- The timeout of a settle elapses first (R138). -/
def execEvFabricSettleTimeout (c : CtxId) (s : State) : Out :=
  match s.settleOf c with
  | none => .next s
  | some (e, p) =>
    if e.since + settleT p * 1000 ≤ s.now then .next (s.fabricOver c e .failed (BitVec.ofNat 64 (8 * 2 ^ 48)) 0)
    else .next s

/-! ### Time on the dies -/

/-- One nanosecond on both dies. -/
def State.fabricFlow (s : State) : State :=
  { s with claims := s.claims.map fun k => k.flow s.now ((s.settleOf k.cid).map fun e => settleTheta e.2) }

/-- Something on the dies is to be dealt with before time passes: a saturation, the outcome of a settle, or the end of a
calibration, which takes at most 50 µs (R136 to R138). -/
def State.fabricDue (s : State) : Bool :=
  s.claims.any fun k =>
    (k.st == .run && k.integrators.any k.passing) ||
      ((s.settleOf k.cid).any fun e => s.calmFor k.cid e.2 || decide (e.1.since + settleT e.2 * 1000 ≤ s.now)) ||
      ((s.fabricEntry k.cid).any fun e => e.work == .fabric .cal && decide (e.since + 50000 ≤ s.now))

end Sys2Proof.Machine
end

