-- ==== Sys2Proof/Machine/Order.lean ====
section
/-!
DEFINITION. The steps of the abstract machine (R82 to R101): issue, arrival, perform, apply, the second home of a pair,
replies, flushes of write-combining lines, wakes and timeouts (R105, R274, R275), host agents (R100, R101), and the
delivery of messages (R276). A step that is not enabled changes nothing (log 3).
-/
namespace Sys2Proof.Machine

/-! ### Issue (R85, R90 to R93, R348) -/

/-- Actions that write memory (R348). -/
def Act.writes : Act → Bool
  | .store _ | .amo _ _ _ _ _ | .red _ _ _ | .pair _ _ _ _ _ _ _ _ _ _ _ _ _ _ => true
  | _ => false

/-- Actions that `fence.rel` holds back: writes, atomics and sends (R92). -/
def Act.relHeld (a : Act) : Bool :=
  a.writes || match a with
    | .evsig _ _ _ | .mail _ _ => true
    | _ => false

/-- Does a fence marker concern an action. -/
def Marker.concerns (m : Marker) (a : Act) : Bool := m.kind != .rel || a.relHeld

/-- May the oldest operation of IQ(c) issue (R90 to R92, R101). -/
def Ctx.mayIssue (c : Ctx) (o : MemOp) : Bool :=
  !c.acquiring && !(c.mq.marks.any fun m => m.seq < o.seq && m.concerns o.act && c.markHolds m) &&
    match o.order.rel with
    | none => true
    | some v => !c.owes o.seq v && !c.owesHost v o.home.ep?

/-- Bytes of a line with new bytes over them. -/
def mergeBytes (old : List (Option Byte)) (off : Nat) (new : List (Option Byte)) : List (Option Byte) :=
  old.mapIdx fun k b => if off ≤ k then match (new[k - off]?).join with
    | some x => some x
    | none => b
  else b

/-- A streaming store merges into its line (R93). -/
def Ctx.combine (c : Ctx) (o : MemOp) (bytes : List (Option Byte)) : Ctx :=
  let line := lineOf o.pa
  let off := o.pa % 64
  let fresh : WcbLine := ⟨o.home, line, o.va - BitVec.ofNat 64 off, o.seq, List.replicate 64 none, []⟩
  let old := (c.mq.wcb.find? fun l => l.line == line).getD fresh
  let put := { old with bytes := mergeBytes old.bytes off bytes, dirt := (old.dirt ++ o.dirt).eraseDups }
  { c with mq := { c.mq with wcb := upsert (fun l => l.line == line) put c.mq.wcb } }

/-- The bytes of WCB(c) that a load finds at issue (R93). -/
def Ctx.buffered (c : Ctx) (pa len : Nat) : List (Option Byte) :=
  (List.range len).map fun k =>
    match c.mq.wcb.find? fun l => l.line == lineOf (pa + k) with
    | none => none
    | some l => (l.bytes[(pa + k) % 64]?).join

/-- The action as its message carries it. -/
def Ctx.carry (c : Ctx) (o : MemOp) : Act :=
  match o.act with
  | .load p off len _ => .load p off len (c.buffered o.pa len)
  | a => a

/-- The operation has left IQ(c). -/
def Ctx.issued (c : Ctx) (o : MemOp) : Ctx :=
  let q := { c.mq with iq := c.mq.iq.drop 1, marks := c.mq.marks.filter c.markHolds }
  let q := match o.act with
    | .prefetch => q
    | a =>
      let out : Outstanding := ⟨o.seq, o.home, a.isLoad, o.order.acq⟩
      let q := { q with outs := q.outs ++ [out] }
      if a.writes then q.useEp o.home else q
  { c with mq := q }

/-- Dirty the pages of a write before it issues (R348); a streaming store does so when its line is flushed. -/
def State.dirtyOp (s : State) (c : Ctx) (o : MemOp) : Option State :=
  if o.act.writes && !o.stream then State.dirty c o.dirt s else some s

/-- A context that holds a slot of its cell. -/
def Ctx.resident (c : Ctx) : Bool := c.status != .saved && c.status != .empty

def execEvIssue (cid : CtxId) (s : State) : Out :=
  match s.ctx? cid with
  | none => .next s
  | some c =>
    match c.mq.iq with
    | [] => .next s
    | o :: _ =>
      if !c.resident || c.unplaced || s.ctxStopped cid || !c.mayIssue o then .next s
      else
        match o.stream, o.act with
        | true, .store bytes =>
          .next (s.updCtx cid fun c => { (c.combine o bytes) with mq := { (c.combine o bytes).mq with iq := c.mq.iq.drop 1 } })
        | _, _ =>
          match s.dirtyOp c o with
          | none => .next s
          | some s =>
            let s := s.updCtx cid fun c => c.issued o
            .next { s with net := { s.net with ch := s.net.ch ++ [⟨.ctx cid, { o with act := c.carry o }⟩] } }

/-! ### Flush of a write-combining line (R93) -/

def execEvWcbFlush (cid : CtxId) (line : Nat) (s : State) : Out :=
  match s.ctx? cid with
  | none => .next s
  | some c =>
    match c.mq.wcb.find? fun l => l.line == line with
    | none => .next s
    | some l =>
      match if s.ctxStopped cid then none else State.dirty c l.dirt s with
      | none => .next s
      | some s =>
        let op : MemOp := ⟨l.seq, l.home, line * 64, l.va, .plain, .store l.bytes, false, []⟩
        let out : Outstanding := ⟨l.seq, l.home, false, false⟩
        let s := s.updCtx cid fun c =>
          let q := { c.mq with wcb := c.mq.wcb.filter (fun x => x.line != line), outs := c.mq.outs ++ [out] }
          { c with mq := q.useEp l.home }
        .next { s with net := { s.net with ch := s.net.ch ++ [⟨.wcb cid, op⟩] } }

/-! ### Arrival (R86) -/

/-- The link that leads to a home is up (R360 to R362): an endpoint, a CXL port, or, to another package, a Valtia Link, which
ends its traffic when it fails. DESIGN CHOICE (log 97): which link serves which unit is fixed and free. -/
def State.routeUp (s : State) : Home → Bool
  | .remote u => (s.link (6 + Config.peerLink u % 24)).up
  | .host e => (s.link (e % 2)).up
  | .cxl p => (s.link (2 + p % 4)).up
  | _ => true

def execEvArrival (src : Source) (h : Home) (s : State) : Out :=
  let hit := fun (f : Flight) => f.src == src && f.op.home == h
  match if s.homeStopped h || !s.routeUp h then none else s.net.ch.find? hit with
  | none => .next s
  | some f => .next { s with net := { s.net with ch := dropFirst hit s.net.ch, aq := s.net.aq ++ [f] } }

/-! ### Messages (R276, R285, R45) -/

/-- A message is counted as received and enters the mailbox or its handle; `none` when it cannot enter now. -/
def Ctx.takeMail (c : Ctx) (m : Mail) : Option Ctx :=
  let counted := { c with mail := { c.mail with received := c.mail.received + 1 } }
  match m.body with
  | .data _ =>
    if c.mail.box.length < 32 then
      some ({ counted with mail := { counted.mail with box := c.mail.box ++ [m] } }.wakeFrom .mailbox)
    else none
  | .handle x hd =>
    if c.ended || c.completed then some counted
    else if (c.handle hd).st = .pending then none
    else some ((counted.setHandle hd x).wakeFrom .handle)
  | .marker _ => none

/-- The place of a context's spill ring (R332, R336): 4,096 entries of 48 bytes in the area at sr.spbase of its comb. DESIGN
CHOICE (log 15): the rings stand there in the order of context identifiers. -/
def State.spillBase (s : State) (c : Ctx) : Nat := (s.combRec c.comb).sup.spbase.toNat % 2 ^ 56 + c.cid * 196608

/-- The entry of a message in a spill ring (R336): data, sender, tag, size. -/
def Mail.spillBytes (m : Mail) : List Byte :=
  let data := match m.body with
    | .data bs => bs
    | .handle h hd => wordsBytes [h.res, h.det, BitVec.ofNat 64 h.op, BitVec.ofNat 64 (h.st.code * 16 + hd.toNat)]
    | .marker n => bytesOf 8 n
  (data ++ List.replicate (32 - data.length) 0).take 32 ++ bytesOf 8 m.sender.toNat ++ bytesOf 4 m.tag.toNat ++ bytesOf 4 data.length

/-- A message enters the spill ring of a context, which lies in memory: the entry is written there. -/
def State.putSpill (s : State) (c : Ctx) (m : Mail) : State :=
  let s := s.writeRun (paHbm (combFrame c.comb) ((s.spillBase c + c.mail.spilled % 4096 * 48) % 2 ^ 36)) m.spillBytes
  s.updCtx c.cid fun c => { c with mail := { c.mail with spill := c.mail.spill ++ [m], spilled := c.mail.spilled + 1 } }

/-- The same, if there is room (R336). -/
def State.spillMail (s : State) (c : Ctx) (m : Mail) : Option State :=
  if c.mail.spill.length < 4096 then some (s.putSpill c m) else none

/-- Messages between the record of a round edge and the marker of their input belong to the cut (R42). -/
def State.recordCut (s : State) (dst : CtxId) (m : Mail) : State :=
  let open? := fun (p : RestartPoint) => p.ctx.cid == dst && !p.done && !p.marked.contains m.sender.toNat
  { s with points := updateAll open? (fun p => { p with msgs := p.msgs ++ [m] }) s.points }

/-- A message at its home: into the mailbox, or to the spill queue of a context that is not resident, that is full, or
that still has an earlier message of the sender there. `none` holds it: the ring is full. A cell that has completed
discards it; a pass counts as received there (R285). DESIGN CHOICE (log 68): a data message does not, since it enters no
mailbox; one to a cell that has ended and not completed enters its mailbox and counts. -/
def State.performMail (s : State) (dst : CtxId) (m : Mail) : Option State :=
  match s.ctx? dst with
  | none => some s
  | some c =>
    if (s.cellRec c.cell).isSealed then some s
    else if c.completed then
      match m.body with
      | .handle _ _ => some (s.updCtx dst fun c => { c with mail := { c.mail with received := c.mail.received + 1 } })
      | _ => some s
    else
      let s := s.recordCut dst m
      let spill := s.spillMail c m
      if !c.resident || c.mail.spill.any fun x => x.sender == m.sender then spill
      else
        match c.takeMail m with
        | some c' => some (s.updCtx dst fun _ => c')
        | none => spill

def execEvMailboxDeliver (cid : CtxId) (n : Nat) (s : State) : Out :=
  match s.ctx? cid with
  | none => .next s
  | some c =>
    match c.mail.spill[n]? with
    | none => .next s
    | some m =>
      if !c.resident || s.ctxStopped cid || (c.mail.spill.take n).any fun x => x.sender == m.sender then .next s
      else
        match c.takeMail m with
        | none => .next s
        | some c => .next (s.updCtx cid fun _ => { c with mail := { c.mail with spill := dropAt n c.mail.spill } })

/-! ### Perform (R87, R94 to R96) -/

/-- Actions on bytes of memory. -/
def Act.onMemory : Act → Bool
  | .evsig _ _ _ | .evwait _ _ _ _ | .mail _ _ => false
  | _ => true

/-- The context that an access is made for; the messages of a fabric die carry the operation identifier, and those of an
exchange, number 0, are made for no context (R36). -/
def Flight.for? (f : Flight) : Option CtxId :=
  match f.src with
  | .engine c _ => if f.op.seq = 0 then none else some c
  | .fabric _ => some (f.op.seq % 2 ^ 32)
  | x => x.ctx?

/-- Actions that wait for the owner of local memory (R334); a prefetch does not (R268). -/
def Act.ownerBound (a : Act) : Bool := a.onMemory && a != .prefetch

/-- A message waits for the lock of its line (R96). -/
def State.lockedAt (s : State) (f : Flight) : Bool := f.op.act.onMemory && !s.unlocked f.op.pa

/-- A message waits at its home: for a line lock, or for the owner of local memory (R96, R334). -/
def State.heldAt (s : State) (f : Flight) : Bool :=
  s.lockedAt f || (f.op.act.ownerBound && !(((f.for?.bind s.ctx?).map fun x => s.ownerOk x f.op.pa).getD true))

/-- A write of a context waits for room in the dirty log (R349): its oldest operation, a line of its write-combining buffer,
or a write of one of its engines or of a collective. -/
def State.logHeld (s : State) (c : Ctx) : Bool :=
  (match c.mq.iq with
    | o :: _ => c.mayIssue o && (s.dirtyOp c o).isNone
    | [] => false) ||
  (c.mq.wcb.any fun l => (State.dirty c l.dirt s).isNone) ||
  (c.eq.toList.any fun q => q.any Entry.held) || s.swarm.regs.any fun r => r.cid == c.cid && r.held

/-- A context counts as parked while an access of its own waits for the owner of its cell's local memory (R334), or a write
of its own for room in the dirty log (R349); its cell goes on with a ready context (R53). -/
def State.heldBack (s : State) (c : Ctx) : Bool :=
  (s.net.aq.any fun f => (f.src == .ctx c.cid || f.src == .wcb c.cid) && f.op.act.ownerBound && !s.ownerOk c f.op.pa) ||
    s.logHeld c

/-- A context has the seat of its cell (R53): it runs, or its instruction waits there for its own earlier operations, which
does not count as parked. -/
def State.onSeat (s : State) (c : Ctx) : Bool :=
  (c.status == .running || c.status == .parked .drain) && !c.ended && !s.heldBack c

/-- A pre-empted context whose operations are not acknowledged: its cell goes on with another one when they are (R103,
R336). -/
def State.draining (s : State) (c : Ctx) : Bool :=
  c.status == .parked .supervisor && c.fault.isNone && !c.ended && !(c.mq.outs.isEmpty && c.mq.wcb.isEmpty) && !s.heldBack c

/-- The cell of a context runs no other context (R53). -/
def State.seatFree (s : State) (c : Ctx) : Bool :=
  !(s.ctxs.any fun x => x.cid != c.cid && x.place == c.place && (s.onSeat x || s.draining x))

/-- Round markers. -/
def Act.isMarker : Act → Bool
  | .mail _ ⟨_, _, .marker _, _⟩ => true
  | _ => false

/-- A message of a sender that cannot be taken now: its ring is full (R336), or it is a marker, which PERFORM does not
take. -/
def State.mailStuck (s : State) (f : Flight) : Bool :=
  match f.op.act with
  | .mail d m =>
    match m.body with
    | .marker _ => true
    | _ => (s.performMail d m).isNone
  | _ => false

/-- A message stands at the head of its home's arrival queue (R87, R96): nothing earlier may be performed first, and no
earlier access of its own source is still there. Messages that wait for a lock are passed, and from another source those
that wait for an owner or for room in a spill ring. -/
def State.headAt (s : State) (h : Home) (f : Flight) (i : Nat) : Bool :=
  (s.net.aq.take i).all fun g =>
    g.op.home != h || s.lockedAt g || g.op.act.isMarker || (g.src != f.src && (s.heldAt g || s.mailStuck g))

/-- An earlier access of its own source to its home still waits there, for something other than a lock (R87). -/
def State.sourceWaits (s : State) (h : Home) (f : Flight) (i : Nat) : Bool :=
  (s.net.aq.take i).any fun g => g.op.home == h && g.src == f.src && !s.lockedAt g && !g.op.act.isMarker

/-- The second half of a pair operation stands before a message and is not held: it comes first. -/
def State.behindPair (s : State) (h : Home) (i : Nat) : Bool :=
  (s.net.aq.take i).any fun g => g.op.home == h && !s.heldAt g && match g.op.act with
    | .pair _ _ _ _ _ _ _ _ _ _ _ second _ _ => second
    | _ => false

/-- An earlier message of the same sender to the same context is still there (R276). -/
def mailBehind (before : List Flight) (f : Flight) : Bool :=
  match f.op.act with
  | .mail d m => before.any fun g => match g.op.act with
    | .mail d' m' => d' == d && m'.sender == m.sender
    | _ => false
  | _ => false

def State.reply (s : State) (r : Reply) : State := { s with net := { s.net with replies := s.net.replies ++ [r] } }

/-- The answer to a message. -/
def Flight.answer (f : Flight) (pend : Option (Nat × Nat)) (bytes : List Byte) (bad : Bool) : Reply :=
  ⟨f.src, f.op.seq, pend, bytes, bad, f.op.va⟩

/-- An import that covered a peer-window access has been revoked (R352). -/
def State.revokedAt (s : State) (f : Flight) : Bool :=
  2 ^ 40 ≤ f.op.va.toNat && f.op.va.toNat < 2 ^ 41 &&
    match (f.src.ctx?).bind s.ctx? with
    | none => false
    | some c => !(s.frameRec (combFrame c.comb)).imported f.op.va.toNat

/-- An access that its home answers with an error (R70, R337, R352). -/
def State.errorAt (s : State) (f : Flight) : Bool :=
  s.revokedAt f ||
    match f.op.act with
    | .load _ _ len _ => s.badRead f.op.pa len
    | .amo _ ty _ _ _ | .wait ⟨ty, _⟩ _ => s.badRead f.op.pa ty.bytes
    | .pair _ _ _ ty a b _ _ _ _ _ _ _ _ => s.badRead a ty.bytes || s.badRead b ty.bytes
    | .store _ | .red _ _ _ => s.sealedAt f.op.pa
    | _ => false

/-- Bytes read, with the bytes found in WCB(c) at issue over them. -/
def withBuffered (bytes : List Byte) (buffered : List (Option Byte)) : List Byte :=
  bytes.mapIdx fun k b => ((buffered[k]?).join).getD b

/-- A 4-byte load of the low half of a counter of the meter view latches its high half, which the next load of that half
returns (R374). -/
def Ctx.meterLoad (c : Ctx) (off : Nat) (low high : Nat) (bytes : List Byte) : List Byte × Ctx :=
  if off < 0x40000 ∨ bytes.length ≠ 4 then (bytes, c)
  else if off % 8 = 0 then
    (bytesOf 4 low, { c with meterLatch := upsert (fun x => x.1 == off) (off, BitVec.ofNat 32 high) c.meterLatch })
  else
    match c.meterLatch.find? fun x => x.1 + 4 == off with
    | some x => (bytesOf 4 x.2.toNat, { c with meterLatch := c.meterLatch.filter fun y => y.1 != x.1 })
    | none => (bytes, c)

/-- The value of a load performed now, and the state after it. -/
def State.loadAt (s : State) (f : Flight) (len : Nat) (buffered : List (Option Byte)) : List Byte × State :=
  let r := s.readAt f.op.pa len
  let bytes := withBuffered r.1 buffered
  if f.op.pa < 2 ^ 47 then (bytes, r.2)
  else
    match (f.src.ctx?).bind s.ctx? with
    | none => (bytes, r.2)
    | some c =>
      let off := (f.op.pa - 2 ^ 47) % 2 ^ 26
      let whole := ofBytes (s.peek (f.op.pa - off % 8) 8)
      let m := c.meterLoad off (whole % 2 ^ 32) (whole / 2 ^ 32) bytes
      (m.1, r.2.updCtx c.cid fun _ => m.2)

/-- What an atomic leaves (R269). -/
def amoNew (op : RmwOp) (ty : Ty) (old b cmp : Nat) : Nat :=
  match op with
  | .cas => if old = cmp then b % 2 ^ ty.bits else old
  | _ => rmw op ty old b

/-- Lines that a watch table holds (R274). -/
def watchLines : Home → Nat
  | .cell _ => 16
  | .vault _ => 256
  | .cxl _ => 1024
  | _ => 64

/-- The oldest line of a full table is evicted, and its waiters are told (R274). -/
def State.evict (s : State) (h : Home) : State :=
  let mine := s.net.watch.filter fun w => w.home == h
  if mine.length < watchLines h then s
  else
    match mine.head? with
    | none => s
    | some w =>
      { s with net := { s.net with
          watch := dropFirst (fun x => x.home == h && x.line == w.line) s.net.watch,
          wakes := s.net.wakes ++ w.waiters.map fun x => ⟨x.1, x.2, 2, none⟩ } }

/-- Is a wait of a context still the one that a message carries. -/
def State.waiting (s : State) (c : CtxId) (pend : Nat) : Bool :=
  ((s.ctx? c).bind fun x => x.wait).any fun w => w.pend == pend

/-- The wait has entered its table, and its context parks. -/
def State.enterWait (s : State) (c : CtxId) (counter : Option (BitVec 4 × BitVec 32)) : State :=
  s.updCtx c fun x => x.enter counter

/-- `waitaddr` at its home (R274). -/
def State.performWait (s : State) (f : Flight) (c : CtxId) (ty : Ty) (x : Word) (pend : Nat) : State :=
  let line := lineOf f.op.pa
  let r := s.readAt f.op.pa ty.bytes
  let s := r.2
  let ws := (s.net.watch.find? fun w => w.line == line).map fun w => w.waiters
  if !s.waiting c pend then s.reply (f.answer none [] false)
  else if ofBytes r.1 ≠ x.toNat then s.reply (f.answer (some (pend, 0)) (bytesOf 8 1) false)
  else if (ws.getD []).length = 64 then s.reply (f.answer (some (pend, 0)) (bytesOf 8 3) false)
  else
    let s := if ws.isNone then s.evict f.op.home else s
    let watch :=
      if ws.isNone then s.net.watch ++ [⟨f.op.home, line, [(c, pend)]⟩]
      else updateAll (fun w => w.line == line) (fun w => { w with waiters := w.waiters ++ [(c, pend)] }) s.net.watch
    ({ s with net := { s.net with watch := watch } }.enterWait c none).reply (f.answer none [] false)

/-- Has a counter reached a threshold (R275). -/
def reached (counter thr : BitVec 32) : Bool := (counter - thr).toNat < 2 ^ 31

/-- The status word of an event-unit wait. -/
def evStatus (code : Nat) (counter : BitVec 32) : Word := BitVec.ofNat 64 (code * 2 ^ 56 + counter.toNat)

/-- `evsig` at the event unit: the counter adds, then its waiters are tested (R275). -/
def State.performSignal (s : State) (rid : RegionId) (n : BitVec 4) (v : BitVec 32) : State :=
  match s.region? (some rid) with
  | none => s
  | some r =>
    let x := r.ev.get n.toFin + v
    let s := s.updRegion rid fun r => { r with ev := r.ev.set n.toNat x n.isLt }
    let hit := fun (w : EvWaiter) => w.region == rid && w.n == n && reached x w.thr
    { s with net := { s.net with
        evwait := s.net.evwait.filter fun w => !hit w,
        wakes := s.net.wakes ++ (s.net.evwait.filter hit).map fun w => ⟨w.cid, w.pend, 0, some x⟩ } }

/-- `evwait` at the event unit (R275). -/
def State.performEvWait (s : State) (f : Flight) (c : CtxId) (rid : RegionId) (n : BitVec 4) (thr : BitVec 32)
    (pend : Nat) : State :=
  match s.region? (some rid) with
  | none => s.reply (f.answer none [] false)
  | some r =>
    let x := r.ev.get n.toFin
    if !s.waiting c pend then s.reply (f.answer none [] false)
    else if reached x thr then s.reply (f.answer (some (pend, 0)) (bytesOf 8 (evStatus 0 x).toNat) false)
    else if r.terminated then s.reply (f.answer (some (pend, 0)) (bytesOf 8 (evStatus 6 x).toNat) false)
    else
      let w : EvWaiter := ⟨rid, n, c, thr, pend⟩
      ({ s with net := { s.net with evwait := s.net.evwait ++ [w] } }.enterWait c (some (n, x))).reply
        (f.answer none [] false)

/-- New values of the two words of a pair operation: `none` when nothing is written (R271). -/
def pairNew (op : RmwOp) (dcas move : Bool) (ty : Ty) (oldA oldB opA opB cmpA cmpB : Nat) : Option (Nat × Nat) :=
  if move then some (oldB, 0)
  else if dcas then (if oldA = cmpA ∧ oldB = cmpB then some (opA % 2 ^ ty.bits, opB % 2 ^ ty.bits) else none)
  else some (rmw op ty oldA opA, rmw op ty oldB opB)

/-- A two-address operation writes both words and answers (R96, R271). -/
def State.finishPair (s : State) (f : Flight) (op : RmwOp) (dcas move : Bool) (ty : Ty) (a b oldA oldB : Nat)
    (opA opB cmpA cmpB : Word) (pend : Nat) : State :=
  let s := match pairNew op dcas move ty oldA oldB opA.toNat opB.toNat cmpA.toNat cmpB.toNat with
    | none => s
    | some (x, y) => (s.writeNum a ty.bytes x).writeNum b ty.bytes y
  let out := if move then bytesOf ty.bytes oldB else bytesOf 4 oldA ++ bytesOf 4 oldB
  s.reply (f.answer (some (pend, 0)) out false)

/-- Perform one message that nothing holds; it has left AQ(h). `none`: it cannot be performed yet. -/
def State.perform (s : State) (f : Flight) : Option State :=
  let o := f.op
  if s.errorAt f then
    some (s.reply (f.answer
      (match o.act with
        | .load p off _ _ => some (p, off)
        | .amo _ _ _ _ p | .wait _ p => some (p, 0)
        | .pair _ _ _ _ _ _ _ _ _ _ _ _ _ p => some (p, 0)
        | _ => none) [] true))
  else
    match o.act with
    | .load p off len buffered =>
      let r := s.loadAt f len buffered
      some (r.2.reply (f.answer (some (p, off)) r.1 false))
    | .store bytes => some ((s.writeAt o.pa bytes).reply (f.answer none [] false))
    | .amo op ty b cmp p =>
      let r := s.readAt o.pa ty.bytes
      let old := ofBytes r.1
      some ((r.2.writeNum o.pa ty.bytes (amoNew op ty old b.toNat cmp.toNat)).reply
        (f.answer (some (p, 0)) (bytesOf ty.bytes old) false))
    | .red op ty elems => some ((s.reduceAt o.pa op ty elems).reply (f.answer none [] false))
    | .pair op dcas move ty a b va opA opB cmpA cmpB second _ p =>
      if second then none
      else if lineOf a = lineOf b then
        let x := s.readAt a ty.bytes
        let y := x.2.readAt b ty.bytes
        some (y.2.finishPair f op dcas move ty a b (ofBytes x.1) (ofBytes y.1) opA opB cmpA cmpB p)
      else
        let r := s.readAt o.pa ty.bytes
        let high := if a < b then b else a
        let next : MemOp := { o with
          home := homeOf high, pa := high, va := va,
          act := .pair op dcas move ty a b va opA opB cmpA cmpB true (BitVec.ofNat 64 (ofBytes r.1)) p }
        let lock : Lock := ⟨lineOf o.pa, (f.src.ctx?).getD 0⟩
        some { r.2 with net := { r.2.net with
          locks := r.2.net.locks ++ [lock], ch := r.2.net.ch ++ [⟨f.src, next⟩] } }
    | .wait w p =>
      match f.src.ctx? with
      | none => some s
      | some c => some (s.performWait f c w.ty w.expect p)
    | .evsig r n v => some ((s.performSignal r n v).reply (f.answer none [] false))
    | .evwait r n thr p =>
      match f.src.ctx? with
      | none => some s
      | some c => some (s.performEvWait f c r n thr p)
    | .mail d m =>
      match m.body with
      | .marker _ => none
      | _ => (s.performMail d m).map fun s => s.reply (f.answer none [] false)
    | .prefetch => some s

/-- Messages that PERFORM does not take: the second half of a pair, and round markers. -/
def Act.elsewhere : Act → Bool
  | .pair _ _ _ _ _ _ _ _ _ _ _ second _ _ => second
  | a => a.isMarker

/-- Try to perform the message at a place of the arrival queues. -/
def State.tryPerform (s : State) (h : Home) (i : Nat) : Option State :=
  match s.net.aq[i]? with
  | none => none
  | some f =>
    if f.op.home != h || f.op.act.elsewhere || s.heldAt f || s.behindPair h i || s.sourceWaits h f i ||
        mailBehind (s.net.aq.take i) f then none
    else { s with net := { s.net with aq := dropAt i s.net.aq } }.perform f

def execEvPerform (h : Home) (s : State) : Out :=
  match if s.homeStopped h then none else (List.range s.net.aq.length).findSome? (s.tryPerform h) with
  | none => .next s
  | some s => .next s

/-! ### Apply (R87) -/

def execEvApply (h : Home) (s : State) : Out :=
  match s.net.wq.find? fun e => e.1 == h with
  | none => .next s
  | some e =>
    .next { s with mem := e.2.apply s.mem, net := { s.net with wq := dropFirst (fun x => x.1 == h) s.net.wq } }

/-! ### The second home of a pair (R96) -/

/-- Unlock every line of a context's pair operation. -/
def State.unlock (s : State) (c : CtxId) : State :=
  { s with net := { s.net with locks := s.net.locks.filter fun l => l.cid != c } }

def State.trySecond (s : State) (h : Home) (i : Nat) : Option State :=
  match s.net.aq[i]? with
  | none => none
  | some f =>
    if f.op.home != h || s.heldAt f || !s.headAt h f i then none
    else
      match f.op.act with
      | .pair op dcas move ty a b _ opA opB cmpA cmpB true low p =>
        let s := { s with net := { s.net with aq := dropAt i s.net.aq } }
        let c := (f.src.ctx?).getD 0
        if s.errorAt f then some ((s.unlock c).reply (f.answer (some (p, 0)) [] true))
        else
          let r := s.readAt f.op.pa ty.bytes
          let high := ofBytes r.1
          let oldA := if a < b then low.toNat else high
          let oldB := if a < b then high else low.toNat
          some ((r.2.finishPair f op dcas move ty a b oldA oldB opA opB cmpA cmpB p).unlock c)
      | _ => none

def execEvPairSecondHome (h : Home) (s : State) : Out :=
  match if s.homeStopped h then none else (List.range s.net.aq.length).findSome? (s.trySecond h) with
  | none => .next s
  | some s => .next s

/-! ### Replies (R87, R70) -/

/-- A wait whose result has arrived is over. -/
def Ctx.endWait (c : Ctx) (pend : Nat) : Ctx :=
  match c.wait with
  | some w =>
    if w.pend = pend && !(c.pend.any fun p => p.id == pend) then
      (({ c with wait := none }.wakeFrom .addr).wakeFrom .event)
    else c
  | none => c

/-- The results that an operation in a list returns to. -/
def MemOp.pend? (o : MemOp) : Option Nat :=
  match o.act with
  | .load p _ _ _ | .amo _ _ _ _ p | .pair _ _ _ _ _ _ _ _ _ _ _ _ _ p | .wait _ p | .evwait _ _ _ p => some p
  | _ => none

/-- A precise trap stops issue at its instruction: the operations after a number have not been executed (R103), nor has a
wait after it. -/
def Ctx.dropLater (c : Ctx) (seq : Nat) : Ctx :=
  let gone := c.mq.iq.filter fun o => seq < o.seq
  let late := c.wait.filter fun w => seq < w.pend
  { c with
    pend := c.pend.filter fun p =>
      !(p.dest == Dest.none && decide (seq < p.id)) && !(gone.any fun o => o.pend? == some p.id) && !(late.any fun w => w.pend == p.id),
    wait := if late.isSome then none else c.wait,
    mq := { c.mq with iq := c.mq.iq.filter (fun o => o.seq ≤ seq), marks := c.mq.marks.filter fun m => m.seq ≤ seq } }

/-- The fault of an error answer: uncorrectable data, or peer unmapped in the peer window (R70, R337, R352). -/
def Reply.trap (r : Reply) : Trap :=
  ⟨if 2 ^ 40 ≤ r.va.toNat && r.va.toNat < 2 ^ 41 then cPeer else cUncorrectable, 0, r.va⟩

/-- An error answer: its fault at the instruction of the access; nothing is written and no later operation issues (R70,
R103, R262). A context that has already stopped stays as it stopped. -/
def Ctx.errorReply (c : Ctx) (r : Reply) (now : Nat) : Ctx :=
  if c.status = .parked .supervisor ∨ c.ended then { c with pend := c.pend.filter fun p => some p.id != r.pend.map Prod.fst }
  else
    let p := r.pend.bind fun x => c.pend.find? fun p => p.id == x.1
    let pc := (p.map fun p => p.pc).getD c.pc
    let pend := match r.pend with
      | none => c.pend
      | some x => c.pend.filter fun p => p.id != x.1
    ({ c with pc := pc, pend := pend }.dropLater r.seq).fault' r.trap now

/-- The bytes of an inbound read go to the host once every part has been answered (R100); an error answer gives none. -/
def State.hostDone (s : State) (ep id : Nat) : State :=
  if (s.io? (.hub ep) id).isSome && s.ioRead? (.hub ep) id then
    let bytes := if (s.ioBad (.hub ep) id).isSome then [] else s.ioBytes (.hub ep) id
    let reads := updateAll (fun r => r.id == id) (fun (r : HostRead) => { r with bytes := some bytes }) s.net.hostReads
    ({ s with net := { s.net with hostReads := reads } }).ioDrop (.hub ep) id
  else s

/-- The bytes of a reply reach a result. -/
def Ctx.deliverEnd (c : Ctx) (r : Reply) (now : Nat) : Ctx :=
  match r.pend with
  | none => c
  | some x => (c.deliver x.1 x.2 r.bytes now).endWait x.1

/-- A restart point that was recorded while a result was on its way receives it too (R42). -/
def State.pointReply (s : State) (cid : CtxId) (r : Reply) : State :=
  { s with points := updateAll (fun p => p.ctx.cid == cid) (fun p => { p with ctx := p.ctx.deliverEnd r s.now }) s.points }

/-- The waits of a context leave every table. -/
def State.unwait (s : State) (c : CtxId) : State :=
  let watch := s.net.watch.map fun w => { w with waiters := w.waiters.filter fun x => x.1 != c }
  { s with net := { s.net with
      watch := watch.filter fun w => !w.waiters.isEmpty,
      evwait := s.net.evwait.filter fun w => w.cid != c } }

/-- A reply reaches a context: the operation is acknowledged, and its bytes reach their result. The followers of a leader
that it stops detach (R49). -/
def State.ctxReply (s : State) (cid : CtxId) (r : Reply) : State :=
  let acked := fun (c : Ctx) => { c with mq := { c.mq with outs := c.mq.outs.filter fun o => o.seq != r.seq } }
  let s := if r.bad then s else s.pointReply cid r
  let s := s.updCtx cid fun c =>
    if r.bad then (acked c).errorReply r s.now else (acked c).deliverEnd r s.now
  let s := if (s.ctx? cid).any fun c => c.wait.isNone && r.bad then s.unwait cid else s
  if ((s.ctx? cid).bind fun c => c.fault).isSome then s.detachFollowers cid else s

def execEvReplyDelivery (n : Nat) (s : State) : Out :=
  match s.net.replies[n]?.filter fun r => !s.sourceStopped r.src with
  | none => .next s
  | some r =>
    let s := { s with net := { s.net with replies := dropAt n s.net.replies } }
    match r.src with
    | .ctx cid | .wcb cid => .next (s.ctxReply cid r)
    | .hub ep => .next ((s.ioReply r r.trap).hostDone ep r.seq)
    | _ => .next (s.ioReply r r.trap)

/-! ### Wakes and timeouts (R105, R274, R275) -/

/-- The end of a wait: its status, with the counter of an event-unit wait. -/
def Ctx.finishWait (c : Ctx) (code : Nat) (counter : Option (BitVec 32)) (now : Nat) : Ctx :=
  match c.wait with
  | none => c
  | some w =>
    let x := match counter with
      | some x => evStatus code x
      | none =>
        match w.counter with
        | some (_, x) => evStatus code x
        | none => BitVec.ofNat 64 code
    (c.fulfil w.pend x now).endWait w.pend

def execEvWakeDelivery (n : Nat) (s : State) : Out :=
  match s.net.wakes[n]?.filter fun w => !s.ctxStopped w.cid with
  | none => .next s
  | some w =>
    let s := { s with net := { s.net with wakes := dropAt n s.net.wakes } }
    if s.waiting w.cid w.pend then .next (s.updCtx w.cid fun c => c.finishWait w.code w.counter s.now) else .next s

def execEvWaitTimeout (cid : CtxId) (s : State) : Out :=
  match (s.ctx? cid).bind fun c => c.wait with
  | none => .next s
  | some w =>
    match w.deadline with
    | none => .next s
    | some t =>
      if w.entered ∧ t ≤ s.now then .next ((s.unwait cid).updCtx cid fun c => c.finishWait 4 none s.now) else .next s

/-! ### Host agents (R100, R101) -/

/-- The addresses that an inbound request of the host reaches (R326): the rings of the work queues that lie in the memory of
the package (R354). DESIGN CHOICE (log 34): a request to another address is dropped. -/
def State.inboundOk (s : State) (addr len : Nat) : Bool :=
  s.hub.queues.any fun x =>
    let n := 2 ^ x.2.size
    (x.2.base.msb && within addr len (ringPa x.1 x.2.base 0) (64 * n)) ||
      (x.2.cbase.msb && within addr len (ringPa x.1 x.2.cbase 0) (32 * n))

/-- Is a message a write. -/
def Act.isStore : Act → Bool
  | .store _ => true
  | _ => false

/-- Every earlier posted write of an endpoint has been acknowledged. -/
def State.hostQuiet (s : State) (ep : Nat) : Bool :=
  !((s.net.ch ++ s.net.aq).any fun f => f.src == .hub ep && f.op.act.isStore) &&
    !(s.net.replies.any fun r => r.src == .hub ep && r.pend.isNone)

def execEvHostInboundWrite (ep addr : Nat) (data : List Byte) (s : State) : Out :=
  if !s.routeUp (.host ep) || !s.hostQuiet ep || data.isEmpty || !s.inboundOk addr data.length then .next s
  else
    match s.absentRange addr data.length with
    | some f => .fault (.absentStack f)
    | none =>
      let parts := fixedParts addr addr data.length .hbm
      let msgs := parts.mapIdx fun k p =>
        (⟨.hub ep, p.op .plain (.store (((data.drop (p.va - addr)).take p.len).map some)) (s.net.hostNext + k)⟩ : Flight)
      .next { s with net := { s.net with ch := s.net.ch ++ msgs, hostNext := s.net.hostNext + parts.length } }

/-- An inbound read sends one message for each of its parts (R84, R100). -/
def execEvHostInboundRead (ep addr len : Nat) (s : State) : Out :=
  if !s.routeUp (.host ep) || !s.hostQuiet ep || !s.inboundOk addr len then .next s
  else
    match s.absentRange addr len with
    | some f => .fault (.absentStack f)
    | none =>
      let id := s.net.hostNext
      let parts := withOffsets addr 0 (fixedParts addr addr len .hbm)
      let s := { s with net := { s.net with hostNext := id + 1, hostReads := s.net.hostReads ++ [(⟨id, ep, addr, none⟩ : HostRead)] } }
      .next ((s.ioSendReads (.hub ep) id len parts).hostDone ep id)

/-- The completion of a zero-length read: every write of the context and of its engines on that endpoint has been emitted
(R101). -/
def execEvHostFlushRead (ep : Nat) (cid : CtxId) (s : State) : Out :=
  match s.ctx? cid with
  | none => .next s
  | some c =>
    let under := fun (f : Flight) => f.for? == some cid && f.op.home == .host ep && f.op.act.isStore
    if (c.mq.outs.any fun o => o.home == .host ep) || (s.net.ch ++ s.net.aq).any under then .next s
    else .next (s.updCtx cid fun c => { c with mq := { c.mq with eps := c.mq.eps.filter fun e => e != ep } })

end Sys2Proof.Machine
end

