-- ==== Sys2Proof/Machine/Launch.lean ====
section
/-!
DEFINITION. Launching a region (R27 to R31, R37, R41, R48, R357): reading and checking its RCB, channel map, gang map and
transfer schedule, dividing its cells among frames, and the contexts that start. Launch structures are read by stack
offset of the home frame (log 16).
-/
namespace Sys2Proof.Machine

/-! ### Reading launch structures -/

/-- A little-endian number of a launch structure. -/
def State.launchNum (s : State) (frame va n : Nat) : Nat := ofBytes (s.peek (launchPa frame va) n)

/-- Does an address lie in paged global space, at a multiple of `al`. -/
def pagedAligned (va al : Nat) : Bool := 2 ^ 48 ≤ va && va < 2 ^ 56 && va % al == 0

/-! ### The RCB (R357) -/

/-- The bits of each word of an RCB that are not reserved; the H8 writes words 13 to 16 itself. -/
def rcbMask : Nat → Nat
  | 0 | 8 | 10 | 11 | 18 => 0x00FFFFFFFFFFFFFF
  | 1 => 0xFF00FFFF0001FFFF
  | 2 | 7 => 0xFFFFFFFF
  | 3 | 9 | 17 => 0xFFFF
  | 4 => 0x01FF00000003F1FF
  | 5 => 0x00000001FFFFFFFF
  | 6 | 13 | 14 | 15 | 16 => 0xFFFFFFFFFFFFFFFF
  | 12 => 0x800FFFFFFFFFFFFF
  | 19 => 0x00FFFFFFFFFF001F
  | 20 => 0x80FFFFFFFFFFFFFF
  | 21 => 1
  | _ => 0

def State.readRcb (s : State) (frame va : Nat) : Rcb := ⟨(List.range 32).map fun i => s.launchNum frame (va + 8 * i) 8⟩

def Rcb.fld (r : Rcb) (i lo n : Nat) : Nat := bitsAt (r.w.getD i 0) lo n
/-- The override bit of an attribute. -/
def Rcb.has (r : Rcb) (b : Nat) : Bool := r.fld 4 (48 + b) 1 == 1
/-- No reserved bit is set. -/
def Rcb.clean (r : Rcb) : Bool := (List.range 32).all fun i => r.w.getD i 0 &&& rcbMask i == r.w.getD i 0

def Rcb.entry (r : Rcb) : Nat := r.fld 0 0 56
def Rcb.kids (r : Rcb) : Nat := r.fld 9 0 16
def Rcb.free (r : Rcb) : Bool := r.fld 4 16 1 == 1
def Rcb.contests (r : Rcb) : Bool := r.fld 21 0 1 == 1

/-- Fields in range, whatever they are inherited from. -/
def Rcb.inRange (r : Rcb) : Bool :=
  (!r.has 0 || r.fld 1 0 17 ≤ 65536) && (!r.has 2 || r.fld 3 8 8 + r.fld 3 0 8 ≤ 192) &&
    (!r.has 3 || (1 ≤ r.fld 4 0 9 && r.fld 4 0 9 ≤ 256)) && r.fld 8 0 56 % 8 == 0 &&
    (r.fld 19 0 5 == 0 || (16 ≤ r.fld 19 0 5 && r.fld 19 0 5 ≤ 30 && r.fld 19 0 56 / 2 ^ 16 * 2 ^ 16 % 2 ^ r.fld 19 0 5 == 0)) &&
    (r.fld 20 63 1 == 0 || r.fld 20 0 56 != 0)

/-- The limit of a fault domain (R27): a child stays in its parent's domain, or names a new one that is nested in it. A root
names a domain of its own. -/
def Rcb.domainOk (r : Rcb) (p : Attrs) (root : Bool) : Bool :=
  !r.has 5 || root || r.fld 5 32 1 == 1 || r.fld 5 0 32 == p.domain % 2 ^ 32

/-- The attributes that hold, given those of the parent (R27, R28); a root has the attributes of its queue and frames. A
mask of frames of 0 stands for the parent's. -/
def Rcb.attrs (r : Rcb) (p : Attrs) : Attrs :=
  let own := fun (b i lo n k inherited : Nat) => if r.has b then r.fld i lo n * k else inherited
  let prio := own 4 4 12 4 1 p.prio
  let frames := BitVec.ofNat 8 (own 6 1 56 8 1 p.frames.toNat)
  { cells := own 0 1 0 17 1 p.cells, vault := own 1 2 0 32 (2 ^ 16) p.vault, stack := own 2 3 8 8 256 p.stack,
    spill := own 2 3 0 8 256 p.spill, power := own 3 4 0 9 1 256, prio := prio, effPrio := min prio p.effPrio,
    domain := own 5 5 0 32 1 p.domain, nested := r.has 5 && r.fld 5 32 1 == 1, free := r.free, det := p.det,
    frames := if frames = 0 then p.frames else frames, limit := own 7 1 32 16 1 p.limit,
    seed := BitVec.ofNat 64 (own 8 6 0 64 1 p.seed.toNat), rounds := r.free && r.fld 4 17 1 == 1,
    period := r.fld 7 0 32 * 1000 }

def Attrs.stkbase (a : Attrs) : Nat := 0xF800 - a.spill
def Attrs.stklim (a : Attrs) : Nat := a.stkbase - a.stack

/-! ### Channel maps (R41) -/

/-- The outputs of one cell. -/
def State.channelList (s : State) (frame m n j : Nat) : Option (List Nat) :=
  let w := s.launchNum frame (m + 8 * j) 8
  let off := bitsAt w 32 32
  let cnt := bitsAt w 0 11
  if bitsAt w 11 21 ≠ 0 ∨ off % 4 ≠ 0 ∨ 1024 < cnt then none
  else
    let es := (List.range cnt).map fun i => s.launchNum frame (m + off + 4 * i) 4
    if es.all fun e => e < n then some es.eraseDups else none

def State.channelMap (s : State) (frame m n : Nat) : Option (List (List Nat)) :=
  if pagedAligned m 64 then (List.range n).mapM (s.channelList frame m n) else none

/-! ### Transfer schedules (R37) -/

/-- A range that a transfer may name: the data area of a cell, or its granted granules. -/
def xferRange (a : Attrs) (k : Nat) (vault : Bool) (off len : Nat) : Bool :=
  if vault then
    let g := a.vault / 2 ^ 16
    off + len ≤ 2 ^ 17 && (2 ^ 16 ≤ off || 2 * k < g) && (off + len ≤ 2 ^ 16 || 2 * k + 1 < g)
  else off + len ≤ a.stklim

/-- One entry of a list. -/
def State.scheduleEntry (s : State) (frame : Nat) (a : Attrs) (va : Nat) : Option Xfer :=
  let w := fun i => s.launchNum frame (va + 8 * i) 8
  let x : Xfer := ⟨bitsAt (w 0) 32 32, bitsAt (w 0) 0 32, bitsAt (w 1) 48 16, bitsAt (w 1) 17 1 == 1, bitsAt (w 1) 0 17,
    bitsAt (w 2) 48 16, bitsAt (w 2) 17 1 == 1, bitsAt (w 2) 0 17⟩
  if bitsAt (w 1) 18 30 = 0 ∧ bitsAt (w 2) 18 30 = 0 ∧ w 3 = 0 ∧ 1 ≤ x.len ∧ x.len ≤ 0x20000 ∧ x.srcCell < a.cells ∧
      x.dstCell < a.cells ∧ xferRange a x.srcCell x.srcVault x.srcOff x.len ∧ xferRange a x.dstCell x.dstVault x.dstOff x.len
  then some x else none

/-- Entries in ascending order of (slot, index) (R36). -/
def insertXfer (x : Xfer) : List Xfer → List Xfer
  | [] => [x]
  | y :: ys => if x.slot < y.slot then x :: y :: ys else y :: insertXfer x ys

def State.scheduleList (s : State) (frame : Nat) (a : Attrs) (d : Nat) : Option (List Xfer) :=
  let w0 := s.launchNum frame d 8
  let w1 := s.launchNum frame (d + 8) 8
  if 2 ^ 56 ≤ w0 ∨ w0 % 32 ≠ 0 ∨ 2 ^ 32 ≤ w1 ∨ (w1 ≠ 0 ∧ w0 < 2 ^ 48) then none
  else ((List.range w1).mapM fun i => s.scheduleEntry frame a (w0 + 32 * i)).map fun xs =>
    xs.foldl (fun ys x => insertXfer x ys) []

def State.schedule (s : State) (frame : Nat) (a : Attrs) (va : Nat) : Option (List (List Xfer)) :=
  let n := s.launchNum frame va 8
  if !pagedAligned va 64 || 2 ^ 16 ≤ n || n = 0 || s.launchNum frame (va + 8) 8 ≠ 0 then none
  else (List.range n).mapM fun i => s.scheduleList frame a (va + 16 + 16 * i)

/-! ### Dividing cells among frames (R29) -/

/-- The frames of a mask, ascending. -/
def maskFrames (m : BitVec 8) : List Nat := (List.range 8).filter fun f => m.getLsbD f

/-- The share of each named frame. -/
def shares (m : BitVec 8) (n : Nat) : List (Nat × Nat) :=
  let fs := maskFrames m
  fs.mapIdx fun i f => (f, n / fs.length + if i < n % fs.length then 1 else 0)

/-! ### The plan of a launch -/

def State.partition? (s : State) (p : Nat) : Option Partition := s.partitions.find? fun x => x.id == p

/-- Frames of the partition of a frame that are live (R350, R357). -/
def State.partitionMask (s : State) (frame : Nat) : BitVec 8 :=
  let p := (s.frameRec frame).partition
  BitVec.ofNat 8 (((List.range 8).filter fun f => (s.frameRec f).partition == p && s.hub.live.getLsbD f).foldl
    (fun x f => x + 2 ^ f) 0)

/-- A gang byte: size minus one and hop; a solo cell has neither (R48). -/
def gangByteOk (b : Nat) : Bool := b % 16 ≤ b / 16

/-- The overflow areas of `n` cells end below 2^56, so that sr.ovfptr can hold every top (R67). -/
def Rcb.overflowFits (r : Rcb) (n : Nat) : Bool :=
  r.fld 19 0 5 == 0 || r.fld 19 0 56 / 2 ^ 16 * 2 ^ 16 + n * 2 ^ r.fld 19 0 5 < 2 ^ 56

/-- What a launch reads and checks of an RCB (R357), given the attributes that it inherits. -/
def State.plan (s : State) (frame va : Nat) (p : Attrs) (root : Bool) : Plan :=
  let r := s.readRcb frame va
  let a := r.attrs p
  let bad : Plan := ⟨false, r, a, [], none, []⟩
  if va % 256 ≠ 0 || !r.clean || !r.inRange || !r.overflowFits a.cells || !r.domainOk p root || a.frames &&& s.partitionMask frame ≠ a.frames then bad
  else
    let chans := if a.rounds then (s.channelMap frame (r.fld 10 0 56) a.cells).map some else some none
    let sched := if a.free || r.fld 18 0 56 = 0 then some [] else s.schedule frame a (r.fld 18 0 56)
    let gangs := if r.fld 11 0 56 = 0 then [] else (List.range a.cells).map fun j => s.launchNum frame (r.fld 11 0 56 + j) 1
    match chans, sched with
    | some c, some x => if gangs.all gangByteOk then ⟨true, r, a, gangs, c, x⟩ else bad
    | _, _ => bad

/-- Cells that a region keeps for itself and its children (R29, R30). -/
def Plan.shares (p : Plan) : List (Nat × Nat) := Sys2Proof.Machine.shares p.a.frames p.a.cells
/-- Own cells: none without an entry address. -/
def Plan.own (p : Plan) : Nat := if p.rcb.entry = 0 then 0 else p.a.cells

/-! ### Budgets (R29) -/

/-- A root exceeds the budget of its frames. -/
def Plan.rootOver (p : Plan) : Bool :=
  let k := (maskFrames p.a.frames).length
  8192 * k < p.a.cells || 2 ^ 30 * k < p.a.vault || p.shares.any fun x => 8192 < x.2

/-- The part of `g` granules that follows the cells of a frame (R29, R63), given the cells of each frame in turn, the frame's
place among them and the number of cells before it; what exceeds two for each cell lies with the last frame. -/
def granulesOn (g before n : Nat) (last : Bool) : Nat := (if last then g else min g (2 * (before + n))) - min g (2 * before)

/-- Granules that a share list draws from the 16,384 of a frame. -/
def vaultOn (g : Nat) (xs : List (Nat × Nat)) (frame : Nat) : Nat :=
  let xs := xs.filter fun x => x.2 != 0
  let before := xs.takeWhile fun x => x.1 != frame
  match xs.drop before.length with
  | [] => 0
  | x :: rest => min 16384 (granulesOn g (before.map Prod.snd).sum x.2 rest.isEmpty)

def Plan.vaultOn (p : Plan) (frame : Nat) : Nat := Sys2Proof.Machine.vaultOn (p.a.vault / 2 ^ 16) p.shares frame

/-- The cells of a region on each frame in turn. -/
def Region.shares (r : Region) : List (Nat × Nat) :=
  (r.map.map cellFrame).eraseDups.map fun f => (f, (r.map.filter fun i => cellFrame i == f).length)

/-- Granules of a frame that no running root has drawn, nor an entry to which the frame is assigned (R29, R358). -/
def State.vaultLeft (s : State) (frame : Nat) : Nat :=
  let roots := s.regions.filter fun r => r.parent.isNone && r.phase != .done
  let held := s.hub.entries.filter fun e => e.st == .accepted && e.assigned.any fun x => x.1 == frame
  16384 - (roots.map fun r => Sys2Proof.Machine.vaultOn (r.a.vault / 2 ^ 16) r.shares frame).sum -
    (held.map fun e => (e.plan.map fun p => p.vaultOn frame).getD 0).sum

/-- Cells of a list on a frame. -/
def cellsOn (frame : Nat) (cs : List CellId) : List CellId := cs.filter fun i => cellFrame i == frame

/-- A child exceeds its parent's budget. -/
def Plan.childOver (p : Plan) (parent : Region) : Bool :=
  parent.a.cells < p.a.cells || parent.a.vault < p.a.vault ||
    p.shares.any fun x => (cellsOn x.1 parent.map).isEmpty || (cellsOn x.1 parent.map).length < x.2

/-- Running children of a region. -/
def State.childrenOf (s : State) (r : RegionId) : List Region :=
  s.regions.filter fun x => x.parent == some r && x.phase != .done

/-- A completed context whose region's cells are all over stays on its cell, with its region, while an operation that it
started runs (R285). -/
def State.lingers (s : State) (c : Ctx) : Bool := c.completed && (s.regionOf c).all fun r => r.phase != .own
def State.lingersOn (s : State) (i : CellId) : Bool := s.ctxs.any fun c => s.lingers c && c.place == .user i

/-- Cells of a parent that no running child holds and that no earlier operation keeps. -/
def State.freeOf (s : State) (r : Region) : List CellId :=
  let used := (s.childrenOf r.id).flatMap Region.map
  r.map.filter fun i => !used.contains i && !s.lingersOn i

/-- Vault bytes of a parent that no running child holds. -/
def State.vaultFree (s : State) (r : Region) : Nat := r.a.vault - ((s.childrenOf r.id).map fun x => x.a.vault).sum

/-- Can a cell be given to a new root (R337, R358): live, sound, in no running root, held for none, and with no operation
of an earlier region. -/
def State.cellFree (s : State) (i : CellId) : Bool :=
  s.hub.live.getLsbD (cellFrame i) && i < 65536 && !(s.cellRec i).isSealed && !(s.cellRec i).isFailed && !s.lingersOn i &&
    !(s.regions.any fun r => r.parent.isNone && r.phase != .done && r.map.contains i) &&
    !(s.hub.entries.any fun e => e.st == .accepted && e.assigned.any fun x => x.2.contains i)

/-! ### Gangs (R48) -/

/-- The gang map fits the chosen cells: every member of a gang sits in the row of its leader, hop by hop. -/
def gangFits (gangs : List Nat) (cells : List CellId) : Bool :=
  (cells.mapIdx fun k i => (i, gangs.getD k 0)).all fun x =>
    let size := x.2 / 16
    let hop := x.2 % 16
    size == 0 || (hop ≤ x.1 % 16 && x.1 % 16 - hop + size ≤ 15 &&
      (List.range (size + 1)).all fun h =>
        (cells.mapIdx fun k i => (i, gangs.getD k 0)).any fun y => y.1 + hop == x.1 + h && y.2 == size * 16 + h)

/-- sr.gang at launch (R51). -/
def gangWord (b : Nat) : Word :=
  if b = 0 then 0 else BitVec.ofNat 64 (b / 16 * 256 + b % 16 * 16 + if b % 16 = 0 then 1 else 2)

/-! ### The contexts of a launch (R31) -/

/-- A context identifier that no context has had. -/
def State.freshCid (s : State) : CtxId :=
  ((s.ctxs.map fun c => c.cid) ++ s.power.ended.map fun x => x.1).foldl max 0 + 1
def State.freshRegion (s : State) : RegionId := (s.regions.map fun r => r.id).foldl max 0 + 1

/-- The lowest context slot of a cell that holds no context. -/
def State.freeSlot (s : State) (i : CellId) : Option Nat :=
  (List.range 3).find? fun k => !(s.ctxs.any fun c => c.place == .user i && c.slot == k && c.resident)

/-- The state registers of logical cell `k` of `n` (R18, R39, R44, R51, R64, R66, R67, R120, R122, R125, R181). -/
def Plan.bank (p : Plan) (k : Nat) (cmap : Word) : SrBank :=
  let size := p.rcb.fld 19 0 5
  { SrBank.reset with
    ctl := BitVec.ofNat 64 (p.rcb.fld 20 63 1 * 2), seed := p.a.seed, det := BitVec.ofNat 64 p.a.det,
    lcell := BitVec.ofNat 64 ((p.a.cells - 1) * 2 ^ 16 + k), gang := gangWord (p.gangs.getD k 0), cmap := cmap,
    stkbase := BitVec.ofNat 64 p.a.stkbase, stklim := BitVec.ofNat 64 p.a.stklim,
    ovfptr := if size = 0 then 0 else BitVec.ofNat 64 (p.rcb.fld 19 0 56 / 2 ^ 16 * 2 ^ 16 + (k + 1) * 2 ^ size + size) }

/-- Registers at launch: sp at the top of the stack carve-out. -/
def launchRegs (sp : Nat) : Regs := { Regs.launch with g := Regs.launch.g.set 62 (BitVec.ofNat 64 sp) (by decide) }

/-- The context that starts on a cell. -/
def Plan.ctx (p : Plan) (r : RegionId) (asid : BitVec 16) (base : CtxId) (cmap : Word) (now : Nat) (slot k : Nat)
    (i : CellId) (leader : Option CtxId) : Ctx :=
  { Ctx.reset with
    cid := base + k, place := .user i, slot := slot, level := .user, region := some r, asid := asid, status := .ready,
    regs := launchRegs p.a.stkbase, sr := p.bank k cmap, pc := BitVec.ofNat 64 p.rcb.entry,
    gang := ⟨leader, [], false⟩, since := now, roundAt := now }

/-- The leader of a gang member, by position. -/
def leaderOf (gangs : List Nat) (cells : List CellId) (base : CtxId) (k : Nat) : Option CtxId :=
  let hop := gangs.getD k 0 % 16
  if hop = 0 then none
  else
    let j := cells.findIdx fun i => i == cells.getD k 0 - hop
    if j < cells.length then some (base + j) else none

/-- The cell map's address: a multiple of 64 in paged global space (R64). -/
def cmapAt (tick : Nat) : Word := BitVec.ofNat 64 (2 ^ 48 + Config.cmapUnit tick % 2 ^ 40 * 64)

/-- The contexts of a launch that runs own cells. -/
def State.launchCtxs (s : State) (p : Plan) (r : RegionId) (asid : BitVec 16) (cmap : Word) (cells : List CellId) : List Ctx :=
  let base := s.freshCid
  if p.own = 0 then []
  else cells.mapIdx fun k i =>
    p.ctx r asid base cmap s.now ((s.freeSlot i).getD 0) k i (leaderOf p.gangs cells base k)

/-- A launch makes each new context the owner of its cell's local memory (R334). -/
def State.own (s : State) (cs : List Ctx) : State :=
  cs.foldl (fun (s : State) c => s.setCell { s.cellRec c.cell with owner := some c.cid, heldFor := none }) s

/-- The fault domain of a new region (R27, R52): that of its parent, or a new one, with the identifier that its RCB names. -/
def Plan.domain (p : Plan) (id : RegionId) (parent : Option Region) : Nat :=
  match parent with
  | none => id * 2 ^ 32 + p.a.domain % 2 ^ 32
  | some r => if p.a.nested then id * 2 ^ 32 + p.a.domain % 2 ^ 32 else r.a.domain

/-- What power, thermal and current have gated on cells since reset, as `CellRec.gated` counts it. -/
def State.gatedSums (s : State) (cells : List CellId) : List Nat :=
  (List.range 3).map fun k => (cells.map fun i => (s.cellRec i).gated.getD k 0).sum

/-- Launch a region on its cells; in superstep mode the launch is the start of superstep 0 (R34, R52). -/
def State.launch (s : State) (p : Plan) (home : Nat) (rcb : Word) (asid : BitVec 16) (queue : Option (Nat × Nat × Word))
    (parent : Option Region) (slot : Option Nat) (cells : List CellId) : State :=
  let id := s.freshRegion
  let cmap := cmapAt s.tick
  let cs := s.launchCtxs p id asid cmap cells
  let r : Region :=
    { id := id, home := home, rcb := rcb, asid := asid, queue := queue, parent := parent.map Region.id, a := { p.a with domain := p.domain id parent },
      entry := BitVec.ofNat 64 p.rcb.entry, slot := slot, sigTable := BitVec.ofNat 64 (p.rcb.fld 20 0 56),
      phase := if cs.isEmpty then .children else .own, status := .ok, map := cells,
      ctxs := cs.map Ctx.cid, kids := p.rcb.kids, nextKid := 0, cmap := cmap, chans := p.chans, sched := p.sched,
      joined := [], closed := none, xpos := 0, xmove := .idle, bars := [], ev := Vector.replicate 16 0, token := .start,
      terminated := false, fpEvents := [], fpWindow := 0, logCount := 0, combsDone := [], framesDone := [],
      launched := s.now, doneCells := [], ending := false,
      cyc0 := (cells.map cellFrame).eraseDups.map fun f => (f, (s.frameRec f).cyc s.now), gated0 := s.gatedSums cells }
  let s := ({ s.bump with regions := s.regions ++ [r], pool := s.pool ++ cs }).own cs
  if p.a.free then s else s.notePoints id

/-- The lowest contest slot of a frame's partition that no running root holds, nor a region whose contexts are still there
(R148, R350, R357). -/
def State.contestSlot (s : State) (frame : Nat) : Option Nat :=
  let mine := ((s.partition? (s.frameRec frame).partition).map Partition.slots).getD []
  let taken := fun (k : Nat) => s.regions.any fun r =>
    r.slot == some k && ((r.parent.isNone && r.phase != .done) || s.ctxs.any fun c => c.region == some r.id)
  (List.range 12).find? fun k => mine.contains k && !taken k

end Sys2Proof.Machine
end

