-- ==== Sys2Proof/Machine/Complete.lean ====
section
/-!
DEFINITION. How work ends: completion records and the journal (R356, R359), the counter tree and statuses (R32, R33), the
end of a region and of its parents (R30), power records of root regions (R372), and the end of a fault domain (R52).
-/
namespace Sys2Proof.Machine

/-! ### Statuses (R33, R356) -/

/-- The code of a status (R356). -/
def CStatus.code : CStatus → Nat
  | .ok => 0 | .restarted => 1 | .failed => 2 | .budget => 3 | .cancelled => 4 | .illegal => 5

/-- The order of R33. -/
def CStatus.rank : CStatus → Nat
  | .ok => 0 | .restarted => 1 | .budget => 2 | .failed => 3 | .cancelled => 4 | .illegal => 5

/-- The worst of two statuses. -/
def CStatus.worst (a b : CStatus) : CStatus := if a.rank < b.rank then b else a

/-! ### Journal and completion records (R356, R359) -/

/-- The journal entry of an accepted entry changes in place. -/
def State.journal (s : State) (seq : Nat) (st : EntryState) (status : CStatus) : State :=
  { s with hub := { s.hub with
      journal := updateAll (fun j => j.seq == seq) (fun j => { j with st := st, status := status, time := s.now }) s.hub.journal } }

/-- An entry completes: its record is written, its MSI-X message follows, and it leaves the hub. -/
def State.completeEntry (s : State) (e : QEntry) (st : CStatus) : State :=
  let r := s.queueRegs e.queue
  let words : List Word := [e.tag, BitVec.ofNat 64 (st.code * 2 ^ 48 + e.seq % 2 ^ 48), BitVec.ofNat 64 s.now, 0]
  let s := s.writeRun (ringPa e.queue r.cbase (32 * (e.index % 2 ^ r.size))) (wordsBytes words)
  let s := s.journal e.seq .completed st
  { s with hub := { s.hub with
      entries := s.hub.entries.filter fun x => x.seq != e.seq
      msix := s.hub.msix ++ [(bitsAt r.cbase.toNat 62 1, e.queue)] } }

def State.entry? (s : State) (seq : Nat) : Option QEntry := s.hub.entries.find? fun e => e.seq == seq

/-- The status of a region is written to its RCB (R357). -/
def State.writeStatus (s : State) (home : Nat) (rcb : Nat) (st : CStatus) : State :=
  s.writeRun (launchPa home (rcb + 0x88)) (bytesOf 2 st.code)

/-! ### Power records (R372) -/

/-- Does a partition keep per-kernel records. -/
def State.perKernel (s : State) (frame : Nat) : Bool :=
  let p := (s.frameRec frame).partition
  ((s.power.recordKind.find? fun x => x.1 == p).map Prod.snd).getD false

/-- A record goes to the ring of 4,096 places whose address the driver supplies; without one it goes nowhere. DESIGN CHOICE
(log 59): a place has 64 bytes, and a 32-byte record leaves the rest of its place as it is. -/
def State.powerRecord (s : State) (ws : List Word) : State :=
  match s.power.ring with
  | none => s
  | some pa =>
    let n := s.power.recNext
    let s := s.writeRun (pa + 64 * (n % 4096)) (wordsBytes ws)
    { s with power := { s.power with recNext := n + 1 } }

/-- The mean cell frequency of a region in MHz, weighted by cell-time: the cycles of its cells over their time. -/
def State.meanMhz (s : State) (r : Region) : Nat :=
  let each := fun (i : CellId) =>
    (s.frameRec (cellFrame i)).cyc s.now - ((r.cyc0.find? fun x => x.1 == cellFrame i).map Prod.snd).getD 0
  (r.map.map each).sum * 1000 / ((s.now - r.launched) * r.map.length)

/-- What power, thermal and current have gated on the cells of a region since its launch, in cycles. -/
def State.gatedCycles (s : State) (r : Region) : List Word :=
  (s.gatedSums r.map).mapIdx fun k x => BitVec.ofNat 64 ((x - r.gated0.getD k 0) / 16000)

/-- The per-kernel record of a root region; its energy is a free value (log 54). -/
def State.kernelRecord (s : State) (r : Region) : State :=
  match r.parent, r.queue with
  | none, some (_, _, tag) =>
    if s.perKernel r.home then
      s.powerRecord ([tag, BitVec.ofNat 64 r.launched, BitVec.ofNat 64 s.now, Config.kernelEnergy r.id,
        BitVec.ofNat 64 (s.meanMhz r)] ++ s.gatedCycles r)
    else s
  | _, _ => s

/-! ### The end of contexts -/

/-- The meter block of an ended context is kept in the hub ring (R375). -/
def State.keepMeters (s : State) (cs : List Ctx) : State :=
  let xs := s.power.ended ++ cs.map fun c => (c.cid, s.meterNow c)
  { s with power := { s.power with ended := xs.drop (xs.length - 4096) } }

/-- Is an operation of queue 7 still open. -/
def Entry.open? (e : Entry) : Bool :=
  match e.course with
  | .done _ _ _ => false
  | _ => true

/-- The claim of a context ends with its region, or with its fault domain (R134); what its queue 7 still holds is over.
DESIGN CHOICE (log 87): it resolves CANCELLED. -/
def State.endClaimOps (s : State) (c : CtxId) : State :=
  (s.endClaim c).updCtx c fun x => x.mapQ 7 (updateAll Entry.open? fun e => { e with course := .done .cancelled 0 0 })

/-- The claims of a region's contexts end with the region (R134). -/
def State.endClaims (s : State) (r : Region) : State := r.ctxs.foldl State.endClaimOps s

/-- The accesses under way are made for a context, by one of its engines or by a fabric die. -/
def Io.forCtx (x : Io) (c : CtxId) : Bool :=
  match x.src with
  | .engine d _ => x.id != 0 && d == c
  | .fabric _ => x.id % 2 ^ 32 == c
  | _ => false

/-- An engine or fabric access of a context is not answered. -/
def State.ioAway (s : State) (c : CtxId) : Bool := s.net.ios.any fun x => (x.reads != 0 || x.acks != 0) && x.forCtx c

/-- A context leaves its cell: its waits and the accesses of its engines are forgotten, and its cell has no owner. -/
def State.release (s : State) (c : Ctx) : State :=
  let s := s.unwait c.cid
  let s := { s with net := { s.net with ios := s.net.ios.filter fun x => !x.forCtx c.cid } }
  match c.cell? with
  | none => s
  | some i => if (s.cellRec i).owner = some c.cid then s.setCell { s.cellRec i with owner := none, heldFor := none } else s

/-- Contexts are gone. -/
def State.dropThose (s : State) (gone? : Ctx → Bool) : State :=
  let gone := s.ctxs.filter gone?
  let s := (gone.foldl State.release s).keepMeters gone
  { s with th := if gone? s.th then .reset else s.th, pool := s.pool.filter fun c => !gone? c,
           points := s.points.filter fun p => !gone.any fun c => c.cid == p.ctx.cid }

/-- Every context of a region is gone. -/
def State.dropCtxs (s : State) (id : RegionId) : State := s.dropThose fun c => c.region == some id

/-- No engine of a context has work left, and no collective of it is open. -/
def State.enginesIdle (s : State) (c : Ctx) : Bool :=
  c.eq.toList.all List.isEmpty && !(s.swarm.regs.any fun r => r.cid == c.cid)

/-- The contexts of a region whose cells have all completed are gone, but for one that started an operation whose handle it
passed away: it stays, in its region, until the operation has resolved (R285). -/
def State.dropDone (s : State) (id : RegionId) : State := s.dropThose fun c => c.region == some id && s.enginesIdle c

/-- Contexts that stayed for an operation are gone once it has resolved. -/
def State.dropLingering (s : State) : State := s.dropThose fun c => s.lingers c && s.enginesIdle c

/-! ### The end of a region (R30, R32, R33) -/

/-- What a child contributes to its parent's status. -/
def Region.contributes (r : Region) : CStatus :=
  if r.a.nested then (if r.status = .ok then .ok else .restarted) else r.status

/-- A region whose own cells have completed is over once every child has been launched and has completed. -/
def State.regionOver (s : State) (r : Region) : Bool :=
  r.phase == .children && r.kids ≤ r.nextKid && (s.childrenOf r.id).isEmpty

/-- A region that is over completes, and its parent is examined. -/
def State.finishRegion : Nat → RegionId → State → State
  | 0, _, s => s
  | n + 1, id, s =>
    match s.region? (some id) with
    | none => s
    | some r =>
      if !s.regionOver r then s
      else
        let s := ((s.endClaims r).writeStatus r.home r.rcb.toNat r.status).updRegion id fun r => { r with phase := .done }
        match r.parent with
        | some p => State.finishRegion n p (s.updRegion p fun x => { x with status := x.status.worst r.contributes })
        | none =>
          let s := s.kernelRecord r
          match r.queue.bind fun q => s.entry? q.2.1 with
          | some e => s.completeEntry e r.status
          | none => s

/-- Examine a region. -/
def State.finish (s : State) (id : RegionId) : State := State.finishRegion (s.regions.length + 1) id s

/-- A comb or a frame has reported when each of its cells of the region has completed (R32). -/
def Region.report (r : Region) : Region :=
  let left := fun (f : CellId → Nat) (x : Nat) =>
    (r.map.mapIdx fun k i => (k, i)).any fun y => f y.2 == x && !r.doneCells.contains y.1
  { r with combsDone := (r.map.map cellComb).eraseDups.filter fun k => !left cellComb k,
           framesDone := (r.map.map cellFrame).eraseDups.filter fun f => !left cellFrame f }

/-- The device has a report from every frame with a share. -/
def Region.allReported (r : Region) : Bool := r.map.all fun i => r.framesDone.contains (cellFrame i)

/-- A logical cell of a region has completed with a status. -/
def State.cellDone (s : State) (id : RegionId) (k : Nat) (st : CStatus) : State :=
  let s := s.updRegion id fun r => ({ r with doneCells := r.doneCells ++ [k], status := r.status.worst st }).report
  match s.region? (some id) with
  | none => s
  | some r =>
    if r.allReported then ((s.dropDone id).updRegion id fun r => { r with phase := .children }).finish id else s

/-! ### The end of a fault domain (R52) -/

/-- An FP trap joins the collection of its region (R124). -/
def fpKey (r : Region) (c : Ctx) (f : FaultRec) : Word :=
  BitVec.ofNat 64 ((if r.a.free then f.time / 4096 else c.sr.ssnum.toNat) * 2 ^ 16 + c.logical)
def State.noteFp (s : State) (c : Ctx) (f : FaultRec) : State :=
  match s.regionOf c with
  | none => s
  | some r =>
    if f.cause.toNat ≠ cFp then s
    else s.updRegion r.id fun r => { r with fpEvents := r.fpEvents ++ [⟨fpKey r c f, f, c.slot, c.cell⟩] }

/-- A context of an ended domain stops for good: what has not issued never does, its waits and engine entries are over, and
an FP trap that has not been posted joins the collection of its region (R124). -/
def State.haltCtx (s : State) (c : Ctx) : State :=
  let s := match c.fault with
    | some f => if f.posted then s else s.noteFp c f
    | none => s
  (s.unwait c.cid).updCtx c.cid fun c =>
    { c.detach with
      status := if c.resident then .parked .supervisor else c.status, grp := none, mrun := none, wait := none, pend := [],
      unplaced := false, mq := { c.mq with iq := [], marks := [] }, eq := Vector.replicate 8 [],
      fault := c.fault.map fun f => { f with posted := true } }

/-- A domain has ended: every context of its regions stops (R52). -/
def State.haltDomain (s : State) (dom : Nat) : State :=
  let mine := fun (r : Region) => r.a.domain == dom && r.phase != .done
  let cs := s.ctxs.filter fun c => (s.regionOf c).any mine
  let s := cs.foldl State.haltCtx s
  { s with regions := updateAll mine (fun r => { r with ending := true }) s.regions }

/-- The domain of a context has ended. -/
def State.ending (s : State) (c : Ctx) : Bool := (s.regionOf c).any Region.ending

/-- Nothing that a context or one of its engines has sent is unacknowledged, and no zero-length read is owed (R101, R356). -/
def State.quiet (s : State) (c : Ctx) : Bool :=
  c.mq.outs.isEmpty && c.mq.wcb.isEmpty && c.mq.eps.isEmpty && !s.ioAway c.cid

/-- A region of an ended domain fails: its cells are gone and no further child is launched. -/
def State.failRegion (s : State) (id : RegionId) : State :=
  match s.region? (some id) with
  | none => s
  | some r =>
    if r.phase = .done then s
    else
      (((s.endClaims r).dropCtxs id).updRegion id fun r =>
        { r with status := r.status.worst .failed, phase := .children, nextKid := max r.nextKid r.kids, joined := [],
                 closed := none, xmove := .idle, bars := [] }).finish id

/-- Every running region of a domain fails, parents first, once everything that its cells have sent has been acknowledged
(R356). -/
def State.endDomain (s : State) (dom : Nat) : State :=
  if s.ctxs.any fun c => (s.regionOf c).any (fun r => r.a.domain == dom) && !s.quiet c then s
  else ((s.regions.filter fun r => r.a.domain == dom && r.phase != .done).map Region.id).foldl State.failRegion s

end Sys2Proof.Machine
end

