-- ==== Sys2Proof/Machine/Groups.lean ====
section
/-!
DEFINITION. Issue groups (R178, R179, R217): the unit class of each instruction, the registers it reads and writes by
specifier, the conditions of a group, and latencies.
-/
namespace Sys2Proof.Machine

/-- Unit classes (R185). -/
inductive UnitClass
  | s | v | f | m | x | none
  deriving DecidableEq, Repr

/-- The registers an instruction reads and writes, as specifiers (R167), its class, and whether it transfers control. -/
structure RegUse where
  reads : List Nat
  writes : List Nat
  unit : UnitClass
  ctl : Bool
  deriving DecidableEq, Repr

def gSpec (r : BitVec 6) : Nat := r.toNat
def vSpec (r : BitVec 5) : Nat := 0x40 + r.toNat
def mSpec (r : BitVec 3) : Nat := 0x60 + r.toNat
def hSpec (r : BitVec 4) : Nat := 0x68 + r.toNat
def accSpec (a : Bool) : Nat := if a then 0x79 else 0x78

def gUse (g : GReg) : List Nat := [gSpec g.r]
def gsUse : GSrc → List Nat
  | .reg g => [gSpec g.r]
  | .imm _ => []
def vUse (v : VReg) : List Nat := [vSpec v.r]
def vsUse : VSrc → List Nat
  | .reg v => [vSpec v.r]
  | .imm _ => []
def fsUse : FSrc → List Nat
  | .reg r => [gSpec r]
  | .imm _ => []
def redUse : RedSrc → List Nat
  | .g b => gsUse b
  | .v b => vUse b
def optUse (g : Option GReg) : List Nat := (g.map gUse).getD []
/-- The four registers of a block conversion (R229, R230). -/
def baseUse (b : BitVec 5) : List Nat := [vSpec b, vSpec (b + 1), vSpec (b + 2), vSpec (b + 3)]
/-- The handles of a mask. -/
def handleUse (m : BitVec 16) : List Nat := ((List.range 16).filter fun i => m.getLsbD i).map (0x68 + ·)

/-- g0 and m0 are no registers for the tests of a group (R178). -/
def realSpec (n : Nat) : Bool := n != 0 && n != 0x60

/-- The registers of an instruction: a predicate register is read, and a predicated instruction of a vector major, or
one that fills lanes of a v register, also reads what its destination keeps (R217). -/
def regUse (h : Hdr) (u : UnitClass) (ctl merge : Bool) (reads writes : List Nat) : RegUse :=
  let pred := if h.preg = 0 then [] else [mSpec h.preg]
  let kept := if merge && (h.preg != 0 || h.pneg) then writes.filter fun w => u == .v || (0x40 ≤ w && w < 0x60) else []
  ⟨(reads ++ pred ++ kept).filter realSpec, writes.filter realSpec, u, ctl⟩

/-- The registers of every instruction. -/
def Instr.use (i : Instr) : RegUse :=
  match i with
  | .nop h => regUse h .none false false ([]) ([])
  | .add h o => regUse h .s false false (gsUse o.a ++ gsUse o.b) ([gSpec o.d])
  | .sub h o => regUse h .s false false (gsUse o.a ++ gsUse o.b) ([gSpec o.d])
  | .neg h o => regUse h .s false false (gsUse o.a) ([gSpec o.d])
  | .abs h o => regUse h .s false false (gsUse o.a) ([gSpec o.d])
  | .adds h o => regUse h .s false false (gsUse o.a ++ gsUse o.b) ([gSpec o.d])
  | .subs h o => regUse h .s false false (gsUse o.a ++ gsUse o.b) ([gSpec o.d])
  | .add3 h o => regUse h .s false false (gsUse o.a ++ gsUse o.b ++ [gSpec o.c]) ([gSpec o.d])
  | .and h o => regUse h .s false false (gsUse o.a ++ gsUse o.b) ([gSpec o.d])
  | .or h o => regUse h .s false false (gsUse o.a ++ gsUse o.b) ([gSpec o.d])
  | .xor h o => regUse h .s false false (gsUse o.a ++ gsUse o.b) ([gSpec o.d])
  | .andn h o => regUse h .s false false (gsUse o.a ++ gsUse o.b) ([gSpec o.d])
  | .orn h o => regUse h .s false false (gsUse o.a ++ gsUse o.b) ([gSpec o.d])
  | .xnor h o => regUse h .s false false (gsUse o.a ++ gsUse o.b) ([gSpec o.d])
  | .not h o => regUse h .s false false (gsUse o.a) ([gSpec o.d])
  | .shl h o => regUse h .s false false (gsUse o.a ++ gsUse o.b) ([gSpec o.d])
  | .shr h o => regUse h .s false false (gsUse o.a ++ gsUse o.b) ([gSpec o.d])
  | .sar h o => regUse h .s false false (gsUse o.a ++ gsUse o.b) ([gSpec o.d])
  | .rol h o => regUse h .s false false (gsUse o.a ++ gsUse o.b) ([gSpec o.d])
  | .ror h o => regUse h .s false false (gsUse o.a ++ gsUse o.b) ([gSpec o.d])
  | .mul h o => regUse h .s false false (gsUse o.a ++ gsUse o.b) ([gSpec o.d])
  | .mulh h o => regUse h .s false false (gsUse o.a ++ gsUse o.b) ([gSpec o.d])
  | .mad h o => regUse h .s false false (gsUse o.a ++ gsUse o.b ++ [gSpec o.c]) ([gSpec o.d])
  | .div h o => regUse h .s false false (gsUse o.a ++ gsUse o.b) ([gSpec o.d])
  | .rem h o => regUse h .s false false (gsUse o.a ++ gsUse o.b) ([gSpec o.d])
  | .ceq h o => regUse h .s false false (gsUse o.a ++ gsUse o.b) ([mSpec o.d])
  | .cne h o => regUse h .s false false (gsUse o.a ++ gsUse o.b) ([mSpec o.d])
  | .clt h o => regUse h .s false false (gsUse o.a ++ gsUse o.b) ([mSpec o.d])
  | .cle h o => regUse h .s false false (gsUse o.a ++ gsUse o.b) ([mSpec o.d])
  | .cgt h o => regUse h .s false false (gsUse o.a ++ gsUse o.b) ([mSpec o.d])
  | .cge h o => regUse h .s false false (gsUse o.a ++ gsUse o.b) ([mSpec o.d])
  | .ctst h o => regUse h .s false false (gsUse o.a ++ gsUse o.b) ([mSpec o.d])
  | .ctstz h o => regUse h .s false false (gsUse o.a ++ gsUse o.b) ([mSpec o.d])
  | .sel h o => regUse h .s false false (gsUse o.a ++ gsUse o.b ++ [mSpec o.c]) ([gSpec o.d])
  | .selz h o => regUse h .s false false (gsUse o.a ++ gsUse o.b ++ [gSpec o.c]) ([gSpec o.d])
  | .popc h o => regUse h .s false false (gsUse o.a) ([gSpec o.d])
  | .clz h o => regUse h .s false false (gsUse o.a) ([gSpec o.d])
  | .ctz h o => regUse h .s false false (gsUse o.a) ([gSpec o.d])
  | .brev h o => regUse h .s false false (gsUse o.a) ([gSpec o.d])
  | .bswap h o => regUse h .s false false (gsUse o.a) ([gSpec o.d])
  | .bext h o => regUse h .s false false (gsUse o.a ++ gsUse o.b) ([gSpec o.d])
  | .bins h o => regUse h .s false false (gsUse o.a ++ gsUse o.b ++ [gSpec o.c]) ([gSpec o.d])
  | .min h o => regUse h .s false false (gsUse o.a ++ gsUse o.b) ([gSpec o.d])
  | .max h o => regUse h .s false false (gsUse o.a ++ gsUse o.b) ([gSpec o.d])
  | .clamp h o => regUse h .s false false (gsUse o.a ++ gsUse o.b ++ [gSpec o.c]) ([gSpec o.d])
  | .lea h o => regUse h .s false false (gsUse o.a ++ gsUse o.b ++ [gSpec o.c]) ([gSpec o.d])
  | .lcell h o => regUse h .s false false (gsUse o.a ++ gsUse o.b) ([gSpec o.d])
  | .lslice h o => regUse h .s false false (gsUse o.a ++ gsUse o.b) ([gSpec o.d])
  | .addImm h o => regUse h .s false false (gsUse o.a) ([gSpec o.d])
  | .subImm h o => regUse h .s false false (gsUse o.a) ([gSpec o.d])
  | .addsImm h o => regUse h .s false false (gsUse o.a) ([gSpec o.d])
  | .subsImm h o => regUse h .s false false (gsUse o.a) ([gSpec o.d])
  | .rsub h o => regUse h .s false false (gsUse o.a) ([gSpec o.d])
  | .andImm h o => regUse h .s false false (gsUse o.a) ([gSpec o.d])
  | .orImm h o => regUse h .s false false (gsUse o.a) ([gSpec o.d])
  | .xorImm h o => regUse h .s false false (gsUse o.a) ([gSpec o.d])
  | .andnImm h o => regUse h .s false false (gsUse o.a) ([gSpec o.d])
  | .ornImm h o => regUse h .s false false (gsUse o.a) ([gSpec o.d])
  | .xnorImm h o => regUse h .s false false (gsUse o.a) ([gSpec o.d])
  | .shlImm h o => regUse h .s false false (gsUse o.a) ([gSpec o.d])
  | .shrImm h o => regUse h .s false false (gsUse o.a) ([gSpec o.d])
  | .sarImm h o => regUse h .s false false (gsUse o.a) ([gSpec o.d])
  | .rolImm h o => regUse h .s false false (gsUse o.a) ([gSpec o.d])
  | .rorImm h o => regUse h .s false false (gsUse o.a) ([gSpec o.d])
  | .ceqImm h o => regUse h .s false false (gsUse o.a) ([mSpec o.d])
  | .cneImm h o => regUse h .s false false (gsUse o.a) ([mSpec o.d])
  | .cltImm h o => regUse h .s false false (gsUse o.a) ([mSpec o.d])
  | .cleImm h o => regUse h .s false false (gsUse o.a) ([mSpec o.d])
  | .cgtImm h o => regUse h .s false false (gsUse o.a) ([mSpec o.d])
  | .cgeImm h o => regUse h .s false false (gsUse o.a) ([mSpec o.d])
  | .ctstImm h o => regUse h .s false false (gsUse o.a) ([mSpec o.d])
  | .ctstzImm h o => regUse h .s false false (gsUse o.a) ([mSpec o.d])
  | .movi h o => regUse h .s false false ([]) ([gSpec o.d])
  | .movzi h o => regUse h .s false false ([]) ([gSpec o.d])
  | .movhi h o => regUse h .s false false ([gSpec o.d]) ([gSpec o.d])
  | .leai h o => regUse h .s false false (gsUse o.a) ([gSpec o.d])
  | .leapc h o => regUse h .s false false ([]) ([gSpec o.d])
  | .br h _ => regUse h .s true false ([]) ([])
  | .bz h o => regUse h .s true false (gUse o.a) ([])
  | .bnz h o => regUse h .s true false (gUse o.a) ([])
  | .blz h o => regUse h .s true false (gUse o.a) ([])
  | .bgez h o => regUse h .s true false (gUse o.a) ([])
  | .jr h o => regUse h .s true false (gUse o.a) ([])
  | .call h _ => regUse h .s true false ([]) ([63])
  | .callr h o => regUse h .s true false (gUse o.a) ([63])
  | .ret h => regUse h .s true false ([63]) ([])
  | .loop h o => regUse h .s true false (gsUse o.a) ([])
  | .lbrk h => regUse h .s true false ([]) ([])
  | .gdet h => regUse h .s true false ([]) ([])
  | .gjoin h => regUse h .s true false ([]) ([])
  | .srrd h o => regUse h .s false false ([]) ([gSpec o.d])
  | .srwr h o => regUse h .s false false (gsUse o.a) ([])
  | .srwri h _ => regUse h .s false false ([]) ([])
  | .trap h _ => regUse h .s true false ([]) ([])
  | .halt h => regUse h .s true false ([]) ([])
  | .vaddInt h o => regUse h .v false true (vsUse o.a ++ vsUse o.b) ([vSpec o.d])
  | .vsubInt h o => regUse h .v false true (vsUse o.a ++ vsUse o.b) ([vSpec o.d])
  | .vnegInt h o => regUse h .v false true (vsUse o.a) ([vSpec o.d])
  | .vabsInt h o => regUse h .v false true (vsUse o.a) ([vSpec o.d])
  | .vadds h o => regUse h .v false true (vsUse o.a ++ vsUse o.b) ([vSpec o.d])
  | .vsubs h o => regUse h .v false true (vsUse o.a ++ vsUse o.b) ([vSpec o.d])
  | .vmulInt h o => regUse h .v false true (vsUse o.a ++ vsUse o.b) ([vSpec o.d])
  | .vmulh h o => regUse h .v false true (vsUse o.a ++ vsUse o.b) ([vSpec o.d])
  | .vmad h o => regUse h .v false true (vsUse o.a ++ vsUse o.b ++ [vSpec o.c]) ([vSpec o.d])
  | .vminInt h o => regUse h .v false true (vsUse o.a ++ vsUse o.b) ([vSpec o.d])
  | .vmaxInt h o => regUse h .v false true (vsUse o.a ++ vsUse o.b) ([vSpec o.d])
  | .vand h o => regUse h .v false true (vsUse o.a ++ vsUse o.b) ([vSpec o.d])
  | .vor h o => regUse h .v false true (vsUse o.a ++ vsUse o.b) ([vSpec o.d])
  | .vxor h o => regUse h .v false true (vsUse o.a ++ vsUse o.b) ([vSpec o.d])
  | .vandn h o => regUse h .v false true (vsUse o.a ++ vsUse o.b) ([vSpec o.d])
  | .vnot h o => regUse h .v false true (vsUse o.a) ([vSpec o.d])
  | .vshl h o => regUse h .v false true (vsUse o.a ++ vsUse o.b) ([vSpec o.d])
  | .vshr h o => regUse h .v false true (vsUse o.a ++ vsUse o.b) ([vSpec o.d])
  | .vsar h o => regUse h .v false true (vsUse o.a ++ vsUse o.b) ([vSpec o.d])
  | .vceq h o => regUse h .v false true (vsUse o.a ++ vsUse o.b) ([mSpec o.d])
  | .vcne h o => regUse h .v false true (vsUse o.a ++ vsUse o.b) ([mSpec o.d])
  | .vclt h o => regUse h .v false true (vsUse o.a ++ vsUse o.b) ([mSpec o.d])
  | .vcle h o => regUse h .v false true (vsUse o.a ++ vsUse o.b) ([mSpec o.d])
  | .vcgt h o => regUse h .v false true (vsUse o.a ++ vsUse o.b) ([mSpec o.d])
  | .vcge h o => regUse h .v false true (vsUse o.a ++ vsUse o.b) ([mSpec o.d])
  | .vsel h o => regUse h .v false true (vsUse o.a ++ vsUse o.b ++ [mSpec o.c]) ([vSpec o.d])
  | .mand h o => regUse h .v false true ([mSpec o.a] ++ [mSpec o.b]) ([mSpec o.d])
  | .mor h o => regUse h .v false true ([mSpec o.a] ++ [mSpec o.b]) ([mSpec o.d])
  | .mxor h o => regUse h .v false true ([mSpec o.a] ++ [mSpec o.b]) ([mSpec o.d])
  | .mandn h o => regUse h .v false true ([mSpec o.a] ++ [mSpec o.b]) ([mSpec o.d])
  | .mnot h o => regUse h .v false true ([mSpec o.a]) ([mSpec o.d])
  | .mpopc h o => regUse h .v false true ([mSpec o.a]) ([gSpec o.d])
  | .mfirst h o => regUse h .v false true ([mSpec o.a]) ([gSpec o.d])
  | .mfromg h o => regUse h .v false true (gUse o.a) ([mSpec o.d])
  | .mtog h o => regUse h .v false true ([mSpec o.a]) ([gSpec o.d])
  | .vbcsti h o => regUse h .v false true ([]) ([vSpec o.d])
  | .vbcst h o => regUse h .v false true ([gSpec o.a]) ([vSpec o.d])
  | .vaddFp h o => regUse h .v false true (vsUse o.a ++ vsUse o.b) ([vSpec o.d])
  | .vsubFp h o => regUse h .v false true (vsUse o.a ++ vsUse o.b) ([vSpec o.d])
  | .vmulFp h o => regUse h .v false true (vsUse o.a ++ vsUse o.b) ([vSpec o.d])
  | .vminFp h o => regUse h .v false true (vsUse o.a ++ vsUse o.b) ([vSpec o.d])
  | .vmaxFp h o => regUse h .v false true (vsUse o.a ++ vsUse o.b) ([vSpec o.d])
  | .vabsFp h o => regUse h .v false true (vsUse o.a) ([vSpec o.d])
  | .vnegFp h o => regUse h .v false true (vsUse o.a) ([vSpec o.d])
  | .vfma h o => regUse h .v false true (vsUse o.a ++ vsUse o.b ++ [vSpec o.c]) ([vSpec o.d])
  | .vfms h o => regUse h .v false true (vsUse o.a ++ vsUse o.b ++ [vSpec o.c]) ([vSpec o.d])
  | .vfnma h o => regUse h .v false true (vsUse o.a ++ vsUse o.b ++ [vSpec o.c]) ([vSpec o.d])
  | .vfnms h o => regUse h .v false true (vsUse o.a ++ vsUse o.b ++ [vSpec o.c]) ([vSpec o.d])
  | .vdiv h o => regUse h .v false true (vsUse o.a ++ vsUse o.b) ([vSpec o.d])
  | .vsqrt h o => regUse h .v false true (vsUse o.a) ([vSpec o.d])
  | .vexp h o => regUse h .v false true (vsUse o.a) ([vSpec o.d])
  | .vlog h o => regUse h .v false true (vsUse o.a) ([vSpec o.d])
  | .vexp2 h o => regUse h .v false true (vsUse o.a) ([vSpec o.d])
  | .vlog2 h o => regUse h .v false true (vsUse o.a) ([vSpec o.d])
  | .vtanh h o => regUse h .v false true (vsUse o.a) ([vSpec o.d])
  | .vrcpe h o => regUse h .v false true (vsUse o.a) ([vSpec o.d])
  | .vrsqrte h o => regUse h .v false true (vsUse o.a) ([vSpec o.d])
  | .vexpe h o => regUse h .v false true (vsUse o.a) ([vSpec o.d])
  | .vloge h o => regUse h .v false true (vsUse o.a) ([vSpec o.d])
  | .vtanhe h o => regUse h .v false true (vsUse o.a) ([vSpec o.d])
  | .vsigme h o => regUse h .v false true (vsUse o.a) ([vSpec o.d])
  | .vcvt h o => regUse h .v false true (vsUse o.a ++ (if o.ty.bytes < o.src.bytes then [vSpec o.d] else [])) ([vSpec o.d])
  | .vbfpx h o => regUse h .v false true (baseUse o.base) ([gSpec o.d])
  | .vbfpe h o => regUse h .v false true (baseUse o.base ++ gUse o.b ++ (if o.ty == .bfp4 then [vSpec o.d] else [])) ([vSpec o.d])
  | .vbfpeHi h o => regUse h .v false true (baseUse o.base ++ gUse o.b ++ [vSpec o.d]) ([vSpec o.d])
  | .vbfpd h o => regUse h .v false true (vUse o.a ++ gUse o.b) ([vSpec o.d])
  | .vperm h o => regUse h .v false true (vsUse o.a ++ vsUse o.b) ([vSpec o.d])
  | .vperm2 h o => regUse h .v false true (vsUse o.a ++ vsUse o.b ++ [vSpec o.c]) ([vSpec o.d])
  | .vslide h o => regUse h .v false true (vsUse o.a ++ gsUse o.b ++ [vSpec o.c]) ([vSpec o.d])
  | .vzipl h o => regUse h .v false true (vsUse o.a ++ vsUse o.b) ([vSpec o.d])
  | .vziph h o => regUse h .v false true (vsUse o.a ++ vsUse o.b) ([vSpec o.d])
  | .vuzpe h o => regUse h .v false true (vsUse o.a ++ vsUse o.b) ([vSpec o.d])
  | .vuzpo h o => regUse h .v false true (vsUse o.a ++ vsUse o.b) ([vSpec o.d])
  | .vrsum h o => regUse h .v false true (vsUse o.a) ([gSpec o.d])
  | .vrmin h o => regUse h .v false true (vsUse o.a) ([gSpec o.d])
  | .vrmax h o => regUse h .v false true (vsUse o.a) ([gSpec o.d])
  | .vrand h o => regUse h .v false true (vsUse o.a) ([gSpec o.d])
  | .vror h o => regUse h .v false true (vsUse o.a) ([gSpec o.d])
  | .rng h o => regUse h .v false true (gsUse o.a ++ gsUse o.b) ([gSpec o.d])
  | .vrng h o => regUse h .v false true (gsUse o.a ++ gsUse o.b) ([vSpec o.d])
  | .vins h o => regUse h .v false true (gUse o.a ++ gsUse o.b ++ [vSpec o.d]) ([vSpec o.d])
  | .vext h o => regUse h .v false true (vUse o.a ++ gsUse o.b) ([gSpec o.d])
  | .vmov h o => regUse h .v false true (vsUse o.a) ([vSpec o.d])
  | .fadd h o => regUse h .f false false (fsUse o.a ++ fsUse o.b) ([gSpec o.d])
  | .fsub h o => regUse h .f false false (fsUse o.a ++ fsUse o.b) ([gSpec o.d])
  | .fmul h o => regUse h .f false false (fsUse o.a ++ fsUse o.b) ([gSpec o.d])
  | .fmin h o => regUse h .f false false (fsUse o.a ++ fsUse o.b) ([gSpec o.d])
  | .fmax h o => regUse h .f false false (fsUse o.a ++ fsUse o.b) ([gSpec o.d])
  | .fabs h o => regUse h .f false false (fsUse o.a) ([gSpec o.d])
  | .fneg h o => regUse h .f false false (fsUse o.a) ([gSpec o.d])
  | .ffma h o => regUse h .f false false (fsUse o.a ++ fsUse o.b ++ [gSpec o.c]) ([gSpec o.d])
  | .ffms h o => regUse h .f false false (fsUse o.a ++ fsUse o.b ++ [gSpec o.c]) ([gSpec o.d])
  | .ffnma h o => regUse h .f false false (fsUse o.a ++ fsUse o.b ++ [gSpec o.c]) ([gSpec o.d])
  | .ffnms h o => regUse h .f false false (fsUse o.a ++ fsUse o.b ++ [gSpec o.c]) ([gSpec o.d])
  | .fdiv h o => regUse h .f false false (fsUse o.a ++ fsUse o.b) ([gSpec o.d])
  | .fsqrt h o => regUse h .f false false (fsUse o.a) ([gSpec o.d])
  | .fexp h o => regUse h .f false false (fsUse o.a) ([gSpec o.d])
  | .flog h o => regUse h .f false false (fsUse o.a) ([gSpec o.d])
  | .fexp2 h o => regUse h .f false false (fsUse o.a) ([gSpec o.d])
  | .flog2 h o => regUse h .f false false (fsUse o.a) ([gSpec o.d])
  | .fceq h o => regUse h .f false false (fsUse o.a ++ fsUse o.b) ([mSpec o.d])
  | .fcne h o => regUse h .f false false (fsUse o.a ++ fsUse o.b) ([mSpec o.d])
  | .fclt h o => regUse h .f false false (fsUse o.a ++ fsUse o.b) ([mSpec o.d])
  | .fcle h o => regUse h .f false false (fsUse o.a ++ fsUse o.b) ([mSpec o.d])
  | .fcgt h o => regUse h .f false false (fsUse o.a ++ fsUse o.b) ([mSpec o.d])
  | .fcge h o => regUse h .f false false (fsUse o.a ++ fsUse o.b) ([mSpec o.d])
  | .fcvt h o => regUse h .f false false (fsUse o.a) ([gSpec o.d])
  | .mzero h o => regUse h .x false false ([]) ([accSpec o.acc])
  | .mrdrow h o => regUse h .x false false ([accSpec o.acc]) ([vSpec o.d])
  | .mwrrow h o => regUse h .x false false (vUse o.a ++ [accSpec o.acc]) ([accSpec o.acc])
  | .mmov h o => regUse h .x false false ([accSpec (!o.acc)]) ([accSpec o.acc])
  | .masel h o => regUse h .x false false (gUse o.a ++ gUse o.b) ([])
  | .masx h o => regUse h .x false false (gUse o.a) ([])
  | .mbsel h o => regUse h .x false false (gsUse o.a ++ gsUse o.b) ([])
  | .mma h o => regUse h .x false false ([accSpec o.acc]) ([accSpec o.acc])
  | .mdrain h o => regUse h .x false false (gUse o.a ++ gUse o.b ++ [accSpec o.acc] ++ (if o.nos then [] else [vSpec o.vr, vSpec (o.vr + 1), vSpec o.vc])) ((if o.zero then [accSpec o.acc] else []))
  | .ld h o => regUse h .m false true (gUse o.a) ([gSpec o.d])
  | .ldv h o => regUse h .m false true (gUse o.a) ([vSpec o.d])
  | .ldvb h o => regUse h .m false true (gUse o.a) ([vSpec o.d])
  | .st h o => regUse h .m false true (gUse o.a ++ gsUse o.b) ([])
  | .stv h o => regUse h .m false true (gUse o.a ++ vUse o.b) ([])
  | .ldf h o => regUse h .m false true (gUse o.a) ([gSpec o.d])
  | .ldfh h o => regUse h .m false true (gUse o.a) ([gSpec o.d])
  | .ldfv h o => regUse h .m false true (gUse o.a) ([vSpec o.d])
  | .ldr h o => regUse h .m false true (gUse o.a) ([gSpec o.d])
  | .ldrv h o => regUse h .m false true (gUse o.a) ([vSpec o.d])
  | .ldrx h o => regUse h .m false true (gUse o.a) ([gSpec o.d])
  | .ldAcq h o => regUse h .m false true (gUse o.a ++ [gSpec o.s]) ([gSpec o.d])
  | .stRel h o => regUse h .m false true (gUse o.a ++ gsUse o.b ++ [gSpec o.s]) ([])
  | .sts h o => regUse h .m false true (gUse o.a ++ gsUse o.b) ([])
  | .stsv h o => regUse h .m false true (gUse o.a ++ vUse o.b) ([])
  | .vgather h o => regUse h .m false true (gUse o.a ++ vUse o.idx) ([vSpec o.d])
  | .vscatter h o => regUse h .m false true (gUse o.a ++ vUse o.idx ++ [vSpec o.data]) ([])
  | .pft h o => regUse h .m false true (gUse o.a) ([])
  | .pfh h o => regUse h .m false true (gUse o.a) ([])
  | .amoSwap h o => regUse h .m false true (gUse o.a ++ gsUse o.b ++ [gSpec o.s]) ([gSpec o.d])
  | .amoAdd h o => regUse h .m false true (gUse o.a ++ gsUse o.b ++ [gSpec o.s]) ([gSpec o.d])
  | .amoAnd h o => regUse h .m false true (gUse o.a ++ gsUse o.b ++ [gSpec o.s]) ([gSpec o.d])
  | .amoOr h o => regUse h .m false true (gUse o.a ++ gsUse o.b ++ [gSpec o.s]) ([gSpec o.d])
  | .amoXor h o => regUse h .m false true (gUse o.a ++ gsUse o.b ++ [gSpec o.s]) ([gSpec o.d])
  | .amoMin h o => regUse h .m false true (gUse o.a ++ gsUse o.b ++ [gSpec o.s]) ([gSpec o.d])
  | .amoMax h o => regUse h .m false true (gUse o.a ++ gsUse o.b ++ [gSpec o.s]) ([gSpec o.d])
  | .cas h o => regUse h .m false true (gUse o.a ++ gsUse o.b ++ [gSpec o.s] ++ [gSpec o.d]) ([gSpec o.d])
  | .redAdd h o => regUse h .m false true (gUse o.a ++ redUse o.b) ([])
  | .redAnd h o => regUse h .m false true (gUse o.a ++ redUse o.b) ([])
  | .redOr h o => regUse h .m false true (gUse o.a ++ redUse o.b) ([])
  | .redXor h o => regUse h .m false true (gUse o.a ++ redUse o.b) ([])
  | .redMin h o => regUse h .m false true (gUse o.a ++ redUse o.b) ([])
  | .redMax h o => regUse h .m false true (gUse o.a ++ redUse o.b) ([])
  | .amo2Swap h o => regUse h .m false true (gUse o.a ++ [gSpec o.a2] ++ gsUse o.b ++ [gSpec o.s]) ([gSpec o.d])
  | .amo2Add h o => regUse h .m false true (gUse o.a ++ [gSpec o.a2] ++ gsUse o.b ++ [gSpec o.s]) ([gSpec o.d])
  | .amo2And h o => regUse h .m false true (gUse o.a ++ [gSpec o.a2] ++ gsUse o.b ++ [gSpec o.s]) ([gSpec o.d])
  | .amo2Or h o => regUse h .m false true (gUse o.a ++ [gSpec o.a2] ++ gsUse o.b ++ [gSpec o.s]) ([gSpec o.d])
  | .amo2Xor h o => regUse h .m false true (gUse o.a ++ [gSpec o.a2] ++ gsUse o.b ++ [gSpec o.s]) ([gSpec o.d])
  | .dcas h o => regUse h .m false true (gUse o.a ++ [gSpec o.a2] ++ gsUse o.b ++ [gSpec o.s] ++ [gSpec o.d]) ([gSpec o.d])
  | .amove h o => regUse h .m false true (gUse o.a ++ [gSpec o.a2] ++ [gSpec o.s]) ([gSpec o.d])
  | .fenceAcq h => regUse h .m false true ([]) ([])
  | .fenceRel h o => regUse h .m false true ([gSpec o.s]) ([])
  | .fenceFull h o => regUse h .m false true ([gSpec o.s]) ([])
  | .waitaddr h o => regUse h .m false true (gUse o.a ++ gsUse o.b ++ [gSpec o.t]) ([gSpec o.d])
  | .evsig h o => regUse h .m false true (gsUse o.b) ([])
  | .evwait h o => regUse h .m false true (gsUse o.b ++ [gSpec o.t]) ([gSpec o.d])
  | .send h o => regUse h .m false true (gUse o.r ++ gsUse o.b) ([])
  | .sendv h o => regUse h .m false true (gUse o.r ++ vUse o.b) ([])
  | .sendRel h o => regUse h .m false true (gUse o.r ++ gsUse o.b ++ [gSpec o.s]) ([])
  | .recv h o => regUse h .m false true (gUse o.src) ([gSpec o.d] ++ [gSpec o.m])
  | .recvv h o => regUse h .m false true (gUse o.src) ([vSpec o.d] ++ [gSpec o.m])
  | .recvAny h o => regUse h .m false true ([]) ([gSpec o.d] ++ [gSpec o.m])
  | .recvvAny h o => regUse h .m false true ([]) ([vSpec o.d] ++ [gSpec o.m])
  | .sstep h => regUse h .m false true ([]) ([])
  | .bar h o => regUse h .m false true ([gSpec o.s]) ([gSpec o.d])
  | .fprobe h o => regUse h .m false true ([]) ([gSpec o.d])
  | .fork h o => regUse h .x false false (optUse o.gm ++ optUse o.gc) ((if o.gm.isSome then [hSpec o.hm] else []) ++ (if o.gc.isSome then [hSpec o.hc] else []))
  | .rdv h o => regUse h .x false false (handleUse o.mask) ([])
  | .hwait h o => regUse h .x false false ([hSpec o.hs]) ([gSpec o.d])
  | .hdet h o => regUse h .x false false ([hSpec o.hs]) ([gSpec o.d])
  | .htest h o => regUse h .x false false ([hSpec o.hs]) ([gSpec o.d])
  | .hpass h o => regUse h .x false false (gUse o.r ++ [hSpec o.hs]) ([])
  | .hcancel h o => regUse h .x false false ([hSpec o.h]) ([])
  | .cpy h o => regUse h .x false false (gUse o.dst ++ gUse o.src ++ [gSpec o.len]) ([hSpec o.h])
  | .cpyf h o => regUse h .x false false (gUse o.dst ++ gUse o.src ++ [gSpec o.len]) ([hSpec o.h])
  | .cpyb h o => regUse h .x false false (gUse o.src ++ gUse o.b) ([hSpec o.h])
  | .qfence h _ => regUse h .x false false ([]) ([])
  | .coll h o => regUse h .x false false (gUse o.a) ([hSpec o.h])
  | .contend h o => regUse h .x false false (gsUse o.a) ([hSpec o.h])
  | .afclaim h o => regUse h .x false false ([]) ([hSpec o.h])
  | .afcal h o => regUse h .x false false ([]) ([hSpec o.h])
  | .afcfg h o => regUse h .x false false (gUse o.a) ([hSpec o.h])
  | .afscale h o => regUse h .x false false (gUse o.a ++ gsUse o.b) ([])
  | .afrun h o => regUse h .x false false ([]) ([hSpec o.h])
  | .afsettle h o => regUse h .x false false (gUse o.a) ([hSpec o.h])
  | .afsample h o => regUse h .x false false (gUse o.a ++ gUse o.b) ([hSpec o.h])
  | .afstop h o => regUse h .x false false ([]) ([hSpec o.h])
  | .afrel h o => regUse h .x false false ([]) ([hSpec o.h])
  | .ctxsave h o => regUse h .x false false (gUse o.a ++ gUse o.b) ([gSpec o.d])
  | .ctxload h o => regUse h .x false false (gUse o.a ++ gUse o.b) ([gSpec o.d])
  | .mint h o => regUse h .x false false (gUse o.a ++ gUse o.b) ([])
  | .fret h o => regUse h .x false false (gUse o.a) ([gSpec o.d])
  | .tlbwr h o => regUse h .x false false ([gSpec o.a] ++ [gSpec o.b]) ([gSpec o.d])
  | .tlbinv h o => regUse h .x false false ([gSpec o.a] ++ [gSpec o.b]) ([gSpec o.d])
  | .snap h o => regUse h .x false false ([]) ([gSpec o.d])
  | .mseal h o => regUse h .x false false (gUse o.a ++ gUse o.b) ([gSpec o.d])
  | .evIssue _ => ⟨[], [], .none, false⟩
  | .evArrival _ _ => ⟨[], [], .none, false⟩
  | .evPerform _ => ⟨[], [], .none, false⟩
  | .evApply _ => ⟨[], [], .none, false⟩
  | .evPairSecondHome _ => ⟨[], [], .none, false⟩
  | .evReplyDelivery _ => ⟨[], [], .none, false⟩
  | .evWcbFlush _ _ => ⟨[], [], .none, false⟩
  | .evEngineEntryBegin _ _ => ⟨[], [], .none, false⟩
  | .evHandleResolve _ _ => ⟨[], [], .none, false⟩
  | .evWakeDelivery _ => ⟨[], [], .none, false⟩
  | .evWaitTimeout _ => ⟨[], [], .none, false⟩
  | .evHostInboundWrite _ _ _ => ⟨[], [], .none, false⟩
  | .evHostInboundRead _ _ _ => ⟨[], [], .none, false⟩
  | .evHostFlushRead _ _ => ⟨[], [], .none, false⟩
  | .evMailboxDeliver _ _ => ⟨[], [], .none, false⟩
  | .evContextTimeslice _ => ⟨[], [], .none, false⟩
  | .evMintArrival _ => ⟨[], [], .none, false⟩
  | .evFaultRecordPost _ => ⟨[], [], .none, false⟩
  | .evFqtailWrite _ _ _ => ⟨[], [], .none, false⟩
  | .evFaultDomainEnd _ => ⟨[], [], .none, false⟩
  | .evFpWindowClose _ => ⟨[], [], .none, false⟩
  | .evCellComplete _ => ⟨[], [], .none, false⟩
  | .evChildLaunch _ _ => ⟨[], [], .none, false⟩
  | .evLaunchSelect _ _ => ⟨[], [], .none, false⟩
  | .evExchangeTransfer _ => ⟨[], [], .none, false⟩
  | .evRoundTimerExpiry _ => ⟨[], [], .none, false⟩
  | .evRoundMarkerArrival _ _ => ⟨[], [], .none, false⟩
  | .evTokenPass _ => ⟨[], [], .none, false⟩
  | .evContendRegister _ => ⟨[], [], .none, false⟩
  | .evWaggleContest _ => ⟨[], [], .none, false⟩
  | .evContestResult _ => ⟨[], [], .none, false⟩
  | .evSequencerBind _ => ⟨[], [], .none, false⟩
  | .evBindingReceive _ _ => ⟨[], [], .none, false⟩
  | .evCollectiveStart _ _ => ⟨[], [], .none, false⟩
  | .evContributionArrival _ _ => ⟨[], [], .none, false⟩
  | .evTgTimeout _ => ⟨[], [], .none, false⟩
  | .evCancelRecord _ _ => ⟨[], [], .none, false⟩
  | .evSwitchFailure _ _ => ⟨[], [], .none, false⟩
  | .evSequencerHeartbeat => ⟨[], [], .none, false⟩
  | .evSequencerFailover _ => ⟨[], [], .none, false⟩
  | .evRegistrationRetry _ => ⟨[], [], .none, false⟩
  | .evAfcalComplete _ => ⟨[], [], .none, false⟩
  | .evFabricSaturation _ _ => ⟨[], [], .none, false⟩
  | .evFabricSettleDone _ => ⟨[], [], .none, false⟩
  | .evFabricSettleTimeout _ => ⟨[], [], .none, false⟩
  | .evQueueDoorbell _ _ => ⟨[], [], .none, false⟩
  | .evQueueLaunch _ => ⟨[], [], .none, false⟩
  | .evQueueFence _ => ⟨[], [], .none, false⟩
  | .evQueueFenceComplete _ => ⟨[], [], .none, false⟩
  | .evQueueCancel _ => ⟨[], [], .none, false⟩
  | .evRegisterWrite _ _ => ⟨[], [], .none, false⟩
  | .evLinkRetry _ => ⟨[], [], .none, false⟩
  | .evLinkFail _ => ⟨[], [], .none, false⟩
  | .evLinkRateChange _ _ _ => ⟨[], [], .none, false⟩
  | .evBudgetInterval _ => ⟨[], [], .none, false⟩
  | .evFrequencyStep _ _ => ⟨[], [], .none, false⟩
  | .evRelockRestart _ => ⟨[], [], .none, false⟩
  | .evSnapshotTrigger => ⟨[], [], .none, false⟩
  | .evMeterList => ⟨[], [], .none, false⟩
  | .evMeterRead _ => ⟨[], [], .none, false⟩
  | .evGetVersion => ⟨[], [], .none, false⟩
  | .evGetCapabilities => ⟨[], [], .none, false⟩
  | .evNegotiateAlgorithms _ _ => ⟨[], [], .none, false⟩
  | .evGetDigests => ⟨[], [], .none, false⟩
  | .evGetCertificate _ => ⟨[], [], .none, false⟩
  | .evChallenge _ => ⟨[], [], .none, false⟩
  | .evGetMeasurements _ => ⟨[], [], .none, false⟩
  | .evPackageReset _ => ⟨[], [], .none, false⟩
  | .evPatrolScrub _ _ _ => ⟨[], [], .none, false⟩
  | .evCellError _ => ⟨[], [], .none, false⟩
  | .evQueueEnable _ _ _ => ⟨[], [], .none, false⟩
  | .evGroupCreate _ => ⟨[], [], .none, false⟩
  | .evStandbyReplacement _ => ⟨[], [], .none, false⟩
  | .evExportRevocation _ _ => ⟨[], [], .none, false⟩
  | .evSnapshotRelease => ⟨[], [], .none, false⟩

/-- An instruction that checks a target (R207). -/
def Instr.transfers (i : Instr) : Bool :=
  match i with
  | .br _ _ | .bz _ _ | .bnz _ _ | .blz _ _ | .bgez _ _ | .jr _ _ | .call _ _ | .callr _ _ | .ret _ | .loop _ _ | .lbrk _ => true
  | _ => false

/-! ### The conditions of a group (R178, R187) -/

/-- The lowest reason that a group breaks, with the lowest slot that breaks it: `units` and `written` are those of the
slots before. -/
def groupReasons : Nat → List UnitClass → List Nat → List RegUse → List (Nat × Nat)
  | _, _, _, [] => []
  | k, units, written, u :: us =>
    (if u.unit != .none && units.contains u.unit then [(0x0C, k)] else []) ++
      (if (u.reads ++ u.writes).any written.contains then [(0x0D, k)] else []) ++
      (if u.ctl && us.any (fun x => x.unit != .none) then [(0x0E, k)] else []) ++
      groupReasons (k + 1) (u.unit :: units) (u.writes ++ written) us

/-- The least of reasons by code, then by slot. DESIGN CHOICE (log 95): the manual lists reasons 0x0C to 0x0E without an
order among them. -/
def leastReason : List (Nat × Nat) → Option (Nat × Nat)
  | [] => none
  | x :: xs =>
    match leastReason xs with
    | none => some x
    | some y => if y.1 < x.1 ∨ (y.1 = x.1 ∧ y.2 < x.2) then some y else some x

/-- Does a group meet R178; otherwise the reason and the slot concerned. -/
def groupFault (is : List Instr) : Option (Nat × Nat) := leastReason (groupReasons 0 [] [] (is.map Instr.use))

end Sys2Proof.Machine
end

