-- ==== Sys2Proof/Machine/Issue.lean ====
section
/-!
DEFINITION. Issue of a context: the fetch line and the checks of a group in the order of R188 (R175, R176, R178, R180,
R187, R300), the end of a group with its open windows (R179), gangs (R48, R49), signatures (R338), and what holds the
next slot back (R179, R369, R370).
-/
namespace Sys2Proof.Machine

/-! ### The fetch line (R175, R176) -/

/-- The slot that begins the group of slot `k`; `stops` is the field of the line word. -/
def groupFirst (stops : Nat) : Nat → Nat
  | 0 => 0
  | k + 1 => if bitsAt stops k 1 = 1 then k + 1 else groupFirst stops k

/-- The last slot of the group of slot `k`. -/
def groupLast (stops k : Nat) : Nat := ((List.range 4).find? fun i => k ≤ i && bitsAt stops i 1 == 1).getD 4

def lineStops (lw : Nat) : Nat := bitsAt lw 6 4

/-- The line word has odd parity. -/
def lineParityBad (lw : Nat) : Bool := parity 32 lw == 1

/-- The parity bit of slot `k` is not that of its 96 bits. -/
def slotParityBad (line : List Byte) (k : Nat) : Bool :=
  parity 96 (slotWord line k) != bitsAt (lineWord line) k 1

/-- Slots that begin a group, as bits. -/
def groupStarts (stops : Nat) : Nat := 1 + 2 * stops

/-- The line-word faults: the reason. DESIGN CHOICE (log 95): of a line that breaks both conditions, the one with the
lower code is raised. -/
def lineReason (lw : Nat) : Option Nat :=
  if bitsAt lw 16 16 ≠ 0 then some 0x0A
  else if (List.range 5).any fun i => bitsAt lw (11 + i) 1 == 1 && bitsAt (groupStarts (lineStops lw)) i 1 == 0 then some 0x0B
  else none

/-- The stall field of a slot (R171). -/
def slotStall (line : List Byte) (k : Nat) : Nat := bitsAt (slotWord line k) 84 4

/-- The stall count of the whole group of slot `k` (R179). -/
def groupStall (line : List Byte) (k : Nat) : Nat :=
  let stops := lineStops (lineWord line)
  let first := groupFirst stops k
  ((List.range (groupLast stops k + 1 - first)).map fun i => slotStall line (first + i)).foldl max 0

def lineAddr (pc : Word) : Word := BitVec.ofNat 64 (pc.toNat / 64 * 64)
def slotAddr (line : Word) (k : Nat) : Word := line + BitVec.ofNat 64 (12 * k)

/-! ### Decoding a slot (R187, R300) -/

def slotMajor (w : Nat) : Nat := bitsAt w 88 8
/-- The minor of a SYS word. -/
def slotMinor (w : Nat) : Nat := bitsAt w 24 8

/-- The privileged majors in a context of user level (R300). -/
def privilegedWord (lv : Level) (w : Nat) : Option Trap :=
  if lv = .user ∧ (slotMajor w = 0xA2 ∨ slotMajor w = 0xA3) then
    some ⟨cPrivilege, 0, BitVec.ofNat 64 (slotMajor w * 256 + slotMinor w)⟩
  else none

/-- The instruction of a slot. -/
noncomputable def decodeSlot (lv : Level) (pc : Word) (w : Nat) : Except Trap SlotInstr :=
  match privilegedWord lv w with
  | some t => .error t
  | none =>
    match decode (BitVec.ofNat 96 w) with
    | .error r => .error ⟨cIllegal, r.code, highBits (BitVec.ofNat 96 w)⟩
    | .ok i => .ok ⟨pc, BitVec.ofNat 96 w, i⟩

/-- The slots of a group, ascending: the first fault stops at its slot. -/
noncomputable def decodeSlots (lv : Level) : List (Word × Nat) → Except (Word × Trap) (List SlotInstr)
  | [] => .ok []
  | x :: xs =>
    match decodeSlot lv x.1 x.2 with
    | .error t => .error (x.1, t)
    | .ok i =>
      match decodeSlots lv xs with
      | .error e => .error e
      | .ok is => .ok (i :: is)

/-! ### The stall-count check (R180) -/

/-- The specifiers of the results that are on their way. -/
def Dest.specs : Dest → List Nat
  | .g r _ | .ldf r _ _ | .pair r | .status r => [r.toNat]
  | .v r _ _ _ | .vb r _ _ _ | .ldfv r _ _ _ _ => [0x40 + r.toNat]
  | .inv _ | .mat | .none => []

/-- The first reader of a register whose window is open: its address and the specifier. A reader of a register with a later
result on its way waits for that and is not undersized (R180). DESIGN CHOICE (log 78): of
several undersized registers that one instruction reads, sr.taddr names the first of its operands' order. -/
def stallFault (c : Ctx) (is : List SlotInstr) : Option (Word × Trap) :=
  if c.sr.ctl.getLsbD 0 then
    is.findSome? fun i =>
      ((Instr.use i.i).reads.find? fun r =>
        (c.openW.any fun w => w.spec.toNat == r) && !(c.pend.any fun p => p.dest.specs.contains r)).map fun r =>
        (i.pc, ⟨cStall, 0, BitVec.ofNat 64 r⟩)
  else none

/-! ### The group at the program counter (R188) -/

/-- Slots `k` to `last` of a line, with their addresses. -/
def lineSlots (la : Word) (line : List Byte) (k : Nat) : List (Word × Nat) :=
  ((List.range (groupLast (lineStops (lineWord line)) k + 1 - k)).map (· + k)).map fun i =>
    (slotAddr la i, slotWord line i)

/-- A parity fault of a line: its line word, then the slots of the group in turn (R176). -/
def lineParity (pc : Word) (line : List Byte) : Option (Word × Trap) :=
  let la := lineAddr pc
  let k := slotOf pc
  if lineParityBad (lineWord line) then some (pc, ⟨cFetchParity, 0, la⟩)
  else
    (((List.range (groupLast (lineStops (lineWord line)) k + 1 - k)).map (· + k)).find? (slotParityBad line)).map fun i =>
      (slotAddr la i, ⟨cFetchParity, 0, slotAddr la i⟩)

/-- The instructions of the slots that decode. -/
noncomputable def readableSlots (l : List (Word × Nat)) : List SlotInstr :=
  l.filterMap fun x =>
    match decode (BitVec.ofNat 96 x.2) with
    | .ok i => some ⟨x.1, BitVec.ofNat 96 x.2, i⟩
    | .error _ => none

/-- The target that an instruction of a group checks, in the state at the start of the group: no earlier slot of a legal
group changes what it reads (R178). -/
def SlotInstr.checks (i : SlotInstr) (c : Ctx) : Option Word := Instr.checks i.i { c with pc := i.pc }

/-- The first illegal target of a group (R176, R207). -/
def State.badTarget (s : State) (c : Ctx) (is : List SlotInstr) : Option (Word × Trap) :=
  is.findSome? fun i =>
    match i.checks c with
    | none => none
    | some t => if s.targetOk c t then none else some (i.pc, ⟨cTarget, 0, t⟩)

/-- The group at the program counter of a context, or the first fault of steps 1 to 6 of R188, with the slot that
sr.tpc names. -/
noncomputable def State.groupAt (s : State) (c : Ctx) : Except (Word × Trap) GroupIssue :=
  let k := slotOf c.pc
  if k = 5 then .error (c.pc, ⟨cTarget, 0, c.pc⟩)
  else
    match s.fetchLine c c.pc with
    | .error t => .error (c.pc, t)
    | .ok line =>
      let la := lineAddr c.pc
      let lw := lineWord line
      let slots := lineSlots la line k
      match lineParity c.pc line with
      | some e => .error e
      | none =>
        match s.badTarget c (readableSlots slots) with
        | some e => .error e
        | none =>
          match lineReason lw with
          | some r => .error (c.pc, ⟨cIllegal, r, BitVec.ofNat 64 lw⟩)
          | none =>
            match decodeSlots c.level slots with
            | .error e => .error e
            | .ok is =>
              match groupFault (is.map SlotInstr.i) with
              | some r =>
                let w := ((is[r.2]?).map SlotInstr.word).getD 0
                .error (c.pc, ⟨cIllegal, r.1, highBits w⟩)
              | none =>
                match stallFault c is with
                | some e => .error e
                | none =>
                  .ok ⟨c.pc, is, is, nextSlot (slotAddr la (groupLast (lineStops lw) k)), groupStall line k, false,
                    is.findSome? fun i => i.checks c, false⟩

/-- The group that an attached follower executes next, which its leader has fetched and checked (R48); its stall counts,
and a target that its leader's outcome does not share, are its own (R49, R180). -/
def State.streamGroup (s : State) (c : Ctx) (x : GangStep) : Except (Word × Trap) GroupIssue :=
  let g : GroupIssue := { x.grp with rest := x.grp.slots, taken := false, told := false }
  let own : Option Word := g.slots.findSome? fun i => i.checks c
  match if own = g.target then none else s.badTarget c g.slots with
  | some e => .error e
  | none =>
    match stallFault c g.slots with
    | some e => .error e
    | none => .ok { g with target := own }

/-- The frame of the stack that a fetch names, when it is absent (R2). -/
def State.fetchAbsent (s : State) (c : Ctx) : Option Nat :=
  match s.placeAt c.asUnit .fetch (lineAddr c.pc) 64 with
  | .error _ => none
  | .ok ps => s.absentPart ps

/-- The entry that a fetch of a context used moves to the front of its TLBs, and an entry of the comb's TLB is copied into the
cell's (R339). -/
def State.fetchTouch (s : State) (c : Ctx) (pc : Word) : State :=
  match s.placeAt c.asUnit .fetch (lineAddr pc) 64 with
  | .error _ => s
  | .ok ps => s.tlbTouch c ps

/-! ### Signatures (R338) -/

/-- An entry of a `.sig` table. -/
structure SigEntry where
  block : Word
  id : BitVec 16
  preds : List (BitVec 16)
  cs : BitVec 32
  ds : BitVec 32
  deriving DecidableEq, Repr

/-- Entry `n` of the table at an address of the region's home stack (log 14). -/
def State.sigEntry (s : State) (r : Region) (n : Nat) : SigEntry :=
  let num := fun (off k : Nat) => s.launchNum r.home (r.sigTable.toNat + 24 * n + off) k
  ⟨BitVec.ofNat 64 (num 0 8), BitVec.ofNat 16 (num 8 2), [BitVec.ofNat 16 (num 10 2), BitVec.ofNat 16 (num 12 2)],
    BitVec.ofNat 32 (num 16 4), BitVec.ofNat 32 (num 20 4)⟩

/-- The entries of a table in turn, as long as their addresses rise. -/
def sigRising : Option Word → List SigEntry → List SigEntry
  | _, [] => []
  | none, e :: es => e :: sigRising (some e.block) es
  | some a, e :: es => if a < e.block then e :: sigRising (some e.block) es else []

/-- The table of a context whose blocks are checked. -/
def State.sigTable (s : State) (c : Ctx) : List SigEntry :=
  if c.sr.ctl.getLsbD 1 then
    match s.regionOf c with
    | none => []
    | some r => if r.sigTable = 0 then [] else sigRising none ((List.range 4096).map (s.sigEntry r))
  else []

/-- The signatures after one issued word. -/
def SigState.word (g : SigState) (w : IWord) : SigState :=
  let x := w.extractLsb' 64 32 ^^^ w.extractLsb' 32 32 ^^^ w.extractLsb' 0 32
  let y := w.extractLsb' 72 8 ++ w.extractLsb' 64 8 ++ w.extractLsb' 44 8 ++ w.extractLsb' 20 8
  { g with cs := g.cs.rotateLeft 1 ^^^ x, ds := g.ds.rotateLeft 3 ^^^ y }

/-- Does a finished block agree with its entry. -/
def SigState.agrees (g : SigState) (e : SigEntry) : Bool :=
  (e.preds.contains 0xFFFF || (g.pred.map fun p => e.preds.contains p).getD false) && g.cs == e.cs && g.ds == e.ds

/-- The end of the block in progress: its identifier, or the signature fault. -/
def sigClose (t : List SigEntry) (c : Ctx) : Except Trap Ctx :=
  match c.sig with
  | none => .ok c
  | some g =>
    match t.find? fun e => e.block == g.block with
    | none => .ok { c with sig := none }
    | some e => if g.agrees e then .ok { c with sig := none, sigPred := some e.id } else .error ⟨cSignature, 0, g.block⟩

/-- Control has reached a group: a block that ends here is checked, and one that begins here begins. -/
def State.sigArrive (s : State) (c : Ctx) (taken : Bool) : Except Trap Ctx :=
  let t := s.sigTable c
  if t.isEmpty then .ok { c with sig := none }
  else
    let here := t.find? fun e => e.block == c.pc
    match if taken || here.isSome then sigClose t c else .ok c with
    | .error e => .error e
    | .ok c => .ok (match here with
      | some e => { c with sig := some ⟨c.pc, e.id, 0, 0, c.sigPred⟩ }
      | none => c)

/-- The words of a group that issues. -/
def Ctx.sigWords (c : Ctx) (is : List SlotInstr) : Ctx :=
  { c with sig := c.sig.map fun g => is.foldl (fun g i => g.word i.word) g }

/-- `halt` ends the block it stands in: a block that disagrees faults before it. -/
def State.sigHalt (s : State) (i : Instr) : Option Trap :=
  match i with
  | .halt h =>
    if predOn h s.th.regs then
      match sigClose (s.sigTable s.th) s.th with
      | .error t => some t
      | .ok _ => none
    else none
  | _ => none

/-! ### The end of a group (R49, R179) -/

/-- Did a group of a context end in a taken transfer. -/
def Ctx.tookTransfer (c : Ctx) (g : GroupIssue) : Bool := g.taken || c.pc != g.next

/-- A leader's group and its outcome go down its gang. -/
def State.tellGang (s : State) (g : GroupIssue) : State :=
  if gangRole s.th = 1 then
    let tell := fun (c : Ctx) =>
      { c with gang := { c.gang with trace := c.gang.trace ++ [⟨g, s.th.pc, g.taken⟩] } }
    { s with pool := updateAll (followsIn s.th.cid) tell s.pool }
  else s

/-- An attached follower compares the outcome and the target of its group with its leader's (R49, R207). -/
def Ctx.followGang (c : Ctx) (g : GroupIssue) : Ctx :=
  if gangRole c = 2 then
    match c.gang.trace with
    | x :: xs => if x.pc = c.pc ∧ x.taken = g.taken then { c with gang := { c.gang with trace := xs } } else c.detach
    | [] => c
  else c

/-- The group in issue has executed: its outcome goes through its gang, once. -/
def State.compare (s : State) (g : GroupIssue) : State :=
  if g.told then s
  else (s.tellGang g).mapTh fun c => { c.followGang g with grp := some { g with told := true } }

/-- The distance to the next group (R179): `none` after stall code 15. -/
def stallStep (stall : Nat) : Option Nat := if stall = 15 then none else some (1 + stall)

/-- The group in issue is over: its windows age, and the next group may begin. -/
def State.endGroup (s : State) (g : GroupIssue) : State :=
  s.mapTh fun c => { c.age (stallStep g.stall) with grp := none }

/-! ### What holds a context back -/

/-- An attached follower waits until its leader has gone before it (R48). -/
def Ctx.behind (c : Ctx) : Bool := gangRole c == 2 && c.gang.trace.isEmpty

/-- After a taken branch, fetch waits for the writes before a `fence.full` at system scope (R177). -/
def Ctx.fetchHeld (c : Ctx) (taken : Bool) : Bool :=
  taken && c.mq.marks.any fun m => m.kind == .full && bitsAt m.scope.toNat 60 4 == 5 && c.markHolds m

/-- An instruction reads or writes a register whose interlocked result has not arrived (R179). -/
def Ctx.interlocked (c : Ctx) (i : Instr) : Bool :=
  let u := Instr.use i
  c.pend.any fun p => p.dest.specs.any fun r => realSpec r && (u.reads.contains r || u.writes.contains r)

/-- A transfer of the group at the program counter of a context waits for what it reads: its target is not known yet
(R179, R188). -/
noncomputable def State.targetHeld (s : State) (c : Ctx) : Bool :=
  match s.fetchLine c c.pc with
  | .error _ => false
  | .ok line =>
    (lineParity c.pc line).isNone &&
      (readableSlots (lineSlots (lineAddr c.pc) line (slotOf c.pc))).any fun i => Instr.transfers i.i && c.interlocked i.i

/-! ### Round edges (R42) -/

/-- Logical cells whose channels name a cell. -/
def Region.inputs (r : Region) (k : Nat) : List Nat :=
  match r.chans with
  | none => []
  | some cs => (List.range cs.length).filter fun j => (cs.getD j []).contains k

/-- The open edge of a cell. -/
def State.edge? (s : State) (c : CtxId) : Option RestartPoint := s.points.find? fun p => p.ctx.cid == c && !p.done

/-- The first message of a sender at its receiver, when it is a marker. -/
def State.markerAt (s : State) (dst : CtxId) (src : Nat) : Option (Flight × Nat) :=
  let hit := fun (f : Flight) => match f.op.act with
    | .mail d m => d == dst && m.sender.toNat == src
    | _ => false
  match s.net.aq.find? hit with
  | none => none
  | some f => match f.op.act with
    | .mail _ ⟨_, _, .marker round, _⟩ => some (f, round)
    | _ => none

/-- The round timer of a cell has expired. -/
def State.roundOver (s : State) (r : Region) (c : Ctx) : Bool := decide (c.roundAt + r.a.period ≤ s.now)

/-- A context is to be recorded: its round timer has expired, or the marker of the next round has reached it (R42). It issues
nothing until it has been recorded. -/
def State.edgeDue (s : State) (c : Ctx) : Bool :=
  (s.edge? c.cid).isNone && c.fault.isNone && (s.regionOf c).any fun r =>
    r.a.rounds && !c.completed && (s.roundOver r c ||
      (r.inputs c.logical).any fun k => (s.markerAt c.cid k).any fun m => m.2 == c.sr.round.toNat + 1)

/-- A context has a slot to issue: it is in its cell and does not count as parked, its program has not ended, it is not to be
recorded first, and its frame's clock runs. -/
def State.issues (s : State) (c : Ctx) : Bool :=
  c.status == .running && !c.ended && !c.completed && (s.frameRec (combFrame c.comb)).relock.isNone && !s.heldBack c &&
    !s.edgeDue c

/-- A wait that ends by trying the instruction again (R53). -/
def Park.retried : Park → Bool
  | .addr | .event | .barrier | .supervisor => false
  | _ => true

/-- The context with an identifier becomes the one that issues. -/
def State.focus (s : State) (c : CtxId) : State :=
  if s.th.cid = c then s
  else
    match s.pool.find? fun x => x.cid == c with
    | none => s
    | some x => { s with th := x, pool := updateAll (fun y => y.cid == c) (fun _ => s.th) s.pool }

end Sys2Proof.Machine
end

