-- ==== Sys2Proof/Machine/Regions.lean ====
section
/-!
DEFINITION. The steps of regions and of supervision: completion of cells and launch of children (R30, R33), exchanges
(R36, R37), rounds (R42), the forager token (R46, R47), time slices (R53), interrupt messages (R57, R336, R337), fault
records and their queues (R330), FP trap collection (R124, R331), cell errors (R329) and the end of a domain (R52).
-/
namespace Sys2Proof.Machine

/-! ### Completion of a cell (R33) -/

/-- None of the handles of a context is PENDING. -/
def Ctx.noPending (c : Ctx) : Bool := c.h.toList.all fun x => x.st != .pending

/-- A cell completes once its writes have been acknowledged, as a release at system scope (R101, R356). -/
def execEvCellComplete (cid : CtxId) (s : State) : Out :=
  match s.ctx? cid with
  | none => .next s
  | some c =>
    if !c.ended || c.completed || !c.noPending || !c.drained || !c.mq.eps.isEmpty then .next s
    else
      let s := s.updCtx cid fun c => { c with completed := true }
      match c.region with
      | none => .next s
      | some r => .next (s.cellDone r c.logical (if c.restarts = 0 then .ok else .restarted))

/-! ### Children (R29, R30) -/

/-- Do chosen cells serve a plan: the share of each frame in ascending order of frames, from what is free, each once,
with its gangs in their rows. -/
def Plan.fits (p : Plan) (free : CellId → Bool) (cells : List CellId) : Bool :=
  let part := fun (x : Nat × Nat) => cellsOn x.1 cells
  p.shares.flatMap part == cells && (p.shares.all fun x => (part x).length == x.2) && cells.all free &&
    cells.eraseDups == cells && gangFits p.gangs cells

/-- A child that ends without having run. -/
def State.childOver (s : State) (r : Region) (rcb : Nat) (st : CStatus) : State :=
  ((s.writeStatus r.home rcb st).updRegion r.id fun x =>
    { x with nextKid := x.nextKid + 1, status := x.status.worst st }).finish r.id

def execEvChildLaunch (rid : RegionId) (cells : List CellId) (s : State) : Out :=
  match s.region? (some rid) with
  | none => .next s
  | some r =>
    if r.phase != .children || r.kids ≤ r.nextKid then .next s
    else
      let e := s.launchNum r.home ((s.readRcb r.home r.rcb.toNat).fld 8 0 56 + 8 * r.nextKid) 8
      let rcb := e % 2 ^ 56
      if bitsAt e 63 1 = 0 && !(s.childrenOf rid).isEmpty then .next s
      else
        let p := s.plan r.home rcb r.a false
        if !p.ok then .next (s.childOver r rcb .failed)
        else if p.childOver r then .next (s.childOver r rcb .budget)
        else if p.own = 0 && p.rcb.kids = 0 then .next (s.childOver r rcb .ok)
        else
          let free := s.freeOf r
          if !p.fits free.contains cells || s.vaultFree r < p.a.vault then .next s
          else
            let s := s.updRegion rid fun x => { x with nextKid := x.nextKid + 1 }
            .next (s.launch p r.home (BitVec.ofNat 64 rcb) r.asid none (some r) r.slot cells)

/-! ### Exchanges (R34, R36, R37) -/

/-- The physical address of a range of a transfer. -/
def xferPa (r : Region) (k : Nat) (vault : Bool) (off : Nat) : Nat :=
  let i := r.map.getD k 0
  if vault then paVault (cellComb i) (cellIdx i * 2 ^ 17 + off) else paLocal i off

/-- The data area of a cell belongs to a region's context, or is held for the region (R334). -/
def State.dataReady (s : State) (r : Region) (k : Nat) (vault : Bool) : Bool :=
  let c := s.cellRec (r.map.getD k 0)
  vault || c.heldFor == some r.id || (c.owner.bind s.ctx?).any fun x => x.region == some r.id

/-- The parts of a range of a transfer, each with its place. -/
def xferParts (r : Region) (k : Nat) (vault : Bool) (off len : Nat) : List (Part × Nat) :=
  let pa := xferPa r k vault off
  withOffsets pa 0 (fixedParts pa pa len (if vault then .vault else .local_))

/-- The copy engine that performs a transfer: that of its source cell. -/
def Region.mover (r : Region) (x : Xfer) : Source := .engine (r.ctxs.getD x.srcCell 0) 0

/-- The bytes of a transfer are counted for the context of the cell that they belong to (R71, log 87). -/
def State.chargeCell (s : State) (r : Region) (k : Nat) (ps : List (Part × Nat)) : State :=
  s.updCtx (r.ctxs.getD k 0) fun c => c.charge (ps.map Prod.fst)

/-- The next step of a transfer (R36): its source is read, then its destination written, then it is over; the transfers
follow one another, and the compute phase begins after the last. -/
def State.transfer (s : State) (r : Region) (x : Xfer) : State :=
  let m := r.mover x
  let set := fun (s : State) (f : Region → Region) => s.updRegion r.id f
  match r.xmove with
  | .idle =>
    if !s.dataReady r x.srcCell x.srcVault || !s.dataReady r x.dstCell x.dstVault then s
    else
      let ps := xferParts r x.srcCell x.srcVault x.srcOff x.len
      set ((s.chargeCell r x.srcCell ps).ioSendReads m 0 x.len ps) fun r => { r with xmove := .reading }
  | .reading =>
    if !s.ioRead? m 0 then s
    else
      let ps := xferParts r x.dstCell x.dstVault x.dstOff x.len
      set ((s.chargeCell r x.dstCell ps).ioSendWrites m 0 (partData (s.ioBytes m 0) ps)) fun r => { r with xmove := .writing }
  | .writing =>
    if !s.ioOver m 0 then s
    else (set (s.ioDrop m 0) fun r => { r with xmove := .idle, xpos := r.xpos + 1 }).closeBarrier r.id

def execEvExchangeTransfer (rid : RegionId) (s : State) : Out :=
  match s.region? (some rid) with
  | none => .next s
  | some r =>
    let xs := r.exchange (s.superstepOf r)
    match r.closed, xs[r.xpos]? with
    | some t, some x => if s.now < t + 32 * x.slot then .next s else .next (s.transfer r x)
    | _, _ => .next s

/-! ### Rounds (R42) -/

def Region.outputs (r : Region) (k : Nat) : List Nat := (r.chans.getD []).getD k []

/-- A marker on every output channel, ahead of any later message (R42). -/
def Ctx.sendMarkers (c : Ctx) (r : Region) (round : Nat) : Ctx :=
  c.pushAll ((r.outputs c.logical).map fun k seq =>
    plainOp (.cell (r.map.getD k 0)) .plain (.mail (r.ctxs.getD k 0) ⟨BitVec.ofNat 16 c.logical, 0, .marker round, seq⟩) seq)

/-- The edge is complete: the older restart points of the cell go, and the cell enters the round, in which a restart from the
point finds it too. -/
def State.enterRound (s : State) (c : CtxId) : State :=
  match s.edge? c with
  | none => s
  | some p =>
    let ctx := { p.ctx with sr := { p.ctx.sr with round := BitVec.ofNat 64 p.round } }
    let points := (s.points.filter fun x => x.ctx.cid != c) ++ [{ p with ctx := ctx, done := true }]
    { s with points := points }.updCtx c fun x =>
      { x with sr := { x.sr with round := BitVec.ofNat 64 p.round }, roundAt := s.now }

/-- The start of an edge: the restart point, then the markers. -/
def State.startEdge (s : State) (r : Region) (c : Ctx) : State :=
  let round := c.sr.round.toNat + 1
  let p : RestartPoint := ⟨c, s.carveOut c, [], [], round, false⟩
  let s := { s with points := s.points ++ [p] }
  let s := s.updCtx c.cid fun x => x.sendMarkers r round
  if (r.inputs c.logical).isEmpty then s.enterRound c.cid else s

/-- A context can be recorded: it is in its cell and no fault has stopped it, everything that it has placed has been
acknowledged, so that what goes ahead of its markers is what its restart point has sent, and no instruction of its own is
half done. DESIGN CHOICE (log 69): a context that a fault has stopped starts no edge before its restart. -/
def Ctx.recordable (c : Ctx) : Bool :=
  c.resident && c.fault.isNone && c.drained && !(c.pend.any fun p => p.held || p.dest == .mat) && c.wait.all WaitState.entered

/-- DESIGN CHOICE (log 69): the period is measured from the launch of the cell, or from the instant at which it entered its
present round. -/
def execEvRoundTimerExpiry (cid : CtxId) (s : State) : Out :=
  match s.ctx? cid with
  | none => .next s
  | some c =>
    match s.regionOf c with
    | none => .next s
    | some r =>
      if !r.a.rounds || !c.recordable || c.completed || (s.edge? cid).isSome || !s.roundOver r c then .next s
      else .next (s.startEdge r c)

/-- A marker starts the edge of its round, or joins it. One of a round that the cell has entered, sent anew after a restart
of its sender, has no effect. -/
def execEvRoundMarkerArrival (cid : CtxId) (src : Nat) (s : State) : Out :=
  match s.ctx? cid, s.markerAt cid src with
  | some c, some (f, round) =>
    match s.regionOf c with
    | none => .next s
    | some r =>
      let fresh := !c.completed && decide (c.sr.round.toNat < round)
      if !c.resident || (fresh && (c.sr.round.toNat + 1 != round || !((s.edge? cid).isSome || c.recordable))) then .next s
      else
        let hit := fun (g : Flight) => g.src == f.src && g.op.seq == f.op.seq
        let s := ({ s with net := { s.net with aq := dropFirst hit s.net.aq } }).reply (f.answer none [] false)
        if !fresh then .next s
        else
          let s := if (s.edge? cid).isSome then s else s.startEdge r c
          let mine := fun (p : RestartPoint) => p.ctx.cid == cid && !p.done
          let s := { s with points := updateAll mine (fun p => { p with marked := p.marked ++ [src] }) s.points }
          if (r.inputs c.logical).all fun k => ((s.edge? cid).map fun p => p.marked.contains k).getD true then
            .next (s.enterRound cid)
          else .next s
  | _, _ => .next s

/-! ### The forager token (R46, R47) -/

/-- Is a cell passive. -/
def State.passive (s : State) (r : Region) (k : Nat) : Bool :=
  match s.member? r k with
  | none => false
  | some c =>
    (c.ended || c.status == .parked .mailbox || (c.wait.any fun w => w.entered) &&
      (c.status == .parked .event || c.status == .parked .addr)) && c.resident && c.mail.box.isEmpty && c.noPending

/-- A visit: sent − received, and whether the flag was set, which clears. -/
def State.visit (s : State) (r : Region) (k : Nat) : Int × Bool × State :=
  match s.member? r k with
  | none => (0, false, s)
  | some c =>
    ((c.mail.sent - c.mail.received).toInt, c.mail.flag,
      s.updCtx c.cid fun c => { c with mail := { c.mail with flag := false } })

/-- A cell parked in a receive is woken with TERMINATED (R47). -/
def Ctx.tell (c : Ctx) : Ctx := if c.status = .parked .mailbox then { c with status := .ready, told := true } else c

/-- Termination: waiters of the event units and receivers are woken (R47). -/
def State.terminate (s : State) (r : Region) : State :=
  let s := s.updRegion r.id fun r => { r with terminated := true }
  let mine := s.net.evwait.filter fun w => w.region == r.id
  let s := { s with net := { s.net with evwait := s.net.evwait.filter fun w => w.region != r.id } }
  let s := mine.foldl (fun (s : State) w => s.updCtx w.cid fun c => c.finishWait 6 none s.now) s
  r.ctxs.foldl (fun (s : State) c => s.updCtx c Ctx.tell) s

def execEvTokenPass (rid : RegionId) (s : State) : Out :=
  match s.region? (some rid) with
  | none => .next s
  | some r =>
    let t := r.token
    let n := r.ctxs.length
    if !r.a.free || r.phase != .own || r.terminated || n = 0 || !s.passive r t.pos then .next s
    else if !t.started then
      .next (s.updRegion rid fun r => { r with token := ⟨1 % n, false, 0, t.pass + 1, true⟩ })
    else
      let v := s.visit r t.pos
      let mark := t.mark || v.2.1
      let balance := (BitVec.ofInt 64 (t.balance + v.1)).toInt
      let s := v.2.2
      if t.pos ≠ 0 then
        .next (s.updRegion rid fun r => { r with token := { t with pos := (t.pos + 1) % n, mark := mark, balance := balance } })
      else
        let s := s.updRegion rid fun r => { r with token := ⟨0, mark, balance, t.pass, false⟩ }
        if !mark ∧ balance = 0 then .next (s.terminate r) else .next s

/-! ### Time slices (R53) -/

/-- The contexts of a cell. -/
def State.onCell (s : State) (i : CellId) : List Ctx := s.ctxs.filter fun c => c.place == .user i && c.resident

/-- Cycles of a frame's clock in a time. -/
def State.cyclesIn (s : State) (frame ns : Nat) : Nat := ns * (s.frameRec frame).mhz / 1000

def execEvContextTimeslice (i : CellId) (s : State) : Out :=
  let here := s.onCell i
  match here.find? fun c => c.status == .running, here.find? fun c => c.status == .ready && !c.ended && !s.heldBack c with
  | some a, some b =>
    if s.stopped (cellFrame i) || s.cyclesIn (cellFrame i) (s.now - a.since) < 65536 then .next s
    else
      let s := s.updCtx a.cid fun c => { c with status := .ready }
      .next (s.updCtx b.cid fun c => { c with status := .running, since := s.now })
  | _, _ => .next s

/-! ### Interrupt messages and containment (R57, R336, R337) -/

/-- Causes that are contained (R329). -/
def contained (cause : Nat) : Bool := cause == cFetchParity || cause == cUncorrectable || cause == cCellError

/-- A follower that waits in `gjoin` leaves the wait: it executes `gjoin` again (R213). -/
def Ctx.leaveJoin (c : Ctx) : Ctx := { c with gang := { c.gang with joined := false } }

/-- An inline `zero` drain that has not issued its last store is executed again: what has not issued goes (R257). -/
def Ctx.undrain (c : Ctx) : Ctx :=
  match c.drainMark with
  | none => c
  | some p => { c with pend := c.pend.filter (fun x => x.id != p.id), mq := { c.mq with iq := c.mq.iq.filter fun o => o.seq < p.id } }

/-- A context stops at its boundary: a wait ends as RESUMED, an inline `mma` goes on
from its K block, gang membership ends, and the context waits on its supervisor (R56, R57, R253). A context that stopped on
a fault stays as it is. -/
def State.stopCtx (s : State) (c : Ctx) : State :=
  if c.fault.isSome ∨ c.ended ∨ !c.resident then s
  else
    let stop := fun (c : Ctx) =>
      { (c.undrain.finishWait 5 none s.now).detach.leaveJoin with status := .parked .supervisor, mrun := none }
    ((s.unwait c.cid).updCtx c.cid stop).detachFollowers c.cid

/-- A K block of an `mma` is under way: its bytes are being read, or have not been added (R253). -/
def MatRun.busy (r : MatRun) : Bool := r.waiting || r.buf.isSome

/-- What a context finishes before it stops: a round edge in progress, a load that holds it (R123), a wait on its way to its
table (R274, R275), and a K block, inline or forked (R57, R253). -/
def State.unfinished (s : State) (c : Ctx) : Bool :=
  (s.edge? c.cid).isSome || c.pend.any c.heldBy || (c.wait.any fun w => !w.entered) || c.mrun.any MatRun.busy ||
    (c.queue 4).any fun e => match e.work with
      | .prog _ p => p.run.any MatRun.busy
      | _ => false

/-- A cell with a contained fault is sealed when it is stopped (R337). -/
def State.sealCell (s : State) (i : CellId) : State :=
  if (s.onCell i).any fun c => c.fault.any fun f => contained f.cause.toNat then
    s.setCell { s.cellRec i with isSealed := true }
  else s

def execEvMintArrival (n : Nat) (s : State) : Out :=
  match s.net.mints[n]? with
  | none => .next s
  | some m =>
    let here := s.onCell m.target
    let hit := if m.reason = 0 then here.filter s.onSeat else here
    if s.stopped (cellFrame m.target) || hit.any s.unfinished then .next s
    else
      let s := { s with net := { s.net with mints := dropAt n s.net.mints } }
      let s := hit.foldl State.stopCtx s
      .next (if m.reason = 0 then s else s.sealCell m.target)

def execEvCellError (cid : CtxId) (s : State) : Out :=
  match s.ctx? cid with
  | none => .next s
  | some c =>
    if c.fault.isSome ∨ c.ended ∨ !c.resident ∨ c.cell?.isNone then .next s
    else
      let s := s.unwait cid
      .next ((s.updCtx cid fun c =>
        c.fault' ⟨cCellError, 0, Config.openAddr cCellError c.pc.toNat s.now⟩ s.now).detachFollowers cid)

/-! ### Fault records (R330, R338) -/

def execEvFaultRecordPost (cid : CtxId) (s : State) : Out :=
  match s.ctx? cid with
  | none => .next s
  | some c =>
    match c.fault with
    | none => .next s
    | some f =>
      if f.posted || !(c.drained || (c.unplaced && c.mq.outs.isEmpty && c.mq.wcb.isEmpty)) then .next s
      else
        let trans := f.cause.toNat == cTranslation
        match s.postRecord c.comb trans (recordWords c f) with
        | none => .next s
        | some s =>
          let s := s.updCtx cid fun c => { c with fault := some { f with posted := true } }
          let s := if f.cause.toNat = cSignature then s.setService c.comb false fun k => { k with sigerr := k.sigerr + 1 } else s
          .next (s.noteFp c f)

def execEvFqtailWrite (k : CombId) (trans : Bool) (v : Word) (s : State) : Out :=
  .next (s.setService k trans fun r => r.consume v)

/-! ### FP trap collection (R124, R331) -/

/-- The window of a key. -/
def FpEvent.window (e : FpEvent) : Nat := e.key.toNat / 2 ^ 16

/-- The event with the lowest key. -/
def lowestFp : List FpEvent → Option FpEvent
  | [] => none
  | e :: es =>
    match lowestFp es with
    | none => some e
    | some x => if x.key.toNat < e.key.toNat then some x else some e

/-- A trap that has not joined the collection yet. -/
def Ctx.fpOpen (c : Ctx) : Bool := c.fault.any fun f => !f.posted && f.cause.toNat == cFp

/-- A window has closed: every member has joined or stopped, or its time is over; its traps have all joined the
collection, so that the record does not depend on when they are posted. -/
def State.fpClosed (s : State) (r : Region) (w : Nat) : Bool :=
  let ms := (List.range r.ctxs.length).filterMap fun k => (s.member? r k).map fun c => (k, c)
  !(ms.any fun m => m.2.fpOpen) &&
    if r.a.free then decide ((w + 2) * 4096 ≤ s.now)
    else ms.all fun m =>
      r.joined.contains m.1 || m.2.ended || m.2.completed || m.2.fault.isSome || decide (w < m.2.sr.ssnum.toNat)

/-- The record with the collection key in word 2. -/
def FpEvent.words (e : FpEvent) : List Word :=
  [BitVec.ofNat 64 (e.record.cause.toNat * 2 ^ 48 + e.record.detail.toNat * 2 ^ 32 + e.slot % 4 * 2 ^ 24 + cellIdx e.cell),
   e.record.pc, e.key, BitVec.ofNat 64 e.record.time]

/-- A record of the region fault log; a full ring drops it and says so in the RCB. -/
def State.logFp (s : State) (rid : RegionId) (e : FpEvent) : State :=
  match s.region? (some rid) with
  | none => s
  | some r =>
    let w := (s.readRcb r.home r.rcb.toNat).w.getD 12 0
    if r.logCount < 2 ^ bitsAt w 48 4 then
      (s.writeRun (launchPa r.home (bitsAt w 0 48 + 32 * r.logCount)) (wordsBytes e.words)).updRegion rid fun r =>
        { r with logCount := r.logCount + 1 }
    else s.writeRun (launchPa r.home (r.rcb.toNat + 0x60)) (bytesOf 8 (w ||| 2 ^ 63))

/-- Events in ascending order of keys. -/
def insertFp (e : FpEvent) : List FpEvent → List FpEvent
  | [] => [e]
  | y :: ys => if e.key.toNat < y.key.toNat then e :: y :: ys else y :: insertFp e ys

def execEvFpWindowClose (rid : RegionId) (s : State) : Out :=
  match s.region? (some rid) with
  | none => .next s
  | some r =>
    match lowestFp r.fpEvents with
    | none => .next s
    | some e =>
      let w := e.window
      if !s.fpClosed r w then .next s
      else
        let now := (r.fpEvents.filter fun x => x.window == w).foldl (fun xs x => insertFp x xs) []
        let first := r.fpWindow = 0
        let s := if first then s.writeRun (launchPa r.home (r.rcb.toNat + 0x68)) (wordsBytes e.words) else s
        let s := (if first then now.drop 1 else now).foldl (fun s x => State.logFp s rid x) s
        .next (s.updRegion rid fun r =>
          { r with fpEvents := r.fpEvents.filter (fun x => x.window != w), fpWindow := if first then w + 1 else r.fpWindow })

/-! ### The end of a fault domain (R52) -/

/-- A context that its supervisor cannot restart: its cell has failed its test (R337), or its fault has been posted and there
is no restart point, or the limit is reached. A translation fault that has been forwarded counts (R346). -/
def State.lost (s : State) (r : Region) (c : Ctx) : Bool :=
  (c.cell?.any fun i => (s.cellRec i).isFailed) ||
    ((c.fault.any fun f => f.posted && f.cause.toNat != cTranslation) &&
      (decide (r.a.limit ≤ c.restarts) || !(s.points.any fun p => p.ctx.cid == c.cid && p.done)))

/-- The end of a fault domain: its contexts stop, and its regions complete FAILED once what they have sent has been
acknowledged. -/
def execEvFaultDomainEnd (dom : Nat) (s : State) : Out :=
  if s.regions.any fun r => r.a.domain == dom && r.ending then .next (s.endDomain dom)
  else if s.ctxs.any fun c => (s.regionOf c).any fun r => r.a.domain == dom && s.lost r c then .next (s.haltDomain dom)
  else .next s

end Sys2Proof.Machine
end

