-- ==== Sys2Proof/Machine/Priv.lean ====
section
/-!
DEFINITION. Privileged instructions (R299, R300, R326): saving and loading contexts (R332 to R335), `mint` and `fret`
(R335, R336), TLB instructions (R343, R344), snapshots and sealed meter blocks (R376, R377).
-/
namespace Sys2Proof.Machine

/-! ### Privilege (R300, R326) -/

/-- A privileged instruction: the level is checked whatever the predicate is. -/
def privOp (code : Nat) (ok : Level → Bool) (h : Hdr) (f : State → Out) (s : State) : Out :=
  if ok s.th.level then onPred h f s else faultOut s ⟨cPrivilege, 0, BitVec.ofNat 64 code⟩

def Level.comb? (l : Level) : Bool := l == .comb
def Level.package? (l : Level) : Bool := l == .package
def Level.firmware (l : Level) : Bool := l != .user

/-- An interlocked status reaches its register. -/
def statusOut (d : BitVec 6) (x : Nat) (s : State) : Out :=
  .next (s.mapTh fun c => (c.run.resG d 0 (BitVec.ofNat 64 x)).retire)

/-- The user cell that sa names, in the executing comb; other bits set name no cell. -/
def targetCell (c : Ctx) (x : Word) : Option CellId := if x.toNat < 128 then some (c.comb * 128 + x.toNat) else none

/-- The context in a slot of a cell. -/
def State.inSlot (s : State) (i : CellId) (slot : Nat) : Option Ctx := (s.onCell i).find? fun c => c.slot == slot

/-- The status of R335 that turns a save or a return away. -/
def State.slotStatus (s : State) (i : Option CellId) (slot : Nat) : Nat :=
  if slot = 3 then 5
  else
    match i with
    | none => 6
    | some i =>
      match s.inSlot i slot with
      | none => 2
      | some c => if c.status = .running then 1 else 0

/-! ### The save area (R332, R333, log 15) -/

/-- The state of handles as the save area holds it. -/
def Handle.words (h : Handle) : List Word := [BitVec.ofNat 64 h.st.code, h.res, h.det, BitVec.ofNat 64 h.op]

def HState.ofCode (n : Nat) : HState :=
  match n with
  | 1 => .pending | 2 => .done | 3 => .failed | 4 => .cancelled | _ => .empty

/-- The meter block with its seal at the end (R333, R373). -/
def sealedBlock (cid : CtxId) (ws : List Word) : List Byte :=
  wordsBytes (ws ++ List.replicate (31 - ws.length) 0 ++ [Config.meterSeal cid ws])

/-- The bytes of an open write. -/
def OpenWrite.bytes (w : OpenWrite) : List Byte :=
  [w.spec, BitVec.ofNat 8 w.left] ++ List.replicate 14 0 ++ vBytes w.val

/-- The state registers, by number (R186, R332). -/
def State.srWords (s : State) (c : Ctx) : List Word :=
  (List.range 64).map fun n => if userSrNumbers.contains n then s.srValue c n else 0

/-- The A and B descriptors of R241, in the order of that rule (log 15). -/
def MatState.descWords (m : MatState) : List Word :=
  [m.abase.zeroExtend 64, m.ks.zeroExtend 64 <<< 32 ||| m.rs.zeroExtend 64, m.axbase.zeroExtend 64,
   m.xo.zeroExtend 64 <<< 16 ||| m.bo.zeroExtend 64]

/-- Words that the layout names and does not describe (log 15). -/
def openWords (what n t : Nat) : List Word := (List.range n).map fun i => Config.openAddr what i t

/-- The engine area (R332): the 4,096 bytes that stand for queues and programs (log 15). -/
def Ctx.engineArea (c : Ctx) : List Byte := (List.range 4096).map fun i => (Config.packEngines c.eq).getD i 0

/-- The pieces of a save area: offset and bytes. -/
def State.savePieces (s : State) (c : Ctx) : List (Nat × List Byte) :=
  let resume := if c.fault.isSome then c.sr.tpc else c.pc
  [(0x0000, wordsBytes ([BitVec.ofNat 64 c.cid, BitVec.ofNat 64 (c.region.getD 0), resume, c.sr.stkbase, c.sr.stklim,
      c.sr.ovfptr, BitVec.ofNat 64 (s.spillBase c)] ++ openWords 0x200 1 s.tick)),
   (0x0040, wordsBytes c.regs.g.toList),
   (0x0240, c.regs.v.toList.flatMap vBytes),
   (0x0640, c.regs.m.toList.flatMap fun x => bytesOf 4 x.toNat),
   (0x0660, wordsBytes (c.h.toList.flatMap Handle.words)),
   (0x0860, wordsBytes (s.srWords c)),
   (0x0A60, wordsBytes (c.loops.flatMap fun l => [l.start, l.exit, l.rem.zeroExtend 64])),
   (0x0AC0, (c.openW.take 16).flatMap OpenWrite.bytes),
   (0x1000, (c.mat.a0.toList ++ c.mat.a1.toList).flatMap fun x => bytesOf 4 x.toNat),
   (0x1400, wordsBytes c.mat.descWords),
   (0x1800, c.engineArea),
   (0x2F00, sealedBlock c.cid (s.meterWords c))]

/-- The first 16 KiB of a save area; offsets without a piece are zero. -/
def State.saveImage (s : State) (c : Ctx) : List Byte :=
  (s.savePieces c).foldl (fun bs p => putBytes bs p.1 p.2) (List.replicate 0x4000 0)

/-- The physical address of a save area (log 16). -/
def saveAt (c : Ctx) (va : Word) (off : Nat) : Nat := launchPa (combFrame c.comb) (va.toNat + off)

/-- The carve-out of an owner, as the rest of the area (R332). -/
def State.carveImage (s : State) (c : Ctx) : List Byte :=
  putBytes (List.replicate 0xC000 0) (c.sr.stklim.toNat + 0x800 - 0x4000) (s.carveOut c)

/-- A context leaves its slot for its save area. -/
def State.saveCtx (s : State) (c : Ctx) (va : Word) (full : Bool) : State :=
  let owner := (s.cellRec c.cell).owner == some c.cid
  let s := s.writeRun (saveAt s.th va 0) (s.saveImage c)
  let s := if owner then s.writeRun (saveAt s.th va 0x4000) (s.carveImage c) else s
  let s := if owner && full then s.writeRun (saveAt s.th va 0x10000) (s.peek (paLocal c.cell 0) c.sr.stklim.toNat) else s
  let s := if owner then
      s.setCell { s.cellRec c.cell with owner := none, heldFor := if full then none else c.region }
    else s
  (s.bump.chargePatches c.cid).updCtx c.cid fun c =>
    { c with status := .saved, saveArea := some va, savedEq := c.engineArea }

/-- Every operation that a context has issued has been acknowledged, and WCB(c) has been flushed (R103). -/
def Ctx.settled (c : Ctx) : Bool := c.mq.outs.isEmpty && c.mq.wcb.isEmpty

/-- A transfer of an exchange moves bytes of a cell (R36). -/
def State.transferOn (s : State) (i : CellId) : Bool := s.regions.any fun r => r.xmove != .idle && r.map.contains i

/-- Operations in IQ(c) that cannot issue while the context stays where it is: they wait for a translation (R342), or for room
in the dirty log (R349). -/
def State.issueHeld (s : State) (c : Ctx) : Bool := c.mq.iq.isEmpty || c.unplaced || s.logHeld c

/-- `ctxsave`: it waits until every operation that the context has issued has been acknowledged (R103). What stands in IQ(c) and
can issue does so first; the rest is saved with the context. -/
def execCtxsave (h : Hdr) (o : CtxSave) (s : State) : Out :=
  privOp 0xA200 Level.comb? h (fun s =>
    let i := targetCell s.th (s.th.regs.gr o.a)
    match s.slotStatus i o.slot.toNat with
    | 0 =>
      match i.bind fun i => s.inSlot i o.slot.toNat with
      | none => statusOut o.d 2 s
      | some c =>
        if !c.settled || !s.issueHeld c || (c.fault.any fun f => !f.posted) || s.unfinished c || s.transferOn c.cell then
          parkOut s .drain
        else
          let s := s.stopCtx c
          match s.ctx? c.cid with
          | none => statusOut o.d 2 s
          | some c => statusOut o.d 0 (s.saveCtx c (s.th.regs.gr o.b) o.full)
    | n => statusOut o.d n s) s

/-! ### Loading a context (R333 to R335) -/

/-- A word of the save area. -/
def State.areaNum (s : State) (va : Word) (off n : Nat) : Nat := ofBytes (s.peek (saveAt s.th va off) n)
def State.areaWord (s : State) (va : Word) (off : Nat) : Word := BitVec.ofNat 64 (s.areaNum va off 8)

/-- A handle of the save area; one that has not changed keeps its first read (R140). -/
def State.areaHandle (s : State) (va : Word) (i : Fin 16) (old : Handle) : Handle :=
  let w := fun k => s.areaWord va (0x660 + 32 * i.val + 8 * k)
  let h : Handle := ⟨HState.ofCode (w 0).toNat, w 1, w 2, (w 3).toNat, old.seen⟩
  if h.st = old.st then h else { h with seen := true }

/-- The registers of the save area. -/
def State.areaRegs (s : State) (va : Word) : Regs :=
  ⟨Vector.ofFn fun (i : Fin 64) => s.areaWord va (0x40 + 8 * i.val),
   Vector.ofFn fun (i : Fin 32) => BitVec.ofNat 256 (s.areaNum va (0x240 + 32 * i.val) 32),
   Vector.ofFn fun (i : Fin 8) => BitVec.ofNat 32 (s.areaNum va (0x640 + 4 * i.val) 4)⟩

/-- Bits [63:9] and 3 of sr.fpctl are reserved, and a write of a rounding mode that does not exist leaves 0b001 (R120). -/
def fpctlLoad (x : Word) : Word := (x &&& 0x1F0) ||| (if x &&& 7 = 0 ∨ x &&& 7 = 7 then 1 else x &&& 7)

/-- The overflow area of R67; other codes of its size never appear. -/
def ovfLoad (x : Word) : Word :=
  let n := x.toNat % 32
  if n = 0 ∨ (16 ≤ n ∧ n ≤ 30) then x &&& 0x00FFFFFFFFFF001F else x &&& 0x00FFFFFFFFFF0000

/-- The state registers of the save area; reserved fields read as zero whatever it holds (R11). -/
def State.areaBank (s : State) (va : Word) : SrBank :=
  let w := fun (n : Nat) => s.areaWord va (0x860 + 8 * n)
  { ctl := w 0x00 &&& 3, fpctl := fpctlLoad (w 0x01), fpstat := w 0x02 &&& 0x3F1F3F, srctr := w 0x03, seed := w 0x04,
    det := w 0x05 &&& 3, lcell := w 0x08 &&& 0xFFFFFFFF, gang := w 0x0A &&& 0xFF3, cmap := w 0x0B &&& 0x00FFFFFFFFFFFFC0,
    ssnum := w 0x0C, round := w 0x0D, stkbase := w 0x10 &&& 0xFF00, stklim := w 0x11 &&& 0xFF00,
    ovfptr := ovfLoad (w 0x12), tcause := w 0x20 &&& 0xFFFFFFFF, taddr := w 0x21, tpc := w 0x22, afstat := w 0x24 &&& 0xF }

def State.areaLoops (s : State) (va : Word) : List LoopLevel :=
  (List.range (min 4 (s.areaNum va (0x860 + 8 * 0x28) 1 % 8))).map fun k =>
    ⟨s.areaWord va (0xA60 + 24 * k), s.areaWord va (0xA60 + 24 * k + 8), BitVec.ofNat 32 (s.areaNum va (0xA60 + 24 * k + 16) 4)⟩

def State.areaOpen (s : State) (va : Word) : List OpenWrite :=
  ((List.range 16).map fun k =>
    let at_ := 0xAC0 + 48 * k
    (⟨BitVec.ofNat 8 (s.areaNum va at_ 1), s.areaNum va (at_ + 1) 1,
      BitVec.ofNat 256 (s.areaNum va (at_ + 16) 32)⟩ : OpenWrite)).filter fun w => w.left != 0

def State.areaMat (s : State) (va : Word) : MatState :=
  let w := fun (k : Nat) => s.areaWord va (0x1400 + 8 * k)
  { a0 := Vector.ofFn fun (i : Fin 128) => BitVec.ofNat 32 (s.areaNum va (0x1000 + 4 * i.val) 4),
    a1 := Vector.ofFn fun (i : Fin 128) => BitVec.ofNat 32 (s.areaNum va (0x1200 + 4 * i.val) 4),
    abase := (w 0).extractLsb' 0 56, rs := (w 1).extractLsb' 0 32, ks := (w 1).extractLsb' 32 32,
    axbase := (w 2).extractLsb' 0 56, bo := (w 3).extractLsb' 0 16, xo := (w 3).extractLsb' 16 16,
    koff := (s.areaWord va (0x860 + 8 * 0x23)).extractLsb' 5 11 }

/-- The meter block of the save area. -/
def State.areaMeters (s : State) (va : Word) : Meters :=
  let w := fun (n : Nat) => s.areaWord va (0x2F00 + 8 * n)
  ⟨w 1, w 2, w 3, w 4, w 5, w 6, w 7, w 8, w 9, w 10, w 11, w 12, w 13, w 14⟩

/-- The seal of the save area matches its block and identifier. -/
def State.sealOk (s : State) (va : Word) (cid : CtxId) : Bool :=
  Config.meterSeal cid ((List.range 15).map fun n => s.areaWord va (0x2F00 + 8 * n)) == s.areaWord va 0x2FF8

/-- The queues and programs of the save area: what firmware has not changed is as the context has it, with what its engines
have finished meanwhile (R58); other bytes stand for the queues that the area then holds. -/
def State.areaEngines (s : State) (va : Word) (c : Ctx) : Vector (List Entry) 8 :=
  let bs := s.peek (saveAt s.th va 0x1800) 4096
  if bs = c.savedEq then c.eq else Config.unpackEngines bs

/-- Was the context stopped by a fault whose handling is a restart (R329). -/
def Ctx.restarting (c : Ctx) : Bool := c.fault.any fun f => f.cause.toNat != cTranslation

/-- The context of a save area, from its bytes; what the layout does not describe is as it was saved (log 15). -/
def State.areaCtx (s : State) (va : Word) (i : CellId) (slot : Nat) (c : Ctx) : Ctx :=
  let pc := s.areaWord va 0x10
  { c with
    place := .user i, slot := slot, status := .parked .supervisor, regs := s.areaRegs va,
    h := Vector.ofFn fun k => s.areaHandle va k (c.h.get k), sr := s.areaBank va, loops := s.areaLoops va,
    openW := s.areaOpen va, mat := s.areaMat va, eq := s.areaEngines va c, meters := s.areaMeters va, pc := pc,
    grp := if pc = c.pc then c.grp else none, fault := none, wait := none,
    restarts := if c.restarting then c.restarts + 1 else c.restarts, since := s.now }

/-! ### Restart (R42, R43, R52) -/

/-- The restart point of a context. -/
def State.donePoint (s : State) (cid : CtxId) : Option RestartPoint := s.points.find? fun p => p.ctx.cid == cid && p.done

/-- Remove one occurrence of each message of a list. -/
def withoutMail (old : List Mail) (ms : List Mail) : List Mail := old.foldl (fun ms m => ms.erase m) ms

/-- The mailbox at a restart: the messages that the point holds, those of the cut, then those that came after it (R43). -/
def RestartPoint.mail (p : RestartPoint) (now : MailBox) : MailBox :=
  let cut := p.ctx.mail.spill ++ p.msgs
  { now with box := p.ctx.mail.box, spill := cut ++ withoutMail (p.ctx.mail.box ++ cut) (now.box ++ now.spill) }

/-- A recorded context goes on from its boundary: a wait ends as RESUMED, and a join of a scoped barrier is executed again. -/
def Ctx.fromPoint (c : Ctx) (now : Nat) : Ctx :=
  let c := { c.finishWait 5 none now with mrun := none }
  let c := { c with pend := c.pend.filter fun p => p.dest != Dest.mat }
  match c.status, c.pend.getLast? with
  | .parked .barrier, some p => { c with pc := p.pc, grp := none, pend := c.pend.dropLast }
  | _, _ => c

/-- A fabric instruction whose issue is not complete is executed again; its entry goes (R280). -/
def Ctx.dropIssuing (c : Ctx) : Ctx := c.mapQ 7 fun es => es.filter fun e => e.undo.isNone

/-- A restart from the last restart point (R52, log 80): the context as it was recorded, when nothing was left to issue; its
meters, its engine queues, its counts of messages, its fault registers and its gang position stay as they are. -/
def RestartPoint.restart (p : RestartPoint) (c : Ctx) (i : CellId) (slot : Nat) (now : Nat) : Ctx :=
  let o := p.ctx.fromPoint now
  { c.dropIssuing with
    place := .user i, slot := slot, status := .parked .supervisor, regs := o.regs, h := o.h, mat := o.mat, mrun := none,
    sr := { o.sr with gang := c.sr.gang, tcause := c.sr.tcause, taddr := c.sr.taddr, tpc := c.sr.tpc },
    pc := o.pc, grp := o.grp, openW := o.openW, pend := o.pend, loops := o.loops,
    mq := { c.mq with iq := [], marks := [] }, unplaced := false, mail := p.mail c.mail, wait := none, told := false,
    sig := o.sig, sigPred := o.sigPred, fault := none, restarts := c.restarts + 1, since := now, roundAt := now }

/-- A member that is restarted has not joined: it executes `sstep` or `bar` again (R38). -/
def State.leaveJoins (s : State) (c : Ctx) : State :=
  match s.regionOf c with
  | none => s
  | some r => s.updRegion r.id fun r =>
    { r with joined := r.joined.filter (fun k => k != c.logical),
             bars := r.bars.map fun b => { b with joined := b.joined.filter fun j => j.1 != c.logical } }

/-! ### Operations that were saved (R103) -/

/-- The length of an access, and whether it writes; `none` for what has no address in memory. -/
def Act.access (a : Act) : Option (Nat × Use) :=
  match a with
  | .load _ _ len _ => some (len, .read)
  | .store bs => some (bs.length, .write)
  | .amo _ ty _ _ _ => some (ty.bytes, .write)
  | .red _ ty es => some ((es.map fun e => e.1 + ty.bytes).foldl max 0, .write)
  | .wait w _ => some (w.ty.bytes, .read)
  | .prefetch => some (1, .read)
  | .pair _ _ _ ty _ _ _ _ _ _ _ _ _ _ => some (ty.bytes, .write)
  | .evsig _ _ _ | .evwait _ _ _ _ | .mail _ _ => none

/-- The place of one access, which lies in one line. -/
def State.placeOne (s : State) (c : Ctx) (use : Use) (va : Word) (len : Nat) : Except Trap Part :=
  match s.placeAt c.asUnit use va len with
  | .error t => .error t
  | .ok ps =>
    match ps with
    | p :: _ => .ok p
    | [] => .error ⟨cUnassigned, 0, va⟩

/-- An operation that has not issued is placed anew, since its context was not resident (R103, R344). -/
def State.placeOp (s : State) (c : Ctx) (o : MemOp) : Except Trap MemOp :=
  match o.act.access with
  | none => .ok o
  | some (len, use) =>
    match s.placeOne c use o.va len with
    | .error t => .error t
    | .ok p =>
      match o.act with
      | .pair op dcas move ty a b va opA opB cmpA cmpB second low pend =>
        match s.placeOne c use va len with
        | .error t => .error t
        | .ok q =>
          let a' := if a ≤ b then p.pa else q.pa
          let b' := if a ≤ b then q.pa else p.pa
          let x := if q.pa < p.pa then (q, va, o.va) else (p, o.va, va)
          .ok { o with home := x.1.home, pa := x.1.pa, va := x.2.1, dirt := (p.dirt ++ q.dirt).eraseDups,
                       act := .pair op dcas move ty a' b' x.2.2 opA opB cmpA cmpB second low pend }
      | _ => .ok { o with home := p.home, pa := p.pa, dirt := p.dirt }

/-- The saved operations in order, or the first fault. -/
def State.placeOps (s : State) (c : Ctx) : List MemOp → Except Trap (List MemOp)
  | [] => .ok []
  | o :: os =>
    match s.placeOp c o, s.placeOps c os with
    | .error t, _ => .error t
    | .ok _, .error t => .error t
    | .ok x, .ok xs => .ok (x :: xs)

/-- The operations of a loaded context. When one faults now, the context stops before any of them issues, and they are placed
again when it becomes ready (log 15). -/
def State.replace (s : State) (c : Ctx) : Ctx :=
  match s.placeOps c c.mq.iq with
  | .ok ops => { c with mq := { c.mq with iq := ops }, unplaced := false }
  | .error t => { c.stopOn t s.now with unplaced := true }

/-- The rules of ownership that a load must meet (R334, R335). -/
def State.loadHeld (s : State) (i : CellId) (c : Ctx) (own data : Bool) : Bool :=
  let r := s.cellRec i
  ((s.onCell i).any fun x => x.region.isSome && x.region == c.region) ||
    (if own then r.owner.isSome || !(data || (r.heldFor.isSome && r.heldFor == c.region)) else data)

/-- The carve-out, and the data area, reach local memory. -/
def State.loadLocal (s : State) (i : CellId) (va : Word) (c : Ctx) (data : Bool) : State :=
  let lim := c.sr.stklim.toNat
  let s := s.writeRun (paLocal i lim) (s.peek (saveAt s.th va (lim + 0x800)) (0xF800 - lim))
  let s := if data then s.writeRun (paLocal i 0) (s.peek (saveAt s.th va 0x10000) lim) else s
  s.setCell { s.cellRec i with owner := some c.cid, heldFor := none }

/-- What the spill queue of a context holds enters its ring anew. -/
def State.respill (s : State) (cid : CtxId) : State :=
  match s.ctx? cid with
  | none => s
  | some c =>
    c.mail.spill.foldl (fun (s : State) m => ((s.ctx? cid).map fun c => s.putSpill c m).getD s)
      (s.updCtx cid fun c => { c with mail := { c.mail with spill := [] } })

/-- A context comes back into a slot: from its save area, or, when a fault has stopped it for a restart, from its restart
point, whose carve-out replaces that of the area (R43, R52). A context without local memory keeps its area (R334). -/
def State.loadCtx (s : State) (va : Word) (i : CellId) (slot : Nat) (c : Ctx) (own data : Bool) : State :=
  let area := s.areaCtx va i slot c
  let p? := if c.restarting then s.donePoint c.cid else none
  let new := { (match p? with
    | some p => { p.restart area i slot s.now with restarts := area.restarts }
    | none => area) with saveArea := if own then none else some va }
  let s := match p? with
    | some p => (s.leaveJoins c).writeRun (saveAt s.th va (new.sr.stklim.toNat + 0x800)) p.carve
    | none => s
  let s := s.updCtx c.cid fun _ => new
  let s := if p?.isSome || c.comb? != new.comb? then s.respill c.cid else s
  let s := if own then s.loadLocal i va new data else s
  (s.updCtx c.cid s.replace).setCell { s.cellRec i with isSealed := false }

/-- `ctxload`. A seal that does not match ends the fault domain of the context (R333); a restart on a sealed cell
unseals it, and a cell that has failed its test is not used again (R337). DESIGN CHOICE (log 45): it is a bad cell, and a
context whose domain has ended is one that does not exist. -/
def execCtxload (h : Hdr) (o : CtxLoad) (s : State) : Out :=
  privOp 0xA201 Level.comb? h (fun s =>
    let va := s.th.regs.gr o.b
    let slot := o.slot.toNat
    if slot = 3 then statusOut o.d 5 s
    else
      match targetCell s.th (s.th.regs.gr o.a) with
      | none => statusOut o.d 6 s
      | some i =>
        if (s.cellRec i).isFailed then statusOut o.d 6 s
        else if (s.inSlot i slot).isSome then statusOut o.d 1 s
        else
          let cid := s.areaNum va 0 8
          match s.ctx? cid with
          | none => statusOut o.d 3 s
          | some c =>
            if c.status != .saved || !s.sealOk va cid || s.ending c then
              let dom := (s.regionOf c).map fun r => r.a.domain
              let s := if c.status = .saved then dom.elim s s.haltDomain else s
              statusOut o.d 3 s
            else if s.loadHeld i c o.own o.data then statusOut o.d 4 s
            else if o.own && s.transferOn i then parkOut s .drain
            else statusOut o.d 0 (s.loadCtx va i slot c o.own o.data)) s

/-! ### mint and fret (R335, R336) -/

def execMint (h : Hdr) (o : GReg2) (s : State) : Out :=
  privOp 0xA202 Level.comb? h (fun s =>
    match targetCell s.th (s.th.regs.gr o.a) with
    | none => .next s.retire
    | some i =>
      let m : MintMsg := ⟨i, s.th.regs.gr o.b⟩
      .next { s with net := { s.net with mints := s.net.mints ++ [m] } }.retire) s

/-- A context that a barrier still counts waits for it again (R57). -/
def State.reBarrier (s : State) (c : Ctx) (placed : Bool) : Ctx :=
  let joined := (s.regionOf c).any fun r =>
    r.joined.contains c.logical || r.bars.any fun b => b.joined.any fun j => j.1 == c.logical
  if joined then { c.resume placed with status := .parked .barrier } else c.resume placed

/-- A context becomes ready; saved operations that wait for a translation are placed first, and one that faults again stops the
context as before (R103). -/
def State.markReady (s : State) (c : Ctx) : State :=
  let d := if c.unplaced then s.replace { c with fault := none } else c
  if d.unplaced then s.updCtx c.cid fun _ => d
  else (s.updCtx c.cid fun _ => s.reBarrier { d with fault := c.fault } c.unplaced).leaveBarriers c

def execFret (h : Hdr) (o : Fret) (s : State) : Out :=
  privOp 0xA203 Level.comb? h (fun s =>
    let i := targetCell s.th (s.th.regs.gr o.a)
    match s.slotStatus i o.slot.toNat with
    | 0 =>
      match i.bind fun i => s.inSlot i o.slot.toNat with
      | none => statusOut o.d 2 s
      | some c =>
        if c.fault.any fun f => !f.posted then parkOut s .drain
        else
          if c.status = .parked .supervisor && !s.ending c then statusOut o.d 0 (s.markReady c) else statusOut o.d 0 s
    | n => statusOut o.d n s) s

/-! ### TLB instructions (R342 to R344) -/

/-- The rules of R340 to R342 that an entry must meet. -/
def entryOk (e : TlbEntry) : Bool :=
  let low := if e.size = 1 then 5 else if e.size = 2 then 14 else 0
  e.size != 3 && bitsAt e.w1.toNat 0 3 == 0 && e.kind ≤ 4 && (e.kind == 2 || e.ep == 0) &&
    e.vpn % 2 ^ low == 0 && e.ppn % 2 ^ low == 0 && (e.kind < 3 || e.size == 0) &&
    (e.kind != 0 || bitsAt e.ppn 20 3 == 0) && (e.kind != 3 || (bitsAt e.ppn 15 8 == 0 && bitsAt e.ppn 0 15 < 24576)) &&
    (if fmtCb e.fmt ≠ 0 then e.slot < fmtSlots e.fmt else e.cdelta == 0 && e.slot == 0)

def execTlbwr (h : Hdr) (o : TlbWr) (s : State) : Out :=
  privOp 0xA204 Level.comb? h (fun s =>
    let e : TlbEntry := ⟨s.th.regs.rg o.a, s.th.regs.rg o.b⟩
    let k := s.combRec s.th.comb
    if o.dest = 3 || !entryOk e then statusOut o.d 7 s
    else if k.tlbgen.extractLsb' 0 3 ≠ o.gen then statusOut o.d 8 s
    else
      let asks := k.asks.filter fun a => !(a.1 == e.asid && e.base ≤ a.2 * 2 ^ 16 && a.2 * 2 ^ 16 < e.base + e.bytes)
      let s := s.setComb { k with asks := asks, tlb := if o.dest = 1 then k.tlb else tlbPut 1024 e k.tlb }
      let i := s.th.comb * 128 + o.c.toNat
      let s := if o.dest = 0 then s else s.setCell { s.cellRec i with tlb := tlbPut 64 e (s.cellRec i).tlb }
      statusOut o.d 0 s) s

/-- Does an invalidation drop an entry. -/
def invHits (kind : Nat) (asid va : Nat) (e : TlbEntry) : Bool :=
  match kind with
  | 0 => e.asid == asid && e.base ≤ va && va < e.base + e.bytes
  | 1 => e.asid == asid
  | _ => true

/-- Combs in the reach of an invalidation. -/
def invReach (c : Ctx) (reach : BitVec 2) (k : CombId) : Bool :=
  if reach = 0 then k == c.comb else combFrame k == combFrame c.comb

/-- Every TLB in reach drops the matching entries, and every comb in reach counts the invalidation. -/
def State.invalidate (s : State) (reach : BitVec 2) (hit : TlbEntry → Bool) : State :=
  let inReach := invReach s.th reach
  let keep := fun (t : List TlbEntry) => t.filter fun e => !hit e
  let ks := (List.range 512).filter inReach
  let s := ks.foldl (fun (s : State) k =>
    let r := s.combRec k
    s.setComb { r with tlb := keep r.tlb, tlbgen := r.tlbgen + 1 }) s
  { s with cells := updateAll (fun c => inReach (cellComb c.id)) (fun c => { c with tlb := keep c.tlb }) s.cells }

/-- The contexts whose accesses may have used a dropped translation, each with its next number: those of the address space,
and the service cells of their combs, which reach an address through the translation of the context whose fault they
service (R326). What a saved context has not issued is placed anew. -/
def State.invBounds (s : State) (reach : BitVec 2) (kind asid : Nat) : List (Nat × Nat) :=
  (s.ctxs.filter fun c => c.comb?.isSome && invReach s.th reach c.comb &&
      (kind == 2 || c.cell?.isNone || c.asid.toNat == asid)).map fun c =>
    (c.cid, if c.resident && !c.unplaced then c.mq.next else 0)

/-- An engine or fabric access of a context is under way, or a piece that a copy has placed (R344). -/
def State.enginesAway (s : State) (c : Ctx) : Bool :=
  s.ioAway c.cid ||
    c.eq.toList.any fun es => es.any fun e => match e.work with
      | .copy o => o.piece.isSome
      | .prog _ p => p.cur.any fun o => o.piece.isSome
      | _ => false

/-- Every access that was translated before an invalidation has been acknowledged. -/
def State.invOver (s : State) (bs : List (Nat × Nat)) : Bool :=
  bs.all fun b => ((s.ctx? b.1).map fun c => c.ackedBelow b.2 && !s.enginesAway c).getD true

/-- The invalidation that this instruction has begun. -/
def Ctx.invOpen (c : Ctx) : Option (Nat × List (Nat × Nat)) :=
  c.pend.findSome? fun p =>
    match p.dest with
    | .inv bs => if p.pc = c.pc then some (p.id, bs) else none
    | _ => none

/-- `tlbinv`: it drops, then waits for the accesses that were translated before (R344). -/
def execTlbinv (h : Hdr) (o : TlbInv) (s : State) : Out :=
  privOp 0xA205 Level.comb? h (fun s =>
    if o.kind = 3 || 2 ≤ o.reach.toNat then statusOut o.d 7 s
    else
      match s.th.invOpen with
      | some (id, bs) =>
        if s.invOver bs then
          statusOut o.d 0 (s.mapTh fun c => { c with pend := c.pend.filter fun p => p.id != id })
        else parkOut s .drain
      | none =>
        let asid := (s.th.regs.rg o.b).toNat % 2 ^ 16
        let bs := s.invBounds o.reach o.kind.toNat asid
        let s := s.invalidate o.reach (invHits o.kind.toNat asid (s.th.regs.rg o.a).toNat)
        if s.invOver bs then statusOut o.d 0 s
        else parkOut (s.mapTh fun c => (c.expect (.inv bs) 1 0).2) .drain) s

/-! ### Snapshots and sealed blocks (R376, R377) -/

def execSnap (h : Hdr) (o : DstG) (s : State) : Out :=
  privOp 0xA300 Level.package? h (fun s =>
    if s.power.snapHeld || s.power.snapArmed.isSome then statusOut o.d 0xFFFFFFFF s
    else
      let e := s.th.expect (.g o.d .d) 1 8
      let s := s.mapTh fun _ => e.2.retire
      .next { s with power := { s.power with snapArmed := some (s.th.cid, e.1, (s.now / 1024 + 1) * 1024) } }) s

/-- The meter words of a live or ended context (R375, R377). -/
def State.blockOf (s : State) (cid : CtxId) : Option (List Word) :=
  match s.ctx? cid with
  | some c => if c.status = .empty then none else some (s.meterWords c)
  | none => (s.power.ended.find? fun x => x.1 == cid).map fun x => x.2.words cid

def execMseal (h : Hdr) (o : Mseal) (s : State) : Out :=
  privOp 0xA301 Level.firmware h (fun s =>
    let cid := (s.th.regs.gr o.a).toNat
    let va := s.th.regs.gr o.b
    match s.blockOf cid with
    | none => statusOut o.d 1 s
    | some ws =>
      if va.toNat % 256 ≠ 0 then statusOut o.d 2 s
      else statusOut o.d 0 (s.writeRun (saveAt s.th va 0) (sealedBlock cid ws))) s

end Sys2Proof.Machine
end

