-- ==== Sys2Proof/Machine/Resolve.lean ====
section
/-!
DEFINITION. Resolving handles (R54, R58, R281, R285): an operation resolves into whichever handle holds it, in a context,
in a save area or in a message; beginning and completing the entries of engine queues (R97, R98, R99), and the
registration of a contest candidate (R153).
-/
namespace Sys2Proof.Machine

/-! ### Resolving an operation -/

/-- What a handle becomes when an operation resolves; `seen` is false for a sample, whose first read sets the digits. -/
def Handle.settle (op : Nat) (st : HState) (res det : Word) (seen : Bool) (h : Handle) : Handle :=
  if h.st = .pending ∧ h.op = op then { h with st := st, res := res, det := det, seen := seen } else h

def Payload.settle (op : Nat) (st : HState) (res det : Word) (seen : Bool) : Payload → Payload
  | .handle h hd => .handle (h.settle op st res det seen) hd
  | p => p

def Mail.settle (op : Nat) (st : HState) (res det : Word) (seen : Bool) (m : Mail) : Mail :=
  { m with body := m.body.settle op st res det seen }

def Flight.settle (op : Nat) (st : HState) (res det : Word) (seen : Bool) (f : Flight) : Flight :=
  match f.op.act with
  | .mail d m => { f with op := { f.op with act := .mail d (m.settle op st res det seen) } }
  | _ => f

def Ctx.settle (op : Nat) (st : HState) (res det : Word) (seen : Bool) (c : Ctx) : Ctx :=
  { c with
    h := c.h.map (Handle.settle op st res det seen),
    mq := { c.mq with iq := c.mq.iq.map fun o => (Flight.settle op st res det seen ⟨.ctx c.cid, o⟩).op },
    mail := { c.mail with spill := c.mail.spill.map (Mail.settle op st res det seen) } }

/-- The handles of a saved context that hold an operation are written in its save area (R58). -/
def State.settleSaved (s : State) (op : Nat) (st : HState) (res det : Word) (c : Ctx) : State :=
  match c.saveArea with
  | none => s
  | some va =>
    (List.range 16).foldl (fun (s : State) i =>
      let h := c.h.toList.getD i .reset
      if h.st = .pending ∧ h.op = op then
        s.writeRun (launchPa (combFrame c.comb) (va.toNat + 0x660 + 32 * i)) (wordsBytes (Handle.words ⟨st, res, det, op, true⟩))
      else s) s

/-- An operation resolves, also into a handle of a restart point (R43). -/
def State.resolveOp (s : State) (op : Nat) (st : HState) (res det : Word) (seen : Bool) : State :=
  let s := (s.ctxs.filter fun c => c.status == .saved).foldl (fun (s : State) c => s.settleSaved op st res det c) s
  let one := Ctx.settle op st res det seen
  let fly := Flight.settle op st res det seen
  let point := fun (p : RestartPoint) => { p with ctx := one p.ctx, msgs := p.msgs.map (Mail.settle op st res det seen) }
  { s with th := one s.th, pool := s.pool.map one, points := s.points.map point,
           net := { s.net with ch := s.net.ch.map fly, aq := s.net.aq.map fly } }

/-! ### Beginning an entry (R97, R98) -/

/-- A queue fence is over when it heads every queue that it names. -/
def Ctx.fenceOver (c : Ctx) (id : Nat) (mask : BitVec 8) : Bool :=
  (List.range 8).all fun q => !mask.getLsbD q ||
    ((c.queue q).head?.any fun e => match e.work with
      | .fence i _ => i == id
      | _ => false)

/-- The entries of a fence leave their queues. -/
def Ctx.dropFence (c : Ctx) (id : Nat) : Ctx :=
  (List.range 8).foldl (fun (c : Ctx) q => c.mapQ q fun es => es.filter fun e => match e.work with
    | .fence i _ => i != id
    | _ => true) c

/-! ### The registration of a candidate (R153) -/

def execEvContendRegister (cid : CtxId) (s : State) : Out :=
  match s.ctx? cid with
  | none => .next s
  | some c =>
    match (c.queue 6).head? with
    | none => .next s
    | some e =>
      match e.work, e.course with
      | .contend key lane id, .begun =>
        if s.plane.cands.any fun x => x.op == e.op then .next s
        else
          match (s.regionOf c).bind Region.slot with
          | none => .next s
          | some slot =>
            let x : Cand := ⟨lane.toNat, slot * 256 + id.toNat, key, combFrame c.comb, c.logical, cid, e.op, s.now, false, 0⟩
            .next { s with plane := { s.plane with cands := s.plane.cands ++ [x] } }
      | _, _ => .next s

end Sys2Proof.Machine
end

