-- ==== Sys2Proof/Machine/Plane.lean ====
section
/-!
DEFINITION. The waggle plane (R148 to R155): a contest on a lane, its result for programs, and the fabric claims of lane
15 (R134).
-/
namespace Sys2Proof.Machine

/-- The contest that is due on a lane runs; one without candidates leaves the lane as it is (R150). -/
def execEvWaggleContest (l : Nat) (s : State) : Out :=
  match (if l < 16 then s.dueContest l else none) with
  | none => .next s
  | some (q, cs) =>
    match bestCand cs with
    | none => .next s
    | some w =>
      let part := contestants l cs
      let r : ContestResult := ⟨l, w.id, w.key, w.die, w.logical, w.cid, part, 210 * q + 210⟩
      let commit := updateAll (fun x => part.any (Cand.same x)) (fun x => { x with committed := true })
      .next { s with plane :=
        { lanes := upsert (fun y => y.id == l) { s.lane l with last := w.id, next := q + 1 } s.plane.lanes,
          cands := commit s.plane.cands, results := s.plane.results ++ [r] } }

/-- The result words of a program contest (R296). -/
def ContestResult.words (r : ContestResult) (c : Cand) : Word × Word :=
  (r.key, BitVec.ofNat 64 ((if c.cid = r.winner then 2 ^ 63 else 0) + r.die * 2 ^ 32 + r.logical))

/-- A candidate of a program learns the result. -/
def State.contestDone (s : State) (r : ContestResult) (x : Cand) : State :=
  match (s.ctx? x.cid).bind fun c => (c.queue 6).find? fun e => e.op == x.op with
  | none => s
  | some e =>
    match e.work with
    | .contend _ _ _ => s.updCtx x.cid fun c => c.entryDone 6 e.op .done (r.words x).1 (r.words x).2
    | _ => s

/-- The winner of a claim contest receives its patches (R134); a winner that no longer exists receives none. -/
def State.grantClaim (s : State) (x : Cand) : State :=
  match (s.fabricEntry x.cid).filter fun e => e.op == x.op with
  | none => s
  | some e =>
    match e.work with
    | .fabric (.claim _ _) =>
      let die := x.id - 0xCF0
      let k : Claim := ⟨x.cid, die, x.np, .idle, false, false, false, 0, [], [], s.now, [], [], [], 0, 0⟩
      let s := { s with claims := s.claims ++ [k] }
      s.updCtx x.cid fun c => c.entryDone 7 e.op .done (BitVec.ofNat 64 (die * 2 ^ 16 + x.np)) 0
    | _ => s

def execEvContestResult (l : Nat) (s : State) : Out :=
  match s.plane.results.find? fun r => r.lane == l && r.due ≤ s.now with
  | none => .next s
  | some r =>
    let drop := fun (x : Cand) => x.committed && r.cands.any (Cand.same x)
    let s := { s with plane := { s.plane with
      results := dropFirst (fun y => y.lane == l && y.due ≤ s.now) s.plane.results,
      cands := s.plane.cands.filter fun x => !drop x } }
    let s := if l = 15 then s.cutLane else s
    .next (r.cands.foldl (fun (s : State) x => if l = 15 then s.grantClaim x else s.contestDone r x) s)

end Sys2Proof.Machine
end

