-- ==== Sys2Proof/Machine/Swarm.lean ====
section
/-!
DEFINITION. Collective operations and the swarm sequencer (R156 to R165, R291 to R295, R364, R365).
-/
namespace Sys2Proof.Machine

/-! ### Groups and members -/

def State.group? (s : State) (g : Nat) : Option Group := s.swarm.groups.find? fun x => x.d.id == g
def State.binding? (s : State) (n : Nat) : Option Binding := s.swarm.binds.find? fun b => b.num == n
def State.setBinding (s : State) (b : Binding) : State :=
  { s with swarm := { s.swarm with binds := updateAll (fun x => x.num == b.num) (fun _ => b) s.swarm.binds } }
def State.setReg (s : State) (r : Registration) : State :=
  { s with swarm := { s.swarm with regs := updateAll (fun x => x.op == r.op) (fun _ => r) s.swarm.regs } }

/-- The root of a region. -/
def State.rootOf : Nat → State → Region → RegionId
  | 0, _, r => r.id
  | n + 1, s, r =>
    match r.parent.bind fun p => s.region? (some p) with
    | none => r.id
    | some p => State.rootOf n s p

/-- The rank of a context in a group: its root region on its frame of this package. -/
def State.rankOf (s : State) (c : Ctx) (g : Group) : Option Nat :=
  match s.regionOf c with
  | none => none
  | some r =>
    let root := State.rootOf s.regions.length s r
    let k := g.d.members.findIdx fun m => m.pkg == Config.package && m.frame == combFrame c.comb && m.region == root
    if k < g.d.members.length then some k else none

/-- Is a rank in this package. -/
def Group.here (g : Group) (rank : Nat) : Bool := (g.d.members[rank]?).any fun m => m.pkg == Config.package
/-- The ranks of a group that run on the device of a rank. -/
def Group.onDevice (g : Group) (x : GroupMember) : List Nat :=
  (List.range g.d.members.length).filter fun k => (g.d.members[k]?).any fun m => m.pkg == x.pkg && m.frame == x.frame

/-- The registration of a member for a binding. -/
def State.regOf (s : State) (b : Binding) (rank : Nat) : Option Registration :=
  s.swarm.regs.find? fun r => r.group == b.group && r.k == b.k && r.rank == rank

/-- Every member has started a number, or it is retired (R162). -/
def State.finished (s : State) (b : Binding) : Bool :=
  b.retired || ((s.group? b.group).any fun g => (List.range g.d.members.length).all b.started.contains)

/-! ### Registration (R160, R294) -/

/-- The FAILED words of a fault while a collective is performed. -/
def collFault (t : Trap) : HState × Word × Word := (.failed, BitVec.ofNat 64 (2 ^ 48 + t.cause * 2 ^ 32), t.addr)
/-- The FAILED words of another cause. -/
def collCause (n : Nat) : HState × Word × Word := (.failed, BitVec.ofNat 64 (n * 2 ^ 48), 0)

/-- The rules of a descriptor for a group of `m` members. -/
def descriptorOk (c : CollOpnd) (m : Nat) (w : Nat → Nat) : Bool :=
  bitsAt (w 0) 32 32 == 0 && bitsAt (w 2) 56 8 == 0 && bitsAt (w 3) 56 8 == 0 && bitsAt (w 4) 56 8 == 0 &&
    w 5 == 0 && w 6 == 0 && w 7 == 0 && bitsAt (w 1) 32 32 < m &&
    !(c.ty == .bfp8 && bitsAt (w 1) 0 32 % 32 != 0) && !(c.kind == .barrier && bitsAt (w 1) 0 32 != 0)

/-- A member registers: it takes the group's next number k. -/
def State.register (s : State) (c : Ctx) (e : Entry) (o : CollOpnd) (g : Group) (rank : Nat) (w : Nat → Nat) : State :=
  let k := g.ks.getD rank 0
  let r : Registration := ⟨g.d.id, rank, k, c.cid, e.op, o, bitsAt (w 1) 0 32, bitsAt (w 1) 32 32, BitVec.ofNat 64 (w 2),
    BitVec.ofNat 64 (w 3), BitVec.ofNat 64 (w 4), true, e.cancel, none, false⟩
  let g := { g with ks := g.ks.set rank (k + 1) }
  { s with swarm := { s.swarm with
      groups := updateAll (fun x => x.d.id == g.d.id) (fun _ => g) s.swarm.groups, regs := s.swarm.regs ++ [r] } }

/-- The entry of a registration that holds its binding is complete: it leaves its queue, its handle stays PENDING. -/
def State.dropCollEntry (s : State) (r : Registration) : State :=
  s.updCtx r.cid fun c => c.mapQ 6 fun es => es.filter fun e => e.op != r.op

/-- Does a registration differ from the bound descriptor (R158). -/
def Registration.differs (r : Registration) (b : Binding) : Bool :=
  r.c.kind != b.c.kind || r.c.op != b.c.op || r.c.ty != b.c.ty || r.c.order != b.c.order || r.count != b.count || r.root != b.root

/-- A mismatch is reported: the number is retired, unless a destination write has begun (R158, R162). -/
def State.mismatched (s : State) (b : Binding) (bad : Bool) : State :=
  if bad && !b.retired && b.written.isEmpty then s.setBinding { b with retired := true, cause := 5 } else s

/-- The types of the reductions (R292). -/
def reduceTypes : List Ty := [.w, .d, .sw, .sd, .f64, .f32, .f16, .bf16, .bfp8]

/-- What a member in another package registers (R156, R294): a free value that keeps the rules of the descriptor
(log 90). -/
def remoteDesc (gid k rank m : Nat) : CollOpnd × Nat × Nat :=
  let x := Config.remoteColl gid k rank
  let kind := CollKind.ofCode (BitVec.ofNat 4 (x % 6))
  let reduces := kind == .allreduce || kind == .reduce || kind == .redscat
  let ty := if reduces then reduceTypes.getD (x / 8 % 9) .w else Ty.ofCode (BitVec.ofNat 4 (x / 8))
  let op := if reduces then CollOp.ofCode (BitVec.ofNat 4 (x / 2 ^ 8 % 3)) else .sum
  let n := if kind = .barrier then 0 else x / 2 ^ 16 % 2 ^ 32
  (⟨kind, op, ty, CollOrder.ofCode (BitVec.ofNat 2 (x / 2 ^ 12 % 3)), 0⟩, if ty = .bfp8 then n / 32 * 32 else n,
    x / 2 ^ 48 % 2 ^ 32 % m)

/-- The registration of a member in another package differs from the bound descriptor (R158). -/
def Binding.remoteDiffers (b : Binding) (m rank : Nat) : Bool :=
  let x := remoteDesc b.group b.k rank m
  { x.1 with desc := b.c.desc } != b.c || x.2.1 != b.count || x.2.2 != b.root

/-- A member that has registered holds the binding: its entry completes, and a mismatch is reported. -/
def State.holdBinding (s : State) (b : Binding) (rank : Nat) : State :=
  match s.regOf b rank, s.group? b.group with
  | some r, _ => (s.dropCollEntry r).mismatched b (r.differs b)
  | none, some g => s.mismatched b (!g.here rank && b.remoteDiffers g.d.members.length rank)
  | none, none => s

/-- The number of the accesses of an entry of queue 6: those of its descriptor. -/
def descPort (c : CtxId) : Source := .engine c 6

/-- A collective entry begins (R294): the read of its descriptor issues. -/
def State.beginColl (s : State) (c : Ctx) (e : Entry) (o : CollOpnd) : State :=
  let failed := fun (t : Trap) =>
    let x := collFault t
    s.updCtx c.cid fun c => c.entryDone 6 e.op x.1 x.2.1 x.2.2
  match s.placeAt c.asUnit .read o.desc 64 with
  | .error t => failed t
  | .ok ps =>
    ((s.updCtx c.cid fun c => (c.setEntry 6 e.op fun e => { e with course := .begun }).charge ps).tlbTouch c ps).ioSendReads
      (descPort c.cid) e.op 64 (fromHere 0 ps)

/-- A member that registers after retirement finds the retired binding, and its handle resolves CANCELLED at once (R162). -/
def State.lateReg (s : State) (b : Binding) (rank : Nat) : State :=
  match s.regOf b rank with
  | none => s
  | some r => s.setReg { r with out := some (.cancelled, BitVec.ofNat 64 b.num, BitVec.ofNat 64 b.k) }

/-- A number is retired, unless a destination write has begun (R162). -/
def State.retireBound (s : State) (b : Binding) : State := if b.written.isEmpty then s.setBinding { b with retired := true } else s

/-- The descriptor of a begun entry has been read: it registers, or its handle fails (R294). A number that its kept cancel finds
bound is retired at once (R286). -/
def State.registerColl (s : State) (c : Ctx) (e : Entry) (o : CollOpnd) : State :=
  let src := descPort c.cid
  let failed := fun (s : State) (x : HState × Word × Word) => s.updCtx c.cid fun c => c.entryDone 6 e.op x.1 x.2.1 x.2.2
  if (s.io? src e.op).isNone || !s.ioRead? src e.op then s
  else
    let bs := s.ioBytes src e.op
    let w := fun i => bytesAt bs (8 * i) 8
    let bad := s.ioBad src e.op
    let s := s.ioDrop src e.op
    match bad, (s.group? (bitsAt (w 0) 0 32)).bind fun g => (s.rankOf c g).map fun k => (g, k) with
    | some t, _ => failed s (collFault t)
    | none, none => failed s (collCause 4)
    | none, some (g, rank) =>
      if !descriptorOk o g.d.members.length w then failed s (collCause 4)
      else
        let s := s.register c e o g rank w
        match s.swarm.binds.find? fun b => b.group == g.d.id && b.k == g.ks.getD rank 0 with
        | none => s
        | some b =>
          let s := if e.cancel then s.retireBound b else s
          if b.retired then s.lateReg b rank
          else if b.received.contains rank then s.holdBinding b rank
          else s

/-! ### Binding (R157, R164) -/

/-- The oldest number that is neither started everywhere nor retired. -/
def State.oldestOpen (s : State) : Option Nat := (s.swarm.binds.find? fun b => !s.finished b).map fun b => b.num

/-- The next number may be bound: it lies within the window (R157). -/
def State.inWindow (s : State) : Bool :=
  match s.oldestOpen with
  | none => true
  | some n => (s.swarm.next + 2 ^ 48 - n) % 2 ^ 48 < 2 ^ 47

/-- The latest number bound in any group that has the device of a member (R157). -/
def State.prevOf (s : State) (m : GroupMember) : Option Nat :=
  (s.swarm.binds.reverse.find? fun b => (s.group? b.group).any fun g => !(g.onDevice m).isEmpty).map fun b => b.num

/-- The first registration of a number of a group that is not bound: k, operation, count and root. It comes from a member of
this package or of another, whose next number is the least that is not bound (R157). -/
def State.firstReg (s : State) (g : Group) : Option (Nat × CollOpnd × Nat × Nat) :=
  let bound := fun (k : Nat) => s.swarm.binds.any fun b => b.group == g.d.id && b.k == k
  let k := ((List.range (s.swarm.binds.length + 1)).find? fun k => !bound k).getD 0
  let own := (s.swarm.regs.find? fun r => r.group == g.d.id && r.sent && !bound r.k).map fun r => (r.k, r.c, r.count, r.root)
  let far := ((List.range g.d.members.length).find? fun x => !g.here x).map fun x =>
    (k, remoteDesc g.d.id k x g.d.members.length)
  match own, far with
  | own, none => own
  | none, some x => some x
  | some r, some x => some (if Config.remoteFirst s.tick && k == r.1 then x else r)

/-- The next number is bound; a number that a kept cancel has asked for is retired at once (R286). -/
def execEvSequencerBind (gid : Nat) (s : State) : Out :=
  match s.group? gid with
  | none => .next s
  | some g =>
    match s.firstReg g with
    | none => .next s
    | some (k, c, n, root) =>
      if s.swarm.standbys.isEmpty || !s.inWindow then .next s
      else
        let asked := s.swarm.regs.any fun r => r.group == gid && r.k == k && r.cancel
        let b : Binding := ⟨s.swarm.next, gid, k, c, n, root, s.now, g.d.members.map s.prevOf, [], [], [], [],
          none, [], asked, [], 0⟩
        .next { s with swarm := { s.swarm with
          binds := s.swarm.binds ++ [b], next := (s.swarm.next + 1) % 2 ^ 48 } }.bump

def execEvBindingReceive (num rank : Nat) (s : State) : Out :=
  match s.binding? num with
  | none => .next s
  | some b =>
    if b.received.contains rank || !((s.group? b.group).any fun g => rank < g.d.members.length) then .next s
    else
      let b := { b with received := b.received ++ [rank] }
      .next ((s.setBinding b).holdBinding b rank)

/-- A registration without a reply is sent again (R164). -/
def execEvRegistrationRetry (cid : CtxId) (s : State) : Out :=
  let hit := fun (r : Registration) => r.cid == cid && !r.sent
  .next { s with swarm := { s.swarm with regs := updateAll hit (fun r => { r with sent := true }) s.swarm.regs } }

/-! ### Data (R292) -/

/-- Bytes of elements: those of BFP4 are halves of a byte. -/
def elemBytes (ty : Ty) (n : Nat) : Nat := if ty = .bfp4 then (n + 1) / 2 else n * ty.bytes

/-- The parts of `n` elements at an address, with the companion bytes of BFP8 blocks after them, each with its place. -/
def State.collParts (s : State) (c : Ctx) (use : Use) (ty : Ty) (va : Word) (n : Nat) : Except Trap (List (Part × Nat)) :=
  if n = 0 then .ok []
  else
    match s.placeAt c.asUnit use va (elemBytes ty n) with
    | .error t => .error t
    | .ok ps =>
      let ps := fromHere 0 ps
      if ty != .bfp8 then .ok ps
      else
        (List.range (n / 32)).foldl (fun acc k =>
          match acc with
          | .error t => .error t
          | .ok ps =>
            let v := va + BitVec.ofNat 64 (32 * k)
            match s.tlbFind c v.toNat with
            | none => .error ⟨cFormat, 0, v⟩
            | some e =>
              if e.fmt ≠ 1 then .error ⟨cFormat, 0, v⟩
              else match s.companionAt c.asUnit use e v with
                | .error t => .error t
                | .ok qs => .ok (ps ++ fromHere (n + 2 * k) qs)) (.ok ps)

/-- Elements that a member sends. -/
def Binding.sends (b : Binding) (m rank : Nat) : Nat :=
  match b.c.kind with
  | .bcast => if rank = b.root then b.count else 0
  | .allreduce | .reduce | .allgather => b.count
  | .redscat => m * b.count
  | .barrier => 0

/-- Elements that a member receives. -/
def Binding.receives (b : Binding) (m rank : Nat) : Nat :=
  match b.c.kind with
  | .bcast | .allreduce | .redscat => b.count
  | .reduce => if rank = b.root then b.count else 0
  | .allgather => m * b.count
  | .barrier => 0

/-- Bytes of elements and companions. -/
def collBytes (ty : Ty) (n : Nat) : Nat := elemBytes ty n + if ty = .bfp8 then n / 32 * 2 else 0

/-- The halves of bytes, the lower first, and bytes from halves. -/
def halves (bs : List Byte) : List (BitVec 4) := bs.flatMap fun b => [b.extractLsb' 0 4, b.extractLsb' 4 4]
def joinHalves (odd : BitVec 4) : List (BitVec 4) → List Byte
  | [] => []
  | [x] => [odd ++ x]
  | x :: y :: r => (y ++ x) :: joinHalves odd r

/-- The elements that a reduction works on: BFP8 elements are decoded to FP32 (R110). -/
def collElems (ty : Ty) (n : Nat) (bs : List Byte) : List Nat :=
  if ty = .bfp8 then
    (List.range n).map fun k =>
      ((rawOf (operandValue .bfp8 (bytesAt bs k 1) (bytesAt bs (n + k / 32 * 2) 1) (bytesAt bs (n + k / 32 * 2 + 1) 1))).round
        .f32 .rne).bits
  else (List.range n).map fun k => bytesAt bs (k * ty.bytes) ty.bytes

/-- The bytes of reduced elements: BFP8 blocks are encoded (R111). -/
def collEncode (ty : Ty) (xs : List Nat) : List Byte :=
  if ty = .bfp8 then
    let vals := xs.map FFmt.f32.value
    let pairs := (List.range (xs.length / 32)).map fun b => bfpPair false ((vals.drop (32 * b)).take 32)
    let elems := xs.mapIdx fun k x =>
      let p := pairs.getD (k / 32) (0, 0)
      BitVec.ofNat 8 (bfpEncode false p.1 p.2 .rne (bitsAt x 31 1 == 1) (FFmt.f32.value x)).bits
    elems ++ pairs.flatMap fun p => [BitVec.ofNat 8 p.1, BitVec.ofNat 8 p.2]
  else xs.flatMap fun x => bytesOf ty.bytes x

/-- One combination of two elements. -/
def collCombine (o : CollOpnd) (a b : Nat) : Nat :=
  let ty := if o.ty = .bfp8 then Ty.f32 else o.ty
  match o.op with
  | .sum => rmw .add ty a b
  | .max => rmw .max ty a b
  | .min => rmw .min ty a b

/-- One level of the pairwise tree: neighbours combine, from the left or from the right. -/
def pairUp (f : Nat → Nat → Nat) : List Nat → List Nat
  | a :: b :: r => f a b :: pairUp f r
  | r => r

def treeReduce (f : Nat → Nat → Nat) (left : Nat → Bool) : Nat → List Nat → Nat
  | 0, xs => xs.headD 0
  | n + 1, xs =>
    if xs.length ≤ 1 then xs.headD 0
    else
      let ys := if left n || xs.length % 2 = 0 then pairUp f xs else xs.headD 0 :: pairUp f (xs.drop 1)
      treeReduce f left n ys

/-- A number for the placement of a group, on which the shape of the tree depends (R293). -/
def Group.placement (g : Group) : Nat := g.d.members.foldl (fun x m => x * 2 ^ 22 + m.pkg * 8 + m.frame + 1) 0

/-- The reduction of one element over the ranks, in the order of the operation (R293). -/
def collReduce (g : Group) (o : CollOpnd) (xs : List Nat) : Nat :=
  match o.order with
  | .canonical => (xs.drop 1).foldl (collCombine o) (xs.headD 0)
  | _ => treeReduce (collCombine o) (fun k => Config.treeShape g.placement k) xs.length xs

/-- The contributions in ascending rank. -/
def Binding.ranked (b : Binding) (m : Nat) : List (List Byte) :=
  (List.range m).map fun r => ((b.contribs.find? fun x => x.1 == r).map Prod.snd).getD []

/-- BFP4 elements of several members, one after another. DESIGN CHOICE (log 89): of an odd number of them, the other half of
the last byte is a free value. -/
def Binding.halfResult (b : Binding) (rank : Nat) (cs : List (List Byte)) : List Byte :=
  joinHalves (Config.oddHalf b.num rank) (cs.flatMap fun x => (halves x).take b.count)

/-- The bytes that a member's destination receives. -/
def Binding.result (b : Binding) (g : Group) (rank : Nat) : List Byte :=
  let m := g.d.members.length
  let cs := b.ranked m
  let reduced := fun (n : Nat) =>
    let es := cs.map (collElems b.c.ty n)
    (List.range n).map fun k => collReduce g b.c (es.map fun e => e.getD k 0)
  match b.c.kind with
  | .bcast => if b.c.ty = .bfp4 then b.halfResult rank [cs.getD b.root []] else cs.getD b.root []
  | .allreduce | .reduce => collEncode b.c.ty (reduced b.count)
  | .redscat => collEncode b.c.ty (((reduced (m * b.count)).drop (rank * b.count)).take b.count)
  | .allgather =>
    if b.c.ty = .bfp4 then b.halfResult rank cs
    else cs.flatMap (fun x => x.take (b.count * b.c.ty.bytes)) ++ cs.flatMap (fun x => x.drop (b.count * b.c.ty.bytes))
  | .barrier => []

/-! ### Start, contribution, failure (R159, R162, R163, R295) -/

/-- The reductions that a switch may perform (R163). -/
def Binding.inSwitch (b : Binding) : Bool :=
  (b.c.kind == .allreduce || b.c.kind == .reduce || b.c.kind == .redscat) && b.c.order == .any &&
    (b.c.op == .max || (b.c.op == .sum && (b.c.ty == .f32 || b.c.ty == .bf16 || b.c.ty == .bfp8))) && Config.inSwitch b.num

/-- The number before this one has started on the device of a member (R159). A retired number counts as started, but not
the ones before it. -/
def State.prevStarted : Nat → State → GroupMember → Option Nat → Bool
  | 0, _, _, _ => true
  | n + 1, s, m, prev =>
    match prev.bind s.binding? with
    | none => true
    | some p =>
      match s.group? p.group with
      | none => true
      | some g =>
        let ranks := g.onDevice m
        ranks.any p.started.contains || (p.retired && State.prevStarted n s m (ranks.head?.bind fun r => (p.prev[r]?).join))

/-- The source of the accesses of a collective (R160): itself. -/
def collPort (c : CtxId) (num : Nat) : Source := .engine c (8 + num)

/-- A fault of a source: this member fails, and the others lose the number (R295). -/
def State.sourceFault (s : State) (b : Binding) (r : Registration) (rank : Nat) (t : Trap) : State :=
  let s := s.setReg { r with out := some (collFault t) }
  let b := { b with started := if b.started.contains rank then b.started else b.started ++ [rank] }
  s.setBinding (if b.inSwitch then { b with retired := true, cause := 6 } else { b with retired := true })

/-- A member has issued a number: it has registered and holds the binding. -/
def State.issuedBy (s : State) (g : Group) (b : Binding) (rank : Nat) : Bool :=
  b.received.contains rank && (!g.here rank || (s.regOf b rank).isSome)

/-- Does a binding start on a member now (R159, R161): it is not retired, every member has issued it (log 89), and the
number before it has started on the member's device. -/
def State.mayStart (s : State) (g : Group) (b : Binding) (rank : Nat) : Bool :=
  !b.retired && !b.started.contains rank && ((List.range g.d.members.length).all (s.issuedBy g b)) &&
    (g.d.members[rank]?).any fun m => State.prevStarted (s.swarm.binds.length + 1) s m (b.prev[rank]?).join

/-- A start: the reads of the sources issue. -/
def State.startReads (s : State) (b : Binding) (r : Registration) (c : Ctx) (rank n : Nat) : Out :=
  match s.collParts c .read b.c.ty r.src n with
  | .error t => .next (s.sourceFault b r rank t)
  | .ok ps =>
    match s.absentPart (ps.map Prod.fst) with
    | some f => .fault (.absentStack f)
    | none =>
      let s := (s.updCtx r.cid fun c => c.charge (ps.map Prod.fst)).tlbTouch c (ps.map Prod.fst)
      .next ((s.ioSendReads (collPort r.cid b.num) r.op (collBytes b.c.ty n) ps).setBinding
        { b with started := b.started ++ [rank] })

def execEvCollectiveStart (num rank : Nat) (s : State) : Out :=
  match s.binding? num with
  | none => .next s
  | some b =>
    match s.group? b.group with
    | none => .next s
    | some g =>
      if !s.mayStart g b rank then .next s
      else if !g.here rank then .next (s.setBinding { b with started := b.started ++ [rank] })
      else
        match s.regOf b rank with
        | none => .next s
        | some r =>
          match s.ctx? r.cid with
          | none => .next s
          | some c => s.startReads b r c rank (b.sends g.d.members.length rank)

/-- The contribution of a member goes to a switch, or to another package: over a Valtia Link (R163, R362). -/
def Group.overLink (g : Group) (b : Binding) : Bool :=
  b.inSwitch || (List.range g.d.members.length).any fun k => !g.here k

/-- The link that carries the contribution of a member is up. DESIGN CHOICE (log 97): which of the 24 links it is, is a free
value. -/
def State.valtiaUp (s : State) (g : Group) (b : Binding) (rank : Nat) : Bool :=
  !g.overLink b || (s.link (6 + Config.collLink b.num rank % 24)).up

/-- T_g of a binding's group, in ns. -/
def State.tgOf (s : State) (b : Binding) : Nat := ((s.group? b.group).map fun g => g.d.tg * 1000).getD 0

/-- T_g has passed since the first contribution: a switch takes no more (R163). -/
def State.tooLate (s : State) (b : Binding) : Bool := b.inSwitch && b.firstAt.any fun t => decide (t + s.tgOf b ≤ s.now)

/-- The contribution of a member has arrived; a member in another package sends its bytes over a Valtia Link. -/
def State.arrive (s : State) (b : Binding) (rank : Nat) (bs : List Byte) : State :=
  s.setBinding { b with
    contribs := b.contribs ++ [(rank, bs)], arrived := b.arrived ++ [rank], firstAt := b.firstAt <|> some s.now }

def execEvContributionArrival (num rank : Nat) (s : State) : Out :=
  match s.binding? num with
  | none => .next s
  | some b =>
    match s.group? b.group with
    | none => .next s
    | some g =>
      if b.retired || b.arrived.contains rank || !b.started.contains rank || s.tooLate b || !s.valtiaUp g b rank then .next s
      else if !g.here rank then
        let n := collBytes b.c.ty (b.sends g.d.members.length rank)
        .next (s.arrive b rank ((List.range n).map (Config.remoteByte num rank)))
      else
        match s.regOf b rank with
        | none => .next s
        | some r =>
          let src := collPort r.cid num
          if !s.ioRead? src r.op then .next s
          else
            match s.ioBad src r.op with
            | some t => .next ((s.ioDrop src r.op).sourceFault b r rank t)
            | none => .next ((s.ioDrop src r.op).arrive b rank (s.ioBytes src r.op))

/-- Every contribution of a binding has arrived. -/
def State.allArrived (s : State) (b : Binding) : Bool :=
  (s.group? b.group).any fun g => (List.range g.d.members.length).all b.arrived.contains

/-- The sequencer retires the earliest number whose T_g has passed (R161, R162). -/
def execEvTgTimeout (num : Nat) (s : State) : Out :=
  let late := fun (b : Binding) => !s.finished b && b.time + s.tgOf b ≤ s.now
  match s.swarm.binds.find? late with
  | none => .next s
  | some b =>
    if b.num ≠ num || !b.written.isEmpty then .next s else .next (s.setBinding { b with retired := true })

/-- A cancel record reaches a member: a member's request retires the number unless a destination write has begun
(R162, R286). -/
def execEvCancelRecord (num rank : Nat) (s : State) : Out :=
  match s.binding? num with
  | none => .next s
  | some b =>
    let far := (s.group? b.group).any fun g => (List.range g.d.members.length).any fun x => !g.here x
    let asked := (s.swarm.regs.any fun r => r.group == b.group && r.k == b.k && r.cancel) || (far && Config.remoteCancel num)
    if b.reached.contains rank || !(b.retired || (asked && b.written.isEmpty)) then .next s
    else .next (s.setBinding { b with retired := true, reached := b.reached ++ [rank] })

/-- The contributor bitmap of R163. -/
def Binding.bitmap (b : Binding) : Nat := (b.arrived.eraseDups.map fun r => 2 ^ r).sum

/-- A contributor that has not been heard of fails: its context is gone, it is in another package and fails there, or the
Valtia Link of its bytes has failed (R163, R362). -/
def State.contributorLost (s : State) (b : Binding) (rank : Nat) : Bool :=
  !b.arrived.contains rank && (s.group? b.group).any fun g =>
    !s.valtiaUp g b rank ||
      if g.here rank then (s.regOf b rank).any fun r => (s.ctx? r.cid).isNone else Config.remoteFails b.num rank

/-- What makes a switch give up (R163): a contributor fails, or T_g passes after the first contribution. -/
def State.switchFails (s : State) (b : Binding) : Bool :=
  s.tooLate b || (s.group? b.group).any fun g => (List.range g.d.members.length).any (s.contributorLost b)

/-- A switch discards a partial result (R163). -/
def execEvSwitchFailure (num bitmap : Nat) (s : State) : Out :=
  match s.binding? num with
  | none => .next s
  | some b =>
    if b.retired || !b.inSwitch || s.allArrived b || !s.switchFails b || bitmap ≠ b.bitmap then .next s
    else .next (s.setBinding { b with retired := true, cause := 6 })

/-! ### The outcome at a member (R294, R295) -/

/-- The words of a DONE or CANCELLED collective. -/
def Binding.words (b : Binding) : Word × Word := (BitVec.ofNat 64 b.num, BitVec.ofNat 64 b.k)

/-- The registration is over and its handle resolves. -/
def State.endColl (s : State) (r : Registration) (x : HState × Word × Word) : State :=
  (({ s with swarm := { s.swarm with regs := s.swarm.regs.filter fun y => y.op != r.op } }).dropCollEntry r).resolveOp
    r.op x.1 x.2.1 x.2.2 true

/-- Destination writes, or the bitmap, of a member begin: they issue (R163, R292). One that finds no room in the dirty log waits,
and its registration says so (R349). -/
def State.collWrites (s : State) (b : Binding) (r : Registration) (c : Ctx) (ps : List (Part × Nat)) (bs : List Byte) : State :=
  let parts := ps.map Prod.fst
  match State.dirtyParts c parts (s.tlbTouch c parts) with
  | none => s.setReg { r with held := true }
  | some s =>
    (((s.setReg { r with held := false }).updCtx c.cid fun c => c.charge parts).ioSendWrites (collPort r.cid b.num) r.op
      (partData bs ps)).setBinding { b with written := b.written ++ [r.rank] }

/-- The bitmap is written to the status area of a member that has one (R163, R294). DESIGN CHOICE (log 76): when its address
faults, the write is dropped, and the handle resolves as it would have. `none`: it cannot be made now. -/
def State.writeBitmap (s : State) (c : Ctx) (r : Registration) (b : Binding) (m : Nat) : Option State :=
  let n := (m + 7) / 8
  let drop := s.setBinding { b with written := b.written ++ [r.rank] }
  if r.status = 0 then some drop
  else
    match s.placeAt c.asUnit .write r.status n with
    | .error _ => some drop
    | .ok ps =>
      if (s.absentPart ps).isSome then some drop else some (s.collWrites b r c (fromHere 0 ps) (bytesOf n b.bitmap))

/-- The destination writes of a member; a fault ends it there. `none`: they cannot be made now. -/
def State.deliverColl (s : State) (g : Group) (b : Binding) (r : Registration) (c : Ctx) : Option State :=
  let fail := fun (t : Trap) => some ((s.setBinding { b with written := b.written ++ [r.rank] }).endColl r (collFault t))
  match s.collParts c .write b.c.ty r.dst (b.receives g.d.members.length r.rank) with
  | .error t => fail t
  | .ok ps =>
    if (s.absentPart (ps.map Prod.fst)).isSome then none else some (s.collWrites b r c ps (b.result g r.rank))

/-- The writes of a member have been acknowledged, and its handle resolves (R165). -/
def State.collOver (s : State) (b : Binding) (r : Registration) : Option State :=
  let src := collPort r.cid b.num
  if !s.ioOver src r.op then none
  else
    let bad := s.ioBad src r.op
    let s := s.ioDrop src r.op
    some (s.endColl r (if b.cause = 6 then collCause 6
      else match bad with
        | some t => collFault t
        | none => (.done, b.words.1, b.words.2)))

/-- The outcome of a registration, if it is decided: its next step. -/
def State.resolveColl (s : State) (r : Registration) : Option State :=
  match r.out with
  | some x => some (s.endColl r x)
  | none =>
    match s.swarm.binds.find? (fun b => b.group == r.group && b.k == r.k), s.group? r.group, s.ctx? r.cid with
    | some b, some g, some c =>
      if !b.received.contains r.rank then none
      else if b.written.contains r.rank then s.collOver b r
      else if b.cause = 5 then some (s.endColl r (collCause 5))
      else if b.cause = 6 then s.writeBitmap c r b g.d.members.length
      else if b.retired then
        if b.reached.contains r.rank then some (s.endColl r (.cancelled, b.words.1, b.words.2)) else none
      else if s.allArrived b && b.started.contains r.rank then s.deliverColl g b r c
      else none
    | _, _, _ => none

/-! ### The sequencer service (R364, R365) -/

def execEvSequencerHeartbeat (s : State) : Out :=
  if s.swarm.lastBeat + 10000 ≤ s.now then .next { s with swarm := { s.swarm with lastBeat := s.now } } else .next s

/-- A standby takes over, 50 µs after the last heartbeat of the sequencer or of a standby before it, which is then silent as
well; registrations without a reply must be sent again, and the hub of its package announces the takeover on lane 14. DESIGN
CHOICE (log 58): the die number of the hub is 10. -/
def execEvSequencerFailover (n : Nat) (s : State) : Out :=
  if !s.swarm.standbys.contains n || s.now < s.swarm.lastBeat + 50000 then .next s
  else
    let lost := fun (r : Registration) => !(s.swarm.binds.any fun b => b.group == r.group && b.k == r.k)
    let mark := (s.swarm.next + 2 ^ 48 - 1) % 2 ^ 48
    let x : Cand := ⟨14, 0xC10, BitVec.ofNat 64 mark, 10, 0, 0, n, s.now, false, 0⟩
    .next { s with
      swarm := { s.swarm with
        standbys := (s.swarm.standbys.dropWhile fun k => k != n).drop 1, lastBeat := s.now,
        regs := updateAll lost (fun r => { r with sent := false }) s.swarm.regs },
      plane := { s.plane with cands := s.plane.cands ++ if Config.standbyPackage n = Config.package then [x] else [] } }

/-- Firmware names a replacement standby; there are two at most. -/
def execEvStandbyReplacement (n : Nat) (s : State) : Out :=
  if 2 ≤ s.swarm.standbys.length || s.swarm.standbys.contains n then .next s
  else .next { s with swarm := { s.swarm with standbys := s.swarm.standbys ++ [n] } }

/-- A group is created (R161, R350, R365): a new identifier of 32 bits, members of one partition, and T_g from 10 µs to 10 s. -/
def execEvGroupCreate (d : GroupDef) (s : State) : Out :=
  let apart := d.members.any fun m => m.pkg == Config.package && (s.frameRec m.frame).partition != d.partition
  if (s.group? d.id).isSome || 2 ^ 32 ≤ d.id || d.members.isEmpty || apart || d.tg < 10 || 10000000 < d.tg then .next s
  else .next { s with swarm := { s.swarm with groups := s.swarm.groups ++ [⟨d, List.replicate d.members.length 0⟩] } }

end Sys2Proof.Machine
end

