-- ==== Sys2Proof/Machine/EngineEvents.lean ====
section
/-!
DEFINITION. The beginning of an engine queue entry (R97, R98) and the resolution of its handle (R54, R99).
-/
namespace Sys2Proof.Machine

/-- The oldest entry of a queue begins once every earlier operation of its context has been acknowledged; a fabric
instruction takes the head of its queue by itself (R280). DESIGN CHOICE (log 98): an entry that has not begun when its
context is saved begins after the context has been loaded. -/
def State.beginEntry (s : State) (c : Ctx) (q : Nat) (e : Entry) : Option State :=
  match e.work with
  | .fence id mask => if c.fenceOver id mask then some (s.updCtx c.cid fun c => c.dropFence id) else none
  | .coll o => if c.ackedBelow e.seq then some (s.beginColl c e o) else none
  | .fabric _ => none
  | _ =>
    if c.ackedBelow e.seq then
      some (s.updCtx c.cid fun c => c.setEntry q e.op fun e => { e with course := .begun })
    else none

def execEvEngineEntryBegin (cid : CtxId) (q : Nat) (s : State) : Out :=
  match s.ctx? cid with
  | none => .next s
  | some c =>
    match (c.queue q).head? with
    | none => .next s
    | some e =>
      if !c.resident || e.course != .waiting then .next s
      else
        match s.beginEntry c q e with
        | none => .next s
        | some s => .next s

/-- A sample whose handle has not been read (R140). -/
def Entry.isSample (e : Entry) : Bool :=
  match e.work with
  | .fabric (.sample _ _ _ _ _) => true
  | _ => false

/-- The words of an entry whose work is over. -/
def Entry.outcome (e : Entry) : Option (HState × Word × Word) :=
  match e.course with
  | .done st res det => some (st, res, det)
  | _ => none

/-- The first entry of a queue whose work is over. -/
def Ctx.doneEntry (c : Ctx) (q : Nat) : Option Entry := (c.queue q).find? fun e => e.outcome.isSome

/-- The handle of a finished entry resolves; without one, a collective of the context takes its next step. -/
def execEvHandleResolve (cid : CtxId) (q : Nat) (s : State) : Out :=
  match s.ctx? cid with
  | none => .next s
  | some c =>
    match (c.doneEntry q).bind fun e => e.outcome.map fun x => (e, x) with
    | some (e, x) =>
      let s := s.updCtx cid fun c => c.mapQ q fun es => es.filter fun y => y.op != e.op
      .next (s.resolveOp e.op x.1 x.2.1 x.2.2 !e.isSample).dropLingering
    | none =>
      if q ≠ 6 then .next s
      else
        match (s.swarm.regs.filter fun r => r.cid == cid).findSome? s.resolveColl with
        | none => .next s
        | some s => .next s.dropLingering

end Sys2Proof.Machine
end

