-- ==== Sys2Proof/Machine/Transcend.lean ====
section
/-!
DEFINITION. Exponentials, logarithms and the hyperbolic tangent (R226, R239), and the estimates (R227). A function is
evaluated in fixed point with 512 fraction bits, which is far more than the operand that lies nearest to a tie of any
format needs (log 10); the leading bits and a sticky bit are those of the exact value, which is then rounded once.
-/
namespace Sys2Proof.Machine

/-- Fraction bits of the fixed-point numbers. -/
def fxBits : Nat := 512
def fxOne : Int := (2 ^ fxBits : Nat)
/-- Bound on the accumulated error of one evaluation, in units of the last place. -/
def fxErr : Int := (2 ^ 24 : Nat)

/-- ⌊ln 2 × 2^512⌋. -/
def ln2Fx : Int :=
  0xb17217f7d1cf79abc9e3b39803f2f6af40f343267298b62d8a0d175b8baafa2be7b876206debac98559552fb4afa1b10ed2eae35c138214427573b291169b825

/-- ±m × 2^e in fixed point, rounded down. -/
def toFx (neg : Bool) (m : Nat) (e : Int) : Int :=
  let k : Int := if 0 ≤ e + fxBits then (m <<< (e + fxBits).toNat : Nat) else (m >>> (-(e + fxBits)).toNat : Nat)
  if neg then -k else k

/-- The terms of Σ r^n / n! from term `n` on. -/
def expTerms : Nat → Nat → Int → Int → Int
  | 0, _, _, _ => 0
  | fuel + 1, n, term, r => term + expTerms fuel (n + 1) (term * r / (fxOne * (n + 1 : Nat))) r

/-- e^r for 0 ≤ r < 1. -/
def expFx (r : Int) : Int := expTerms 150 0 fxOne r

/-- e^x as k and s with e^x = s × 2^k, 1 ≤ s < 2 up to the error bound. -/
def expSplit (x : Int) : Int × Int :=
  let k := x / ln2Fx
  (k, expFx (x - k * ln2Fx))

/-- The terms of Σ z^(2n+1) / (2n+1). -/
def atanhTerms : Nat → Nat → Int → Int → Int
  | 0, _, _, _ => 0
  | fuel + 1, n, pw, z2 => pw / (2 * n + 1 : Nat) + atanhTerms fuel (n + 1) (pw * z2 / fxOne) z2

/-- m × 2^e as y × 2^k with 3/4 ≤ y < 3/2: k, and ln y in fixed point. -/
def lnSplit (m : Nat) (e : Int) : Int × Int :=
  let l := Nat.log2 m
  let l := if 3 * 2 ^ l ≤ 2 * m then l + 1 else l
  let z := ((m : Int) - (2 ^ l : Nat)) * fxOne / ((m : Int) + (2 ^ l : Nat))
  (e + l, 2 * atanhTerms 120 0 z (z * z / fxOne))

/-- The leading bits of a value that is not exact, scaled by 2^sc, from a lower bound of it; `p` + 40 of them. PRESUMED (log
10): no bound between the lower one and the value is a number of so few bits. -/
def ofLower (p : Nat) (neg : Bool) (lo sc : Int) : Raw :=
  let s := Nat.log2 lo.toNat - (p + 40)
  .ex ⟨neg, lo.toNat >>> s, sc + s, true⟩

/-- Functions of R226 and R227. -/
inductive Fn
  | exp | log | exp2 | log2 | tanh | rcp | rsqrt | sigm
  deriving DecidableEq, Repr

def Fn.code : Fn → Nat
  | .exp => 0 | .log => 1 | .exp2 => 2 | .log2 => 3 | .tanh => 4 | .rcp => 5 | .rsqrt => 6 | .sigm => 7

/-- Values far beyond every format, above and below. -/
def rawHuge : Raw := .ex ⟨false, 2 ^ 200, 4000, true⟩
def rawTiny : Raw := .ex ⟨false, 2 ^ 200, -5000, true⟩

/-- |m × 2^e| ≥ 2^k, for m > 0. -/
def atLeast (m : Nat) (e k : Int) : Bool := decide (k ≤ (Nat.log2 m : Int) + e)

/-- e^x or 2^x. -/
def rawExp (two : Bool) (p : Nat) : FVal → Raw
  | .nan s => .nan s
  | .inf n => if n then Raw.zero false else .inf false false
  | .fin n m e =>
    if m = 0 then Raw.one false
    else if atLeast m e 12 then (if n then rawTiny else rawHuge)
    else if two && (0 ≤ e || m % 2 ^ (-e).toNat = 0) then
      let k : Int := (if 0 ≤ e then m <<< e.toNat else m >>> (-e).toNat : Nat)
      .ex ⟨false, 1, if n then -k else k, false⟩
    else if !atLeast m e (-400) then
      (if n then .ex ⟨false, 2 ^ 300 - 1, -300, true⟩ else .ex ⟨false, 2 ^ 300, -300, true⟩)
    else
      let x := toFx n m e
      let ks := if two then (x / fxOne, expFx ((x % fxOne) * ln2Fx / fxOne)) else expSplit x
      ofLower p false (ks.2 - fxErr) (ks.1 - fxBits)

/-- ln x or log2 x. -/
def rawLog (two : Bool) (p : Nat) : FVal → Raw
  | .nan s => .nan s
  | .inf n => if n then .nan true else .inf false false
  | .fin n m e =>
    if m = 0 then .inf true true
    else if n then .nan true
    else
      let kl := lnSplit m e
      if kl.2 = 0 && (two || kl.1 = 0) then .ex ⟨decide (kl.1 < 0), kl.1.natAbs, 0, false⟩
      else
        let v := if two then kl.1 * fxOne + kl.2 * fxOne / ln2Fx else kl.1 * ln2Fx + kl.2
        ofLower p (decide (v < 0)) ((v.natAbs : Int) - fxErr) (-fxBits)

/-- tanh x (R226). -/
def rawTanh (p : Nat) : FVal → Raw
  | .nan s => .nan s
  | .inf n => Raw.one n
  | .fin n m e =>
    if m = 0 then Raw.zero n
    else if atLeast m e 6 then .ex ⟨n, 2 ^ 128 - 1, -128, true⟩
    else if !atLeast m e (-64) then .ex ⟨n, m * 2 ^ 128 - 1, e - 128, true⟩
    else
      let ks := expSplit (2 * toFx false m e)
      let t := (ks.2 - fxErr) * (2 ^ ks.1.toNat : Nat)
      ofLower p n ((t - fxOne) * fxOne / (t + fxOne)) (-fxBits)

/-- 1 ÷ √x, for the estimate (R227). -/
def rawRsqrt (p : Nat) : FVal → Raw
  | .nan s => .nan s
  | .inf n => if n then .nan true else Raw.zero false
  | .fin n m e =>
    if m = 0 then .inf n true
    else if n then .nan true
    else
      let odd := e % 2 != 0
      let m := if odd then 2 * m else m
      let e := if odd then e - 1 else e
      let k := p + 40 + Nat.log2 m
      .ex ⟨false, natSqrt (2 ^ (2 * k) / m), -(e / 2) - k, true⟩

/-- 1 ÷ (1 + e^−x), for the estimate (R227). -/
def rawSigm (p : Nat) : FVal → Raw
  | .nan s => .nan s
  | .inf n => if n then Raw.zero false else Raw.one false
  | .fin n m e =>
    if m ≠ 0 && atLeast m e 8 then (if n then rawTiny else .ex ⟨false, 2 ^ 128 - 1, -128, true⟩)
    else
      let ks := expSplit (-toFx n m e)
      let t := if 0 ≤ ks.1 then ks.2 * (2 ^ ks.1.toNat : Nat) else ks.2 / (2 ^ (-ks.1).toNat : Nat)
      let q := fxOne * fxOne / (fxOne + t)
      ofLower p false (q - fxErr) (-fxBits)

/-- The exact value of a function at a value (R226, R227), to `p` + 40 leading bits. -/
def rawFn (f : Fn) (p : Nat) (v : FVal) : Raw :=
  match f with
  | .exp => rawExp false p v
  | .exp2 => rawExp true p v
  | .log => rawLog false p v
  | .log2 => rawLog true p v
  | .tanh => rawTanh p v
  | .rcp => rawDiv p (.fin false 1 0) v
  | .rsqrt => rawRsqrt p v
  | .sigm => rawSigm p v

/-- A correctly rounded function (R226, R239). -/
def fnRounded (f : Fn) (fmt : FFmt) (mode : RMode) (x : Nat) : FRes := (rawFn f fmt.fbits (fmt.value x)).round fmt mode

/-! ### Estimates (R227) -/

/-- f − bound or f + bound: relative 2^−12 or absolute 2^−12. -/
def estEnd (rel up : Bool) (x : Ex) : Ex :=
  if rel then ⟨x.neg, x.m * (if up == x.neg then 4095 else 4097), x.e - 12, x.st⟩
  else
    let e0 := min x.e (-12)
    let k := scaled x.neg x.m x.e e0 + (if up then 1 else -1) * scaled false 1 (-12) e0
    ⟨decide (k < 0), k.natAbs, e0, x.st⟩

/-- The value of a magnitude, and the next magnitude of so many bits. -/
def Ex.val (x : Ex) : FVal := .fin x.neg x.m x.e
def Ex.above (x : Ex) : Ex := if x.st then ⟨x.neg, x.m + 1, x.e, false⟩ else x

/-- A value lies within the bound of the exact value that `x` begins. -/
def estHolds (rel : Bool) (x : Ex) (c : FVal) : Bool :=
  let low := if x.neg then x.above else x
  let high := if x.neg then x else x.above
  cmpVal (estEnd rel false high).val c != .gt && cmpVal c (estEnd rel true low).val != .gt

/-- A value lies between the values of a type next to the ends of the bound. -/
def estNear (rel : Bool) (fmt : FFmt) (x : Ex) (c : FVal) : Bool :=
  let at_ := fun up => fmt.value (roundTo fmt .rne (estEnd rel up x)).bits
  cmpVal (at_ false) c != .gt && cmpVal c (at_ true) != .gt

/-- Bits of the exact value to which an estimate's bound is measured. -/
def estBits : Nat := 300

/-- An estimate: the implementation's value when it lies within the bound, measured on the exact value, else the nearest
value; where a type has no value within the bound, a value next to the bound stands for it (log 9). Flags IV, DZ and OF
only. -/
def fnEstimate (f : Fn) (t : Ty) (x : Nat) : FRes :=
  let fmt := Ty.fmt t
  match rawFn f estBits (fmt.value x) with
  | .ex v =>
    let near := roundTo fmt .rne v
    let special := v.m = 0 || ((fmt.value x).isZero && f != .sigm) || match fmt.value x with | .inf _ => true | _ => false
    if (roundTo fmt (if v.neg then .rdn else .rup) v).flags.getLsbD 2 then ⟨(if v.neg then fmt.signBit else 0) + fmt.infBits, fOF⟩
    else if special then ⟨near.bits, 0⟩
    else
      let rel := f == .rcp || f == .rsqrt || f == .exp
      let c := Config.estimate f.code t.code.toNat x % 2 ^ fmt.width
      match fmt.value c with
      | .fin _ _ _ =>
        if if estHolds rel v (fmt.value near.bits) then estHolds rel v (fmt.value c) else estNear rel fmt v (fmt.value c)
        then ⟨c, 0⟩ else ⟨near.bits, 0⟩
      | _ => ⟨near.bits, 0⟩
  | r => r.round fmt .rne

end Sys2Proof.Machine
end

