-- ==== Sys2Proof/Machine/Scalar.lean ====
section
/-!
DEFINITION. The integer families, majors 0x10 to 0x19 and 0x20 to 0x25 (R193 to R206), and `nop` (R190).
-/
namespace Sys2Proof.Machine

/-! ### Shapes (R193): operands prepared, the operation on mathematical integers, the result extended by type -/

/-- Two sources; `f` gets the prepared 64-bit values. -/
def gbin (lat : Nat) (f : Ty → Nat → Nat → Int) (h : Hdr) (o : GBin) (s : State) : Out :=
  whole h (fun c =>
    c.resG o.d lat (extByType o.ty (f o.ty (c.regs.gs o.a).toNat (c.regs.gs o.b).toNat))) s

def gun (lat : Nat) (f : Ty → Nat → Int) (h : Hdr) (o : GUn) (s : State) : Out :=
  whole h (fun c => c.resG o.d lat (extByType o.ty (f o.ty (c.regs.gs o.a).toNat))) s

/-- Three sources; c is a g register. -/
def gtri (lat : Nat) (f : Ty → Nat → Nat → Nat → Int) (h : Hdr) (o : GTri) (s : State) : Out :=
  whole h (fun c =>
    c.resG o.d lat (extByType o.ty
      (f o.ty (c.regs.gs o.a).toNat (c.regs.gs o.b).toNat (c.regs.rg o.c).toNat))) s

/-- The immediate form of a register form (R204): b = sext(imm32, 32). -/
def gimm (lat : Nat) (f : Ty → Nat → Nat → Int) (h : Hdr) (o : GImm) (s : State) : Out :=
  whole h (fun c =>
    c.resG o.d lat (extByType o.ty (f o.ty (c.regs.gs o.a).toNat (o.imm.signExtend 64).toNat))) s

/-- A mask of all lanes when the relation holds (R199). -/
def allOrNone (b : Bool) : MWord := if b then 0xFFFFFFFF else 0

def mcmp (f : Ty → Nat → Nat → Bool) (h : Hdr) (o : MCmp) (s : State) : Out :=
  whole h (fun c =>
    c.resM o.d 1 (allOrNone (f o.ty (c.regs.gs o.a).toNat (c.regs.gs o.b).toNat))) s

def mimm (f : Ty → Nat → Nat → Bool) (h : Hdr) (o : MImm) (s : State) : Out :=
  whole h (fun c =>
    c.resM o.d 1 (allOrNone (f o.ty (c.regs.gs o.a).toNat (o.imm.signExtend 64).toNat))) s

/-! ### Operations on the low w bits -/

/-- The low w bits, read by type. -/
def opAdd (t : Ty) (a b : Nat) : Int := intOf t a + intOf t b
def opSub (t : Ty) (a b : Nat) : Int := intOf t a - intOf t b
def opRsub (t : Ty) (a b : Nat) : Int := intOf t b - intOf t a
def opNeg (t : Ty) (a : Nat) : Int := -intOf t a
def opAbs (t : Ty) (a : Nat) : Int := if t.signed then |intOf t a| else intOf t a
def opAdd3 (t : Ty) (a b c : Nat) : Int := intOf t a + intOf t b + intOf t c
def opAnd (_ : Ty) (a b : Nat) : Int := ((a &&& b : Nat) : Int)
def opOr (_ : Ty) (a b : Nat) : Int := ((a ||| b : Nat) : Int)
def opXor (_ : Ty) (a b : Nat) : Int := ((a ^^^ b : Nat) : Int)
/-- ~a within 64 bits. -/
def flip64 (a : Nat) : Nat := a ^^^ (2 ^ 64 - 1)
def opAndn (_ : Ty) (a b : Nat) : Int := ((a &&& flip64 b : Nat) : Int)
def opOrn (_ : Ty) (a b : Nat) : Int := ((a ||| flip64 b : Nat) : Int)
def opXnor (_ : Ty) (a b : Nat) : Int := ((flip64 (a ^^^ b) : Nat) : Int)
def opNot (_ : Ty) (a : Nat) : Int := ((flip64 a : Nat) : Int)

/-- The amount of a shift: b mod w, read as unsigned (R196). -/
def shAmt (t : Ty) (b : Nat) : Nat := b % t.bits
def cutTo (t : Ty) (a : Nat) : Nat := a % 2 ^ t.bits
def opShl (t : Ty) (a b : Nat) : Int := ((cutTo t a <<< shAmt t b : Nat) : Int)
def opShr (t : Ty) (a b : Nat) : Int := ((cutTo t a >>> shAmt t b : Nat) : Int)
/-- Copies of bit w − 1 enter whatever the type. -/
def opSar (t : Ty) (a b : Nat) : Int := signedOf t.bits a / (2 ^ shAmt t b : Nat)
def opRol (t : Ty) (a b : Nat) : Int :=
  (((cutTo t a <<< shAmt t b) ||| (cutTo t a >>> (t.bits - shAmt t b)) : Nat) : Int)
def opRor (t : Ty) (a b : Nat) : Int :=
  (((cutTo t a >>> shAmt t b) ||| (cutTo t a <<< (t.bits - shAmt t b)) : Nat) : Int)

def opMul (t : Ty) (a b : Nat) : Int := intOf t a * intOf t b
/-- The high half of the product (R197). -/
def opMulh (t : Ty) (a b : Nat) : Int := (intOf t a * intOf t b) / (2 ^ t.bits : Nat)
def opMad (t : Ty) (a b c : Nat) : Int := intOf t a * intOf t b + intOf t c
/-- The quotient truncated toward zero; all ones when b = 0 (R198). -/
def opDiv (t : Ty) (a b : Nat) : Int := if intOf t b = 0 then -1 else (intOf t a).tdiv (intOf t b)
def opRem (t : Ty) (a b : Nat) : Int := if intOf t b = 0 then intOf t a else (intOf t a).tmod (intOf t b)

/-- A relation of two integers (R199). -/
def opRel (r : Rel) (t : Ty) (a b : Nat) : Bool := r.holds (compare (intOf t a) (intOf t b))
def opTst (t : Ty) (a b : Nat) : Bool := cutTo t (a &&& b) != 0
def opTstz (t : Ty) (a b : Nat) : Bool := cutTo t (a &&& b) == 0

def opSelz (t : Ty) (a b c : Nat) : Int := if cutTo t c = 0 then intOf t a else intOf t b

def opPopc (t : Ty) (a : Nat) : Int := (popCount t.bits a : Nat)
def opClz (t : Ty) (a : Nat) : Int := (leadingZeros t.bits a : Nat)
def opCtz (t : Ty) (a : Nat) : Int := (trailingZeros t.bits a : Nat)
def opBrev (t : Ty) (a : Nat) : Int := (reverseBits t.bits a : Nat)
def opBswap (t : Ty) (a : Nat) : Int := (ofBytes (bytesOf t.bytes a).reverse : Nat)
/-- Position and length of a bit field (R201). -/
def fieldPos (b : Nat) : Nat := bitsAt b 0 6
def fieldLen (b : Nat) : Nat := bitsAt b 8 6
def opBext (t : Ty) (a b : Nat) : Int :=
  let x := bitsAt (cutTo t a) (fieldPos b) (fieldLen b)
  if t.signed then signedOf (fieldLen b) x else (x : Int)
def opBins (t : Ty) (a b c : Nat) : Int :=
  let p := fieldPos b
  let n := fieldLen b
  ((bitsAt a 0 p + bitsAt c 0 n * 2 ^ p + (cutTo t a >>> (p + n)) * 2 ^ (p + n) : Nat) : Int)

def opMin (t : Ty) (a b : Nat) : Int := min (intOf t a) (intOf t b)
def opMax (t : Ty) (a b : Nat) : Int := max (intOf t a) (intOf t b)
def opClamp (t : Ty) (a b c : Nat) : Int := min (max (intOf t a) (intOf t b)) (intOf t c)

/-! ### Saturating forms (R107, R194) -/

/-- A result clamped to the range of the type. -/
def clampTo (t : Ty) (r : Int) : Int := max (intMin t.signed t.bits) (min (intMax t.signed t.bits) r)

/-- A clamped result in a register; sr.fpstat.sv says that it was clamped. -/
def Ctx.resSat (c : Ctx) (t : Ty) (d : BitVec 6) (r : Int) : Ctx :=
  let k := clampTo t r
  let c := c.resG d 1 (extByType t k)
  { c with sr := c.sr.setSv (k != r) }

def gsat (f : Ty → Nat → Nat → Int) (h : Hdr) (o : GBin) (s : State) : Out :=
  whole h (fun c => c.resSat o.ty o.d (f o.ty (c.regs.gs o.a).toNat (c.regs.gs o.b).toNat)) s

def gsatImm (f : Ty → Nat → Nat → Int) (h : Hdr) (o : GImm) (s : State) : Out :=
  whole h (fun c => c.resSat o.ty o.d (f o.ty (c.regs.gs o.a).toNat (o.imm.signExtend 64).toNat)) s

/-! ### Address formation (R203, R206) -/

/-- The address of every access through it raises the unassigned-address fault. -/
def unassignable : Word := 0xFF00000000000000

def opLcell (i o : Nat) : Word :=
  if i ≤ 8191 ∧ o ≤ 0xFFFF then BitVec.ofNat 64 (2 ^ 32 + i * 2 ^ 16 + o) else unassignable

def opLslice (i o : Nat) : Word :=
  if i ≤ 8191 ∧ o ≤ 0x1FFFF then BitVec.ofNat 64 (2 ^ 33 + i / 128 * 2 ^ 24 + i % 128 * 0x20000 + o) else unassignable

/-- A move of a 64-bit value formed from the context and the immediate (R205, R206). -/
def gmovi (f : Ctx → BitVec 32 → Word) (h : Hdr) (o : GMovI) (s : State) : Out :=
  whole h (fun c => c.resG o.d 1 (f c o.imm)) s

/-! ### Meanings -/

/-- R190: no effect. -/
def execNop (_ : Hdr) (s : State) : Out := .next s.retire

def execAdd (h : Hdr) (o : GBin) (s : State) : Out := gbin 1 opAdd h o s
def execSub (h : Hdr) (o : GBin) (s : State) : Out := gbin 1 opSub h o s
def execNeg (h : Hdr) (o : GUn) (s : State) : Out := gun 1 opNeg h o s
def execAbs (h : Hdr) (o : GUn) (s : State) : Out := gun 1 opAbs h o s
def execAdds (h : Hdr) (o : GBin) (s : State) : Out := gsat opAdd h o s
def execSubs (h : Hdr) (o : GBin) (s : State) : Out := gsat opSub h o s
def execAdd3 (h : Hdr) (o : GTri) (s : State) : Out := gtri 1 opAdd3 h o s
def execAnd (h : Hdr) (o : GBin) (s : State) : Out := gbin 1 opAnd h o s
def execOr (h : Hdr) (o : GBin) (s : State) : Out := gbin 1 opOr h o s
def execXor (h : Hdr) (o : GBin) (s : State) : Out := gbin 1 opXor h o s
def execAndn (h : Hdr) (o : GBin) (s : State) : Out := gbin 1 opAndn h o s
def execOrn (h : Hdr) (o : GBin) (s : State) : Out := gbin 1 opOrn h o s
def execXnor (h : Hdr) (o : GBin) (s : State) : Out := gbin 1 opXnor h o s
def execNot (h : Hdr) (o : GUn) (s : State) : Out := gun 1 opNot h o s
def execShl (h : Hdr) (o : GBin) (s : State) : Out := gbin 1 opShl h o s
def execShr (h : Hdr) (o : GBin) (s : State) : Out := gbin 1 opShr h o s
def execSar (h : Hdr) (o : GBin) (s : State) : Out := gbin 1 opSar h o s
def execRol (h : Hdr) (o : GBin) (s : State) : Out := gbin 1 opRol h o s
def execRor (h : Hdr) (o : GBin) (s : State) : Out := gbin 1 opRor h o s
def execMul (h : Hdr) (o : GBin) (s : State) : Out := gbin 3 opMul h o s
def execMulh (h : Hdr) (o : GBin) (s : State) : Out := gbin 3 opMulh h o s
def execMad (h : Hdr) (o : GTri) (s : State) : Out := gtri 3 opMad h o s
/-- Interlocked (R198). -/
def execDiv (h : Hdr) (o : GBin) (s : State) : Out := gbin 0 opDiv h o s
/-- Interlocked (R198). -/
def execRem (h : Hdr) (o : GBin) (s : State) : Out := gbin 0 opRem h o s
def execCeq (h : Hdr) (o : MCmp) (s : State) : Out := mcmp (opRel .eq) h o s
def execCne (h : Hdr) (o : MCmp) (s : State) : Out := mcmp (opRel .ne) h o s
def execClt (h : Hdr) (o : MCmp) (s : State) : Out := mcmp (opRel .lt) h o s
def execCle (h : Hdr) (o : MCmp) (s : State) : Out := mcmp (opRel .le) h o s
def execCgt (h : Hdr) (o : MCmp) (s : State) : Out := mcmp (opRel .gt) h o s
def execCge (h : Hdr) (o : MCmp) (s : State) : Out := mcmp (opRel .ge) h o s
def execCtst (h : Hdr) (o : MCmp) (s : State) : Out := mcmp opTst h o s
def execCtstz (h : Hdr) (o : MCmp) (s : State) : Out := mcmp opTstz h o s
/-- R200: bit 0 of a mask register chooses; m0 selects a. -/
def execSel (h : Hdr) (o : GSel) (s : State) : Out :=
  whole h (fun c =>
    c.resG o.d 1 (extByType o.ty (intOf o.ty
      (if (c.regs.rm o.c).getLsbD 0 then c.regs.gs o.a else c.regs.gs o.b).toNat))) s
def execSelz (h : Hdr) (o : GTri) (s : State) : Out := gtri 1 opSelz h o s
def execPopc (h : Hdr) (o : GUn) (s : State) : Out := gun 1 opPopc h o s
def execClz (h : Hdr) (o : GUn) (s : State) : Out := gun 1 opClz h o s
def execCtz (h : Hdr) (o : GUn) (s : State) : Out := gun 1 opCtz h o s
def execBrev (h : Hdr) (o : GUn) (s : State) : Out := gun 1 opBrev h o s
def execBswap (h : Hdr) (o : GUn) (s : State) : Out := gun 1 opBswap h o s
def execBext (h : Hdr) (o : GBin) (s : State) : Out := gbin 1 opBext h o s
def execBins (h : Hdr) (o : GTri) (s : State) : Out := gtri 1 opBins h o s
def execMin (h : Hdr) (o : GBin) (s : State) : Out := gbin 1 opMin h o s
def execMax (h : Hdr) (o : GBin) (s : State) : Out := gbin 1 opMax h o s
def execClamp (h : Hdr) (o : GTri) (s : State) : Out := gtri 1 opClamp h o s
/-- R203: a + b + c on the full 64 bits; C = 0x00 names g0. -/
def execLea (h : Hdr) (o : GTri) (s : State) : Out := gtri 1 opAdd3 h o s
def execLcell (h : Hdr) (o : GBin) (s : State) : Out :=
  whole h (fun c => c.resG o.d 1 (opLcell (c.regs.gs o.a).toNat (c.regs.gs o.b).toNat)) s
def execLslice (h : Hdr) (o : GBin) (s : State) : Out :=
  whole h (fun c => c.resG o.d 1 (opLslice (c.regs.gs o.a).toNat (c.regs.gs o.b).toNat)) s
def execAddImm (h : Hdr) (o : GImm) (s : State) : Out := gimm 1 opAdd h o s
def execSubImm (h : Hdr) (o : GImm) (s : State) : Out := gimm 1 opSub h o s
def execAddsImm (h : Hdr) (o : GImm) (s : State) : Out := gsatImm opAdd h o s
def execSubsImm (h : Hdr) (o : GImm) (s : State) : Out := gsatImm opSub h o s
def execRsub (h : Hdr) (o : GImm) (s : State) : Out := gimm 1 opRsub h o s
def execAndImm (h : Hdr) (o : GImm) (s : State) : Out := gimm 1 opAnd h o s
def execOrImm (h : Hdr) (o : GImm) (s : State) : Out := gimm 1 opOr h o s
def execXorImm (h : Hdr) (o : GImm) (s : State) : Out := gimm 1 opXor h o s
def execAndnImm (h : Hdr) (o : GImm) (s : State) : Out := gimm 1 opAndn h o s
def execOrnImm (h : Hdr) (o : GImm) (s : State) : Out := gimm 1 opOrn h o s
def execXnorImm (h : Hdr) (o : GImm) (s : State) : Out := gimm 1 opXnor h o s
def execShlImm (h : Hdr) (o : GImm) (s : State) : Out := gimm 1 opShl h o s
def execShrImm (h : Hdr) (o : GImm) (s : State) : Out := gimm 1 opShr h o s
def execSarImm (h : Hdr) (o : GImm) (s : State) : Out := gimm 1 opSar h o s
def execRolImm (h : Hdr) (o : GImm) (s : State) : Out := gimm 1 opRol h o s
def execRorImm (h : Hdr) (o : GImm) (s : State) : Out := gimm 1 opRor h o s
def execCeqImm (h : Hdr) (o : MImm) (s : State) : Out := mimm (opRel .eq) h o s
def execCneImm (h : Hdr) (o : MImm) (s : State) : Out := mimm (opRel .ne) h o s
def execCltImm (h : Hdr) (o : MImm) (s : State) : Out := mimm (opRel .lt) h o s
def execCleImm (h : Hdr) (o : MImm) (s : State) : Out := mimm (opRel .le) h o s
def execCgtImm (h : Hdr) (o : MImm) (s : State) : Out := mimm (opRel .gt) h o s
def execCgeImm (h : Hdr) (o : MImm) (s : State) : Out := mimm (opRel .ge) h o s
def execCtstImm (h : Hdr) (o : MImm) (s : State) : Out := mimm opTst h o s
def execCtstzImm (h : Hdr) (o : MImm) (s : State) : Out := mimm opTstz h o s
def execMovi (h : Hdr) (o : GMovI) (s : State) : Out := gmovi (fun _ k => k.signExtend 64) h o s
def execMovzi (h : Hdr) (o : GMovI) (s : State) : Out := gmovi (fun _ k => k.zeroExtend 64) h o s
/-- gd[63:32] := imm32; gd[31:0] unchanged (R205). -/
def execMovhi (h : Hdr) (o : GMovI) (s : State) : Out :=
  gmovi (fun c k => (k.zeroExtend 64 <<< 32) ||| (c.regs.rg o.d &&& 0xFFFFFFFF)) h o s
def execLeai (h : Hdr) (o : GImm) (s : State) : Out := gimm 1 opAdd h o s
/-- gd := P + sext(imm32, 32), P the address of the own slot (R206). -/
def execLeapc (h : Hdr) (o : GMovI) (s : State) : Out := gmovi (fun c k => c.pc + k.signExtend 64) h o s

end Sys2Proof.Machine
end

