-- ==== Sys2Proof/Machine/Vector.lean ====
section
/-!
DEFINITION. Integer lanes, masks, broadcasts, permutations, integer reductions and random words: majors 0x40 to 0x44,
0x4E, 0x50 and 0x51 (R217, R219 to R223, R232, R234, R235).
-/
namespace Sys2Proof.Machine

/-! ### Shapes -/

/-- A lane instruction: the lanes it computes, merged under the predicate (R217). -/
def vlanes (h : Hdr) (t : Ty) (d : BitVec 5) (lat : Nat) (f : Ctx → List Nat) (s : State) : Out :=
  lanewise (fun c => c.resV d lat (c.mergeV (predMask h c.regs) t d (f c))) s

/-- Two lists of lanes combined lane by lane on mathematical integers, modulo 2^w. -/
def vbin (f : Ty → Nat → Nat → Int) (h : Hdr) (o : VBin) (s : State) : Out :=
  vlanes h o.ty o.d 2 (fun c =>
    List.zipWith (fun a b => wrapNat o.ty.bits (f o.ty a b)) (c.regs.vs o.ty o.a) (c.regs.vs o.ty o.b)) s

def vun (f : Ty → Nat → Int) (h : Hdr) (o : VUn) (s : State) : Out :=
  vlanes h o.ty o.d 2 (fun c => (c.regs.vs o.ty o.a).map fun a => wrapNat o.ty.bits (f o.ty a)) s

/-- Is a lane active for a type (R217). -/
def active (h : Hdr) (c : Ctx) (t : Ty) (j : Nat) : Bool := laneActive t.bytes (predMask h c.regs) j

/-- A saturating form: an active lane that clamps sets sr.fpstat.sv (R107, R219). -/
def vsat (f : Ty → Nat → Nat → Int) (h : Hdr) (o : VBin) (s : State) : Out :=
  lanewise (fun c =>
    let rs := List.zipWith (f o.ty) (c.regs.vs o.ty o.a) (c.regs.vs o.ty o.b)
    let clamped := (List.range o.ty.lanes).any fun j =>
      active h c o.ty j && clampTo o.ty (rs.getD j 0) != rs.getD j 0
    let v := c.mergeV (predMask h c.regs) o.ty o.d (rs.map fun r => wrapNat o.ty.bits (clampTo o.ty r))
    let c := c.resV o.d 2 v
    { c with sr := c.sr.setSv clamped }) s

/-- Mask bits of lanes: every bit of an active lane's bytes follows the relation (R221). -/
def mergeMask (h : Hdr) (c : Ctx) (t : Ty) (d : BitVec 3) (holds : List Bool) : MWord :=
  BitVec.ofNat 32 (packLanes t.bytes ((List.range t.lanes).map fun j =>
    if active h c t j then (if holds.getD j false then 2 ^ t.bytes - 1 else 0)
    else bitsAt (c.regs.rm d).toNat (j * t.bytes) t.bytes))

/-! ### Meanings: integer arithmetic and logic -/

def execVaddInt (h : Hdr) (o : VBin) (s : State) : Out := vbin opAdd h o s
def execVsubInt (h : Hdr) (o : VBin) (s : State) : Out := vbin opSub h o s
def execVnegInt (h : Hdr) (o : VUn) (s : State) : Out := vun opNeg h o s
def execVabsInt (h : Hdr) (o : VUn) (s : State) : Out := vun opAbs h o s
def execVadds (h : Hdr) (o : VBin) (s : State) : Out := vsat opAdd h o s
def execVsubs (h : Hdr) (o : VBin) (s : State) : Out := vsat opSub h o s
def execVmulInt (h : Hdr) (o : VBin) (s : State) : Out := vbin opMul h o s
def execVmulh (h : Hdr) (o : VBin) (s : State) : Out := vbin opMulh h o s
def execVmad (h : Hdr) (o : VTri) (s : State) : Out :=
  vlanes h o.ty o.d 2 (fun c =>
    List.zipWith (fun ab cc => wrapNat o.ty.bits (opMad o.ty ab.1 ab.2 cc))
      ((c.regs.vs o.ty o.a).zip (c.regs.vs o.ty o.b)) (c.regs.vl o.ty o.c)) s
def execVminInt (h : Hdr) (o : VBin) (s : State) : Out := vbin opMin h o s
def execVmaxInt (h : Hdr) (o : VBin) (s : State) : Out := vbin opMax h o s
def execVand (h : Hdr) (o : VBin) (s : State) : Out := vbin opAnd h o s
def execVor (h : Hdr) (o : VBin) (s : State) : Out := vbin opOr h o s
def execVxor (h : Hdr) (o : VBin) (s : State) : Out := vbin opXor h o s
def execVandn (h : Hdr) (o : VBin) (s : State) : Out := vbin opAndn h o s
def execVnot (h : Hdr) (o : VUn) (s : State) : Out := vun opNot h o s
def execVshl (h : Hdr) (o : VBin) (s : State) : Out := vbin opShl h o s
def execVshr (h : Hdr) (o : VBin) (s : State) : Out := vbin opShr h o s
def execVsar (h : Hdr) (o : VBin) (s : State) : Out := vbin opSar h o s

/-! ### Compare and select (R221) -/

/-- A lane relation, with the flag it raises. -/
def laneRel (r : Rel) (t : Ty) (a b : Nat) : Bool × FFlags :=
  if t.isInt then (opRel r t a b, 0) else fcompare (Ty.fmt t) r a b

/-- Lane compare into a mask register; flags of active lanes only. -/
def vcmp (r : Rel) (h : Hdr) (o : VCmp) (s : State) : Out :=
  let c := s.th
  let rs := List.zipWith (laneRel r o.ty) (c.regs.vs o.ty o.a) (c.regs.vs o.ty o.b)
  let fs := (List.range o.ty.lanes).map fun j => if active h c o.ty j then (rs.getD j (false, 0)).2 else 0
  fpFinish s fs fun c => c.resM o.d 2 (mergeMask h c o.ty o.d (rs.map Prod.fst))

def execVceq (h : Hdr) (o : VCmp) (s : State) : Out := vcmp .eq h o s
def execVcne (h : Hdr) (o : VCmp) (s : State) : Out := vcmp .ne h o s
def execVclt (h : Hdr) (o : VCmp) (s : State) : Out := vcmp .lt h o s
def execVcle (h : Hdr) (o : VCmp) (s : State) : Out := vcmp .le h o s
def execVcgt (h : Hdr) (o : VCmp) (s : State) : Out := vcmp .gt h o s
def execVcge (h : Hdr) (o : VCmp) (s : State) : Out := vcmp .ge h o s

def execVsel (h : Hdr) (o : VSel) (s : State) : Out :=
  vlanes h o.ty o.d 2 (fun c =>
    let a := c.regs.vs o.ty o.a
    let b := c.regs.vs o.ty o.b
    (List.range o.ty.lanes).map fun j =>
      if laneActive o.ty.bytes (c.regs.rm o.c) j then a.getD j 0 else b.getD j 0) s

/-! ### Masks (R222) -/

def mbin (f : MWord → MWord → MWord) (h : Hdr) (o : MBin) (s : State) : Out :=
  whole h (fun c => c.resM o.d 2 (f (c.regs.rm o.a) (c.regs.rm o.b))) s

def execMand (h : Hdr) (o : MBin) (s : State) : Out := mbin (· &&& ·) h o s
def execMor (h : Hdr) (o : MBin) (s : State) : Out := mbin (· ||| ·) h o s
def execMxor (h : Hdr) (o : MBin) (s : State) : Out := mbin (· ^^^ ·) h o s
def execMandn (h : Hdr) (o : MBin) (s : State) : Out := mbin (fun a b => a &&& ~~~b) h o s
def execMnot (h : Hdr) (o : MUn) (s : State) : Out := whole h (fun c => c.resM o.d 2 (~~~(c.regs.rm o.a))) s

def mtog (f : Nat → Nat) (h : Hdr) (o : MToG) (s : State) : Out :=
  whole h (fun c => c.resG o.d 2 (BitVec.ofNat 64 (f (c.regs.rm o.a).toNat))) s

def execMpopc (h : Hdr) (o : MToG) (s : State) : Out := mtog (popCount 32) h o s
def execMfirst (h : Hdr) (o : MToG) (s : State) : Out := mtog (trailingZeros 32) h o s
def execMfromg (h : Hdr) (o : MFromG) (s : State) : Out :=
  whole h (fun c => c.resM o.d 2 ((c.regs.gr o.a).extractLsb' 0 32)) s
def execMtog (h : Hdr) (o : MToG) (s : State) : Out := mtog id h o s

/-! ### Broadcasts (R223) -/

def execVbcsti (h : Hdr) (o : VBcstI) (s : State) : Out :=
  vlanes h o.ty o.d 2 (fun _ => List.replicate o.ty.lanes ((o.imm.signExtend 64).toNat % 2 ^ o.ty.bits)) s
def execVbcst (h : Hdr) (o : VBcst) (s : State) : Out :=
  vlanes h o.ty o.d 2 (fun c => List.replicate o.ty.lanes ((c.regs.rg o.a).toNat % 2 ^ o.ty.bits)) s

/-! ### Permutations (R232) -/

/-- Lane `t` of two registers laid end to end. -/
def lane2 (n : Nat) (a c : List Nat) (t : Nat) : Nat := if t < n then a.getD t 0 else c.getD (t - n) 0

/-- A permutation: what lane j of the result is, from the lanes of a and b. -/
def vperm (f : Nat → List Nat → List Nat → Nat → Nat) (h : Hdr) (o : VBin) (s : State) : Out :=
  vlanes h o.ty o.d 2 (fun c =>
    (List.range o.ty.lanes).map (f o.ty.lanes (c.regs.vs o.ty o.a) (c.regs.vs o.ty o.b))) s

def execVperm (h : Hdr) (o : VBin) (s : State) : Out := vperm (fun n a b j => a.getD (b.getD j 0 % n) 0) h o s
def execVperm2 (h : Hdr) (o : VTri) (s : State) : Out :=
  vlanes h o.ty o.d 2 (fun c =>
    let a := c.regs.vs o.ty o.a
    let b := c.regs.vs o.ty o.b
    let n := o.ty.lanes
    (List.range n).map fun j => lane2 n a (c.regs.vl o.ty o.c) (b.getD j 0 % (2 * n))) s
def execVslide (h : Hdr) (o : VSlide) (s : State) : Out :=
  vlanes h o.ty o.d 2 (fun c =>
    let n := o.ty.lanes
    let k := (c.regs.gs o.b).toNat % n
    (List.range n).map fun j => lane2 n (c.regs.vs o.ty o.a) (c.regs.vl o.ty o.c) (j + k)) s
def execVzipl (h : Hdr) (o : VBin) (s : State) : Out :=
  vperm (fun _ a b j => if j % 2 = 0 then a.getD (j / 2) 0 else b.getD (j / 2) 0) h o s
def execVziph (h : Hdr) (o : VBin) (s : State) : Out :=
  vperm (fun n a b j => if j % 2 = 0 then a.getD (n / 2 + j / 2) 0 else b.getD (n / 2 + j / 2) 0) h o s
def execVuzpe (h : Hdr) (o : VBin) (s : State) : Out :=
  vperm (fun n a b j => if j < n / 2 then a.getD (2 * j) 0 else b.getD (2 * j - n) 0) h o s
def execVuzpo (h : Hdr) (o : VBin) (s : State) : Out :=
  vperm (fun n a b j => if j < n / 2 then a.getD (2 * j + 1) 0 else b.getD (2 * j - n + 1) 0) h o s

/-! ### Random words (R234) -/

/-- Interlocked; sr.srctr plays no part. -/
def execRng (h : Hdr) (o : RngOp) (s : State) : Out :=
  whole h (fun c => c.resG o.d 0 (hivemix (c.regs.gs o.a) (c.regs.gs o.b))) s
def execVrng (h : Hdr) (o : VRngOp) (s : State) : Out :=
  vlanes h .d o.d 0 (fun c =>
    (List.range 4).map fun j => (hivemix (c.regs.gs o.a) (c.regs.gs o.b + BitVec.ofNat 64 j)).toNat) s

/-! ### Lane moves (R235) -/

/-- Lane n of the destination; the other lanes keep their values. -/
def execVins (h : Hdr) (o : VIns) (s : State) : Out :=
  whole h (fun c =>
    let n := (c.regs.gs o.b).toNat % o.ty.lanes
    c.resV o.d 2 (ofLanes o.ty.bits ((c.regs.vl o.ty o.d).set n ((c.regs.gr o.a).toNat % 2 ^ o.ty.bits)))) s
def execVext (h : Hdr) (o : VExt) (s : State) : Out :=
  whole h (fun c =>
    c.resG o.d 2 (BitVec.ofNat 64 ((c.regs.vrLanes o.ty.bits o.a).getD ((c.regs.gs o.b).toNat % o.ty.lanes) 0))) s
def execVmov (h : Hdr) (o : VUn) (s : State) : Out := vlanes h o.ty o.d 2 (fun c => c.regs.vs o.ty o.a) s

end Sys2Proof.Machine
end

