-- ==== Sys2Proof/Machine/VecFloat.lean ====
section
/-!
DEFINITION. Floating lanes, estimates, conversions, block floating point and lane reductions: majors 0x48 to 0x4D and
0x4F (R218, R224 to R231, R233).
-/
namespace Sys2Proof.Machine

/-! ### Shapes (R218) -/

/-- Floating lanes: lane j of `f`, for active lanes only, rounded once; `n` counter values are consumed in mode SR,
for active and inactive lanes alike. -/
def vfloat (h : Hdr) (t : Ty) (d : BitVec 5) (lat : Nat) (rm : Rnd) (n : Nat) (f : Ctx → Nat → FRes) (s : State) : Out :=
  let c := s.th
  let rs := (List.range t.lanes).map fun j => if active h c t j then f c j else ⟨0, 0⟩
  fpFinish s (rs.map FRes.flags) fun c =>
    let c := c.resV d lat (c.mergeV (predMask h c.regs) t d (rs.map FRes.bits))
    { c with sr := c.sr.consume rm n }

/-- The value of lane j of a list of encodings. -/
def laneVal (t : Ty) (xs : List Nat) (j : Nat) : FVal := (Ty.fmt t).value (xs.getD j 0)

/-- An operation of two lanes that rounds. -/
def vfbin (f : FFmt → RMode → FVal → FVal → Raw) (lat : Nat) (h : Hdr) (o : VFBin) (s : State) : Out :=
  let a := s.th.regs.vs o.ty o.a
  let b := s.th.regs.vs o.ty o.b
  vfloat h o.ty o.d lat o.rm o.ty.lanes (fun c j =>
    let m := modeAt c.sr o.rm j
    (f (Ty.fmt o.ty) m (laneVal o.ty a j) (laneVal o.ty b j)).round (Ty.fmt o.ty) m) s

/-- min and max do not round. -/
def vfminmax (isMax : Bool) (h : Hdr) (o : VFBin) (s : State) : Out :=
  let a := s.th.regs.vs o.ty o.a
  let b := s.th.regs.vs o.ty o.b
  vfloat h o.ty o.d 4 .rne 0 (fun _ j => fminmax (Ty.fmt o.ty) isMax (a.getD j 0) (b.getD j 0)) s

/-- The mode directs an exact zero sum toward −0 (R113). -/
def isRdn (m : RMode) : Bool := m == .rdn

def faddRaw (_ : FFmt) (m : RMode) (a b : FVal) : Raw := rawAdd (isRdn m) a b
def fsubRaw (_ : FFmt) (m : RMode) (a b : FVal) : Raw := rawAdd (isRdn m) a (b.flip true)
def fmulRaw (_ : FFmt) (_ : RMode) (a b : FVal) : Raw := rawMul a b
def fdivRaw (f : FFmt) (_ : RMode) (a b : FVal) : Raw := rawDiv f.fbits a b

/-- The sign bit cleared or inverted; nothing is raised (R224). -/
def vsign (f : FFmt → Nat → Nat) (h : Hdr) (o : VFUn) (s : State) : Out :=
  vlanes h o.ty o.d 4 (fun c => (c.regs.vs o.ty o.a).map (f (Ty.fmt o.ty))) s

def signClear (f : FFmt) (x : Nat) : Nat := x % f.signBit
def signFlip (f : FFmt) (x : Nat) : Nat := (x ^^^ f.signBit) % (2 * f.signBit)

/-! ### Meanings: arithmetic (R224, R225) -/

def execVaddFp (h : Hdr) (o : VFBin) (s : State) : Out := vfbin faddRaw 4 h o s
def execVsubFp (h : Hdr) (o : VFBin) (s : State) : Out := vfbin fsubRaw 4 h o s
def execVmulFp (h : Hdr) (o : VFBin) (s : State) : Out := vfbin fmulRaw 4 h o s
def execVminFp (h : Hdr) (o : VFBin) (s : State) : Out := vfminmax false h o s
def execVmaxFp (h : Hdr) (o : VFBin) (s : State) : Out := vfminmax true h o s
def execVabsFp (h : Hdr) (o : VFUn) (s : State) : Out := vsign signClear h o s
def execVnegFp (h : Hdr) (o : VFUn) (s : State) : Out := vsign signFlip h o s

/-- ±(a × b) ± c, rounded once. -/
def vffma (negP negC : Bool) (h : Hdr) (o : VFTri) (s : State) : Out :=
  let a := s.th.regs.vs o.ty o.a
  let b := s.th.regs.vs o.ty o.b
  let c := s.th.regs.vl o.ty o.c
  vfloat h o.ty o.d 4 o.rm o.ty.lanes (fun x j =>
    let m := modeAt x.sr o.rm j
    (rawFma (isRdn m) negP negC (laneVal o.ty a j) (laneVal o.ty b j) (laneVal o.ty c j)).round (Ty.fmt o.ty) m) s

def execVfma (h : Hdr) (o : VFTri) (s : State) : Out := vffma false false h o s
def execVfms (h : Hdr) (o : VFTri) (s : State) : Out := vffma false true h o s
def execVfnma (h : Hdr) (o : VFTri) (s : State) : Out := vffma true false h o s
def execVfnms (h : Hdr) (o : VFTri) (s : State) : Out := vffma true true h o s

/-! ### Correctly rounded forms (R226) and estimates (R227), interlocked -/

def vfun (f : FFmt → RMode → Nat → FRes) (h : Hdr) (o : VFUn) (s : State) : Out :=
  let a := s.th.regs.vs o.ty o.a
  vfloat h o.ty o.d 0 o.rm o.ty.lanes (fun c j => f (Ty.fmt o.ty) (modeAt c.sr o.rm j) (a.getD j 0)) s

def sqrtRounded (f : FFmt) (m : RMode) (x : Nat) : FRes := (rawSqrt f.fbits (f.value x)).round f m

def execVdiv (h : Hdr) (o : VFBin) (s : State) : Out := vfbin fdivRaw 0 h o s
def execVsqrt (h : Hdr) (o : VFUn) (s : State) : Out := vfun sqrtRounded h o s
def execVexp (h : Hdr) (o : VFUn) (s : State) : Out := vfun (fnRounded .exp) h o s
def execVlog (h : Hdr) (o : VFUn) (s : State) : Out := vfun (fnRounded .log) h o s
def execVexp2 (h : Hdr) (o : VFUn) (s : State) : Out := vfun (fnRounded .exp2) h o s
def execVlog2 (h : Hdr) (o : VFUn) (s : State) : Out := vfun (fnRounded .log2) h o s
def execVtanh (h : Hdr) (o : VFUn) (s : State) : Out := vfun (fnRounded .tanh) h o s

/-- At level 3 an estimate raises the determinism fault, whatever its predicate (R126). -/
def vest (f : Fn) (h : Hdr) (o : VFUn) (s : State) : Out :=
  if detLevel s.th = 3 then faultOut s ⟨cDeterminism, 0, 0⟩
  else
    let a := s.th.regs.vs o.ty o.a
    vfloat h o.ty o.d 0 .rne 0 (fun _ j => fnEstimate f o.ty (a.getD j 0)) s

def execVrcpe (h : Hdr) (o : VFUn) (s : State) : Out := vest .rcp h o s
def execVrsqrte (h : Hdr) (o : VFUn) (s : State) : Out := vest .rsqrt h o s
def execVexpe (h : Hdr) (o : VFUn) (s : State) : Out := vest .exp h o s
def execVloge (h : Hdr) (o : VFUn) (s : State) : Out := vest .log h o s
def execVtanhe (h : Hdr) (o : VFUn) (s : State) : Out := vest .tanh h o s
def execVsigme (h : Hdr) (o : VFUn) (s : State) : Out := vest .sigm h o s

/-! ### Lane conversions (R228) -/

/-- The element that destination lane `jd` receives: its index, if it is one of the `n`. -/
def cvtIndex (o : VCvt) (jd : Nat) : Option Nat :=
  let n := min o.src.lanes o.ty.lanes
  if o.src.lanes < o.ty.lanes then
    if o.part.toNat * n ≤ jd ∧ jd < o.part.toNat * n + n then some (jd - o.part.toNat * n) else none
  else if jd < n then some jd else none

/-- The source lane of element `i`. -/
def cvtSource (o : VCvt) (i : Nat) : Nat :=
  if o.ty.lanes < o.src.lanes then o.part.toNat * o.ty.lanes + i else i

/-- Destination lanes outside the n keep their values; n counter values are consumed. -/
def execVcvt (h : Hdr) (o : VCvt) (s : State) : Out :=
  let c := s.th
  let a := c.regs.vs o.src o.a
  let old := c.regs.vl o.ty o.d
  let rs := (List.range o.ty.lanes).map fun jd =>
    match cvtIndex o jd with
    | none => (⟨old.getD jd 0, 0⟩ : FRes)
    | some i =>
      if active h c o.ty jd then convert o.src o.ty (modeAt c.sr o.rm i) (a.getD (cvtSource o i) 0)
      else ⟨old.getD jd 0, 0⟩
  fpFinish s (rs.map FRes.flags) fun c =>
    let c := c.resV o.d 4 (ofLanes o.ty.bits (rs.map FRes.bits))
    { c with sr := c.sr.consume o.rm (min o.src.lanes o.ty.lanes) }

/-! ### Block floating point (R229 to R231) -/

/-- The 32 FP32 encodings of a group of four registers. -/
def Regs.block (R : Regs) (base : BitVec 5) : List Nat :=
  (List.range 4).flatMap fun k => R.vl .f32 (base + BitVec.ofNat 5 k)

def execVbfpx (h : Hdr) (o : Vbfpx) (s : State) : Out :=
  whole h (fun c =>
    let p := bfpPair (o.ty == .bfp4) ((c.regs.block o.base).map FFmt.f32.value)
    c.resG o.d 4 (BitVec.ofNat 64 (p.2 * 256 + p.1))) s

/-- The 32 encoded elements of a block. -/
def encodeBlock (c : Ctx) (ty : Ty) (rm : Rnd) (base : BitVec 5) (pair : Word) : List FRes :=
  let e0 := bitsAt pair.toNat 0 8
  let e1 := bitsAt pair.toNat 8 8
  (c.regs.block base).mapIdx fun i x =>
    bfpEncode (ty == .bfp4) e0 e1 (modeAt c.sr rm i) (bitsAt x 31 1 == 1) (FFmt.f32.value x)

/-- `vbfpe` writes 32 bytes of BFP8, or one half of BFP4, the other half unchanged. -/
def vbfpe (hi : Bool) (o : Vbfpe) (s : State) : Out :=
  let c := s.th
  let rs := encodeBlock c o.ty o.rm o.base (c.regs.gr o.b)
  fpFinish s (rs.map FRes.flags) fun c =>
    let v :=
      if o.ty = .bfp4 then
        let half := packLanes 4 (rs.map FRes.bits)
        let old := (c.regs.rv o.d).toNat
        BitVec.ofNat 256 (if hi then old % 2 ^ 128 + half * 2 ^ 128 else old / 2 ^ 128 * 2 ^ 128 + half)
      else ofLanes 8 (rs.map FRes.bits)
    let c := c.resV o.d 4 v
    { c with sr := c.sr.consume o.rm 32 }

def execVbfpe (_ : Hdr) (o : Vbfpe) (s : State) : Out := vbfpe false o s
def execVbfpeHi (_ : Hdr) (o : Vbfpe) (s : State) : Out := vbfpe true o s

/-- Eight decoded elements (R110, R231); exact. -/
def execVbfpd (h : Hdr) (o : Vbfpd) (s : State) : Out :=
  vlanes h .f32 o.d 4 (fun c =>
    let raw := c.regs.vrLanes 8 o.a
    let p := (c.regs.gr o.b).toNat
    let four := o.ty == .bfp4
    let n := o.n.toNat
    (List.range 8).map fun j =>
      let x :=
        if four then bitsAt (raw.getD (16 * (n / 4) + (8 * (n % 4) + j) / 2) 0) (4 * (j % 2)) 4
        else raw.getD (8 * n + j) 0
      ((rawOf (bfpValue four x (bitsAt p 0 8) (bitsAt p 8 8))).round .f32 .rne).bits) s

/-! ### Lane reductions (R233), interlocked -/

/-- One pass of the tree: neighbours combine; `k` counts the operations done before, `step` the operand lanes an
element covers. The flags come with the lowest operand lane that feeds the operation. -/
def redPass (op : Nat → Nat → Nat → FRes) (step : Nat) : Nat → Nat → List Nat → List Nat × List (Nat × FFlags)
  | k, lane, a :: b :: xs =>
    let r := op k a b
    let t := redPass op step (k + 1) (lane + 2 * step) xs
    (r.bits :: t.1, (lane, r.flags) :: t.2)
  | _, _, xs => (xs, [])

/-- The passes of the tree over 2^n lanes. -/
def redTree (op : Nat → Nat → Nat → FRes) : Nat → Nat → Nat → List Nat → Nat × List (Nat × FFlags)
  | 0, _, _, xs => (xs.getD 0 0, [])
  | n + 1, step, k, xs =>
    let p := redPass op step k 0 xs
    let t := redTree op n (2 * step) (k + xs.length / 2) p.1
    (t.1, p.2 ++ t.2)

/-- Flags by operand lane. -/
def laneFlags (lanes : Nat) (fs : List (Nat × FFlags)) : List FFlags :=
  (List.range lanes).map fun j => orFlags ((fs.filter fun f => f.1 == j).map Prod.snd)

/-- A reduction: inactive lanes contribute the identity; the result goes to a g register. -/
def vreduce (h : Hdr) (o : VRed) (ident : Nat) (n : Nat) (op : Ctx → Nat → Nat → Nat → FRes) (s : State) : Out :=
  let c := s.th
  let a := c.regs.vs o.ty o.a
  let xs := (List.range o.ty.lanes).map fun j => if active h c o.ty j then a.getD j 0 else ident
  let t := redTree (op c) (Nat.log2 o.ty.lanes) 1 0 xs
  fpFinish s (laneFlags o.ty.lanes t.2) fun c =>
    let c := c.resG o.d 0 (if o.ty.isInt then extByType o.ty (t.1 : Int) else zext64 o.ty.bits t.1)
    { c with sr := c.sr.consume o.rm n }

/-- An integer operation of the tree, modulo 2^w. -/
def redInt (t : Ty) (f : Ty → Nat → Nat → Int) (a b : Nat) : FRes := ⟨wrapNat t.bits (f t a b), 0⟩

def execVrsum (h : Hdr) (o : VRed) (s : State) : Out :=
  if o.ty.isInt then vreduce h { o with rm := .rne } 0 0 (fun _ _ => redInt o.ty opAdd) s
  else
    vreduce h o (Ty.fmt o.ty).signBit (o.ty.lanes - 1) (fun c k a b =>
      let m := modeAt c.sr o.rm k
      (rawAdd (isRdn m) ((Ty.fmt o.ty).value a) ((Ty.fmt o.ty).value b)).round (Ty.fmt o.ty) m) s

/-- Identities of min and max (R233). -/
def redIdent (isMax : Bool) (t : Ty) : Nat :=
  if t.isInt then wrapNat t.bits (if isMax then intMin t.signed t.bits else intMax t.signed t.bits)
  else (if isMax then (Ty.fmt t).signBit else 0) + (Ty.fmt t).infBits

def vrminmax (isMax : Bool) (h : Hdr) (o : VRed) (s : State) : Out :=
  vreduce h { o with rm := .rne } (redIdent isMax o.ty) 0 (fun _ _ a b =>
    if o.ty.isInt then redInt o.ty (if isMax then opMax else opMin) a b else fminmax (Ty.fmt o.ty) isMax a b) s

def execVrmin (h : Hdr) (o : VRed) (s : State) : Out := vrminmax false h o s
def execVrmax (h : Hdr) (o : VRed) (s : State) : Out := vrminmax true h o s
def execVrand (h : Hdr) (o : VRed) (s : State) : Out :=
  vreduce h { o with rm := .rne } (2 ^ o.ty.bits - 1) 0 (fun _ _ => redInt o.ty opAnd) s
def execVror (h : Hdr) (o : VRed) (s : State) : Out :=
  vreduce h { o with rm := .rne } 0 0 (fun _ _ => redInt o.ty opOr) s

end Sys2Proof.Machine
end

