-- ==== Sys2Proof/Machine/Fp64.lean ====
section
/-!
DEFINITION. The FP64 unit: majors 0x60 to 0x63 (R236 to R240).
-/
namespace Sys2Proof.Machine

/-- A form of the FP64 unit: whole; in mode SR it consumes `n` counter values, also when it does not execute (R236). -/
def fwhole (h : Hdr) (rm : Rnd) (n : Nat) (f : Ctx → RMode → FRes) (put : Ctx → Nat → Ctx) (s : State) : Out :=
  if predOn h s.th.regs then
    let r := f s.th (modeAt s.th.sr rm 0)
    fpFinish s [r.flags] fun c =>
      let c := put c r.bits
      { c with sr := c.sr.consume rm n }
  else .next (s.mapTh fun c => { c with sr := c.sr.consume rm n }).retire

def putF (d : BitVec 6) (lat : Nat) (c : Ctx) (x : Nat) : Ctx := c.resG d lat (BitVec.ofNat 64 x)

def fbin (f : FFmt → RMode → FVal → FVal → Raw) (lat : Nat) (h : Hdr) (o : FBin) (s : State) : Out :=
  fwhole h o.rm 1 (fun c m =>
    (f .f64 m (FFmt.f64.value (c.regs.fs o.a)) (FFmt.f64.value (c.regs.fs o.b))).round .f64 m) (putF o.d lat) s

def fmm (isMax : Bool) (h : Hdr) (o : FBin) (s : State) : Out :=
  fwhole h .rne 0 (fun c _ => fminmax .f64 isMax (c.regs.fs o.a) (c.regs.fs o.b)) (putF o.d 6) s

def fsign (f : FFmt → Nat → Nat) (h : Hdr) (o : FUn) (s : State) : Out :=
  fwhole h .rne 0 (fun c _ => ⟨f .f64 (c.regs.fs o.a), 0⟩) (putF o.d 6) s

def ffused (negP negC : Bool) (h : Hdr) (o : FTri) (s : State) : Out :=
  fwhole h o.rm 1 (fun c m =>
    (rawFma (isRdn m) negP negC (FFmt.f64.value (c.regs.fs o.a)) (FFmt.f64.value (c.regs.fs o.b))
      (FFmt.f64.value (c.regs.rg o.c).toNat)).round .f64 m) (putF o.d 6) s

/-- Interlocked (R236). -/
def funary (f : FFmt → RMode → Nat → FRes) (h : Hdr) (o : FUn) (s : State) : Out :=
  fwhole h o.rm 1 (fun c m => f .f64 m (c.regs.fs o.a)) (putF o.d 0) s

def fcmpInto (r : Rel) (h : Hdr) (o : FCmp) (s : State) : Out :=
  fwhole h .rne 0 (fun c _ =>
    let x := fcompare .f64 r (c.regs.fs o.a) (c.regs.fs o.b)
    ⟨if x.1 then 1 else 0, x.2⟩) (fun c x => c.resM o.d 6 (allOrNone (x == 1))) s

def execFadd (h : Hdr) (o : FBin) (s : State) : Out := fbin faddRaw 6 h o s
def execFsub (h : Hdr) (o : FBin) (s : State) : Out := fbin fsubRaw 6 h o s
def execFmul (h : Hdr) (o : FBin) (s : State) : Out := fbin fmulRaw 6 h o s
def execFmin (h : Hdr) (o : FBin) (s : State) : Out := fmm false h o s
def execFmax (h : Hdr) (o : FBin) (s : State) : Out := fmm true h o s
def execFabs (h : Hdr) (o : FUn) (s : State) : Out := fsign signClear h o s
def execFneg (h : Hdr) (o : FUn) (s : State) : Out := fsign signFlip h o s
def execFfma (h : Hdr) (o : FTri) (s : State) : Out := ffused false false h o s
def execFfms (h : Hdr) (o : FTri) (s : State) : Out := ffused false true h o s
def execFfnma (h : Hdr) (o : FTri) (s : State) : Out := ffused true false h o s
def execFfnms (h : Hdr) (o : FTri) (s : State) : Out := ffused true true h o s
def execFdiv (h : Hdr) (o : FBin) (s : State) : Out := fbin fdivRaw 0 h o s
def execFsqrt (h : Hdr) (o : FUn) (s : State) : Out := funary sqrtRounded h o s
def execFexp (h : Hdr) (o : FUn) (s : State) : Out := funary (fnRounded .exp) h o s
def execFlog (h : Hdr) (o : FUn) (s : State) : Out := funary (fnRounded .log) h o s
def execFexp2 (h : Hdr) (o : FUn) (s : State) : Out := funary (fnRounded .exp2) h o s
def execFlog2 (h : Hdr) (o : FUn) (s : State) : Out := funary (fnRounded .log2) h o s
def execFceq (h : Hdr) (o : FCmp) (s : State) : Out := fcmpInto .eq h o s
def execFcne (h : Hdr) (o : FCmp) (s : State) : Out := fcmpInto .ne h o s
def execFclt (h : Hdr) (o : FCmp) (s : State) : Out := fcmpInto .lt h o s
def execFcle (h : Hdr) (o : FCmp) (s : State) : Out := fcmpInto .le h o s
def execFcgt (h : Hdr) (o : FCmp) (s : State) : Out := fcmpInto .gt h o s
def execFcge (h : Hdr) (o : FCmp) (s : State) : Out := fcmpInto .ge h o s

/-- The source bits of `fcvt`: a constant converted to the source type, or the low bits of a register (R240). -/
def Regs.cvtBits (R : Regs) (t : Ty) : FSrc → Nat
  | .reg r => (R.rg r).toNat % 2 ^ t.bits
  | .imm k => immBits t k

def execFcvt (h : Hdr) (o : FCvt) (s : State) : Out :=
  fwhole h o.rm 1 (fun c m => convert o.src o.ty m (c.regs.cvtBits o.src o.a)) (fun c x =>
    c.resG o.d 6 (if o.ty.isInt then extByType o.ty (x : Int) else zext64 o.ty.bits x)) s

end Sys2Proof.Machine
end

