-- ==== Sys2Proof/Machine/Queues.lean ====
section
/-!
DEFINITION. Work queues, launch selection and links (R354 to R363): the doorbell, entries, fences, cancels, the choice of
a frame's launch logic, queue registers, what the register window shows, and what befalls a link.
-/
namespace Sys2Proof.Machine

/-! ### Registers (R354) -/

/-- A queue exists when its frame is live. -/
def State.queueLive (s : State) (q : Nat) : Bool := q < 1024 && s.hub.live.getLsbD (q / 128)

/-! ### Acceptance (R355, R359) -/

/-- A zero field of an entry that is not zero, or a reserved op. -/
def entryIllegal (w : Nat → Nat) : Bool :=
  let op := bitsAt (w 0) 56 8
  !(op == 1 || op == 2 || op == 3) || (op != 1 && bitsAt (w 0) 0 56 != 0) || (List.range 6).any fun k => w (k + 2) != 0

/-- The hub accepts the entry at head, journals it and advances head. -/
def State.accept (s : State) (q : Nat) : State :=
  let r := s.queueRegs q
  let pa := ringPa q r.base (64 * (r.head.toNat % 2 ^ r.size))
  let bs := s.peek pa 64
  let w := fun i => bytesAt bs (8 * i) 8
  let e : QEntry := ⟨s.hub.nextSeq, q, r.head.toNat, bitsAt (w 0) 56 8, BitVec.ofNat 64 (bitsAt (w 0) 0 56),
    BitVec.ofNat 64 (w 1), .accepted, .ok, false, none, []⟩
  let j : JournalRec := ⟨e.seq, e.op, .accepted, .ok, q, e.tag, s.now⟩
  let s := s.setQueue q { r with head := r.head + 1 }
  let js := s.hub.journal ++ [j]
  let s := { s with hub := { s.hub with
    entries := s.hub.entries ++ [e], journal := js.drop (js.length - 4096), nextSeq := s.hub.nextSeq + 1 } }
  if entryIllegal w then s.completeEntry e .illegal else s

/-- Accept entries up to tail. -/
def State.acceptMany : Nat → Nat → State → State
  | 0, _, s => s
  | n + 1, q, s => State.acceptMany n q (s.accept q)

/-- An enabled queue accepts every entry that tail has passed. -/
def State.acceptAll (s : State) (q : Nat) : State :=
  let r := s.queueRegs q
  if r.enabled then State.acceptMany (r.tail - r.head).toNat q s else s

def execEvQueueDoorbell (q tail : Nat) (s : State) : Out :=
  if !s.queueLive q then .next s
  else .next ((s.setQueue q { s.queueRegs q with tail := BitVec.ofNat 16 tail }).acceptAll q)

/-! ### Entries (R355) -/

/-- The oldest entry of a queue that has not launched, cancels apart. -/
def State.turn (s : State) (q : Nat) : Option QEntry :=
  s.hub.entries.find? fun e => e.queue == q && e.op != 3 && (e.st == .accepted)

/-- A cancel that has not acted concerns an entry. -/
def State.cancelAhead (s : State) (e : QEntry) : Bool :=
  s.hub.entries.any fun x => x.op == 3 && x.queue == e.queue && x.tag == e.tag && e.seq < x.seq

def State.setEntry (s : State) (e : QEntry) : State :=
  { s with hub := { s.hub with entries := updateAll (fun x => x.seq == e.seq) (fun _ => e) s.hub.entries } }

/-- The attributes that a root inherits from its queue and frames (R27, R357). -/
def rootAttrs (r : QueueRegs) (frame k : Nat) : Attrs :=
  { cells := 8192 * k, vault := 2 ^ 30 * k, stack := 0, spill := 0, power := 256, prio := r.pcap, effPrio := r.pcap,
    domain := 0, nested := false, free := false, det := r.det, frames := BitVec.ofNat 8 (2 ^ frame), limit := 0,
    seed := 0, rounds := false, period := 0 }

/-- What the launch reads of a root entry: once, when the entry becomes a candidate, before any cell is assigned (R37, R41). -/
def State.rootPlan (s : State) (e : QEntry) : Plan :=
  let frame := e.queue / 128
  let r := s.readRcb frame e.rcb.toNat
  let q := s.queueRegs e.queue
  let k := (maskFrames (r.attrs (rootAttrs q frame 1)).frames).length
  s.plan frame e.rcb.toNat (rootAttrs q frame k) true

/-- A launch entry whose turn has come is a candidate from now on. -/
def execEvQueueLaunch (q : Nat) (s : State) : Out :=
  match s.turn q with
  | none => .next s
  | some e =>
    if e.op ≠ 1 || e.taken || !(s.queueRegs q).enabled || s.cancelAhead e then .next s
    else .next (s.setEntry { e with taken := true, plan := some (s.rootPlan e) })

def execEvQueueFence (q : Nat) (s : State) : Out :=
  match s.turn q with
  | none => .next s
  | some e => if e.op ≠ 2 || e.taken then .next s else .next (s.setEntry { e with taken := true })

/-- A fence completes when no earlier entry of its queue is left (R355). -/
def execEvQueueFenceComplete (q : Nat) (s : State) : Out :=
  match s.turn q with
  | none => .next s
  | some e =>
    if e.op ≠ 2 || !e.taken || s.hub.entries.any fun x => x.queue == q && x.seq < e.seq then .next s
    else .next (s.completeEntry e .ok)

/-- Frames that hold for an entry let it go. -/
def State.unhold (s : State) (seq : Nat) : State :=
  { s with frames := updateAll (fun f => f.held == some seq) (fun f => { f with held := none }) s.frames }

def execEvQueueCancel (q : Nat) (s : State) : Out :=
  match s.hub.entries.find? fun e => e.queue == q && e.op == 3 with
  | none => .next s
  | some x =>
    let hit := fun (e : QEntry) => e.queue == q && e.op == 1 && e.st == .accepted && e.seq < x.seq && e.tag == x.tag
    let s := (s.hub.entries.filter hit).foldl (fun (s : State) e => (s.unhold e.seq).completeEntry e .cancelled) s
    .next (s.completeEntry x .ok)

/-! ### Launch selection (R29, R358) -/

/-- The frames whose launch logic must assign an entry, each with its share: a malformed root, and one without a share
anywhere, is a candidate of one frame. -/
def QEntry.needs (e : QEntry) : List (Nat × Nat) :=
  match e.plan with
  | none => []
  | some p =>
    let xs := p.shares.filter fun x => x.2 != 0
    if !p.ok then [(e.queue / 128, 0)] else if xs.isEmpty then (p.shares.take 1) else xs

/-- The priority of a candidate: min(RCB priority, pcap) (R28, R358). -/
def QEntry.prio (e : QEntry) : Nat := (e.plan.map fun p => p.a.effPrio).getD 0

/-- The candidates of a frame: those that need its cells and that every lower frame has assigned, since frames hold cells for a
root in ascending order. -/
def State.candidates (s : State) (frame : Nat) : List QEntry :=
  s.hub.entries.filter fun e =>
    e.op == 1 && e.taken && e.st == .accepted && (s.queueRegs e.queue).enabled && !s.cancelAhead e &&
      (e.needs.any fun x => x.1 == frame) && !(e.assigned.any fun x => x.1 == frame) &&
      e.needs.all fun x => frame ≤ x.1 || e.assigned.any fun y => y.1 == x.1

/-- The choice of R358: the greatest priority, then the first queue after the one served last, wrapping. -/
def State.choose (s : State) (frame : Nat) : Option QEntry :=
  let f := s.frameRec frame
  let cs := s.candidates frame
  let cs := match f.held with
    | some seq => if cs.any fun (e : QEntry) => e.seq == seq then cs.filter fun (e : QEntry) => e.seq == seq else cs
    | none => cs
  let p := (cs.map fun e => e.prio).foldl max 0
  let top := cs.filter fun e => e.prio == p
  let turn := fun (e : QEntry) => (e.queue + 1023 - f.lastServed) % 1024
  top.foldl (fun best e =>
    match best with
    | none => some e
    | some b => if turn e < turn b then some e else some b) none

/-- A root that ends without having run. -/
def State.rootOverWith (s : State) (e : QEntry) (st : CStatus) : State :=
  let s := if e.rcb.toNat % 256 = 0 then s.writeStatus (e.queue / 128) e.rcb.toNat st else s
  (s.unhold e.seq).completeEntry e st

/-- The frame holds for an entry. -/
def State.hold (s : State) (frame seq : Nat) : State := s.setFrame { s.frameRec frame with held := some seq }

/-- Free cells of a frame. -/
def State.freeOn (s : State) (frame : Nat) : Nat :=
  ((List.range 8192).filter fun c => s.cellFree (frame * 8192 + c)).length

/-- Cells chosen for a share are sound: the right number, free, each once, on the frame, with gangs in their rows. -/
def State.shareOk (s : State) (p : Plan) (e : QEntry) (frame n : Nat) (cells : List CellId) : Bool :=
  let before := (e.assigned.map fun x => x.2.length).sum
  cells.length == n && cells.all s.cellFree && cells.eraseDups == cells && cellsOn frame cells == cells &&
    gangFits (p.gangs.drop before) cells

/-- The entry has cells on every frame: the region launches, at the determinism level that its queue has now (R354). -/
def State.launchRoot (s : State) (p : Plan) (e : QEntry) (slot : Option Nat) : State :=
  let s := (s.setEntry { e with st := .launched }).journal e.seq .launched .ok
  s.launch { p with a := { p.a with det := (s.queueRegs e.queue).det } } (e.queue / 128) e.rcb (s.queueRegs e.queue).asid (some (e.queue, e.seq, e.tag)) none slot
    (e.assigned.flatMap Prod.snd)

/-- A frame assigns its share to the entry it has chosen. -/
def State.assign (s : State) (p : Plan) (e : QEntry) (frame : Nat) (cells : List CellId) (slot : Option Nat) : State :=
  let e := { e with assigned := e.assigned ++ [(frame, cells)] }
  let s := (s.setEntry e).setFrame { s.frameRec frame with lastServed := e.queue, held := none }
  if e.needs.all fun x => e.assigned.any fun y => y.1 == x.1 then s.launchRoot p e slot else s

def execEvLaunchSelect (frame : Nat) (cells : List CellId) (s : State) : Out :=
  match s.choose frame with
  | none => .next s
  | some e =>
    match e.plan with
    | none => .next s
    | some p =>
      if !p.ok then .next (s.rootOverWith e .failed)
      else if p.rootOver then .next (s.rootOverWith e .budget)
      else if p.own = 0 && p.rcb.kids = 0 then .next (s.rootOverWith e .ok)
      else
        let n := ((e.needs.find? fun x => x.1 == frame).map Prod.snd).getD 0
        let slot := if p.rcb.contests then s.contestSlot (e.queue / 128) else none
        if s.freeOn frame < n || s.vaultLeft frame < p.vaultOn frame || (p.rcb.contests && slot.isNone) then
          .next (s.hold frame e.seq)
        else if s.shareOk p e frame n cells then .next (s.assign p e frame cells slot)
        else .next s

/-! ### Enabling, and registers without behaviour (R10, R11, R354) -/

/-- A disabled queue releases what frames hold for its entries; they become candidates anew (log 88). -/
def State.releaseHolds (s : State) (q : Nat) : State :=
  let mine := fun (e : QEntry) => e.queue == q && e.st == .accepted
  let s := (s.hub.entries.filter mine).foldl (fun (s : State) e => s.unhold e.seq) s
  { s with hub := { s.hub with entries := updateAll mine (fun e => { e with taken := false, plan := none, assigned := [] }) s.hub.entries } }

/-- A queue is enabled in stage 6 only (R366). -/
def execEvQueueEnable (q : Nat) (en : Bool) (size : Nat) (s : State) : Out :=
  if !s.queueLive q || (en && s.hub.stage != 6) then .next s
  else
    let r := s.queueRegs q
    let ctrl := (r.ctrl &&& 0xFFFFFFFFFFFFFFE0) ||| BitVec.ofNat 64 (size % 16 * 2 + if en then 1 else 0)
    let s := s.setQueue q { r with ctrl := ctrl }
    .next (if { r with ctrl := ctrl }.enabled then s.acceptAll q else s.releaseHolds q)

/-- Writable bits of a ring address register. -/
def ringMask : Word := 0xC0FFFFFFFFFFFFFF

/-- A write inside the register window: ring addresses and det are written; read-only and reserved fields, and every
address without a register, keep their values. -/
def execEvRegisterWrite (addr : Nat) (v : Word) (s : State) : Out :=
  let q := (addr - 0x10000) / 64
  if addr < 0x10000 || !s.queueLive q then .next s
  else
    let r := s.queueRegs q
    match addr % 64 with
    | 0x00 => .next (s.setQueue q { r with base := v &&& ringMask })
    | 0x08 => .next (s.setQueue q { r with ctrl := (r.ctrl &&& 0xFFFFFFFFFFFFFCFF) ||| (v &&& 0x300) })
    | 0x20 => .next (s.setQueue q { r with cbase := v &&& ringMask })
    | _ => .next s

/-! ### What the register window shows (R354, R359, R366) -/

def EntryState.code : EntryState → Nat
  | .accepted => 0 | .launched => 1 | .completed => 2

/-- The words of a journal entry (R359). -/
def JournalRec.words (j : JournalRec) : List Word :=
  [BitVec.ofNat 64 j.seq,
   BitVec.ofNat 64 (j.op % 256 * 2 ^ 56 + j.st.code * 2 ^ 48 + j.status.code * 2 ^ 32 + j.queue % 1024),
   j.tag, BitVec.ofNat 64 j.time]

/-- The device status register (R366). -/
def State.deviceStatus (s : State) : Word :=
  s.hub.live.zeroExtend 64 <<< 8 ||| s.hub.err.zeroExtend 64 <<< 4 ||| s.hub.stage.zeroExtend 64

/-- A register of a queue, by its offset; the queue of a frame that is fused off reads as zero (R354). -/
def State.queueWord (s : State) (q off : Nat) : Word :=
  let r := s.queueRegs q
  if !s.queueLive q then 0
  else
    match off with
    | 0x00 => r.base
    | 0x08 => r.ctrl
    | 0x10 => r.tail.zeroExtend 64
    | 0x18 => r.head.zeroExtend 64
    | 0x20 => r.cbase
    | _ => 0

/-- The 8-byte register at an offset of base address register 0, as a host reads it; the journal is a ring, so that
sequence number n stands in place n modulo 4,096. -/
def State.windowWord (s : State) (addr : Nat) : Word :=
  if addr = 0 then s.deviceStatus
  else if 0x10000 ≤ addr ∧ addr < 0x20000 then s.queueWord ((addr - 0x10000) / 64) (addr % 64)
  else if addr = 0x7FFF8 then BitVec.ofNat 64 s.hub.nextSeq
  else if 0x80000 ≤ addr ∧ addr < 0xA0000 then
    match s.hub.journal.find? fun j => j.seq % 4096 == (addr - 0x80000) / 32 with
    | none => 0
    | some j => if addr % 8 = 0 then j.words.getD (addr % 32 / 8) 0 else 0
  else 0

/-! ### Links (R360 to R363) -/

/-- The rates of PCIe, from 2.5 to 128 GT/s, in units of 0.1 GT/s. -/
def pcieRates : List Nat := [25, 50, 80, 160, 320, 640, 1280]

/-- Widths and rates of each kind of link (R360 to R362); CXL 3.2 runs on the rates of PCIe up to 64 GT/s. -/
def linkOk (l width rate : Nat) : Bool :=
  if l < 2 then (width == 16 || width == 8 || width == 4) && pcieRates.contains rate
  else if l < 6 then (width == 16 || width == 8) && pcieRates.contains rate && rate ≤ 640
  else l < 30 && (width == 8 || width == 4 || width == 2) && (rate == 2240 || rate == 1120)

/-- A corrupted flit is sent again: none is lost, and nothing else changes. -/
def execEvLinkRetry (_ : Nat) (s : State) : Out := .next s

def execEvLinkFail (l : Nat) (s : State) : Out :=
  if l < 30 then .next (s.setLink { s.link l with up := false, pending := none }) else .next s

/-- A frame has a frequency step pending. -/
def State.stepPending (s : State) : Bool := s.frames.any fun f => f.relock.isSome || f.laterStep.isSome

/-- A width reduction waits for the frequency step of any frame (R363). -/
def execEvLinkRateChange (l width rate : Nat) (s : State) : Out :=
  let x := s.link l
  if !linkOk l width rate || !x.up then .next s
  else if width < x.width && s.stepPending then .next (s.setLink { x with pending := some (width, rate) })
  else .next (s.setLink { x with width := width, rate := rate, pending := none })

/-- Changes that waited take effect. -/
def State.linksResume (s : State) : State :=
  if s.stepPending then s
  else { s with hub := { s.hub with links := s.hub.links.map fun x =>
    match x.pending with
    | some (w, r) => { x with width := w, rate := r, pending := none }
    | none => x } }

end Sys2Proof.Machine
end

