-- ==== Sys2Proof/Machine/Power.lean ====
section
/-!
DEFINITION. Power, clocks, snapshots, meters, ECC and trust (R366 to R380): the budget tree, frequency steps, the snapshot
trigger, meter commands, patrol scrub, SPDM requests, package reset and the revocation of an export (R352).
-/
namespace Sys2Proof.Machine

/-! ### The budget tree (R367 to R369) -/

/-- The leakage of a comb in mW: its table interpolated at its temperature, scaled by the supply (R369). -/
def State.leakage (s : State) (k : CombId) (temp : Nat) : Rat :=
  let t := s.combRec k
  let at_ := fun (i : Nat) => ((t.leakAt i).toNat : Rat)
  let base :=
    if temp ≤ 20 then at_ 0
    else if 110 ≤ temp then at_ 15
    else at_ ((temp - 20) / 6) + (at_ ((temp - 20) / 6 + 1) - at_ ((temp - 20) / 6)) * ((temp - 20) % 6 : Nat) / 6
  let v : Rat := (Config.millivolts k : Rat) / 750
  base * v * v * v

/-- Division of a grant among children: demands and weights; what the first pass leaves unspent is divided once more
among children still short. -/
def split (g : Rat) (xs : List (Rat × Rat)) : List Rat :=
  let total := (xs.map Prod.snd).sum
  let pass := fun (g total : Rat) (d w : Rat) => if total = 0 then (0 : Rat) else min d (g * w / total)
  let first := xs.map fun x => pass g total x.1 x.2
  let left := g - first.sum
  let short := xs.zip first
  let total2 := (short.map fun x => if x.2 < x.1.1 then x.1.2 else 0).sum
  short.map fun x => if x.2 < x.1.1 then x.2 + pass left total2 (x.1.1 - x.2) x.1.2 else x.2

/-- The power share of a region: a product of 1/256ths from its root (R27). -/
def State.powerShare : Nat → State → Region → Rat
  | 0, _, r => (r.a.power : Rat) / 256
  | n + 1, s, r =>
    match r.parent.bind fun p => s.region? (some p) with
    | none => (r.a.power : Rat) / 256
    | some p => (r.a.power : Rat) / 256 * State.powerShare n s p

/-- The share of a context; a context without a region has none. -/
def State.ctxShare (s : State) (c : Ctx) : Rat := ((s.regionOf c).map (State.powerShare s.regions.length s)).getD 0

/-- The demand of a cell: its estimate and its part of the leakage of its comb. -/
def State.demand (s : State) (inp : BudgetInput) (i : CellId) : Rat :=
  let d := ((inp.demands.find? fun x => x.1 == i).map Prod.snd).getD 0
  let t := ((inp.temps.find? fun x => x.1 == cellComb i).map Prod.snd).getD 0
  (d : Rat) + s.leakage (cellComb i) t / 128

/-- The cells of a comb and the combs of a frame. -/
def combCells (k : CombId) : List CellId := (List.range 128).map fun c => k * 128 + c
def frameCombs (f : Nat) : List CombId := (List.range 64).map fun k => f * 64 + k

def State.combDemand (s : State) (inp : BudgetInput) (k : CombId) : Rat := ((combCells k).map (s.demand inp)).sum
def State.frameDemand (s : State) (inp : BudgetInput) (f : Nat) : Rat := ((frameCombs f).map (s.combDemand inp)).sum

/-- The weight of a comb: the shares of its resident contexts. -/
def State.combWeight (s : State) (k : CombId) : Rat :=
  ((s.ctxs.filter fun c => c.resident && c.cell?.any fun i => cellComb i == k).map s.ctxShare).sum

/-- The weight of a cell: the share of its running context. -/
def State.cellWeight (s : State) (i : CellId) : Rat :=
  (((s.onCell i).find? fun c => c.status == .running).map s.ctxShare).getD 0

/-- duty(cell). -/
def dutyOf (demand grant : Rat) : Nat :=
  if demand ≤ grant then 16 else max 1 (16 * grant / demand).floor.toNat

/-- The cap of a comb's temperature. -/
def thermalCap (temp : Nat) : Nat := if 105 ≤ temp then 1 else if 100 ≤ temp then 8 else 16

/-- The duty and reason of every cell of a comb under its grant. -/
def State.combDuties (s : State) (inp : BudgetInput) (k : CombId) (grant : Rat) : List (CellId × Nat × Nat) :=
  let cs := combCells k
  let cap := thermalCap (((inp.temps.find? fun x => x.1 == k).map Prod.snd).getD 0)
  let gs := split grant (cs.map fun i => (s.demand inp i, s.cellWeight i))
  (cs.zip gs).map fun x =>
    let d := dutyOf (s.demand inp x.1) x.2
    (x.1, min d cap, if cap < d then 2 else if d < 16 then 1 else 0)

/-- The duties of a frame under its grant. -/
def State.frameDuties (s : State) (inp : BudgetInput) (f : Nat) (grant : Rat) : List (CellId × Nat × Nat) :=
  let ks := frameCombs f
  let gs := split grant (ks.map fun k => (s.combDemand inp k, s.combWeight k))
  (ks.zip gs).flatMap fun x => s.combDuties inp x.1 x.2

/-- The readings of the hub, the HBM4E stacks and the CF dies, each with its internal allocation in mW (R367). -/
def partReadings (inp : BudgetInput) : List (Nat × Nat) := [(inp.hub, 250000), (inp.hbm, 280000), (inp.cf, 80000)]

/-- What the parts draw. A part that has passed its allocation at one interval is held to it by the next (R4, R5, R367, log
91). -/
def State.measured (s : State) (inp : BudgetInput) : Nat :=
  ((partReadings inp).mapIdx fun k x => if s.power.enforced.contains k then min x.1 x.2 else x.1).sum

/-- The parts whose reading lies above their allocation: the H8 enforces it from now on. -/
def partsOver (inp : BudgetInput) : List Nat :=
  ((partReadings inp).mapIdx fun k x => (k, x)).filterMap fun x => if x.2.2 < x.2.1 then some x.1 else none

/-- The grants of the frames: B divided by equal weights, each at most 230 W. -/
def State.frameGrants (s : State) (inp : BudgetInput) : List (Nat × Rat) :=
  let fs := maskFrames s.hub.live
  let b : Rat := max 0 ((Config.form.budget : Rat) - s.measured inp)
  (fs.zip (split b (fs.map fun f => (s.frameDemand inp f, 1)))).map fun x => (x.1, min x.2 230000)

/-! ### Frequency steps (R370) -/

/-- A state-change record of a partition that keeps them (R372). -/
def State.changeRecord (s : State) (kind frame reason old new : Nat) : State :=
  if s.perKernel frame then s
  else s.powerRecord [BitVec.ofNat 64 s.now,
    BitVec.ofNat 64 (kind * 2 ^ 56 + frame * 2 ^ 48 + reason * 2 ^ 40 + old % 2 ^ 16 * 2 ^ 16 + new % 2 ^ 16), 0, 0]

/-- The clocks of a frame stop for a step, from now for 600 ns at most (R370); claims of its contexts lose calibration (R136). -/
def State.startStep (s : State) (frame mhz reason : Nat) : State :=
  let f := s.frameRec frame
  if f.relock.isSome then s.setFrame { f with laterStep := some (mhz, reason) }
  else
    let s := s.changeRecord 1 frame reason f.mhz mhz
    let s := s.setFrame { f with relock := some mhz, relockAt := s.now, cycBase := f.cyc s.now, cycSince := s.now }
    let onFrame := fun (k : Claim) => (s.ctx? k.cid).any fun c => combFrame c.comb == frame
    { s with claims := updateAll onFrame (fun k => { k with cal := false }) s.claims }

/-- Setpoints: 600 to 1,800 MHz in steps of 100. -/
def setpointOk (mhz : Nat) : Bool := 600 ≤ mhz && mhz ≤ 1800 && mhz % 100 == 0

def execEvFrequencyStep (frame mhz : Nat) (s : State) : Out :=
  if setpointOk mhz && s.hub.live.getLsbD frame then .next (s.startStep frame mhz 0) else .next s

/-! ### Duties -/

/-- The cells of a frame take their duties. -/
def State.setDuties (s : State) (ds : List (CellId × Nat × Nat)) : State :=
  ds.foldl (fun (s : State) d =>
    let c := s.cellRec d.1
    if c.duty = d.2.1 ∧ c.why = d.2.2 then s
    else s.setCell { c with duty := d.2.1, why := d.2.2, dutyFrom := c.dutyAtTime s.now, dutyAt := s.now }) s

/-- The least duty of a frame's cells. -/
def State.leastDuty (s : State) (f : Nat) : Nat :=
  (s.cells.filter fun c => cellFrame c.id == f).foldl (fun x c => min x c.duty) 16

/-- The duties of a frame take effect, with a record when its least one changes (R372). -/
def State.takeDuties (s : State) (f : Nat) (ds : List (CellId × Nat × Nat)) : State :=
  let old := s.leastDuty f
  let s := s.setDuties ds
  let new : Nat := ds.foldl (fun x d => min x d.2.1) 16
  let why : Nat := if ds.any fun d => d.2.2 == 2 then 2 else if new < 16 then 1 else 0
  if new = old then s else s.changeRecord (if why = 2 then 3 else 2) f why old new

/-- The clocks restart, and every cell of the frame latches sr.fstep; duties that an interval has set meanwhile take effect
(R381), and a setpoint written meanwhile is a further step. -/
def execEvRelockRestart (frame : Nat) (s : State) : Out :=
  let f := s.frameRec frame
  match f.relock with
  | none => .next s
  | some mhz =>
    let fstep : Word := BitVec.ofNat 64 (f.cycBase % 2 ^ 32 * 2 ^ 32 + s.now % 2 ^ 32)
    let s := s.setFrame { f with mhz := mhz, relock := none, laterStep := none, lateDuties := [], cycSince := s.now, fstep := fstep }
    let s := if f.lateDuties.isEmpty then s else s.takeDuties frame f.lateDuties
    match f.laterStep with
    | some later => .next (s.startStep frame later.1 later.2)
    | none => .next s.linksResume

/-! ### A budget interval -/

/-- The setpoint of a frame after an interval (R367). -/
def nextSetpoint (f : FrameRec) (hot down up : Bool) : Nat :=
  let now := (f.laterStep.map Prod.fst).getD (f.relock.getD f.mhz)
  if hot then 600
  else if down then max 600 (now - 100)
  else if up then max now (min f.ceiling (now + 100))
  else now

/-- A cell has run at a duty since an instant. -/
def CellRec.ranAt (c : CellRec) (d since : Nat) : Bool :=
  c.duty == d && (c.dutyFrom == d || (decide (c.dutyAt ≤ since) && c.dutyAtTime since == d))

/-- Every cell of a frame has run at a duty for the whole interval that ends now. -/
def State.frameRan (s : State) (f d : Nat) : Bool :=
  ((frameCombs f).flatMap combCells).all fun i => (s.cellRec i).ranAt d (s.power.nextInterval - 10000)

/-- One frame in a budget interval. What its cells have run counts towards a lower or a higher setpoint; the duties for the
interval that begins take effect now, or when the clocks of the frame restart. -/
def State.frameInterval (inp : BudgetInput) (s : State) (g : Nat × Rat) : State :=
  let f := g.1
  let ds := s.frameDuties inp f g.2
  let r := s.frameRec f
  let low := if s.frameRan f 1 then r.lowRuns + 1 else 0
  let down := decide (3 ≤ low) && decide (g.2 < s.frameDemand inp f)
  let high := if s.frameRan f 16 then r.highRuns + 1 else 0
  let hot := inp.temps.any fun x => combFrame x.1 == f && 105 ≤ x.2
  let mhz := nextSetpoint r hot down (decide (100 ≤ high))
  let r' := { r with lowRuns := if down then 0 else low, highRuns := if 100 ≤ high then 0 else high }
  let s := if r.relock.isSome then s.setFrame { r' with lateDuties := ds } else (s.setFrame r').takeDuties f ds
  if mhz = (r.laterStep.map Prod.fst).getD (r.relock.getD r.mhz) then s else s.startStep f mhz (if hot then 2 else 1)

/-- A candidate of the power arbiter in a system contest: lanes 0 to 14, identifiers 0xC00 to 0xFFF but that of failover
(R148, R364). The manual names such contests and gives neither their time nor their key: both are free (log 91). -/
def State.surplusCand (s : State) : Option Cand :=
  (Config.surplus s.tick).map fun x =>
    let id := 0xC00 + x.2.1 % 0x400
    ⟨x.1 % 15, if id = 0xC10 then 0xC11 else id, x.2.2, 10, 0, 0, 0, s.now, false, 0⟩

/-- The power arbiter at an interval: duties and setpoints (R367), and a surplus contest. -/
def execEvBudgetInterval (inp : BudgetInput) (s : State) : Out :=
  if s.now < s.power.nextInterval then .next s
  else
    let t := (s.frameGrants inp).foldl (State.frameInterval inp) s
    .next { t with
      power := { t.power with nextInterval := (s.now / 10000 + 1) * 10000, enforced := partsOver inp },
      plane := { t.plane with cands := t.plane.cands ++ s.surplusCand.toList } }.bump

/-! ### Snapshots and meters (R375, R376) -/

/-- Every block latches at the next multiple of 1,024 ns, and gd receives the sequence number; the clocks of a frame may stand
still (R381). -/
def execEvSnapshotTrigger (s : State) : Out :=
  match s.power.snapArmed with
  | none => .next s
  | some (cid, pend, due) =>
    if s.now < due then .next s
    else
      let n := s.power.snapSeq
      let s := s.updCtx cid fun c => c.fulfil pend (n.zeroExtend 64) s.now
      .next { s with power := { s.power with
        snapArmed := none, snapSeq := n + 1, snapHeld := true, latched := s.ctxs.map fun c => (c.cid, s.meterNow c) } }

def execEvSnapshotRelease (s : State) : Out :=
  .next { s with power := { s.power with snapHeld := false, latched := [] } }

/-- A response to the management controller. -/
def State.respond (s : State) (ws : List Word) : State :=
  { s with power := { s.power with mctp := s.power.mctp ++ [ws] } }

def execEvMeterList (s : State) : Out :=
  let live := (s.ctxs.filter fun c => c.status != .empty && c.cell?.isSome).map fun c => c.cid
  .next (s.respond ((live ++ s.power.ended.map Prod.fst).map (BitVec.ofNat 64)))

/-- One sealed block; the block of an ended context leaves the ring when it has been read. An unknown identifier returns
an error code, which the manual does not give. -/
def execEvMeterRead (cid : CtxId) (s : State) : Out :=
  match s.blockOf cid with
  | none => .next (s.respond [Config.openAddr 0x400 cid s.tick]).bump
  | some ws =>
    let block := ws ++ List.replicate (31 - ws.length) 0 ++ [Config.meterSeal cid ws]
    let s := s.respond block
    .next { s with power := { s.power with ended := s.power.ended.filter fun x => x.1 != cid } }

/-! ### ECC (R378) -/

/-- A stack has corrected an error, in a patrol scrub or in a read, which returns correct data. -/
def State.countCorrection (s : State) (frame : Nat) : State :=
  let n := ((s.power.corrections.find? fun x => x.1 == frame).map Prod.snd).getD 0
  { s with power := { s.power with corrections := upsert (fun x => x.1 == frame) (frame, n + 1) s.power.corrections } }

/-- A 32-byte sector holds uncorrectable data. -/
def State.poisonSector (s : State) (x : Nat) : State :=
  if s.power.poison.contains x then s else { s with power := { s.power with poison := s.power.poison ++ [x] } }

def execEvPatrolScrub (frame sector : Nat) (res : ScrubResult) (s : State) : Out :=
  if !s.hub.live.getLsbD frame || 2 ^ 31 ≤ sector then .next s
  else
    .next (match res with
      | .clean => s
      | .corrected => s.countCorrection frame
      | .uncorrectable => s.poisonSector (paHbm frame (32 * sector) / 32))

/-! ### Attestation (R380) -/

/-- A reply: a response code of SPDM 1.2, and bytes that are fixed by the identity key, by what the request names and by what the
reply reports. -/
def State.spdm (s : State) (code : Nat) (about : List Nat) : State :=
  { s with sec := { s.sec with replies := s.sec.replies ++ [(code, Config.spdmBytes code (s.sec.identity :: about))] } }

/-- The ERROR response. -/
def State.spdmError (s : State) : State := s.spdm 0x7F []

/-- GET_VERSION begins a connection anew. -/
def execEvGetVersion (s : State) : Out :=
  .next ({ s with sec := { s.sec with versioned := true, capable := false, algorithms := false } }.spdm 0x04 [])

def execEvGetCapabilities (s : State) : Out :=
  if s.sec.versioned then .next ({ s with sec := { s.sec with capable := true } }.spdm 0x61 []) else .next s.spdmError

/-- Ed25519 and SHA-512 only. -/
def execEvNegotiateAlgorithms (ed sha : Bool) (s : State) : Out :=
  if s.sec.capable && ed && sha then .next ({ s with sec := { s.sec with algorithms := true } }.spdm 0x63 [])
  else .next s.spdmError

def execEvGetDigests (s : State) : Out := .next (if s.sec.algorithms then s.spdm 0x01 [] else s.spdmError)
def execEvGetCertificate (slot : Nat) (s : State) : Out :=
  .next (if s.sec.algorithms && slot < 8 then s.spdm 0x02 [slot] else s.spdmError)
/-- The reply carries a nonce of the responder, which is a free value. -/
def execEvChallenge (nonce : Nat) (s : State) : Out :=
  .next (if s.sec.algorithms then (s.spdm 0x03 [nonce, s.tick]).bump else s.spdmError)

/-- What a measurement reports (R380): 1 package firmware, 2 comb firmware, 3 fuse map and live frames, 4 security versions. -/
def State.measurement (s : State) (index : Nat) : List Nat :=
  match index with
  | 1 => s.sec.booted.take 1
  | 2 => (s.sec.booted.drop 2).take 1
  | 3 => [Config.fuseMap.toNat, s.hub.live.toNat]
  | 4 => [s.sec.booted.getD 1 0, s.sec.booted.getD 3 0, s.sec.minVersion]
  | _ => []

/-- Measurements 1 to 4; index 0 asks for their number and 255 for all of them. -/
def execEvGetMeasurements (index : Nat) (s : State) : Out :=
  let all := [1, 2, 3, 4].flatMap s.measurement
  .next (if s.sec.algorithms && (index ≤ 4 || index == 255) then
    s.spdm 0x60 (index :: if index = 255 then all else s.measurement index) else s.spdmError)

/-! ### Reset and bring-up (R366, R379) -/

/-- The combs of the live frames with their leakage tables from fuse data. -/
def bringUpCombs : List CombRec :=
  (maskFrames Config.liveFrames).flatMap fun f => (frameCombs f).map fun k =>
    { CombRec.reset k with leak := (List.range 16).map fun i => (i, Config.leakage k i) }

/-- A service context: firmware runs from the first byte of its cell's own memory (R14, R21, R326; log 79). -/
def serviceCtx (cid : CtxId) (place : Place) (level : Level) : Ctx :=
  { Ctx.reset with cid := cid, place := place, level := level, status := .running }

/-- The firmware contexts of the live frames and of the hub, once their images are authentic (R326, R366). -/
def serviceCtxs : List Ctx :=
  serviceCtx 1 .security .package ::
    ((maskFrames Config.liveFrames).flatMap frameCombs).flatMap fun k =>
      [serviceCtx (2 * k + 2) (.supervisor k) .comb, serviceCtx (2 * k + 3) (.translator k) .comb]

/-- The state after reset: everything but memory and the counter of free values is as State.reset has it (log 18). -/
def State.afterReset (s : State) (hub : Hub) (combs : List CombRec) : State :=
  { State.reset with mem := throughWq s.mem s.net.wq, tick := s.tick + 1, agenda := s.agenda, hub := hub, combs := combs }

/-- Bring-up is over: firmware runs on the service cells (R366). -/
def State.startFirmware (s : State) : State := { s with mem := s.mem.withImages, pool := serviceCtxs }

/-- An image is accepted (R379): it is signed with the root key whose hash is fused, its signature verifies, and its version is
at least the fused counter. -/
def SecState.accepts (x : SecState) (i : Image) : Bool :=
  i.keyHash == x.keyHash && Config.signatureOk i.keyHash (Nat.pair i.body i.version) i.signature && x.minVersion ≤ i.version

/-- The stage that a bring-up reaches and its error code. -/
def bringUpReached (x : SecState) : BringUp → BitVec 4 × BitVec 4
  | .fuse => (2, 1)
  | .link => (3, 2)
  | .fabric => (4, 3)
  | .images pkg comb => if x.accepts pkg && x.accepts comb then (6, 0) else (5, 4)

/-- What stage 5 has measured of the images it has accepted. -/
def bringUpBooted : BringUp → List Nat
  | .images pkg comb => [pkg.body, pkg.version, comb.body, comb.version]
  | _ => []

/-- Reset, then bring-up to stage 6 or to the stage that fails: frames are live after stage 2, links are up after stage 3
(log 18). -/
def execEvPackageReset (up : BringUp) (s : State) : Out :=
  let r := bringUpReached SecState.reset up
  let links := (List.range 30).map fun l => { Link.trained l with up := decide (3 < r.1.toNat) }
  let hub := { Hub.reset with live := if r.1 = 2 then 0 else Config.liveFrames, links := links, stage := r.1, err := r.2 }
  let s := s.afterReset hub (if r.1 = 2 then [] else bringUpCombs)
  .next (if r.1 = 6 then { s with sec := { s.sec with booted := bringUpBooted up } }.startFirmware else s)

/-! ### Exports (R352) -/

def execEvExportRevocation (frame index : Nat) (s : State) : Out :=
  let f := s.frameRec frame
  .next (s.setFrame { f with imports := updateAll (fun m => m.index == index) (fun m => { m with revoked := true }) f.imports })

end Sys2Proof.Machine
end

