-- ==== Sys2Proof/Machine/Dispatch.lean ====
section
/-!
DEFINITION. The meaning of every instruction and step: one direct call for each constructor.
-/
namespace Sys2Proof.Machine

def exec (i : Instr) (s : State) : Host.Outcome State Fault Refusal :=
  match i with
  | .nop h => Sys2Proof.Machine.execNop h s
  | .add h o => Sys2Proof.Machine.execAdd h o s
  | .sub h o => Sys2Proof.Machine.execSub h o s
  | .neg h o => Sys2Proof.Machine.execNeg h o s
  | .abs h o => Sys2Proof.Machine.execAbs h o s
  | .adds h o => Sys2Proof.Machine.execAdds h o s
  | .subs h o => Sys2Proof.Machine.execSubs h o s
  | .add3 h o => Sys2Proof.Machine.execAdd3 h o s
  | .and h o => Sys2Proof.Machine.execAnd h o s
  | .or h o => Sys2Proof.Machine.execOr h o s
  | .xor h o => Sys2Proof.Machine.execXor h o s
  | .andn h o => Sys2Proof.Machine.execAndn h o s
  | .orn h o => Sys2Proof.Machine.execOrn h o s
  | .xnor h o => Sys2Proof.Machine.execXnor h o s
  | .not h o => Sys2Proof.Machine.execNot h o s
  | .shl h o => Sys2Proof.Machine.execShl h o s
  | .shr h o => Sys2Proof.Machine.execShr h o s
  | .sar h o => Sys2Proof.Machine.execSar h o s
  | .rol h o => Sys2Proof.Machine.execRol h o s
  | .ror h o => Sys2Proof.Machine.execRor h o s
  | .mul h o => Sys2Proof.Machine.execMul h o s
  | .mulh h o => Sys2Proof.Machine.execMulh h o s
  | .mad h o => Sys2Proof.Machine.execMad h o s
  | .div h o => Sys2Proof.Machine.execDiv h o s
  | .rem h o => Sys2Proof.Machine.execRem h o s
  | .ceq h o => Sys2Proof.Machine.execCeq h o s
  | .cne h o => Sys2Proof.Machine.execCne h o s
  | .clt h o => Sys2Proof.Machine.execClt h o s
  | .cle h o => Sys2Proof.Machine.execCle h o s
  | .cgt h o => Sys2Proof.Machine.execCgt h o s
  | .cge h o => Sys2Proof.Machine.execCge h o s
  | .ctst h o => Sys2Proof.Machine.execCtst h o s
  | .ctstz h o => Sys2Proof.Machine.execCtstz h o s
  | .sel h o => Sys2Proof.Machine.execSel h o s
  | .selz h o => Sys2Proof.Machine.execSelz h o s
  | .popc h o => Sys2Proof.Machine.execPopc h o s
  | .clz h o => Sys2Proof.Machine.execClz h o s
  | .ctz h o => Sys2Proof.Machine.execCtz h o s
  | .brev h o => Sys2Proof.Machine.execBrev h o s
  | .bswap h o => Sys2Proof.Machine.execBswap h o s
  | .bext h o => Sys2Proof.Machine.execBext h o s
  | .bins h o => Sys2Proof.Machine.execBins h o s
  | .min h o => Sys2Proof.Machine.execMin h o s
  | .max h o => Sys2Proof.Machine.execMax h o s
  | .clamp h o => Sys2Proof.Machine.execClamp h o s
  | .lea h o => Sys2Proof.Machine.execLea h o s
  | .lcell h o => Sys2Proof.Machine.execLcell h o s
  | .lslice h o => Sys2Proof.Machine.execLslice h o s
  | .addImm h o => Sys2Proof.Machine.execAddImm h o s
  | .subImm h o => Sys2Proof.Machine.execSubImm h o s
  | .addsImm h o => Sys2Proof.Machine.execAddsImm h o s
  | .subsImm h o => Sys2Proof.Machine.execSubsImm h o s
  | .rsub h o => Sys2Proof.Machine.execRsub h o s
  | .andImm h o => Sys2Proof.Machine.execAndImm h o s
  | .orImm h o => Sys2Proof.Machine.execOrImm h o s
  | .xorImm h o => Sys2Proof.Machine.execXorImm h o s
  | .andnImm h o => Sys2Proof.Machine.execAndnImm h o s
  | .ornImm h o => Sys2Proof.Machine.execOrnImm h o s
  | .xnorImm h o => Sys2Proof.Machine.execXnorImm h o s
  | .shlImm h o => Sys2Proof.Machine.execShlImm h o s
  | .shrImm h o => Sys2Proof.Machine.execShrImm h o s
  | .sarImm h o => Sys2Proof.Machine.execSarImm h o s
  | .rolImm h o => Sys2Proof.Machine.execRolImm h o s
  | .rorImm h o => Sys2Proof.Machine.execRorImm h o s
  | .ceqImm h o => Sys2Proof.Machine.execCeqImm h o s
  | .cneImm h o => Sys2Proof.Machine.execCneImm h o s
  | .cltImm h o => Sys2Proof.Machine.execCltImm h o s
  | .cleImm h o => Sys2Proof.Machine.execCleImm h o s
  | .cgtImm h o => Sys2Proof.Machine.execCgtImm h o s
  | .cgeImm h o => Sys2Proof.Machine.execCgeImm h o s
  | .ctstImm h o => Sys2Proof.Machine.execCtstImm h o s
  | .ctstzImm h o => Sys2Proof.Machine.execCtstzImm h o s
  | .movi h o => Sys2Proof.Machine.execMovi h o s
  | .movzi h o => Sys2Proof.Machine.execMovzi h o s
  | .movhi h o => Sys2Proof.Machine.execMovhi h o s
  | .leai h o => Sys2Proof.Machine.execLeai h o s
  | .leapc h o => Sys2Proof.Machine.execLeapc h o s
  | .br h o => Sys2Proof.Machine.execBr h o s
  | .bz h o => Sys2Proof.Machine.execBz h o s
  | .bnz h o => Sys2Proof.Machine.execBnz h o s
  | .blz h o => Sys2Proof.Machine.execBlz h o s
  | .bgez h o => Sys2Proof.Machine.execBgez h o s
  | .jr h o => Sys2Proof.Machine.execJr h o s
  | .call h o => Sys2Proof.Machine.execCall h o s
  | .callr h o => Sys2Proof.Machine.execCallr h o s
  | .ret h => Sys2Proof.Machine.execRet h s
  | .loop h o => Sys2Proof.Machine.execLoop h o s
  | .lbrk h => Sys2Proof.Machine.execLbrk h s
  | .gdet h => Sys2Proof.Machine.execGdet h s
  | .gjoin h => Sys2Proof.Machine.execGjoin h s
  | .srrd h o => Sys2Proof.Machine.execSrrd h o s
  | .srwr h o => Sys2Proof.Machine.execSrwr h o s
  | .srwri h o => Sys2Proof.Machine.execSrwri h o s
  | .trap h o => Sys2Proof.Machine.execTrap h o s
  | .halt h => Sys2Proof.Machine.execHalt h s
  | .vaddInt h o => Sys2Proof.Machine.execVaddInt h o s
  | .vsubInt h o => Sys2Proof.Machine.execVsubInt h o s
  | .vnegInt h o => Sys2Proof.Machine.execVnegInt h o s
  | .vabsInt h o => Sys2Proof.Machine.execVabsInt h o s
  | .vadds h o => Sys2Proof.Machine.execVadds h o s
  | .vsubs h o => Sys2Proof.Machine.execVsubs h o s
  | .vmulInt h o => Sys2Proof.Machine.execVmulInt h o s
  | .vmulh h o => Sys2Proof.Machine.execVmulh h o s
  | .vmad h o => Sys2Proof.Machine.execVmad h o s
  | .vminInt h o => Sys2Proof.Machine.execVminInt h o s
  | .vmaxInt h o => Sys2Proof.Machine.execVmaxInt h o s
  | .vand h o => Sys2Proof.Machine.execVand h o s
  | .vor h o => Sys2Proof.Machine.execVor h o s
  | .vxor h o => Sys2Proof.Machine.execVxor h o s
  | .vandn h o => Sys2Proof.Machine.execVandn h o s
  | .vnot h o => Sys2Proof.Machine.execVnot h o s
  | .vshl h o => Sys2Proof.Machine.execVshl h o s
  | .vshr h o => Sys2Proof.Machine.execVshr h o s
  | .vsar h o => Sys2Proof.Machine.execVsar h o s
  | .vceq h o => Sys2Proof.Machine.execVceq h o s
  | .vcne h o => Sys2Proof.Machine.execVcne h o s
  | .vclt h o => Sys2Proof.Machine.execVclt h o s
  | .vcle h o => Sys2Proof.Machine.execVcle h o s
  | .vcgt h o => Sys2Proof.Machine.execVcgt h o s
  | .vcge h o => Sys2Proof.Machine.execVcge h o s
  | .vsel h o => Sys2Proof.Machine.execVsel h o s
  | .mand h o => Sys2Proof.Machine.execMand h o s
  | .mor h o => Sys2Proof.Machine.execMor h o s
  | .mxor h o => Sys2Proof.Machine.execMxor h o s
  | .mandn h o => Sys2Proof.Machine.execMandn h o s
  | .mnot h o => Sys2Proof.Machine.execMnot h o s
  | .mpopc h o => Sys2Proof.Machine.execMpopc h o s
  | .mfirst h o => Sys2Proof.Machine.execMfirst h o s
  | .mfromg h o => Sys2Proof.Machine.execMfromg h o s
  | .mtog h o => Sys2Proof.Machine.execMtog h o s
  | .vbcsti h o => Sys2Proof.Machine.execVbcsti h o s
  | .vbcst h o => Sys2Proof.Machine.execVbcst h o s
  | .vaddFp h o => Sys2Proof.Machine.execVaddFp h o s
  | .vsubFp h o => Sys2Proof.Machine.execVsubFp h o s
  | .vmulFp h o => Sys2Proof.Machine.execVmulFp h o s
  | .vminFp h o => Sys2Proof.Machine.execVminFp h o s
  | .vmaxFp h o => Sys2Proof.Machine.execVmaxFp h o s
  | .vabsFp h o => Sys2Proof.Machine.execVabsFp h o s
  | .vnegFp h o => Sys2Proof.Machine.execVnegFp h o s
  | .vfma h o => Sys2Proof.Machine.execVfma h o s
  | .vfms h o => Sys2Proof.Machine.execVfms h o s
  | .vfnma h o => Sys2Proof.Machine.execVfnma h o s
  | .vfnms h o => Sys2Proof.Machine.execVfnms h o s
  | .vdiv h o => Sys2Proof.Machine.execVdiv h o s
  | .vsqrt h o => Sys2Proof.Machine.execVsqrt h o s
  | .vexp h o => Sys2Proof.Machine.execVexp h o s
  | .vlog h o => Sys2Proof.Machine.execVlog h o s
  | .vexp2 h o => Sys2Proof.Machine.execVexp2 h o s
  | .vlog2 h o => Sys2Proof.Machine.execVlog2 h o s
  | .vtanh h o => Sys2Proof.Machine.execVtanh h o s
  | .vrcpe h o => Sys2Proof.Machine.execVrcpe h o s
  | .vrsqrte h o => Sys2Proof.Machine.execVrsqrte h o s
  | .vexpe h o => Sys2Proof.Machine.execVexpe h o s
  | .vloge h o => Sys2Proof.Machine.execVloge h o s
  | .vtanhe h o => Sys2Proof.Machine.execVtanhe h o s
  | .vsigme h o => Sys2Proof.Machine.execVsigme h o s
  | .vcvt h o => Sys2Proof.Machine.execVcvt h o s
  | .vbfpx h o => Sys2Proof.Machine.execVbfpx h o s
  | .vbfpe h o => Sys2Proof.Machine.execVbfpe h o s
  | .vbfpeHi h o => Sys2Proof.Machine.execVbfpeHi h o s
  | .vbfpd h o => Sys2Proof.Machine.execVbfpd h o s
  | .vperm h o => Sys2Proof.Machine.execVperm h o s
  | .vperm2 h o => Sys2Proof.Machine.execVperm2 h o s
  | .vslide h o => Sys2Proof.Machine.execVslide h o s
  | .vzipl h o => Sys2Proof.Machine.execVzipl h o s
  | .vziph h o => Sys2Proof.Machine.execVziph h o s
  | .vuzpe h o => Sys2Proof.Machine.execVuzpe h o s
  | .vuzpo h o => Sys2Proof.Machine.execVuzpo h o s
  | .vrsum h o => Sys2Proof.Machine.execVrsum h o s
  | .vrmin h o => Sys2Proof.Machine.execVrmin h o s
  | .vrmax h o => Sys2Proof.Machine.execVrmax h o s
  | .vrand h o => Sys2Proof.Machine.execVrand h o s
  | .vror h o => Sys2Proof.Machine.execVror h o s
  | .rng h o => Sys2Proof.Machine.execRng h o s
  | .vrng h o => Sys2Proof.Machine.execVrng h o s
  | .vins h o => Sys2Proof.Machine.execVins h o s
  | .vext h o => Sys2Proof.Machine.execVext h o s
  | .vmov h o => Sys2Proof.Machine.execVmov h o s
  | .fadd h o => Sys2Proof.Machine.execFadd h o s
  | .fsub h o => Sys2Proof.Machine.execFsub h o s
  | .fmul h o => Sys2Proof.Machine.execFmul h o s
  | .fmin h o => Sys2Proof.Machine.execFmin h o s
  | .fmax h o => Sys2Proof.Machine.execFmax h o s
  | .fabs h o => Sys2Proof.Machine.execFabs h o s
  | .fneg h o => Sys2Proof.Machine.execFneg h o s
  | .ffma h o => Sys2Proof.Machine.execFfma h o s
  | .ffms h o => Sys2Proof.Machine.execFfms h o s
  | .ffnma h o => Sys2Proof.Machine.execFfnma h o s
  | .ffnms h o => Sys2Proof.Machine.execFfnms h o s
  | .fdiv h o => Sys2Proof.Machine.execFdiv h o s
  | .fsqrt h o => Sys2Proof.Machine.execFsqrt h o s
  | .fexp h o => Sys2Proof.Machine.execFexp h o s
  | .flog h o => Sys2Proof.Machine.execFlog h o s
  | .fexp2 h o => Sys2Proof.Machine.execFexp2 h o s
  | .flog2 h o => Sys2Proof.Machine.execFlog2 h o s
  | .fceq h o => Sys2Proof.Machine.execFceq h o s
  | .fcne h o => Sys2Proof.Machine.execFcne h o s
  | .fclt h o => Sys2Proof.Machine.execFclt h o s
  | .fcle h o => Sys2Proof.Machine.execFcle h o s
  | .fcgt h o => Sys2Proof.Machine.execFcgt h o s
  | .fcge h o => Sys2Proof.Machine.execFcge h o s
  | .fcvt h o => Sys2Proof.Machine.execFcvt h o s
  | .mzero h o => Sys2Proof.Machine.execMzero h o s
  | .mrdrow h o => Sys2Proof.Machine.execMrdrow h o s
  | .mwrrow h o => Sys2Proof.Machine.execMwrrow h o s
  | .mmov h o => Sys2Proof.Machine.execMmov h o s
  | .masel h o => Sys2Proof.Machine.execMasel h o s
  | .masx h o => Sys2Proof.Machine.execMasx h o s
  | .mbsel h o => Sys2Proof.Machine.execMbsel h o s
  | .mma h o => Sys2Proof.Machine.execMma h o s
  | .mdrain h o => Sys2Proof.Machine.execMdrain h o s
  | .ld h o => Sys2Proof.Machine.execLd h o s
  | .ldv h o => Sys2Proof.Machine.execLdv h o s
  | .ldvb h o => Sys2Proof.Machine.execLdvb h o s
  | .st h o => Sys2Proof.Machine.execSt h o s
  | .stv h o => Sys2Proof.Machine.execStv h o s
  | .ldf h o => Sys2Proof.Machine.execLdf h o s
  | .ldfh h o => Sys2Proof.Machine.execLdfh h o s
  | .ldfv h o => Sys2Proof.Machine.execLdfv h o s
  | .ldr h o => Sys2Proof.Machine.execLdr h o s
  | .ldrv h o => Sys2Proof.Machine.execLdrv h o s
  | .ldrx h o => Sys2Proof.Machine.execLdrx h o s
  | .ldAcq h o => Sys2Proof.Machine.execLdAcq h o s
  | .stRel h o => Sys2Proof.Machine.execStRel h o s
  | .sts h o => Sys2Proof.Machine.execSts h o s
  | .stsv h o => Sys2Proof.Machine.execStsv h o s
  | .vgather h o => Sys2Proof.Machine.execVgather h o s
  | .vscatter h o => Sys2Proof.Machine.execVscatter h o s
  | .pft h o => Sys2Proof.Machine.execPft h o s
  | .pfh h o => Sys2Proof.Machine.execPfh h o s
  | .amoSwap h o => Sys2Proof.Machine.execAmoSwap h o s
  | .amoAdd h o => Sys2Proof.Machine.execAmoAdd h o s
  | .amoAnd h o => Sys2Proof.Machine.execAmoAnd h o s
  | .amoOr h o => Sys2Proof.Machine.execAmoOr h o s
  | .amoXor h o => Sys2Proof.Machine.execAmoXor h o s
  | .amoMin h o => Sys2Proof.Machine.execAmoMin h o s
  | .amoMax h o => Sys2Proof.Machine.execAmoMax h o s
  | .cas h o => Sys2Proof.Machine.execCas h o s
  | .redAdd h o => Sys2Proof.Machine.execRedAdd h o s
  | .redAnd h o => Sys2Proof.Machine.execRedAnd h o s
  | .redOr h o => Sys2Proof.Machine.execRedOr h o s
  | .redXor h o => Sys2Proof.Machine.execRedXor h o s
  | .redMin h o => Sys2Proof.Machine.execRedMin h o s
  | .redMax h o => Sys2Proof.Machine.execRedMax h o s
  | .amo2Swap h o => Sys2Proof.Machine.execAmo2Swap h o s
  | .amo2Add h o => Sys2Proof.Machine.execAmo2Add h o s
  | .amo2And h o => Sys2Proof.Machine.execAmo2And h o s
  | .amo2Or h o => Sys2Proof.Machine.execAmo2Or h o s
  | .amo2Xor h o => Sys2Proof.Machine.execAmo2Xor h o s
  | .dcas h o => Sys2Proof.Machine.execDcas h o s
  | .amove h o => Sys2Proof.Machine.execAmove h o s
  | .fenceAcq h => Sys2Proof.Machine.execFenceAcq h s
  | .fenceRel h o => Sys2Proof.Machine.execFenceRel h o s
  | .fenceFull h o => Sys2Proof.Machine.execFenceFull h o s
  | .waitaddr h o => Sys2Proof.Machine.execWaitaddr h o s
  | .evsig h o => Sys2Proof.Machine.execEvsig h o s
  | .evwait h o => Sys2Proof.Machine.execEvwait h o s
  | .send h o => Sys2Proof.Machine.execSend h o s
  | .sendv h o => Sys2Proof.Machine.execSendv h o s
  | .sendRel h o => Sys2Proof.Machine.execSendRel h o s
  | .recv h o => Sys2Proof.Machine.execRecv h o s
  | .recvv h o => Sys2Proof.Machine.execRecvv h o s
  | .recvAny h o => Sys2Proof.Machine.execRecvAny h o s
  | .recvvAny h o => Sys2Proof.Machine.execRecvvAny h o s
  | .sstep h => Sys2Proof.Machine.execSstep h s
  | .bar h o => Sys2Proof.Machine.execBar h o s
  | .fprobe h o => Sys2Proof.Machine.execFprobe h o s
  | .fork h o => Sys2Proof.Machine.execFork h o s
  | .rdv h o => Sys2Proof.Machine.execRdv h o s
  | .hwait h o => Sys2Proof.Machine.execHwait h o s
  | .hdet h o => Sys2Proof.Machine.execHdet h o s
  | .htest h o => Sys2Proof.Machine.execHtest h o s
  | .hpass h o => Sys2Proof.Machine.execHpass h o s
  | .hcancel h o => Sys2Proof.Machine.execHcancel h o s
  | .cpy h o => Sys2Proof.Machine.execCpy h o s
  | .cpyf h o => Sys2Proof.Machine.execCpyf h o s
  | .cpyb h o => Sys2Proof.Machine.execCpyb h o s
  | .qfence h o => Sys2Proof.Machine.execQfence h o s
  | .coll h o => Sys2Proof.Machine.execColl h o s
  | .contend h o => Sys2Proof.Machine.execContend h o s
  | .afclaim h o => Sys2Proof.Machine.execAfclaim h o s
  | .afcal h o => Sys2Proof.Machine.execAfcal h o s
  | .afcfg h o => Sys2Proof.Machine.execAfcfg h o s
  | .afscale h o => Sys2Proof.Machine.execAfscale h o s
  | .afrun h o => Sys2Proof.Machine.execAfrun h o s
  | .afsettle h o => Sys2Proof.Machine.execAfsettle h o s
  | .afsample h o => Sys2Proof.Machine.execAfsample h o s
  | .afstop h o => Sys2Proof.Machine.execAfstop h o s
  | .afrel h o => Sys2Proof.Machine.execAfrel h o s
  | .ctxsave h o => Sys2Proof.Machine.execCtxsave h o s
  | .ctxload h o => Sys2Proof.Machine.execCtxload h o s
  | .mint h o => Sys2Proof.Machine.execMint h o s
  | .fret h o => Sys2Proof.Machine.execFret h o s
  | .tlbwr h o => Sys2Proof.Machine.execTlbwr h o s
  | .tlbinv h o => Sys2Proof.Machine.execTlbinv h o s
  | .snap h o => Sys2Proof.Machine.execSnap h o s
  | .mseal h o => Sys2Proof.Machine.execMseal h o s
  | .evIssue c => Sys2Proof.Machine.execEvIssue c s
  | .evArrival src h => Sys2Proof.Machine.execEvArrival src h s
  | .evPerform h => Sys2Proof.Machine.execEvPerform h s
  | .evApply h => Sys2Proof.Machine.execEvApply h s
  | .evPairSecondHome h => Sys2Proof.Machine.execEvPairSecondHome h s
  | .evReplyDelivery n => Sys2Proof.Machine.execEvReplyDelivery n s
  | .evWcbFlush c line => Sys2Proof.Machine.execEvWcbFlush c line s
  | .evEngineEntryBegin c q => Sys2Proof.Machine.execEvEngineEntryBegin c q s
  | .evHandleResolve c q => Sys2Proof.Machine.execEvHandleResolve c q s
  | .evWakeDelivery n => Sys2Proof.Machine.execEvWakeDelivery n s
  | .evWaitTimeout c => Sys2Proof.Machine.execEvWaitTimeout c s
  | .evHostInboundWrite ep addr data => Sys2Proof.Machine.execEvHostInboundWrite ep addr data s
  | .evHostInboundRead ep addr len => Sys2Proof.Machine.execEvHostInboundRead ep addr len s
  | .evHostFlushRead ep c => Sys2Proof.Machine.execEvHostFlushRead ep c s
  | .evMailboxDeliver c n => Sys2Proof.Machine.execEvMailboxDeliver c n s
  | .evContextTimeslice cell => Sys2Proof.Machine.execEvContextTimeslice cell s
  | .evMintArrival n => Sys2Proof.Machine.execEvMintArrival n s
  | .evFaultRecordPost c => Sys2Proof.Machine.execEvFaultRecordPost c s
  | .evFqtailWrite k tc v => Sys2Proof.Machine.execEvFqtailWrite k tc v s
  | .evFaultDomainEnd dom => Sys2Proof.Machine.execEvFaultDomainEnd dom s
  | .evFpWindowClose r => Sys2Proof.Machine.execEvFpWindowClose r s
  | .evCellComplete c => Sys2Proof.Machine.execEvCellComplete c s
  | .evChildLaunch r cells => Sys2Proof.Machine.execEvChildLaunch r cells s
  | .evLaunchSelect frame cells => Sys2Proof.Machine.execEvLaunchSelect frame cells s
  | .evExchangeTransfer r => Sys2Proof.Machine.execEvExchangeTransfer r s
  | .evRoundTimerExpiry c => Sys2Proof.Machine.execEvRoundTimerExpiry c s
  | .evRoundMarkerArrival c src => Sys2Proof.Machine.execEvRoundMarkerArrival c src s
  | .evTokenPass r => Sys2Proof.Machine.execEvTokenPass r s
  | .evContendRegister c => Sys2Proof.Machine.execEvContendRegister c s
  | .evWaggleContest lane => Sys2Proof.Machine.execEvWaggleContest lane s
  | .evContestResult lane => Sys2Proof.Machine.execEvContestResult lane s
  | .evSequencerBind g => Sys2Proof.Machine.execEvSequencerBind g s
  | .evBindingReceive num rank => Sys2Proof.Machine.execEvBindingReceive num rank s
  | .evCollectiveStart num rank => Sys2Proof.Machine.execEvCollectiveStart num rank s
  | .evContributionArrival num rank => Sys2Proof.Machine.execEvContributionArrival num rank s
  | .evTgTimeout num => Sys2Proof.Machine.execEvTgTimeout num s
  | .evCancelRecord num rank => Sys2Proof.Machine.execEvCancelRecord num rank s
  | .evSwitchFailure num bitmap => Sys2Proof.Machine.execEvSwitchFailure num bitmap s
  | .evSequencerHeartbeat => Sys2Proof.Machine.execEvSequencerHeartbeat s
  | .evSequencerFailover n => Sys2Proof.Machine.execEvSequencerFailover n s
  | .evRegistrationRetry c => Sys2Proof.Machine.execEvRegistrationRetry c s
  | .evAfcalComplete c => Sys2Proof.Machine.execEvAfcalComplete c s
  | .evFabricSaturation c n => Sys2Proof.Machine.execEvFabricSaturation c n s
  | .evFabricSettleDone c => Sys2Proof.Machine.execEvFabricSettleDone c s
  | .evFabricSettleTimeout c => Sys2Proof.Machine.execEvFabricSettleTimeout c s
  | .evQueueDoorbell q tail => Sys2Proof.Machine.execEvQueueDoorbell q tail s
  | .evQueueLaunch q => Sys2Proof.Machine.execEvQueueLaunch q s
  | .evQueueFence q => Sys2Proof.Machine.execEvQueueFence q s
  | .evQueueFenceComplete q => Sys2Proof.Machine.execEvQueueFenceComplete q s
  | .evQueueCancel q => Sys2Proof.Machine.execEvQueueCancel q s
  | .evRegisterWrite addr v => Sys2Proof.Machine.execEvRegisterWrite addr v s
  | .evLinkRetry l => Sys2Proof.Machine.execEvLinkRetry l s
  | .evLinkFail l => Sys2Proof.Machine.execEvLinkFail l s
  | .evLinkRateChange l width rate => Sys2Proof.Machine.execEvLinkRateChange l width rate s
  | .evBudgetInterval inp => Sys2Proof.Machine.execEvBudgetInterval inp s
  | .evFrequencyStep frame mhz => Sys2Proof.Machine.execEvFrequencyStep frame mhz s
  | .evRelockRestart frame => Sys2Proof.Machine.execEvRelockRestart frame s
  | .evSnapshotTrigger => Sys2Proof.Machine.execEvSnapshotTrigger s
  | .evMeterList => Sys2Proof.Machine.execEvMeterList s
  | .evMeterRead c => Sys2Proof.Machine.execEvMeterRead c s
  | .evGetVersion => Sys2Proof.Machine.execEvGetVersion s
  | .evGetCapabilities => Sys2Proof.Machine.execEvGetCapabilities s
  | .evNegotiateAlgorithms ed25519 sha512 => Sys2Proof.Machine.execEvNegotiateAlgorithms ed25519 sha512 s
  | .evGetDigests => Sys2Proof.Machine.execEvGetDigests s
  | .evGetCertificate slot => Sys2Proof.Machine.execEvGetCertificate slot s
  | .evChallenge nonce => Sys2Proof.Machine.execEvChallenge nonce s
  | .evGetMeasurements index => Sys2Proof.Machine.execEvGetMeasurements index s
  | .evPackageReset up => Sys2Proof.Machine.execEvPackageReset up s
  | .evPatrolScrub frame sector res => Sys2Proof.Machine.execEvPatrolScrub frame sector res s
  | .evCellError c => Sys2Proof.Machine.execEvCellError c s
  | .evQueueEnable q en size => Sys2Proof.Machine.execEvQueueEnable q en size s
  | .evGroupCreate g => Sys2Proof.Machine.execEvGroupCreate g s
  | .evStandbyReplacement n => Sys2Proof.Machine.execEvStandbyReplacement n s
  | .evExportRevocation frame index => Sys2Proof.Machine.execEvExportRevocation frame index s
  | .evSnapshotRelease => Sys2Proof.Machine.execEvSnapshotRelease s

end Sys2Proof.Machine
end

