-- ==== Sys2Proof/Machine/EngineProgs.lean ====
section
/-!
DEFINITION. One step of an engine on the entry it has begun (R97): a piece of a copy (R288 to R290), one instruction of
a forked program (R242, R253, R254, R283), or the sample of queue 7 (R140).
-/
namespace Sys2Proof.Machine

/-! ### Fetching an instruction of a program (R176, R283) -/

/-- The instruction at a slot: the line-word and parity checks apply, and stops, nseq and stall fields do not. -/
noncomputable def State.programSlot (s : State) (c : Ctx) (pc : Word) : Except Trap SlotInstr :=
  let k := slotOf pc
  let la := lineAddr pc
  match s.fetchLine c pc with
  | .error t => .error t
  | .ok line =>
    if lineParityBad (lineWord line) then .error ⟨cFetchParity, 0, la⟩
    else if slotParityBad line k then .error ⟨cFetchParity, 0, pc⟩
    else
      match lineReason (lineWord line) with
      | some r => .error ⟨cIllegal, r, BitVec.ofNat 64 (lineWord line)⟩
      | none =>
        decodeSlot .user pc (slotWord line k)

/-! ### What the sequencers allow (R283) -/

/-- The instructions of the matrix sequencer that touch no memory, with what they do. -/
def matrixEffect : Instr → Option (Hdr × (Ctx → State → EngOut))
  | .nop h => some (h, fun c s => .done s c)
  | .mzero h o => some (h, matZero o)
  | .mwrrow h o => some (h, matWrRow o)
  | .mmov h o => some (h, matMov o)
  | .masel h o => some (h, matSelA o)
  | .masx h o => some (h, matSelX o)
  | .mbsel h o => some (h, matSelB o)
  | _ => none

/-- The copies of the copy sequencer: q and handle fields are zero. -/
def copyEffect (R : Regs) : Instr → Option (Hdr × Option CopyOp)
  | .nop h => some (h, none)
  | .cpy h o => plain h o .raw
  | .cpyf h o => plain h o .formatted
  | .cpyb h o =>
    if o.q = 0 ∧ o.h = 0 then
      let gb := R.gr o.b
      some (h, some (.start .panel 0 (R.gr o.src) (bitsAt gb.toNat 32 16) gb))
    else none
  | _ => none
where
  /-- `cpy` and `cpyf`. -/
  plain (h : Hdr) (o : Cpy) (k : CopyKind) : Option (Hdr × Option CopyOp) :=
    if o.q = 0 ∧ o.h = 0 then
      some (h, some (.start k (R.gr o.dst) (R.gr o.src) ((R.rg o.len).toNat % 2 ^ 32) 0))
    else none

/-- The predicate of `halt`, if the instruction is one. -/
def haltOf : Instr → Option Hdr
  | .halt h => some h
  | _ => none

/-! ### Results (R281) -/

/-- The FAILED words of a program that a fault has ended. -/
def progFailed (p : Prog) (koff : Nat) (t : Trap) : HState × Word × Word :=
  (.failed, BitVec.ofNat 64 (2 ^ 48 + t.cause % 2 ^ 16 * 2 ^ 32 + p.index % 2 ^ 16 * 2 ^ 16 + koff % 2 ^ 16), t.addr)

/-- The FAILED words of a copy within a program: the index of the copy, and its bytes completed up to 0xFFFF. -/
def progCopyFailed (p : Prog) (res det : Word) : HState × Word × Word :=
  let n := min (res.toNat % 2 ^ 32) 0xFFFF
  (.failed, BitVec.ofNat 64 (res.toNat / 2 ^ 32 * 2 ^ 32 + p.index % 2 ^ 16 * 2 ^ 16 + n), det)

/-- The next slot of a program. -/
def Prog.advance (p : Prog) : Prog := { p with pc := nextSlot p.pc, index := p.index + 1, cur := none, run := none }

/-- A program that is over but for acknowledgements. -/
def Prog.over (p : Prog) (x : HState × Word × Word) : Prog := { p with cur := none, run := none, fin := some x }

/-! ### Steps -/

/-- The work of an entry changes. -/
def State.setWork (s : State) (cid : CtxId) (q : Nat) (e : Entry) (w : Work) : State :=
  s.updCtx cid fun x => x.setEntry q e.op fun y => { y with work := w }

/-- The work of an entry is over. -/
def State.workDone (s : State) (cid : CtxId) (q : Nat) (e : Entry) (x : HState × Word × Word) : State :=
  s.updCtx cid fun c => c.entryDone q e.op x.1 x.2.1 x.2.2

/-- What an instruction of a matrix program leaves of the context: the matrix state, the state registers, the meters. -/
def State.matrixUpdate (s : State) (c : Ctx) : State :=
  s.updCtx c.cid fun x => { x with mat := c.mat, sr := c.sr, meters := c.meters }

/-- The port of an entry of a queue. -/
def portOf (c : Ctx) (q : Nat) (e : Entry) : Port := ⟨.engine c.cid q, e.op⟩

/-- A step of a copy, with what follows when it goes on and when it is over. -/
def State.engineCopy (s : State) (c : Ctx) (q : Nat) (e : Entry) (o : CopyOp) (more : State → CopyOp → State)
    (fin : State → HState × Word × Word → State) : Out :=
  match copyStep (portOf c q e) o c s with
  | .more s o => .next (more (s.holdEntry c.cid q e false) o)
  | .held => .next (s.holdEntry c.cid q e true)
  | .done s st res det => .next (fin s (st, res, det))
  | .wait => .next s
  | .absent f => .fault (.absentStack f)

/-- What a copy of a program meets before it begins. -/
def State.copyRefused (s : State) (c : Ctx) (o : CopyOp) : Option Trap :=
  match o.kind with
  | .panel => firstFault [s.copyForeign c [(o.src, o.len * 128)], s.panelFault c o.src o.bsel, s.sliceFault c]
  | _ => s.copyForeign c [(o.dst, o.len), (o.src, o.len)]

/-- A program whose words are known is over once every access has been acknowledged; an error answer fails it (R99, R283). -/
def State.progOver (s : State) (c : Ctx) (q : Nat) (e : Entry) (p : Prog) (x : HState × Word × Word) : Out :=
  let io := portOf c q e
  if !s.ioOver io.src io.id then .next s
  else
    let out := match (if x.1 = .done then s.ioBad io.src io.id else none) with
      | some t => progFailed p 0 t
      | none => x
    .next ((s.ioDrop io.src io.id).workDone c.cid q e out)

/-- A step of a forked `mma` (R253, R254, R283): its reads are messages of queue 4. -/
def State.forkedMma (s : State) (c : Ctx) (e : Entry) (p : Prog) (o : MmaOp) : Out :=
  let io := portOf c 4 e
  let put := fun (s : State) (p : Prog) => s.setWork c.cid 4 e (.prog true p)
  let fail := fun (s : State) (c : Ctx) (t : Trap) =>
    Host.Outcome.next (put (s.matrixUpdate c) (p.over (progFailed p (32 * c.mat.koff.toNat) t)))
  match mmaStep o p.run { c with regs := p.regs } s with
  | .begun a => .next (put s { p with run := some ⟨a, false, none⟩ })
  | .read ps =>
    let parts := ps.map Prod.fst
    let s := ((s.tlbTouch c parts).updCtx c.cid fun c => c.charge parts).ioSendReads io.src io.id (blockLen o) ps
    .next (put s { p with run := p.run.map fun r => { r with waiting := true } })
  | .wait =>
    if !s.ioRead? io.src io.id then .next s
    else
      match s.ioBad io.src io.id with
      | some t => fail s c t
      | none => .next (put s { p with run := p.run.map fun r => { r with waiting := false, buf := some (s.ioBytes io.src io.id) } })
  | .added c true => .next (put (s.matrixUpdate c) p.advance)
  | .added c false => .next (put (s.matrixUpdate c) { p with run := p.run.map fun r => { r with buf := none } })
  | .trap c t => fail s c t
  | .absent f => .fault (.absentStack f)

/-- A forked `mdrain`: its writes are messages of queue 4. -/
def State.forkedDrain (s : State) (c : Ctx) (e : Entry) (p : Prog) (o : MdrainOp) : Out :=
  let io := portOf c 4 e
  let put := fun (s : State) (p : Prog) => s.setWork c.cid 4 e (.prog true p)
  match drainOf o true { c with regs := p.regs } s with
  | .stores ps d =>
    let r := s.engineWrite c 4 e io.src ps
    .next (if r.2 then put (r.1.matrixUpdate d) p.advance else r.1)
  | .trap c t => .next (put (s.matrixUpdate c) (p.over (progFailed p 0 t)))
  | .absent f => .fault (.absentStack f)

/-- Any other instruction of a matrix program. -/
def State.forkedPlain (s : State) (c : Ctx) (e : Entry) (p : Prog) (i : SlotInstr) : Out :=
  let put := fun (s : State) (p : Prog) => s.setWork c.cid 4 e (.prog true p)
  match matrixEffect i.i with
  | none => .next (put s (p.over (progFailed p 0 ⟨cIllegal, 0, highBits i.word⟩)))
  | some (h, f) =>
    if !predOn h p.regs then .next (put s p.advance)
    else
      match f { c with regs := p.regs } s with
      | .done s c => .next (put (s.matrixUpdate c) p.advance)
      | .trap s c t => .next (put (s.matrixUpdate c) (p.over (progFailed p 0 t)))
      | .busy _ _ | .wait _ => .next s
      | .absent f => .fault (.absentStack f)

/-- A step of a matrix program: its next instruction, or the next step of its `mma`. -/
noncomputable def State.matrixStep (s : State) (c : Ctx) (e : Entry) (p : Prog) : Out :=
  let put := fun (s : State) (p : Prog) => s.setWork c.cid 4 e (.prog true p)
  match p.fin with
  | some x => s.progOver c 4 e p x
  | none =>
    match s.programSlot c p.pc with
    | .error t => .next (put s (p.over (progFailed p 0 t)))
    | .ok i =>
      let s := s.fetchTouch c p.pc
      match i.i with
      | .halt h => .next (put s (if predOn h p.regs then p.over (.done, 0, 0) else p.advance))
      | .mma h o => if predOn h p.regs then s.forkedMma c e p o else .next (put s p.advance)
      | .mdrain h o => if predOn h p.regs then s.forkedDrain c e p o else .next (put s p.advance)
      | _ => s.forkedPlain c e p i

/-- The next instruction of a copy program. -/
noncomputable def State.copierNext (s : State) (c : Ctx) (e : Entry) (p : Prog) : Out :=
  let put := fun (p : Prog) => Host.Outcome.next ((s.fetchTouch c p.pc).setWork c.cid 5 e (.prog false p))
  match s.programSlot c p.pc with
  | .error t => put (p.over (progFailed p 0 t))
  | .ok i =>
    match haltOf i.i with
    | some h => put (if predOn h p.regs then p.over (.done, 0, 0) else p.advance)
    | none =>
      match copyEffect p.regs i.i with
      | none => put (p.over (progFailed p 0 ⟨cIllegal, 0, highBits i.word⟩))
      | some (_, none) => put p.advance
      | some (h, some o) =>
        if !predOn h p.regs then put p.advance
        else
          match s.copyRefused c o with
          | some t => put (p.over (progFailed p 0 t))
          | none => if o.len = 0 then put p.advance else put { p with cur := some o }

/-- The copy that an entry makes now. -/
def Entry.copying (e : Entry) : Bool :=
  match e.work with
  | .prog _ p => p.cur.isSome
  | _ => false

/-- A step of a copy program: of the copy it makes, or its next instruction. -/
noncomputable def State.copierStep (s : State) (c : Ctx) (e : Entry) (p : Prog) : Out :=
  match p.cur, p.fin with
  | some o, _ =>
    s.engineCopy c 5 e o (fun s o => s.setWork c.cid 5 e (.prog false { p with cur := some o }))
      fun s x => s.setWork c.cid 5 e (.prog false (if x.1 = .done then p.advance else p.over (progCopyFailed p x.2.1 x.2.2)))
  | none, some x => s.progOver c 5 e p x
  | none, none => s.copierNext c e p

/-- The entry that an engine has begun. -/
def Ctx.engaged (c : Ctx) (q : Nat) : Option Entry := (c.queue q).head?.filter fun e => e.course == .begun

/-- A program stops while its context is not resident, or has been stopped: between two instructions, between two K blocks,
or after the copy it makes (R57, R253). -/
def Ctx.programStopped (c : Ctx) (e : Entry) : Bool :=
  (!c.resident || c.status == .parked .supervisor) && !e.copying

/-- One step of the engine of a queue; the engines of a frame rest while its clocks are stopped (R24). -/
noncomputable def engineStep (cid : CtxId) (q : Nat) (s : State) : Out :=
  match s.ctx? cid with
  | none => .next s
  | some c =>
    match c.engaged q with
    | none => .next s
    | some e =>
      match e.work with
      | .fabric (.sample dst nums codes digits at_) => s.takeSample c e dst nums codes digits at_
      | w =>
        if s.stopped (combFrame c.comb) then .next s
        else
          match w with
          | .copy o => s.engineCopy c q e o (fun s o => s.setWork cid q e (.copy o)) fun s x => s.workDone cid q e x
          | .prog m p =>
            if c.programStopped e then .next s
            else if m then s.matrixStep c e p
            else s.copierStep c e p
          | .coll o => .next (s.registerColl c e o)
          | _ => .next s

end Sys2Proof.Machine
end

