-- ==== Sys2Proof/Machine/Settings.lean ====
section
/-!
DEFINITION. Steps that the manual describes and that no row of the opcode table lists: what package firmware and the driver
set (R350, R351, R354, R367, R372), errors of memories (R70, R378), a cell's test (R337), and a fault that the translation
cell forwards (R346). A step that is not enabled changes nothing.
-/
namespace Sys2Proof.Machine

/-! ### Partitions (R350) -/

/-- Is an address-space number in the range of a partition. -/
def Partition.has (p : Partition) (asid : Nat) : Bool := p.asidLo ≤ asid && asid < p.asidHi

/-- A range of its own for each partition, and links and slots of its own. -/
def Partition.apart (a b : Partition) : Bool :=
  (a.asidHi ≤ b.asidLo || b.asidHi ≤ a.asidLo) && (a.cxlHi ≤ b.cxlLo || b.cxlHi ≤ a.cxlLo) &&
    a.links.all (fun l => !b.links.contains l) && a.slots.all fun k => !b.slots.contains k

/-- Eight partitions at most; address-space numbers, Valtia Links and contest slots that exist. -/
def Partition.ok (p : Partition) : Bool :=
  p.id < 8 && p.asidLo < p.asidHi && p.asidHi ≤ 2 ^ 16 && p.cxlLo ≤ p.cxlHi && p.cxlHi ≤ 2 ^ 26 &&
    p.links.all (fun l => 6 ≤ l && l < 30) && p.slots.all fun k => k < 12

/-- A frame has a running region or an entry that is to run. -/
def State.frameBusy (s : State) (f : Nat) : Bool :=
  (s.regions.any fun r => r.phase != .done && (r.home == f || r.map.any fun i => cellFrame i == f)) ||
    s.hub.entries.any fun e => e.queue / 128 == f || e.needs.any fun x => x.1 == f

/-- The queues of a frame belong to its partition: an address space of another one gives way to the first of its own. DESIGN
CHOICE (log 66). -/
def State.fitQueues (s : State) (f : Nat) (p : Partition) : State :=
  ((List.range 128).map (· + 128 * f)).foldl (fun (s : State) q =>
    let r := s.queueRegs q
    if p.has r.asid.toNat then s
    else s.setQueue q { r with ctrl := BitVec.ofNat 16 p.asidLo ++ r.ctrl.extractLsb' 0 48 }) s

/-- Package firmware defines a partition; nothing runs on its frames. -/
def State.definePartition (s : State) (p : Partition) : State :=
  let mine := (List.range 8).filter fun f => (s.frameRec f).partition == p.id
  if !p.ok || !((s.partitions.filter fun x => x.id != p.id).all p.apart) || mine.any s.frameBusy then s
  else mine.foldl (fun (s : State) f => s.fitQueues f p) { s with partitions := upsert (fun x => x.id == p.id) p s.partitions }

/-- Package firmware moves a live frame on which nothing runs to a partition. -/
def State.moveFrame (s : State) (f p : Nat) : State :=
  match s.partition? p with
  | none => s
  | some x =>
    if !s.hub.live.getLsbD f || s.frameBusy f then s
    else (s.setFrame { s.frameRec f with partition := p }).fitQueues f x

/-! ### Settings of firmware and driver -/

/-- The firmware fields of a queue (R354): an address space of its frame's partition, and the priority cap. -/
def State.setQueueFirmware (s : State) (q : Nat) (asid : BitVec 16) (pcap : Nat) : State :=
  if !s.queueLive q || 16 ≤ pcap || !((s.partition? (s.frameRec (q / 128)).partition).any fun p => p.has asid.toNat) then s
  else
    let r := s.queueRegs q
    s.setQueue q { r with ctrl := asid ++ ((r.ctrl.extractLsb' 0 48 &&& 0xFFFFFFFF0FFF) ||| BitVec.ofNat 48 (pcap * 2 ^ 12)) }

/-- Fields of an import entry that must be zero (R351). -/
def Import.ok (m : Import) : Bool :=
  let w := fun k => (m.words.getD k 0).toNat
  m.index < 1024 && m.words.length == 4 && bitsAt (w 0) 40 24 == 0 && bitsAt (w 1) 32 32 == 0 && bitsAt (w 2) 40 3 == 0 &&
    bitsAt (w 3) 3 45 == 0

/-- Firmware writes an entry of a frame's import table; it stands until its export is revoked (R351, R352). -/
def State.writeImport (s : State) (f : Nat) (m : Import) : State :=
  if !s.hub.live.getLsbD f || !m.ok then s
  else
    let r := s.frameRec f
    s.setFrame { r with imports := upsert (fun x => x.index == m.index) { m with revoked := false } r.imports }

/-- The driver supplies the ring of power records (R372), in host memory: it reaches no other (R326). -/
def State.setRing (s : State) (pa : Nat) : State :=
  match homeOf pa with
  | .host e =>
    if homeOf (pa + 64 * 4096 - 1) = .host e then { s with power := { s.power with ring := some pa, recNext := 0 } } else s
  | _ => s

/-! ### Errors of memories (R70, R378) -/

/-- Data become uncorrectable: a sector of HBM or of the CXL tier, which may report poison, or a word of a vault. One in local
memory is a cell-error (R329). -/
def State.spoil (s : State) (pa : Nat) : State :=
  if (s.absent? pa).isSome then s
  else
    match homeOf pa with
    | .hbm _ _ | .cxl _ => if 2 ^ 44 ≤ pa then s else s.poisonSector (pa / 32)
    | .vault _ => if s.power.sram.contains (pa / 8) then s else { s with power := { s.power with sram := s.power.sram ++ [pa / 8] } }
    | _ => s

/-! ### Supervision (R337, R346) -/

/-- A sealed cell fails its test: it is not used again. -/
def State.failTest (s : State) (i : CellId) : State :=
  let r := s.cellRec i
  if r.isSealed then s.setCell { r with isFailed := true } else s

/-- The translation cell forwards the record of a translation fault to the supervisor with cause 0x0011, and the fault is then
handled as one of that cause. -/
def State.forward (s : State) (cid : CtxId) : State :=
  match s.ctx? cid with
  | none => s
  | some c =>
    match c.fault with
    | none => s
    | some f =>
      if !f.posted || f.cause.toNat ≠ cTranslation then s
      else
        let g := { f with cause := BitVec.ofNat 16 cProtection }
        match s.postRecord c.comb false (recordWords c g) with
        | none => s
        | some s => s.updCtx cid fun c => { c with fault := some g }

/-! ### The steps -/

def execUnlisted (x : Unlisted) (s : State) : Out :=
  .next (match x with
    | .queue q asid pcap => s.setQueueFirmware q asid pcap
    | .partition p => s.definePartition p
    | .framePartition f p => s.moveFrame f p
    | .ceiling f mhz => if setpointOk mhz && s.hub.live.getLsbD f then s.setFrame { s.frameRec f with ceiling := mhz } else s
    | .recordKind p kernel =>
      if p < 8 then { s with power := { s.power with recordKind := upsert (fun x => x.1 == p) (p, kernel) s.power.recordKind } } else s
    | .recordRing pa => s.setRing pa
    | .importEntry f m => s.writeImport f m
    | .testFailed i => s.failTest i
    | .corrected f => if s.hub.live.getLsbD f then s.countCorrection f else s
    | .uncorrectable pa => s.spoil pa
    | .forward c => s.forward c)

end Sys2Proof.Machine
end

