-- ==== Sys2Proof/Machine/Run.lean ====
section
/-!
DEFINITION. One move of the machine: a context issues its next slot (R53, R178, R179), an engine takes a step, a step
without an encoding is taken, or time passes; and the moves that are tried when the agenda names none (log 2).
-/
namespace Sys2Proof.Machine

/-! ### Issue -/

/-- The slot in execution, unless an interlock holds it back. -/
def State.runSlot (s : State) (i : SlotInstr) : Option Out :=
  if s.th.interlocked i.i then none
  else
    match s.sigHalt i.i with
    | some t => some (faultOut s t)
    | none => some (exec i.i s)

/-- A group begins: it is counted as a cycle of issue (R373, log 54), its words enter the signature, and its first slot
executes. -/
def State.startGroup (s : State) (g : GroupIssue) : Out :=
  let s := s.mapTh fun c =>
    { c with grp := some g, meters := { c.meters with issued := satAdd c.meters.issued 1 } }.sigWords g.rest
  match g.rest with
  | [] => .next s
  | i :: _ => (s.runSlot i).getD (.next s)

/-- A fault before a group begins, at the slot that sr.tpc names. -/
def faultBefore (s : State) (e : Word × Trap) : Out := faultOut (s.mapTh fun c => { c with pc := e.1 }) e.2

/-- The next group of an attached follower begins from its leader's stream; any other context fetches the group at its
program counter. The first fault of R188 stops it, otherwise its first slot executes. -/
noncomputable def State.beginGroup (s : State) (taken : Bool) : Option Out :=
  match if gangRole s.th = 2 then s.th.gang.trace.head? else none with
  | some x =>
    let s := s.mapTh fun c => { c with pc := x.grp.first }
    if x.grp.slots.any fun i => Instr.transfers i.i && s.th.interlocked i.i then none
    else
    match s.sigArrive s.th taken with
    | .error t => some (faultOut s t)
    | .ok c =>
      let s := { s with th := c }
      match s.streamGroup c x with
      | .error e => some (faultBefore s e)
      | .ok g => some (s.startGroup g)
  | none =>
    if s.th.fetchHeld taken then none
    else
      match s.fetchAbsent s.th with
      | some f => some (.fault (.absentStack f))
      | none =>
        if s.targetHeld s.th then none
        else
          match s.sigArrive s.th taken with
          | .error t => some (faultOut s t)
          | .ok c =>
            let s := { s with th := c }
            match s.groupAt c with
            | .error e => some (faultBefore s e)
            | .ok g => some ((s.fetchTouch c c.pc).startGroup g)

/-- The next slot of the context that issues; `none` when it waits. An attached follower whose outcome has been compared
and whose leader has not gone further stays where it is. -/
noncomputable def State.issueStep (s : State) : Option Out :=
  match s.th.grp with
  | some g =>
    match g.rest with
    | i :: _ => s.runSlot i
    | [] =>
      if s.th.behind then none
      else
        let t := s.compare g
        if t.th.behind then some (.next t) else (t.endGroup g).beginGroup (s.th.tookTransfer g)
  | none => if s.th.behind then none else s.beginGroup false

/-- A parked context tries its instruction again (R53): it goes on when the wait is over, at once if its cell is free,
and otherwise becomes ready. A load that holds its context is not made again, and a wait of its own that stands in a table
ends first. -/
def State.tryAgain (s : State) : Option Out :=
  match if s.th.pend.any s.th.heldBy || s.th.wait.any WaitState.entered then none else s.th.grp.bind fun g => g.rest.head? with
  | none => none
  | some i =>
    match exec i.i s with
    | .next t =>
      if t = s then none
      else if s.seatFree s.th then some (.next t)
      else some (.next (s.mapTh fun c => { c with status := .ready }))
    | o => some o

/-- A context gets its turn. One that counts as parked leaves its cell, and waits there until it is held back no more. -/
noncomputable def State.turnOf (s : State) (c : CtxId) : Option Out :=
  let f := s.focus c
  if f.th.cid ≠ c || (f.frameRec (combFrame f.th.comb)).relock.isSome || f.th.ended || f.th.completed || f.edgeDue f.th then none
  else
    match f.th.status with
    | .running => if f.heldBack f.th then some (.next (f.mapTh fun c => { c with status := .ready })) else f.issueStep
    | .ready =>
      if f.seatFree f.th && !f.heldBack f.th then some (.next (f.mapTh fun c => { c with status := .running, since := s.now })) else none
    | .parked why => if why.retried then f.tryAgain else none
    | .empty | .saved => none

/-! ### Time -/

/-- A clock's end comes before more time passes: a contest begins at its instant and its result comes within 400 ns
(R150, R154), a relock takes at most 600 ns (R370), the power arbiter acts every 10 µs (R367), an armed snapshot is taken at
its instant (R376), and the fabric dies settle what is due (R136 to R138). -/
def State.timeDue (s : State) : Bool :=
  (List.range 16).any (fun l => (s.dueContest l).isSome) || (s.plane.results.any fun r => decide (r.due + 400 ≤ s.now)) ||
    (s.frames.any fun f => f.relock.isSome && decide (f.relockAt + 600 ≤ s.now)) || decide (s.power.nextInterval ≤ s.now) ||
    (s.power.snapArmed.any fun x => decide (x.2.2 ≤ s.now)) || s.fabricDue

/-- One nanosecond of a cell under a duty: what power, thermal or current gate, in MHz times sixteenths (R372). A stopped clock
counts no cycle. -/
def State.gateCell (s : State) (c : CellRec) : CellRec :=
  let f := s.frameRec (cellFrame c.id)
  let d := c.dutyAtTime s.now
  if d = 16 ∨ f.relock.isSome then c
  else { c with gated := c.gated.mapIdx fun k x => if c.whyAtTime s.now = k + 1 then x + (16 - d) * f.mhz else x }

/-- Nanoseconds pass, one by one, until something is due. -/
def State.pass : Nat → State → State
  | 0, s => s
  | n + 1, s => if s.timeDue then s else State.pass n { s.fabricFlow with cells := s.cells.map s.gateCell, now := s.now + 1 }

/-! ### Moves -/

/-- A step without an encoding; an instruction is none. -/
noncomputable def State.takeEvent (s : State) (i : Instr) : Out := if (encode i).isNone then exec i s else .next s

/-- Perform a move; a move that is not enabled changes nothing (log 3). -/
noncomputable def State.makeMove (s : State) : Move → Out
  | .issue c => (s.turnOf c).getD (.next s)
  | .engine c q => engineStep c q s
  | .event i => s.takeEvent i
  | .unlisted x => execUnlisted x s
  | .time ns => .next (s.pass ns)

/-! ### Moves tried when the agenda is empty (log 2) -/

/-- Moves of a context and its engines. -/
noncomputable def ctxMoves (c : Ctx) : List Move :=
  ([.event (.evIssue c.cid), .event (.evWaitTimeout c.cid), .event (.evFaultRecordPost c.cid),
    .event (.evContendRegister c.cid), .event (.evAfcalComplete c.cid), .event (.evFabricSettleDone c.cid),
    .event (.evFabricSettleTimeout c.cid),
    .event (.evCellComplete c.cid), .event (.evRoundTimerExpiry c.cid)] : List Move) ++
  (c.mq.wcb.map fun l => .event (.evWcbFlush c.cid l.line)) ++
  (c.mq.eps.map fun e => .event (.evHostFlushRead e c.cid)) ++
  ((List.range c.mail.spill.length).map fun n => .event (.evMailboxDeliver c.cid n)) ++
  ((List.range 8).filter fun q => !(c.queue q).isEmpty).flatMap fun q =>
    [.event (.evEngineEntryBegin c.cid q), .engine c.cid q, .event (.evHandleResolve c.cid q)]

/-- Moves of memory. -/
noncomputable def Net.moves (n : Net) : List Move :=
  ((List.range n.replies.length).map fun k => .event (.evReplyDelivery k)) ++
  ((List.range n.wakes.length).map fun k => .event (.evWakeDelivery k)) ++
  (n.aq.flatMap fun f => [.event (.evPerform f.op.home), .event (.evPairSecondHome f.op.home)]) ++
  (n.ch.map fun f => .event (.evArrival f.src f.op.home)) ++
  (n.wq.map fun e => .event (.evApply e.1)) ++
  ((List.range n.mints.length).map fun k => .event (.evMintArrival k))

/-- Moves of a region. -/
noncomputable def Region.moves (r : Region) : List Move :=
  [.event (.evExchangeTransfer r.id), .event (.evTokenPass r.id), .event (.evFpWindowClose r.id)] ++
  (r.ctxs.flatMap fun c => (List.range r.ctxs.length).map fun k => .event (.evRoundMarkerArrival c k))

/-- Moves of the fabric dies. -/
noncomputable def Claim.moves (k : Claim) : List Move := k.integrators.map fun n => .event (.evFabricSaturation k.cid n)

/-- Moves of the hub, the plane, the sequencer and the frames. -/
noncomputable def State.packageMoves (s : State) : List Move :=
  (s.hub.queues.flatMap fun q =>
    ([.event (.evQueueCancel q.1), .event (.evQueueLaunch q.1), .event (.evQueueFence q.1),
      .event (.evQueueFenceComplete q.1)] : List Move)) ++
  (s.plane.cands.map fun c => .event (.evWaggleContest c.lane)) ++
  (s.plane.results.map fun r => .event (.evContestResult r.lane)) ++
  (s.swarm.groups.map fun g => .event (.evSequencerBind g.d.id)) ++
  (s.swarm.binds.flatMap fun b =>
    ((List.range 64).flatMap fun k =>
      ([.event (.evBindingReceive b.num k), .event (.evCollectiveStart b.num k),
        .event (.evContributionArrival b.num k)] : List Move)) ++ [.event (.evTgTimeout b.num), .event (.evSwitchFailure b.num b.bitmap)]) ++
  (s.frames.map fun f => .event (.evRelockRestart f.id)) ++ 
  ((s.regions.filter fun r => r.ending && r.phase != .done).map fun r => .event (.evFaultDomainEnd r.a.domain)) ++
  [.event .evSequencerHeartbeat, .event .evSnapshotTrigger, .event (.evBudgetInterval (Config.budgetInput s.tick))]

/-- Every move that is tried, in the order in which it is tried. -/
noncomputable def State.moves (s : State) : List Move :=
  s.net.moves ++ s.ctxs.flatMap ctxMoves ++ (s.ctxs.map fun c => Move.issue c.cid) ++ s.regions.flatMap Region.moves ++
    s.claims.flatMap Claim.moves ++ s.packageMoves

/-- The outcome of a move, if it changes anything. -/
noncomputable def State.effective (s : State) (m : Move) : Option Out :=
  match s.makeMove m with
  | .next t => if t = s then none else some (.next t)
  | o => some o

/-- The first move that changes anything; when there is none, one nanosecond passes. -/
noncomputable def State.idle (s : State) : Out :=
  (s.moves.findSome? s.effective).getD (.next (s.pass 1))

end Sys2Proof.Machine
end

