-- ==== Sys2Proof/Machine/Step.lean ====
section
/-!
DEFINITION. The step of the machine, and a state whose next step runs a given instruction.
-/
namespace Sys2Proof.Machine

/-- One step: the first move of the agenda; with no agenda, the next slot of the context that issues, and when it waits,
the first other move that changes anything (log 2). -/
noncomputable def step (s : State) : Host.Outcome State Fault Refusal :=
  match s.agenda with
  | m :: ms => { s with agenda := ms }.makeMove m
  | [] => if s.issues s.th then s.issueStep.getD s.idle else s.idle

/-- The context that runs a placed instruction. -/
def placedCtx (c : Ctx) : Ctx :=
  { c with
    place := .user 0, level := .user, status := .running, ended := false, completed := false, pc := 0x100,
    grp := none, loops := [], pend := [], gang := .solo, fault := none, sig := none, mq := { c.mq with iq := [] },
    sr := { c.sr with ctl := 0, gang := 0 } }

/-- The state in which the next step fetches the instruction at the program counter of a user context: its word is slot
0 of the line at 0x100 of the local memory of cell 0, the only branch target of its line, a group of its own. -/
noncomputable def State.withFetchWord (s : State) (nbits w : Nat) : State :=
  let x := w % 2 ^ nbits % 2 ^ 96
  let spar := parity 96 x
  let lw := 0x0800 + 0x3C0 + spar
  let lw := lw + 32 * parity 32 lw
  { s with
    th := placedCtx s.th, agenda := [],
    frames := s.frames.filter fun f => f.id != 0,
    cells := s.cells.filter fun c => c.id != 0,
    net := { s.net with wq := [], aq := s.net.aq.filter fun f => f.src.ctx? != some s.th.cid },
    mem := (s.mem.setNum 0x100 64 0).setNum 0x100 12 x |>.setNum 0x13C 4 lw }

end Sys2Proof.Machine
end

