-- ==== Sys2Proof/Safety.lean ====
section
/-!
DEFINITION. What claims call a sound state, a good step, a result that lands in its register, and the frame of an
instruction.
-/
namespace Sys2Proof.Machine

/-! ### Outcomes -/

/-- Memory is in its canonical form: addresses strictly rising, no entry equal to what an unlisted address reads as. -/
def State.Canonical (s : State) : Prop := s.mem.wf = true

/-- An outcome is a next state with a property. -/
def goesTo (o : Out) (P : State → Prop) : Prop := ∃ t, o = .next t ∧ P t

/-- A property holds of the next state, if there is one. -/
def keeps (o : Out) (P : State → Prop) : Prop := ∀ t, o = .next t → P t

/-- The machine stops. -/
def stops (o : Out) : Prop := (∃ f, o = .fault f) ∨ ∃ r, o = .refused r

/-! ### Registers by specifier -/

/-- The register that a specifier of R167 names, as 256 bits: a g register, a v register or an m register. -/
def Regs.at (R : Regs) (q : BitVec 8) : VWord :=
  if q < 0x40 then (R.rg (q.extractLsb' 0 6)).zeroExtend 256
  else if q < 0x60 then R.rv (q.extractLsb' 0 5)
  else if q < 0x68 then (R.rm (q.extractLsb' 0 3)).zeroExtend 256
  else 0

/-- A result for the register with specifier `q`, of latency class `lat`, has left its instruction, between contexts `c`
and `d` (R179, R180): no other register and no open window of another register has changed; g0 and m0 discard the
result; a result of latency 1 or of an interlocked instruction stands in its register, and no window of that register is
open; a result of a longer latency stands in a window, and its register still holds the old value. -/
def lands (c d : Ctx) (q : BitVec 8) (lat : Nat) (x : VWord) : Prop :=
  (∀ p, p ≠ q → d.regs.at p = c.regs.at p) ∧
  (∀ w, w.spec ≠ q → (w ∈ d.openW ↔ w ∈ c.openW)) ∧
  if q = 0 ∨ q = 0x60 then d.regs = c.regs ∧ d.openW = c.openW
  else if lat ≤ 1 then d.regs.at q = x ∧ ∀ w ∈ d.openW, w.spec ≠ q
  else d.regs = c.regs ∧ ⟨q, lat, x⟩ ∈ d.openW

/-! ### Frames -/

/-- A byte of memory as a load that is performed now would read it (R87). -/
def State.byteAt (s : State) (a : Nat) : Byte := (throughWq s.mem s.net.wq).get a

/-- Every byte of memory reads as before. -/
def memoryKept (s t : State) : Prop := ∀ a, t.byteAt a = s.byteAt a

/-- Control went to the next slot, with the end test of loops (R178, R211). -/
def advances (s t : State) : Prop :=
  t.th.pc = s.th.retire.pc ∧ t.th.grp = s.th.retire.grp ∧ t.th.loops = s.th.retire.loops

/-- Everything of the package outside the issuing context is as before. -/
def onlyContext (s t : State) : Prop := t = { s with th := t.th }

/-- The instruction changed general registers and open windows of its own context and went on to the next slot; nothing
else changed: no state register, no handle, no accumulator, no memory. -/
def onlyRegs (s t : State) : Prop :=
  onlyContext s t ∧ memoryKept s t ∧ advances s t ∧
    t.th = { s.th with regs := t.th.regs, openW := t.th.openW, pc := t.th.pc, grp := t.th.grp, loops := t.th.loops }

/-- As `onlyRegs`, and sr.fpstat and sr.srctr may have changed too. -/
def onlyRegsFp (s t : State) : Prop :=
  onlyContext s t ∧ memoryKept s t ∧ advances s t ∧
    t.th = { s.th with
      regs := t.th.regs, openW := t.th.openW, pc := t.th.pc, grp := t.th.grp, loops := t.th.loops,
      sr := { s.th.sr with fpstat := t.th.sr.fpstat, srctr := t.th.sr.srctr } }

end Sys2Proof.Machine
end

