-- ==== Sys2Proof/Certificates/Slice0/Obligations.lean ====
section
/-!
DEFINITION. The statements for the provers. Helper predicates and tables stand in `Sys2Proof.Claims`; what they say about
an instruction is written from the rules that the docstrings cite.
-/
open Sys2Proof Sys2Proof.Machine

namespace Sys2Proof.Claims

/-! ### Shared vocabulary -/

/-- The low bits of a prepared source, read by type (R193). -/
def val (t : Ty) (a : Word) : Int := if t.signed then signedOf t.bits a.toNat else ((a.toNat % 2 ^ t.bits : Nat) : Int)
/-- The low bits of a prepared source as a natural number. -/
def low (t : Ty) (a : Word) : Nat := a.toNat % 2 ^ t.bits
/-- The amount of a shift (R196). -/
def amt (t : Ty) (b : Word) : Nat := b.toNat % t.bits

/-- The hive mix of a key and a counter (R116). -/
def mix (k c : Word) : Word :=
  let x := k ^^^ (c * 0x8F3A5C71D24BE6C9)
  let x := x ^^^ (x >>> 31)
  let x := x * 0xB5E10A9347F62C1D
  let x := x ^^^ (x >>> 29)
  let x := x * 0x8F3A5C71D24BE6C9
  x ^^^ (x >>> 32)

/-- The number that a finite value is. -/
def real : FVal → Option ℚ
  | .fin n m e => some ((if n then -1 else 1) * (m : ℚ) * (2 : ℚ) ^ e)
  | _ => none
/-- Its magnitude; 0 for a value that is not finite. -/
def magn (v : FVal) : ℚ := |(real v).getD 0|
/-- Is a value a NaN, and a signalling one. -/
def nanSig : FVal → Option Bool
  | .nan sig => some sig
  | _ => none

/-- The outcome is a next state in which a g register received a value and nothing but registers changed. -/
def givesG (s : State) (o : Out) (d : BitVec 6) (lat : Nat) (x : Word) : Prop :=
  goesTo o fun t => onlyRegs s t ∧ lands s.th t.th (Machine.specG d) lat (x.zeroExtend 256)
def givesM (s : State) (o : Out) (d : BitVec 3) (lat : Nat) (x : MWord) : Prop :=
  goesTo o fun t => onlyRegs s t ∧ lands s.th t.th (Machine.specM d) lat (x.zeroExtend 256)
/-- The same for a v register: each lane that the predicate leaves active receives `f j`, the others keep their value
(R217). -/
def givesV (s : State) (o : Out) (h : Hdr) (ty : Ty) (d : BitVec 5) (lat : Nat) (f : Nat → Nat) : Prop :=
  goesTo o fun t => onlyRegs s t ∧ ∃ x, lands s.th t.th (Machine.specV d) lat x ∧
    ∀ j < ty.lanes, laneOf ty.bits x j =
      if laneActive ty.bytes (predMask h s.th.regs) j then f j else laneOf ty.bits (s.th.regs.rv d) j

/-- The instruction only went on to the next slot. -/
def goesOn (s : State) (o : Out) : Prop := o = .next s.retire

/-! ### Integer tables (R193 to R203) -/

/-- Two-source forms: the constructor, its latency class (0 for interlocked), its result from the prepared sources. -/
def twoSource : List ((Hdr → GBin → Instr) × Nat × (Ty → Word → Word → Int)) :=
  [(.add, 1, fun t a b => val t a + val t b), (.sub, 1, fun t a b => val t a - val t b),
   (.and, 1, fun _ a b => ((a &&& b).toNat : Int)), (.or, 1, fun _ a b => ((a ||| b).toNat : Int)),
   (.xor, 1, fun _ a b => ((a ^^^ b).toNat : Int)), (.andn, 1, fun _ a b => ((a &&& ~~~b).toNat : Int)),
   (.orn, 1, fun _ a b => ((a ||| ~~~b).toNat : Int)), (.xnor, 1, fun _ a b => ((~~~(a ^^^ b)).toNat : Int)),
   (.shl, 1, fun t a b => ((low t a * 2 ^ amt t b : Nat) : Int)),
   (.shr, 1, fun t a b => ((low t a / 2 ^ amt t b : Nat) : Int)),
   (.sar, 1, fun t a b => signedOf t.bits a.toNat / ((2 ^ amt t b : Nat) : Int)),
   (.rol, 1, fun t a b => ((low t a * 2 ^ amt t b + low t a / 2 ^ (t.bits - amt t b) : Nat) : Int)),
   (.ror, 1, fun t a b => ((low t a / 2 ^ amt t b + low t a * 2 ^ (t.bits - amt t b) : Nat) : Int)),
   (.mul, 3, fun t a b => val t a * val t b), (.mulh, 3, fun t a b => val t a * val t b / ((2 ^ t.bits : Nat) : Int)),
   (.div, 0, fun t a b => if val t b = 0 then -1 else (val t a).tdiv (val t b)),
   (.rem, 0, fun t a b => if val t b = 0 then val t a else (val t a).tmod (val t b)),
   (.min, 1, fun t a b => min (val t a) (val t b)), (.max, 1, fun t a b => max (val t a) (val t b)),
   (.bext, 1, fun t a b =>
      let n := b.toNat / 256 % 64
      let x := low t a / 2 ^ (b.toNat % 64) % 2 ^ n
      if t.signed then signedOf n x else (x : Int))]

/-- Immediate forms (R204): b is the sign-extended immediate. -/
def immediate : List ((Hdr → GImm → Instr) × (Ty → Word → Word → Int)) :=
  [(.addImm, fun t a b => val t a + val t b), (.subImm, fun t a b => val t a - val t b),
   (.rsub, fun t a b => val t b - val t a), (.andImm, fun _ a b => ((a &&& b).toNat : Int)),
   (.orImm, fun _ a b => ((a ||| b).toNat : Int)), (.xorImm, fun _ a b => ((a ^^^ b).toNat : Int)),
   (.andnImm, fun _ a b => ((a &&& ~~~b).toNat : Int)), (.ornImm, fun _ a b => ((a ||| ~~~b).toNat : Int)),
   (.xnorImm, fun _ a b => ((~~~(a ^^^ b)).toNat : Int)),
   (.shlImm, fun t a b => ((low t a * 2 ^ amt t b : Nat) : Int)),
   (.shrImm, fun t a b => ((low t a / 2 ^ amt t b : Nat) : Int)),
   (.sarImm, fun t a b => signedOf t.bits a.toNat / ((2 ^ amt t b : Nat) : Int)),
   (.rolImm, fun t a b => ((low t a * 2 ^ amt t b + low t a / 2 ^ (t.bits - amt t b) : Nat) : Int)),
   (.rorImm, fun t a b => ((low t a / 2 ^ amt t b + low t a * 2 ^ (t.bits - amt t b) : Nat) : Int)),
   (.leai, fun t a b => val t a + val t b)]

/-- One-source forms (R194, R195, R201). The counts and reversals are given by the bits and bytes of the source. -/
def oneSource : List ((Hdr → GUn → Instr) × (Ty → Word → Int)) :=
  [(.neg, fun t a => -val t a), (.abs, fun t a => if t.signed then |val t a| else val t a),
   (.not, fun _ a => ((~~~a).toNat : Int)),
   (.popc, fun t a => (((List.range t.bits).filter fun j => a.getLsbD j).length : Int)),
   (.clz, fun t a => ((((List.range t.bits).find? fun j => a.getLsbD (t.bits - 1 - j)).getD t.bits : Nat) : Int)),
   (.ctz, fun t a => ((((List.range t.bits).find? fun j => a.getLsbD j).getD t.bits : Nat) : Int)),
   (.brev, fun t a => ((((List.range t.bits).map fun j => (a.getLsbD j).toNat * 2 ^ (t.bits - 1 - j)).sum : Nat) : Int)),
   (.bswap, fun t a =>
      ((((List.range t.bytes).map fun k => a.toNat / 256 ^ k % 256 * 256 ^ (t.bytes - 1 - k)).sum : Nat) : Int))]

/-- Three-source forms: c is a g register. -/
def threeSource : List ((Hdr → GTri → Instr) × Nat × (Ty → Word → Word → Word → Int)) :=
  [(.add3, 1, fun t a b c => val t a + val t b + val t c), (.mad, 3, fun t a b c => val t a * val t b + val t c),
   (.selz, 1, fun t a b c => if low t c = 0 then val t a else val t b),
   (.clamp, 1, fun t a b c => min (max (val t a) (val t b)) (val t c)),
   (.lea, 1, fun t a b c => val t a + val t b + val t c),
   (.bins, 1, fun t a b c =>
      let p := b.toNat % 64
      let n := b.toNat / 256 % 64
      ((a.toNat % 2 ^ p + c.toNat % 2 ^ n * 2 ^ p + low t a / 2 ^ (p + n) * 2 ^ (p + n) : Nat) : Int))]

/-- Compares into a mask register, register and immediate forms (R199). -/
def relations : List ((Hdr → MCmp → Instr) × (Hdr → MImm → Instr) × (Ty → Word → Word → Bool)) :=
  [(.ceq, .ceqImm, fun t a b => decide (val t a = val t b)), (.cne, .cneImm, fun t a b => decide (val t a ≠ val t b)),
   (.clt, .cltImm, fun t a b => decide (val t a < val t b)), (.cle, .cleImm, fun t a b => decide (val t a ≤ val t b)),
   (.cgt, .cgtImm, fun t a b => decide (val t b < val t a)), (.cge, .cgeImm, fun t a b => decide (val t b ≤ val t a)),
   (.ctst, .ctstImm, fun t a b => decide (low t (a &&& b) ≠ 0)),
   (.ctstz, .ctstzImm, fun t a b => decide (low t (a &&& b) = 0))]

/-- Saturating forms (R107, R194). -/
def saturating : List ((Hdr → GBin → Instr) × (Hdr → GImm → Instr) × (Ty → Word → Word → Int)) :=
  [(.adds, .addsImm, fun t a b => val t a + val t b), (.subs, .subsImm, fun t a b => val t a - val t b)]

/-- The nearest value of a type. -/
def clamped (t : Ty) (r : Int) : Int :=
  let lo : Int := if t.signed then -((2 ^ (t.bits - 1) : Nat) : Int) else 0
  let hi : Int := if t.signed then ((2 ^ (t.bits - 1) : Nat) : Int) - 1 else ((2 ^ t.bits : Nat) : Int) - 1
  if r < lo then lo else if hi < r then hi else r

/-- A g register received a clamped value; sr.fpstat.sv is set when it was clamped and no other bit of it changed. -/
def givesSat (s : State) (o : Out) (t : Ty) (d : BitVec 6) (r : Int) : Prop :=
  goesTo o fun u => onlyRegsFp s u ∧ lands s.th u.th (Machine.specG d) 1 ((extByType t (clamped t r)).zeroExtend 256) ∧
    u.th.sr.srctr = s.th.sr.srctr ∧
    u.th.sr.fpstat = if clamped t r = r then s.th.sr.fpstat else s.th.sr.fpstat ||| 0x20

/-! ### Faults and transfers (R207, R328) -/

/-- A context that stopped on a fault: sr.tcause, sr.taddr and sr.tpc are written, it waits on its supervisor with the
record not yet posted, an attached follower leaves its gang, one that waits in `gjoin` has not reached it (log 26), a
signature block in progress is abandoned (log 94), and everything else of it stands. -/
def stoppedCtx (c d : Ctx) (now cause detail : Nat) (addr : Word) : Prop :=
  d = { c with
    sr := { c.sr with tcause := BitVec.ofNat 64 (detail * 65536 + cause), taddr := addr, tpc := c.pc, gang := d.sr.gang },
    gang := d.gang, status := .parked .supervisor, grp := none, sig := none,
    sigPred := (match c.sig with
      | none => c.sigPred
      | some g => if c.pc = g.block then c.sigPred else some g.id),
    mrun := none, fault := some ⟨BitVec.ofNat 16 cause, BitVec.ofNat 16 detail, c.pc, addr, now, false⟩ } ∧
  d.gang.joined = false ∧ (gangRole c ≠ 2 → d.sr.gang = c.sr.gang ∧ d.gang = { c.gang with joined := false }) ∧
  (gangRole c = 2 → gangRole d = 3 ∧ d.gang.leader = c.gang.leader)

/-- The issuing context took a fault; the followers attached to it left its gang; memory and the rest are as before. -/
def stopsOn (s t : State) (cause detail : Nat) (addr : Word) : Prop :=
  stoppedCtx s.th t.th s.now cause detail addr ∧ memoryKept s t ∧ t = { s with th := t.th, pool := t.pool } ∧
    t.pool = s.pool.map fun c => if c.gang.leader = some s.th.cid ∧ gangRole c = 2 then c.detach else c

/-- The instruction stops its context on a fault. -/
def faults (s : State) (o : Out) (cause detail : Nat) (addr : Word) : Prop :=
  goesTo o fun t => stopsOn s t cause detail addr

/-- Control continues at an address and the group ends; of the context only `f` of it changed beside. -/
def continuesAt (s : State) (o : Out) (target : Word) (f : Ctx → Ctx) : Prop :=
  goesTo o fun t => onlyContext s t ∧ memoryKept s t ∧ t.th = { f s.th with pc := target, grp := t.th.grp } ∧
    (s.th.grp = none → t.th.grp = none) ∧ ∀ g, s.th.grp = some g → t.th.grp = some { g with rest := [], taken := true }

/-- A relative target (R173). -/
def target (c : Ctx) (t : BRel) : Word := c.pc - c.pc % 64 + t.disp.signExtend 64 * 64 + t.slot.zeroExtend 64 * 12

/-! ### Lanes (R217 to R223) -/

/-- Lane `j` of a lane source. -/
def lane (s : State) (t : Ty) (x : VSrc) (j : Nat) : Nat := (s.th.regs.vs t x).getD j 0
/-- Lane `j` of a register. -/
def laneR (s : State) (t : Ty) (r : BitVec 5) (j : Nat) : Nat := laneOf t.bits (s.th.regs.rv r) j
/-- A lane as a word. -/
def laneW (s : State) (t : Ty) (x : VSrc) (j : Nat) : Word := BitVec.ofNat 64 (lane s t x j)
/-- Is a lane of a type active (R174, R217). -/
def isActive (h : Hdr) (s : State) (t : Ty) (j : Nat) : Bool := (predMask h s.th.regs).getLsbD (j * t.bytes)
/-- An integer modulo the width of a type. -/
def wrapTo (t : Ty) (r : Int) : Nat := (r % ((2 ^ t.bits : Nat) : Int)).toNat

/-- Two-source lane forms on integers. -/
def laneForms : List ((Hdr → VBin → Instr) × (Ty → Word → Word → Int)) :=
  [(.vaddInt, fun t a b => val t a + val t b), (.vsubInt, fun t a b => val t a - val t b),
   (.vmulInt, fun t a b => val t a * val t b), (.vmulh, fun t a b => val t a * val t b / ((2 ^ t.bits : Nat) : Int)),
   (.vminInt, fun t a b => min (val t a) (val t b)), (.vmaxInt, fun t a b => max (val t a) (val t b)),
   (.vand, fun _ a b => ((a &&& b).toNat : Int)), (.vor, fun _ a b => ((a ||| b).toNat : Int)),
   (.vxor, fun _ a b => ((a ^^^ b).toNat : Int)), (.vandn, fun _ a b => ((a &&& ~~~b).toNat : Int)),
   (.vshl, fun t a b => ((low t a * 2 ^ amt t b : Nat) : Int)),
   (.vshr, fun t a b => ((low t a / 2 ^ amt t b : Nat) : Int)),
   (.vsar, fun t a b => signedOf t.bits a.toNat / ((2 ^ amt t b : Nat) : Int))]

/-- One-source lane forms on integers. -/
def laneUnary : List ((Hdr → VUn → Instr) × (Ty → Word → Int)) :=
  [(.vnegInt, fun t a => -val t a), (.vabsInt, fun t a => if t.signed then |val t a| else val t a),
   (.vnot, fun _ a => ((~~~a).toNat : Int)), (.vmov, fun t a => val t a)]

/-- Saturating lane forms. -/
def laneSat : List ((Hdr → VBin → Instr) × (Ty → Word → Word → Int)) :=
  [(.vadds, fun t a b => val t a + val t b), (.vsubs, fun t a b => val t a - val t b)]

/-- Lane compares, on integers and on floating values (R113, R199, R221). -/
def laneRelations : List ((Hdr → VCmp → Instr) × (Hdr → FCmp → Instr) × Rel × (Int → Int → Bool)) :=
  [(.vceq, .fceq, .eq, fun a b => decide (a = b)), (.vcne, .fcne, .ne, fun a b => decide (a ≠ b)),
   (.vclt, .fclt, .lt, fun a b => decide (a < b)), (.vcle, .fcle, .le, fun a b => decide (a ≤ b)),
   (.vcgt, .fcgt, .gt, fun a b => decide (b < a)), (.vcge, .fcge, .ge, fun a b => decide (b ≤ a))]

/-- Permutations: lane j of the result from the number of lanes and the lanes of a and b (R232). -/
def permutations : List ((Hdr → VBin → Instr) × (Nat → (Nat → Nat) → (Nat → Nat) → Nat → Nat)) :=
  [(.vperm, fun n a b j => a (b j % n)),
   (.vzipl, fun _ a b j => if j % 2 = 0 then a (j / 2) else b (j / 2)),
   (.vziph, fun n a b j => if j % 2 = 0 then a (n / 2 + j / 2) else b (n / 2 + j / 2)),
   (.vuzpe, fun n a b j => if j < n / 2 then a (2 * j) else b (2 * j - n)),
   (.vuzpo, fun n a b j => if j < n / 2 then a (2 * j + 1) else b (2 * j - n + 1))]

/-! ### Floating instructions (R114 to R123, R218, R236) -/

/-- What a floating instruction does with the flags `fs` of its elements: without an enabled exception it goes on, with
sticky flags set, `n` counter values consumed in mode SR and its result landed as `P` says; with one it stops on the FP
trap, writes no register, undoes the use of the counter, and sr.fpstat names the enabled exceptions and the lowest
element that raised one. -/
def fpOutcome (s : State) (o : Out) (fs : List FFlags) (rm : Rnd) (n : Nat) (P : Ctx → Prop) : Prop :=
  let all := orFlags fs
  let en := all &&& fpEnables s.th.sr
  (en = 0 → goesTo o fun t => onlyRegsFp s t ∧ P t.th ∧ t.th.sr.fpstat = s.th.sr.fpstat ||| all.zeroExtend 64 ∧
    t.th.sr.srctr = if resolveRnd s.th.sr.fpctl rm = .sr then s.th.sr.srctr + BitVec.ofNat 64 n else s.th.sr.srctr) ∧
  (en ≠ 0 → goesTo o fun t => t.th.regs = s.th.regs ∧ t.th.openW = s.th.openW ∧ t.th.sr.srctr = s.th.sr.srctr ∧
    (∃ k < fs.length, fs.getD k 0 &&& fpEnables s.th.sr ≠ 0 ∧ (∀ i < k, fs.getD i 0 &&& fpEnables s.th.sr = 0) ∧
      t.th.sr.fpstat = ((s.th.sr.fpstat ||| all.zeroExtend 64) &&& 0xFFFFFFFFFFC0E0FF) |||
        (BitVec.ofNat 64 (k % 64) <<< 16) ||| (en.zeroExtend 64 <<< 8)) ∧
    ∃ a, stopsOn { s with th := { s.th with sr := { s.th.sr with fpstat := t.th.sr.fpstat } } } t 0x1B 0 a)

/-- The lanes of a v register that a floating instruction wrote. -/
def lanesAre (s : State) (h : Hdr) (t : Ty) (d : BitVec 5) (lat : Nat) (f : Nat → Nat) (c : Ctx) : Prop :=
  ∃ x, lands s.th c (Machine.specV d) lat x ∧
    ∀ j < t.lanes, laneOf t.bits x j = if isActive h s t j then f j % 2 ^ t.bits else laneR s t d j

/-- Results of the lanes: inactive ones raise nothing. -/
def laneResults (s : State) (h : Hdr) (t : Ty) (f : Nat → FRes) : List FFlags :=
  (List.range t.lanes).map fun j => if isActive h s t j then (f j).flags else 0

/-- A lane read as a value of its format. -/
def laneF (s : State) (t : Ty) (x : VSrc) (j : Nat) : FVal := (Ty.fmt t).value (lane s t x j)
/-- A source of the FP64 unit as a value. -/
def src64 (s : State) (x : FSrc) : FVal := FFmt.f64.value (s.th.regs.fs x)

/-- Is the mode toward −∞ (the sign of an exact zero sum, R113). -/
def down (m : RMode) : Bool := decide (m = .rdn)

/-- Two-source arithmetic: lane form, its latency, FP64 form, its latency, the exact operation. -/
def floatBinary : List ((Hdr → VFBin → Instr) × Nat × (Hdr → FBin → Instr) × Nat × (FFmt → RMode → FVal → FVal → Raw)) :=
  [(.vaddFp, 4, .fadd, 6, fun _ m a b => rawAdd (down m) a b),
   (.vsubFp, 4, .fsub, 6, fun _ m a b => rawAdd (down m) a (b.flip true)),
   (.vmulFp, 4, .fmul, 6, fun _ _ a b => rawMul a b), (.vdiv, 0, .fdiv, 0, fun f _ a b => rawDiv f.fbits a b)]

/-- Fused forms ±(a × b) ± c. -/
def floatFused : List ((Hdr → VFTri → Instr) × (Hdr → FTri → Instr) × Bool × Bool) :=
  [(.vfma, .ffma, false, false), (.vfms, .ffms, false, true), (.vfnma, .ffnma, true, false), (.vfnms, .ffnms, true, true)]

/-- Minima and maxima: which of them is a maximum. -/
def floatMinMax : List ((Hdr → VFBin → Instr) × (Hdr → FBin → Instr) × Bool) :=
  [(.vminFp, .fmin, false), (.vmaxFp, .fmax, true)]

/-- Sign forms: the new sign bit from the old one. -/
def floatSign : List ((Hdr → VFUn → Instr) × (Hdr → FUn → Instr) × (Nat → Nat)) :=
  [(.vabsFp, .fabs, fun _ => 0), (.vnegFp, .fneg, fun b => 1 - b)]

/-- Correctly rounded functions (R226, R239). -/
def floatFunctions : List ((Hdr → VFUn → Instr) × (FFmt → RMode → Nat → FRes)) :=
  [(.vsqrt, fun f m x => (rawSqrt f.fbits (f.value x)).round f m), (.vexp, fnRounded .exp), (.vlog, fnRounded .log),
   (.vexp2, fnRounded .exp2), (.vlog2, fnRounded .log2), (.vtanh, fnRounded .tanh)]
def floatFunctions64 : List ((Hdr → FUn → Instr) × (FFmt → RMode → Nat → FRes)) :=
  [(.fsqrt, fun f m x => (rawSqrt f.fbits (f.value x)).round f m), (.fexp, fnRounded .exp), (.flog, fnRounded .log),
   (.fexp2, fnRounded .exp2), (.flog2, fnRounded .log2)]

/-- Estimates (R227). -/
def estimates : List ((Hdr → VFUn → Instr) × Fn) :=
  [(.vrcpe, .rcp), (.vrsqrte, .rsqrt), (.vexpe, .exp), (.vloge, .log), (.vtanhe, .tanh), (.vsigme, .sigm)]

/-- Integer reductions: identity and operation (R233). -/
def laneFolds : List ((Hdr → VRed → Instr) × (Ty → Int) × (Ty → Word → Word → Int)) :=
  [(.vrsum, fun _ => 0, fun t a b => val t a + val t b),
   (.vrmin, fun t => intMax t.signed t.bits, fun t a b => min (val t a) (val t b)),
   (.vrmax, fun t => intMin t.signed t.bits, fun t a b => max (val t a) (val t b)),
   (.vrand, fun _ => -1, fun _ a b => ((a &&& b).toNat : Int)), (.vror, fun _ => 0, fun _ a b => ((a ||| b).toNat : Int))]

/-- The pairwise tree of R233 over 2^n values: the two halves fold, then combine. -/
def fold (op : Nat → Nat → Nat) : Nat → (Nat → Nat) → Nat
  | 0, f => f 0
  | n + 1, f => op (fold op n f) (fold op n fun j => f (2 ^ n + j))

/-- A state register was written by a user program. -/
def srWritten (s : State) (o : Out) (n : BitVec 12) (x : Word) : Prop :=
  goesTo o fun t => onlyContext s t ∧ memoryKept s t ∧ advances s t ∧
    t.th = { s.th with sr := t.th.sr, mat := t.th.mat, pc := t.th.pc, grp := t.th.grp, loops := t.th.loops } ∧
    t.th.sr = { s.th.sr with
      ctl := if n = 0x000 then s.th.sr.ctl.extractLsb' 2 62 ++ x.extractLsb' 0 2 else s.th.sr.ctl,
      fpctl := if n = 0x001 then
          s.th.sr.fpctl.extractLsb' 9 55 ++ x.extractLsb' 4 5 ++ s.th.sr.fpctl.extractLsb' 3 1 ++
            (if x.extractLsb' 0 3 = 0 ∨ x.extractLsb' 0 3 = 7 then 1#3 else x.extractLsb' 0 3)
        else s.th.sr.fpctl,
      fpstat := if n = 0x002 then s.th.sr.fpstat.extractLsb' 6 58 ++ (s.th.sr.fpstat.extractLsb' 0 6 &&& ~~~x.extractLsb' 0 6)
        else s.th.sr.fpstat,
      srctr := if n = 0x003 then x else s.th.sr.srctr } ∧
    t.th.mat = { s.th.mat with koff := if n = 0x023 then x.extractLsb' 5 11 else s.th.mat.koff }

/-! ### Privileged registers (R327, R345, R368, R369) -/

/-- The comb of the service cell a context runs on, and which of its two register sets the cell holds. -/
def serviceCell (c : Ctx) : Option (CombId × Bool) := match c.place with
  | .supervisor k => some (k, false)
  | .translator k => some (k, true)
  | _ => none

/-- The registers of one service cell. -/
def ownRegs (s : State) (k : CombId × Bool) : ServiceRegs :=
  if k.2 then (s.combRec k.1).trans else (s.combRec k.1).sup

/-- The privileged registers of a service cell with their values: those of R327 and sr.tlbgen in both cells of a comb, the
leakage table and the duties of the comb's cells in its supervisor cell. -/
def privRegs (s : State) (k : CombId × Bool) : List (BitVec 12 × Word) :=
  let r := ownRegs s k
  [(0x800, r.fqbase), (0x801, r.fqhead.zeroExtend 64), (0x802, r.fqtail.zeroExtend 64), (0x803, r.spbase),
    (0x804, r.sigerr.zeroExtend 64), (0x805, (s.combRec k.1).tlbgen.zeroExtend 64)] ++
  if k.2 then []
  else ((List.range 16).map fun i => (BitVec.ofNat 12 (0x820 + i), ((s.combRec k.1).leakAt i).zeroExtend 64)) ++
    (List.range 128).map fun c => (BitVec.ofNat 12 (0x880 + c), (s.cellRec (k.1 * 128 + c)).dutyWord s.now)

/-- The registers of a service cell after a firmware write: sr.fqbase and sr.spbase take their 56 bits, sr.fqtail frees the
records that it passes, sr.sigerr clears the bits written with 1; every other register of the set ignores the write. -/
def writtenRegs (r : ServiceRegs) (n : BitVec 12) (x : Word) : ServiceRegs :=
  { r with
    fqbase := if n = 0x800 then (x.extractLsb' 0 56).zeroExtend 64 else r.fqbase,
    fqtail := if n = 0x802 then x.extractLsb' 0 8 else r.fqtail,
    fqcount := if n = 0x802 then r.fqcount - (x.extractLsb' 0 8 - r.fqtail).toNat else r.fqcount,
    spbase := if n = 0x803 then (x.extractLsb' 0 56).zeroExtend 64 else r.spbase,
    sigerr := if n = 0x804 then r.sigerr &&& ~~~x.extractLsb' 0 32 else r.sigerr }

/-- A firmware write of a privileged register changed only the comb record of its cell, and there only what the number
names; the leakage table of a supervisor cell takes 16 bits. -/
def privWritten (s : State) (o : Out) (k : CombId × Bool) (n : BitVec 12) (x : Word) : Prop :=
  goesTo o fun t => t = { s with th := t.th, combs := t.combs } ∧ memoryKept s t ∧ advances s t ∧
    t.th = { s.th with status := .running, pc := t.th.pc, grp := t.th.grp, loops := t.th.loops } ∧
    ownRegs t k = writtenRegs (ownRegs s k) n x ∧ ownRegs t (k.1, !k.2) = ownRegs s (k.1, !k.2) ∧
    (t.combRec k.1).tlb = (s.combRec k.1).tlb ∧ (t.combRec k.1).tlbgen = (s.combRec k.1).tlbgen ∧
    (t.combRec k.1).asks = (s.combRec k.1).asks ∧
    (∀ i < 16, (t.combRec k.1).leakAt i =
      if k.2 = false ∧ n = BitVec.ofNat 12 (0x820 + i) then x.extractLsb' 0 16 else (s.combRec k.1).leakAt i) ∧
    ∀ j, j ≠ k.1 → t.combRec j = s.combRec j
/-! ### Memory operations (R84 to R87, R260 to R271) -/

/-- An effective address (R260). -/
def addr (s : State) (a : GReg) (disp : BitVec 14) : Word := s.th.regs.gr a + disp.signExtend 64

/-- The instruction placed memory operations: `pend` awaits replies, `ops` joined the context's queue, program-order
numbers, meters and the order of TLB entries moved on, control went to the next slot, and nothing else changed: no
register, no byte of memory. `held` says that the instruction waits where it stands for what it has asked for: its read
meets uncorrectable data (R70, R262), or it decodes with FP traps enabled (R123). -/
def places (s t : State) (pend : List Pend) (ops : List MemOp) (next : Nat) (ps : List Part) (held : Bool) : Prop :=
  memoryKept s t ∧ t = { s with th := t.th, cells := t.cells, combs := t.combs } ∧
    (if held then t.th.pc = s.th.pc ∧ t.th.grp = s.th.grp ∧ t.th.loops = s.th.loops else advances s t) ∧
    t.th = { s.th with
      pend := (if held then (s.th.pend ++ pend).map fun p => if p.pc = s.th.pc then { p with held := true } else p
        else s.th.pend ++ pend),
      mq := { s.th.mq with next := next, iq := s.th.mq.iq ++ ops },
      status := if held then .parked .drain else .running,
      meters := (s.th.charge ps).meters, pc := t.th.pc, grp := t.th.grp, loops := t.th.loops }

/-- The entry with d = 0 that a part goes through: what its write may have to log (R348). -/
def cleanEntry (p : Part) : List TlbEntry := p.entry.toList.filter fun e => !e.d

/-- Operations for numbered parts. -/
def numbered {α : Type} (first : Nat) (xs : List α) (f : Nat → α → MemOp) : List MemOp :=
  (List.range xs.length).zipWith (fun k x => f (first + k) x) xs

/-- Parts as the meters count them: by their active bytes, which a place in the buffer or the data says (R260, R262). -/
def metered (live : Nat → Bool) (ps : List (Part × Nat)) : List Part :=
  ps.map fun p => { p.1 with len := ((List.range p.1.len).filter fun k => live (p.2 + k)).length }

/-- Every byte is active. -/
def every (_ : Nat) : Bool := true

/-- A load of parts, each with its place in the buffer of its result. -/
def placesLoad (s t : State) (ps : List (Part × Nat)) (dest : Dest) (len : Nat) (order : Order) (live : Nat → Bool)
    (held : Bool) : Prop :=
  let n := s.th.mq.next
  places s t [⟨n, s.th.pc, dest, ps.length, List.replicate len 0, false⟩]
    (numbered (n + 1) ps fun k p =>
      ⟨k, p.1.home, p.1.pa, BitVec.ofNat 64 p.1.va, order, .load n p.2 p.1.len [], false, cleanEntry p.1⟩)
    (n + 1 + ps.length) (metered live ps) held

/-- A store of parts; a part with an offset takes its active bytes from there. -/
def placesStore (s t : State) (ps : List (Part × Nat)) (data : List Byte) (order : Order) (stream : Bool)
    (live : Nat → Bool) : Prop :=
  let n := s.th.mq.next
  places s t []
    (numbered n ps fun k p =>
      ⟨k, p.1.home, p.1.pa, BitVec.ofNat 64 p.1.va, order,
        .store (((data.drop p.2).take p.1.len).mapIdx fun k b => if live (p.2 + k) then some b else none), stream,
        cleanEntry p.1⟩)
    (n + ps.length) (metered live ps) false

/-- What a plain load or store form does: whether it executes, its checks before the address checks, whether its base is
sp, its accesses, and which bytes of its data are active. -/
structure MemForm where
  on : Bool
  checks : List (Option Trap)
  stack : Bool
  accs : List Access
  live : Nat → Bool

/-- The fault of a synchronising form whose scope is illegal, and of a misaligned one (R262). -/
def badScope (s : State) (f : BitVec 6) : Option Trap :=
  if scopeOk (scopeValue s.th f) then none else some ⟨0x16, 0, scopeValue s.th f⟩
def misaligned (ea : Word) (n : Nat) : Option Trap := if ea.toNat % n = 0 then none else some ⟨0x14, 0, ea⟩

/-- Does a lane form have an active lane. -/
def anyLane (h : Hdr) (s : State) (t : Ty) : Bool := (List.range t.lanes).any fun j => isActive h s t j
/-- The access of the active lanes: from the first of them to the last. -/
def runs (h : Hdr) (s : State) (t : Ty) (ea : Word) : List Access :=
  match (List.range t.lanes).filter fun j => isActive h s t j with
  | [] => []
  | j :: js => [⟨ea + BitVec.ofNat 64 (j * t.bytes), (js.getLastD j + 1 - j) * t.bytes, j * t.bytes⟩]
/-- The bytes of active lanes. -/
def inLane (h : Hdr) (s : State) (t : Ty) (k : Nat) : Bool := isActive h s t (k / t.bytes)
/-- The accesses of a gather or scatter: an element for each active lane, in ascending order, at its signed index. -/
def elements (h : Hdr) (s : State) (t : Ty) (ea : Word) (idx : VReg) : List Access :=
  ((List.range t.lanes).filter fun j => isActive h s t j).map fun j =>
    ⟨ea + BitVec.ofInt 64 (signedOf t.bits (lane s t (.reg idx) j) * t.bytes), t.bytes, j * t.bytes⟩

/-- Loads (R263 to R267): form, result, bytes of the result, order. -/
def loadForm (s : State) : Instr → Option (MemForm × Dest × Nat × Order)
  | .ld h o | .ldr h o => some (⟨predOn h s.th.regs, [], o.a.r == 62, [⟨addr s o.a o.disp, o.ty.bytes, 0⟩], every⟩,
      .g o.d o.ty, o.ty.bytes, ⟨false, none⟩)
  | .ldAcq h o => some (⟨predOn h s.th.regs, [badScope s o.s, misaligned (addr s o.a o.disp) o.ty.bytes], o.a.r == 62,
      [⟨addr s o.a o.disp, o.ty.bytes, 0⟩], every⟩, .g o.d o.ty, o.ty.bytes, ⟨true, none⟩)
  | .ldv h o | .ldrv h o => some (⟨anyLane h s o.ty, [], o.a.r == 62, runs h s o.ty (addr s o.a o.disp), inLane h s o.ty⟩,
      .v o.d o.ty (predMask h s.th.regs) (s.th.regs.rv o.d), 32, ⟨false, none⟩)
  | .ldvb h o => some (⟨anyLane h s o.ty, [], o.a.r == 62, [⟨addr s o.a o.disp, o.ty.bytes, 0⟩], every⟩,
      .vb o.d o.ty (predMask h s.th.regs) (s.th.regs.rv o.d), o.ty.bytes, ⟨false, none⟩)
  | .vgather h o => some (⟨anyLane h s o.ty, [], o.a.r == 62, elements h s o.ty (addr s o.a o.disp) o.idx, every⟩,
      .v o.d o.ty (predMask h s.th.regs) (s.th.regs.rv o.d), 32, ⟨false, none⟩)
  | _ => none

/-- The bytes of a v register after its modifier, lowest first. -/
def laneBytes (s : State) (t : Ty) (x : VSrc) : List Byte :=
  (List.range t.lanes).flatMap fun j => bytesOf t.bytes (lane s t x j)

/-- Stores: form, data, order, streaming. -/
def storeForm (s : State) : Instr → Option (MemForm × List Byte × Order × Bool)
  | .st h o => some (⟨predOn h s.th.regs, [], o.a.r == 62, [⟨addr s o.a o.disp, o.ty.bytes, 0⟩], every⟩,
      bytesOf o.ty.bytes (storeBits s.th.regs o.ty o.b), ⟨false, none⟩, false)
  | .sts h o => some (⟨predOn h s.th.regs, [], o.a.r == 62, [⟨addr s o.a o.disp, o.ty.bytes, 0⟩], every⟩,
      bytesOf o.ty.bytes (storeBits s.th.regs o.ty o.b), ⟨false, none⟩, true)
  | .stRel h o => some (⟨predOn h s.th.regs, [badScope s o.s, misaligned (addr s o.a o.disp) o.ty.bytes], o.a.r == 62,
      [⟨addr s o.a o.disp, o.ty.bytes, 0⟩], every⟩, bytesOf o.ty.bytes (storeBits s.th.regs o.ty o.b),
      ⟨false, some (scopeValue s.th o.s)⟩, false)
  | .stv h o => some (⟨anyLane h s o.ty, [], o.a.r == 62, runs h s o.ty (addr s o.a o.disp), inLane h s o.ty⟩,
      laneBytes s o.ty (.reg o.b), ⟨false, none⟩, false)
  | .stsv h o => some (⟨anyLane h s o.ty, [], o.a.r == 62, runs h s o.ty (addr s o.a o.disp), inLane h s o.ty⟩,
      laneBytes s o.ty (.reg o.b), ⟨false, none⟩, true)
  | .vscatter h o => some (⟨anyLane h s o.ty, [], o.a.r == 62, elements h s o.ty (addr s o.a o.disp) o.idx, every⟩,
      bytesOf 32 (s.th.regs.rv o.data).toNat, ⟨false, none⟩, false)
  | _ => none

/-- What the checks of R262 make of a form: nothing when it does not execute, the first failing check otherwise, and `P`
of the placed parts, and of whether the instruction waits for them, when none fails. A part of an absent frame stops it (R2,
log 63), and a write of a sealed cell faults as it executes (R337, log 24). -/
def checked (s : State) (i : Instr) (f : MemForm) (use : Use) (P : List (Part × Nat) → Bool → State → Prop) : Prop :=
  (f.on = false → goesOn s (exec i s)) ∧
  (∀ t, f.on = true → firstFault f.checks = some t → exec i s = .next (s.trap t)) ∧
  (∀ t, f.on = true → firstFault f.checks = none → s.placeAll s.th use f.stack f.live f.accs = .error t →
    exec i s = .next (s.trap t)) ∧
  ∀ ps, f.on = true → firstFault f.checks = none → s.placeAll s.th use f.stack f.live f.accs = .ok ps →
    let parts := ps.map Prod.fst
    (∀ k, s.absentPart parts = some k → exec i s = .fault (.absentStack k)) ∧
    (s.absentPart parts = none →
      (∀ t, use = .write → s.sealedPart parts = some t → exec i s = .next
        (State.trap { s with th := { s.th with meters := (s.th.charge (metered f.live ps)).meters } } t)) ∧
      ((use = .write → s.sealedPart parts = none) →
        goesTo (exec i s) (P ps (decide (use = .read) && s.badParts parts))))

/-- Read-modify-write forms (R269, R270). -/
noncomputable def atomics : List ((Hdr → Amo → Instr) × RmwOp) :=
  [(.amoSwap, .swap), (.amoAdd, .add), (.amoAnd, .and), (.amoOr, .or), (.amoXor, .xor), (.amoMin, .min), (.amoMax, .max),
   (.cas, .cas)]
noncomputable def reductions : List ((Hdr → Red → Instr) × RmwOp) :=
  [(.redAdd, .add), (.redAnd, .and), (.redOr, .or), (.redXor, .xor), (.redMin, .min), (.redMax, .max)]
noncomputable def pairs : List ((Hdr → Amo2 → Instr) × RmwOp × Bool) :=
  [(.amo2Swap, .swap, false), (.amo2Add, .add, false), (.amo2And, .and, false), (.amo2Or, .or, false),
   (.amo2Xor, .xor, false), (.dcas, .cas, true)]

/-- No part lies at a host port. -/
def noHost (ps : List Part) : Bool := ps.all fun p => match p.home with
  | .host _ => false
  | _ => true

/-- Two words of `n` bytes share no byte. -/
def apart (n a b : Nat) : Prop := a + n ≤ b ∨ b + n ≤ a

/-! ### Waits, messages and the steps of memory (R84 to R101, R272 to R278) -/

/-- The instruction changed only its context, and there only what `f` says; control went to the next slot. -/
def completes (s : State) (o : Out) (f : Ctx → Ctx) : Prop :=
  goesTo o fun t => onlyContext s t ∧ memoryKept s t ∧ advances s t ∧
    t.th = { f s.th with pc := t.th.pc, grp := t.th.grp, loops := t.th.loops }

/-- The context parks on its instruction, which stays where it is and will be tried again. -/
def waits (s : State) (o : Out) (why : Park) : Prop := o = .next { s with th := { s.th with status := .parked why } }

/-- The deadline of a timeout register: none for field 0 or a zero value. -/
def deadline (s : State) (t : BitVec 6) : Option Nat :=
  if t = 0 ∨ s.th.regs.rg t = 0 then none else some (s.now + (s.th.regs.rg t).toNat)

/-- The context issued one wait message and recorded its wait; `held` as in `places`. The step that enters the wait in its
table parks the context (R274, R275). -/
def startsWait (s t : State) (d tm : BitVec 6) (ps : List Part) (held : Bool) (op : Nat → MemOp) : Prop :=
  let n := s.th.mq.next
  memoryKept s t ∧ t = { s with th := t.th, cells := t.cells, combs := t.combs } ∧
    (if held then t.th.pc = s.th.pc ∧ t.th.grp = s.th.grp ∧ t.th.loops = s.th.loops else advances s t) ∧
    t.th = { s.th with
      pend := (let all : List Pend := s.th.pend ++ [⟨n, s.th.pc, .status d, 1, List.replicate 8 0, false⟩]
        if held then all.map fun p => if p.pc = s.th.pc then { p with held := true } else p else all),
      mq := { s.th.mq with next := n + 2, iq := s.th.mq.iq ++ [op n] },
      status := if held then .parked .drain else .running,
      wait := some ⟨n, d, deadline s tm, none, false⟩,
      meters := (s.th.charge ps).meters, pc := t.th.pc, grp := t.th.grp, loops := t.th.loops }

/-- A send places one message to a logical cell, counts it, and charges its bytes. -/
def sends (s : State) (o : Out) (r : Region) (dst : Nat) (tag : BitVec 14) (bytes : List Byte) (order : Order) : Prop :=
  completes s o fun c => { c with
    mq := { c.mq with next := c.mq.next + 1, iq := c.mq.iq ++ [⟨c.mq.next, .cell (r.map.getD dst 0), 0, 0, order,
      .mail (r.ctxs.getD dst 0) ⟨BitVec.ofNat 16 c.logical, tag, .data bytes, c.mq.next⟩, false, []⟩] },
    mail := { c.mail with sent := c.mail.sent + 1, flag := true },
    meters := { c.meters with bLocal := satAdd c.meters.bLocal bytes.length } }

/-- A flight from a source to a home. -/
def goesFrom (src : Source) (h : Home) (f : Flight) : Bool := f.src == src && f.op.home == h

/-- Only the message network changed. -/
def onlyNet (s t : State) : Prop := t = { s with net := t.net }

/-! ### The matrix unit and the engines (R241 to R259, R279 to R298) -/

/-- Element (i, j) of an accumulator. -/
def elem (m : MatState) (acc : Bool) (i j : Nat) : Nat := ((if acc then m.a1 else m.a0).toList.getD (8 * i + j) 0).toNat

/-- A matrix instruction completed inline: it changed only what `f` says of its own context, which runs and goes on. -/
def inMatrix (s : State) (o : Out) (P : MatState → Prop) : Prop :=
  goesTo o fun t => onlyContext s t ∧ memoryKept s t ∧ advances s t ∧ P t.th.mat ∧
    t.th = { s.th with status := .running, mat := t.th.mat, pc := t.th.pc, grp := t.th.grp, loops := t.th.loops }

/-- Only the accumulators of a matrix state differ, and only the named one. -/
def onlyAcc (m n : MatState) (acc : Bool) : Prop :=
  n = if acc then { m with a1 := n.a1 } else { m with a0 := n.a0 }

/-- The block that stands at a place of the buffer of a K block: its elements, then its exponent pair. -/
def blockIn (t : Ty) (at_ : Nat) (buf : List Byte) : List FVal :=
  blockVals t ((buf.drop at_).take (blockBytes t)) ((buf.drop (at_ + blockBytes t)).take 2)

/-- Element (i, j) after a K block: the block sum of row i of A and column j of B added (R118, R250). The rows of A stand
first in the buffer, each with room for its exponent pair, then the columns of B. -/
def addedBlock (s : State) (o : MmaOp) (buf : List Byte) (i j : Nat) : FRes :=
  accStep (elem s.th.mat o.acc i j) (blockSum ((blockIn o.ta (i * (blockBytes o.ta + 2)) buf).zip
    (blockIn o.tb (16 * (blockBytes o.ta + 2) + j * (blockBytes o.tb + 2)) buf)))

/-- The flags that a K block raises. -/
def blockFlags (s : State) (o : MmaOp) (buf : List Byte) : FFlags :=
  orFlags ((List.range 128).map fun n => (addedBlock s o buf (n / 8) (n % 8)).flags)

/-- An entry joined an engine queue, its handle PENDING; the context goes on. -/
def enqueues (s : State) (o : Out) (f : Ctx → Ctx) (q : Nat) (hd : Option (BitVec 4)) (w : Work) (k : Course) : Prop :=
  completes s o fun c =>
    let c := f c
    let op := c.nextOp * 4294967296 + c.cid
    { c with
      eq := Vector.ofFn fun i : Fin 8 => if i.val = q then c.eq.get i ++ [⟨op, c.mq.next, w, k, false, s.now, none, false⟩] else c.eq.get i,
      h := match hd with
        | none => c.h
        | some i => c.h.set i.toNat ⟨.pending, 0, 0, op, true⟩ i.isLt
      nextOp := c.nextOp + 1, mq := { c.mq with next := c.mq.next + 1 } }

/-- A handle of the issuing context. -/
def hand (s : State) (i : BitVec 4) : Handle := s.th.h.get i.toFin

/-- The checks of R280 on the handle that an instruction names: a PENDING one is busy. -/
def busy (s : State) (o : Out) (i : BitVec 4) : Prop :=
  (hand s i).st = .pending → faults s o 0x18 0 (i.zeroExtend 64)

/-- A handle that has resolved. -/
def isResolved (x : Handle) : Bool := decide (x.st ≠ .empty ∧ x.st ≠ .pending)

/-- A read of a handle: `x` lands; the first read of a resolved sample sets the digits of sr.afstat (R140). -/
def readsHandle (s : State) (o : Out) (i : BitVec 4) (d : BitVec 6) (x : Word) : Prop :=
  goesTo o fun t => onlyContext s t ∧ memoryKept s t ∧ advances s t ∧ lands s.th t.th (Machine.specG d) 0 (x.zeroExtend 256) ∧
    t.th = { s.th with
      regs := t.th.regs, openW := t.th.openW, pc := t.th.pc, grp := t.th.grp, loops := t.th.loops,
      h := if isResolved (hand s i) then s.th.h.set i.toNat { hand s i with seen := true } i.isLt else s.th.h,
      sr := if isResolved (hand s i) && !(hand s i).seen && decide ((hand s i).st = .done) then
        { s.th.sr with afstat := (hand s i).res &&& 0xF } else s.th.sr }

/-! ### Queue 7 (R280) -/

/-- The queue of the fabric changes. -/
def withQ7 (c : Ctx) (f : List Entry → List Entry) : Ctx :=
  { c with eq := Vector.ofFn fun i : Fin 8 => if i.val = 7 then f (c.eq.get i) else c.eq.get i }

/-- An entry is one of a fabric instruction whose issue is not complete. -/
def unissued (e : Entry) : Bool := e.course == .waiting && e.work.isFabric

/-- A fabric instruction: its header, its handle, its table address, what its entry is to do. -/
def fabricForm (s : State) : Instr → Option (Hdr × Option (BitVec 4) × Option Word × AfOp)
  | .afclaim h o => some (h, some o.h, none, .claim o.die o.np.toNat)
  | .afcal h o => some (h, some o.h, none, .cal)
  | .afcfg h o => some (h, some o.h, some (s.th.regs.gr o.a), .cfg (s.th.regs.gr o.a) [])
  | .afscale h o => some (h, none, none, .scale (s.th.regs.gr o.a) (s.th.regs.gs o.b))
  | .afrun h o => some (h, some o.h, none, .run)
  | .afsettle h o => some (h, some o.h, none, .settle (s.th.regs.gr o.a))
  | .afsample h o => some (h, some o.h, none, .sample (s.th.regs.gr o.a) [] [] 0 0)
  | .afstop h o => some (h, some o.h, none, .stop)
  | .afrel h o => some (h, some o.h, none, .rel)
  | _ => none

/-- The number of the next operation of the issuing context. -/
def opNum (s : State) : Nat := s.th.nextOp * 4294967296 + s.th.cid

/-- The entry of a fabric instruction has joined queue 7 and its handle is PENDING; the instruction has not completed. -/
def placedFabric (s : State) (hd : Option (BitVec 4)) (w : AfOp) : State :=
  let e : Entry := ⟨opNum s, s.th.mq.next, .fabric w, .waiting, false, s.now, hd.map fun i => (i, hand s i), false⟩
  { s with th := { withQ7 s.th (· ++ [e]) with
    h := match hd with
      | none => s.th.h
      | some i => s.th.h.set i.toNat ⟨.pending, 0, 0, opNum s, true⟩ i.isLt
    nextOp := s.th.nextOp + 1, mq := { s.th.mq with next := s.th.mq.next + 1 } } }

/-- The entry heads the queue, its issue is not complete, and every earlier operation of its context is acknowledged. -/
def atHead (s : State) (e : Entry) : Prop :=
  (s.th.queue 7).head? = some e ∧ unissued e = true ∧ s.th.ackedBelow e.seq = true

/-- The issue completes and the operation goes on: `w` begins now; the claims become `cl`. -/
def headBegins (s : State) (o : Out) (e : Entry) (w : AfOp) (cl : List Claim) (P : State → Prop) : Prop :=
  goesTo o fun t => memoryKept s t ∧ advances s t ∧ P t ∧ t.claims = cl ∧
    t = { s with th := t.th, claims := t.claims, plane := t.plane, net := t.net, tick := t.tick } ∧
    t.th = { withQ7 s.th (fun es => es.map fun y => if y.op == e.op then
        { y with work := .fabric w, course := .begun, since := s.now, undo := none } else y) with
      status := .running, pc := t.th.pc, grp := t.th.grp, loops := t.th.loops }

/-- The operation resolves as its issue completes: the entry leaves, its handle has its words; `P` says the rest of the
plane. -/
def headLeaves (s : State) (o : Out) (e : Entry) (st : HState) (res : Word) (cl : List Claim) (f : Ctx → Ctx)
    (P : State → Prop) : Prop :=
  goesTo o fun t => memoryKept s t ∧ advances s t ∧ P t ∧ t = { s with th := t.th, claims := cl, plane := t.plane } ∧
    t.th = { f (withQ7 s.th fun es => es.filter fun y => y.op != e.op) with
      h := match e.undo with
        | none => s.th.h
        | some (i, _) => s.th.h.set i.toNat ⟨st, res, 0, e.op, true⟩ i.isLt
      status := .running, pc := t.th.pc, grp := t.th.grp, loops := t.th.loops }

/-- The same, and the plane stays. -/
def headResolves (s : State) (o : Out) (e : Entry) (st : HState) (res : Word) (cl : List Claim) (f : Ctx → Ctx) : Prop :=
  headLeaves s o e st res cl f fun t => t.plane = s.plane

/-- A check at the head fails: the entry leaves, its handle is as before the instruction, and the context stops. -/
def headFaults (s : State) (o : Out) (e : Entry) (cause : Nat) (addr : Word) : Prop :=
  let th := withQ7 s.th fun es => es.filter fun y => y.op != e.op
  let th := match e.undo with
    | none => th
    | some (i, x) => { th with h := th.h.set i.toNat x i.isLt }
  goesTo o fun t => stopsOn (State.ioDrop { s with th := th } (.engine s.th.cid 7) e.op) t cause 0 addr

/-- The reads of an entry at the head are on their way: the context waits for their answers. -/
def startsRead (s : State) (o : Out) (e : Entry) (parts len : Nat) : Prop :=
  goesTo o fun t => memoryKept s t ∧ t.th.status = .parked .fabric ∧ t.claims = s.claims ∧ t.th.eq = s.th.eq ∧
    t.th.h = s.th.h ∧ t.th.regs = s.th.regs ∧ t.th.pc = s.th.pc ∧
    ∃ x, t.io? (.engine s.th.cid 7) e.op = some x ∧ x.reads = parts ∧ x.buf.length = len ∧ x.bad = none
/-! ### Privileged instructions and the package (R299, R326 to R380) -/

/-- A word of memory as a load would read it. -/
def wordAt (s : State) (pa : Nat) : Nat := ofBytes ((List.range 8).map fun k => s.byteAt (pa + k))

/-- A status arrived in a g register and control went on; `P` says the rest. -/
def reports (s : State) (o : Out) (d : BitVec 6) (x : Nat) (P : State → Prop) : Prop :=
  goesTo o fun t => lands s.th t.th (Machine.specG d) 0 ((BitVec.ofNat 64 x).zeroExtend 256) ∧ advances s t ∧ P t

/-- The user cell that a register names in the comb of the issuing context. -/
def cellNamed (s : State) (a : GReg) : Option CellId :=
  if (s.th.regs.gr a).toNat < 128 then some (s.th.comb * 128 + (s.th.regs.gr a).toNat) else none

/-- The context of a user cell's slot that is neither empty nor saved. -/
def occupant (s : State) (i : CellId) (slot : Nat) : Option Ctx :=
  (s.ctxs.filter fun c => c.place == .user i && (c.status != .saved && c.status != .empty)).find? fun c => c.slot == slot

/-- The rejections of R335, in their order. -/
def rejects (s : State) (o : Out) (a : GReg) (slot : BitVec 2) (d : BitVec 6) : Prop :=
  (slot = 3 → givesG s o d 0 5) ∧
  (slot ≠ 3 → cellNamed s a = none → givesG s o d 0 6) ∧
  ∀ i, slot ≠ 3 → cellNamed s a = some i →
    (occupant s i slot.toNat = none → givesG s o d 0 2) ∧
    ∀ c, occupant s i slot.toNat = some c → c.status = .running → givesG s o d 0 1

/-- A context of the package, found by its identifier, differs from another state only as `f` says. -/
def ctxIs (t : State) (cid : CtxId) (P : Ctx → Prop) : Prop := ∃ c, t.ctx? cid = some c ∧ P c
/-! ### Steps without an encoding (rows 297 to 371 of the opcode table) -/

/-- The entry with an operation number in a queue has a new course. -/
def courseOf (es : List Entry) (op : Nat) (k : Course) : List Entry :=
  es.map fun x => if x.op == op then { x with course := k } else x

/-- The fabric entry of a context ended with a state and a result; the claims are as given. -/
def fabricEnds (s t : State) (cid : CtxId) (op : Nat) (st : HState) (res : Word) (claims : List Claim) : Prop :=
  memoryKept s t ∧ t.claims = claims ∧ t.th.regs = s.th.regs ∧ ∀ c, s.ctx? cid = some c →
    ctxIs t cid fun d => d.queue 7 = courseOf (c.queue 7) op (.done st res 0) ∧ d.regs = c.regs ∧ d.h = c.h

/-- The claims with one of them replaced. -/
def claimsWith (s : State) (k : Claim) : List Claim := s.claims.map fun x => if x.cid == k.cid then k else x

/-- The frame of the steps of the plane: contexts may change only in their queues. -/
def planeOnly (s t : State) : Prop := memoryKept s t ∧ t.regions = s.regions ∧ t.hub = s.hub ∧ t.th.regs = s.th.regs

/-- A binding after a step. -/
def bindingIs (t : State) (num : Nat) (P : Binding → Prop) : Prop := ∃ b, t.binding? num = some b ∧ P b
/-- A region after a step. -/
def regionIs (t : State) (id : RegionId) (P : Region → Prop) : Prop := ∃ r, t.region? (some id) = some r ∧ P r

/-- Integrator `n` of a claim passes ±1.25 and is not held yet, or the summer that feeds it does and has not been counted
(R137). -/
def passes (s : State) (k : Claim) (n : Nat) : Prop :=
  ((satLevel < k.xiAt n ∨ k.xiAt n < -satLevel) ∧ n ∉ k.held) ∨
    ((satLevel < k.carried k.kept n ∨ k.carried k.kept n < -satLevel) ∧ n ∉ k.latched)

/-- The claim after that: sat and the lowest sint, the state held at ±1.25 if it is the one that passes. -/
def saturated (k : Claim) (n : Nat) : Claim :=
  let x := max (-satLevel) (min satLevel (k.xiAt n))
  { k with
    sat := true, sint := BitVec.ofNat 12 (if k.sat then min k.sint.toNat n else n), latched := n :: k.latched,
    held := if x = k.xiAt n then k.held else n :: k.held, xi := k.xi.set n x }

/-- Of memory only the ring of power records, if the driver has supplied one, may have changed. -/
def ringOnly (s t : State) : Prop :=
  ∀ x, (∀ pa, s.power.ring = some pa → x < pa ∨ pa + 64 * 4096 ≤ x) → t.byteAt x = s.byteAt x
end Sys2Proof.Claims

open Sys2Proof.Claims

/-! ### Encoding (R167 to R190) -/

/-- Words that the spec writes out in its worked encodings, and words put together field by field from its encoding tables, decode
to the instructions that they stand for. -/
def Obligations.SpecWordsDecode : Prop :=
  decode 0 = .ok (.nop ⟨0, false, 0⟩) ∧
  decode 0x10000102000FD00060000000 = .ok (.add ⟨0, false, 0⟩ ⟨.sw, 1, .reg ⟨2, ⟨.none, .none, 0⟩⟩, .imm (-3)⟩) ∧
  decode 0x200003030000030000000064 = .ok (.addImm ⟨0, false, 0⟩ ⟨.d, 3, .reg ⟨3, ⟨.none, .none, 0⟩⟩, 100⟩) ∧
  decode 0x320000020000000000000004 = .ok (.loop ⟨0, false, 0⟩ ⟨.reg ⟨2, ⟨.none, .none, 0⟩⟩, ⟨0, 4⟩⟩) ∧
  decode 0x480041429014300090000000 =
    .ok (.vaddFp ⟨0, false, 0⟩ ⟨.f32, .dyn, 1, .reg ⟨2, ⟨.bfly, 2, 1⟩⟩, .reg ⟨3, ⟨.none, 0, 0⟩⟩⟩) ∧
  decode 0x4D30484400005000E0001200 = .ok (.vbfpe ⟨3, false, 0⟩ ⟨.bfp8, .rne, 8, 4, ⟨5, ⟨.none, .none, 0⟩⟩⟩) ∧
  decode 0x610001020000300080400000 = .ok (.ffma ⟨0, false, 0⟩ ⟨.dyn, 1, .reg 2, .reg 3, 4⟩) ∧
  decode 0x800043000000000001901005 = .ok (.mrdrow ⟨0, false, 0⟩ ⟨true, 5, 3⟩) ∧
  decode 0x770003040000100001300000 =
    .ok (.amoAdd ⟨0, false, 0⟩ ⟨false, .d, 3, ⟨4, ⟨.none, .none, 0⟩⟩, 0, .reg ⟨1, ⟨.none, .none, 0⟩⟩, 0⟩) ∧
  decode 0x920000030000200000011000 =
    .ok (.cpy ⟨0, false, 0⟩ ⟨1, 0, ⟨3, ⟨.none, .none, 0⟩⟩, ⟨2, ⟨.none, .none, 0⟩⟩, 4⟩) ∧
  decode 0x940000040000000000630321 = .ok (.contend ⟨0, false, 0⟩ ⟨3, .reg ⟨4, ⟨.none, .none, 0⟩⟩, 3, 0x21⟩) ∧
  decode 0xA0000A00000000000001A000 = .ok (.srrd ⟨0, false, 0⟩ ⟨10, 0x01A⟩) ∧
  decode 0xA200090A0000B00004000805 = .ok (.tlbwr ⟨0, false, 0⟩ ⟨9, 10, 11, 2, 0, 5⟩)

/-- Encoding and decoding agree: the word that the encoder writes for a well-formed instruction decodes to that
instruction, with every operand. -/
def Obligations.DecodeOfEncode : Prop := ∀ i w, i.wellFormed = true → encode i = some w → decode w = .ok i

/-- Decoding loses no bit: a word that decodes is the word of its instruction, and that instruction is well-formed. -/
def Obligations.EncodeOfDecode : Prop := ∀ w i, decode w = .ok i → i.wellFormed = true ∧ encode i = some w

/-! ### Fetch, issue and exceptions -/

/-- A step runs the decoded instruction: when a context issues and a group of one slot begins at its program counter,
whose word decodes to `i`, the step is `exec i`, with the fetch entry touched in the TLB, the group counted as one cycle of issue (log 54) and recorded, so that
control later leaves for the slot after it; a target that `i` checks is legal. -/
def Sys2Proof.Claims.BeginningStepRunsDecoded : Prop :=
  ∀ (s : State) (line : List Byte) (i : Instr), let k := slotOf s.th.pc
    let w := BitVec.ofNat 96 (slotWord line k)
    s.agenda = [] → s.issues s.th = true → s.th.grp = none → gangRole s.th ≠ 2 → s.th.sr.ctl = 0 → s.th.sig = none →
    s.fetchAbsent s.th = none → k < 5 → s.fetchLine s.th s.th.pc = .ok line →
    groupLast (lineStops (lineWord line)) k = k → lineParityBad (lineWord line) = false →
    slotParityBad line k = false → lineReason (lineWord line) = none →
    ¬ (s.th.level = .user ∧ (majorOf w = 0xA2 ∨ majorOf w = 0xA3)) →
    decode w = .ok i → groupFault [i] = none → s.th.interlocked i = false →
    (∀ t, Machine.Instr.checks i s.th = some t → s.targetOk s.th t = true) →
    step s = exec i ((s.fetchTouch s.th s.th.pc).mapTh fun c => { c with
      meters := { c.meters with issued := satAdd c.meters.issued 1 },
      grp := some ⟨s.th.pc, [⟨s.th.pc, w, i⟩], [⟨s.th.pc, w, i⟩], nextSlot s.th.pc, groupStall line k, false,
        Machine.Instr.checks i s.th, false⟩ })

/-- An illegal target stops its group before the line-word, encoding and group faults and before any instruction of it
(R188, order 2): sr.tpc names the transfer, sr.taddr the target. -/
def Sys2Proof.Claims.IllegalTargetStopsGroup : Prop :=
  ∀ (s : State) (line : List Byte) (i : Instr) (t : Word), let k := slotOf s.th.pc
    s.agenda = [] → s.issues s.th = true → s.th.grp = none → gangRole s.th ≠ 2 → s.th.sr.ctl = 0 → s.th.sig = none →
    s.fetchAbsent s.th = none → k < 5 → s.fetchLine s.th s.th.pc = .ok line →
    groupLast (lineStops (lineWord line)) k = k → lineParityBad (lineWord line) = false →
    slotParityBad line k = false → decode (BitVec.ofNat 96 (slotWord line k)) = .ok i → s.th.interlocked i = false →
    Machine.Instr.checks i s.th = some t → s.targetOk s.th t = false → faults s (step s) 0x02 0 t

/-- Inside a group the next slot executes: when the group in issue has a slot left, nothing on its way holds it back, and
no signature is checked, the step is `exec` of that slot's instruction. -/
def Sys2Proof.Claims.StepRunsNextSlot : Prop :=
  ∀ (s : State) (g : GroupIssue) (x : SlotInstr) (xs : List SlotInstr), s.agenda = [] → s.issues s.th = true → s.th.grp = some g → g.rest = x :: xs → s.th.sig = none →
    s.th.interlocked x.i = false → step s = exec x.i s

/-- A step runs the decoded instruction. When a context issues and a group of one slot begins at its program counter, or
a slot is left of the group in issue, the step is `exec` of that slot's instruction, with the fetch entry touched in the
TLB and the group recorded; an illegal target stops its group before any instruction of it. -/
def Obligations.StepRunsDecoded : Prop := BeginningStepRunsDecoded ∧ StepRunsNextSlot ∧ IllegalTargetStopsGroup

/-- A group that passes the checks of R188 holds the words of its line: each slot's instruction is the one that its 96
stored bits decode to, and a user context's group holds no privileged word. -/
def Sys2Proof.Claims.GroupHoldsDecodedSlots : Prop :=
  ∀ (s : State) (c : Ctx) (g : GroupIssue), s.groupAt c = .ok g →
    slotOf c.pc < 5 ∧ g.first = c.pc ∧ ∃ line, s.fetchLine c c.pc = .ok line ∧
      ∀ n x, g.rest[n]? = some x →
        g.slots[n]? = some x ∧ x.pc = c.pc + BitVec.ofNat 64 (12 * n) ∧ x.word = BitVec.ofNat 96 (slotWord line (slotOf c.pc + n)) ∧
        decode x.word = .ok x.i ∧ (c.level = .user → majorOf x.word ≠ 0xA2 ∧ majorOf x.word ≠ 0xA3)

/-- A privileged word in a user context takes the privilege fault before any slot of its group executes. -/
def Sys2Proof.Claims.PrivilegedWordFaults : Prop :=
  ∀ pc w, (slotMajor w = 0xA2 ∨ slotMajor w = 0xA3) →
    decodeSlot .user pc w = .error ⟨0x05, 0, BitVec.ofNat 64 (slotMajor w * 256 + slotMinor w)⟩

/-- A group that passes the checks of R188 holds the words of its line, each decoded, and no privileged word of a user
context; such a word takes the privilege fault before any slot of its group executes. -/
def Obligations.GroupsHoldDecodedSlots : Prop := GroupHoldsDecodedSlots ∧ PrivilegedWordFaults

/-- Taking an exception: what is saved, where the context goes, what stands. -/
def Sys2Proof.Claims.TakingAFault : Prop :=
  ∀ s cause detail addr, cause < 65536 → detail < 65536 → faults s (faultOut s ⟨cause, detail, addr⟩) cause detail addr

/-- `trap` takes the user-trap fault with its code in sr.taddr. -/
def Sys2Proof.Claims.TrapFaults : Prop :=
  ∀ h o s, predOn h s.th.regs = true → faults s (exec (.trap h o) s) 0x06 0 (o.code.zeroExtend 64)

/-- Taking an exception: sr.tcause, sr.taddr and sr.tpc are written, the context waits on its supervisor, everything
else stands; `trap` takes the user-trap fault with its code. -/
def Obligations.FaultEntry : Prop := TakingAFault ∧ TrapFaults

/-! ### No effect, reset, and the invariant of memory -/

/-- `nop` takes no effect and goes on to the next slot; a word of major 0x00 is `nop` when every bit but its stall count is
zero and the illegal encoding of reason 0x0F otherwise; it belongs to no class and writes nothing. -/
def Obligations.NopRule : Prop :=
  (∀ h s, exec (.nop h) s = .next s.retire) ∧ Reason.code .nopField = 0x0F ∧
  (∀ w : IWord, majorOf w = 0 → decode w =
    if w.extractLsb' 0 84 = 0 then .ok (.nop ⟨w.extractLsb' 84 4, false, 0⟩) else .error .nopField) ∧
  decode 0 = .ok (.nop ⟨0, false, 0⟩) ∧ encode (.nop ⟨0, false, 0⟩) = some 0 ∧
  ∀ h, (Machine.Instr.use (.nop h)).unit = .none ∧ (Machine.Instr.use (.nop h)).writes = []

/-- Moves of immediates and addresses from immediates: `movi`, `movzi`, `movhi`, which reads its destination, `leai` and
`leapc`. Both majors accept type 0x3 only, and a form without a source accepts no source specifier. -/
def Obligations.ImmediateMoves : Prop :=
  (∀ h s, predOn h s.th.regs = true →
    (∀ o, givesG s (exec (.movi h o) s) o.d 1 (o.imm.signExtend 64)) ∧
    (∀ o, givesG s (exec (.movzi h o) s) o.d 1 (o.imm.zeroExtend 64)) ∧
    (∀ o, givesG s (exec (.movhi h o) s) o.d 1 (o.imm ++ (s.th.regs.rg o.d).extractLsb' 0 32)) ∧
    (∀ o, (Instr.leai h o).wellFormed = true → givesG s (exec (.leai h o) s) o.d 1
      (s.th.regs.gs o.a + o.imm.signExtend 64)) ∧
    ∀ o, givesG s (exec (.leapc h o) s) o.d 1 (s.th.pc + o.imm.signExtend 64)) ∧
  (∀ h o, o.d ≠ 0 → o.d.toNat ∈ (Machine.Instr.use (.movhi h o)).reads) ∧
  ∀ (w : IWord) i, decode w = .ok i → (majorOf w = 0x24 ∨ majorOf w = 0x25) → w.extractLsb' 40 4 = 3 ∧
    ((majorOf w = 0x24 ∨ w.extractLsb' 44 8 = 1) → w.extractLsb' 64 8 = 0)

/-- A whole instruction whose predicate is off takes no effect and goes on. -/
def Sys2Proof.Claims.PredicateOff : Prop :=
  ∀ h s, predOn h s.th.regs = false → goesOn s (exec (.halt h) s) ∧ (∀ o, goesOn s (exec (.trap h o) s)) ∧
    goesOn s (exec (.lbrk h) s) ∧ (∀ o, goesOn s (exec (.loop h o) s)) ∧ (∀ o, goesOn s (exec (.call h o) s)) ∧
    (∀ o, goesOn s (exec (.callr h o) s)) ∧ goesOn s (exec (.ret h) s) ∧ (∀ o, goesOn s (exec (.jr h o) s)) ∧
    (∀ o, goesOn s (exec (.srrd h o) s)) ∧ (∀ o, goesOn s (exec (.srwr h o) s)) ∧ (∀ o, goesOn s (exec (.srwri h o) s)) ∧
    (∀ p ∈ twoSource, ∀ o, goesOn s (exec (p.1 h o) s)) ∧ (∀ p ∈ immediate, ∀ o, goesOn s (exec (p.1 h o) s)) ∧
    (∀ p ∈ oneSource, ∀ o, goesOn s (exec (p.1 h o) s)) ∧ (∀ p ∈ threeSource, ∀ o, goesOn s (exec (p.1 h o) s)) ∧
    (∀ o, goesOn s (exec (.mma h o) s)) ∧ (∀ o, goesOn s (exec (.mdrain h o) s)) ∧ (∀ o, goesOn s (exec (.fork h o) s)) ∧
    (∀ o, goesOn s (exec (.cpy h o) s)) ∧ (∀ o, goesOn s (exec (.fprobe h o) s)) ∧ goesOn s (exec (.sstep h) s) ∧
    goesOn s (exec (.fenceAcq h) s) ∧ ∀ o, goesOn s (exec (.afrun h o) s)

/-- The state after reset. The manual gives: stage 1 with no error and no live frame yet (R366), no queue enabled (R354),
no frequency step so far (R370), every cell unsealed and at full duty (R337, R368), sr.fpctl at 0x001 in a context (R120). The
model's choices are the setpoint of 1,800 MHz and time 0 (log 18), memory with nothing written (log 4) and the empty context slots
(log 5). -/
def Obligations.ResetState : Prop :=
  State.reset.hub.stage = 1 ∧ State.reset.hub.err = 0 ∧ State.reset.hub.live = 0 ∧ State.reset.now = 0 ∧
    (∀ q, (State.reset.queueRegs q).enabled = false) ∧
    (∀ f, (State.reset.frameRec f).mhz = 1800 ∧ (State.reset.frameRec f).relock = none ∧
      (State.reset.frameRec f).fstep = 0) ∧
    (∀ i, (State.reset.cellRec i).isSealed = false ∧ (State.reset.cellRec i).duty = 16 ∧ (State.reset.cellRec i).tlb = []) ∧
    State.reset.th.sr.fpctl = 1 ∧ State.reset.th.status = .empty ∧ State.reset.regions = [] ∧ State.reset.Canonical

/-- Every step keeps memory in its canonical form: addresses strictly rising, no entry equal to what an unlisted address
reads as. -/
def Obligations.StepKeepsCanonical : Prop := ∀ s, s.Canonical → keeps (step s) State.Canonical
/-! ### Integer families (R193 to R206) -/

/-- Two-source integer forms: the destination receives the result modulo 2^w, extended by type, with the latency class of
the family; nothing else changes but the program counter. -/
def Sys2Proof.Claims.ScalarTwoSource : Prop :=
  ∀ p ∈ twoSource, ∀ h o s, (p.1 h o).wellFormed = true → predOn h s.th.regs = true →
    givesG s (exec (p.1 h o) s) o.d p.2.1 (extByType o.ty (p.2.2 o.ty (s.th.regs.gs o.a) (s.th.regs.gs o.b)))

/-- The immediate forms of the two-source families take b = sext(imm32, 32). -/
def Sys2Proof.Claims.ScalarImmediate : Prop :=
  ∀ p ∈ immediate, ∀ h o s, (p.1 h o).wellFormed = true → predOn h s.th.regs = true →
    givesG s (exec (p.1 h o) s) o.d 1 (extByType o.ty (p.2 o.ty (s.th.regs.gs o.a) (o.imm.signExtend 64)))

/-- One-source integer forms, bit counts and reversals among them. -/
def Sys2Proof.Claims.ScalarOneSource : Prop :=
  ∀ p ∈ oneSource, ∀ h o s, (p.1 h o).wellFormed = true → predOn h s.th.regs = true →
    givesG s (exec (p.1 h o) s) o.d 1 (extByType o.ty (p.2 o.ty (s.th.regs.gs o.a)))

/-- Three-source integer forms. -/
def Sys2Proof.Claims.ScalarThreeSource : Prop :=
  ∀ p ∈ threeSource, ∀ h o s, (p.1 h o).wellFormed = true → predOn h s.th.regs = true →
    givesG s (exec (p.1 h o) s) o.d p.2.1
      (extByType o.ty (p.2.2 o.ty (s.th.regs.gs o.a) (s.th.regs.gs o.b) (s.th.regs.rg o.c)))

/-- Integer forms of one, two and three sources and their immediate forms: the destination receives the result modulo
2^w, extended by type, with the latency class of the family; nothing else changes but the program counter. -/
def Obligations.ScalarArithmetic : Prop := ScalarTwoSource ∧ ScalarImmediate ∧ ScalarOneSource ∧ ScalarThreeSource

/-- A compare writes all ones to its mask register when the relation holds and zero otherwise, register and immediate
forms alike. -/
def Sys2Proof.Claims.ScalarCompare : Prop :=
  ∀ p ∈ relations, ∀ h s, predOn h s.th.regs = true →
    (∀ o, (p.1 h o).wellFormed = true →
      givesM s (exec (p.1 h o) s) o.d 1
        (if p.2.2 o.ty (s.th.regs.gs o.a) (s.th.regs.gs o.b) then 0xFFFFFFFF else 0)) ∧
    ∀ o, (p.2.1 h o).wellFormed = true →
      givesM s (exec (p.2.1 h o) s) o.d 1
        (if p.2.2 o.ty (s.th.regs.gs o.a) (o.imm.signExtend 64) then 0xFFFFFFFF else 0)

/-- Saturating forms clamp to the range of the type, set sr.fpstat.sv when they clamp, and leave every other bit of it
alone. -/
def Sys2Proof.Claims.ScalarSaturating : Prop :=
  ∀ p ∈ saturating, ∀ h s, predOn h s.th.regs = true →
    (∀ o, (p.1 h o).wellFormed = true →
      givesSat s (exec (p.1 h o) s) o.ty o.d (p.2.2 o.ty (s.th.regs.gs o.a) (s.th.regs.gs o.b))) ∧
    ∀ o, (p.2.1 h o).wellFormed = true →
      givesSat s (exec (p.2.1 h o) s) o.ty o.d (p.2.2 o.ty (s.th.regs.gs o.a) (o.imm.signExtend 64))

/-- Addresses of cells and slices from their indices, and `sel` (R200, R203). -/
def Obligations.ScalarMoves : Prop :=
  ∀ h s, predOn h s.th.regs = true →
    (∀ o, givesG s (exec (.lcell h o) s) o.d 1
      (if (s.th.regs.gs o.a).toNat ≤ 8191 ∧ (s.th.regs.gs o.b).toNat ≤ 0xFFFF then
        BitVec.ofNat 64 (0x100000000 + (s.th.regs.gs o.a).toNat * 65536 + (s.th.regs.gs o.b).toNat)
      else 0xFF00000000000000)) ∧
    (∀ o, givesG s (exec (.lslice h o) s) o.d 1
      (if (s.th.regs.gs o.a).toNat ≤ 8191 ∧ (s.th.regs.gs o.b).toNat ≤ 0x1FFFF then
        BitVec.ofNat 64 (0x200000000 + (s.th.regs.gs o.a).toNat / 128 * 0x1000000 +
          (s.th.regs.gs o.a).toNat % 128 * 0x20000 + (s.th.regs.gs o.b).toNat)
      else 0xFF00000000000000)) ∧
    ∀ o, (Instr.sel h o).wellFormed = true →
      givesG s (exec (.sel h o) s) o.d 1
        (extByType o.ty (val o.ty (if o.c = 0 ∨ (s.th.regs.rm o.c).getLsbD 0 = true then s.th.regs.gs o.a
          else s.th.regs.gs o.b)))

/-! ### Control transfers and state registers (R207 to R216) -/

/-- Branches: taken when the predicate passes and the condition holds, to a legal target; to an illegal one they take the
illegal-target fault; otherwise control goes to the next slot. -/
def Sys2Proof.Claims.Branches : Prop :=
  ∀ p ∈ ([(.bz, fun x => decide (x = 0)), (.bnz, fun x => decide (x ≠ 0)), (.blz, fun x => decide (x.toInt < 0)),
      (.bgez, fun x => decide (0 ≤ x.toInt))] : List ((Hdr → BCond → Instr) × (Word → Bool))), ∀ h s,
    (∀ o, let go := predOn h s.th.regs && p.2 (s.th.regs.gr o.a)
      let t := target s.th o.t
      (go = false → exec (p.1 h o) s = .next s.retire) ∧
      (go = true → s.targetOk s.th t = true → continuesAt s (exec (p.1 h o) s) t id) ∧
      (go = true → s.targetOk s.th t = false → faults s (exec (p.1 h o) s) 0x02 0 t)) ∧
    (∀ o, (predOn h s.th.regs = false → exec (.br h o) s = .next s.retire) ∧
      (predOn h s.th.regs = true → s.targetOk s.th (target s.th o) = true →
        continuesAt s (exec (.br h o) s) (target s.th o) id) ∧
      (predOn h s.th.regs = true → s.targetOk s.th (target s.th o) = false →
        faults s (exec (.br h o) s) 0x02 0 (target s.th o)))

/-- `jr`, `ret` and the calls go where their register, lk or their target says; a taken call leaves in lk the address of
the group that follows. -/
def Sys2Proof.Claims.JumpsAndCalls : Prop :=
  ∀ h s, predOn h s.th.regs = true →
    let link := fun (c : Ctx) => { c with
      regs := c.regs.wg 63 s.th.nextGroup, openW := c.openW.filter fun w => w.spec != Machine.specG 63 }
    (∀ o, s.targetOk s.th (s.th.regs.gr o.a) = true → continuesAt s (exec (.jr h o) s) (s.th.regs.gr o.a) id) ∧
    (s.targetOk s.th (s.th.regs.rg 63) = true → continuesAt s (exec (.ret h) s) (s.th.regs.rg 63) id) ∧
    (∀ o, s.targetOk s.th (target s.th o) = true → continuesAt s (exec (.call h o) s) (target s.th o) link) ∧
    (∀ o, s.targetOk s.th (s.th.regs.gr o.a) = true → continuesAt s (exec (.callr h o) s) (s.th.regs.gr o.a) link) ∧
    (∀ o, s.targetOk s.th (s.th.regs.gr o.a) = false →
      faults s (exec (.jr h o) s) 0x02 0 (s.th.regs.gr o.a) ∧ faults s (exec (.callr h o) s) 0x02 0 (s.th.regs.gr o.a))

/-- Branches, jumps, calls and the return: a taken one goes to its legal target, takes the illegal-target fault at
another, and a call leaves the address of the next group in lk. -/
def Obligations.ControlTransfers : Prop := Branches ∧ JumpsAndCalls

/-- `loop` pushes a level with a count, skips to its exit without one, and faults on a fifth level or an exit that does
not lie behind it; `lbrk` pops a level and leaves, and faults without one. -/
def Sys2Proof.Claims.LoopInstructions : Prop :=
  ∀ h s, predOn h s.th.regs = true →
    (∀ o, let e := target s.th o.t
      let n := (s.th.regs.gs o.a).extractLsb' 0 32
      s.targetOk s.th e = true →
      (e ≤ s.th.nextGroup → faults s (exec (.loop h o) s) 0x1C 2 2) ∧
      (s.th.nextGroup < e → n = 0 → continuesAt s (exec (.loop h o) s) (endTest s.th.loops e).2
        fun c => { c with loops := (endTest c.loops e).1 }) ∧
      (s.th.nextGroup < e → n ≠ 0 → s.th.loops.length = 4 → faults s (exec (.loop h o) s) 0x1C 1 1) ∧
      (s.th.nextGroup < e → n ≠ 0 → s.th.loops.length ≠ 4 → continuesAt s (exec (.loop h o) s) s.th.nextGroup
        fun c => { c with loops := ⟨s.th.nextGroup, e, n⟩ :: c.loops })) ∧
    (s.th.loops = [] → faults s (exec (.lbrk h) s) 0x1C 3 3) ∧
    ∀ l ls, s.th.loops = l :: ls → s.targetOk s.th l.exit = true →
      continuesAt s (exec (.lbrk h) s) l.exit fun c => { c with loops := ls }

/-- The end test of a loop (R211): at the exit of the innermost level control returns to its start as long as a count is
left; a level whose last iteration is over is popped and the test repeats with the next one; elsewhere nothing happens. -/
def Sys2Proof.Claims.LoopEndTest : Prop :=
  ∀ l ls pc, (pc ≠ l.exit → endTest (l :: ls) pc = (l :: ls, pc)) ∧
    (l.rem ≠ 1 → endTest (l :: ls) l.exit = (⟨l.start, l.exit, l.rem - 1⟩ :: ls, l.start)) ∧
    (l.rem = 1 → endTest (l :: ls) l.exit = endTest ls l.exit) ∧ endTest [] pc = ([], pc)

/-- Hardware loops: `loop` pushes a level, skips a count of 0, and faults on a fifth level or a backward exit; `lbrk`
pops a level; the end test counts down at the exit and returns to the start. -/
def Obligations.Loops : Prop := LoopInstructions ∧ LoopEndTest

/-- `gdet` detaches an attached follower and is a `nop` for every other context; `gjoin` is a `nop` for a context that
leads no gang and has not left one, and lets a leader go on, with its followers attached again, once its attached
followers have come to it and every follower that left has joined; before that it waits. A detached follower joins and
waits for its leader, and goes on at once when that has ended. -/
def Sys2Proof.Claims.Gangs : Prop :=
  ∀ h s, (∃ t, exec (.gdet h) s = .next t ∧ (gangRole s.th ≠ 2 → t = s.retire) ∧
      (gangRole s.th = 2 → gangRole t.th = 3 ∧ t.th.gang.leader = s.th.gang.leader)) ∧
    (gangRole s.th = 0 ∨ gangRole s.th = 2 → exec (.gjoin h) s = .next s.retire) ∧
    (gangRole s.th = 1 → s.lagging s.th.cid = false → (s.looseFollowers s.th.cid).all (fun c => c.gang.joined) = true →
      goesTo (exec (.gjoin h) s) fun t => t.th = { s.th.retire with status := .running } ∧
        t.pool.length = s.pool.length ∧ ∀ (i : Nat) (c : Ctx), s.pool[i]? = some c → c ∈ s.looseFollowers s.th.cid →
          ∃ d : Ctx, t.pool[i]? = some d ∧ gangRole d = 2 ∧ d.pc = (endTest c.loops s.th.nextGroup).2) ∧
    (gangRole s.th = 1 → s.lagging s.th.cid = true ∨ (s.looseFollowers s.th.cid).all (fun c => c.gang.joined) = false →
      waits s (exec (.gjoin h) s) .gang) ∧
    (gangRole s.th = 3 → (∃ l, s.th.gang.leader.bind s.ctx? = some l ∧ l.ended = false ∧ l.completed = false) →
      goesTo (exec (.gjoin h) s) fun t => t = { s with th := { s.th with
        status := .parked .gang, gang := { s.th.gang with joined := true } } }) ∧
    (gangRole s.th = 3 → (∀ l, s.th.gang.leader.bind s.ctx? = some l → l.ended = true ∨ l.completed = true) →
      goesTo (exec (.gjoin h) s) fun t => t = { s.retire with th := { s.retire.th with status := .running } })

/-- The user state registers as `srrd` reads them; sr.fpstat waits for earlier instructions that can set a flag, sr.mprog
for a forked matrix program. A service cell reads sr.coord as zero (log 79). -/
def Sys2Proof.Claims.StateRegisterReads : Prop :=
  ∀ (h : Hdr) (s : State) (d : BitVec 6), predOn h s.th.regs = true → s.th.status = .running →
    (s.th.flagsOpen = true → waits s (exec (.srrd h ⟨d, 0x002⟩) s) .drain) ∧
    (s.th.matrixForked = true → waits s (exec (.srrd h ⟨d, 0x023⟩) s) .drain) ∧
    (∀ p ∈ ([(0x000, s.th.sr.ctl), (0x001, s.th.sr.fpctl), (0x003, s.th.sr.srctr), (0x004, s.th.sr.seed),
        (0x005, s.th.sr.det), (0x008, s.th.sr.lcell), (0x00A, s.th.sr.gang), (0x00B, s.th.sr.cmap),
        (0x00C, s.th.sr.ssnum), (0x00D, s.th.sr.round), (0x010, s.th.sr.stkbase), (0x011, s.th.sr.stklim),
        (0x012, s.th.sr.ovfptr), (0x018, BitVec.ofNat 64 (s.cyc s.th)), (0x019, BitVec.ofNat 64 (s.now * 9 / 5)),
        (0x01A, BitVec.ofNat 64 s.now), (0x01B, (s.frameRec (combFrame s.th.comb)).fstep), (0x020, s.th.sr.tcause),
        (0x021, s.th.sr.taddr), (0x022, s.th.sr.tpc), (0x024, s.afstat s.th),
        (0x028, BitVec.ofNat 64
          (((s.th.loops.head?.map fun l => l.rem.toNat).getD 0) * 4294967296 + s.th.loops.length))] :
          List (BitVec 12 × Word)),
      givesG s (exec (.srrd h ⟨d, p.1⟩) s) d 1 p.2) ∧
    (s.th.flagsOpen = false → givesG s (exec (.srrd h ⟨d, 0x002⟩) s) d 1 s.th.sr.fpstat) ∧
    (s.th.matrixForked = false →
      givesG s (exec (.srrd h ⟨d, 0x023⟩) s) d 1 (BitVec.ofNat 64 (32 * s.th.mat.koff.toNat))) ∧
    (s.th.cell? = none → givesG s (exec (.srrd h ⟨d, 0x009⟩) s) d 1 0) ∧
    ∀ i, s.th.place = .user i → givesG s (exec (.srrd h ⟨d, 0x009⟩) s) d 1
      (BitVec.ofNat 64 (cellFrame i * 16777216 + cellY i * 65536 + cellX i))

/-- What a user write of a state register changes, `srwr` and `srwri` alike: sr.ctl its two bits, sr.fpctl its enables and
its rounding mode (a reserved mode stores RNE), sr.fpstat the flags written with 1 cleared, sr.srctr all of it, sr.mprog its
offset; every other register of R186 ignores the write. -/
def Sys2Proof.Claims.StateRegisterWrites : Prop :=
  ∀ h s n, predOn h s.th.regs = true → s.th.status = .running → n.toNat < 0x800 →
    (n = 0x023 → s.th.matrixForked = false) →
    (∀ a, srWritten s (exec (.srwr h ⟨n, a⟩) s) n (s.th.regs.gs a)) ∧
    ∀ k : BitVec 12, srWritten s (exec (.srwri h ⟨n, k⟩) s) n (k.zeroExtend 64)

/-- Firmware on a service cell reads and writes the privileged registers of its cell with `srrd`, `srwr` and `srwri`; a
privileged number that names no register of the cell is the illegal encoding of reason 0x03. -/
def Sys2Proof.Claims.PrivilegedRegisterAccess : Prop :=
  ∀ h s k, predOn h s.th.regs = true → s.th.level ≠ .user → serviceCell s.th = some k →
    (∀ p ∈ privRegs s k, (∀ d, s.th.status = .running → givesG s (exec (.srrd h ⟨d, p.1⟩) s) d 1 p.2) ∧
      (∀ a, privWritten s (exec (.srwr h ⟨p.1, a⟩) s) k p.1 (s.th.regs.gs a)) ∧
      ∀ x : BitVec 12, privWritten s (exec (.srwri h ⟨p.1, x⟩) s) k p.1 (x.zeroExtend 64)) ∧
    ∀ n : BitVec 12, 0x800 ≤ n.toNat → (∀ p ∈ privRegs s k, p.1 ≠ n) →
      (∀ d w, encode (.srrd h ⟨d, n⟩) = some w → faults s (exec (.srrd h ⟨d, n⟩) s) 0x01 3 (w.extractLsb' 32 64)) ∧
      (∀ a w, encode (.srwr h ⟨n, a⟩) = some w → faults s (exec (.srwr h ⟨n, a⟩) s) 0x01 3 (w.extractLsb' 32 64)) ∧
      ∀ x w, encode (.srwri h ⟨n, x⟩) = some w → faults s (exec (.srwri h ⟨n, x⟩) s) 0x01 3 (w.extractLsb' 32 64)

/-- `srrd`, `srwr` and `srwri` complete for every register of their context: with the predicate on, for every number of a
user register and, at firmware level, of a privileged register of the cell; only sr.fpstat waits for flags that are on
their way, and sr.mprog for a forked matrix program. -/
def Sys2Proof.Claims.StateRegisterCompletion : Prop :=
  ∀ h s (n : BitVec 12), predOn h s.th.regs = true →
    (n.toNat < 0x800 ∨ s.th.level ≠ .user ∧ ∃ k, serviceCell s.th = some k ∧ ∃ p ∈ privRegs s k, p.1 = n) →
    (n = 0x023 → s.th.matrixForked = false) →
    ((n = 0x002 → s.th.flagsOpen = false) → ∀ d, goesTo (exec (.srrd h ⟨d, n⟩) s) fun t => onlyContext s t ∧ advances s t ∧
      memoryKept s t ∧ lands s.th t.th (Machine.specG d) 1 ((s.srRead s.th n).zeroExtend 256)) ∧
    (∀ a, goesTo (exec (.srwr h ⟨n, a⟩) s) fun t => advances s t ∧ memoryKept s t ∧ t.th.regs = s.th.regs) ∧
    ∀ x, goesTo (exec (.srwri h ⟨n, x⟩) s) fun t => advances s t ∧ memoryKept s t ∧ t.th.regs = s.th.regs

/-- State registers: what `srrd` reads, and what `srwr` and `srwri` change, the user registers and, in a service cell,
the privileged ones; the three complete for every register of their context. That firmware which names an unassigned
number from 0x800 up takes reason 0x03 is the model's reading (log 23), and so is the value of sr.coord in a service
cell (log 79). -/
def Obligations.StateRegisters : Prop := StateRegisterReads ∧ StateRegisterWrites ∧ PrivilegedRegisterAccess ∧ StateRegisterCompletion

/-- A user context that names a privileged state register takes the privilege fault. -/
def Sys2Proof.Claims.PrivilegedStateRegisters : Prop :=
  ∀ h s n, predOn h s.th.regs = true → s.th.level = .user → 0x800 ≤ n.toNat →
    (∀ d, faults s (exec (.srrd h ⟨d, n⟩) s) 0x05 0 (n.zeroExtend 64)) ∧
    (∀ a, faults s (exec (.srwr h ⟨n, a⟩) s) 0x05 0 (n.zeroExtend 64)) ∧
    ∀ k, faults s (exec (.srwri h ⟨n, k⟩) s) 0x05 0 (n.zeroExtend 64)

/-- `halt` empties the loop stack and ends the program once every operation of the context has been acknowledged; before
that it waits. -/
def Sys2Proof.Claims.HaltEnds : Prop :=
  ∀ h s, predOn h s.th.regs = true →
    goesTo (exec (.halt h) s) fun t => t.th.loops = [] ∧ (s.th.pend = [] → t.th.regs = s.th.regs) ∧ memoryKept s t ∧
      (s.th.drained = true → t.th.ended = true ∧ t.th.grp = none) ∧
      (s.th.drained = false → t = { s with th := { s.th with loops := [], status := .parked .drain } })

/-- `halt` ends a program once it is drained, `gdet` and `gjoin` detach and join followers, and a whole instruction
whose predicate is off takes no effect. That the `gjoin` of an attached follower whose leader is behind it waits is the
model's reading (log 26). -/
def Obligations.HaltsGangsAndPredicates : Prop := HaltEnds ∧ Gangs ∧ PredicateOff

/-! ### Lanes and masks (R217 to R235) -/

/-- Sources: a scalar source is its register, extended and then shifted, g0 reading 0, or its inline constant; lane j of a
lane source is the lane that the modifier names, or the constant. -/
def Obligations.SourceOperands : Prop :=
  ∀ (R : Regs) (t : Ty),
    (∀ k, R.gs (.imm k) = k.signExtend 64) ∧
    (∀ r m, R.gs (.reg ⟨r, m⟩) =
      let x := if r = 0 then 0 else R.g.get r.toFin
      let y := match m.ext with
        | .none => x
        | .sx8 => (x.extractLsb' 0 8).signExtend 64
        | .sx16 => (x.extractLsb' 0 16).signExtend 64
        | .sx32 => (x.extractLsb' 0 32).signExtend 64
        | .zx8 => (x.extractLsb' 0 8).zeroExtend 64
        | .zx16 => (x.extractLsb' 0 16).zeroExtend 64
        | .zx32 => (x.extractLsb' 0 32).zeroExtend 64
      match m.shift with
        | .none => y
        | .shl => y <<< m.dist.toNat
        | .shr => y >>> m.dist.toNat
        | .sar => y.sshiftRight m.dist.toNat) ∧
    ∀ v : VReg, v.ok t.lanes = true → ∀ j < t.lanes,
      let n := 2 ^ v.m.seg.toNat
      (R.vs t (.reg v)).getD j 0 = laneOf t.bits (R.rv v.r) (match v.m.cls with
        | .none => j
        | .rot => j / n * n + (j % n + v.m.dist.toNat) % n
        | .bfly => j / n * n + (j % n ^^^ v.m.dist.toNat)
        | .bcast => j / n * n + v.m.dist.toNat)

/-- Integer lane forms of two sources: active lanes receive the result modulo 2^w, the others keep their value. -/
def Sys2Proof.Claims.VectorTwoSource : Prop :=
  ∀ p ∈ laneForms, ∀ h o s, (p.1 h o).wellFormed = true →
    givesV s (exec (p.1 h o) s) h o.ty o.d 2 fun j => wrapTo o.ty (p.2 o.ty (laneW s o.ty o.a j) (laneW s o.ty o.b j))

/-- Integer lane forms of one source, `vmov` among them, and of three. -/
def Sys2Proof.Claims.VectorOneAndThreeSource : Prop :=
  (∀ p ∈ laneUnary, ∀ h o s, (p.1 h o).wellFormed = true →
    givesV s (exec (p.1 h o) s) h o.ty o.d 2 fun j => wrapTo o.ty (p.2 o.ty (laneW s o.ty o.a j))) ∧
  ∀ h o s, (Instr.vmad h o).wellFormed = true →
    givesV s (exec (.vmad h o) s) h o.ty o.d 2 fun j =>
      wrapTo o.ty (val o.ty (laneW s o.ty o.a j) * val o.ty (laneW s o.ty o.b j) +
        val o.ty (BitVec.ofNat 64 (laneR s o.ty o.c j)))

/-- Saturating lane forms: active lanes are clamped, and sr.fpstat.sv is set when an active lane clamps. -/
def Sys2Proof.Claims.VectorSaturating : Prop :=
  ∀ p ∈ laneSat, ∀ h o s, (p.1 h o).wellFormed = true →
    let r := fun j => p.2 o.ty (laneW s o.ty o.a j) (laneW s o.ty o.b j)
    goesTo (exec (p.1 h o) s) fun t => onlyRegsFp s t ∧
      lanesAre s h o.ty o.d 2 (fun j => wrapTo o.ty (clamped o.ty (r j))) t.th ∧ t.th.sr.srctr = s.th.sr.srctr ∧
      t.th.sr.fpstat = if ∃ j < o.ty.lanes, isActive h s o.ty j = true ∧ clamped o.ty (r j) ≠ r j
        then s.th.sr.fpstat ||| 0x20 else s.th.sr.fpstat

/-- Saturating forms clamp to the range of the type, set sr.fpstat.sv when they clamp, and leave every other bit of it
alone, on scalars and on active lanes. -/
def Obligations.Saturating : Prop := ScalarSaturating ∧ VectorSaturating

/-- Lane compares: every mask bit of an active lane's bytes follows the relation, the bits of the others stay. Integer
lanes raise nothing; a floating lane with a signalling NaN raises IV. -/
def Sys2Proof.Claims.VectorCompare : Prop :=
  ∀ p ∈ laneRelations, ∀ h o s, (p.1 h o).wellFormed = true →
    let holds := fun j => if o.ty.isInt then p.2.2.2 (val o.ty (laneW s o.ty o.a j)) (val o.ty (laneW s o.ty o.b j))
      else (fcompare (Ty.fmt o.ty) p.2.2.1 (lane s o.ty o.a j) (lane s o.ty o.b j)).1
    let fs := (List.range o.ty.lanes).map fun j => if isActive h s o.ty j && !o.ty.isInt then
      (fcompare (Ty.fmt o.ty) p.2.2.1 (lane s o.ty o.a j) (lane s o.ty o.b j)).2 else 0
    fpOutcome s (exec (p.1 h o) s) fs .rne 0 fun c => ∃ x : MWord, lands s.th c (Machine.specM o.d) 2 (x.zeroExtend 256) ∧
      ∀ k < 32, x.getLsbD k = if isActive h s o.ty (k / o.ty.bytes) then holds (k / o.ty.bytes)
        else (s.th.regs.rm o.d).getLsbD k

/-- `vsel` takes lanes by the mask register c; broadcasts fill the active lanes. -/
def Sys2Proof.Claims.VectorSelectAndBroadcast : Prop :=
  ∀ h s, (∀ o, (Instr.vsel h o).wellFormed = true →
      givesV s (exec (.vsel h o) s) h o.ty o.d 2 fun j =>
        if (s.th.regs.rm o.c).getLsbD (j * o.ty.bytes) then lane s o.ty o.a j else lane s o.ty o.b j) ∧
    (∀ o, (Instr.vbcsti h o).wellFormed = true →
      givesV s (exec (.vbcsti h o) s) h o.ty o.d 2 fun _ => (o.imm.signExtend 64).toNat % 2 ^ o.ty.bits) ∧
    ∀ o, (Instr.vbcst h o).wellFormed = true →
      givesV s (exec (.vbcst h o) s) h o.ty o.d 2 fun _ => (s.th.regs.rg o.a).toNat % 2 ^ o.ty.bits

/-- Integer lane forms of one, two and three sources, `vsel` and the broadcasts: active lanes receive the result modulo
2^w, the others keep their value. -/
def Obligations.VectorLanes : Prop := VectorTwoSource ∧ VectorOneAndThreeSource ∧ VectorSelectAndBroadcast

/-- Mask instructions act on whole 32-bit masks. -/
def Sys2Proof.Claims.MaskOperations : Prop :=
  ∀ h s, predOn h s.th.regs = true →
    (∀ p ∈ ([(.mand, fun a b => a &&& b), (.mor, fun a b => a ||| b), (.mxor, fun a b => a ^^^ b),
        (.mandn, fun a b => a &&& ~~~b)] : List ((Hdr → MBin → Instr) × (MWord → MWord → MWord))), ∀ o,
      givesM s (exec (p.1 h o) s) o.d 2 (p.2 (s.th.regs.rm o.a) (s.th.regs.rm o.b))) ∧
    (∀ o, givesM s (exec (.mnot h o) s) o.d 2 (~~~(s.th.regs.rm o.a))) ∧
    (∀ o, givesG s (exec (.mpopc h o) s) o.d 2
      (BitVec.ofNat 64 ((List.range 32).filter fun j => (s.th.regs.rm o.a).getLsbD j).length)) ∧
    (∀ o, givesG s (exec (.mfirst h o) s) o.d 2
      (BitVec.ofNat 64 (((List.range 32).find? fun j => (s.th.regs.rm o.a).getLsbD j).getD 32))) ∧
    (∀ o, givesM s (exec (.mfromg h o) s) o.d 2 ((s.th.regs.gr o.a).extractLsb' 0 32)) ∧
    ∀ o, givesG s (exec (.mtog h o) s) o.d 2 ((s.th.regs.rm o.a).zeroExtend 64)

/-- Permutations of lanes. -/
def Sys2Proof.Claims.Permutations : Prop :=
  ∀ h s, (∀ p ∈ permutations, ∀ o, (p.1 h o).wellFormed = true →
      givesV s (exec (p.1 h o) s) h o.ty o.d 2 (p.2 o.ty.lanes (lane s o.ty o.a) (lane s o.ty o.b))) ∧
    (∀ o, (Instr.vperm2 h o).wellFormed = true → givesV s (exec (.vperm2 h o) s) h o.ty o.d 2 fun j =>
      let t := lane s o.ty o.b j % (2 * o.ty.lanes)
      if t < o.ty.lanes then lane s o.ty o.a t else laneR s o.ty o.c (t - o.ty.lanes)) ∧
    ∀ o, (Instr.vslide h o).wellFormed = true → givesV s (exec (.vslide h o) s) h o.ty o.d 2 fun j =>
      let t := j + (s.th.regs.gs o.b).toNat % o.ty.lanes
      if t < o.ty.lanes then lane s o.ty o.a t else laneR s o.ty o.c (t - o.ty.lanes)

/-- Lane moves and random words: `vins` writes one lane, `vext` reads one, `rng` and `vrng` return hive mix words of their
operands and do not touch sr.srctr. -/
def Sys2Proof.Claims.LaneMovesAndRandomWords : Prop :=
  ∀ h s, (predOn h s.th.regs = true →
    (∀ o, (Instr.vins h o).wellFormed = true → goesTo (exec (.vins h o) s) fun t => onlyRegs s t ∧
      ∃ x, lands s.th t.th (Machine.specV o.d) 2 x ∧ ∀ j < o.ty.lanes, laneOf o.ty.bits x j =
        if j = (s.th.regs.gs o.b).toNat % o.ty.lanes then (s.th.regs.gr o.a).toNat % 2 ^ o.ty.bits
        else laneR s o.ty o.d j) ∧
    (∀ o, (Instr.vext h o).wellFormed = true →
      givesG s (exec (.vext h o) s) o.d 2
        (BitVec.ofNat 64 (lane s o.ty (.reg o.a) ((s.th.regs.gs o.b).toNat % o.ty.lanes)))) ∧
    ∀ o, givesG s (exec (.rng h o) s) o.d 0 (mix (s.th.regs.gs o.a) (s.th.regs.gs o.b))) ∧
    ∀ o, givesV s (exec (.vrng h o) s) h .d o.d 0 fun j =>
      (mix (s.th.regs.gs o.a) (s.th.regs.gs o.b + BitVec.ofNat 64 j)).toNat

/-- Mask operations on whole masks, permutations of lanes, moves of single lanes and random words. -/
def Obligations.MasksAndPermutations : Prop := MaskOperations ∧ Permutations ∧ LaneMovesAndRandomWords

/-- Integer reductions fold the active lanes in the fixed pairwise tree and extend the result by type. -/
def Sys2Proof.Claims.IntegerReductions : Prop :=
  ∀ p ∈ laneFolds, ∀ h o s, (p.1 h o).wellFormed = true → o.ty.isInt = true →
    givesG s (exec (p.1 h o) s) o.d 0 (extByType o.ty
      ((fold (fun a b => wrapTo o.ty (p.2.2 o.ty (BitVec.ofNat 64 a) (BitVec.ofNat 64 b))) (Nat.log2 o.ty.lanes)
        fun j => if isActive h s o.ty j then lane s o.ty o.a j else wrapTo o.ty (p.2.1 o.ty) : Nat) : Int))

/-! ### Floating point (R108 to R124, R218, R224 to R240) -/

/-- Rounding: the code 0 names the mode of sr.fpctl; a stochastic element takes the high half of the hive mix of its key
and counter, and is truncated and then raised by one unit when that word and the top 32 discarded bits carry (R116);
nearest rounding is off by at most half a unit and ties go to even, and the directed modes go where they
say. -/
def Sys2Proof.Claims.RoundingModes : Prop :=
  (∀ (c : SrBank) i, modeAt c .dyn i = modeAt c (Rnd.ofCode (c.fpctl.extractLsb' 0 3)) i) ∧
  (∀ (c : SrBank) i, modeAt c .sr i =
    .sr ((mix (c.seed ^^^ ((c.lcell &&& 0xFFFF) <<< 32)) (c.srctr + BitVec.ofNat 64 i)).toNat / 4294967296)) ∧
  ∀ n m e k, let q : Int := e + (k + 1 : Nat)
    let u := 2 ^ (k + 1)
    let x : Ex := ⟨n, m, e, false⟩
    ((roundMag .rne x q).1 * u ≤ m + u / 2 ∧ m ≤ (roundMag .rne x q).1 * u + u / 2 ∧
      (2 * (m % u) = u → (roundMag .rne x q).1 % 2 = 0)) ∧
    (roundMag .rtz x q).1 = m / u ∧
    (roundMag .rup x q).1 = (if n then m / u else (m + (u - 1)) / u) ∧
    (roundMag .rdn x q).1 = (if n then (m + (u - 1)) / u else m / u) ∧
    (roundMag .rna x q).1 = (m + u / 2) / u ∧
    (∀ w, (roundMag (.sr w) x q).1 = m / u + if 2 ^ 32 ≤ m % u * 2 ^ 32 / u + w then 1 else 0) ∧
    ∀ r, ((roundMag r x q).2 = true ↔ m % u ≠ 0)

/-- Rounding a value that a format holds gives its encoding, in every mode, and raises nothing. -/
def Sys2Proof.Claims.RoundingIsExactOnValues : Prop :=
  ∀ f ∈ [FFmt.f64, FFmt.f32, FFmt.f16, FFmt.bf16, FFmt.e5m2, FFmt.e4m3, FFmt.e2m1], ∀ r x n m e,
    x < 2 ^ f.width → f.value x = .fin n m e → (Raw.ex ⟨n, m, e, false⟩).round f r = ⟨x, 0⟩

/-- A stochastic result (R115, R116): the drawn word w and the top 32 of the bits below the last kept one, taken at the
destination's precision at that exponent, decide between the two neighbours; IX is raised when a discarded bit is set; a
magnitude beyond the largest finite value gives ±∞, or the largest finite value where the format has no infinity, with OF
and IX. -/
def Sys2Proof.Claims.StochasticResult : Prop :=
  ∀ f ∈ [FFmt.f64, FFmt.f32, FFmt.f16, FFmt.bf16, FFmt.e5m2, FFmt.e4m3], ∀ n m e w, m ≠ 0 → w < 2 ^ 32 →
    let q : Int := max ((Nat.log2 m : Int) + e - f.fbits) (f.emin - f.fbits)
    e < q →
    let u := 2 ^ (q - e).toNat
    let k := m / u + if 2 ^ 32 ≤ m % u * 2 ^ 32 / u + w then 1 else 0
    let r := (Raw.ex ⟨n, m, e, false⟩).round f (.sr w)
    ((k : ℚ) * 2 ^ q ≤ magn (f.value f.maxBits) →
      real (f.value r.bits) = real (.fin n k q) ∧ r.flags.getLsbD 0 = decide (m % u ≠ 0) ∧ r.flags.getLsbD 2 = false) ∧
    (magn (f.value f.maxBits) < (k : ℚ) * 2 ^ q → r.flags = 5 ∧
      r.bits = (if n then 2 ^ (f.width - 1) else 0) + if f.form = .e4m3 then f.maxBits else f.infBits)

/-- Rounding: the modes, the stochastic draw and how it rounds a result, the direction of each mode, and exact values
stay as they are. -/
def Obligations.Rounding : Prop := RoundingModes ∧ RoundingIsExactOnValues ∧ StochasticResult

/-- Two-source arithmetic of floating lanes and of the FP64 unit: the exact operation, rounded once in the instruction's
mode. -/
def Sys2Proof.Claims.FloatTwoSource : Prop :=
  ∀ p ∈ floatBinary, ∀ h s,
    (∀ o, (p.1 h o).wellFormed = true →
      let r := fun j => (p.2.2.2.2 (Ty.fmt o.ty) (modeAt s.th.sr o.rm j) (laneF s o.ty o.a j) (laneF s o.ty o.b j)).round
        (Ty.fmt o.ty) (modeAt s.th.sr o.rm j)
      fpOutcome s (exec (p.1 h o) s) (laneResults s h o.ty r) o.rm o.ty.lanes
        (lanesAre s h o.ty o.d p.2.1 fun j => (r j).bits)) ∧
    ∀ o, predOn h s.th.regs = true →
      let r := (p.2.2.2.2 .f64 (modeAt s.th.sr o.rm 0) (src64 s o.a) (src64 s o.b)).round .f64 (modeAt s.th.sr o.rm 0)
      fpOutcome s (exec (p.2.2.1 h o) s) [r.flags] o.rm 1
        fun c => lands s.th c (Machine.specG o.d) p.2.2.2.1 ((BitVec.ofNat 64 r.bits).zeroExtend 256)

/-- An FP64 instruction whose predicate is off has no effect but on the counter of mode SR, of which it consumes one value
all the same (R236). -/
def Sys2Proof.Claims.Fp64PredicateOff : Prop :=
  ∀ h s, predOn h s.th.regs = false →
    let counts := fun (i : Instr) (rm : Rnd) => exec i s = .next (State.retire { s with th := { s.th with sr := { s.th.sr with
      srctr := if resolveRnd s.th.sr.fpctl rm = .sr then s.th.sr.srctr + 1 else s.th.sr.srctr } } })
    (∀ p ∈ floatBinary, ∀ o, counts (p.2.2.1 h o) o.rm) ∧ (∀ p ∈ floatFused, ∀ o, counts (p.2.1 h o) o.rm) ∧
    (∀ p ∈ floatFunctions64, ∀ o, counts (p.1 h o) o.rm) ∧ (∀ o, counts (.fcvt h o) o.rm) ∧
    (∀ p ∈ floatMinMax, ∀ o, goesOn s (exec (p.2.1 h o) s)) ∧ (∀ p ∈ floatSign, ∀ o, goesOn s (exec (p.2.1 h o) s)) ∧
    ∀ p ∈ laneRelations, ∀ o, goesOn s (exec (p.2.1 h o) s)

/-- Fused forms: ±(a × b) ± c, rounded once. -/
def Sys2Proof.Claims.FloatFused : Prop :=
  ∀ p ∈ floatFused, ∀ h s,
    (∀ o, (p.1 h o).wellFormed = true →
      let r := fun j => (rawFma (down (modeAt s.th.sr o.rm j)) p.2.2.1 p.2.2.2 (laneF s o.ty o.a j) (laneF s o.ty o.b j)
        ((Ty.fmt o.ty).value (laneR s o.ty o.c j))).round (Ty.fmt o.ty) (modeAt s.th.sr o.rm j)
      fpOutcome s (exec (p.1 h o) s) (laneResults s h o.ty r) o.rm o.ty.lanes
        (lanesAre s h o.ty o.d 4 fun j => (r j).bits)) ∧
    ∀ o, predOn h s.th.regs = true →
      let r := (rawFma (down (modeAt s.th.sr o.rm 0)) p.2.2.1 p.2.2.2 (src64 s o.a) (src64 s o.b)
        (FFmt.f64.value (s.th.regs.rg o.c).toNat)).round .f64 (modeAt s.th.sr o.rm 0)
      fpOutcome s (exec (p.2.1 h o) s) [r.flags] o.rm 1
        fun c => lands s.th c (Machine.specG o.d) 6 ((BitVec.ofNat 64 r.bits).zeroExtend 256)

/-- Floating arithmetic on lanes and on the FP64 unit: the exact operation, two-source or fused, rounded once in the
instruction's mode; the FP64 forms consume their counter value in mode SR also when their predicate is off. -/
def Obligations.FloatArithmetic : Prop := FloatTwoSource ∧ FloatFused ∧ Fp64PredicateOff

/-- Minima, maxima and sign forms: they do not round and consume no counter value; the sign forms raise nothing and change
the sign bit alone. -/
def Sys2Proof.Claims.SignAndMinMax : Prop :=
  ∀ h s, (∀ p ∈ floatMinMax,
    (∀ o, (p.1 h o).wellFormed = true →
      let r := fun j => fminmax (Ty.fmt o.ty) p.2.2 (lane s o.ty o.a j) (lane s o.ty o.b j)
      fpOutcome s (exec (p.1 h o) s) (laneResults s h o.ty r) .rne 0 (lanesAre s h o.ty o.d 4 fun j => (r j).bits)) ∧
    ∀ o, predOn h s.th.regs = true →
      let r := fminmax .f64 p.2.2 (s.th.regs.fs o.a) (s.th.regs.fs o.b)
      fpOutcome s (exec (p.2.1 h o) s) [r.flags] .rne 0
        fun c => lands s.th c (Machine.specG o.d) 6 ((BitVec.ofNat 64 r.bits).zeroExtend 256)) ∧
  ∀ p ∈ floatSign,
    (∀ o, (p.1 h o).wellFormed = true → givesV s (exec (p.1 h o) s) h o.ty o.d 4 fun j =>
      let x := lane s o.ty o.a j
      x % 2 ^ (o.ty.bits - 1) + p.2.2 (x / 2 ^ (o.ty.bits - 1)) * 2 ^ (o.ty.bits - 1)) ∧
    ∀ o, predOn h s.th.regs = true → (s.th.regs.fs o.a < 2 ^ 64) →
      givesG s (exec (p.2.1 h o) s) o.d 6 (BitVec.ofNat 64
        (s.th.regs.fs o.a % 2 ^ 63 + p.2.2 (s.th.regs.fs o.a / 2 ^ 63) * 2 ^ 63))

/-- Minimum and maximum in the words of R113: a NaN operand gives the canonical NaN, with IV only for a signalling one;
otherwise the result is an operand that no operand lies beyond, −0 counting as less than +0, and nothing is raised. -/
def Sys2Proof.Claims.MinMaxValues : Prop :=
  ∀ f ∈ [FFmt.f64, FFmt.f32, FFmt.f16, FFmt.bf16, FFmt.e5m2, FFmt.e4m3], ∀ isMax, ∀ a < 2 ^ f.width, ∀ b < 2 ^ f.width,
    let r := fminmax f isMax a b
    ((nanSig (f.value a)).isSome ∨ (nanSig (f.value b)).isSome → r.bits = f.nanBits ∧
      r.flags = if nanSig (f.value a) = some true ∨ nanSig (f.value b) = some true then 16 else 0) ∧
    (nanSig (f.value a) = none → nanSig (f.value b) = none → r.flags = 0 ∧ (r.bits = a ∨ r.bits = b)) ∧
    (∀ x y, real (f.value a) = some x → real (f.value b) = some y →
      real (f.value r.bits) = some (if isMax then max x y else min x y) ∧
      (x = 0 → y = 0 → r.bits / 2 ^ (f.width - 1) = if isMax then min (a / 2 ^ (f.width - 1)) (b / 2 ^ (f.width - 1))
        else max (a / 2 ^ (f.width - 1)) (b / 2 ^ (f.width - 1)))) ∧
    (f.value a = .inf false → nanSig (f.value b) = none → r.bits = if isMax then a else b) ∧
    (f.value a = .inf true → nanSig (f.value b) = none → r.bits = if isMax then b else a) ∧
    (f.value b = .inf false → nanSig (f.value a) = none → r.bits = if isMax then b else a) ∧
    (f.value b = .inf true → nanSig (f.value a) = none → r.bits = if isMax then a else b)

/-- Minima, maxima and sign forms of lanes and of the FP64 unit: which operand they return, and that they change the
sign bit alone. -/
def Obligations.FloatSignAndMinMax : Prop := SignAndMinMax ∧ MinMaxValues

/-- Correctly rounded functions, interlocked: each active lane receives the function of its value, rounded once. -/
def Sys2Proof.Claims.RoundedFunctions : Prop :=
  (∀ p ∈ floatFunctions, ∀ h o s, (p.1 h o).wellFormed = true →
    let r := fun j => p.2 (Ty.fmt o.ty) (modeAt s.th.sr o.rm j) (lane s o.ty o.a j)
    fpOutcome s (exec (p.1 h o) s) (laneResults s h o.ty r) o.rm o.ty.lanes
      (lanesAre s h o.ty o.d 0 fun j => (r j).bits)) ∧
  ∀ p ∈ floatFunctions64, ∀ h o s, predOn h s.th.regs = true →
    let r := p.2 .f64 (modeAt s.th.sr o.rm 0) (s.th.regs.fs o.a)
    fpOutcome s (exec (p.1 h o) s) [r.flags] o.rm 1
      fun c => lands s.th c (Machine.specG o.d) 0 ((BitVec.ofNat 64 r.bits).zeroExtend 256)

/-- Estimates (R227): at determinism level 3 the determinism fault, whatever the predicate; at the other levels a result in
every active lane, and no counter value consumed. Of flags they raise IV, DZ and OF only; a NaN gives the canonical NaN, with
IV when it is signalling. A finite result lies within 2^−12 of the exact value, relative or absolute, where the type has such
a value; where it has none, it is the nearest value or one next to the bound (the model's reading, log 9). -/
def Sys2Proof.Claims.Estimates : Prop :=
  ∀ p ∈ estimates, ∀ h o s, (p.1 h o).wellFormed = true →
    (detLevel s.th = 3 → faults s (exec (p.1 h o) s) 0x07 0 0) ∧
    (detLevel s.th ≠ 3 →
      let r := fun j => fnEstimate p.2 o.ty (lane s o.ty o.a j)
      fpOutcome s (exec (p.1 h o) s) (laneResults s h o.ty r) .rne 0 (lanesAre s h o.ty o.d 0 fun j => (r j).bits)) ∧
    ∀ x, let f := Ty.fmt o.ty
      let r := fnEstimate p.2 o.ty x
      let rel := decide (p.2 = .rcp ∨ p.2 = .rsqrt ∨ p.2 = .exp)
      r.flags &&& 3 = 0 ∧
      (∀ sig, f.value x = .nan sig → r = ⟨f.nanBits, if sig then 16 else 0⟩) ∧
      ∀ v, rawFn p.2 estBits (f.value x) = .ex v → v.m ≠ 0 → (∃ n m e, f.value x = .fin n m e ∧ m ≠ 0) →
        r.flags.getLsbD 2 = false →
        let near := (roundTo f .rne v).bits
        (estHolds rel v (f.value near) = true → estHolds rel v (f.value r.bits) = true) ∧
        (estHolds rel v (f.value near) = false → r.bits = near ∨ estNear rel f v (f.value r.bits) = true)

/-- Correctly rounded functions, interlocked, and estimates, which keep the bound of R227 where a value does (the
model's reading of the bound is log 9) and take the determinism fault at level 3. -/
def Obligations.FloatFunctions : Prop := RoundedFunctions ∧ Estimates

/-- Conversions: `vcvt` moves n elements between lanes of two widths, `fcvt` one value. -/
def Sys2Proof.Claims.Conversions : Prop :=
  ∀ h s, (∀ o, (Instr.vcvt h o).wellFormed = true →
    let n := min o.src.lanes o.ty.lanes
    let p := o.part.toNat
    let first := if o.src.lanes < o.ty.lanes then p * n else 0
    let isIn := fun j => decide (first ≤ j ∧ j < first + n) && isActive h s o.ty j
    let r := fun j => convert o.src o.ty (modeAt s.th.sr o.rm (j - first))
      (lane s o.src o.a (if o.ty.lanes < o.src.lanes then p * n + j else j - first))
    fpOutcome s (exec (.vcvt h o) s) ((List.range o.ty.lanes).map fun j => if isIn j then (r j).flags else 0) o.rm n fun c =>
      ∃ x, lands s.th c (Machine.specV o.d) 4 x ∧ ∀ j < o.ty.lanes, laneOf o.ty.bits x j =
        if isIn j then (r j).bits % 2 ^ o.ty.bits else laneR s o.ty o.d j) ∧
  ∀ o, (Instr.fcvt h o).wellFormed = true → predOn h s.th.regs = true →
    let r := convert o.src o.ty (modeAt s.th.sr o.rm 0) (match o.a with
      | .reg r => (s.th.regs.rg r).toNat % 2 ^ o.src.bits
      | .imm k => immBits o.src k)
    fpOutcome s (exec (.fcvt h o) s) [r.flags] o.rm 1 fun c => lands s.th c (Machine.specG o.d) 6
      ((if o.ty.isInt then extByType o.ty r.bits else BitVec.ofNat 64 (r.bits % 2 ^ o.ty.bits)).zeroExtend 256)

/-- What a conversion gives, in the words of R113 and R228: a NaN gives the canonical NaN of a floating destination and 0 with
IV in an integer one; an infinity stays one, gives NaN with IV where the format has none, and the limit of an integer type
with IV; a number that the destination holds arrives as it is and raises nothing; an integer destination takes the number
rounded in the mode, and its limit with IV when that is out of range. -/
def Sys2Proof.Claims.ConversionValues : Prop :=
  ∀ (src dst : Ty) mode x, (cvtPair src dst = true ∨ fcvtPair src dst = true) → let r := convert src dst mode x
    let f := Ty.fmt dst
    let lo : Int := if dst.signed then -((2 ^ (dst.bits - 1) : Nat) : Int) else 0
    let hi : Int := if dst.signed then ((2 ^ (dst.bits - 1) : Nat) : Int) - 1 else ((2 ^ dst.bits : Nat) : Int) - 1
    let v : FVal := if src.isInt then
        let k := val src (BitVec.ofNat 64 x)
        .fin (decide (k < 0)) k.natAbs 0
      else (Ty.fmt src).value x
    (src.isInt = true → x < 2 ^ 64) → (∀ w, mode = .sr w → w < 2 ^ 32) →
    (∀ sig, v = .nan sig → if dst.isInt then r = ⟨0, 16⟩ else r = ⟨f.nanBits, if sig then 16 else 0⟩) ∧
    (∀ n, v = .inf n → if dst.isInt then r = ⟨wrapTo dst (if n then lo else hi), 16⟩
      else if f.form = .ieee then r = ⟨(if n then 2 ^ (f.width - 1) else 0) + f.infBits, 0⟩ else r = ⟨f.nanBits, 16⟩) ∧
    (∀ n m e, v = .fin n m e → dst.isInt = true →
      let k : Int := (if n then -1 else 1) * ((roundMag mode ⟨n, m, e, false⟩ 0).1 : Int)
      r = if k < lo then ⟨wrapTo dst lo, 16⟩ else if hi < k then ⟨wrapTo dst hi, 16⟩
        else ⟨wrapTo dst k, if real v = some (k : ℚ) then 0 else 1⟩) ∧
    ∀ n m e y, v = .fin n m e → dst.isInt = false → y < 2 ^ f.width → real (f.value y) = real v →
      real (f.value r.bits) = real v ∧ r.flags = 0

/-- FP64 compares write all ones or zero to a mask register. -/
def Sys2Proof.Claims.Fp64Compare : Prop :=
  ∀ p ∈ laneRelations, ∀ h o s, predOn h s.th.regs = true →
    let r := fcompare .f64 p.2.2.1 (s.th.regs.fs o.a) (s.th.regs.fs o.b)
    fpOutcome s (exec (p.2.1 h o) s) [r.2] .rne 0
      fun c => lands s.th c (Machine.specM o.d) 6 ((if r.1 then 0xFFFFFFFF else 0 : MWord).zeroExtend 256)

/-- Compares into mask registers: all ones or zero for scalars and FP64 values, the bits of each active lane for
vectors; a floating compare raises IV as R113 says. -/
def Obligations.Compares : Prop := ScalarCompare ∧ VectorCompare ∧ Fp64Compare

/-- Block formats: `vbfpx` computes the exponent pair of its group, `vbfpe` encodes the group under a pair, in whole for
BFP8 and into one half for BFP4, and `vbfpd` decodes eight elements. -/
def Sys2Proof.Claims.BlockFormats : Prop :=
  ∀ h s, (∀ o, (Instr.vbfpx h o).wellFormed = true → goesTo (exec (.vbfpx h o) s) fun t => onlyRegs s t ∧
      let p := bfpPair (o.ty == .bfp4) ((s.th.regs.block o.base).map FFmt.f32.value)
      lands s.th t.th (Machine.specG o.d) 4 ((BitVec.ofNat 64 (p.2 * 256 + p.1)).zeroExtend 256)) ∧
    (∀ o, let rs := encodeBlock s.th o.ty o.rm o.base (s.th.regs.gr o.b)
      ((Instr.vbfpe h o).wellFormed = true → o.ty = .bfp8 →
        fpOutcome s (exec (.vbfpe h o) s) (rs.map FRes.flags) o.rm 32 fun c => ∃ x,
          lands s.th c (Machine.specV o.d) 4 x ∧ ∀ j < 32, laneOf 8 x j = (rs.getD j ⟨0, 0⟩).bits % 256) ∧
      ((Instr.vbfpe h o).wellFormed = true → o.ty = .bfp4 →
        fpOutcome s (exec (.vbfpe h o) s) (rs.map FRes.flags) o.rm 32 fun c => ∃ x,
          lands s.th c (Machine.specV o.d) 4 x ∧ ∀ j < 64, laneOf 4 x j =
            if j < 32 then (rs.getD j ⟨0, 0⟩).bits % 16 else laneOf 4 (s.th.regs.rv o.d) j) ∧
      ((Instr.vbfpeHi h o).wellFormed = true →
        fpOutcome s (exec (.vbfpeHi h o) s) (rs.map FRes.flags) o.rm 32 fun c => ∃ x,
          lands s.th c (Machine.specV o.d) 4 x ∧ ∀ j < 64, laneOf 4 x j =
            if j < 32 then laneOf 4 (s.th.regs.rv o.d) j else (rs.getD (j - 32) ⟨0, 0⟩).bits % 16)) ∧
    ∀ o, (Instr.vbfpd h o).wellFormed = true → givesV s (exec (.vbfpd h o) s) h .f32 o.d 4 fun j =>
      let raw := s.th.regs.vrLanes 8 o.a
      let n := o.n.toNat
      let p := s.th.regs.gr o.b
      let x := if o.ty = .bfp4 then raw.getD (16 * (n / 4) + 4 * (n % 4) + j / 2) 0 / 16 ^ (j % 2) % 16
        else raw.getD (8 * n + j) 0
      ((rawOf (bfpValue (o.ty == .bfp4) x (p.extractLsb' 0 8).toNat (p.extractLsb' 8 8).toNat)).round .f32 .rne).bits

/-- The exponent pair of a block and the code of an element, in the words of R110 and R111: hi is the exponent of the largest
finite magnitude M when M ≤ (mmax / q) × 2^e and one more otherwise, between 1 and 254, and 0 for a block of zeros; an element
of an ordinary block takes E0 when that exponent can hold it and E1 otherwise, and its code is the rounded multiple of the
step under that exponent. -/
def Sys2Proof.Claims.BlockCodes : Prop :=
  ∀ four : Bool, let mmax : Nat := if four then 3 else 63
    let qlog : Nat := if four then 1 else 5
    let gap : Nat := if four then 2 else 3
    let mb : Nat := if four then 2 else 6
    let bnd : ℚ := (mmax : ℚ) / 2 ^ qlog
    (∀ xs : List FVal, let special := xs.any fun v => (real v).isNone
      let p := bfpPair four xs
      ((∀ v ∈ xs, magn v = 0) → p = if special then (0, 0xFF) else (0, 0)) ∧
      ∀ (M : ℚ) (e : Int), (∀ v ∈ xs, magn v ≤ M) → (∃ v ∈ xs, magn v = M) → (2 : ℚ) ^ e ≤ M → M < 2 ^ (e + 1) →
        let hi := (max 1 (min 254 (if M ≤ bnd * 2 ^ e then e + 127 else e + 128))).toNat
        p = if special then (hi, 0xFF) else (max (hi - gap) 1, hi)) ∧
    ∀ (e0 e1 : Nat) mode (s : Bool), e1 ≠ 0xFF → e0 ≠ 0xFF → (∀ w, mode = .sr w → w < 2 ^ 32) → ∀ m e, let x : FVal := .fin s m e
      let sel := !(decide (e0 ≠ 0 ∧ magn x ≤ bnd * (2 : ℚ) ^ ((e0 : Int) - 127)))
      let E := if sel then e1 else e0
      let k := (roundMag mode ⟨s, m, e + qlog + 127 - (E : Int), false⟩ 0).1
      bfpEncode four e0 e1 mode s x =
        ⟨(if sel then 2 ^ (mb + 1) else 0) + (if s then 2 ^ mb else 0) + (if E = 0 then 0 else min k mmax),
          if E = 0 then (if m = 0 then 0 else 1) else if mmax < k then 5
            else if (k : ℚ) = magn x * 2 ^ qlog * 2 ^ (127 - (E : Int)) then 0 else 1⟩

/-- Conversions between formats and between lanes of two widths, what they give, and the block formats: exponent pairs,
encoding and decoding. -/
def Obligations.ConversionsAndBlocks : Prop := Conversions ∧ ConversionValues ∧ BlockFormats ∧ BlockCodes

/-- Floating reductions combine the lanes in the fixed tree, inactive ones as the identity; `vrsum` consumes a counter
value for each addition. -/
def Sys2Proof.Claims.FloatReductions : Prop :=
  ∀ h s o, o.ty.isVF = true →
    let xs := fun ident => (List.range o.ty.lanes).map fun j => if isActive h s o.ty j then lane s o.ty o.a j else ident
    let f := Ty.fmt o.ty
    let landing := fun (x : Nat) (c : Ctx) =>
      lands s.th c (Machine.specG o.d) 0 ((BitVec.ofNat 64 (x % 2 ^ o.ty.bits)).zeroExtend 256)
    ((Instr.vrsum h o).wellFormed = true →
      let t := redTree (fun k a b => (rawAdd (down (modeAt s.th.sr o.rm k)) (f.value a) (f.value b)).round f
        (modeAt s.th.sr o.rm k)) (Nat.log2 o.ty.lanes) 1 0 (xs f.signBit)
      fpOutcome s (exec (.vrsum h o) s) (laneFlags o.ty.lanes t.2) o.rm (o.ty.lanes - 1) (landing t.1)) ∧
    ((Instr.vrmin h o).wellFormed = true →
      let t := redTree (fun _ => fminmax f false) (Nat.log2 o.ty.lanes) 1 0 (xs f.infBits)
      fpOutcome s (exec (.vrmin h o) s) (laneFlags o.ty.lanes t.2) .rne 0 (landing t.1)) ∧
    ((Instr.vrmax h o).wellFormed = true →
      let t := redTree (fun _ => fminmax f true) (Nat.log2 o.ty.lanes) 1 0 (xs (f.signBit + f.infBits))
      fpOutcome s (exec (.vrmax h o) s) (laneFlags o.ty.lanes t.2) .rne 0 (landing t.1))

/-- Reductions combine the lanes in the fixed pairwise tree, inactive lanes as the identity, on integers and on floating
values. -/
def Obligations.LaneReductions : Prop := IntegerReductions ∧ FloatReductions

/-! ### Memory instructions (R260 to R271) -/

/-- Where accesses of a user cell go: its local memory below the system area, whose bytes it may not touch; every address
that no window holds is unassigned (R59, R61, R62). -/
def Obligations.AddressWindows : Prop :=
  ∀ (s : State) (c : Ctx) use i (va : Word) len, c.place = .user i → 0 < len →
    (va.toNat + len ≤ 0xF800 → s.placeAt c use va len = .ok ((splitLines va.toNat len).map fun p =>
      ⟨p.1, paLocal i p.1, p.2, none, .local_⟩)) ∧
    (va.toNat < 65536 → 0xF800 < va.toNat + len → s.placeAt c use va len = .error ⟨0x0B, 0, va⟩) ∧
    (65536 ≤ va.toNat → ¬(2 ^ 32 ≤ va.toNat ∧ va.toNat < 2 ^ 32 + 2 ^ 29) →
      ¬(2 ^ 33 ≤ va.toNat ∧ va.toNat < 2 ^ 33 + 2 ^ 30) → ¬(2 ^ 40 ≤ va.toNat ∧ va.toNat < 2 ^ 41) →
      ¬(2 ^ 48 ≤ va.toNat ∧ va.toNat < 2 ^ 56) → s.placeAt c use va len = .error ⟨0x0C, 0, va⟩)

/-- Loads: a form whose checks pass enters the context's queue as the parts of its accesses, with a result on its way; no
byte of memory and no register changes before the value returns. -/
def Sys2Proof.Claims.Loads : Prop :=
  ∀ i s f, i.wellFormed = true → loadForm s i = some f →
    checked s i f.1 .read fun ps held t => placesLoad s t ps f.2.1 f.2.2.1 f.2.2.2 f.1.live held

/-- Stores: a form whose checks pass enters the context's queue with the bytes of its data; no byte of memory changes
before the operation is performed at its home. -/
def Sys2Proof.Claims.Stores : Prop :=
  ∀ i s f, i.wellFormed = true → storeForm s i = some f →
    checked s i f.1 .write fun ps _ t => placesStore s t ps f.2.1 f.2.2.1 f.2.2.2 f.1.live

/-- Loads and stores: a form whose checks pass enters the context's queue as the parts of its accesses; a load's result
is on its way, a store carries its bytes, and no byte of memory and no register changes before the operation is
performed. -/
def Obligations.LoadsAndStores : Prop := Loads ∧ Stores

/-- A loaded value lands when its last byte arrives: integers extended by type, float bits zero-extended. An instruction that
waits for it where it stands goes on then. -/
def Sys2Proof.Claims.LoadedValueLands : Prop :=
  ∀ (c : Ctx) (p : Pend) now, c.pend.find? (fun q => q.id == p.id) = some p → p.left = 1 →
    ∀ r t, p.dest = .g r t → p.buf.length = t.bytes → ∀ bytes : List Byte, bytes.length = t.bytes →
      let d := c.deliver p.id 0 bytes now
      let e := { c with pend := c.pend.filter fun q => q.id != p.id, regs := d.regs, openW := d.openW }
      lands c d (Machine.specG r) 0 ((if t.signed then extByType t (ofBytes bytes) else
        BitVec.ofNat 64 (ofBytes bytes) : Word).zeroExtend 256) ∧
      d = if p.held = true ∧ c.status = .parked .drain ∧ c.pc = p.pc then { e.retire with status := e.onward } else e

/-- Decoding loads read an element and the companion bytes of its block in the format of the page at the address, and
`ldrx` the companion bytes alone; a page without a format for it is a format fault. With FP traps enabled a decoding load
waits where it stands for its value (R123). -/
def Sys2Proof.Claims.ScalarDecodingLoads : Prop :=
  ∀ h (s : State), predOn h s.th.regs = true →
    (∀ p ∈ ([(.ldf, false), (.ldfh, true)] : List ((Hdr → MemLd → Instr) × Bool)), ∀ o q e ps qs,
      let ea := addr s o.a o.disp
      let n := ldfBytes e.fmt
      s.ldfPage (o.a.r == 62) ea 0 = .ok q → s.decodeEntry s.th ea q = .ok e →
      (p.2 = true → fmtEbits e.fmt = 4) → (fmtEbits e.fmt = 16 → ea.toNat % 2 = 0) → q.va + n ≤ e.base + e.bytes →
      s.placeAll s.th .read (o.a.r == 62) (ldfLive e.fmt 64 [0]) [⟨ea, n, 0⟩] = .ok ps →
      s.companionRun s.th e (BitVec.ofNat 64 q.va) 1 = .ok qs →
      let all := ps ++ withOffsets ((qs.head?.map fun p => p.va).getD 0) n qs
      s.absentPart (all.map Prod.fst) = none →
      goesTo (exec (p.1 h o) s) fun t => placesLoad s t all (.ldf o.d e.fmt p.2) (n + 4) ⟨false, none⟩ every
        (decide (fpEnables s.th.sr ≠ 0) || s.badParts (all.map Prod.fst))) ∧
    (∀ p ∈ ([.ldf, .ldfh] : List (Hdr → MemLd → Instr)), ∀ o,
      let ea := addr s o.a o.disp
      (∀ t, s.ldfPage (o.a.r == 62) ea 0 = .error t → exec (p h o) s = .next (s.trap t)) ∧
      ∀ q t, let fmt := ((s.seenEntry s.th q).map fun e => e.fmt).getD 0
        s.ldfPage (o.a.r == 62) ea 0 = .ok q →
        (s.placeAll s.th .read (o.a.r == 62) (ldfLive fmt 64 [0]) [⟨ea, ldfBytes fmt, 0⟩] = .error t →
          exec (p h o) s = .next (s.trap t)) ∧
        ∀ ps, s.placeAll s.th .read (o.a.r == 62) (ldfLive fmt 64 [0]) [⟨ea, ldfBytes fmt, 0⟩] = .ok ps →
          s.decodeEntry s.th ea q = .error t → exec (p h o) s = .next (s.trap t)) ∧
    ∀ o q e ps, s.ldfElement (o.a.r == 62) (addr s o.a o.disp) 0 8 = .ok q →
      s.decodeEntry s.th (addr s o.a o.disp) q = .ok e →
      fmtCb e.fmt ≠ 0 → s.companion s.th e (BitVec.ofNat 64 q.va) = .ok ps →
      let all := withOffsets ((ps.head?.map fun p => p.va).getD 0) 0 ps
      s.absentPart (all.map Prod.fst) = none →
      goesTo (exec (.ldrx h o) s) fun t => placesLoad s t all
          (.g o.d (if fmtCb e.fmt = 2 then .h else .b)) (fmtCb e.fmt) ⟨false, none⟩ every (s.badParts (all.map Prod.fst))

/-- `ldfv` reads the elements of its active lanes, from the first to the last, and the companion bytes of the one or two
blocks they lie in, in one read each (R78); it goes on at once while no FP trap is enabled. Its page is the one that its
first active lane leads to (log 62). -/
def Sys2Proof.Claims.VectorDecodingLoad : Prop :=
  ∀ h (s : State) o q e ps qs j js,
    let ea := addr s o.a o.disp
    let lanes := (List.range 8).filter fun j => isActive h s .f32 j
    let last := js.getLastD j
    let n := ldfBytes e.fmt
    let at_ := fun (k : Nat) => k * fmtEbits e.fmt / 8
    let cut := 32 - ((q.va : Int) - at_ j - e.base).toNat * 8 / fmtEbits e.fmt % 32
    let block := fun (k : Nat) => if k < cut then 0 else 1
    lanes = j :: js → s.ldfPage (o.a.r == 62) ea j = .ok q →
    s.decodeEntry s.th (ea + BitVec.ofNat 64 (at_ j)) q = .ok e → at_ j ≤ q.va →
    (fmtEbits e.fmt = 16 → ea.toNat % 2 = 0) → q.va + at_ last + n ≤ e.base + e.bytes + at_ j →
    s.placeAll s.th .read (o.a.r == 62) (ldfLive e.fmt 64 lanes)
      [⟨ea + BitVec.ofNat 64 (at_ j), at_ last + n - at_ j, at_ j⟩] = .ok ps →
    s.companionRun s.th e (BitVec.ofNat 64 q.va) (block last - block j + 1) = .ok qs →
    let all := ps ++ withOffsets ((qs.head?.map fun p => p.va).getD 0) 16 qs
    s.absentPart (all.map Prod.fst) = none →
    goesTo (exec (.ldfv h o) s) fun t => ∃ mask : BitVec 8, (∀ j < 8, mask.getLsbD j = isActive h s .f32 j) ∧
      placesLoad s t all (.ldfv o.d e.fmt mask cut (s.th.regs.rv o.d)) 20 ⟨false, none⟩
        (fun k => decide (16 ≤ k) || lanes.any fun j => at_ j ≤ k && k < at_ j + n)
        (decide (fpEnables s.th.sr ≠ 0) || s.badParts (all.map Prod.fst))

/-- Prefetches: `pft` brings an entry near or asks for it, and changes nothing a program can read; `pfh` sends a message
that nothing answers and is dropped where a read would fault. The access whose page they look for has one byte, and a page
that is not found is asked for at the comb (the model's choices, logs 71 and 82). -/
def Sys2Proof.Claims.Prefetches : Prop :=
  ∀ h o s, (predOn h s.th.regs = false → goesOn s (exec (.pft h o) s) ∧ goesOn s (exec (.pfh h o) s)) ∧
    (predOn h s.th.regs = true →
      (goesTo (exec (.pft h o) s) fun t => memoryKept s t ∧ advances s t ∧
        t = { s with th := s.th.retire, cells := t.cells, combs := t.combs } ∧
        ∀ f, s.place s.th .read (o.a.r == 62) (addr s o.a o.disp) 1 = .error f → f.cause = 0x10 →
          ∀ k, s.th.comb? = some k → (s.th.asid.toNat, f.addr.toNat / 65536) ∈ (t.combRec k).asks) ∧
      (∀ t, s.place s.th .read (o.a.r == 62) (addr s o.a o.disp) 1 = .error t → goesOn s (exec (.pfh h o) s)) ∧
      ∀ p ps, s.place s.th .read (o.a.r == 62) (addr s o.a o.disp) 1 = .ok (p :: ps) → s.absentPart [p] = none →
        completes s (exec (.pfh h o) s) fun c => { c with
          mq := { c.mq with next := c.mq.next + 1, iq := c.mq.iq ++
            [⟨c.mq.next, p.home, p.pa, BitVec.ofNat 64 p.va, ⟨false, none⟩, .prefetch, false, cleanEntry p⟩] }
          meters := (c.charge [{ p with len := 64 }]).meters })

/-- Decoding loads read elements and companion bytes in the format of their page, `ldrx` the companion bytes alone; a
page without a format is a format fault; prefetches change nothing a program can read. Choices of the model: the place
of an access of one byte (log 71), the page of `ldfv` by its first active lane (log 62), and the request for a
translation that `pft` leaves (log 82). -/
def Obligations.DecodingLoads : Prop := ScalarDecodingLoads ∧ VectorDecodingLoad ∧ Prefetches

/-- Single-address atomics: after the determinism, scope, alignment and address checks the operation enters the queue and
its old value is on its way to gd; `.ar` gives it acquire and release order in its scope. -/
def Sys2Proof.Claims.Atomics : Prop :=
  ∀ p ∈ atomics, ∀ h o s, (p.1 h o).wellFormed = true →
    let ea := addr s o.a o.disp
    let det := (s.isFree s.th || o.ty.isFloat) && decide (1 ≤ detLevel s.th)
    (det = true → faults s (exec (p.1 h o) s) 0x07 0 0) ∧
    (det = false → predOn h s.th.regs = false → goesOn s (exec (p.1 h o) s)) ∧
    (det = false → predOn h s.th.regs = true → (o.ar = true → scopeOk (scopeValue s.th o.s) = true) →
      (ea.toNat % o.ty.bytes ≠ 0 → faults s (exec (p.1 h o) s) 0x14 0 ea) ∧
      (ea.toNat % o.ty.bytes = 0 →
        (∀ t, s.place s.th .write (o.a.r == 62) ea o.ty.bytes = .error t → exec (p.1 h o) s = .next (s.trap t)) ∧
        ∀ ps, s.place s.th .write (o.a.r == 62) ea o.ty.bytes = .ok ps →
          (noHost ps = false → faults s (exec (p.1 h o) s) 0x15 0 ea) ∧
          (noHost ps = true → s.absentPart ps = none → goesTo (exec (p.1 h o) s) fun t =>
            let n := s.th.mq.next
            places s t [⟨n, s.th.pc, .g o.d o.ty, 1, List.replicate o.ty.bytes 0, false⟩]
              (numbered (n + 1) ps fun k q => ⟨k, q.home, q.pa, BitVec.ofNat 64 q.va,
                if o.ar then ⟨true, some (scopeValue s.th o.s)⟩ else ⟨false, none⟩,
                .amo p.2 o.ty (BitVec.ofNat 64 (storeBits s.th.regs o.ty o.b))
                  (BitVec.ofNat 64 ((s.th.regs.rg o.d).toNat % 2 ^ o.ty.bits)) n, false, cleanEntry q⟩)
              (n + 1 + ps.length) ps (s.badParts ps))))

/-- Reductions: a g source gives one element, a v source one for each active lane; floating ones take the determinism
fault at levels 1 to 3; nothing returns. -/
def Sys2Proof.Claims.Reductions : Prop :=
  ∀ p ∈ reductions, ∀ h o s, (p.1 h o).wellFormed = true →
    let ea := addr s o.a o.disp
    let isOn := match o.b with
      | .g _ => predOn h s.th.regs
      | .v _ => anyLane h s o.ty
    let n := match o.b with
      | .g _ => o.ty.bytes
      | .v _ => 32
    let elems := fun (off : Nat) => match o.b with
      | .g b => [(off, BitVec.ofNat 64 (storeBits s.th.regs o.ty b))]
      | .v x => ((List.range o.ty.lanes).filter fun j => isActive h s o.ty j).map fun j =>
        (off + j * o.ty.bytes, BitVec.ofNat 64 (lane s o.ty (.reg x) j))
    let live := match o.b with
      | .g _ => every
      | .v _ => inLane h s o.ty
    let det := o.ty.isFloat && decide (1 ≤ detLevel s.th)
    (det = true → faults s (exec (p.1 h o) s) 0x07 0 0) ∧
    (det = false → isOn = false → goesOn s (exec (p.1 h o) s)) ∧
    (det = false → isOn = true → ea.toNat % n ≠ 0 → faults s (exec (p.1 h o) s) 0x14 0 ea) ∧
    (det = false → isOn = true → ea.toNat % n = 0 → ∀ ps, s.place s.th .write (o.a.r == 62) ea n = .ok ps →
      noHost ps = true → s.sealedPart ps = none → s.absentPart ps = none → goesTo (exec (p.1 h o) s) fun t =>
        places s t [] (numbered s.th.mq.next ps fun k q =>
          ⟨k, q.home, q.pa, BitVec.ofNat 64 q.va, ⟨false, none⟩, .red p.2 o.ty (elems (q.pa % 64)), false,
            cleanEntry q⟩)
          (s.th.mq.next + ps.length) (metered live (ps.map fun q => (q, 0))) false)

/-- Single-address atomics and reductions: their checks in order, and the operation that enters the context's queue. -/
def Obligations.AtomicsAndReductions : Prop := Atomics ∧ Reductions

/-- Two-address operations: scope, alignment and overlap are checked first; the message goes to the home of the lower
physical address as a flat number (the model's reading, log 30), with acquire and release order, and the old words are on their way to gd. `amove` is the exchange that
leaves 0 in B. -/
def Obligations.PairOperations : Prop :=
  ∀ h (s : State), predOn h s.th.regs = true → (s.isFree s.th && decide (1 ≤ detLevel s.th)) = false →
    let run := fun (i : Instr) (t : Ty) (a : GReg) (a2 sc : BitVec 6) (dest : Dest) (len : Nat)
        (act : Nat → Nat → Word → Nat → Act) =>
      let x := s.th.regs.gr a
      let y := s.th.regs.rg a2
      (scopeOk (scopeValue s.th sc) = false → faults s (exec i s) 0x16 0 (scopeValue s.th sc)) ∧
      (scopeOk (scopeValue s.th sc) = true → x.toNat % t.bytes ≠ 0 → faults s (exec i s) 0x14 0 x) ∧
      (scopeOk (scopeValue s.th sc) = true → x.toNat % t.bytes = 0 → y.toNat % t.bytes ≠ 0 →
        faults s (exec i s) 0x14 0 y) ∧
      (scopeOk (scopeValue s.th sc) = true → x.toNat % t.bytes = 0 → y.toNat % t.bytes = 0 →
        (¬ apart t.bytes x.toNat y.toNat → faults s (exec i s) 0x17 0 x) ∧
        (apart t.bytes x.toNat y.toNat → ∀ p q, s.placePair t.bytes x y (a.r == 62) (a2 == 62) = .ok (p, q) →
          apart t.bytes p.pa q.pa → noHost [p, q] = true → s.absentPart [p, q] = none →
          goesTo (exec i s) fun u =>
            let n := s.th.mq.next
            let low := if p.pa < q.pa then p else q
            let high := if p.pa < q.pa then q else p
            places s u [⟨n, s.th.pc, dest, 1, List.replicate len 0, false⟩]
              [⟨n + 1, low.home, low.pa, BitVec.ofNat 64 low.va, ⟨true, some (scopeValue s.th sc)⟩,
                act p.pa q.pa (BitVec.ofNat 64 high.va) n, false, cleanEntry low ++ cleanEntry high⟩] (n + 2) [p, q]
              (s.badParts [p, q])))
    (∀ p ∈ pairs, ∀ o, (p.1 h o).wellFormed = true →
      let b := s.th.regs.gs o.b
      let g := s.th.regs.rg o.d
      run (p.1 h o) o.ty o.a o.a2 o.s (.pair o.d) 8 fun pa qa va n => .pair p.2.1 p.2.2 false o.ty pa qa va
        ((b.extractLsb' 0 32).zeroExtend 64) ((b.extractLsb' 32 32).zeroExtend 64)
        ((g.extractLsb' 0 32).zeroExtend 64) ((g.extractLsb' 32 32).zeroExtend 64) false 0 n) ∧
    ∀ o, (Instr.amove h o).wellFormed = true →
      run (.amove h o) o.ty o.a o.a2 o.s (.g o.d o.ty) o.ty.bytes fun pa qa va n =>
        .pair .swap false true o.ty pa qa va 0 0 0 0 false 0 n

/-! ### Fences, waits, messages and barriers (R272 to R278) -/

/-- Fences leave a marker in the context's queue; an illegal scope takes the scope fault. -/
def Sys2Proof.Claims.Fences : Prop :=
  ∀ h (s : State), predOn h s.th.regs = true →
    let marks := fun (k : FenceKind) (v : Word) (c : Ctx) =>
      { c with mq := { c.mq with next := c.mq.next + 1, marks := c.mq.marks ++ [⟨c.mq.next, k, v⟩] } }
    completes s (exec (.fenceAcq h) s) (marks .acq 0) ∧
    ∀ p ∈ ([(.fenceRel, .rel), (.fenceFull, .full)] : List ((Hdr → FenceS → Instr) × FenceKind)), ∀ o,
      (scopeOk (scopeValue s.th o.s) = true → completes s (exec (p.1 h o) s) (marks p.2 (scopeValue s.th o.s))) ∧
      (scopeOk (scopeValue s.th o.s) = false → faults s (exec (p.1 h o) s) 0x16 0 (scopeValue s.th o.s))

/-- `waitaddr` sends its context's wait to a line after the checks of R262, with the deadline of its timeout register: the
determinism fault in free mode at levels 2 and 3, whatever the predicate, then the misaligned fault, the address faults
and the atomic-home fault of a host page. A context has one wait at a time (the model's choice, log 96). -/
def Sys2Proof.Claims.WaitOnAddress : Prop :=
  (∀ h o s, s.isFree s.th = true → 2 ≤ detLevel s.th → faults s (exec (.waitaddr h o) s) 0x07 0 0) ∧
  ∀ h o s, predOn h s.th.regs = true → (s.isFree s.th && decide (2 ≤ detLevel s.th)) = false →
    let ea := addr s o.a o.disp
    (∀ t, ea.toNat % o.ty.bytes = 0 → s.place s.th .read (o.a.r == 62) ea o.ty.bytes = .error t →
      exec (.waitaddr h o) s = .next (s.trap t)) ∧
    (∀ ps, ea.toNat % o.ty.bytes = 0 → s.place s.th .read (o.a.r == 62) ea o.ty.bytes = .ok ps → noHost ps = false →
      faults s (exec (.waitaddr h o) s) 0x15 0 ea) ∧
    (ea.toNat % o.ty.bytes ≠ 0 → faults s (exec (.waitaddr h o) s) 0x14 0 ea) ∧
    (ea.toNat % o.ty.bytes = 0 → ∀ p ps, s.place s.th .read (o.a.r == 62) ea o.ty.bytes = .ok (p :: ps) →
      noHost (p :: ps) = true → s.absentPart (p :: ps) = none →
      (s.th.wait.isSome = true → waits s (exec (.waitaddr h o) s) .drain) ∧
      (s.th.wait = none → goesTo (exec (.waitaddr h o) s) fun t =>
        startsWait s t o.d o.t (p :: ps) (s.badParts (p :: ps)) fun n => ⟨n + 1, p.home, p.pa, BitVec.ofNat 64 p.va,
          ⟨false, none⟩, .wait ⟨o.ty, BitVec.ofNat 64 ((s.th.regs.gs o.b).toNat % 2 ^ o.ty.bits)⟩ n, false, cleanEntry p⟩))

/-- Event counters: `evsig` sends its value to the region's event unit, `evwait` its threshold; in superstep
mode both take the mode fault, and in free mode `evwait` takes the determinism fault at levels 2 and 3. -/
def Sys2Proof.Claims.EventCounters : Prop :=
  (∀ h o s, s.isFree s.th = true → 2 ≤ detLevel s.th → faults s (exec (.evwait h o) s) 0x07 0 0) ∧
  ∀ h (s : State), predOn h s.th.regs = true →
    (s.isFree s.th = false → (∀ o, faults s (exec (.evsig h o) s) 0x08 0 0) ∧ ∀ o, faults s (exec (.evwait h o) s) 0x08 0 0) ∧
    ∀ r, s.regionOf s.th = some r → s.isFree s.th = true →
      (∀ o, completes s (exec (.evsig h o) s) fun c => { c with
        mq := { c.mq with next := c.mq.next + 1, iq := c.mq.iq ++ [⟨c.mq.next, r.eventHome, 0, 0, ⟨false, none⟩,
          .evsig r.id o.n ((c.regs.gs o.b).extractLsb' 0 32), false, []⟩] } }) ∧
      ∀ o, detLevel s.th < 2 → (s.th.wait.isSome = true → waits s (exec (.evwait h o) s) .drain) ∧
        (s.th.wait = none → goesTo (exec (.evwait h o) s) fun t => onlyContext s t ∧
          startsWait s t o.d o.t [] false fun n => ⟨n + 1, r.eventHome, 0, 0, ⟨false, none⟩,
            .evwait r.id o.n ((s.th.regs.gs o.b).extractLsb' 0 32) n, false, []⟩)

/-- Waits: `waitaddr` parks on a line after its checks; `evsig` sends to the region's event unit and `evwait` parks on
it, both with the mode fault in superstep mode. -/
def Obligations.Waits : Prop := WaitOnAddress ∧ EventCounters

/-- Sends: in free mode, below determinism level 2, to a channel of the sender and a receiver of the region, one message
leaves; the release form carries release order in its scope; a vector message carries the bytes of its active lanes, those
of an inactive lane are a free value (log 83), and one without an active lane does not leave. Superstep mode, determinism
levels 2 and 3, a missing channel and a receiver number beyond the region fault. -/
def Sys2Proof.Claims.Sends : Prop :=
  (∀ h (s : State), s.isFree s.th = true → 2 ≤ detLevel s.th → (∀ o, faults s (exec (.send h o) s) 0x07 0 0) ∧
    (∀ o, faults s (exec (.sendv h o) s) 0x07 0 0) ∧ ∀ o, faults s (exec (.sendRel h o) s) 0x07 0 0) ∧
  (∀ h (s : State), s.isFree s.th = false → (predOn h s.th.regs = true → (∀ o, faults s (exec (.send h o) s) 0x08 0 0) ∧
    ∀ o, faults s (exec (.sendRel h o) s) 0x08 0 0) ∧
    (anyLane h s .d = true → ∀ o, faults s (exec (.sendv h o) s) 0x08 0 0)) ∧
  ∀ h (s : State) r, s.isFree s.th = true → detLevel s.th < 2 → s.regionOf s.th = some r →
    let dst := fun (a : GReg) => (s.th.regs.gr a).toNat % 65536
    let may := fun (a : GReg) => r.channelOk s.th.logical (dst a) = true ∧ dst a < r.map.length
    let refused := fun (i : Instr) (a : GReg) =>
      (r.channelOk s.th.logical (dst a) = false → faults s (exec i s) 0x09 0 (BitVec.ofNat 64 (dst a))) ∧
      (r.channelOk s.th.logical (dst a) = true → r.map.length ≤ dst a →
        faults s (exec i s) 0x0B 0 (BitVec.ofNat 64 (dst a)))
    (predOn h s.th.regs = true →
      (∀ o, (may o.r → sends s (exec (.send h o) s) r (dst o.r) o.tag (bytesOf 8 (s.th.regs.gs o.b).toNat) ⟨false, none⟩) ∧
        refused (.send h o) o.r) ∧
      ∀ o, (may o.r → scopeOk (scopeValue s.th o.s) = true → sends s (exec (.sendRel h o) s) r (dst o.r) o.tag
          (bytesOf 8 (s.th.regs.gs o.b).toNat) ⟨false, some (scopeValue s.th o.s)⟩) ∧
        (may o.r → scopeOk (scopeValue s.th o.s) = false →
          faults s (exec (.sendRel h o) s) 0x16 0 (scopeValue s.th o.s)) ∧
        (scopeOk (scopeValue s.th o.s) = true → refused (.sendRel h o) o.r)) ∧
    (anyLane h s .d = false → ∀ o, goesOn s (exec (.sendv h o) s)) ∧
    (anyLane h s .d = true → ∀ o, refused (.sendv h o) o.r ∧ (may o.r → ∃ bs : List Byte, bs.length = 32 ∧
      (∀ j < 4, isActive h s .d j = true → (bs.drop (8 * j)).take 8 = bytesOf 8 (lane s .d (.reg o.b) j)) ∧
      sends s (exec (.sendv h o) s) r (dst o.r) o.tag bs ⟨false, none⟩))

/-- Receives: behind the earlier operations to its own cell and what holds later ones back, the first message of the wanted
source leaves the mailbox, its data and its status land; a message of another size faults; without a message the context
waits, or a status lands alone; one that termination has woken receives TERMINATED. A vector receive writes its active
lanes. -/
def Sys2Proof.Claims.Receives : Prop :=
  (∀ h (s : State), s.isFree s.th = true → 2 ≤ detLevel s.th → (∀ o, faults s (exec (.recv h o) s) 0x07 0 0) ∧
    ∀ o, faults s (exec (.recvv h o) s) 0x07 0 0) ∧
  (∀ h (s : State), 1 ≤ detLevel s.th → (∀ o, faults s (exec (.recvAny h o) s) 0x07 0 0) ∧
    ∀ o, faults s (exec (.recvvAny h o) s) 0x07 0 0) ∧
  ∀ h (s : State) r, s.isFree s.th = true → s.regionOf s.th = some r →
    let run := fun (on : Bool) (i : Instr) (n : Nat) (src : Option Nat) (m : BitVec 6) (data : List Byte → Ctx → Ctx) =>
      let hit := fun (x : Mail) => decide (src.all fun k => x.sender.toNat = k)
      let status := fun (w : Word) => goesTo (exec i s) fun t => onlyContext s t ∧ memoryKept s t ∧
        t.th = (({ s.th with status := .running, told := false }).resG m 0 w).retire
      (on = false → goesOn s (exec i s)) ∧
      (on = true → s.th.told = true → status 0x8000000000000000) ∧
      (on = true → s.th.told = false → s.caughtUp s.th = false → waits s (exec i s) .drain) ∧
      (on = true → s.th.told = false → s.caughtUp s.th = true →
        (∀ x bs, s.th.mail.box.find? hit = some x → x.body = .data bs → bs.length = n →
          goesTo (exec i s) fun t => onlyContext s t ∧ memoryKept s t ∧
            t.th = ((data bs { s.th with
              status := .running, mail := { s.th.mail with box := dropFirst hit s.th.mail.box } }).resG m 0
              (BitVec.ofNat 64 (x.tag.toNat * 65536 + x.sender.toNat))).retire) ∧
        (∀ x bs, s.th.mail.box.find? hit = some x → x.body = .data bs → bs.length ≠ n →
          faults s (exec i s) 0x21 0 (BitVec.ofNat 64 bs.length)) ∧
        (s.th.mail.box.find? hit = none → s.recvNothing r src = none → waits s (exec i s) .mailbox) ∧
        (∀ w, s.th.mail.box.find? hit = none → s.recvNothing r src = some w → status w))
    let from? := fun (a : GReg) => some ((s.th.regs.gr a).toNat % 65536)
    let one := fun (d : BitVec 6) (bs : List Byte) (c : Ctx) => c.resG d 0 (BitVec.ofNat 64 (ofBytes bs))
    let all := fun (d : BitVec 5) (bs : List Byte) (c : Ctx) =>
      c.resV d 0 (mergeLanes 64 (predMask h s.th.regs) (s.th.regs.rv d) (BitVec.ofNat 256 (ofBytes bs)))
    (detLevel s.th < 2 → (∀ o, run (predOn h s.th.regs) (.recv h o) 8 (from? o.src) o.m (one o.d)) ∧
      ∀ o, run (anyLane h s .d) (.recvv h o) 32 (from? o.src) o.m (all o.d)) ∧
    (detLevel s.th = 0 → (∀ o, run (predOn h s.th.regs) (.recvAny h o) 8 none o.m (one o.d)) ∧
      ∀ o, run (anyLane h s .d) (.recvvAny h o) 32 none o.m (all o.d))

/-- Sends place one message to a logical cell of the region; receives take the first message of their source, or wait.
-/
def Obligations.Messages : Prop := Sends ∧ Receives

/-- Barriers: `sstep` and `bar` join once every earlier operation of the context is acknowledged and neither an acquire nor
a fence holds later ones back, and park behind the instruction; before that they wait. `sstep` in free mode and `bar` in
superstep mode take the mode fault. A join that does not close its barrier only enters the member. When every other member
has joined and waits in its cell, or has ended, the join closes it: the next superstep begins, with sr.ssnum one higher,
when its exchange is empty; a scoped barrier gives its count to the register of the join. -/
def Obligations.BarrierJoins : Prop :=
  ∀ h (s : State) r, predOn h s.th.regs = true → s.regionOf s.th = some r → s.region? (some r.id) = some r →
    (s.isFree s.th = true → faults s (exec (.sstep h) s) 0x08 0 0) ∧
    (s.isFree s.th = false → ∀ o, faults s (exec (.bar h o) s) 0x08 0 0) ∧
    (s.isFree s.th = false → s.th.mayJoin = false → waits s (exec (.sstep h) s) .drain) ∧
    (s.isFree s.th = false → s.th.mayJoin = true →
      (∃ k < r.map.length, k ∉ r.joined ∧ k ≠ s.th.logical ∧ s.memberEnded r k = false) →
      exec (.sstep h) s = .next
        ({ s with th := { s.th.retire with status := .parked .barrier } }.updRegion r.id
          fun r => { r with joined := r.joined ++ [s.th.logical] })) ∧
    (s.isFree s.th = false → s.th.mayJoin = true → s.th.ended = false → s.th.completed = false →
      r.ctxs[s.th.logical]? = some s.th.cid → r.exchange (s.superstepOf r) = [] → s.th.wait = none →
      (∀ k < r.map.length, k ≠ s.th.logical → k ∈ r.joined ∧ s.joinHere r k = true ∨ s.memberEnded r k = true) →
      goesTo (exec (.sstep h) s) fun t => memoryKept s t ∧ t.th.status = .ready ∧ t.th.sr.ssnum = s.th.sr.ssnum + 1 ∧
        t.th.regs = s.th.regs ∧ ∃ q, t.region? (some r.id) = some q ∧ q.joined = [] ∧ q.closed = none) ∧
    (s.isFree s.th = true → ∀ o, let v := scopeValue s.th o.s
      (scopeOk v = false → faults s (exec (.bar h o) s) 0x16 0 v) ∧
      (scopeOk v = true → barOutside s.th v = false → s.th.mayJoin = false →
        waits s (exec (.bar h o) s) .drain) ∧
      (scopeOk v = true → barOutside s.th v = false → s.th.mayJoin = true →
        goesTo (exec (.bar h o) s) fun t => memoryKept s t ∧
          ((∃ k ∈ barMembers r s.th.comb? v, k ≠ s.th.logical ∧ s.memberEnded r k = false ∧
            ∀ b ∈ r.bars, ∀ j ∈ b.joined, j.1 ≠ k) →
            t.th = { s.th.retire with
              status := .parked .barrier, mq := { s.th.mq with next := s.th.mq.next + 1 },
              pend := s.th.pend ++ [⟨s.th.mq.next, s.th.pc, .g o.d .d, 1, List.replicate 8 0, false⟩] }) ∧
          let ms := barMembers r s.th.comb? v
          let b := (r.bars.find? fun b => b.id == o.id && b.members == ms).getD ⟨o.id, ms, [], 0⟩
          (s.th.logical ∈ ms → s.th.ended = false → s.th.wait = none → r.ctxs[s.th.logical]? = some s.th.cid →
            (∀ j ∈ b.joined, r.ctxs[j.1]? ≠ some s.th.cid) → (∀ p ∈ s.th.pend, p.id ≠ s.th.mq.next) →
            (∀ k ∈ ms, k ≠ s.th.logical →
              (∃ j ∈ b.joined, j.1 = k) ∧ s.joinHere r k = true ∨ s.memberEnded r k = true) →
            t.th.status = .ready ∧ lands s.th t.th (Machine.specG o.d) 0
              ((BitVec.ofNat 64 (b.count + 1)).zeroExtend 256))))

/-- The forager probe reads the passes of the token and whether the region has terminated; outside a region it reads 0 (the
model's choice, log 20). -/
def Sys2Proof.Claims.ForagerProbe : Prop :=
  ∀ h (s : State) o, predOn h s.th.regs = true →
    givesG s (exec (.fprobe h o) s) o.d 0 (match s.regionOf s.th with
      | none => 0
      | some r => BitVec.ofNat 64 ((if r.terminated then 2 ^ 63 else 0) + r.token.pass % 2 ^ 48))

/-- Fences leave a marker in the context's queue or take the scope fault; the forager probe reads the passes of the
token, and 0 outside a region (the model's choice, log 20). -/
def Obligations.FencesAndProbe : Prop := Fences ∧ ForagerProbe

/-! ### The steps of memory (R85 to R101) -/

/-- ISSUE: the oldest operation of a context that may go leaves its queue and travels, its page dirtied first when it
writes; a streaming store joins its write-combining line instead. -/
def Sys2Proof.Claims.IssueStep : Prop :=
  ∀ (s : State) cid c o rest, s.ctx? cid = some c → c.mq.iq = o :: rest → c.resident = true → c.mayIssue o = true →
    c.unplaced = false → s.ctxStopped cid = false →
    (o.stream = false → ∀ u, s.dirtyOp c o = some u → exec (.evIssue cid) s = .next
      (let v := u.updCtx cid fun c => c.issued o
       { v with net := { v.net with ch := v.net.ch ++ [⟨.ctx cid, { o with act := c.carry o }⟩] } })) ∧
    (∀ bytes, o.stream = true → o.act = .store bytes → goesTo (exec (.evIssue cid) s) fun t => memoryKept s t ∧
      t = s.updCtx cid fun c => { c.combine o bytes with mq := { (c.combine o bytes).mq with iq := c.mq.iq.drop 1 } })

/-- ARRIVAL: the oldest message on a path reaches the arrival queue of its home, while its links are up (log 97) and no
frequency step stops the home; nothing else changes. -/
def Sys2Proof.Claims.ArrivalStep : Prop :=
  ∀ (s : State) src h f before after, s.net.ch = before ++ f :: after → goesFrom src h f = true →
    (∀ g ∈ before, goesFrom src h g = false) → s.homeStopped h = false → s.routeUp h = true →
    exec (.evArrival src h) s = .next { s with net := { s.net with ch := before ++ after, aq := s.net.aq ++ [f] } }

/-- PERFORM: the oldest message of a home that nothing holds is performed. A load returns the bytes of memory as the write
queue leaves them; a store makes its bytes, and no others, read as written; both are answered. -/
def Sys2Proof.Claims.PerformStep : Prop :=
  ∀ (s : State) h i, (∀ k < i, s.tryPerform h k = none) → i < s.net.aq.length → s.homeStopped h = false →
    (∀ t, s.tryPerform h i = some t → exec (.evPerform h) s = .next t) ∧
    ∀ f t, s.net.aq[i]? = some f → s.tryPerform h i = some t → s.errorAt f = false → f.op.pa + 64 < 2 ^ 47 →
      (∀ p off len, f.op.act = .load p off len [] → len ≤ 64 → memoryKept s t ∧
        t.net.replies = s.net.replies ++ [⟨f.src, f.op.seq, some (p, off),
          (List.range len).map fun k => s.byteAt (f.op.pa + k), false, f.op.va⟩]) ∧
      (∀ bytes, f.op.act = .store bytes → t.net.replies = s.net.replies ++ [⟨f.src, f.op.seq, none, [], false, f.op.va⟩] ∧
        ∀ a, t.byteAt a = if f.op.pa ≤ a then ((bytes[a - f.op.pa]?).join).getD (s.byteAt a) else s.byteAt a)

/-- An atomic performed at its home returns the old value and leaves the new one: the operand for `swap`, the operation of
old value and operand otherwise, and for `cas` the operand only when the old value is the expected one. -/
def Sys2Proof.Claims.AtomicPerformed : Prop :=
  ∀ (s : State) f op (ty : Ty) b cmp p, ty.isAmoInt = true → s.errorAt f = false → f.op.pa + 8 < 2 ^ 47 →
    f.op.act = .amo op ty b cmp p →
    let old := (List.range ty.bytes).map fun k => s.byteAt (f.op.pa + k)
    ∃ t, s.perform f = some t ∧
      t.net.replies = s.net.replies ++ [⟨f.src, f.op.seq, some (p, 0), old, false, f.op.va⟩] ∧
      (∀ a, (a < f.op.pa ∨ f.op.pa + ty.bytes ≤ a) → t.byteAt a = s.byteAt a) ∧
      ofBytes ((List.range ty.bytes).map fun k => t.byteAt (f.op.pa + k)) =
        match op with
        | .cas => if ofBytes old = cmp.toNat then b.toNat % 2 ^ ty.bits else ofBytes old
        | .swap => b.toNat % 2 ^ ty.bits
        | .add => (ofBytes old + b.toNat) % 2 ^ ty.bits
        | .and => (ofBytes old &&& b.toNat) % 2 ^ ty.bits
        | .or => (ofBytes old ||| b.toNat) % 2 ^ ty.bits
        | .xor => (ofBytes old ^^^ b.toNat) % 2 ^ ty.bits
        | .min => wrapTo ty (min (val ty (BitVec.ofNat 64 (ofBytes old))) (val ty b))
        | .max => wrapTo ty (max (val ty (BitVec.ofNat 64 (ofBytes old))) (val ty b))

/-- APPLY: the oldest entry of a write queue reaches memory; what a load would read stays the same. -/
def Sys2Proof.Claims.ApplyStep : Prop :=
  ∀ (s : State) h w rest, s.net.wq = (h, w) :: rest →
    exec (.evApply h) s = .next { s with mem := w.apply s.mem, net := { s.net with wq := rest } } ∧
    memoryKept s { s with mem := w.apply s.mem, net := { s.net with wq := rest } }

/-- The second home of a pair operation: the message that heads its queue and is one writes both words, answers and unlocks
the line of the first home. -/
def Sys2Proof.Claims.PairSecondStep : Prop :=
  ∀ (s : State) h i t, (∀ k < i, s.trySecond h k = none) → i < s.net.aq.length → s.homeStopped h = false →
    s.trySecond h i = some t →
    exec (.evPairSecondHome h) s = .next t ∧
    ∀ f, s.net.aq[i]? = some f → t.net.aq.length + 1 = s.net.aq.length ∧
      (∀ l ∈ t.net.locks, l.cid ≠ (f.src.ctx?).getD 0) ∧ t.net.replies.length = s.net.replies.length + 1

/-- PERFORM, APPLY and the second home of a pair operation: a load returns the bytes as the write queue leaves them, a
store makes its bytes read as written, an atomic returns the old value and leaves the new one, and applying a write
queue changes nothing that a load would read. -/
def Obligations.OperationsPerform : Prop := PerformStep ∧ AtomicPerformed ∧ ApplyStep ∧ PairSecondStep

/-- Replies, wakes and timeouts: a reply acknowledges its operation and delivers its bytes, also to a restart point of its
context; an error answer stops the context on a fault, and no later operation issues: the uncorrectable-data fault, or the
peer-unmapped fault for an address of the peer window, whichever of a sealed cell, uncorrectable data (R70, R262, R337) and
a revoked import (R352) the home met (the model's reading, log 24); an answer to an engine, a fabric die or the hub is counted there and fills its buffer. A
wake and an expired deadline end the wait of their context with its status. -/
def Sys2Proof.Claims.RepliesAndWakes : Prop :=
  ∀ (s : State) n,
    (∀ r cid, s.net.replies[n]? = some r → s.sourceStopped r.src = false → (r.src = .ctx cid ∨ r.src = .wcb cid) → r.bad = false →
      let u := { s with net := { s.net with replies := dropAt n s.net.replies } }
      let end_ := fun (c : Ctx) => match r.pend with
        | none => c
        | some x => (c.deliver x.1 x.2 r.bytes s.now).endWait x.1
      let ack := fun (c : Ctx) => end_ { c with mq := { c.mq with outs := c.mq.outs.filter fun o => o.seq != r.seq } }
      (∀ c, s.ctx? cid = some c → (ack c).fault = none) → exec (.evReplyDelivery n) s = .next { u.updCtx cid ack with
        points := s.points.map fun p => if p.ctx.cid == cid then { p with ctx := end_ p.ctx } else p }) ∧
    (∀ r cid c, s.net.replies[n]? = some r → s.sourceStopped r.src = false → (r.src = .ctx cid ∨ r.src = .wcb cid) → r.bad = true → s.ctx? cid = some c →
      c.status ≠ .parked .supervisor → c.ended = false →
      goesTo (exec (.evReplyDelivery n) s) fun t => memoryKept s t ∧ ∃ d, t.ctx? cid = some d ∧ d.regs = c.regs ∧
        d.status = .parked .supervisor ∧ d.sr.taddr = r.va ∧ (∀ o ∈ d.mq.iq, o.seq ≤ r.seq) ∧
        ∃ f, d.fault = some f ∧ f.addr = r.va ∧ f.posted = false ∧
          f.cause = if 2 ^ 40 ≤ r.va.toNat ∧ r.va.toNat < 2 ^ 41 then 0x0F else 0x13) ∧
    (∀ r x, s.net.replies[n]? = some r → s.sourceStopped r.src = false → (∀ cid, r.src ≠ .ctx cid ∧ r.src ≠ .wcb cid) → (∀ ep, r.src ≠ .hub ep) →
      r.bad = false → s.io? r.src r.seq = some x →
      goesTo (exec (.evReplyDelivery n) s) fun t => onlyNet s t ∧ memoryKept s t ∧ t.io? r.src r.seq = some (match r.pend with
        | some p => { x with buf := putBytes x.buf p.2 r.bytes, reads := x.reads - 1 }
        | none => { x with acks := x.acks - 1 })) ∧
    (∀ w, s.net.wakes[n]? = some w → s.ctxStopped w.cid = false → s.waiting w.cid w.pend = true →
      exec (.evWakeDelivery n) s = .next ({ s with net := { s.net with wakes := dropAt n s.net.wakes } }.updCtx w.cid
        fun c => c.finishWait w.code w.counter s.now)) ∧
    (∀ cid c w t, s.ctx? cid = some c → c.wait = some w → w.deadline = some t → w.entered = true → t ≤ s.now →
      exec (.evWaitTimeout cid) s = .next ((s.unwait cid).updCtx cid fun c => c.finishWait 4 none s.now))

/-- Results: a loaded value lands when its last byte arrives; a reply acknowledges its operation; a wake and an expired
deadline end a wait with their status. That an error answer is a fault of cause 0x0F in the peer window and 0x13
elsewhere is the model's reading (log 24), also of R70 and R337 for a place that is sealed or poisoned. -/
def Obligations.ResultsArrive : Prop := LoadedValueLands ∧ RepliesAndWakes

/-- FLUSH: a line of a write-combining buffer leaves as one store of its masked bytes, its page dirtied first. -/
def Sys2Proof.Claims.FlushStep : Prop :=
  ∀ (s : State) cid c l u, s.ctx? cid = some c → c.mq.wcb.find? (fun x => x.line == l.line) = some l →
    s.ctxStopped cid = false → State.dirty c l.dirt s = some u → goesTo (exec (.evWcbFlush cid l.line) s) fun t =>
      t.net.ch = u.net.ch ++ [⟨.wcb cid, ⟨l.seq, l.home, l.line * 64, l.va, ⟨false, none⟩, .store l.bytes, false, []⟩⟩] ∧
      (s.th.cid = cid → t.th.mq.wcb = u.th.mq.wcb.filter (fun x => x.line != l.line) ∧
        t.th.mq.outs = u.th.mq.outs ++ [⟨l.seq, l.home, false, false⟩] ∧ t.th.regs = u.th.regs)

/-- ISSUE, ARRIVAL and FLUSH: an operation leaves its queue and travels, the oldest on a path arrives, and a
write-combining line leaves as one store. -/
def Obligations.OperationsTravel : Prop := IssueStep ∧ ArrivalStep ∧ FlushStep

/-- Host agents and mailboxes: an inbound write travels as its lines once the endpoint's earlier writes are acknowledged, an
inbound read sends one message for each of its lines and returns their bytes with its last answer, a flush read clears the
endpoint from a context that owes nothing there, and a spilled message enters a mailbox with room. An inbound address is a
flat number, and one that no ring of a work queue holds is dropped (the model's choices, log 34). -/
def Obligations.HostAgentsAndMailboxes : Prop :=
  ∀ (s : State),
    (∀ ep a len, s.inboundOk a len = false → exec (.evHostInboundRead ep a len) s = .next s ∧
      ∀ data : List Byte, data.length = len → exec (.evHostInboundWrite ep a data) s = .next s) ∧
    (∀ ep a data, s.routeUp (.host ep) = true → s.hostQuiet ep = true → data ≠ [] → s.inboundOk a data.length = true →
      s.absentRange a data.length = none →
      goesTo (exec (.evHostInboundWrite ep a data) s) fun t => onlyNet s t ∧ memoryKept s t ∧
        t.net.ch.length = s.net.ch.length + (splitLines a data.length).length ∧ t.net.ch.take s.net.ch.length = s.net.ch ∧
        ∀ f ∈ t.net.ch.drop s.net.ch.length, f.src = .hub ep) ∧
    (∀ ep a len, s.routeUp (.host ep) = true → s.hostQuiet ep = true → s.inboundOk a len = true →
      s.absentRange a len = none → 0 < len →
      goesTo (exec (.evHostInboundRead ep a len) s) fun t => onlyNet s t ∧ memoryKept s t ∧
        t.net.hostReads = s.net.hostReads ++ [⟨s.net.hostNext, ep, a, none⟩] ∧
        t.net.ch = s.net.ch ++ (splitLines a len).map fun p =>
          ⟨.hub ep, ⟨s.net.hostNext, homeOf p.1, p.1, BitVec.ofNat 64 p.1, ⟨false, none⟩,
            .load s.net.hostNext (p.1 - a) p.2 [], false, []⟩⟩) ∧
    (∀ n r ep p x, s.net.replies[n]? = some r → s.sourceStopped r.src = false → r.src = .hub ep → r.bad = false → r.pend = some p →
      s.io? (.hub ep) r.seq = some x → x.reads = 1 → x.bad = none →
      goesTo (exec (.evReplyDelivery n) s) fun t => onlyNet s t ∧ memoryKept s t ∧ t.io? (.hub ep) r.seq = none ∧
        t.net.hostReads = s.net.hostReads.map fun h =>
          if h.id == r.seq then { h with bytes := some (putBytes x.buf p.2 r.bytes) } else h) ∧
    (∀ ep cid c, s.ctx? cid = some c → (c.mq.outs.any fun o => o.home == .host ep) = false →
      (∀ f ∈ s.net.ch ++ s.net.aq, f.for? = some cid → f.op.home = .host ep → f.op.act.isStore = false) →
      exec (.evHostFlushRead ep cid) s = .next
        (s.updCtx cid fun c => { c with mq := { c.mq with eps := c.mq.eps.filter fun e => e != ep } })) ∧
    ∀ cid c n m bs, s.ctx? cid = some c → c.resident = true → s.ctxStopped cid = false → c.mail.spill[n]? = some m → m.body = .data bs →
      (∀ x ∈ c.mail.spill.take n, x.sender ≠ m.sender) → c.mail.box.length < 32 →
      goesTo (exec (.evMailboxDeliver cid n) s) fun t => s.th.cid = cid →
        t.th.mail = ⟨c.mail.box ++ [m], dropAt n c.mail.spill, c.mail.spilled, c.mail.sent, c.mail.received + 1, c.mail.flag⟩ ∧
        t.th.regs = s.th.regs ∧ memoryKept s t

/-! ### The matrix unit (R241 to R257) -/

/-- Matrix instructions that touch no memory: an accumulator zeroed, read and written by rows, copied, and the
descriptors of A and B selected. While a forked matrix program is PENDING each of them waits. -/
def Obligations.MatrixRegisters : Prop :=
  ∀ h s, predOn h s.th.regs = true →
    (s.th.matrixForked = true → (∀ o, waits s (exec (.mzero h o) s) .drain) ∧ (∀ o, waits s (exec (.mrdrow h o) s) .drain) ∧
      (∀ o, waits s (exec (.mwrrow h o) s) .drain) ∧ (∀ o, waits s (exec (.mmov h o) s) .drain) ∧
      (∀ o, waits s (exec (.masel h o) s) .drain) ∧ (∀ o, waits s (exec (.masx h o) s) .drain) ∧
      (∀ o, waits s (exec (.mbsel h o) s) .drain) ∧ (∀ o, waits s (exec (.mma h o) s) .drain) ∧
      ∀ o, waits s (exec (.mdrain h o) s) .drain) ∧
    (s.th.matrixForked = false →
      (∀ o, inMatrix s (exec (.mzero h o) s) fun m => onlyAcc s.th.mat m o.acc ∧ ∀ i < 16, ∀ j < 8, elem m o.acc i j = 0) ∧
      (∀ o, goesTo (exec (.mrdrow h o) s) fun t => onlyContext s t ∧ memoryKept s t ∧ advances s t ∧
        t.th = { s.th with status := .running, regs := t.th.regs, openW := t.th.openW, pc := t.th.pc, grp := t.th.grp,
                           loops := t.th.loops } ∧
        ∃ x, lands s.th t.th (Machine.specV o.d) 0 x ∧ ∀ j < 8, laneOf 32 x j = elem s.th.mat o.acc o.row.toNat j) ∧
      (∀ o, (Instr.mwrrow h o).wellFormed = true → inMatrix s (exec (.mwrrow h o) s) fun m => onlyAcc s.th.mat m o.acc ∧
        ∀ i < 16, ∀ j < 8, elem m o.acc i j =
          if i = o.row.toNat then lane s .f32 (.reg o.a) j else elem s.th.mat o.acc i j) ∧
      (∀ o, inMatrix s (exec (.mmov h o) s) fun m => onlyAcc s.th.mat m o.acc ∧
        ∀ i < 16, ∀ j < 8, elem m o.acc i j = elem s.th.mat (!o.acc) i j) ∧
      (∀ o, inMatrix s (exec (.masel h o) s) fun m => m = { s.th.mat with
        abase := (s.th.regs.gr o.a).extractLsb' 0 56, rs := (s.th.regs.gr o.b).extractLsb' 0 32,
        ks := (s.th.regs.gr o.b).extractLsb' 32 32 }) ∧
      (∀ o, inMatrix s (exec (.masx h o) s) fun m => m = { s.th.mat with axbase := (s.th.regs.gr o.a).extractLsb' 0 56 }) ∧
      ∀ o, inMatrix s (exec (.mbsel h o) s) fun m => m = { s.th.mat with
        bo := (s.th.regs.gs o.a).extractLsb' 0 16, xo := (s.th.regs.gs o.b).extractLsb' 0 16 })

/-- Inline `mma`, step by step (R249 to R253). Its checks come first: a failing one is a fault that changes no accumulator
and no offset. Then, block by block, the reads of a K block issue from the context in program order, rows of A before
columns of B, and it waits for them; a block that cannot be read is a fault that keeps the offset. A block whose bytes have
arrived adds its block sum to every element, and the offset moves to the next block; the last block completes the
instruction and the offset returns to 0. With an enabled exception the block is not added. -/
def Sys2Proof.Claims.MatrixMultiplication : Prop :=
  ∀ h o (s : State), predOn h s.th.regs = true → s.th.matrixForked = false → let kb := s.th.mat.koff.toNat
    (s.th.mrun = none →
      (∀ t, s.aStream s.th (blockBytes o.ta) = .error t → exec (.mma h o) s = .next (s.trap t)) ∧
      ∀ a, s.aStream s.th (blockBytes o.ta) = .ok a →
        (o.nkb.toNat ≤ kb → faults s (exec (.mma h o) s) 0x1A 0 (BitVec.ofNat 64 (32 * kb))) ∧
        (∀ t, s.mmaChecks s.th a o = some t → exec (.mma h o) s = .next (s.trap t)) ∧
        (s.mmaChecks s.th a o = none → exec (.mma h o) s = .next { s with th := { s.th with
          mrun := some ⟨a, false, none⟩, status := .parked .drain } })) ∧
    (∀ r, s.th.mrun = some r → r.waiting = true → waits s (exec (.mma h o) s) .drain) ∧
    (∀ r, s.th.mrun = some r → r.waiting = false → r.buf = none →
      (∀ t, s.kBlock s.th r.a o kb = .error t → exec (.mma h o) s = .next (s.trap t)) ∧
      ∀ A B, (∀ i < 16, s.aBlock s.th r.a o.ta kb i = .ok (A i)) →
        (∀ j < 8, s.bBlock s.th (16 * (blockBytes o.ta + 2)) o.tb kb j = .ok (B j)) →
        let ps := (List.range 16).flatMap A ++ (List.range 8).flatMap B
        let n := s.th.mq.next
        s.absentPart (ps.map Prod.fst) = none →
        goesTo (exec (.mma h o) s) fun t => memoryKept s t ∧ t = { s with th := t.th, cells := t.cells, combs := t.combs } ∧
          t.th = { s.th with
            mrun := some { r with waiting := true }, status := .parked .drain, meters := (s.th.charge (ps.map Prod.fst)).meters,
            pend := s.th.pend ++ [⟨n, s.th.pc, .mat, ps.length,
              List.replicate (16 * (blockBytes o.ta + 2) + 8 * (blockBytes o.tb + 2)) 0, false⟩],
            mq := { s.th.mq with next := n + 1 + ps.length, iq := s.th.mq.iq ++ numbered (n + 1) ps fun k p =>
              ⟨k, p.1.home, p.1.pa, BitVec.ofNat 64 p.1.va, ⟨false, none⟩, .load n p.2 p.1.len [], false,
                cleanEntry p.1⟩ } }) ∧
    (∀ r buf, s.th.mrun = some r → r.waiting = false → r.buf = some buf →
      (blockFlags s o buf &&& fpEnables s.th.sr = 0 → goesTo (exec (.mma h o) s) fun t => onlyContext s t ∧ memoryKept s t ∧
        (∀ i < 16, ∀ j < 8, elem t.th.mat o.acc i j = (addedBlock s o buf i j).bits % 2 ^ 32) ∧
        onlyAcc { s.th.mat with koff := if o.nkb.toNat ≤ kb + 1 then 0 else s.th.mat.koff + 1 } t.th.mat o.acc ∧
        t.th.sr = { s.th.sr with fpstat := s.th.sr.fpstat ||| (blockFlags s o buf).zeroExtend 64 } ∧
        (o.nkb.toNat ≤ kb + 1 → advances s t ∧ t.th = { s.th with
          status := .running, mrun := none, mat := t.th.mat, sr := t.th.sr, pc := t.th.pc, grp := t.th.grp,
          loops := t.th.loops }) ∧
        (kb + 1 < o.nkb.toNat → t.th = { s.th with
          status := .parked .drain, mrun := some { r with buf := none }, mat := t.th.mat, sr := t.th.sr })) ∧
      (blockFlags s o buf &&& fpEnables s.th.sr ≠ 0 → goesTo (exec (.mma h o) s) fun t => t.th.mat = s.th.mat ∧
        t.th.sr.fpstat.extractLsb' 8 5 = blockFlags s o buf &&& fpEnables s.th.sr ∧
        (∃ i < 16, t.th.sr.fpstat.extractLsb' 16 6 = BitVec.ofNat 6 i ∧
          (∃ j < 8, (addedBlock s o buf i j).flags &&& fpEnables s.th.sr ≠ 0) ∧
          ∀ k < i, ∀ j < 8, (addedBlock s o buf k j).flags &&& fpEnables s.th.sr = 0) ∧
        stopsOn { s with th := { s.th with sr := { s.th.sr with fpstat := t.th.sr.fpstat } } } t 0x1B 0 0))

/-- The page format that A of a type has in paged space (R247). -/
def Sys2Proof.Claims.pageFormats : List (Ty × Nat) :=
  [(.bfp8, 0x1), (.bfp4, 0x2), (.f16, 0xA), (.bf16, 0x9), (.e4m3, 0x7), (.e5m2, 0x8)]

/-- Where `mma` reads (R247, R248). The strides are those of the descriptor, or those of the block size where the page of
abase has tiling 0b01; row i of K block kb of A lies at abase + i × rsx + kb × ksx. In fixed memory its exponent pair lies at
axbase + 2 × ((i × rsx + kb × ksx) div bb); in paged space the page must have the format of the type and the tiling of the
page of abase, and the pair is that of its companion; a page with any other format or tiling is a format fault at the block.
Column j of B lies in sub-slice j of the own vault slice, at bo + kb × the bytes of a block, its pair at xo + 2 × kb. -/
def Sys2Proof.Claims.MatrixOperands : Prop :=
  (∀ (s : State) (c : Ctx) (a : AStream) t kb i ps, t.isBfp = false → let va := c.mat.abase.toNat + i * a.rsx + kb * a.ksx
    va < 2 ^ 40 → s.placeAt c .read (BitVec.ofNat 64 va) (blockBytes t) = .ok ps →
    s.aBlock c a t kb i = .ok (fromHere (i * (blockBytes t + 2)) ps)) ∧
  (∀ (s : State) (c : Ctx) (a : AStream) t kb i ps qs, t.isBfp = true → let d := i * a.rsx + kb * a.ksx
    c.mat.abase.toNat + d < 2 ^ 40 →
    s.placeAt c .read (BitVec.ofNat 64 (c.mat.abase.toNat + d)) (blockBytes t) = .ok ps →
    s.placeAt c .read (BitVec.ofNat 64 (c.mat.axbase.toNat + 2 * (d / blockBytes t))) 2 = .ok qs →
    s.aBlock c a t kb i =
      .ok (fromHere (i * (blockBytes t + 2)) ps ++ fromHere (i * (blockBytes t + 2) + blockBytes t) qs)) ∧
  (∀ (s : State) (c : Ctx) base t kb j ps, t.isBfp = false →
    let va := 0x200000000 + cellFci c.cell / 128 * 0x1000000 + cellIdx c.cell * 0x20000 + j * 0x4000 + c.mat.bo.toNat +
      kb * blockBytes t
    s.placeAt c .read (BitVec.ofNat 64 va) (blockBytes t) = .ok ps →
    s.bBlock c base t kb j = .ok (fromHere (base + j * (blockBytes t + 2)) ps)) ∧
  (∀ (s : State) (c : Ctx) base t kb j ps qs, t.isBfp = true →
    let at_ := 0x200000000 + cellFci c.cell / 128 * 0x1000000 + cellIdx c.cell * 0x20000 + j * 0x4000
    s.placeAt c .read (BitVec.ofNat 64 (at_ + c.mat.bo.toNat + kb * blockBytes t)) (blockBytes t) = .ok ps →
    s.placeAt c .read (BitVec.ofNat 64 (at_ + c.mat.xo.toNat + 2 * kb)) 2 = .ok qs →
    s.bBlock c base t kb j = .ok (fromHere (base + j * (blockBytes t + 2)) ps ++
      fromHere (base + j * (blockBytes t + 2) + blockBytes t) qs)) ∧
  (∀ (s : State) (c : Ctx) (a : AStream), ∀ p ∈ pageFormats, ∀ kb i x ps e,
    let va := c.mat.abase.toNat + i * a.rsx + kb * a.ksx
    let at_ := i * (blockBytes p.1 + 2)
    2 ^ 40 ≤ va → va < 2 ^ 64 → s.placeAt c .read (BitVec.ofNat 64 va) (blockBytes p.1) = .ok (x :: ps) →
    s.seenEntry c x = some e →
    (e.fmt ≠ p.2 ∨ e.geom ≠ 4 * a.tiling → s.aBlock c a p.1 kb i = .error ⟨0x12, 0, BitVec.ofNat 64 va⟩) ∧
    (e.fmt = p.2 → e.geom = 4 * a.tiling → a.tiling ≤ 2 →
      (p.1.isBfp = false → s.aBlock c a p.1 kb i = .ok (fromHere at_ (x :: ps))) ∧
      ∀ qs, p.1.isBfp = true → e.cdelta ≠ 0 → e.slot < fmtSlots e.fmt → s.companion c e (BitVec.ofNat 64 va) = .ok qs →
        s.aBlock c a p.1 kb i = .ok (fromHere at_ (x :: ps) ++ fromHere (at_ + blockBytes p.1) qs))) ∧
  (∀ (s : State) (c : Ctx), c.mat.abase.toNat < 2 ^ 40 → ∀ bb,
    s.aStream c bb = .ok ⟨c.mat.rs.toNat, c.mat.ks.toNat, 0, false⟩) ∧
  ∀ (s : State) (c : Ctx) bb e, let a := c.mat.abase.toNat
    (2 ^ 48 ≤ a ∨ 2 ^ 40 ≤ a ∧ a < 2 ^ 41 ∧ (s.frameRec (combFrame c.comb)).imported a = true) → s.tlbFind c a = some e →
    s.aStream c bb = .ok (if e.geom / 4 = 1 then ⟨bb, 16 * bb, 1, true⟩
      else ⟨c.mat.rs.toNat, c.mat.ks.toNat, e.geom / 4, true⟩)

/-- Inline `mdrain` (R255 to R257): a check that fails is a fault and nothing is written; otherwise a float drain scales,
rounds and stores row i at sa + i × stride, and a block-floating-point drain rounds to FP32, computes the pair of each of its
four blocks, encodes their elements, and stores the elements at sa and the pairs at sb; every store issues from the context
in program order. A drain that keeps its accumulator is over then; a `zero` drain waits until its last store has issued, and
clears the accumulator then. With an enabled exception no store issues. -/
def Sys2Proof.Claims.MatrixDrain : Prop :=
  ∀ h o (s : State), predOn h s.th.regs = true → s.th.matrixForked = false → let r := drainStores o false s.th
    let x := fun n => rawProd3 (FFmt.f32.value (elem s.th.mat o.acc (n / 8) (n % 8)))
      (if o.nos then .fin false 1 0 else FFmt.f32.value (laneR s .f32 (o.vr + BitVec.ofNat 5 (n / 8 / 8)) (n / 8 % 8)))
      (if o.nos then .fin false 1 0 else FFmt.f32.value (laneR s .f32 o.vc (n % 8)))
    let marked := fun (p : Pend) => p.dest = .none ∧ p.pc = s.th.pc
    let drained := fun (c : Ctx) => { c with
      sr := { c.sr with
        fpstat := c.sr.fpstat ||| (orFlags r.2).zeroExtend 64,
        srctr := if resolveRnd c.sr.fpctl o.rm = Rnd.sr then c.sr.srctr + 128 else c.sr.srctr },
      mat := if o.zero then (if o.acc then { c.mat with a1 := Vector.replicate 128 0 }
        else { c.mat with a0 := Vector.replicate 128 0 }) else c.mat }
    (o.ty.isBfp = false → r.1 = (List.range 16).map fun i =>
      ⟨s.th.regs.gr o.a + BitVec.ofNat 64 i * s.th.regs.gr o.b, o.a.r == 62,
        bytesOf (8 * o.ty.bytes) (packLanes o.ty.bits ((List.range 8).map fun j =>
          ((x (8 * i + j)).round (Ty.fmt o.ty) (modeAt s.th.sr o.rm (8 * i + j))).bits))⟩) ∧
    (o.ty.isBfp = true → let four := o.ty == .bfp4
      let t := fun n => ((x n).round .f32 .rne).bits
      let pair := fun b => bfpPair four ((List.range 32).map fun k => FFmt.f32.value (t (32 * b + k)))
      let w := if four then 4 else 8
      r.1 = [⟨s.th.regs.gr o.a, o.a.r == 62, bytesOf (16 * w) (packLanes w ((List.range 128).map fun n =>
            (bfpEncode four (pair (n / 32)).1 (pair (n / 32)).2 (modeAt s.th.sr o.rm n) (decide (t n / 2 ^ 31 % 2 = 1))
              (FFmt.f32.value (t n))).bits))⟩,
        ⟨s.th.regs.gr o.b, o.b.r == 62, (List.range 4).flatMap fun b =>
          [BitVec.ofNat 8 (pair b).1, BitVec.ofNat 8 (pair b).2]⟩]) ∧
    ((∀ p ∈ s.th.pend, ¬ marked p) →
      (∀ t, s.drainChecks s.th o r.1 = some t → exec (.mdrain h o) s = .next (s.trap t)) ∧
      (o.ty = .bfp8 → (s.th.regs.gr o.a).toNat % 32 ≠ 0 → faults s (exec (.mdrain h o) s) 0x1A 0 (s.th.regs.gr o.a)) ∧
      (o.ty = .bfp4 → (s.th.regs.gr o.a).toNat % 16 ≠ 0 → faults s (exec (.mdrain h o) s) 0x1A 0 (s.th.regs.gr o.a)) ∧
      ∀ ps, let n := s.th.mq.next
        let parts := ps.map Prod.fst
        s.drainChecks s.th o r.1 = none → s.placeStores s.th r.1 = .ok ps → s.absentPart parts = none →
        s.sealedPart parts = none →
        ps.flatMap Prod.snd = (r.1.flatMap DrainStore.bytes).map some ∧
        (∀ d ∈ r.1, ∃ qs, s.place s.th .write d.stack d.va d.bytes.length = .ok qs ∧ ∀ q ∈ qs, q ∈ parts) ∧
        (orFlags r.2 &&& fpEnables s.th.sr = 0 → o.zero = false → goesTo (exec (.mdrain h o) s) fun t =>
          memoryKept s t ∧ advances s t ∧ t = { s with th := t.th, cells := t.cells, combs := t.combs } ∧
          t.th = { drained s.th with
            status := .running, pc := t.th.pc, grp := t.th.grp, loops := t.th.loops,
            meters := (s.th.charge parts).meters,
            mq := { s.th.mq with next := n + ps.length, iq := s.th.mq.iq ++ numbered n ps fun k p =>
              ⟨k, p.1.home, p.1.pa, BitVec.ofNat 64 p.1.va, ⟨false, none⟩, .store p.2, false, cleanEntry p.1⟩ } }) ∧
        (orFlags r.2 &&& fpEnables s.th.sr = 0 → o.zero = true → goesTo (exec (.mdrain h o) s) fun t =>
          memoryKept s t ∧ t = { s with th := t.th, cells := t.cells, combs := t.combs } ∧
          t.th = { s.th with
            status := .parked .drain, meters := (s.th.charge parts).meters,
            pend := s.th.pend ++ [⟨n, s.th.pc, .none, 1, [], false⟩],
            mq := { s.th.mq with next := n + 1 + ps.length, iq := s.th.mq.iq ++ numbered (n + 1) ps fun k p =>
              ⟨k, p.1.home, p.1.pa, BitVec.ofNat 64 p.1.va, ⟨false, none⟩, .store p.2, false, cleanEntry p.1⟩ } }) ∧
        (orFlags r.2 &&& fpEnables s.th.sr ≠ 0 → goesTo (exec (.mdrain h o) s) fun t => t.th.mat = s.th.mat ∧
          t.th.mq = s.th.mq ∧ t.th.sr.srctr = s.th.sr.srctr ∧
          stopsOn { s with th := { s.th with sr := { s.th.sr with fpstat := t.th.sr.fpstat } } } t 0x1B 0 0)) ∧
    ∀ p, s.th.pend.find? (fun p => decide (marked p)) = some p → o.zero = true →
      ((∃ y ∈ s.th.mq.iq, p.id < y.seq) → waits s (exec (.mdrain h o) s) .drain) ∧
      ((∀ y ∈ s.th.mq.iq, y.seq ≤ p.id) → orFlags r.2 &&& fpEnables s.th.sr = 0 → goesTo (exec (.mdrain h o) s) fun t =>
        onlyContext s t ∧ memoryKept s t ∧ advances s t ∧ t.th = { drained s.th with
          status := .running, pc := t.th.pc, grp := t.th.grp, loops := t.th.loops,
          pend := s.th.pend.filter fun y => y.id != p.id })
/-- The matrix unit: inline `mma` block by block, where its operands lie, and `mdrain`, all or nothing. -/
def Obligations.MatrixMultiply : Prop := MatrixMultiplication ∧ MatrixOperands ∧ MatrixDrain

/-! ### Handles and engines (R279 to R298) -/

/-- Handles: `htest` reads a state without waiting; `hwait`, `hdet` and `rdv` fault on an EMPTY handle, wait for a PENDING
one and read a resolved one; `hcancel` requests a cancellation of a PENDING one alone; `fork` and `hpass` hand work and
handles on. -/
def Obligations.Handles : Prop :=
  ∀ h (s : State), predOn h s.th.regs = true → s.th.status = .running →
    (∀ o, readsHandle s (exec (.htest h o) s) o.hs o.d (match (hand s o.hs).st with
      | .empty => 0 | .pending => 1 | .done => 2 | .failed => 3 | .cancelled => 4)) ∧
    (∀ p ∈ ([(.hwait, Handle.res), (.hdet, Handle.det)] : List ((Hdr → HRd → Instr) × (Handle → Word))), ∀ o,
      ((hand s o.hs).st = .empty → faults s (exec (p.1 h o) s) 0x19 0 (o.hs.zeroExtend 64)) ∧
      ((hand s o.hs).st = .pending → waits s (exec (p.1 h o) s) .handle) ∧
      (isResolved (hand s o.hs) = true → readsHandle s (exec (p.1 h o) s) o.hs o.d (p.2 (hand s o.hs)))) ∧
    (∀ (o : Rdv), let isIn := fun (i : BitVec 4) => o.mask.getLsbD i.toNat
      ((∀ i, isIn i = true → isResolved (hand s i) = true) → goesTo (exec (.rdv h o) s) fun t =>
        onlyContext s t ∧ memoryKept s t ∧ advances s t ∧ t.th.regs = s.th.regs ∧ t.th.openW = s.th.openW ∧
        ∀ i, hand t i = { hand s i with seen := (hand s i).seen || isIn i }) ∧
      ((∀ i, isIn i = true → (hand s i).st ≠ .empty) → (∃ i, isIn i = true ∧ (hand s i).st = .pending) →
        waits s (exec (.rdv h o) s) .handle) ∧
      ∀ i, isIn i = true → (hand s i).st = .empty → (∀ j < i, isIn j = true → (hand s j).st ≠ .empty) →
        faults s (exec (.rdv h o) s) 0x19 0 (i.zeroExtend 64)) ∧
    (∀ o, (hand s o.h).st ≠ .pending → goesOn s (exec (.hcancel h o) s)) ∧
    (∀ o, (hand s o.h).st = .pending → exec (.hcancel h o) s = .next (s.cancelOp (hand s o.h).op).retire) ∧
    (∀ o q e, (hand s o.h).st = .pending → (∀ c ∈ s.pool, c.cid ≠ s.th.cid) → (hand s o.h).op % 2 ^ 32 = s.th.cid →
      q < 8 → s.th.queue q = [e] → e.op = (hand s o.h).op → e.course = .waiting → (∃ c, e.work = .copy c) →
      goesTo (exec (.hcancel h o) s) fun t => t.th.queue q = [{ e with course := .done .cancelled 0 0 }] ∧ memoryKept s t) ∧
    (∀ o, let R := s.th.regs
      (∀ g, o.gm = some g → busy s (exec (.fork h o) s) o.hm) ∧
      (∀ g, o.gm = none → o.gc = some g → busy s (exec (.fork h o) s) o.hc) ∧
      (∀ g, o.gm = some g → o.gc = none → (hand s o.hm).st ≠ .pending →
        ((R.gr g).toNat % 64 ≠ 0 → faults s (exec (.fork h o) s) 0x14 0 (R.gr g)) ∧
        ((R.gr g).toNat % 64 = 0 → s.th.pend ≠ [] → waits s (exec (.fork h o) s) .drain) ∧
        ((R.gr g).toNat % 64 = 0 → s.th.pend = [] →
          enqueues s (exec (.fork h o) s) id 4 (some o.hm) (.prog true ⟨R, R.gr g, 0, none, none, none⟩) .waiting)) ∧
      (∀ g, o.gm = none → o.gc = some g → (hand s o.hc).st ≠ .pending → (R.gr g).toNat % 64 = 0 → s.th.pend = [] →
        enqueues s (exec (.fork h o) s) id 5 (some o.hc) (.prog false ⟨R, R.gr g, 0, none, none, none⟩) .waiting) ∧
      ∀ g g', o.gm = some g → o.gc = some g' → (hand s o.hm).st ≠ .pending → (hand s o.hc).st ≠ .pending →
        (R.gr g).toNat % 64 = 0 → (R.gr g').toNat % 64 = 0 → s.th.pend = [] → goesTo (exec (.fork h o) s) fun t =>
          onlyContext s t ∧ memoryKept s t ∧ advances s t ∧ t.th.regs = R ∧ t.th.queue 4 = s.th.queue 4 ++
            [⟨s.th.nextOp * 4294967296 + s.th.cid, s.th.mq.next, .prog true ⟨R, R.gr g, 0, none, none, none⟩, .waiting, false, s.now, none, false⟩] ∧
          t.th.queue 5 = s.th.queue 5 ++ [⟨(s.th.nextOp + 1) * 4294967296 + s.th.cid, s.th.mq.next + 1,
            .prog false ⟨R, R.gr g', 0, none, none, none⟩, .waiting, false, s.now, none, false⟩] ∧
          (hand t o.hc).st = .pending ∧ (hand t o.hm).st = .pending) ∧
    ∀ r, s.regionOf s.th = some r → s.isFree s.th = true → ∀ o, let k := (s.th.regs.gr o.r).toNat % 65536
      (detLevel s.th < 2 → (hand s o.hs).st = .empty → faults s (exec (.hpass h o) s) 0x19 0 (o.hs.zeroExtend 64)) ∧
      ((hand s o.hs).st ≠ .empty → k < r.map.length → r.channelOk s.th.logical k = true → k = s.th.logical →
        (o.hd = o.hs → goesOn s (exec (.hpass h o) s)) ∧
        (o.hd ≠ o.hs → busy s (exec (.hpass h o) s) o.hd) ∧
        (o.hd ≠ o.hs → (hand s o.hd).st ≠ .pending → completes s (exec (.hpass h o) s) fun c => { c with
          h := (c.h.set o.hd.toNat (hand s o.hs) o.hd.isLt).set o.hs.toNat .reset o.hs.isLt })) ∧
      (detLevel s.th < 2 → (hand s o.hs).st ≠ .empty → k < r.map.length → r.channelOk s.th.logical k = true →
        k ≠ s.th.logical → completes s (exec (.hpass h o) s) fun c => { c with
          mq := { c.mq with next := c.mq.next + 1, iq := c.mq.iq ++ [⟨c.mq.next, .cell (r.map.getD k 0), 0, 0,
            ⟨false, none⟩, .mail (r.ctxs.getD k 0) ⟨BitVec.ofNat 16 c.logical, 0, .handle (hand s o.hs) o.hd, c.mq.next⟩, false, []⟩] },
          mail := { c.mail with sent := c.mail.sent + 1, flag := true },
          h := c.h.set o.hs.toNat .reset o.hs.isLt })

/-- Copies, queue fences, collectives and contests: after their checks they join their queue, and nothing of memory moves
before the engine does. A copy of no bytes resolves at once; a queue fence leaves one entry on every queue it names. -/
def Obligations.EngineQueues : Prop :=
  ∀ h (s : State), predOn h s.th.regs = true →
    (∀ p ∈ ([(.cpy, .raw), (.cpyf, .formatted)] : List ((Hdr → Cpy → Instr) × CopyKind)), ∀ o, let R := s.th.regs
      let n := (R.rg o.len).toNat % 2 ^ 32
      s.copyForeign s.th [(R.gr o.dst, n), (R.gr o.src, n)] = none →
      busy s (exec (p.1 h o) s) o.h ∧
      ((hand s o.h).st ≠ .pending → n = 0 → completes s (exec (p.1 h o) s) fun c =>
        { c with h := c.h.set o.h.toNat ⟨.done, 0, 0, 0, true⟩ o.h.isLt }) ∧
      ((hand s o.h).st ≠ .pending → n ≠ 0 → enqueues s (exec (p.1 h o) s) id o.q.toNat (some o.h)
        (.copy ⟨p.2, R.gr o.dst, R.gr o.src, n, 0, 0, false, none, none, none⟩) .waiting)) ∧
    (∀ o, let src := s.th.regs.gr o.src
      let gb := s.th.regs.gr o.b
      let n := gb.toNat / 2 ^ 32 % 65536
      (s.superstep s.th = false → busy s (exec (.cpyb h o) s) o.h) ∧
      (s.superstep s.th = false → (hand s o.h).st ≠ .pending → (n = 0 ∨ 1024 < n) →
        faults s (exec (.cpyb h o) s) 0x1A 0 (BitVec.ofNat 64 n)) ∧
      (s.superstep s.th = false → (hand s o.h).st ≠ .pending → s.panelFault s.th src gb = none →
        s.sliceFault s.th = none → enqueues s (exec (.cpyb h o) s) id o.q.toNat (some o.h)
          (.copy ⟨.panel, 0, src, n, gb, 0, false, none, none, none⟩) .waiting)) ∧
    (∀ o, (o.mask = 0 → goesOn s (exec (.qfence h o) s)) ∧
      (o.mask ≠ 0 → completes s (exec (.qfence h o) s) fun c =>
        let op := c.nextOp * 4294967296 + c.cid
        { c with
          eq := Vector.ofFn fun i : Fin 8 => if o.mask.getLsbD i.val then
            c.eq.get i ++ [⟨op, c.mq.next, .fence op o.mask, .waiting, false, s.now, none, false⟩] else c.eq.get i,
          nextOp := c.nextOp + 1, mq := { c.mq with next := c.mq.next + 1 } })) ∧
    (∀ (o : Coll), let d := s.th.regs.gr o.a
      let late := decide (o.op = .sum ∧ (o.kind = .allreduce ∨ o.kind = .reduce ∨ o.kind = .redscat) ∧
        (o.ty.isFloat = true ∨ o.ty.isBfp = true) ∧ o.order ≠ .canonical ∧
        (if o.order = .any then 1 else 2) ≤ detLevel s.th)
      (late = true → faults s (exec (.coll h o) s) 0x07 0 0) ∧
      (late = false → busy s (exec (.coll h o) s) o.h ∧
        ((hand s o.h).st ≠ .pending → d.toNat % 64 ≠ 0 → faults s (exec (.coll h o) s) 0x14 0 d) ∧
        ((hand s o.h).st ≠ .pending → d.toNat % 64 = 0 → enqueues s (exec (.coll h o) s) id 6 (some o.h)
          (.coll ⟨o.kind, o.op, o.ty, o.order, d⟩) .waiting))) ∧
    ∀ o, (1 ≤ detLevel s.th → faults s (exec (.contend h o) s) 0x07 0 0) ∧
      (detLevel s.th = 0 → (o.lane = 15 ∨ o.id = 0 ∨ (s.regionOf s.th).bind Region.slot = none) →
        faults s (exec (.contend h o) s) 0x1D 0 (BitVec.ofNat 64 (o.lane.toNat * 256 + o.id.toNat))) ∧
      (∀ r k, detLevel s.th = 0 → o.lane ≠ 15 → o.id ≠ 0 → s.regionOf s.th = some r → r.slot = some k →
        (hand s o.h).st ≠ .pending → enqueues s (exec (.contend h o) s) id 6 (some o.h)
          (.contend (s.th.regs.gs o.a) o.lane o.id) .waiting)

/-- A fabric instruction issues at the head of queue 7: after its checks its entry joins the queue and its handle is
PENDING; it then waits, parked, while its entry is not at the head. What was placed is not placed again. -/
def Sys2Proof.Claims.FabricIssue : Prop :=
  ∀ (s : State) i h hd tab w, fabricForm s i = some (h, hd, tab, w) → predOn h s.th.regs = true → detLevel s.th = 0 →
    ((∀ e ∈ s.th.queue 7, unissued e = false ∧ e.op ≠ opNum s) →
      (∀ x, hd = some x → busy s (exec i s) x) ∧
      ((∀ x, hd = some x → (hand s x).st ≠ .pending) →
        (∀ a, tab = some a → a.toNat % 8 ≠ 0 → faults s (exec i s) 0x14 0 a) ∧
        ((∀ a, tab = some a → a.toNat % 8 = 0) → exec i s = exec i (placedFabric s hd w)))) ∧
    ∀ e, (s.th.queue 7).find? unissued = some e →
      ((s.th.queue 7).head?.map Entry.op ≠ some e.op ∨ s.th.ackedBelow e.seq = false) → waits s (exec i s) .fabric

/-- The continuous fabric at the head of queue 7: a claim in the wrong state faults, an operand out of range faults, and
otherwise the claim and the handle change as the operation says. -/
def Sys2Proof.Claims.FabricAtHead : Prop :=
  ∀ h (s : State) e, predOn h s.th.regs = true → detLevel s.th = 0 → atHead s e →
    (∀ p ∈ ([.afcal, .afrun, .afstop, .afrel] : List (Hdr → HOp → Instr)), ∀ o, s.claimOf s.th.cid = none →
      ∃ a, headFaults s (exec (p h o) s) e 0x1E a) ∧
    (∀ o, (s.claimOf s.th.cid ≠ none → ∃ a, headFaults s (exec (.afclaim h o) s) e 0x1E a) ∧
      (s.claimOf s.th.cid = none →
        headBegins s (exec (.afclaim h o) s) e (.claim o.die o.np.toNat) s.claims fun t =>
          t.net = s.net ∧ t.tick = s.tick ∧ t.plane = { s.plane with cands := s.plane.cands ++
            [⟨15, 0xCF0 + (if o.die then 1 else 0), claimKey (((s.regionOf s.th).map fun r => r.a.effPrio).getD 0) s.now,
              combFrame s.th.comb, s.th.logical, s.th.cid, e.op, s.now, false, o.np.toNat⟩] })) ∧
    (∀ k, s.claimOf s.th.cid = some k →
      (∀ o, (k.st = .idle → headBegins s (exec (.afcal h o) s) e .cal s.claims fun t => t.plane = s.plane) ∧
        (k.st ≠ .idle → ∃ a, headFaults s (exec (.afcal h o) s) e 0x1E a) ∧
        (k.cfg = true → headResolves s (exec (.afrun h o) s) e .done (BitVec.ofNat 64 s.now)
          (claimsWith s { k with
            st := .run, sat := false, sint := 0, latched := [], held := [], calm := 0,
            xi := (List.range (64 * k.np)).map (initialXi k.kept) }) id) ∧
        (k.cfg = false → ∃ a, headFaults s (exec (.afrun h o) s) e 0x1E a) ∧
        headResolves s (exec (.afstop h o) s) e .done 0 (claimsWith s { k with st := if k.st = .run then .hold else k.st }) id ∧
        ((∀ c ∈ s.pool, c.cid ≠ s.th.cid) →
          headLeaves s (exec (.afrel h o) s) e .done 0 (s.claims.filter fun x => x.cid != s.th.cid) (fun c =>
            { c with meters := { c.meters with patch := satAdd c.meters.patch (k.np * ((s.now - k.since) / 1000)) } }) fun t =>
            t.plane = { s.plane with lanes := t.plane.lanes } ∧
            (t.lane 15).next = max (s.lane 15).next ((s.now + 209) / 210) ∧ (t.lane 15).last = (s.lane 15).last ∧
            ∀ l, l ≠ 15 → t.lane l = s.lane l)) ∧
      (∀ o, let a := s.th.regs.gr o.a
        let x := s.th.regs.gs o.b
        (x.toInt < -32 ∨ 31 < x.toInt → headFaults s (exec (.afscale h o) s) e 0x1F x) ∧
        (scaleBad k.np a x = none → ∃ sc, headResolves s (exec (.afscale h o) s) e .done 0 (claimsWith s { k with scales := sc }) id ∧
          ∀ n, ((sc.find? fun y => y.1 == n).map Prod.snd).getD 0 =
            if a.toNat % 4096 ≤ n ∧ n < a.toNat % 4096 + a.toNat / 65536 % 256 then x.toInt
            else ((k.scales.find? fun y => y.1 == n).map Prod.snd).getD 0)) ∧
      (∀ o, k.st = .run → let p := s.th.regs.gr o.a
        (settleBad p = true → headFaults s (exec (.afsettle h o) s) e 0x1F p) ∧
        (settleBad p = false → k.sat = true → headFaults s (exec (.afsettle h o) s) e 0x20 (k.sint.zeroExtend 64)) ∧
        (settleBad p = false → k.sat = false → headBegins s (exec (.afsettle h o) s) e (.settle p)
          (claimsWith s { k with calm := 0 }) fun t => t.plane = s.plane)) ∧
      (∀ o, k.st ≠ .run → ∀ ws, e.work = .fabric (.cfg (s.th.regs.gr o.a) ws) → let i := Instr.afcfg h o
        (tableOver ws = true → ∀ n, cfgError k.np ws (ws.getLast?.any fun w => cfgKind w == 0) = some n →
          headResolves s (exec i s) e .failed (BitVec.ofNat 64 (7 * 2 ^ 48 + n)) s.claims id) ∧
        (tableOver ws = true → cfgError k.np ws (ws.getLast?.any fun w => cfgKind w == 0) = none →
          headResolves s (exec i s) e .done (BitVec.ofNat 64 ws.length)
            (claimsWith s { k with st := .idle, cfg := true, sat := false, sint := 0, latched := [], table := ws }) id) ∧
        (tableOver ws = false → s.io? (.engine s.th.cid 7) e.op = none → ∀ ps,
          s.placeAt s.th.asUnit .read (s.th.regs.gr o.a + BitVec.ofNat 64 (8 * ws.length)) 8 = .ok ps →
          s.absentPart ps = none → startsRead s (exec i s) e ps.length 8) ∧
        (tableOver ws = false → ∀ x, s.io? (.engine s.th.cid 7) e.op = some x → x.reads = 0 → x.bad = none →
          goesTo (exec i s) fun t => memoryKept s t ∧ t.claims = s.claims ∧ t.th.pc = s.th.pc ∧ t.th.status = .parked .fabric ∧
            t.io? (.engine s.th.cid 7) e.op = none ∧ t.th.queue 7 = (s.th.queue 7).map fun y => if y.op == e.op then
              { y with work := .fabric (.cfg (s.th.regs.gr o.a) (ws ++ [BitVec.ofNat 64 (ofBytes (x.buf.take 8))])) } else y)) ∧
      ∀ o, k.st ≠ .idle → let d := s.th.regs.gr o.a
        let n := o.cnt.toNat
        (s.io? (.engine s.th.cid 7) e.op = none → ∀ ps, s.placeAt s.th.asUnit .read (s.th.regs.gr o.b) (2 * n) = .ok ps →
          s.absentPart ps = none → startsRead s (exec (.afsample h o) s) e ps.length (2 * n)) ∧
        ∀ x, s.io? (.engine s.th.cid 7) e.op = some x → x.reads = 0 → x.bad = none →
          let ns := (List.range n).map fun k => ofBytes ((x.buf.drop (2 * k)).take 2)
          (∀ y, sampleBad k.np d ns = some y → headFaults s (exec (.afsample h o) s) e 0x1F y) ∧
          (sampleBad k.np d ns = none → k.sat = true →
            headFaults s (exec (.afsample h o) s) e 0x20 (k.sint.zeroExtend 64)) ∧
          ∀ qs, sampleBad k.np d ns = none → k.sat = false → s.placeAt s.th.asUnit .write d (4 * n) = .ok qs →
            headBegins s (exec (.afsample h o) s) e (.sample d ns (k.sample s.tick s.now ns).1 (k.sample s.tick s.now ns).2 s.now)
              s.claims fun t => t.plane = s.plane ∧ t.tick = s.tick + 1)
/-- The continuous fabric: a fabric instruction places its entry on queue 7 and issues at the head of it, where a claim
in the wrong state and an operand out of range fault, and otherwise the claim and the handle change as the operation
says. Readings of the model: the table is read entry by entry and the handle is PENDING while the entry waits (log 33),
errors are looked for among the entries that no later one replaces (log 32), a scale that is not set is 0 (log 74), the
order of the checks of a sample (log 75), and the patch counter counts whole microseconds (log 54, R373). -/
def Obligations.FabricOperations : Prop := FabricIssue ∧ FabricAtHead

/-! ### Privileged instructions (R299, R300, R326, R332 to R345, R376, R377) -/

/-- A context whose level may not execute a privileged form takes the privilege fault, whatever its predicate. -/
def Sys2Proof.Claims.PrivilegedInstructions : Prop :=
  ∀ h (s : State), (s.th.level ≠ .comb → (∀ o, faults s (exec (.ctxsave h o) s) 0x05 0 0xA200) ∧
      (∀ o, faults s (exec (.ctxload h o) s) 0x05 0 0xA201) ∧ (∀ o, faults s (exec (.mint h o) s) 0x05 0 0xA202) ∧
      (∀ o, faults s (exec (.fret h o) s) 0x05 0 0xA203) ∧ (∀ o, faults s (exec (.tlbwr h o) s) 0x05 0 0xA204) ∧
      ∀ o, faults s (exec (.tlbinv h o) s) 0x05 0 0xA205) ∧
    (s.th.level ≠ .package → ∀ o, faults s (exec (.snap h o) s) 0x05 0 0xA300) ∧
    (s.th.level = .user → ∀ o, faults s (exec (.mseal h o) s) 0x05 0 0xA301)

/-- A context without the level takes the privilege fault: for a privileged state register with its number, for a
privileged instruction, whatever its predicate, with its major and minor. That package firmware, too, takes it for the
instructions of comb firmware is the model's reading (log 39). -/
def Obligations.PrivilegeFaults : Prop := PrivilegedStateRegisters ∧ PrivilegedInstructions

/-- Saving, loading and returning: `ctxsave` and `fret` reject slot 3, a cell that does not exist, an empty slot and a
running context. A save waits until what its context has issued is acknowledged, then stops it and writes its registers to
the save area; what it cannot issue stays with it. A load puts a context whose seal matches into an empty slot, with the
registers of its save area, or, after a fault other than a translation fault, with those of its restart point; a seal that
does not match ends the fault domain. `fret` makes a stopped context ready at its sr.tpc, or leaves it at the barrier that it
has joined, once what it had not issued can be placed; `mint` sends an interrupt message to a user cell. Choices and readings
of the model: the words of the save area (log 15) and its place (log 16), the order of the rejections, a slot in use (1), an
identifier without a saved context (3) and a cell that failed its test (6) at `ctxload` (log 45), the answer 0 of `fret` for a
context that does not wait on its supervisor (log 46), a `mint` that names no cell has no effect (log 47), and what a restart
restores (log 80). -/
def Obligations.ContextsMove : Prop :=
  ∀ h (s : State), predOn h s.th.regs = true → s.th.level = .comb → s.th.status = .running →
    let base := fun (va : Word) => launchPa (combFrame s.th.comb) va.toNat
    (∀ o, rejects s (exec (.ctxsave h o) s) o.a o.slot o.d ∧ ∀ i c, let va := s.th.regs.gr o.b
      o.slot ≠ 3 → cellNamed s o.a = some i → occupant s i o.slot.toNat = some c → c.status ≠ .running →
      c.cid ≠ s.th.cid → s.ctx? c.cid = some c →
      let moved := ∃ r ∈ s.regions, r.xmove ≠ .idle ∧ i ∈ r.map
      (c.mq.outs ≠ [] ∨ c.mq.wcb ≠ [] ∨ (c.mq.iq ≠ [] ∧ c.unplaced = false ∧ s.logHeld c = false) ∨ (∃ f, c.fault = some f ∧ f.posted = false) ∨ s.unfinished c = true ∨ moved →
        waits s (exec (.ctxsave h o) s) .drain) ∧
      (c.wait = none → c.drainMark = none → c.ended = false → c.mq.outs = [] → c.mq.wcb = [] →
        (c.mq.iq = [] ∨ c.unplaced = true ∨ s.logHeld c = true) → (∀ f, c.fault = some f → f.posted = true) →
        s.unfinished c = false → ¬moved → reports s (exec (.ctxsave h o) s) o.d 0 fun t =>
        ctxIs t c.cid (fun d => d.status = .saved ∧ d.saveArea = some va ∧ d.regs = c.regs ∧ d.mq = c.mq) ∧
        wordAt t (base va) = c.cid % 2 ^ 64 ∧
        wordAt t (base va + 0x10) = (if c.fault.isSome then c.sr.tpc else c.pc).toNat ∧
        ∀ k < 64, wordAt t (base va + 0x40 + 8 * k) = (c.regs.g.toList.getD k 0).toNat)) ∧
    (∀ o, (o.slot = 3 → givesG s (exec (.ctxload h o) s) o.d 0 5) ∧
      (o.slot ≠ 3 → cellNamed s o.a = none → givesG s (exec (.ctxload h o) s) o.d 0 6) ∧
      ∀ i, let va := s.th.regs.gr o.b
        let cid := s.areaNum va 0 8
        o.slot ≠ 3 → cellNamed s o.a = some i →
        ((s.cellRec i).isFailed = true → givesG s (exec (.ctxload h o) s) o.d 0 6) ∧
        ((s.cellRec i).isFailed = false → ∀ c, occupant s i o.slot.toNat = some c →
          givesG s (exec (.ctxload h o) s) o.d 0 1) ∧
        ((s.cellRec i).isFailed = false → occupant s i o.slot.toNat = none → s.ctx? cid = none →
          givesG s (exec (.ctxload h o) s) o.d 0 3) ∧
        (∀ c, (s.cellRec i).isFailed = false → occupant s i o.slot.toNat = none → s.ctx? cid = some c →
          (c.status ≠ .saved → givesG s (exec (.ctxload h o) s) o.d 0 3) ∧
          (c.status = .saved → s.sealOk va cid = false ∨ s.ending c = true → s.th.region = none →
            (∀ x ∈ s.pool, x.cid ≠ s.th.cid) → reports s (exec (.ctxload h o) s) o.d 3 fun t =>
              ∀ r, s.regionOf c = some r → ∀ x ∈ t.regions, x.a.domain = r.a.domain → x.phase = .done ∨ x.ending = true)) ∧
        ∀ c, (s.cellRec i).isFailed = false → occupant s i o.slot.toNat = none → s.ctx? cid = some c → c.status = .saved →
          s.sealOk va cid = true → s.ending c = false →
          (s.loadHeld i c o.own o.data = true → givesG s (exec (.ctxload h o) s) o.d 0 4) ∧
          let moved := o.own = true ∧ ∃ r ∈ s.regions, r.xmove ≠ .idle ∧ i ∈ r.map
          let back := fun (d : Ctx) => d.status = .parked .supervisor ∧ d.place = .user i ∧ d.slot = o.slot.toNat ∧
            d.fault = none ∧ d.saveArea = if o.own then none else some va
          (s.loadHeld i c o.own o.data = false → moved → waits s (exec (.ctxload h o) s) .drain) ∧
          (s.loadHeld i c o.own o.data = false → ¬moved →
            ((∀ f, c.fault = some f → f.cause = 0x10) ∨ s.donePoint cid = none → c.mq.iq = [] →
              reports s (exec (.ctxload h o) s) o.d 0 fun t => ctxIs t cid fun d => back d ∧
                d.pc.toNat = s.areaNum va 0x10 8 ∧
                ∀ k < 64, (d.regs.g.toList.getD k 0).toNat = s.areaNum va (0x40 + 8 * k) 8) ∧
            ∀ f p, c.fault = some f → f.cause ≠ 0x10 → s.donePoint cid = some p → p.ctx.wait = none →
              p.ctx.status ≠ .parked .barrier →
              reports s (exec (.ctxload h o) s) o.d 0 fun t => ctxIs t cid fun d => back d ∧ d.regs = p.ctx.regs ∧
                d.pc = p.ctx.pc ∧ d.h = p.ctx.h ∧ d.mat = p.ctx.mat ∧ d.loops = p.ctx.loops ∧ d.openW = p.ctx.openW ∧ d.sr.round = p.ctx.sr.round ∧ d.mq.iq = [] ∧
                d.restarts = c.restarts + 1)) ∧
    (∀ o, (cellNamed s o.a = none → goesOn s (exec (.mint h o) s)) ∧
      ∀ i, cellNamed s o.a = some i → exec (.mint h o) s =
        .next (State.retire { s with net := { s.net with mints := s.net.mints ++ [(⟨i, s.th.regs.gr o.b⟩ : MintMsg)] } })) ∧
    ∀ o, rejects s (exec (.fret h o) s) o.a o.slot o.d ∧ ∀ i c,
      o.slot ≠ 3 → cellNamed s o.a = some i → occupant s i o.slot.toNat = some c → c.status ≠ .running →
      c.cid ≠ s.th.cid → s.ctx? c.cid = some c →
      (∀ f, c.fault = some f → f.posted = false → waits s (exec (.fret h o) s) .drain) ∧
      (c.fault = none → c.status ≠ .parked .supervisor → givesG s (exec (.fret h o) s) o.d 0 0) ∧
      ((∀ f, c.fault = some f → f.posted = true) → c.status = .parked .supervisor → s.ending c = true →
        givesG s (exec (.fret h o) s) o.d 0 0) ∧
      ((∀ f, c.fault = some f → f.posted = true) → c.status = .parked .supervisor → s.ending c = false →
        c.unplaced = true → c.wait = none →
        (∀ e, s.placeOps { c with fault := none } c.mq.iq = .error e →
          reports s (exec (.fret h o) s) o.d 0 fun t => memoryKept s t ∧ ctxIs t c.cid fun d =>
            d = { c.stopOn e s.now with unplaced := true }) ∧
        ∀ ops, s.placeOps { c with fault := none } c.mq.iq = .ok ops →
          (∀ r, s.regionOf c = some r → r.joined = [] ∧ ∀ b ∈ r.bars, b.joined = []) →
          reports s (exec (.fret h o) s) o.d 0 fun t => memoryKept s t ∧ ctxIs t c.cid fun d =>
            d = { c with status := .ready, fault := none, unplaced := false, mq := { c.mq with iq := ops } }) ∧
      ((∀ f, c.fault = some f → f.posted = true) → c.status = .parked .supervisor → s.ending c = false →
        c.unplaced = false → c.wait = none → (∀ r, s.regionOf c = some r → ∀ b ∈ r.bars, b.joined = []) →
        let pc := if c.fault.isSome then c.sr.tpc else c.pc
        ((∀ r, s.regionOf c = some r → r.joined = []) →
          reports s (exec (.fret h o) s) o.d 0 fun t => memoryKept s t ∧ ctxIs t c.cid fun d =>
            d = { c with status := .ready, fault := none, pc := pc, grp := d.grp } ∧ (c.fault.isSome = true → d.grp = none)) ∧
        ∀ r k m, s.regionOf c = some r → c.logical ∈ r.joined → k < r.map.length → k ∉ r.joined → s.member? r k = some m →
          m.ended = false → m.completed = false →
          reports s (exec (.fret h o) s) o.d 0 fun t => memoryKept s t ∧ ctxIs t c.cid fun d =>
            d = { c with status := .parked .barrier, fault := none, pc := pc, grp := d.grp })

/-- TLB instructions: `tlbwr` refuses a bad entry and a stale generation and otherwise puts the entry first in the TLBs it
names, which answers the requests for it; `tlbinv` drops what its kind names from every TLB in reach, counts the
invalidation there, and ends once the accesses that were translated before have been acknowledged. Which accesses those are is
the model's reading (log 35); that an entry answers the requests for its pages is the model's choice (log 82). -/
def Obligations.TlbInstructions : Prop :=
  ∀ h (s : State), predOn h s.th.regs = true → s.th.level = .comb → s.th.status = .running →
    (∀ o, let e : TlbEntry := ⟨s.th.regs.rg o.a, s.th.regs.rg o.b⟩
      let i := s.th.comb * 128 + o.c.toNat
      (o.dest = 3 ∨ entryOk e = false → givesG s (exec (.tlbwr h o) s) o.d 0 7) ∧
      (o.dest ≠ 3 → entryOk e = true → (s.combRec s.th.comb).tlbgen.toNat % 8 ≠ o.gen.toNat →
        givesG s (exec (.tlbwr h o) s) o.d 0 8) ∧
      (o.dest ≠ 3 → entryOk e = true → (s.combRec s.th.comb).tlbgen.toNat % 8 = o.gen.toNat →
        reports s (exec (.tlbwr h o) s) o.d 0 fun t => memoryKept s t ∧
          (t.combRec s.th.comb).tlb = (if o.dest = 1 then (s.combRec s.th.comb).tlb else
            tlbPut 1024 e (s.combRec s.th.comb).tlb) ∧
          (t.combRec s.th.comb).asks = (s.combRec s.th.comb).asks.filter (fun a =>
            !(a.1 == e.asid && e.base ≤ a.2 * 65536 && a.2 * 65536 < e.base + e.bytes)) ∧
          (t.cellRec i).tlb = (if o.dest = 0 then (s.cellRec i).tlb else tlbPut 64 e (s.cellRec i).tlb) ∧
          ∀ j, j ≠ i → t.cellRec j = s.cellRec j)) ∧
    ∀ o, let asid := (s.th.regs.rg o.b).toNat % 65536
      let va := (s.th.regs.rg o.a).toNat
      let hit := fun (e : TlbEntry) => match o.kind.toNat with
        | 0 => e.asid == asid && e.base ≤ va && va < e.base + e.bytes
        | 1 => e.asid == asid
        | _ => true
      let near := fun (k : CombId) => if o.reach = 0 then k = s.th.comb else combFrame k = combFrame s.th.comb
      (o.kind = 3 ∨ 2 ≤ o.reach.toNat → givesG s (exec (.tlbinv h o) s) o.d 0 7) ∧
      (∀ id bs, o.kind ≠ 3 → o.reach.toNat < 2 → s.th.invOpen = some (id, bs) →
        (s.invOver bs = false → waits s (exec (.tlbinv h o) s) .drain) ∧
        (s.invOver bs = true → reports s (exec (.tlbinv h o) s) o.d 0 fun t => memoryKept s t ∧ t.combs = s.combs ∧
          t.cells = s.cells ∧ t.th.pend = s.th.pend.filter fun p => p.id != id)) ∧
      (o.kind ≠ 3 → o.reach.toNat < 2 → s.th.invOpen = none →
        (∀ c ∈ s.ctxs, c.mq.iq = [] ∧ c.mq.outs = [] ∧ c.mq.wcb = [] ∧ s.enginesAway c = false) →
        reports s (exec (.tlbinv h o) s) o.d 0 fun t => memoryKept s t ∧
          (∀ k < 512, t.combRec k = if near k then { s.combRec k with
            tlb := (s.combRec k).tlb.filter fun e => !hit e, tlbgen := (s.combRec k).tlbgen + 1 } else s.combRec k) ∧
          ∀ i, (t.cellRec i).tlb = if near (cellComb i) then (s.cellRec i).tlb.filter fun e => !hit e
            else (s.cellRec i).tlb)

/-- `snap` arms the next snapshot and waits for its number, or reports that one is under way; `mseal` writes the sealed
meter block of a context to 256 bytes, or rejects an unknown context or an address that is no multiple of 256; that it looks
for the context first is the model's reading (log 47), and so is the place of the block, in the stack of the frame
(log 16). -/
def Obligations.SnapshotsAndSeals : Prop :=
  ∀ h (s : State), predOn h s.th.regs = true → s.th.status = .running →
    (s.th.level = .package → ∀ o,
      (s.power.snapHeld = true ∨ s.power.snapArmed ≠ none → givesG s (exec (.snap h o) s) o.d 0 0xFFFFFFFF) ∧
      (s.power.snapHeld = false → s.power.snapArmed = none → goesTo (exec (.snap h o) s) fun t => memoryKept s t ∧
        advances s t ∧ t.th.regs = s.th.regs ∧ t.power = { s.power with snapArmed := some (s.th.cid, s.th.mq.next, (s.now / 1024 + 1) * 1024) } ∧
        t.th.pend = s.th.pend ++ [⟨s.th.mq.next, s.th.pc, .g o.d .d, 1, List.replicate 8 0, false⟩])) ∧
    (s.th.level ≠ .user → ∀ o, let va := s.th.regs.gr o.b
      let cid := (s.th.regs.gr o.a).toNat
      let pa := launchPa (combFrame s.th.comb) va.toNat
      (s.blockOf cid = none → givesG s (exec (.mseal h o) s) o.d 0 1) ∧
      ∀ ws, s.blockOf cid = some ws → ws.length = 15 →
        (va.toNat % 256 ≠ 0 → givesG s (exec (.mseal h o) s) o.d 0 2) ∧
        (va.toNat % 256 = 0 → reports s (exec (.mseal h o) s) o.d 0 fun t =>
          (∀ k < 15, wordAt t (pa + 8 * k) = (ws.getD k 0).toNat) ∧ (∀ k < 16, wordAt t (pa + 120 + 8 * k) = 0) ∧
          wordAt t (pa + 248) = (Config.meterSeal cid ws).toNat ∧
          ∀ x, x < pa ∨ pa + 256 ≤ x → t.byteAt x = s.byteAt x))
/-! ### Engines, fabric and plane (R97 to R99, R136 to R138, R148 to R155) -/

/-- Engine entries begin, resolve and end: the oldest entry of a queue begins once the earlier operations of its context
are acknowledged, a queue fence leaves when it heads every queue it names, and the end of an entry resolves the handle
that holds its operation; a claim calibrates, saturates, and settles or times out. The states that a calibration leaves are
free values, and sat, sint and the settle are judged on the programmed states and summers: the model's choice (log 85). -/
def Obligations.EngineEvents : Prop :=
  ∀ (s : State) cid c, s.ctx? cid = some c →
    (∀ q e es, c.queue q = e :: es → c.resident = true → e.course = .waiting →
      ((∀ id m, e.work ≠ .fence id m) → (∀ o, e.work ≠ .coll o) → (∀ o, e.work ≠ .fabric o) →
        (c.ackedBelow e.seq = true → goesTo (exec (.evEngineEntryBegin cid q) s) fun t => memoryKept s t ∧
          ctxIs t cid fun d => d.queue q = courseOf (c.queue q) e.op .begun ∧ d.regs = c.regs ∧ d.h = c.h) ∧
        (c.ackedBelow e.seq = false → exec (.evEngineEntryBegin cid q) s = .next s)) ∧
      ∀ id m, e.work = .fence id m → c.fenceOver id m = true → goesTo (exec (.evEngineEntryBegin cid q) s) fun t =>
        memoryKept s t ∧ ctxIs t cid fun d => d.queue q = (c.queue q).filter fun x => match x.work with
          | .fence i _ => i != id
          | _ => true) ∧
    (∀ q e st res det, q < 8 → s.lingers c = false → s.lingers s.th = false →
      (c.queue q).find? (fun x => x.outcome.isSome) = some e → e.course = .done st res det →
      goesTo (exec (.evHandleResolve cid q) s) fun t => ctxIs t cid fun d =>
        d.queue q = (c.queue q).filter (fun x => x.op != e.op) ∧ d.regs = c.regs ∧
        ∀ i : BitVec 4, d.h.get i.toFin = if (c.h.get i.toFin).st = .pending ∧ (c.h.get i.toFin).op = e.op then
          ⟨st, res, det, e.op, !e.isSample⟩ else c.h.get i.toFin) ∧
    (∀ e es k, c.queue 7 = e :: es → e.course = .begun → s.claimOf cid = some k →
      (e.work = .fabric .cal → goesTo (exec (.evAfcalComplete cid) s) fun t =>
        fabricEnds s t cid e.op .done 0 (claimsWith s { k with
          cal := true, calib := s.tick, xi := (List.range (64 * k.np)).map (Config.looseState s.tick) })) ∧
      (∀ p, e.work = .fabric (.settle p) → k.st = .run → k.sat = false → settleHold p * 10 ≤ k.calm →
        s.now ≤ e.since + settleT p * 1000 → goesTo (exec (.evFabricSettleDone cid) s) fun t =>
          fabricEnds s t cid e.op .done (BitVec.ofNat 64 s.now) s.claims) ∧
      (∀ p, e.work = .fabric (.settle p) → e.since + settleT p * 1000 ≤ s.now →
        goesTo (exec (.evFabricSettleTimeout cid) s) fun t =>
          fabricEnds s t cid e.op .failed (BitVec.ofNat 64 (8 * 2 ^ 48)) s.claims) ∧
      ∀ p n, e.work = .fabric (.settle p) → k.st = .run → n < 64 * k.np → passes s k n →
        goesTo (exec (.evFabricSaturation cid n) s) fun t => fabricEnds s t cid e.op .failed
          (BitVec.ofNat 64 (9 * 2 ^ 48 + if k.sat then min k.sint.toNat n else n)) (claimsWith s (saturated k n))) ∧
    (∀ k n, c.queue 7 = [] → s.claimOf cid = some k → k.st = .run → n < 64 * k.np →
      (passes s k n → exec (.evFabricSaturation cid n) s = .next { s with claims := claimsWith s (saturated k n) }) ∧
      (¬passes s k n → exec (.evFabricSaturation cid n) s = .next s)) ∧
    ∀ e es key lane id, c.queue 6 = e :: es → e.course = .begun → e.work = .contend key lane id →
      (∀ x ∈ s.plane.cands, x.op ≠ e.op) →
      ((s.regionOf c).bind Region.slot = none → exec (.evContendRegister cid) s = .next s) ∧
      ∀ slot, (s.regionOf c).bind Region.slot = some slot → exec (.evContendRegister cid) s = .next { s with
        plane := { s.plane with cands := s.plane.cands ++ [⟨lane.toNat, slot * 256 + id.toNat, key, combFrame c.comb,
          c.logical, cid, e.op, s.now, false, 0⟩] } }

/-- A contest on a lane: none runs while none is due; the first that is due takes the identifier with the greatest header
code of those that it finds, and of its candidates one that no other beats; the result is due 210 ns after it began. Results
reach the programs that contended, and the winner of lane 15 receives its patches. -/
def Obligations.Contests : Prop :=
  ∀ (s : State) l, let lane := s.lane l
    (s.dueContest l = none → exec (.evWaggleContest l) s = .next s) ∧
    (∀ q cs, l < 16 → s.dueContest l = some (q, cs) →
      (lane.next ≤ q ∧ 210 * q ≤ s.now ∧ (∀ x ∈ s.plane.cands, s.enters l x = true → q ≤ max lane.next (x.time / 210 + 1))) ∧
      goesTo (exec (.evWaggleContest l) s) fun t => planeOnly s t ∧ ∃ w ∈ cs,
        cs = (s.plane.cands.filter fun x => s.enters l x && decide (x.time < 210 * q) && x.id == w.id) ∧
        (∀ x ∈ s.plane.cands, s.enters l x = true → x.time < 210 * q →
          contestCode lane.last x.id ≤ contestCode lane.last w.id) ∧ (∀ x ∈ cs, Cand.beats x w = false) ∧
        t.lane l = { lane with last := w.id, next := q + 1 } ∧ t.plane.results = s.plane.results ++
          [⟨l, w.id, w.key, w.die, w.logical, w.cid, if l = 15 then [w] else cs, 210 * q + 210⟩]) ∧
    (∀ a b, Cand.beats a b = true ↔ b.key.toNat < a.key.toNat ∨ (a.key = b.key ∧ (b.die < a.die ∨ (a.die = b.die ∧
      (a.logical < b.logical ∨ (a.logical = b.logical ∧ a.time < b.time)))))) ∧
    ∀ r x, s.plane.results.find? (fun y => y.lane == l && y.due ≤ s.now) = some r → r.cands = [x] →
      ∀ c e es, s.ctx? x.cid = some c →
        (l ≠ 15 → c.queue 6 = e :: es → e.op = x.op → (∃ k l i, e.work = .contend k l i) →
          goesTo (exec (.evContestResult l) s) fun t => planeOnly s t ∧ ctxIs t x.cid fun d =>
            d.queue 6 = courseOf (c.queue 6) e.op (.done .done r.key
              (BitVec.ofNat 64 ((if x.cid = r.winner then 2 ^ 63 else 0) + r.die * 2 ^ 32 + r.logical)))) ∧
        (l = 15 → c.queue 7 = e :: es → e.op = x.op → e.course = .begun → (∃ d n, e.work = .fabric (.claim d n)) →
          goesTo (exec (.evContestResult l) s) fun t => planeOnly s t ∧
            t.claims = s.claims ++ [⟨x.cid, x.id - 0xCF0, x.np, .idle, false, false, false, 0, [], [], s.now, [], [], [], 0, 0⟩] ∧
            ctxIs t x.cid fun d => d.queue 7 = courseOf (c.queue 7) e.op
              (.done .done (BitVec.ofNat 64 ((x.id - 0xCF0) * 2 ^ 16 + x.np)) 0))

/-! ### Regions (R29 to R47, R53) -/

/-- A cell that has ended completes once none of its handles is PENDING, its writes have been acknowledged and no zero-length
read is owed; the last one ends the region's own cells, and no context of them stays but one whose engines have work. A child
launches on its cells, or ends without running when its RCB is malformed. A running context yields its cell after a time
slice. -/
def Obligations.CellsAndChildren : Prop :=
  ∀ (s : State),
    (∀ cid c, s.ctx? cid = some c → c.ended = true → c.completed = false →
      ((∃ i : BitVec 4, (c.h.get i.toFin).st = .pending) ∨ c.drained = false ∨ c.mq.eps ≠ [] →
        exec (.evCellComplete cid) s = .next s) ∧
      ((∀ i : BitVec 4, (c.h.get i.toFin).st ≠ .pending) → c.drained = true → c.mq.eps = [] → (c.region = none → exec (.evCellComplete cid) s =
          .next (s.updCtx cid fun c => { c with completed := true })) ∧
        ∀ id r, c.region = some id → s.region? (some id) = some r →
          let st := if c.restarts = 0 then CStatus.ok else .restarted
          let r' := { r with doneCells := r.doneCells ++ [c.logical], status := r.status.worst st }.report
          (r'.allReported = false → goesTo (exec (.evCellComplete cid) s) fun t => memoryKept s t ∧
            regionIs t id (fun x => x = r') ∧ ctxIs t cid fun d => d = { c with completed := true }) ∧
          (r'.allReported = true → goesTo (exec (.evCellComplete cid) s) fun t => ∀ d ∈ t.ctxs, d.region = some id →
            ∃ x ∈ s.ctxs, x.cid = d.cid ∧ s.enginesIdle x = false))) ∧
    (∀ rid cells r, s.region? (some rid) = some r → r.phase = .children → r.nextKid < r.kids →
      let e := s.launchNum r.home ((s.readRcb r.home r.rcb.toNat).fld 8 0 56 + 8 * r.nextKid) 8
      (e / 2 ^ 63 % 2 = 0 → s.childrenOf rid ≠ [] → exec (.evChildLaunch rid cells) s = .next s) ∧
      ((e / 2 ^ 63 % 2 = 1 ∨ s.childrenOf rid = []) →
        let p := s.plan r.home (e % 2 ^ 56) r.a false
        (p.ok = false → exec (.evChildLaunch rid cells) s = .next (s.childOver r (e % 2 ^ 56) .failed)) ∧
        (p.ok = true → p.childOver r = true →
          exec (.evChildLaunch rid cells) s = .next (s.childOver r (e % 2 ^ 56) .budget)) ∧
        (p.ok = true → p.childOver r = false → (p.own = 0 → p.rcb.kids = 0 →
          exec (.evChildLaunch rid cells) s = .next (s.childOver r (e % 2 ^ 56) .ok)) ∧
          (p.own ≠ 0 → p.fits (s.freeOf r).contains cells = true → p.a.vault ≤ s.vaultFree r →
            goesTo (exec (.evChildLaunch rid cells) s) fun t => memoryKept s t ∧ t.th = s.th ∧
              t.pool.take s.pool.length = s.pool ∧ (∃ x, t.regions[s.regions.length]? = some x ∧ x.parent = some rid ∧
                x.map = cells ∧ x.phase = (if cells = [] then .children else .own) ∧ x.a = { p.a with domain := x.a.domain } ∧
                (p.a.nested = false → x.a.domain = r.a.domain)) ∧
              t.pool.length = s.pool.length + cells.length ∧ ∀ (k : Nat) i, cells[k]? = some i →
                ∃ d, t.pool[s.pool.length + k]? = some d ∧ d.place = .user i ∧ d.status = .ready ∧ d.level = .user ∧
                  d.pc = BitVec.ofNat 64 p.rcb.entry ∧ d.asid = r.asid ∧
                  d.sr.lcell = BitVec.ofNat 64 ((p.a.cells - 1) * 65536 + k) ∧ d.regs.rm 1 = 0xFFFFFFFF ∧
                  (t.cellRec i).owner.isSome = true)))) ∧
    ∀ i a b, (s.onCell i).find? (fun c => c.status == .running) = some a →
      (s.onCell i).find? (fun c => c.status == .ready && !c.ended && !s.heldBack c) = some b →
      (s.cyclesIn (cellFrame i) (s.now - a.since) < 65536 ∨ s.stopped (cellFrame i) = true →
        exec (.evContextTimeslice i) s = .next s) ∧
      (65536 ≤ s.cyclesIn (cellFrame i) (s.now - a.since) → s.stopped (cellFrame i) = false → exec (.evContextTimeslice i) s = .next
        ((s.updCtx a.cid fun c => { c with status := .ready }).updCtx b.cid fun c =>
          { c with status := .running, since := s.now }))

/-- A transfer of an exchange begins at its slot, once the data areas of its cells are in place; it reads its source, writes
what it has read to its destination, and is over once its writes have been acknowledged; after the last one the next compute
phase begins, if every member waits for it. A round edge records a restart point of a context that owes nothing and that no
fault has stopped and, without input channels, enters the round (from when the period is measured, and that a stopped context
starts no edge, are the model's choices, log 69); a marker leaves the network, and starts or completes the edge of its round;
the forager token counts passes, one as each of its rounds starts (the model's reading, log 51), and finds the region
terminated after a clean round of passive cells. -/
def Obligations.ExchangesRoundsAndToken : Prop :=
  ∀ (s : State) rid r, s.region? (some rid) = some r →
    (∀ t0 x, let xs := r.exchange (s.superstepOf r)
      let m := r.mover x
      let srcs := xferParts r x.srcCell x.srcVault x.srcOff x.len
      let dsts := xferParts r x.dstCell x.dstVault x.dstOff x.len
      let ready := s.dataReady r x.srcCell x.srcVault && s.dataReady r x.dstCell x.dstVault
      let moves := fun (k : XMove) (P : State → Prop) => goesTo (exec (.evExchangeTransfer rid) s) fun t =>
        memoryKept s t ∧ t.th.regs = s.th.regs ∧ regionIs t rid (fun y => y = { r with xmove := k }) ∧ P t
      r.closed = some t0 → xs[r.xpos]? = some x →
      (s.now < t0 + 32 * x.slot → exec (.evExchangeTransfer rid) s = .next s) ∧
      (t0 + 32 * x.slot ≤ s.now →
        (r.xmove = .idle → ready = false → exec (.evExchangeTransfer rid) s = .next s) ∧
        (r.xmove = .idle → ready = true → s.io? m 0 = none → moves .reading fun t =>
          t.io? m 0 = some ⟨m, 0, List.replicate x.len 0, srcs.length, 0, none⟩ ∧
          t.net.ch = s.net.ch ++ srcs.map fun p =>
            ⟨m, ⟨0, p.1.home, p.1.pa, BitVec.ofNat 64 p.1.va, ⟨false, none⟩, .load 0 p.2 p.1.len [], false, []⟩⟩) ∧
        (∀ w, r.xmove = .reading → s.io? m 0 = some w → w.reads = 0 → moves .writing fun t =>
          t.net.ch = s.net.ch ++ dsts.map fun p => ⟨m, ⟨0, p.1.home, p.1.pa, BitVec.ofNat 64 p.1.va, ⟨false, none⟩,
            .store (((w.buf.drop p.2).take p.1.len).map some), false, []⟩⟩) ∧
        (r.xmove = .writing → s.ioOver m 0 = true → r.a.free = false → r.joined ≠ [] →
          (r.xpos + 1 < xs.length → goesTo (exec (.evExchangeTransfer rid) s) fun t => memoryKept s t ∧ t.th = s.th ∧
            regionIs t rid fun y => y = { r with xmove := .idle, xpos := r.xpos + 1 }) ∧
          (r.xpos + 1 = xs.length → (∀ k < r.map.length, k ∈ r.joined ∧ s.joinHere r k = true) →
            goesTo (exec (.evExchangeTransfer rid) s) fun t => memoryKept s t ∧
              regionIs t rid fun y => y = { r with joined := [], closed := none, xpos := 0, xmove := .idle })))) ∧
    (∀ cid c, s.ctx? cid = some c → s.regionOf c = some r → r.a.rounds = true → c.completed = false → s.edge? cid = none →
      (s.now < c.roundAt + r.a.period ∨ c.resident = false ∨ c.fault ≠ none ∨ c.drained = false →
        exec (.evRoundTimerExpiry cid) s = .next s) ∧
      (c.roundAt + r.a.period ≤ s.now → c.recordable = true → goesTo (exec (.evRoundTimerExpiry cid) s) fun t => memoryKept s t ∧
        (∃ p, t.points.getLast? = some p ∧ p.ctx = (if r.inputs c.logical = [] then
            { c with sr := { c.sr with round := BitVec.ofNat 64 (c.sr.round.toNat + 1) } } else c) ∧ p.carve = s.carveOut c ∧ p.round = c.sr.round.toNat + 1 ∧
          p.done = (r.inputs c.logical).isEmpty) ∧
        ctxIs t cid fun d => d.regs = c.regs ∧ d.mq.iq.length = c.mq.iq.length + (r.outputs c.logical).length ∧
          d.sr.round = if r.inputs c.logical = [] then BitVec.ofNat 64 (c.sr.round.toNat + 1) else c.sr.round)) ∧
    (∀ cid src c f n, s.ctx? cid = some c → s.markerAt cid src = some (f, n) → s.regionOf c = some r →
      c.resident = true → c.completed = false → src ∈ r.inputs c.logical →
      let leaves := fun (t : State) => memoryKept s t ∧ t.net.aq.length + 1 = s.net.aq.length ∧
        t.net.replies.length = s.net.replies.length + 1
      (n ≤ c.sr.round.toNat → goesTo (exec (.evRoundMarkerArrival cid src) s) fun t => leaves t ∧ t.points = s.points ∧
        t.th = s.th ∧ t.pool = s.pool) ∧
      (c.sr.round.toNat + 1 = n → s.edge? cid = none → c.recordable = false →
        exec (.evRoundMarkerArrival cid src) s = .next s) ∧
      (c.sr.round.toNat + 1 = n → s.edge? cid ≠ none ∨ c.recordable = true →
        goesTo (exec (.evRoundMarkerArrival cid src) s) fun t => leaves t ∧ ∃ p ∈ t.points, p.ctx.cid = cid ∧
          src ∈ p.marked ∧ (p.done = true ↔ ∀ k ∈ r.inputs c.logical, k ∈ p.marked))) ∧
    (r.a.free = true → r.phase = .own → r.terminated = false → r.ctxs ≠ [] →
      (s.passive r r.token.pos = false → exec (.evTokenPass rid) s = .next s) ∧
      (s.passive r r.token.pos = true → r.token.started = false → goesTo (exec (.evTokenPass rid) s) fun t =>
        memoryKept s t ∧ t.th = s.th ∧ t.pool = s.pool ∧
        regionIs t rid fun y => y = { r with token := ⟨1 % r.ctxs.length, false, 0, r.token.pass + 1, true⟩ }) ∧
      (∀ c, s.passive r r.token.pos = true → r.token.started = true → s.member? r r.token.pos = some c →
        let mark := r.token.mark || c.mail.flag
        let sum := (BitVec.ofInt 64 (r.token.balance + (c.mail.sent - c.mail.received).toInt)).toInt
        goesTo (exec (.evTokenPass rid) s) fun t => memoryKept s t ∧
          regionIs t rid fun y => (r.token.pos ≠ 0 → y = { r with token := { r.token with
              pos := (r.token.pos + 1) % r.ctxs.length, mark := mark, balance := sum } }) ∧
            (r.token.pos = 0 → y.token = ⟨0, mark, sum, r.token.pass, false⟩ ∧
              y.terminated = decide (mark = false ∧ sum = 0))))

/-! ### Supervision (R52, R57, R124, R329 to R337) -/

/-- Interrupt messages, cell errors and fault records: a message stops the contexts it names at their supervisor, and one
that stops a cell after a contained fault seals it; a cell error is a fault of its context; a record is posted word by word
to the service cell of its kind once the operations of its context are acknowledged; writing sr.fqtail consumes records; a
closed FP window leaves its region, and the loss of a context ends its fault domain: every context of it stops, and its regions
are over once what they have sent has been acknowledged. Readings of the model: which contexts a message stops and seals
(log 47), the place of a record's ring in the stack of its frame (log 16), what ends a domain (log 48), and when an FP window
has closed (log 52). -/
def Obligations.Supervision : Prop :=
  ∀ (s : State),
    (∀ n m, s.net.mints[n]? = some m →
      let seated := fun (c : Ctx) => (c.status = .running ∨ c.status = .parked .drain) ∧ c.ended = false ∧ s.heldBack c = false
      let hit := fun (c : Ctx) => c ∈ s.onCell m.target ∧ (m.reason = 0 → seated c)
      (s.stopped (cellFrame m.target) = true ∨ (∃ c, hit c ∧ s.unfinished c = true) →
        exec (.evMintArrival n) s = .next s) ∧
      (s.stopped (cellFrame m.target) = false → (∀ c, hit c → s.unfinished c = false) → goesTo (exec (.evMintArrival n) s) fun t => memoryKept s t ∧
        t.net.mints = s.net.mints.take n ++ s.net.mints.drop (n + 1) ∧
        (∀ c, hit c → c.fault = none → c.ended = false → ctxIs t c.cid fun d => d.status = .parked .supervisor) ∧
        ((∃ c ∈ s.onCell m.target, ∃ f, c.fault = some f ∧ f.cause ∈ ([0x03, 0x13, 0x23] : List (BitVec 16))) →
          m.reason ≠ 0 → (t.cellRec m.target).isSealed = true))) ∧
    (∀ cid c, s.ctx? cid = some c → c.fault = none → c.ended = false → c.resident = true → c.cell? ≠ none →
      ∃ a, goesTo (exec (.evCellError cid) s) fun t => memoryKept s t ∧ ctxIs t cid fun d => stoppedCtx c d s.now 0x23 0 a) ∧
    (∀ cid c f, s.ctx? cid = some c → c.fault = some f →
      let sv := fun (u : State) => if f.cause = 0x10 then (u.combRec c.comb).trans else (u.combRec c.comb).sup
      let pa := paHbm (combFrame c.comb) (((sv s).fqbase.toNat + (sv s).fqhead.toNat * 32) % 2 ^ 36)
      let sent := c.mq.outs = [] ∧ c.mq.wcb = [] ∧ (c.mq.iq = [] ∨ c.unplaced = true)
      (f.posted = true ∨ ¬sent ∨ 256 ≤ (sv s).fqcount → exec (.evFaultRecordPost cid) s = .next s) ∧
      (f.posted = false → sent → (sv s).fqcount < 256 → goesTo (exec (.evFaultRecordPost cid) s) fun t =>
        ctxIs t cid (fun d => d = { c with fault := some { f with posted := true } }) ∧
        (sv t).fqhead = (sv s).fqhead + 1 ∧ (sv t).fqcount = (sv s).fqcount + 1 ∧
        wordAt t pa = f.cause.toNat * 2 ^ 48 + f.detail.toNat * 2 ^ 32 + c.slot % 4 * 2 ^ 24 + cellIdx c.cell ∧
        wordAt t (pa + 8) = f.pc.toNat ∧ wordAt t (pa + 16) = f.addr.toNat ∧ wordAt t (pa + 24) = f.time % 2 ^ 64 ∧
        ∀ x, x < pa ∨ pa + 32 ≤ x → t.byteAt x = s.byteAt x)) ∧
    (∀ k v, exec (.evFqtailWrite k false v) s = .next (s.setComb { s.combRec k with sup := { (s.combRec k).sup with
        fqtail := v.extractLsb' 0 8,
        fqcount := (s.combRec k).sup.fqcount - (v.extractLsb' 0 8 - (s.combRec k).sup.fqtail).toNat } }) ∧
      exec (.evFqtailWrite k true v) s = .next (s.setComb { s.combRec k with trans := { (s.combRec k).trans with
        fqtail := v.extractLsb' 0 8,
        fqcount := (s.combRec k).trans.fqcount - (v.extractLsb' 0 8 - (s.combRec k).trans.fqtail).toNat } })) ∧
    (∀ rid r e, s.region? (some rid) = some r → e ∈ r.fpEvents → (∀ x ∈ r.fpEvents, e.key.toNat ≤ x.key.toNat) →
      let w := e.key.toNat / 65536
      (s.fpClosed r w = false → exec (.evFpWindowClose rid) s = .next s) ∧
      (s.fpClosed r w = true → goesTo (exec (.evFpWindowClose rid) s) fun t => t.th = s.th ∧ t.pool = s.pool ∧
        regionIs t rid fun y => y = { r with
          fpEvents := r.fpEvents.filter fun x => x.key.toNat / 65536 != w,
          fpWindow := if r.fpWindow = 0 then w + 1 else r.fpWindow, logCount := y.logCount })) ∧
    (∀ r c, s.lost r c = true ↔ (∃ i, c.cell? = some i ∧ (s.cellRec i).isFailed = true) ∨
      ∃ f, c.fault = some f ∧ f.posted = true ∧ f.cause ≠ 0x10 ∧
        (r.a.limit ≤ c.restarts ∨ ∀ p ∈ s.points, p.ctx.cid = c.cid → p.done = false)) ∧
    ∀ dom, let mine := fun (c : Ctx) (r : Region) => c ∈ s.ctxs ∧ s.regionOf c = some r ∧ r.a.domain = dom
      let gone := ∃ r ∈ s.regions, r.a.domain = dom ∧ r.ending = true
      (¬gone → (∀ c r, mine c r → s.lost r c = false) → exec (.evFaultDomainEnd dom) s = .next s) ∧
      (¬gone → (∃ c r, mine c r ∧ s.lost r c = true) → goesTo (exec (.evFaultDomainEnd dom) s) fun t => memoryKept s t ∧
        (∀ x ∈ t.regions, x.a.domain = dom → x.phase = .done ∨ x.ending = true) ∧
        ∀ c r, mine c r → r.phase ≠ .done → s.ctx? c.cid = some c → ctxIs t c.cid fun d => d.mq.iq = [] ∧ d.grp = none ∧
          (∀ q < 8, d.queue q = []) ∧ (c.resident = true → d.status = .parked .supervisor)) ∧
      (gone → (∃ c r, mine c r ∧ s.quiet c = false) → exec (.evFaultDomainEnd dom) s = .next s) ∧
      (gone → (∀ c r, mine c r → s.quiet c = true) → goesTo (exec (.evFaultDomainEnd dom) s) fun t =>
        ∀ r, s.region? (some r.id) = some r → r.a.domain = dom → r.phase = .own → ∀ d ∈ t.ctxs, d.region ≠ some r.id)

/-! ### The swarm sequencer (R156 to R165, R364, R365) -/

/-- Numbers of collectives: a registration is bound to the next number, a member that receives the binding holds it, a
member starts, once every member holds the binding (the model's reading, log 89), with the reads of its source, and its
contribution arrives when they have been answered, unless its link is down or the switch takes no more; a number is retired by
its time, a member's cancel or a failed switch. Choices of the model: the bytes that a member of another package sends are
free values (log 44), and so are its registrations, its cancels and its failures (log 90), and which Valtia Link a contribution
takes (log 97). -/
def Obligations.CollectiveNumbers : Prop :=
  ∀ (s : State),
    (∀ g r, (∀ k < g.d.members.length, g.here k = true) → s.swarm.regs.find? (fun r => r.group == g.d.id && r.sent &&
        !(s.swarm.binds.any fun b => b.group == g.d.id && b.k == r.k)) = some r →
      s.firstReg g = some (r.k, r.c, r.count, r.root)) ∧
    (∀ g k c n root, s.firstReg g = some (k, c, n, root) → (∃ x < g.d.members.length, g.here x = false) →
      let bound := fun (k : Nat) => ∃ b ∈ s.swarm.binds, b.group = g.d.id ∧ b.k = k
      (∀ r ∈ s.swarm.regs, r.group = g.d.id → r.sent = true → bound r.k) → ¬bound k ∧ ∀ j < k, bound j) ∧
    (∀ gid g k c n root, s.group? gid = some g → s.firstReg g = some (k, c, n, root) → s.swarm.standbys ≠ [] →
      s.inWindow = true → goesTo (exec (.evSequencerBind gid) s) fun t =>
        t = { s with swarm := t.swarm, tick := s.tick + 1 } ∧ t.swarm.next = (s.swarm.next + 1) % 2 ^ 48 ∧
        t.swarm.regs = s.swarm.regs ∧ t.swarm.binds = s.swarm.binds ++
          [⟨s.swarm.next, gid, k, c, n, root, s.now, g.d.members.map s.prevOf, [], [], [], [], none, [],
            s.swarm.regs.any fun r => r.group == gid && r.k == k && r.cancel, [], 0⟩]) ∧
    ∀ num b, s.binding? num = some b →
      (∀ rank g, s.group? b.group = some g → rank < g.d.members.length → rank ∉ b.received →
        goesTo (exec (.evBindingReceive num rank) s) fun t => memoryKept s t ∧ t.th.regs = s.th.regs ∧
          bindingIs t num fun x => x.received = b.received ++ [rank]) ∧
      (∀ rank g, s.group? b.group = some g →
        (s.mayStart g b rank = true → b.retired = false ∧ rank ∉ b.started ∧ ∀ k < g.d.members.length, k ∈ b.received) ∧
        (s.mayStart g b rank = false → exec (.evCollectiveStart num rank) s = .next s) ∧
        (s.mayStart g b rank = true → g.here rank = false → exec (.evCollectiveStart num rank) s =
          .next (s.setBinding { b with started := b.started ++ [rank] })) ∧
        (∀ r c ps, s.mayStart g b rank = true → g.here rank = true → s.regOf b rank = some r → s.ctx? r.cid = some c →
          let n := b.sends g.d.members.length rank
          s.collParts c .read b.c.ty r.src n = .ok ps →
          s.absentPart (ps.map Prod.fst) = none → s.io? (.engine r.cid (8 + num)) r.op = none →
          goesTo (exec (.evCollectiveStart num rank) s) fun t => memoryKept s t ∧ t.th.regs = s.th.regs ∧
            bindingIs t num (fun x => x = { b with started := b.started ++ [rank] }) ∧
            t.io? (.engine r.cid (8 + num)) r.op =
              some ⟨.engine r.cid (8 + num), r.op, List.replicate (collBytes b.c.ty n) 0, ps.length, 0, none⟩)) ∧
      (∀ rank g, s.group? b.group = some g → b.retired = false → rank ∉ b.arrived → rank ∈ b.started →
        let linked := b.inSwitch = true ∨ ∃ k < g.d.members.length, g.here k = false
        let cut := linked ∧ (s.link (6 + Config.collLink b.num rank % 24)).up = false
        let late := b.inSwitch = true ∧ ∃ t0, b.firstAt = some t0 ∧ t0 + s.tgOf b ≤ s.now
        let arrives := fun (bs : List Byte) => goesTo (exec (.evContributionArrival num rank) s) fun t =>
          t = { s with swarm := t.swarm, net := t.net } ∧ t.net = { s.net with ios := t.net.ios } ∧
          bindingIs t num fun x => x = { b with
            contribs := b.contribs ++ [(rank, bs)], arrived := b.arrived ++ [rank],
            firstAt := if b.firstAt.isSome then b.firstAt else some s.now }
        (cut ∨ late → exec (.evContributionArrival num rank) s = .next s) ∧
        (g.here rank = false → ¬cut → ¬late → arrives ((List.range (collBytes b.c.ty
          (b.sends g.d.members.length rank))).map (Config.remoteByte num rank))) ∧
        ∀ r w, g.here rank = true → ¬cut → ¬late → s.regOf b rank = some r → s.io? (.engine r.cid (8 + num)) r.op = some w → w.reads = 0 →
          w.bad = none → arrives w.buf) ∧
      (s.swarm.binds.find? (fun x => !s.finished x && x.time + s.tgOf x ≤ s.now) = some b → b.written = [] →
        goesTo (exec (.evTgTimeout num) s) fun t => t = { s with swarm := t.swarm } ∧
          bindingIs t num fun x => x = { b with retired := true }) ∧
      (∀ rank, rank ∉ b.reached → (b.retired = true ∨ (b.written = [] ∧
          ∃ r ∈ s.swarm.regs, r.group = b.group ∧ r.k = b.k ∧ r.cancel = true)) →
        goesTo (exec (.evCancelRecord num rank) s) fun t => t = { s with swarm := t.swarm } ∧
          bindingIs t num fun x => x = { b with retired := true, reached := b.reached ++ [rank] }) ∧
      (s.switchFails b = false → ∀ x, exec (.evSwitchFailure num x) s = .next s) ∧
      (b.retired = false → b.inSwitch = true → s.allArrived b = false → s.switchFails b = true →
        goesTo (exec (.evSwitchFailure num b.bitmap) s) fun t => t = { s with swarm := t.swarm } ∧
          bindingIs t num fun x => x = { b with retired := true, cause := 6 })

/-- The sequencer service: heartbeats every 10 µs; a failover to a standby 50 µs after the last one, which leaves every
registration without a binding to be sent again and which the hub of its package, if it is this one, announces on lane 14
under die number 10 (the model's choice, log 58); registrations sent again, standbys and groups named by firmware, each of
one partition. -/
def Obligations.SequencerService : Prop :=
  ∀ (s : State),
    exec .evSequencerHeartbeat s = .next (if s.swarm.lastBeat + 10000 ≤ s.now then
      { s with swarm := { s.swarm with lastBeat := s.now } } else s) ∧
    (∀ n, n ∉ s.swarm.standbys ∨ s.now < s.swarm.lastBeat + 50000 → exec (.evSequencerFailover n) s = .next s) ∧
    (∀ n before after, s.swarm.standbys = before ++ n :: after → n ∉ before → s.swarm.lastBeat + 50000 ≤ s.now →
      let bound := fun (r : Registration) => ∃ b ∈ s.swarm.binds, b.group = r.group ∧ b.k = r.k
      goesTo (exec (.evSequencerFailover n) s) fun t =>
        t = { s with swarm := t.swarm, plane := { s.plane with cands := t.plane.cands } } ∧ t.swarm.standbys = after ∧
        t.swarm.lastBeat = s.now ∧ t.swarm.binds = s.swarm.binds ∧ t.swarm.next = s.swarm.next ∧
        t.swarm.regs.length = s.swarm.regs.length ∧ (∀ (i : Nat) r, s.swarm.regs[i]? = some r →
          ∃ x, t.swarm.regs[i]? = some x ∧ (bound r → x = r) ∧ (¬bound r → x = { r with sent := false })) ∧
        (Config.standbyPackage n ≠ Config.package → t.plane.cands = s.plane.cands) ∧
        (Config.standbyPackage n = Config.package → ∃ x, t.plane.cands = s.plane.cands ++ [x] ∧ x.lane = 14 ∧
          x.id = 0xC10 ∧ x.die = 10 ∧ x.key = BitVec.ofNat 64 ((s.swarm.next + 2 ^ 48 - 1) % 2 ^ 48))) ∧
    (∀ cid, exec (.evRegistrationRetry cid) s = .next { s with swarm := { s.swarm with
      regs := s.swarm.regs.map fun r => if r.cid == cid then { r with sent := true } else r } }) ∧
    (∀ n, exec (.evStandbyReplacement n) s = .next (if s.swarm.standbys.length < 2 ∧ n ∉ s.swarm.standbys then
      { s with swarm := { s.swarm with standbys := s.swarm.standbys ++ [n] } } else s)) ∧
    (∀ d, 2 ^ 32 ≤ d.id ∨ (∃ m ∈ d.members, m.pkg = Config.package ∧ (s.frameRec m.frame).partition ≠ d.partition) →
      exec (.evGroupCreate d) s = .next s) ∧
    ∀ d, s.group? d.id = none → d.id < 2 ^ 32 → d.members ≠ [] →
      (∀ m ∈ d.members, m.pkg = Config.package → (s.frameRec m.frame).partition = d.partition) → 10 ≤ d.tg → d.tg ≤ 10000000 →
      exec (.evGroupCreate d) s = .next { s with swarm := { s.swarm with
        groups := s.swarm.groups ++ [⟨d, List.replicate d.members.length 0⟩] } }

/-! ### Queues and launches (R354 to R359) -/

/-- Work queues: a doorbell accepts the entries that tail has passed, launches and fences are taken up in order, a fence
completes when nothing earlier is left, a cancel ends the waiting launches with its tag, register writes reach the ring
addresses and det alone, the register window shows the status, the queues and the next sequence number, and firmware
enables queues. A frame's launch logic launches the entry that it chooses, or holds for it while cells or vault are short.
That a register write reaches nothing else of 0x08 than det, and that firmware writes its other fields, is the model's reading
(log 50); what the window shows elsewhere is its choice (log 66). -/
def Obligations.WorkQueues : Prop :=
  ∀ (s : State) q, let r := s.queueRegs q
    let alone := fun (t : State) => memoryKept s t ∧ t.th = s.th ∧ t.pool = s.pool ∧ t.regions = s.regions
    (∀ tail, (s.queueLive q = false → exec (.evQueueDoorbell q tail) s = .next s) ∧
      (s.queueLive q = true → r.enabled = false → goesTo (exec (.evQueueDoorbell q tail) s) fun t => alone t ∧
        t.queueRegs q = { r with tail := BitVec.ofNat 16 tail } ∧ t.hub.entries = s.hub.entries) ∧
      (s.queueLive q = true → r.enabled = true → BitVec.ofNat 16 tail = r.head + 1 →
        let bs := s.peek (ringPa q r.base (64 * (r.head.toNat % 2 ^ r.size))) 64
        let w := fun i => bytesAt bs (8 * i) 8
        entryIllegal w = false → goesTo (exec (.evQueueDoorbell q tail) s) fun t => alone t ∧
          t.queueRegs q = { r with tail := BitVec.ofNat 16 tail, head := r.head + 1 } ∧
          t.hub.nextSeq = s.hub.nextSeq + 1 ∧ t.hub.entries = s.hub.entries ++ [⟨s.hub.nextSeq, q, r.head.toNat,
            w 0 / 2 ^ 56 % 256, BitVec.ofNat 64 (w 0 % 2 ^ 56), BitVec.ofNat 64 (w 1), .accepted, .ok, false, none, []⟩])) ∧
    (∀ e, s.turn q = some e → e.taken = false →
      (e.op = 1 → r.enabled = true → s.cancelAhead e = false → exec (.evQueueLaunch q) s = .next { s with hub :=
        { s.hub with entries := s.hub.entries.map fun x => if x.seq == e.seq then
          { e with taken := true, plan := some (s.rootPlan e) } else x } }) ∧
      (e.op = 2 → exec (.evQueueFence q) s = .next { s with hub :=
        { s.hub with entries := s.hub.entries.map fun x => if x.seq == e.seq then { e with taken := true } else x } })) ∧
    (∀ e, s.turn q = some e → e.op = 2 → e.taken = true →
      ((∃ x ∈ s.hub.entries, x.queue = q ∧ x.seq < e.seq) → exec (.evQueueFenceComplete q) s = .next s) ∧
      ((∀ x ∈ s.hub.entries, x.queue = q → e.seq ≤ x.seq) → goesTo (exec (.evQueueFenceComplete q) s) fun t =>
        t.th = s.th ∧ t.pool = s.pool ∧ t.hub.entries = s.hub.entries.filter (fun x => x.seq != e.seq) ∧
        let pa := ringPa e.queue (s.queueRegs e.queue).cbase (32 * (e.index % 2 ^ (s.queueRegs e.queue).size))
        wordAt t pa = e.tag.toNat ∧ wordAt t (pa + 8) = e.seq % 2 ^ 48)) ∧
    (∀ x, s.hub.entries.find? (fun e => e.queue == q && e.op == 3) = some x →
      goesTo (exec (.evQueueCancel q) s) fun t => t.th = s.th ∧ t.pool = s.pool ∧ ∀ e ∈ t.hub.entries,
        e ∈ s.hub.entries ∧ e.seq ≠ x.seq ∧
          ¬ (e.queue = q ∧ e.op = 1 ∧ e.st = .accepted ∧ e.seq < x.seq ∧ e.tag = x.tag)) ∧
    (∀ v, s.queueLive q = true → q < 1024 →
      exec (.evRegisterWrite (0x10000 + 64 * q) v) s = .next (s.setQueue q { r with base := v &&& 0xC0FFFFFFFFFFFFFF }) ∧
      exec (.evRegisterWrite (0x10008 + 64 * q) v) s =
        .next (s.setQueue q { r with ctrl := (r.ctrl &&& 0xFFFFFFFFFFFFFCFF) ||| (v &&& 0x300) }) ∧
      exec (.evRegisterWrite (0x10020 + 64 * q) v) s = .next (s.setQueue q { r with cbase := v &&& 0xC0FFFFFFFFFFFFFF }) ∧
      ∀ a, a < 64 → a ≠ 0 → a ≠ 8 → a ≠ 0x20 → exec (.evRegisterWrite (0x10000 + 64 * q + a) v) s = .next s) ∧
    (q < 1024 → ∀ off, off < 64 → s.windowWord (0x10000 + 64 * q + off) = if s.queueLive q = false then 0
      else if off = 0 then r.base else if off = 8 then r.ctrl else if off = 0x10 then r.tail.zeroExtend 64
      else if off = 0x18 then r.head.zeroExtend 64 else if off = 0x20 then r.cbase else 0) ∧
    s.windowWord 0 = BitVec.ofNat 64 (s.hub.live.toNat * 256 + s.hub.err.toNat * 16 + s.hub.stage.toNat) ∧
    s.windowWord 0x7FFF8 = BitVec.ofNat 64 s.hub.nextSeq ∧
    (∀ en size, s.queueLive q = true → (en = true → s.hub.stage = 6) → goesTo (exec (.evQueueEnable q en size) s) fun t =>
      t.th = s.th ∧ t.pool = s.pool ∧ t.regions = s.regions ∧ (t.queueRegs q).ctrl =
        (r.ctrl &&& 0xFFFFFFFFFFFFFFE0) ||| BitVec.ofNat 64 (size % 16 * 2 + if en then 1 else 0)) ∧
    ∀ frame cells e p, s.choose frame = some e → e.plan = some p →
      (p.ok = false → goesTo (exec (.evLaunchSelect frame cells) s) fun t => t.th = s.th ∧ t.pool = s.pool ∧
        t.regions = s.regions ∧ t.hub.entries = s.hub.entries.filter fun x => x.seq != e.seq) ∧
      (∀ n, p.ok = true → p.rootOver = false → p.own ≠ 0 → e.needs = [(frame, n)] →
        s.freeOn frame < n ∨ s.vaultLeft frame < p.vaultOn frame →
        exec (.evLaunchSelect frame cells) s = .next (s.setFrame { s.frameRec frame with held := some e.seq })) ∧
      ∀ n, p.ok = true → p.rootOver = false → p.own ≠ 0 → e.needs = [(frame, n)] → e.assigned = [] →
        n ≤ s.freeOn frame → p.vaultOn frame ≤ s.vaultLeft frame → p.rcb.contests = false → s.shareOk p e frame n cells = true →
        goesTo (exec (.evLaunchSelect frame cells) s) fun t => memoryKept s t ∧ t.th = s.th ∧
          (t.frameRec frame).lastServed = e.queue ∧ (t.frameRec frame).held = none ∧
          t.pool.length = s.pool.length + cells.length ∧
          ∃ x, t.regions = s.regions ++ [x] ∧ x.queue = some (e.queue, e.seq, e.tag) ∧ x.parent = none ∧ x.map = cells ∧
            x.rcb = e.rcb ∧ x.a = { p.a with domain := x.a.domain, det := (s.queueRegs e.queue).det }

/-! ### Links, power, management (R352, R360 to R380) -/

/-- Links retry, fail and change rate. A budget interval grants to the frames what the package limit, and with a module's own
allowance that of the module, leaves over what the hub, the stacks and the dies draw, a part that has passed its allocation
at one interval being held to it by the next (the model's choice, log 91); it sets every duty between 1 and 16, or leaves it
for the restart of a frame whose clocks stand still. A frequency step stops the clocks of its frame, and a restart latches
sr.fstep and takes the duties that waited; of memory both change the ring of power records alone; patrol scrub counts corrections and marks sectors; an export is
revoked. -/
def Obligations.LinksAndPower : Prop :=
  ∀ (s : State),
    (∀ l, exec (.evLinkRetry l) s = .next s) ∧
    (∀ l, (30 ≤ l → exec (.evLinkFail l) s = .next s) ∧ (l < 30 → goesTo (exec (.evLinkFail l) s) fun t =>
      t = { s with hub := { s.hub with links := t.hub.links } } ∧ t.link l = { s.link l with up := false, pending := none })) ∧
    (∀ l w x, linkOk l w x = true → (s.link l).up = true → goesTo (exec (.evLinkRateChange l w x) s) fun t =>
      t = { s with hub := { s.hub with links := t.hub.links } } ∧
      t.link l = if w < (s.link l).width ∧ s.stepPending = true then { s.link l with pending := some (w, x) }
        else { s.link l with width := w, rate := x, pending := none }) ∧
    (∀ inp, let parts := [(inp.hub, 250000), (inp.hbm, 280000), (inp.cf, 80000)]
      let grants := ((s.frameGrants inp).map Prod.snd).sum
      s.measured inp = (parts.mapIdx fun k x => if k ∈ s.power.enforced then min x.1 x.2 else x.1).sum ∧
      (Config.form.budget ≤ 2600000 ∧ Config.form.budget ≤ Config.form.limit - Config.form.moduleOwn) ∧
      (s.measured inp ≤ Config.form.budget → grants + (s.measured inp : Rat) ≤ (Config.form.budget : Rat)) ∧
      (Config.form.budget ≤ s.measured inp → grants ≤ 0) ∧ (∀ g ∈ s.frameGrants inp, g.2 ≤ 230000) ∧
      (s.now < s.power.nextInterval → exec (.evBudgetInterval inp) s = .next s) ∧
      (s.power.nextInterval ≤ s.now → goesTo (exec (.evBudgetInterval inp) s) fun t => ringOnly s t ∧ t.th = s.th ∧
        t.pool = s.pool ∧ t.regions = s.regions ∧ t.power.nextInterval = (s.now / 10000 + 1) * 10000 ∧
        (∀ (k : Nat) x, parts[k]? = some x → (k ∈ t.power.enforced ↔ x.2 < x.1)) ∧
        ∀ f < 8, s.hub.live.getLsbD f = true →
          ((s.frameRec f).relock = none → ∀ k < 8192, let d := (t.cellRec (f * 8192 + k)).duty
            1 ≤ d ∧ d ≤ 16) ∧
          ((s.frameRec f).relock ≠ none → (∀ k < 8192, t.cellRec (f * 8192 + k) = s.cellRec (f * 8192 + k)) ∧
            ∀ d ∈ (t.frameRec f).lateDuties, 1 ≤ d.2.1 ∧ d.2.1 ≤ 16))) ∧
    (∀ frame mhz, 600 ≤ mhz → mhz ≤ 1800 → mhz % 100 = 0 → s.hub.live.getLsbD frame = true →
      goesTo (exec (.evFrequencyStep frame mhz) s) fun t => ringOnly s t ∧ t.th = s.th ∧ t.pool = s.pool ∧
        if (s.frameRec frame).relock = none then (t.frameRec frame).relock = some mhz ∧ (t.frameRec frame).relockAt = s.now ∧
            t.claims = s.claims.map fun k => if (s.ctx? k.cid).any (fun c => combFrame c.comb == frame) then
              { k with cal := false } else k
          else t.frameRec frame = { s.frameRec frame with laterStep := some (mhz, 0) }) ∧
    (∀ frame, let f := s.frameRec frame
      (f.relock = none → exec (.evRelockRestart frame) s = .next s) ∧
      ∀ mhz, f.relock = some mhz → f.laterStep = none → goesTo (exec (.evRelockRestart frame) s) fun t =>
        ringOnly s t ∧ t.th = s.th ∧ t.frameRec frame = { f with
          mhz := mhz, relock := none, laterStep := none, lateDuties := [], cycSince := s.now,
          fstep := BitVec.ofNat 64 (f.cycBase % 2 ^ 32 * 2 ^ 32 + s.now % 2 ^ 32) } ∧
        (f.lateDuties.Pairwise (fun a b => a.1 ≠ b.1) → ∀ d ∈ f.lateDuties, (t.cellRec d.1).duty = d.2.1)) ∧
    (∀ frame x, s.hub.live.getLsbD frame = true → x < 2 ^ 31 → exec (.evPatrolScrub frame x .clean) s = .next s ∧
      (goesTo (exec (.evPatrolScrub frame x .corrected) s) fun t =>
        t = { s with power := { s.power with corrections := t.power.corrections } } ∧
        ((t.power.corrections.find? fun y => y.1 == frame).map Prod.snd).getD 0 =
          ((s.power.corrections.find? fun y => y.1 == frame).map Prod.snd).getD 0 + 1) ∧
      goesTo (exec (.evPatrolScrub frame x .uncorrectable) s) fun t => memoryKept s t ∧ t.th = s.th ∧
        t.poisoned (paHbm frame (32 * x)) 32 = true) ∧
    ∀ frame i, goesTo (exec (.evExportRevocation frame i) s) fun t => memoryKept s t ∧ t.th = s.th ∧
      t.frameRec frame = { s.frameRec frame with imports := (s.frameRec frame).imports.map fun m =>
        if m.index == i then { m with revoked := true } else m }

/-- Management: a snapshot latches at a multiple of 1,024 ns and its release frees it; meters are listed and read with
their seal; the SPDM responder answers in the order of its exchange; a package reset restores the reset state but for
memory, and brings the package up to stage 6, where firmware runs on the service cells from its images (log 79), or to the
stage that fails, with its error: images must be signed with the fused root key and not be older than the fused counter. The
response codes are those of SPDM 1.2 (PRESUMED, log 13); the values after reset, the links and the fuses are log 18. -/
def Obligations.Management : Prop :=
  ∀ (s : State), let answered := fun (t : State) (code : Nat) => memoryKept s t ∧ t.th = s.th ∧ t.pool = s.pool ∧
      ∃ about, t.sec.replies = s.sec.replies ++ [(code, Config.spdmBytes code about)]
    let answers := fun (i : Instr) (code : Nat) (v c a : Bool) => goesTo (exec i s) fun t => answered t code ∧
      t.sec.versioned = v ∧ t.sec.capable = c ∧ t.sec.algorithms = a
    let v := s.sec.versioned
    let c := s.sec.capable
    let a := s.sec.algorithms
    (∀ cid p due, s.power.snapArmed = some (cid, p, due) → (s.now < due → exec .evSnapshotTrigger s = .next s) ∧
      (due ≤ s.now → goesTo (exec .evSnapshotTrigger s) fun t => memoryKept s t ∧ t.power.snapArmed = none ∧
        t.power.snapSeq = s.power.snapSeq + 1 ∧ t.power.snapHeld = true)) ∧
    exec .evSnapshotRelease s = .next { s with power := { s.power with snapHeld := false, latched := [] } } ∧
    exec .evMeterList s = .next { s with power := { s.power with mctp := s.power.mctp ++
      [(((s.ctxs.filter fun c => c.status != .empty && c.cell?.isSome).map Ctx.cid) ++ s.power.ended.map Prod.fst).map (BitVec.ofNat 64)] } } ∧
    (∀ cid ws, s.blockOf cid = some ws → exec (.evMeterRead cid) s = .next { s with power := { s.power with
      mctp := s.power.mctp ++ [ws ++ List.replicate (31 - ws.length) 0 ++ [Config.meterSeal cid ws]],
      ended := s.power.ended.filter fun x => x.1 != cid } }) ∧
    answers .evGetVersion 0x04 true false false ∧
    answers .evGetCapabilities (if v then 0x61 else 0x7F) v (if v then true else c) a ∧
    (∀ ed sha, answers (.evNegotiateAlgorithms ed sha) (if c && ed && sha then 0x63 else 0x7F) v c
      (if c && ed && sha then true else a)) ∧
    answers .evGetDigests (if a then 0x01 else 0x7F) v c a ∧
    (∀ n, answers (.evGetCertificate n) (if a && decide (n < 8) then 0x02 else 0x7F) v c a) ∧
    (∀ n, a = true → n < 8 → goesTo (exec (.evGetCertificate n) s) fun t =>
      t.sec.replies = s.sec.replies ++ [(0x02, Config.spdmBytes 0x02 [s.sec.identity, n])]) ∧
    (a = true → goesTo (exec (.evGetMeasurements 3) s) fun t => t.sec.replies = s.sec.replies ++
      [(0x60, Config.spdmBytes 0x60 [s.sec.identity, 3, Config.fuseMap.toNat, s.hub.live.toNat])]) ∧
    (∀ n, answers (.evChallenge n) (if a then 0x03 else 0x7F) v c a) ∧
    (∀ n, answers (.evGetMeasurements n) (if a && (decide (n ≤ 4) || n == 255) then 0x60 else 0x7F) v c a) ∧
    ∀ up, let sound := fun (i : Image) => i.keyHash = Config.rootKeyHash ∧
        Config.signatureOk i.keyHash (Nat.pair i.body i.version) i.signature = true ∧ Config.securityVersion ≤ i.version
      let ready := ∃ a b, up = .images a b ∧ sound a ∧ sound b
      goesTo (exec (.evPackageReset up) s) fun t =>
      (ready → ∀ x, serviceBase ≤ x → x < serviceEnd → t.byteAt x = State.reset.byteAt x) ∧
      (∀ x, ¬ready ∨ x < serviceBase ∨ serviceEnd ≤ x → t.byteAt x = s.byteAt x) ∧
      t = { State.reset with
        mem := t.mem, tick := t.tick, agenda := s.agenda, hub := t.hub, combs := t.combs, pool := t.pool, sec := t.sec } ∧
      (¬ready → t.pool = [] ∧ t.sec = State.reset.sec) ∧
      (ready → (∃ booted, t.sec = { State.reset.sec with booted := booted }) ∧
        ∀ f < 8, Config.liveFrames.getLsbD f = true → ∀ k < 64, ∃ c ∈ t.pool, ∃ d ∈ t.pool,
          c.place = .supervisor (f * 64 + k) ∧ d.place = .translator (f * 64 + k) ∧ c.level = .comb ∧ d.level = .comb ∧
          c.status = .running ∧ d.status = .running ∧ c.pc = 0 ∧ d.pc = 0) ∧
      t.hub.live = (if up = .fuse then 0 else Config.liveFrames) ∧
      (∀ l < 30, (t.link l).up = decide (up ≠ .fuse ∧ up ≠ .link)) ∧ t.hub.queues = [] ∧
      (ready → (t.hub.stage, t.hub.err) = ((6 : BitVec 4), (0 : BitVec 4))) ∧
      (¬ready → (t.hub.stage, t.hub.err) = match up with
        | .fuse => ((2 : BitVec 4), (1 : BitVec 4))
        | .link => (3, 2)
        | .fabric => (4, 3)
        | .images _ _ => (5, 4))

/-! ### Time (R24, R131, R135 to R138, R150, R154, R370) -/

/-- Time passes by nanoseconds, and not past a contest that has begun and has not been run, a result that is 400 ns late, a
relock of 600 ns, the next budget interval, an armed snapshot or a saturation. In a nanosecond each integrator of a claim in
RUN that is not held moves by k × u, where u is the output of its summer and k its gain, and by what the curve of the solution
can add (log 85); the integrators of other claims, and those that are held, stay; a cell that runs under a duty counts the
cycles that its reason gates (R372); nothing else changes. -/
def Obligations.TimePasses : Prop :=
  ∀ s : State,
    (s.timeDue = false → s.makeMove (.time 1) = .next { s with
      now := s.now + 1, claims := s.fabricFlow.claims, cells := s.cells.map s.gateCell }) ∧
    ((∃ l < 16, ∃ d, s.dueContest l = some d) ∨ (∃ r ∈ s.plane.results, r.due + 400 ≤ s.now) ∨
        (∃ f ∈ s.frames, f.relock ≠ none ∧ f.relockAt + 600 ≤ s.now) ∨ s.power.nextInterval ≤ s.now ∨
        (∃ c p due, s.power.snapArmed = some (c, p, due) ∧ due ≤ s.now) ∨
        (∃ k ∈ s.claims, k.st = .run ∧ ∃ n < 64 * k.np, passes s k n) → ∀ ns, s.makeMove (.time ns) = .next s) ∧
    (∀ c : CellRec, let d := c.dutyAtTime s.now
      let f := s.frameRec (cellFrame c.id)
      (d = 16 ∨ f.relock ≠ none → s.gateCell c = c) ∧
      (d ≠ 16 → f.relock = none → s.gateCell c = { c with gated := (s.gateCell c).gated } ∧
        ∀ k, (s.gateCell c).gated[k]? = c.gated[k]?.map fun x =>
          if c.whyAtTime s.now = k + 1 then x + (16 - d) * f.mhz else x)) ∧
    ∀ (i : Nat) (k : Claim), s.claims[i]? = some k → ∃ d : Claim, s.fabricFlow.claims[i]? = some d ∧
      (k.st ≠ .run → d = k) ∧
      (k.st = .run → d = { k with xi := d.xi, calm := d.calm } ∧ ∀ n < 64 * k.np, let g := gainCode k.kept n
        (n ∈ k.held → d.xiAt n = k.xiAt n) ∧
        (n ∉ k.held → (d.xiAt n - (k.xiAt n + k.summer k.kept n * 10 ^ g / 1000000)).natAbs ≤ k.bendBound k.kept g))
end

