-- ==== Sys2Proof/Laws/Bits.lean ====
section
/-!
SUPPORT. Laws of lanes and bytes: what a lane of a packed register is, what a merge keeps, and the bytes of a number.
-/
namespace Sys2Proof.Machine

theorem bitsAt_lt (x lo n : Nat) : bitsAt x lo n < 2 ^ n := Nat.mod_lt _ (Nat.two_pow_pos n)

theorem bitsAt_mod {x lo n k : Nat} (h : lo + n ≤ k) : bitsAt (x % 2 ^ k) lo n = bitsAt x lo n := by
  unfold bitsAt
  apply Nat.eq_of_testBit_eq
  intro i
  simp only [Nat.testBit_mod_two_pow, Nat.testBit_shiftRight]
  by_cases hi : i < n
  · have : lo + i < k := by omega
    simp [hi, this]
  · simp [hi]

theorem packLanes_lane (w : Nat) : ∀ (xs : List Nat) (j : Nat), bitsAt (packLanes w xs) (w * j) w = xs.getD j 0 % 2 ^ w
  | [], j => by simp [packLanes, bitsAt]
  | x :: xs, 0 => by
    simp [packLanes, bitsAt]
  | x :: xs, j + 1 => by
    have ih := packLanes_lane w xs j
    have h : (x % 2 ^ w + 2 ^ w * packLanes w xs) >>> w = packLanes w xs := by
      rw [Nat.shiftRight_eq_div_pow, Nat.add_mul_div_left _ _ (Nat.two_pow_pos w),
        Nat.div_eq_of_lt (Nat.mod_lt _ (Nat.two_pow_pos w)), Nat.zero_add]
    have e : w * (j + 1) = w + w * j := by ring
    simp only [packLanes, bitsAt, List.getD_cons_succ] at *
    rw [e, Nat.shiftRight_add, h]
    exact ih

/-- A lane of a register packed from a list. -/
theorem laneOf_ofLanes {w : Nat} (xs : List Nat) {j : Nat} (h : w * (j + 1) ≤ 256) :
    laneOf w (ofLanes w xs) j = xs.getD j 0 % 2 ^ w := by
  have e : w * (j + 1) = w * j + w := by ring
  simp only [laneOf, ofLanes, BitVec.toNat_ofNat]
  rw [bitsAt_mod (by omega), packLanes_lane]

theorem laneOf_lt (w : Nat) (v : VWord) (j : Nat) : laneOf w v j < 2 ^ w := bitsAt_lt _ _ _

theorem lane_fits {w j : Nat} (h : j < 256 / w) : w * (j + 1) ≤ 256 := by
  calc w * (j + 1) ≤ w * (256 / w) := Nat.mul_le_mul_left _ h
    _ ≤ 256 := Nat.mul_div_le _ _

/-- A merge keeps the lanes whose mask bit is clear and takes the others (R217). -/
theorem laneOf_mergeLanes {w : Nat} (p : MWord) (old new : VWord) {j : Nat} (h : j < 256 / w) :
    laneOf w (mergeLanes w p old new) j = if laneActive (w / 8) p j then laneOf w new j else laneOf w old j := by
  unfold mergeLanes
  rw [laneOf_ofLanes _ (lane_fits h)]
  have e : ((List.range (256 / w)).map fun j =>
      if laneActive (w / 8) p j then laneOf w new j else laneOf w old j).getD j 0 =
      if laneActive (w / 8) p j then laneOf w new j else laneOf w old j := by
    simp [List.getD_eq_getElem?_getD, h]
  rw [e]
  split <;> exact Nat.mod_eq_of_lt (laneOf_lt _ _ _)

theorem lanesOf_getD {w : Nat} (v : VWord) {j : Nat} (h : j < 256 / w) : (lanesOf w v).getD j 0 = laneOf w v j := by
  simp [lanesOf, List.getD_eq_getElem?_getD, h]

/-- Lanes of a type fill a register. -/
theorem Ty.lanes_eq (t : Ty) : 256 / t.bits = t.lanes := by cases t <;> rfl

theorem Ty.bits_div (t : Ty) : t.bits / 8 = t.bytes := by cases t <;> rfl

theorem wrapNat_lt (w : Nat) (x : Int) : wrapNat w x < 2 ^ w := by
  have h : (0 : Int) < ((2 ^ w : Nat) : Int) := by exact_mod_cast Nat.two_pow_pos w
  have := Int.emod_lt_of_pos x h
  have := Int.emod_nonneg x (ne_of_gt h)
  unfold wrapNat
  omega

theorem bytesOf_length (n : Nat) : ∀ x, (bytesOf n x).length = n := by
  unfold bytesOf
  induction n with
  | zero => intro x; rfl
  | succ k ih => intro x; simp [bytesOf.natToBytesLE, ih]

theorem ofBytes_bytesOf (n : Nat) : ∀ x, ofBytes (bytesOf n x) = x % 256 ^ n := by
  unfold bytesOf
  induction n with
  | zero => intro x; simp [bytesOf.natToBytesLE, ofBytes, Nat.mod_one]
  | succ k ih =>
    intro x
    simp only [bytesOf.natToBytesLE, ofBytes, ih, BitVec.toNat_ofNat]
    have e : (256 : Nat) ^ (k + 1) = 256 * 256 ^ k := by ring
    rw [e, Nat.mod_mul]

end Sys2Proof.Machine
end

