-- ==== Sys2Proof/Laws/Decode.lean ====
section
/-!
SUPPORT. Laws of the encoding: the fields of a word under each format, and the operand fields that read back what was
put into them.
-/
namespace Sys2Proof

/-! ### Fields of a concatenation -/

theorem field_low {v w : Nat} (x : BitVec v) (y : BitVec w) {s n : Nat} (h : s + n ≤ w) :
    (x ++ y).extractLsb' s n = y.extractLsb' s n := BitVec.extractLsb'_append_eq_of_add_le h
theorem field_high {v w : Nat} (x : BitVec v) (y : BitVec w) {s n : Nat} (h : w ≤ s) :
    (x ++ y).extractLsb' s n = x.extractLsb' (s - w) n := BitVec.extractLsb'_append_eq_of_le h
theorem bit_low {v w : Nat} (x : BitVec v) (y : BitVec w) {s : Nat} (h : s < w) : (x ++ y).getLsbD s = y.getLsbD s := by
  simp [BitVec.getLsbD_append, h]
theorem bit_high {v w : Nat} (x : BitVec v) (y : BitVec w) {s : Nat} (h : w ≤ s) :
    (x ++ y).getLsbD s = x.getLsbD (s - w) := by
  simp [BitVec.getLsbD_append, Nat.not_lt.2 h]

/-! ### Formats (R171, R172) -/

theorem FRrr.of_word (f : FRrr) (M : BitVec 8) : FRrr.of (f.word M) = f := by
  obtain ⟨⟨st, pn, pr⟩, ⟨dst, sa, sam⟩, ⟨sb, sbm⟩, ty, c, minor, rm, z⟩ := f
  simp only [FRrr.of, FRrr.word, hdrOf, headOf, srcBOf, headBits, FRrr.mk.injEq, Hdr.mk.injEq, Head.mk.injEq, SrcB.mk.injEq]
  refine ⟨⟨?_, ?_, ?_⟩, ⟨?_, ?_, ?_⟩, ⟨?_, ?_⟩, ?_, ?_, ?_, ?_, ?_⟩
  all_goals
    repeat (first | refine (field_high _ _ (by decide)).trans ?_ | refine (bit_high _ _ (by decide)).trans ?_)
    first
      | (refine (field_low _ _ (by decide)).trans ?_; simp)
      | (refine (bit_low _ _ (by decide)).trans ?_; simp)

theorem FRrr.major_word (f : FRrr) (M : BitVec 8) : majorOf (f.word M) = M := by
  simp only [majorOf, FRrr.word, headBits]
  repeat (refine (field_high _ _ (by decide)).trans ?_)
  simp

theorem FRri.of_word (f : FRri) (M : BitVec 8) : FRri.of (f.word M) = f := by
  obtain ⟨⟨st, pn, pr⟩, ⟨dst, sa, sam⟩, minor, ty, z, rm, imm⟩ := f
  simp only [FRri.of, FRri.word, hdrOf, headOf, headBits, FRri.mk.injEq, Hdr.mk.injEq, Head.mk.injEq]
  refine ⟨⟨?_, ?_, ?_⟩, ⟨?_, ?_, ?_⟩, ?_, ?_, ?_, ?_, ?_⟩
  all_goals
    repeat (first | refine (field_high _ _ (by decide)).trans ?_ | refine (bit_high _ _ (by decide)).trans ?_)
    first
      | (refine (field_low _ _ (by decide)).trans ?_; simp)
      | (refine (bit_low _ _ (by decide)).trans ?_; simp)

theorem FRri.major_word (f : FRri) (M : BitVec 8) : majorOf (f.word M) = M := by
  simp only [majorOf, FRri.word, headBits]
  repeat (refine (field_high _ _ (by decide)).trans ?_)
  simp

theorem FMem.of_word (f : FMem) (M : BitVec 8) : FMem.of (f.word M) = f := by
  obtain ⟨⟨st, pn, pr⟩, ⟨dst, sa, sam⟩, ⟨sb, sbm⟩, minor, ty, s, d⟩ := f
  simp only [FMem.of, FMem.word, hdrOf, headOf, srcBOf, headBits, FMem.mk.injEq, Hdr.mk.injEq, Head.mk.injEq, SrcB.mk.injEq]
  refine ⟨⟨?_, ?_, ?_⟩, ⟨?_, ?_, ?_⟩, ⟨?_, ?_⟩, ?_, ?_, ?_, ?_⟩
  all_goals
    repeat (first | refine (field_high _ _ (by decide)).trans ?_ | refine (bit_high _ _ (by decide)).trans ?_)
    first
      | (refine (field_low _ _ (by decide)).trans ?_; simp)
      | (refine (bit_low _ _ (by decide)).trans ?_; simp)

theorem FMem.major_word (f : FMem) (M : BitVec 8) : majorOf (f.word M) = M := by
  simp only [majorOf, FMem.word, headBits]
  repeat (refine (field_high _ _ (by decide)).trans ?_)
  simp

theorem FBr.of_word (f : FBr) (M : BitVec 8) : FBr.of (f.word M) = f := by
  obtain ⟨⟨st, pn, pr⟩, ⟨dst, sa, sam⟩, minor, z, disp, slot⟩ := f
  simp only [FBr.of, FBr.word, hdrOf, headOf, headBits, FBr.mk.injEq, Hdr.mk.injEq, Head.mk.injEq]
  refine ⟨⟨?_, ?_, ?_⟩, ⟨?_, ?_, ?_⟩, ?_, ?_, ?_, ?_⟩
  all_goals
    repeat (first | refine (field_high _ _ (by decide)).trans ?_ | refine (bit_high _ _ (by decide)).trans ?_)
    first
      | (refine (field_low _ _ (by decide)).trans ?_; simp)
      | (refine (bit_low _ _ (by decide)).trans ?_; simp)

theorem FBr.major_word (f : FBr) (M : BitVec 8) : majorOf (f.word M) = M := by
  simp only [majorOf, FBr.word, headBits]
  repeat (refine (field_high _ _ (by decide)).trans ?_)
  simp

theorem FMat.of_word (f : FMat) (M : BitVec 8) : FMat.of (f.word M) = f := by
  obtain ⟨⟨st, pn, pr⟩, ⟨dst, sa, sam⟩, ⟨sb, sbm⟩, minor, ta, tb, rm, acc, op⟩ := f
  simp only [FMat.of, FMat.word, hdrOf, headOf, srcBOf, headBits, FMat.mk.injEq, Hdr.mk.injEq, Head.mk.injEq, SrcB.mk.injEq]
  refine ⟨⟨?_, ?_, ?_⟩, ⟨?_, ?_, ?_⟩, ⟨?_, ?_⟩, ?_, ?_, ?_, ?_, ?_, ?_⟩
  all_goals
    repeat (first | refine (field_high _ _ (by decide)).trans ?_ | refine (bit_high _ _ (by decide)).trans ?_)
    first
      | (refine (field_low _ _ (by decide)).trans ?_; simp)
      | (refine (bit_low _ _ (by decide)).trans ?_; simp)

theorem FMat.major_word (f : FMat) (M : BitVec 8) : majorOf (f.word M) = M := by
  simp only [majorOf, FMat.word, headBits]
  repeat (refine (field_high _ _ (by decide)).trans ?_)
  simp

theorem FEng.of_word (f : FEng) (M : BitVec 8) : FEng.of (f.word M) = f := by
  obtain ⟨⟨st, pn, pr⟩, ⟨dst, sa, sam⟩, ⟨sb, sbm⟩, minor, q, hd, op⟩ := f
  simp only [FEng.of, FEng.word, hdrOf, headOf, srcBOf, headBits, FEng.mk.injEq, Hdr.mk.injEq, Head.mk.injEq, SrcB.mk.injEq]
  refine ⟨⟨?_, ?_, ?_⟩, ⟨?_, ?_, ?_⟩, ⟨?_, ?_⟩, ?_, ?_, ?_, ?_⟩
  all_goals
    repeat (first | refine (field_high _ _ (by decide)).trans ?_ | refine (bit_high _ _ (by decide)).trans ?_)
    first
      | (refine (field_low _ _ (by decide)).trans ?_; simp)
      | (refine (bit_low _ _ (by decide)).trans ?_; simp)

theorem FEng.major_word (f : FEng) (M : BitVec 8) : majorOf (f.word M) = M := by
  simp only [majorOf, FEng.word, headBits]
  repeat (refine (field_high _ _ (by decide)).trans ?_)
  simp

theorem FSys.of_word (f : FSys) (M : BitVec 8) : FSys.of (f.word M) = f := by
  obtain ⟨⟨st, pn, pr⟩, ⟨dst, sa, sam⟩, ⟨sb, sbm⟩, minor, sr, op⟩ := f
  simp only [FSys.of, FSys.word, hdrOf, headOf, srcBOf, headBits, FSys.mk.injEq, Hdr.mk.injEq, Head.mk.injEq, SrcB.mk.injEq]
  refine ⟨⟨?_, ?_, ?_⟩, ⟨?_, ?_, ?_⟩, ⟨?_, ?_⟩, ?_, ?_, ?_⟩
  all_goals
    repeat (first | refine (field_high _ _ (by decide)).trans ?_ | refine (bit_high _ _ (by decide)).trans ?_)
    first
      | (refine (field_low _ _ (by decide)).trans ?_; simp)
      | (refine (bit_low _ _ (by decide)).trans ?_; simp)

theorem FSys.major_word (f : FSys) (M : BitVec 8) : majorOf (f.word M) = M := by
  simp only [majorOf, FSys.word, headBits]
  repeat (refine (field_high _ _ (by decide)).trans ?_)
  simp

/-! ### Codes -/

@[simp] theorem Ty.ofCode_code (t : Ty) : Ty.ofCode t.code = t := by cases t <;> rfl
@[simp] theorem Rnd.ofCode_code (r : Rnd) : Rnd.ofCode r.code = r := by cases r <;> rfl
@[simp] theorem Rnd.code_ne (r : Rnd) : (r.code != 7#3) = true := by cases r <;> rfl
@[simp] theorem Rnd.code_dyn : Rnd.dyn.code = 0#3 := rfl

/-! ### Specifiers (R167) -/

@[simp] theorem fileOf_specG (r : BitVec 6) : fileOf (specG r) = .g := by revert r; decide
@[simp] theorem fileOf_specV (r : BitVec 5) : fileOf (specV r) = .v := by revert r; decide
@[simp] theorem fileOf_specM (r : BitVec 3) : fileOf (specM r) = .m := by revert r; decide
@[simp] theorem fileOf_specH (r : BitVec 4) : fileOf (specH r) = .h := by revert r; decide
@[simp] theorem fileOf_specImm (k : BitVec 7) : fileOf (specImm k) = .const := by revert k; decide
@[simp] theorem numG_specG (r : BitVec 6) : numG (specG r) = r := by revert r; decide
@[simp] theorem numV_specV (r : BitVec 5) : numV (specV r) = r := by revert r; decide
@[simp] theorem numM_specM (r : BitVec 3) : numM (specM r) = r := by revert r; decide
@[simp] theorem numH_specH (r : BitVec 4) : numH (specH r) = r := by revert r; decide
@[simp] theorem numImm_specImm (k : BitVec 7) : numImm (specImm k) = k := by revert k; decide

@[simp] theorem dstOk_specG (r : BitVec 6) : dstOk .g (specG r) = [] := by simp [dstOk]
@[simp] theorem dstOk_specV (r : BitVec 5) : dstOk .v (specV r) = [] := by simp [dstOk]
@[simp] theorem dstOk_specM (r : BitVec 3) : dstOk .m (specM r) = [] := by simp [dstOk]
@[simp] theorem srcOk_specG (r : BitVec 6) : srcOk .g (specG r) = [] := by simp [srcOk]
@[simp] theorem srcOk_specV (r : BitVec 5) : srcOk .v (specV r) = [] := by simp [srcOk]
@[simp] theorem srcOk_specM (r : BitVec 3) : srcOk .m (specM r) = [] := by simp [srcOk]
@[simp] theorem srcOk_specH (r : BitVec 4) : srcOk .h (specH r) = [] := by simp [srcOk]

/-! ### Modifiers (R168, R169) -/

@[simp] theorem gmodOf_gmodBits (m : GMod) : gmodOf (gmodBits m) = m := by
  obtain ⟨s, e, d⟩ := m
  revert d
  cases s <;> cases e <;> decide
@[simp] theorem gmodOk_gmodBits (m : GMod) : gmodOk (gmodBits m) = m.ok := by
  obtain ⟨s, e, d⟩ := m
  revert d
  cases s <;> cases e <;> decide
@[simp] theorem vmodOf_vmodBits (m : VMod) : vmodOf (vmodBits m) = m := by
  obtain ⟨c, s, d⟩ := m
  simp only [vmodOf, vmodBits, VMod.mk.injEq]
  refine ⟨?_, ?_, ?_⟩
  · refine (congrArg LaneClass.ofCode ((field_high _ _ (by decide)).trans (field_high _ _ (by decide)))).trans ?_
    cases c <;> rfl
  · refine (field_high _ _ (by decide)).trans ((field_low _ _ (by decide)).trans ?_)
    simp
  · apply BitVec.eq_of_toNat_eq
    have := d.isLt
    simp only [BitVec.toNat_setWidth, BitVec.toNat_append, ← Nat.shiftLeft_add_eq_or_of_lt this]
    simp [Nat.shiftLeft_eq]
    omega

/-! ### Operands -/

@[simp] theorem gregOf_put (g : GReg) : gregOf g.spec g.mod = g := by
  simp [gregOf, GReg.spec, GReg.mod]
@[simp] theorem gregOk_put (g : GReg) : gregOk g.spec g.mod = need g.ok .modifier := by
  simp [gregOk, GReg.spec, GReg.mod, GReg.ok]
@[simp] theorem vregOf_put (v : VReg) : vregOf v.spec v.mod = v := by
  simp [vregOf, VReg.spec, VReg.mod]
@[simp] theorem vregOk_put (n : Nat) (v : VReg) : vregOk n v.spec v.mod = need (v.ok n) .modifier := by
  simp [vregOk, VReg.spec, VReg.mod, VReg.ok]
@[simp] theorem fileOf_greg (g : GReg) : fileOf g.spec = .g := fileOf_specG _
@[simp] theorem fileOf_vreg (v : VReg) : fileOf v.spec = .v := fileOf_specV _
@[simp] theorem gsrcOf_put (s : GSrc) : gsrcOf s.spec s.mod = s := by
  cases s <;> simp [gsrcOf, GSrc.spec, GSrc.mod]
@[simp] theorem gsrcOk_put (s : GSrc) : gsrcOk s.spec s.mod = need s.ok .modifier := by
  cases s <;> simp [gsrcOk, GSrc.spec, GSrc.mod, GSrc.ok]
@[simp] theorem vsrcOf_put (s : VSrc) : vsrcOf s.spec s.mod = s := by
  cases s <;> simp [vsrcOf, VSrc.spec, VSrc.mod]
@[simp] theorem vsrcOk_put (n : Nat) (s : VSrc) : vsrcOk n s.spec s.mod = need (s.ok n) .modifier := by
  cases s <;> simp [vsrcOk, VSrc.spec, VSrc.mod, VSrc.ok]
@[simp] theorem fsrcOf_put (s : FSrc) : fsrcOf s.spec = s := by cases s <;> simp [fsrcOf, FSrc.spec]
@[simp] theorem fsrcOk_put (s : FSrc) : fsrcOk s.spec 0 = [] := by cases s <;> simp [fsrcOk, FSrc.spec, need]

/-! ### Checks -/

@[simp] theorem need_true (r : Reason) : need true r = [] := rfl
@[simp] theorem lowestReason_nil : lowestReason [] = none := rfl
@[simp] theorem Chk.toExcept_good {α : Type} (x : α) : (⟨[], x⟩ : Chk α).toExcept = .ok x := rfl

end Sys2Proof
end

