-- ==== Sys2Proof/Laws/Memory.lean ====
section
/-!
SUPPORT. Memory: reading what was written, writing apart, and the canonical form under every operation on memory.
-/
namespace Sys2Proof.Machine

/-! ### The canonical form -/

/-- A canonical memory above a bound is canonical above every lower bound. -/
theorem Memory.wfFrom_lower {m : Memory} {lo lo' : Nat} (h : Memory.wfFrom (some lo) m = true) (hl : lo' ≤ lo) :
    Memory.wfFrom (some lo') m = true := by
  cases m with
  | nil => rfl
  | cons x m =>
    obtain ⟨k, v⟩ := x
    simp only [Memory.wfFrom, Bool.and_eq_true, decide_eq_true_eq] at h ⊢
    exact ⟨⟨by omega, h.1.2⟩, h.2⟩

/-- A canonical memory above a bound is canonical. -/
theorem Memory.wf_of_wfFrom {m : Memory} {lo : Nat} (h : Memory.wfFrom (some lo) m = true) : m.wf = true := by
  cases m with
  | nil => rfl
  | cons x m =>
    obtain ⟨k, v⟩ := x
    simp only [Memory.wf, Memory.wfFrom, Bool.and_eq_true, decide_eq_true_eq] at h ⊢
    exact ⟨⟨trivial, h.1.2⟩, h.2⟩

/-- A sublist of a canonical memory is canonical, above the bound. -/
theorem Memory.wfFrom_filter {m : Memory} (p : Host.Cell → Bool) : ∀ {lo : Nat}, Memory.wfFrom (some lo) m = true →
    Memory.wfFrom (some lo) (m.filter p) = true := by
  induction m with
  | nil => exact fun h => h
  | cons x m ih =>
    obtain ⟨k, v⟩ := x
    intro lo h
    simp only [Memory.wfFrom, Bool.and_eq_true, decide_eq_true_eq] at h
    by_cases hp : p (k, v) = true
    · simp only [List.filter_cons, hp, if_true, Memory.wfFrom, Bool.and_eq_true, decide_eq_true_eq]
      exact ⟨h.1, ih h.2⟩
    · simpa [List.filter_cons, hp] using Memory.wfFrom_lower (ih h.2) (by omega : lo ≤ k)

/-- Placing the firmware images keeps the canonical form. -/
theorem Memory.wf_withImages {m : Memory} (h : m.wf = true) : m.withImages.wf = true := by
  cases m with
  | nil => rfl
  | cons x m =>
    obtain ⟨k, v⟩ := x
    simp only [Memory.wf, Memory.wfFrom, Bool.and_eq_true] at h
    by_cases hp : k < serviceBase ∨ serviceEnd ≤ k
    · simp only [Memory.withImages, List.filter_cons, hp, decide_true, if_true, Memory.wf, Memory.wfFrom, Bool.and_eq_true]
      exact ⟨h.1, Memory.wfFrom_filter _ h.2⟩
    · simpa [Memory.withImages, List.filter_cons, hp] using Memory.wf_of_wfFrom (Memory.wfFrom_filter _ h.2)

/-- Writing a byte above the bound keeps the form above it. -/
theorem Memory.wfFrom_set {m : Memory} {a : Nat} {b : Byte} : ∀ {lo : Nat}, lo < a →
    Memory.wfFrom (some lo) m = true → Memory.wfFrom (some lo) (m.set a b) = true := by
  induction m with
  | nil =>
    intro lo hl _
    by_cases hb : b = unlistedByte a <;> simp [Memory.set, Memory.wfFrom, hb, hl]
  | cons x m ih =>
    obtain ⟨k, v⟩ := x
    intro lo hl h
    have h' := h
    simp only [Memory.wfFrom, Bool.and_eq_true, decide_eq_true_eq] at h'
    obtain ⟨⟨hk, hv⟩, ht⟩ := h'
    by_cases hak : a < k
    · by_cases hb : b = unlistedByte a
      · simpa [Memory.set, hak, hb] using h
      · simp [Memory.set, hak, hb, Memory.wfFrom, hl, ht]; simpa using hv
    · by_cases hae : a = k
      · subst hae
        by_cases hb : b = unlistedByte a
        · simpa [Memory.set, hb] using Memory.wfFrom_lower ht (by omega)
        · simp [Memory.set, hb, Memory.wfFrom, hl, ht]
      · simp only [Memory.set, hak, hae, if_false, Memory.wfFrom, Bool.and_eq_true, decide_eq_true_eq]
        exact ⟨⟨hk, hv⟩, ih (by omega) ht⟩

/-- Writing a byte keeps the canonical form. -/
theorem Memory.wf_set {m : Memory} (h : m.wf = true) (a : Nat) (b : Byte) : (m.set a b).wf = true := by
  cases m with
  | nil => by_cases hb : b = unlistedByte a <;> simp [Memory.set, Memory.wf, Memory.wfFrom, hb]
  | cons x m =>
    obtain ⟨k, v⟩ := x
    have h' := h
    simp only [Memory.wf, Memory.wfFrom, Bool.and_eq_true] at h'
    obtain ⟨⟨_, hv⟩, ht⟩ := h'
    by_cases hak : a < k
    · by_cases hb : b = unlistedByte a
      · simpa [Memory.set, hak, hb] using h
      · simp [Memory.set, hak, hb, Memory.wf, Memory.wfFrom, ht]; simpa using hv
    · by_cases hae : a = k
      · subst hae
        by_cases hb : b = unlistedByte a
        · simpa [Memory.set, hb] using Memory.wf_of_wfFrom ht
        · simp [Memory.set, hb, Memory.wf, Memory.wfFrom, ht]
      · simp only [Memory.set, hak, hae, if_false, Memory.wf, Memory.wfFrom, Bool.and_eq_true]
        exact ⟨⟨trivial, hv⟩, Memory.wfFrom_set (by omega) ht⟩

theorem Memory.wf_write (bs : List Byte) : ∀ {m : Memory}, m.wf = true → ∀ a, (m.write a bs).wf = true := by
  induction bs with
  | nil => intro m h a; exact h
  | cons b bs ih => intro m h a; exact ih (Memory.wf_set h a b) (a + 1)

theorem Memory.wf_writeMasked (bs : List (Option Byte)) :
    ∀ {m : Memory}, m.wf = true → ∀ a, (m.writeMasked a bs).wf = true := by
  induction bs with
  | nil => intro m h a; exact h
  | cons b bs ih =>
    intro m h a
    cases b with
    | none => exact ih h (a + 1)
    | some b => exact ih (Memory.wf_set h a b) (a + 1)

theorem Memory.wf_setNum {m : Memory} (h : m.wf = true) (a n x : Nat) : (m.setNum a n x).wf = true :=
  Memory.wf_write _ h a

theorem WEntry.wf_apply {m : Memory} (h : m.wf = true) (e : WEntry) : (e.apply m).wf = true := by
  cases e with
  | write pa bs => exact Memory.wf_writeMasked bs h pa
  | red line op ty elems isOpen =>
    simp only [WEntry.apply]
    induction elems generalizing m with
    | nil => exact h
    | cons e es ih => exact ih (Memory.wf_setNum h _ _ _)

theorem wf_throughWq {m : Memory} (h : m.wf = true) (wq : List (Home × WEntry)) : (throughWq m wq).wf = true := by
  induction wq generalizing m with
  | nil => exact h
  | cons e es ih => exact ih (WEntry.wf_apply h e.2)

/-! ### Reading after writing -/

/-- A canonical memory above `lo` reads as unlisted at and below `lo`. -/
theorem Memory.get_low {m : Memory} : ∀ {lo a : Nat}, Memory.wfFrom (some lo) m = true → a ≤ lo → m.get a = unlistedByte a := by
  induction m with
  | nil => intro lo a _ _; rfl
  | cons x m ih =>
    obtain ⟨k, v⟩ := x
    intro lo a h hl
    simp only [Memory.wfFrom, Bool.and_eq_true, decide_eq_true_eq] at h
    obtain ⟨⟨hk, _⟩, ht⟩ := h
    simp only [Memory.get, show k ≠ a by omega, if_false]
    exact ih ht (by omega)

/-- A write leaves every other byte alone. -/
theorem Memory.get_set_other {m : Memory} {a a' : Nat} (b : Byte) (h : a' ≠ a) : (m.set a b).get a' = m.get a' := by
  induction m with
  | nil => by_cases hb : b = unlistedByte a <;> simp [Memory.set, Memory.get, hb, Ne.symm h]
  | cons x m ih =>
    obtain ⟨k, v⟩ := x
    by_cases hak : a < k
    · by_cases hb : b = unlistedByte a <;> simp [Memory.set, hak, hb, Memory.get, Ne.symm h]
    · by_cases hae : a = k
      · subst hae
        by_cases hb : b = unlistedByte a <;> simp [Memory.set, hb, Memory.get, Ne.symm h]
      · simp [Memory.set, hak, hae, Memory.get, ih]

/-- In a canonical memory, a byte that was written reads back. -/
theorem Memory.get_set_same {m : Memory} (h : m.wf = true) (a : Nat) (b : Byte) : (m.set a b).get a = b := by
  suffices H : ∀ {m : Memory}, m.wf = true → (m.set a b).get a = b from H h
  intro m
  induction m with
  | nil => intro _; by_cases hb : b = unlistedByte a <;> simp [Memory.set, Memory.get, hb]
  | cons x m ih =>
    obtain ⟨k, v⟩ := x
    intro h
    simp only [Memory.wf, Memory.wfFrom, Bool.and_eq_true] at h
    obtain ⟨⟨_, hv⟩, ht⟩ := h
    by_cases hak : a < k
    · by_cases hb : b = unlistedByte a
      · simp only [Memory.set, hak, hb, if_true, Memory.get, show k ≠ a by omega, if_false]
        exact Memory.get_low ht (by omega)
      · simp [Memory.set, hak, hb, Memory.get]
    · by_cases hae : a = k
      · subst hae
        by_cases hb : b = unlistedByte a
        · simpa [Memory.set, hb] using Memory.get_low ht (Nat.le_refl a)
        · simp [Memory.set, hb, Memory.get]
      · simp only [Memory.set, hak, hae, if_false, Memory.get, show k ≠ a by omega]
        exact ih (Memory.wf_of_wfFrom ht)

/-- A run of bytes written leaves every byte outside it alone. -/
theorem Memory.get_write_other (bs : List Byte) : ∀ {m : Memory} {a a' : Nat}, (a' < a ∨ a + bs.length ≤ a') →
    (m.write a bs).get a' = m.get a' := by
  induction bs with
  | nil => intros; rfl
  | cons b bs ih =>
    intro m a a' h
    simp only [List.length_cons] at h
    simp only [Memory.write]
    rw [ih (by omega), Memory.get_set_other b (by omega)]

theorem Memory.get_writeMasked_other (bs : List (Option Byte)) : ∀ {m : Memory} {a a' : Nat},
    (a' < a ∨ a + bs.length ≤ a') → (m.writeMasked a bs).get a' = m.get a' := by
  induction bs with
  | nil => intros; rfl
  | cons b bs ih =>
    intro m a a' h
    simp only [List.length_cons] at h
    cases b with
    | none => simp only [Memory.writeMasked]; exact ih (by omega)
    | some b => simp only [Memory.writeMasked]; rw [ih (by omega), Memory.get_set_other b (by omega)]

/-- Bytes written read back, and runs outside them read as before. -/
theorem Memory.read_write_same (bs : List Byte) : ∀ {m : Memory}, m.wf = true → ∀ a, (m.write a bs).read a bs.length = bs := by
  induction bs with
  | nil => intros; rfl
  | cons b bs ih =>
    intro m h a
    simp only [Memory.write, List.length_cons, Memory.read]
    rw [Memory.get_write_other bs (by omega), Memory.get_set_same h, ih (Memory.wf_set h a b)]

theorem Memory.read_write_other {m : Memory} (bs : List Byte) {n : Nat} : ∀ {a a' : Nat},
    (a' + n ≤ a ∨ a + bs.length ≤ a') → (m.write a bs).read a' n = m.read a' n := by
  induction n with
  | zero => intros; rfl
  | succ n ih =>
    intro a a' h
    simp only [Memory.read]
    rw [Memory.get_write_other bs (by omega), ih (by omega)]

/-- Empty memory outside the service cells' own reads as zeros (log 4). -/
theorem Memory.read_empty {n : Nat} : ∀ {a : Nat}, (a + n ≤ serviceBase ∨ serviceEnd ≤ a) →
    Memory.read [] a n = List.replicate n 0 := by
  induction n with
  | zero => intros; rfl
  | succ n ih =>
    intro a h
    rw [Memory.read, ih (by omega), Memory.get, unlistedByte, if_neg (by omega), List.replicate_succ]

/-- A number written reads back, as far as it fits its bytes. -/
theorem Memory.num_setNum {m : Memory} (h : m.wf = true) (a n x : Nat) : (m.setNum a n x).num a n = x % 256 ^ n := by
  have := Memory.read_write_same (bytesOf n x) h a
  rw [bytesOf_length] at this
  rw [Memory.num, Memory.setNum, this, ofBytes_bytesOf]

end Sys2Proof.Machine
end

