-- ==== Sys2Proof/Laws/State.lean ====
section
/-!
SUPPORT. What the updates of a state and of a context leave as it was: one lemma for each field and update.
-/
namespace Sys2Proof.Machine

/-! `State.mapTh` -/

@[simp] theorem State.mapTh_pool (s : State) (f : Ctx → Ctx) : (s.mapTh f).pool = s.pool := rfl
@[simp] theorem State.mapTh_mem (s : State) (f : Ctx → Ctx) : (s.mapTh f).mem = s.mem := rfl
@[simp] theorem State.mapTh_net (s : State) (f : Ctx → Ctx) : (s.mapTh f).net = s.net := rfl
@[simp] theorem State.mapTh_cells (s : State) (f : Ctx → Ctx) : (s.mapTh f).cells = s.cells := rfl
@[simp] theorem State.mapTh_combs (s : State) (f : Ctx → Ctx) : (s.mapTh f).combs = s.combs := rfl
@[simp] theorem State.mapTh_frames (s : State) (f : Ctx → Ctx) : (s.mapTh f).frames = s.frames := rfl
@[simp] theorem State.mapTh_regions (s : State) (f : Ctx → Ctx) : (s.mapTh f).regions = s.regions := rfl
@[simp] theorem State.mapTh_points (s : State) (f : Ctx → Ctx) : (s.mapTh f).points = s.points := rfl
@[simp] theorem State.mapTh_hub (s : State) (f : Ctx → Ctx) : (s.mapTh f).hub = s.hub := rfl
@[simp] theorem State.mapTh_plane (s : State) (f : Ctx → Ctx) : (s.mapTh f).plane = s.plane := rfl
@[simp] theorem State.mapTh_swarm (s : State) (f : Ctx → Ctx) : (s.mapTh f).swarm = s.swarm := rfl
@[simp] theorem State.mapTh_claims (s : State) (f : Ctx → Ctx) : (s.mapTh f).claims = s.claims := rfl
@[simp] theorem State.mapTh_power (s : State) (f : Ctx → Ctx) : (s.mapTh f).power = s.power := rfl
@[simp] theorem State.mapTh_sec (s : State) (f : Ctx → Ctx) : (s.mapTh f).sec = s.sec := rfl
@[simp] theorem State.mapTh_now (s : State) (f : Ctx → Ctx) : (s.mapTh f).now = s.now := rfl
@[simp] theorem State.mapTh_tick (s : State) (f : Ctx → Ctx) : (s.mapTh f).tick = s.tick := rfl
@[simp] theorem State.mapTh_agenda (s : State) (f : Ctx → Ctx) : (s.mapTh f).agenda = s.agenda := rfl

/-! `State.bump` -/

@[simp] theorem State.bump_th (s : State) : (s.bump).th = s.th := rfl
@[simp] theorem State.bump_pool (s : State) : (s.bump).pool = s.pool := rfl
@[simp] theorem State.bump_mem (s : State) : (s.bump).mem = s.mem := rfl
@[simp] theorem State.bump_net (s : State) : (s.bump).net = s.net := rfl
@[simp] theorem State.bump_cells (s : State) : (s.bump).cells = s.cells := rfl
@[simp] theorem State.bump_combs (s : State) : (s.bump).combs = s.combs := rfl
@[simp] theorem State.bump_frames (s : State) : (s.bump).frames = s.frames := rfl
@[simp] theorem State.bump_regions (s : State) : (s.bump).regions = s.regions := rfl
@[simp] theorem State.bump_points (s : State) : (s.bump).points = s.points := rfl
@[simp] theorem State.bump_hub (s : State) : (s.bump).hub = s.hub := rfl
@[simp] theorem State.bump_plane (s : State) : (s.bump).plane = s.plane := rfl
@[simp] theorem State.bump_swarm (s : State) : (s.bump).swarm = s.swarm := rfl
@[simp] theorem State.bump_claims (s : State) : (s.bump).claims = s.claims := rfl
@[simp] theorem State.bump_power (s : State) : (s.bump).power = s.power := rfl
@[simp] theorem State.bump_sec (s : State) : (s.bump).sec = s.sec := rfl
@[simp] theorem State.bump_now (s : State) : (s.bump).now = s.now := rfl
@[simp] theorem State.bump_agenda (s : State) : (s.bump).agenda = s.agenda := rfl

/-! `State.retire` -/

@[simp] theorem State.retire_pool (s : State) : (s.retire).pool = s.pool := rfl
@[simp] theorem State.retire_mem (s : State) : (s.retire).mem = s.mem := rfl
@[simp] theorem State.retire_net (s : State) : (s.retire).net = s.net := rfl
@[simp] theorem State.retire_cells (s : State) : (s.retire).cells = s.cells := rfl
@[simp] theorem State.retire_combs (s : State) : (s.retire).combs = s.combs := rfl
@[simp] theorem State.retire_frames (s : State) : (s.retire).frames = s.frames := rfl
@[simp] theorem State.retire_regions (s : State) : (s.retire).regions = s.regions := rfl
@[simp] theorem State.retire_points (s : State) : (s.retire).points = s.points := rfl
@[simp] theorem State.retire_hub (s : State) : (s.retire).hub = s.hub := rfl
@[simp] theorem State.retire_plane (s : State) : (s.retire).plane = s.plane := rfl
@[simp] theorem State.retire_swarm (s : State) : (s.retire).swarm = s.swarm := rfl
@[simp] theorem State.retire_claims (s : State) : (s.retire).claims = s.claims := rfl
@[simp] theorem State.retire_power (s : State) : (s.retire).power = s.power := rfl
@[simp] theorem State.retire_sec (s : State) : (s.retire).sec = s.sec := rfl
@[simp] theorem State.retire_now (s : State) : (s.retire).now = s.now := rfl
@[simp] theorem State.retire_tick (s : State) : (s.retire).tick = s.tick := rfl
@[simp] theorem State.retire_agenda (s : State) : (s.retire).agenda = s.agenda := rfl

/-! `State.setCell` -/

@[simp] theorem State.setCell_th (s : State) (x : CellRec) : (s.setCell x).th = s.th := rfl
@[simp] theorem State.setCell_pool (s : State) (x : CellRec) : (s.setCell x).pool = s.pool := rfl
@[simp] theorem State.setCell_mem (s : State) (x : CellRec) : (s.setCell x).mem = s.mem := rfl
@[simp] theorem State.setCell_net (s : State) (x : CellRec) : (s.setCell x).net = s.net := rfl
@[simp] theorem State.setCell_combs (s : State) (x : CellRec) : (s.setCell x).combs = s.combs := rfl
@[simp] theorem State.setCell_frames (s : State) (x : CellRec) : (s.setCell x).frames = s.frames := rfl
@[simp] theorem State.setCell_regions (s : State) (x : CellRec) : (s.setCell x).regions = s.regions := rfl
@[simp] theorem State.setCell_points (s : State) (x : CellRec) : (s.setCell x).points = s.points := rfl
@[simp] theorem State.setCell_hub (s : State) (x : CellRec) : (s.setCell x).hub = s.hub := rfl
@[simp] theorem State.setCell_plane (s : State) (x : CellRec) : (s.setCell x).plane = s.plane := rfl
@[simp] theorem State.setCell_swarm (s : State) (x : CellRec) : (s.setCell x).swarm = s.swarm := rfl
@[simp] theorem State.setCell_claims (s : State) (x : CellRec) : (s.setCell x).claims = s.claims := rfl
@[simp] theorem State.setCell_power (s : State) (x : CellRec) : (s.setCell x).power = s.power := rfl
@[simp] theorem State.setCell_sec (s : State) (x : CellRec) : (s.setCell x).sec = s.sec := rfl
@[simp] theorem State.setCell_now (s : State) (x : CellRec) : (s.setCell x).now = s.now := rfl
@[simp] theorem State.setCell_tick (s : State) (x : CellRec) : (s.setCell x).tick = s.tick := rfl
@[simp] theorem State.setCell_agenda (s : State) (x : CellRec) : (s.setCell x).agenda = s.agenda := rfl

/-! `State.setComb` -/

@[simp] theorem State.setComb_th (s : State) (x : CombRec) : (s.setComb x).th = s.th := rfl
@[simp] theorem State.setComb_pool (s : State) (x : CombRec) : (s.setComb x).pool = s.pool := rfl
@[simp] theorem State.setComb_mem (s : State) (x : CombRec) : (s.setComb x).mem = s.mem := rfl
@[simp] theorem State.setComb_net (s : State) (x : CombRec) : (s.setComb x).net = s.net := rfl
@[simp] theorem State.setComb_cells (s : State) (x : CombRec) : (s.setComb x).cells = s.cells := rfl
@[simp] theorem State.setComb_frames (s : State) (x : CombRec) : (s.setComb x).frames = s.frames := rfl
@[simp] theorem State.setComb_regions (s : State) (x : CombRec) : (s.setComb x).regions = s.regions := rfl
@[simp] theorem State.setComb_points (s : State) (x : CombRec) : (s.setComb x).points = s.points := rfl
@[simp] theorem State.setComb_hub (s : State) (x : CombRec) : (s.setComb x).hub = s.hub := rfl
@[simp] theorem State.setComb_plane (s : State) (x : CombRec) : (s.setComb x).plane = s.plane := rfl
@[simp] theorem State.setComb_swarm (s : State) (x : CombRec) : (s.setComb x).swarm = s.swarm := rfl
@[simp] theorem State.setComb_claims (s : State) (x : CombRec) : (s.setComb x).claims = s.claims := rfl
@[simp] theorem State.setComb_power (s : State) (x : CombRec) : (s.setComb x).power = s.power := rfl
@[simp] theorem State.setComb_sec (s : State) (x : CombRec) : (s.setComb x).sec = s.sec := rfl
@[simp] theorem State.setComb_now (s : State) (x : CombRec) : (s.setComb x).now = s.now := rfl
@[simp] theorem State.setComb_tick (s : State) (x : CombRec) : (s.setComb x).tick = s.tick := rfl
@[simp] theorem State.setComb_agenda (s : State) (x : CombRec) : (s.setComb x).agenda = s.agenda := rfl

/-! `State.setFrame` -/

@[simp] theorem State.setFrame_th (s : State) (x : FrameRec) : (s.setFrame x).th = s.th := rfl
@[simp] theorem State.setFrame_pool (s : State) (x : FrameRec) : (s.setFrame x).pool = s.pool := rfl
@[simp] theorem State.setFrame_mem (s : State) (x : FrameRec) : (s.setFrame x).mem = s.mem := rfl
@[simp] theorem State.setFrame_net (s : State) (x : FrameRec) : (s.setFrame x).net = s.net := rfl
@[simp] theorem State.setFrame_cells (s : State) (x : FrameRec) : (s.setFrame x).cells = s.cells := rfl
@[simp] theorem State.setFrame_combs (s : State) (x : FrameRec) : (s.setFrame x).combs = s.combs := rfl
@[simp] theorem State.setFrame_regions (s : State) (x : FrameRec) : (s.setFrame x).regions = s.regions := rfl
@[simp] theorem State.setFrame_points (s : State) (x : FrameRec) : (s.setFrame x).points = s.points := rfl
@[simp] theorem State.setFrame_hub (s : State) (x : FrameRec) : (s.setFrame x).hub = s.hub := rfl
@[simp] theorem State.setFrame_plane (s : State) (x : FrameRec) : (s.setFrame x).plane = s.plane := rfl
@[simp] theorem State.setFrame_swarm (s : State) (x : FrameRec) : (s.setFrame x).swarm = s.swarm := rfl
@[simp] theorem State.setFrame_claims (s : State) (x : FrameRec) : (s.setFrame x).claims = s.claims := rfl
@[simp] theorem State.setFrame_power (s : State) (x : FrameRec) : (s.setFrame x).power = s.power := rfl
@[simp] theorem State.setFrame_sec (s : State) (x : FrameRec) : (s.setFrame x).sec = s.sec := rfl
@[simp] theorem State.setFrame_now (s : State) (x : FrameRec) : (s.setFrame x).now = s.now := rfl
@[simp] theorem State.setFrame_tick (s : State) (x : FrameRec) : (s.setFrame x).tick = s.tick := rfl
@[simp] theorem State.setFrame_agenda (s : State) (x : FrameRec) : (s.setFrame x).agenda = s.agenda := rfl

/-! `State.updCtx` -/

@[simp] theorem State.updCtx_mem (s : State) (c : CtxId) (f : Ctx → Ctx) : (s.updCtx c f).mem = s.mem := rfl
@[simp] theorem State.updCtx_net (s : State) (c : CtxId) (f : Ctx → Ctx) : (s.updCtx c f).net = s.net := rfl
@[simp] theorem State.updCtx_cells (s : State) (c : CtxId) (f : Ctx → Ctx) : (s.updCtx c f).cells = s.cells := rfl
@[simp] theorem State.updCtx_combs (s : State) (c : CtxId) (f : Ctx → Ctx) : (s.updCtx c f).combs = s.combs := rfl
@[simp] theorem State.updCtx_frames (s : State) (c : CtxId) (f : Ctx → Ctx) : (s.updCtx c f).frames = s.frames := rfl
@[simp] theorem State.updCtx_regions (s : State) (c : CtxId) (f : Ctx → Ctx) : (s.updCtx c f).regions = s.regions := rfl
@[simp] theorem State.updCtx_points (s : State) (c : CtxId) (f : Ctx → Ctx) : (s.updCtx c f).points = s.points := rfl
@[simp] theorem State.updCtx_hub (s : State) (c : CtxId) (f : Ctx → Ctx) : (s.updCtx c f).hub = s.hub := rfl
@[simp] theorem State.updCtx_plane (s : State) (c : CtxId) (f : Ctx → Ctx) : (s.updCtx c f).plane = s.plane := rfl
@[simp] theorem State.updCtx_swarm (s : State) (c : CtxId) (f : Ctx → Ctx) : (s.updCtx c f).swarm = s.swarm := rfl
@[simp] theorem State.updCtx_claims (s : State) (c : CtxId) (f : Ctx → Ctx) : (s.updCtx c f).claims = s.claims := rfl
@[simp] theorem State.updCtx_power (s : State) (c : CtxId) (f : Ctx → Ctx) : (s.updCtx c f).power = s.power := rfl
@[simp] theorem State.updCtx_sec (s : State) (c : CtxId) (f : Ctx → Ctx) : (s.updCtx c f).sec = s.sec := rfl
@[simp] theorem State.updCtx_now (s : State) (c : CtxId) (f : Ctx → Ctx) : (s.updCtx c f).now = s.now := rfl
@[simp] theorem State.updCtx_tick (s : State) (c : CtxId) (f : Ctx → Ctx) : (s.updCtx c f).tick = s.tick := rfl
@[simp] theorem State.updCtx_agenda (s : State) (c : CtxId) (f : Ctx → Ctx) : (s.updCtx c f).agenda = s.agenda := rfl

/-! `State.updRegion` -/

@[simp] theorem State.updRegion_th (s : State) (r : RegionId) (f : Region → Region) : (s.updRegion r f).th = s.th := rfl
@[simp] theorem State.updRegion_pool (s : State) (r : RegionId) (f : Region → Region) : (s.updRegion r f).pool = s.pool := rfl
@[simp] theorem State.updRegion_mem (s : State) (r : RegionId) (f : Region → Region) : (s.updRegion r f).mem = s.mem := rfl
@[simp] theorem State.updRegion_net (s : State) (r : RegionId) (f : Region → Region) : (s.updRegion r f).net = s.net := rfl
@[simp] theorem State.updRegion_cells (s : State) (r : RegionId) (f : Region → Region) : (s.updRegion r f).cells = s.cells := rfl
@[simp] theorem State.updRegion_combs (s : State) (r : RegionId) (f : Region → Region) : (s.updRegion r f).combs = s.combs := rfl
@[simp] theorem State.updRegion_frames (s : State) (r : RegionId) (f : Region → Region) : (s.updRegion r f).frames = s.frames := rfl
@[simp] theorem State.updRegion_points (s : State) (r : RegionId) (f : Region → Region) : (s.updRegion r f).points = s.points := rfl
@[simp] theorem State.updRegion_hub (s : State) (r : RegionId) (f : Region → Region) : (s.updRegion r f).hub = s.hub := rfl
@[simp] theorem State.updRegion_plane (s : State) (r : RegionId) (f : Region → Region) : (s.updRegion r f).plane = s.plane := rfl
@[simp] theorem State.updRegion_swarm (s : State) (r : RegionId) (f : Region → Region) : (s.updRegion r f).swarm = s.swarm := rfl
@[simp] theorem State.updRegion_claims (s : State) (r : RegionId) (f : Region → Region) : (s.updRegion r f).claims = s.claims := rfl
@[simp] theorem State.updRegion_power (s : State) (r : RegionId) (f : Region → Region) : (s.updRegion r f).power = s.power := rfl
@[simp] theorem State.updRegion_sec (s : State) (r : RegionId) (f : Region → Region) : (s.updRegion r f).sec = s.sec := rfl
@[simp] theorem State.updRegion_now (s : State) (r : RegionId) (f : Region → Region) : (s.updRegion r f).now = s.now := rfl
@[simp] theorem State.updRegion_tick (s : State) (r : RegionId) (f : Region → Region) : (s.updRegion r f).tick = s.tick := rfl
@[simp] theorem State.updRegion_agenda (s : State) (r : RegionId) (f : Region → Region) : (s.updRegion r f).agenda = s.agenda := rfl

/-! `State.detachFollowers` -/

@[simp] theorem State.detachFollowers_mem (s : State) (l : CtxId) : (s.detachFollowers l).mem = s.mem := rfl
@[simp] theorem State.detachFollowers_net (s : State) (l : CtxId) : (s.detachFollowers l).net = s.net := rfl
@[simp] theorem State.detachFollowers_cells (s : State) (l : CtxId) : (s.detachFollowers l).cells = s.cells := rfl
@[simp] theorem State.detachFollowers_combs (s : State) (l : CtxId) : (s.detachFollowers l).combs = s.combs := rfl
@[simp] theorem State.detachFollowers_frames (s : State) (l : CtxId) : (s.detachFollowers l).frames = s.frames := rfl
@[simp] theorem State.detachFollowers_regions (s : State) (l : CtxId) : (s.detachFollowers l).regions = s.regions := rfl
@[simp] theorem State.detachFollowers_points (s : State) (l : CtxId) : (s.detachFollowers l).points = s.points := rfl
@[simp] theorem State.detachFollowers_hub (s : State) (l : CtxId) : (s.detachFollowers l).hub = s.hub := rfl
@[simp] theorem State.detachFollowers_plane (s : State) (l : CtxId) : (s.detachFollowers l).plane = s.plane := rfl
@[simp] theorem State.detachFollowers_swarm (s : State) (l : CtxId) : (s.detachFollowers l).swarm = s.swarm := rfl
@[simp] theorem State.detachFollowers_claims (s : State) (l : CtxId) : (s.detachFollowers l).claims = s.claims := rfl
@[simp] theorem State.detachFollowers_power (s : State) (l : CtxId) : (s.detachFollowers l).power = s.power := rfl
@[simp] theorem State.detachFollowers_sec (s : State) (l : CtxId) : (s.detachFollowers l).sec = s.sec := rfl
@[simp] theorem State.detachFollowers_now (s : State) (l : CtxId) : (s.detachFollowers l).now = s.now := rfl
@[simp] theorem State.detachFollowers_tick (s : State) (l : CtxId) : (s.detachFollowers l).tick = s.tick := rfl
@[simp] theorem State.detachFollowers_agenda (s : State) (l : CtxId) : (s.detachFollowers l).agenda = s.agenda := rfl

/-! `State.trap` -/

@[simp] theorem State.trap_mem (s : State) (t : Trap) : (s.trap t).mem = s.mem := rfl
@[simp] theorem State.trap_net (s : State) (t : Trap) : (s.trap t).net = s.net := rfl
@[simp] theorem State.trap_cells (s : State) (t : Trap) : (s.trap t).cells = s.cells := rfl
@[simp] theorem State.trap_combs (s : State) (t : Trap) : (s.trap t).combs = s.combs := rfl
@[simp] theorem State.trap_frames (s : State) (t : Trap) : (s.trap t).frames = s.frames := rfl
@[simp] theorem State.trap_regions (s : State) (t : Trap) : (s.trap t).regions = s.regions := rfl
@[simp] theorem State.trap_points (s : State) (t : Trap) : (s.trap t).points = s.points := rfl
@[simp] theorem State.trap_hub (s : State) (t : Trap) : (s.trap t).hub = s.hub := rfl
@[simp] theorem State.trap_plane (s : State) (t : Trap) : (s.trap t).plane = s.plane := rfl
@[simp] theorem State.trap_swarm (s : State) (t : Trap) : (s.trap t).swarm = s.swarm := rfl
@[simp] theorem State.trap_claims (s : State) (t : Trap) : (s.trap t).claims = s.claims := rfl
@[simp] theorem State.trap_power (s : State) (t : Trap) : (s.trap t).power = s.power := rfl
@[simp] theorem State.trap_sec (s : State) (t : Trap) : (s.trap t).sec = s.sec := rfl
@[simp] theorem State.trap_now (s : State) (t : Trap) : (s.trap t).now = s.now := rfl
@[simp] theorem State.trap_tick (s : State) (t : Trap) : (s.trap t).tick = s.tick := rfl
@[simp] theorem State.trap_agenda (s : State) (t : Trap) : (s.trap t).agenda = s.agenda := rfl

/-! `State.reply` -/

@[simp] theorem State.reply_th (s : State) (r : Reply) : (s.reply r).th = s.th := rfl
@[simp] theorem State.reply_pool (s : State) (r : Reply) : (s.reply r).pool = s.pool := rfl
@[simp] theorem State.reply_mem (s : State) (r : Reply) : (s.reply r).mem = s.mem := rfl
@[simp] theorem State.reply_cells (s : State) (r : Reply) : (s.reply r).cells = s.cells := rfl
@[simp] theorem State.reply_combs (s : State) (r : Reply) : (s.reply r).combs = s.combs := rfl
@[simp] theorem State.reply_frames (s : State) (r : Reply) : (s.reply r).frames = s.frames := rfl
@[simp] theorem State.reply_regions (s : State) (r : Reply) : (s.reply r).regions = s.regions := rfl
@[simp] theorem State.reply_points (s : State) (r : Reply) : (s.reply r).points = s.points := rfl
@[simp] theorem State.reply_hub (s : State) (r : Reply) : (s.reply r).hub = s.hub := rfl
@[simp] theorem State.reply_plane (s : State) (r : Reply) : (s.reply r).plane = s.plane := rfl
@[simp] theorem State.reply_swarm (s : State) (r : Reply) : (s.reply r).swarm = s.swarm := rfl
@[simp] theorem State.reply_claims (s : State) (r : Reply) : (s.reply r).claims = s.claims := rfl
@[simp] theorem State.reply_power (s : State) (r : Reply) : (s.reply r).power = s.power := rfl
@[simp] theorem State.reply_sec (s : State) (r : Reply) : (s.reply r).sec = s.sec := rfl
@[simp] theorem State.reply_now (s : State) (r : Reply) : (s.reply r).now = s.now := rfl
@[simp] theorem State.reply_tick (s : State) (r : Reply) : (s.reply r).tick = s.tick := rfl
@[simp] theorem State.reply_agenda (s : State) (r : Reply) : (s.reply r).agenda = s.agenda := rfl

/-! `State.closeLine` -/

@[simp] theorem State.closeLine_th (s : State) (l : Nat) : (s.closeLine l).th = s.th := rfl
@[simp] theorem State.closeLine_pool (s : State) (l : Nat) : (s.closeLine l).pool = s.pool := rfl
@[simp] theorem State.closeLine_mem (s : State) (l : Nat) : (s.closeLine l).mem = s.mem := rfl
@[simp] theorem State.closeLine_cells (s : State) (l : Nat) : (s.closeLine l).cells = s.cells := rfl
@[simp] theorem State.closeLine_combs (s : State) (l : Nat) : (s.closeLine l).combs = s.combs := rfl
@[simp] theorem State.closeLine_frames (s : State) (l : Nat) : (s.closeLine l).frames = s.frames := rfl
@[simp] theorem State.closeLine_regions (s : State) (l : Nat) : (s.closeLine l).regions = s.regions := rfl
@[simp] theorem State.closeLine_points (s : State) (l : Nat) : (s.closeLine l).points = s.points := rfl
@[simp] theorem State.closeLine_hub (s : State) (l : Nat) : (s.closeLine l).hub = s.hub := rfl
@[simp] theorem State.closeLine_plane (s : State) (l : Nat) : (s.closeLine l).plane = s.plane := rfl
@[simp] theorem State.closeLine_swarm (s : State) (l : Nat) : (s.closeLine l).swarm = s.swarm := rfl
@[simp] theorem State.closeLine_claims (s : State) (l : Nat) : (s.closeLine l).claims = s.claims := rfl
@[simp] theorem State.closeLine_power (s : State) (l : Nat) : (s.closeLine l).power = s.power := rfl
@[simp] theorem State.closeLine_sec (s : State) (l : Nat) : (s.closeLine l).sec = s.sec := rfl
@[simp] theorem State.closeLine_now (s : State) (l : Nat) : (s.closeLine l).now = s.now := rfl
@[simp] theorem State.closeLine_tick (s : State) (l : Nat) : (s.closeLine l).tick = s.tick := rfl
@[simp] theorem State.closeLine_agenda (s : State) (l : Nat) : (s.closeLine l).agenda = s.agenda := rfl

/-! `State.wakeLine` -/

@[simp] theorem State.wakeLine_th (s : State) (l : Nat) : (s.wakeLine l).th = s.th := rfl
@[simp] theorem State.wakeLine_pool (s : State) (l : Nat) : (s.wakeLine l).pool = s.pool := rfl
@[simp] theorem State.wakeLine_mem (s : State) (l : Nat) : (s.wakeLine l).mem = s.mem := rfl
@[simp] theorem State.wakeLine_cells (s : State) (l : Nat) : (s.wakeLine l).cells = s.cells := rfl
@[simp] theorem State.wakeLine_combs (s : State) (l : Nat) : (s.wakeLine l).combs = s.combs := rfl
@[simp] theorem State.wakeLine_frames (s : State) (l : Nat) : (s.wakeLine l).frames = s.frames := rfl
@[simp] theorem State.wakeLine_regions (s : State) (l : Nat) : (s.wakeLine l).regions = s.regions := rfl
@[simp] theorem State.wakeLine_points (s : State) (l : Nat) : (s.wakeLine l).points = s.points := rfl
@[simp] theorem State.wakeLine_hub (s : State) (l : Nat) : (s.wakeLine l).hub = s.hub := rfl
@[simp] theorem State.wakeLine_plane (s : State) (l : Nat) : (s.wakeLine l).plane = s.plane := rfl
@[simp] theorem State.wakeLine_swarm (s : State) (l : Nat) : (s.wakeLine l).swarm = s.swarm := rfl
@[simp] theorem State.wakeLine_claims (s : State) (l : Nat) : (s.wakeLine l).claims = s.claims := rfl
@[simp] theorem State.wakeLine_power (s : State) (l : Nat) : (s.wakeLine l).power = s.power := rfl
@[simp] theorem State.wakeLine_sec (s : State) (l : Nat) : (s.wakeLine l).sec = s.sec := rfl
@[simp] theorem State.wakeLine_now (s : State) (l : Nat) : (s.wakeLine l).now = s.now := rfl
@[simp] theorem State.wakeLine_tick (s : State) (l : Nat) : (s.wakeLine l).tick = s.tick := rfl
@[simp] theorem State.wakeLine_agenda (s : State) (l : Nat) : (s.wakeLine l).agenda = s.agenda := rfl

/-! `State.clearPoison` -/

@[simp] theorem State.clearPoison_th (s : State) (pa : Nat) (bs : List (Option Byte)) : (s.clearPoison pa bs).th = s.th := rfl
@[simp] theorem State.clearPoison_pool (s : State) (pa : Nat) (bs : List (Option Byte)) : (s.clearPoison pa bs).pool = s.pool := rfl
@[simp] theorem State.clearPoison_mem (s : State) (pa : Nat) (bs : List (Option Byte)) : (s.clearPoison pa bs).mem = s.mem := rfl
@[simp] theorem State.clearPoison_net (s : State) (pa : Nat) (bs : List (Option Byte)) : (s.clearPoison pa bs).net = s.net := rfl
@[simp] theorem State.clearPoison_cells (s : State) (pa : Nat) (bs : List (Option Byte)) : (s.clearPoison pa bs).cells = s.cells := rfl
@[simp] theorem State.clearPoison_combs (s : State) (pa : Nat) (bs : List (Option Byte)) : (s.clearPoison pa bs).combs = s.combs := rfl
@[simp] theorem State.clearPoison_frames (s : State) (pa : Nat) (bs : List (Option Byte)) : (s.clearPoison pa bs).frames = s.frames := rfl
@[simp] theorem State.clearPoison_regions (s : State) (pa : Nat) (bs : List (Option Byte)) : (s.clearPoison pa bs).regions = s.regions := rfl
@[simp] theorem State.clearPoison_points (s : State) (pa : Nat) (bs : List (Option Byte)) : (s.clearPoison pa bs).points = s.points := rfl
@[simp] theorem State.clearPoison_hub (s : State) (pa : Nat) (bs : List (Option Byte)) : (s.clearPoison pa bs).hub = s.hub := rfl
@[simp] theorem State.clearPoison_plane (s : State) (pa : Nat) (bs : List (Option Byte)) : (s.clearPoison pa bs).plane = s.plane := rfl
@[simp] theorem State.clearPoison_swarm (s : State) (pa : Nat) (bs : List (Option Byte)) : (s.clearPoison pa bs).swarm = s.swarm := rfl
@[simp] theorem State.clearPoison_claims (s : State) (pa : Nat) (bs : List (Option Byte)) : (s.clearPoison pa bs).claims = s.claims := rfl
@[simp] theorem State.clearPoison_sec (s : State) (pa : Nat) (bs : List (Option Byte)) : (s.clearPoison pa bs).sec = s.sec := rfl
@[simp] theorem State.clearPoison_now (s : State) (pa : Nat) (bs : List (Option Byte)) : (s.clearPoison pa bs).now = s.now := rfl
@[simp] theorem State.clearPoison_tick (s : State) (pa : Nat) (bs : List (Option Byte)) : (s.clearPoison pa bs).tick = s.tick := rfl
@[simp] theorem State.clearPoison_agenda (s : State) (pa : Nat) (bs : List (Option Byte)) : (s.clearPoison pa bs).agenda = s.agenda := rfl

/-! `State.writeAt` -/

@[simp] theorem State.writeAt_th (s : State) (pa : Nat) (bs : List (Option Byte)) : (s.writeAt pa bs).th = s.th := rfl
@[simp] theorem State.writeAt_pool (s : State) (pa : Nat) (bs : List (Option Byte)) : (s.writeAt pa bs).pool = s.pool := rfl
@[simp] theorem State.writeAt_mem (s : State) (pa : Nat) (bs : List (Option Byte)) : (s.writeAt pa bs).mem = s.mem := rfl
@[simp] theorem State.writeAt_cells (s : State) (pa : Nat) (bs : List (Option Byte)) : (s.writeAt pa bs).cells = s.cells := rfl
@[simp] theorem State.writeAt_combs (s : State) (pa : Nat) (bs : List (Option Byte)) : (s.writeAt pa bs).combs = s.combs := rfl
@[simp] theorem State.writeAt_frames (s : State) (pa : Nat) (bs : List (Option Byte)) : (s.writeAt pa bs).frames = s.frames := rfl
@[simp] theorem State.writeAt_regions (s : State) (pa : Nat) (bs : List (Option Byte)) : (s.writeAt pa bs).regions = s.regions := rfl
@[simp] theorem State.writeAt_points (s : State) (pa : Nat) (bs : List (Option Byte)) : (s.writeAt pa bs).points = s.points := rfl
@[simp] theorem State.writeAt_hub (s : State) (pa : Nat) (bs : List (Option Byte)) : (s.writeAt pa bs).hub = s.hub := rfl
@[simp] theorem State.writeAt_plane (s : State) (pa : Nat) (bs : List (Option Byte)) : (s.writeAt pa bs).plane = s.plane := rfl
@[simp] theorem State.writeAt_swarm (s : State) (pa : Nat) (bs : List (Option Byte)) : (s.writeAt pa bs).swarm = s.swarm := rfl
@[simp] theorem State.writeAt_claims (s : State) (pa : Nat) (bs : List (Option Byte)) : (s.writeAt pa bs).claims = s.claims := rfl
@[simp] theorem State.writeAt_sec (s : State) (pa : Nat) (bs : List (Option Byte)) : (s.writeAt pa bs).sec = s.sec := rfl
@[simp] theorem State.writeAt_now (s : State) (pa : Nat) (bs : List (Option Byte)) : (s.writeAt pa bs).now = s.now := rfl
@[simp] theorem State.writeAt_tick (s : State) (pa : Nat) (bs : List (Option Byte)) : (s.writeAt pa bs).tick = s.tick := rfl
@[simp] theorem State.writeAt_agenda (s : State) (pa : Nat) (bs : List (Option Byte)) : (s.writeAt pa bs).agenda = s.agenda := rfl

/-! `State.setClaim` -/

@[simp] theorem State.setClaim_th (s : State) (k : Claim) : (s.setClaim k).th = s.th := rfl
@[simp] theorem State.setClaim_pool (s : State) (k : Claim) : (s.setClaim k).pool = s.pool := rfl
@[simp] theorem State.setClaim_mem (s : State) (k : Claim) : (s.setClaim k).mem = s.mem := rfl
@[simp] theorem State.setClaim_net (s : State) (k : Claim) : (s.setClaim k).net = s.net := rfl
@[simp] theorem State.setClaim_cells (s : State) (k : Claim) : (s.setClaim k).cells = s.cells := rfl
@[simp] theorem State.setClaim_combs (s : State) (k : Claim) : (s.setClaim k).combs = s.combs := rfl
@[simp] theorem State.setClaim_frames (s : State) (k : Claim) : (s.setClaim k).frames = s.frames := rfl
@[simp] theorem State.setClaim_regions (s : State) (k : Claim) : (s.setClaim k).regions = s.regions := rfl
@[simp] theorem State.setClaim_points (s : State) (k : Claim) : (s.setClaim k).points = s.points := rfl
@[simp] theorem State.setClaim_hub (s : State) (k : Claim) : (s.setClaim k).hub = s.hub := rfl
@[simp] theorem State.setClaim_plane (s : State) (k : Claim) : (s.setClaim k).plane = s.plane := rfl
@[simp] theorem State.setClaim_swarm (s : State) (k : Claim) : (s.setClaim k).swarm = s.swarm := rfl
@[simp] theorem State.setClaim_power (s : State) (k : Claim) : (s.setClaim k).power = s.power := rfl
@[simp] theorem State.setClaim_sec (s : State) (k : Claim) : (s.setClaim k).sec = s.sec := rfl
@[simp] theorem State.setClaim_now (s : State) (k : Claim) : (s.setClaim k).now = s.now := rfl
@[simp] theorem State.setClaim_tick (s : State) (k : Claim) : (s.setClaim k).tick = s.tick := rfl
@[simp] theorem State.setClaim_agenda (s : State) (k : Claim) : (s.setClaim k).agenda = s.agenda := rfl

/-! `State.notePoint` -/

@[simp] theorem State.notePoint_th (s : State) (c : Ctx) : (s.notePoint c).th = s.th := rfl
@[simp] theorem State.notePoint_pool (s : State) (c : Ctx) : (s.notePoint c).pool = s.pool := rfl
@[simp] theorem State.notePoint_mem (s : State) (c : Ctx) : (s.notePoint c).mem = s.mem := rfl
@[simp] theorem State.notePoint_net (s : State) (c : Ctx) : (s.notePoint c).net = s.net := rfl
@[simp] theorem State.notePoint_cells (s : State) (c : Ctx) : (s.notePoint c).cells = s.cells := rfl
@[simp] theorem State.notePoint_combs (s : State) (c : Ctx) : (s.notePoint c).combs = s.combs := rfl
@[simp] theorem State.notePoint_frames (s : State) (c : Ctx) : (s.notePoint c).frames = s.frames := rfl
@[simp] theorem State.notePoint_regions (s : State) (c : Ctx) : (s.notePoint c).regions = s.regions := rfl
@[simp] theorem State.notePoint_hub (s : State) (c : Ctx) : (s.notePoint c).hub = s.hub := rfl
@[simp] theorem State.notePoint_plane (s : State) (c : Ctx) : (s.notePoint c).plane = s.plane := rfl
@[simp] theorem State.notePoint_swarm (s : State) (c : Ctx) : (s.notePoint c).swarm = s.swarm := rfl
@[simp] theorem State.notePoint_claims (s : State) (c : Ctx) : (s.notePoint c).claims = s.claims := rfl
@[simp] theorem State.notePoint_power (s : State) (c : Ctx) : (s.notePoint c).power = s.power := rfl
@[simp] theorem State.notePoint_sec (s : State) (c : Ctx) : (s.notePoint c).sec = s.sec := rfl
@[simp] theorem State.notePoint_now (s : State) (c : Ctx) : (s.notePoint c).now = s.now := rfl
@[simp] theorem State.notePoint_tick (s : State) (c : Ctx) : (s.notePoint c).tick = s.tick := rfl
@[simp] theorem State.notePoint_agenda (s : State) (c : Ctx) : (s.notePoint c).agenda = s.agenda := rfl

/-! `State.ioPut` -/

@[simp] theorem State.ioPut_th (s : State) (x : Io) : (s.ioPut x).th = s.th := rfl
@[simp] theorem State.ioPut_pool (s : State) (x : Io) : (s.ioPut x).pool = s.pool := rfl
@[simp] theorem State.ioPut_mem (s : State) (x : Io) : (s.ioPut x).mem = s.mem := rfl
@[simp] theorem State.ioPut_cells (s : State) (x : Io) : (s.ioPut x).cells = s.cells := rfl
@[simp] theorem State.ioPut_combs (s : State) (x : Io) : (s.ioPut x).combs = s.combs := rfl
@[simp] theorem State.ioPut_frames (s : State) (x : Io) : (s.ioPut x).frames = s.frames := rfl
@[simp] theorem State.ioPut_regions (s : State) (x : Io) : (s.ioPut x).regions = s.regions := rfl
@[simp] theorem State.ioPut_points (s : State) (x : Io) : (s.ioPut x).points = s.points := rfl
@[simp] theorem State.ioPut_hub (s : State) (x : Io) : (s.ioPut x).hub = s.hub := rfl
@[simp] theorem State.ioPut_plane (s : State) (x : Io) : (s.ioPut x).plane = s.plane := rfl
@[simp] theorem State.ioPut_swarm (s : State) (x : Io) : (s.ioPut x).swarm = s.swarm := rfl
@[simp] theorem State.ioPut_claims (s : State) (x : Io) : (s.ioPut x).claims = s.claims := rfl
@[simp] theorem State.ioPut_power (s : State) (x : Io) : (s.ioPut x).power = s.power := rfl
@[simp] theorem State.ioPut_sec (s : State) (x : Io) : (s.ioPut x).sec = s.sec := rfl
@[simp] theorem State.ioPut_now (s : State) (x : Io) : (s.ioPut x).now = s.now := rfl
@[simp] theorem State.ioPut_tick (s : State) (x : Io) : (s.ioPut x).tick = s.tick := rfl
@[simp] theorem State.ioPut_agenda (s : State) (x : Io) : (s.ioPut x).agenda = s.agenda := rfl

/-! `State.ioDrop` -/

@[simp] theorem State.ioDrop_th (s : State) (src : Source) (id : Nat) : (s.ioDrop src id).th = s.th := rfl
@[simp] theorem State.ioDrop_pool (s : State) (src : Source) (id : Nat) : (s.ioDrop src id).pool = s.pool := rfl
@[simp] theorem State.ioDrop_mem (s : State) (src : Source) (id : Nat) : (s.ioDrop src id).mem = s.mem := rfl
@[simp] theorem State.ioDrop_cells (s : State) (src : Source) (id : Nat) : (s.ioDrop src id).cells = s.cells := rfl
@[simp] theorem State.ioDrop_combs (s : State) (src : Source) (id : Nat) : (s.ioDrop src id).combs = s.combs := rfl
@[simp] theorem State.ioDrop_frames (s : State) (src : Source) (id : Nat) : (s.ioDrop src id).frames = s.frames := rfl
@[simp] theorem State.ioDrop_regions (s : State) (src : Source) (id : Nat) : (s.ioDrop src id).regions = s.regions := rfl
@[simp] theorem State.ioDrop_points (s : State) (src : Source) (id : Nat) : (s.ioDrop src id).points = s.points := rfl
@[simp] theorem State.ioDrop_hub (s : State) (src : Source) (id : Nat) : (s.ioDrop src id).hub = s.hub := rfl
@[simp] theorem State.ioDrop_plane (s : State) (src : Source) (id : Nat) : (s.ioDrop src id).plane = s.plane := rfl
@[simp] theorem State.ioDrop_swarm (s : State) (src : Source) (id : Nat) : (s.ioDrop src id).swarm = s.swarm := rfl
@[simp] theorem State.ioDrop_claims (s : State) (src : Source) (id : Nat) : (s.ioDrop src id).claims = s.claims := rfl
@[simp] theorem State.ioDrop_power (s : State) (src : Source) (id : Nat) : (s.ioDrop src id).power = s.power := rfl
@[simp] theorem State.ioDrop_sec (s : State) (src : Source) (id : Nat) : (s.ioDrop src id).sec = s.sec := rfl
@[simp] theorem State.ioDrop_now (s : State) (src : Source) (id : Nat) : (s.ioDrop src id).now = s.now := rfl
@[simp] theorem State.ioDrop_tick (s : State) (src : Source) (id : Nat) : (s.ioDrop src id).tick = s.tick := rfl
@[simp] theorem State.ioDrop_agenda (s : State) (src : Source) (id : Nat) : (s.ioDrop src id).agenda = s.agenda := rfl

/-! `State.sendParts` -/

@[simp] theorem State.sendParts_th (s : State) (src : Source) (id : Nat) (ps : List (Part × Act)) : (s.sendParts src id ps).th = s.th := rfl
@[simp] theorem State.sendParts_pool (s : State) (src : Source) (id : Nat) (ps : List (Part × Act)) : (s.sendParts src id ps).pool = s.pool := rfl
@[simp] theorem State.sendParts_mem (s : State) (src : Source) (id : Nat) (ps : List (Part × Act)) : (s.sendParts src id ps).mem = s.mem := rfl
@[simp] theorem State.sendParts_cells (s : State) (src : Source) (id : Nat) (ps : List (Part × Act)) : (s.sendParts src id ps).cells = s.cells := rfl
@[simp] theorem State.sendParts_combs (s : State) (src : Source) (id : Nat) (ps : List (Part × Act)) : (s.sendParts src id ps).combs = s.combs := rfl
@[simp] theorem State.sendParts_frames (s : State) (src : Source) (id : Nat) (ps : List (Part × Act)) : (s.sendParts src id ps).frames = s.frames := rfl
@[simp] theorem State.sendParts_regions (s : State) (src : Source) (id : Nat) (ps : List (Part × Act)) : (s.sendParts src id ps).regions = s.regions := rfl
@[simp] theorem State.sendParts_points (s : State) (src : Source) (id : Nat) (ps : List (Part × Act)) : (s.sendParts src id ps).points = s.points := rfl
@[simp] theorem State.sendParts_hub (s : State) (src : Source) (id : Nat) (ps : List (Part × Act)) : (s.sendParts src id ps).hub = s.hub := rfl
@[simp] theorem State.sendParts_plane (s : State) (src : Source) (id : Nat) (ps : List (Part × Act)) : (s.sendParts src id ps).plane = s.plane := rfl
@[simp] theorem State.sendParts_swarm (s : State) (src : Source) (id : Nat) (ps : List (Part × Act)) : (s.sendParts src id ps).swarm = s.swarm := rfl
@[simp] theorem State.sendParts_claims (s : State) (src : Source) (id : Nat) (ps : List (Part × Act)) : (s.sendParts src id ps).claims = s.claims := rfl
@[simp] theorem State.sendParts_power (s : State) (src : Source) (id : Nat) (ps : List (Part × Act)) : (s.sendParts src id ps).power = s.power := rfl
@[simp] theorem State.sendParts_sec (s : State) (src : Source) (id : Nat) (ps : List (Part × Act)) : (s.sendParts src id ps).sec = s.sec := rfl
@[simp] theorem State.sendParts_now (s : State) (src : Source) (id : Nat) (ps : List (Part × Act)) : (s.sendParts src id ps).now = s.now := rfl
@[simp] theorem State.sendParts_tick (s : State) (src : Source) (id : Nat) (ps : List (Part × Act)) : (s.sendParts src id ps).tick = s.tick := rfl
@[simp] theorem State.sendParts_agenda (s : State) (src : Source) (id : Nat) (ps : List (Part × Act)) : (s.sendParts src id ps).agenda = s.agenda := rfl

/-! `State.ioSendReads` -/

@[simp] theorem State.ioSendReads_th (s : State) (src : Source) (id len : Nat) (ps : List (Part × Nat)) : (s.ioSendReads src id len ps).th = s.th := rfl
@[simp] theorem State.ioSendReads_pool (s : State) (src : Source) (id len : Nat) (ps : List (Part × Nat)) : (s.ioSendReads src id len ps).pool = s.pool := rfl
@[simp] theorem State.ioSendReads_mem (s : State) (src : Source) (id len : Nat) (ps : List (Part × Nat)) : (s.ioSendReads src id len ps).mem = s.mem := rfl
@[simp] theorem State.ioSendReads_cells (s : State) (src : Source) (id len : Nat) (ps : List (Part × Nat)) : (s.ioSendReads src id len ps).cells = s.cells := rfl
@[simp] theorem State.ioSendReads_combs (s : State) (src : Source) (id len : Nat) (ps : List (Part × Nat)) : (s.ioSendReads src id len ps).combs = s.combs := rfl
@[simp] theorem State.ioSendReads_frames (s : State) (src : Source) (id len : Nat) (ps : List (Part × Nat)) : (s.ioSendReads src id len ps).frames = s.frames := rfl
@[simp] theorem State.ioSendReads_regions (s : State) (src : Source) (id len : Nat) (ps : List (Part × Nat)) : (s.ioSendReads src id len ps).regions = s.regions := rfl
@[simp] theorem State.ioSendReads_points (s : State) (src : Source) (id len : Nat) (ps : List (Part × Nat)) : (s.ioSendReads src id len ps).points = s.points := rfl
@[simp] theorem State.ioSendReads_hub (s : State) (src : Source) (id len : Nat) (ps : List (Part × Nat)) : (s.ioSendReads src id len ps).hub = s.hub := rfl
@[simp] theorem State.ioSendReads_plane (s : State) (src : Source) (id len : Nat) (ps : List (Part × Nat)) : (s.ioSendReads src id len ps).plane = s.plane := rfl
@[simp] theorem State.ioSendReads_swarm (s : State) (src : Source) (id len : Nat) (ps : List (Part × Nat)) : (s.ioSendReads src id len ps).swarm = s.swarm := rfl
@[simp] theorem State.ioSendReads_claims (s : State) (src : Source) (id len : Nat) (ps : List (Part × Nat)) : (s.ioSendReads src id len ps).claims = s.claims := rfl
@[simp] theorem State.ioSendReads_power (s : State) (src : Source) (id len : Nat) (ps : List (Part × Nat)) : (s.ioSendReads src id len ps).power = s.power := rfl
@[simp] theorem State.ioSendReads_sec (s : State) (src : Source) (id len : Nat) (ps : List (Part × Nat)) : (s.ioSendReads src id len ps).sec = s.sec := rfl
@[simp] theorem State.ioSendReads_now (s : State) (src : Source) (id len : Nat) (ps : List (Part × Nat)) : (s.ioSendReads src id len ps).now = s.now := rfl
@[simp] theorem State.ioSendReads_tick (s : State) (src : Source) (id len : Nat) (ps : List (Part × Nat)) : (s.ioSendReads src id len ps).tick = s.tick := rfl
@[simp] theorem State.ioSendReads_agenda (s : State) (src : Source) (id len : Nat) (ps : List (Part × Nat)) : (s.ioSendReads src id len ps).agenda = s.agenda := rfl

/-! `State.ioSendWrites` -/

@[simp] theorem State.ioSendWrites_mem (s : State) (src : Source) (id : Nat) (ps : List (Part × List (Option Byte))) : (s.ioSendWrites src id ps).mem = s.mem := by unfold State.ioSendWrites; cases src.ctx? <;> rfl
@[simp] theorem State.ioSendWrites_cells (s : State) (src : Source) (id : Nat) (ps : List (Part × List (Option Byte))) : (s.ioSendWrites src id ps).cells = s.cells := by unfold State.ioSendWrites; cases src.ctx? <;> rfl
@[simp] theorem State.ioSendWrites_combs (s : State) (src : Source) (id : Nat) (ps : List (Part × List (Option Byte))) : (s.ioSendWrites src id ps).combs = s.combs := by unfold State.ioSendWrites; cases src.ctx? <;> rfl
@[simp] theorem State.ioSendWrites_frames (s : State) (src : Source) (id : Nat) (ps : List (Part × List (Option Byte))) : (s.ioSendWrites src id ps).frames = s.frames := by unfold State.ioSendWrites; cases src.ctx? <;> rfl
@[simp] theorem State.ioSendWrites_regions (s : State) (src : Source) (id : Nat) (ps : List (Part × List (Option Byte))) : (s.ioSendWrites src id ps).regions = s.regions := by unfold State.ioSendWrites; cases src.ctx? <;> rfl
@[simp] theorem State.ioSendWrites_points (s : State) (src : Source) (id : Nat) (ps : List (Part × List (Option Byte))) : (s.ioSendWrites src id ps).points = s.points := by unfold State.ioSendWrites; cases src.ctx? <;> rfl
@[simp] theorem State.ioSendWrites_hub (s : State) (src : Source) (id : Nat) (ps : List (Part × List (Option Byte))) : (s.ioSendWrites src id ps).hub = s.hub := by unfold State.ioSendWrites; cases src.ctx? <;> rfl
@[simp] theorem State.ioSendWrites_plane (s : State) (src : Source) (id : Nat) (ps : List (Part × List (Option Byte))) : (s.ioSendWrites src id ps).plane = s.plane := by unfold State.ioSendWrites; cases src.ctx? <;> rfl
@[simp] theorem State.ioSendWrites_swarm (s : State) (src : Source) (id : Nat) (ps : List (Part × List (Option Byte))) : (s.ioSendWrites src id ps).swarm = s.swarm := by unfold State.ioSendWrites; cases src.ctx? <;> rfl
@[simp] theorem State.ioSendWrites_claims (s : State) (src : Source) (id : Nat) (ps : List (Part × List (Option Byte))) : (s.ioSendWrites src id ps).claims = s.claims := by unfold State.ioSendWrites; cases src.ctx? <;> rfl
@[simp] theorem State.ioSendWrites_power (s : State) (src : Source) (id : Nat) (ps : List (Part × List (Option Byte))) : (s.ioSendWrites src id ps).power = s.power := by unfold State.ioSendWrites; cases src.ctx? <;> rfl
@[simp] theorem State.ioSendWrites_sec (s : State) (src : Source) (id : Nat) (ps : List (Part × List (Option Byte))) : (s.ioSendWrites src id ps).sec = s.sec := by unfold State.ioSendWrites; cases src.ctx? <;> rfl
@[simp] theorem State.ioSendWrites_now (s : State) (src : Source) (id : Nat) (ps : List (Part × List (Option Byte))) : (s.ioSendWrites src id ps).now = s.now := by unfold State.ioSendWrites; cases src.ctx? <;> rfl
@[simp] theorem State.ioSendWrites_tick (s : State) (src : Source) (id : Nat) (ps : List (Part × List (Option Byte))) : (s.ioSendWrites src id ps).tick = s.tick := by unfold State.ioSendWrites; cases src.ctx? <;> rfl
@[simp] theorem State.ioSendWrites_agenda (s : State) (src : Source) (id : Nat) (ps : List (Part × List (Option Byte))) : (s.ioSendWrites src id ps).agenda = s.agenda := by unfold State.ioSendWrites; cases src.ctx? <;> rfl

/-! `State.setService` -/

@[simp] theorem State.setService_th (s : State) (k : CombId) (t : Bool) (f : ServiceRegs → ServiceRegs) : (s.setService k t f).th = s.th := rfl
@[simp] theorem State.setService_pool (s : State) (k : CombId) (t : Bool) (f : ServiceRegs → ServiceRegs) : (s.setService k t f).pool = s.pool := rfl
@[simp] theorem State.setService_mem (s : State) (k : CombId) (t : Bool) (f : ServiceRegs → ServiceRegs) : (s.setService k t f).mem = s.mem := rfl
@[simp] theorem State.setService_net (s : State) (k : CombId) (t : Bool) (f : ServiceRegs → ServiceRegs) : (s.setService k t f).net = s.net := rfl
@[simp] theorem State.setService_cells (s : State) (k : CombId) (t : Bool) (f : ServiceRegs → ServiceRegs) : (s.setService k t f).cells = s.cells := rfl
@[simp] theorem State.setService_frames (s : State) (k : CombId) (t : Bool) (f : ServiceRegs → ServiceRegs) : (s.setService k t f).frames = s.frames := rfl
@[simp] theorem State.setService_regions (s : State) (k : CombId) (t : Bool) (f : ServiceRegs → ServiceRegs) : (s.setService k t f).regions = s.regions := rfl
@[simp] theorem State.setService_points (s : State) (k : CombId) (t : Bool) (f : ServiceRegs → ServiceRegs) : (s.setService k t f).points = s.points := rfl
@[simp] theorem State.setService_hub (s : State) (k : CombId) (t : Bool) (f : ServiceRegs → ServiceRegs) : (s.setService k t f).hub = s.hub := rfl
@[simp] theorem State.setService_plane (s : State) (k : CombId) (t : Bool) (f : ServiceRegs → ServiceRegs) : (s.setService k t f).plane = s.plane := rfl
@[simp] theorem State.setService_swarm (s : State) (k : CombId) (t : Bool) (f : ServiceRegs → ServiceRegs) : (s.setService k t f).swarm = s.swarm := rfl
@[simp] theorem State.setService_claims (s : State) (k : CombId) (t : Bool) (f : ServiceRegs → ServiceRegs) : (s.setService k t f).claims = s.claims := rfl
@[simp] theorem State.setService_power (s : State) (k : CombId) (t : Bool) (f : ServiceRegs → ServiceRegs) : (s.setService k t f).power = s.power := rfl
@[simp] theorem State.setService_sec (s : State) (k : CombId) (t : Bool) (f : ServiceRegs → ServiceRegs) : (s.setService k t f).sec = s.sec := rfl
@[simp] theorem State.setService_now (s : State) (k : CombId) (t : Bool) (f : ServiceRegs → ServiceRegs) : (s.setService k t f).now = s.now := rfl
@[simp] theorem State.setService_tick (s : State) (k : CombId) (t : Bool) (f : ServiceRegs → ServiceRegs) : (s.setService k t f).tick = s.tick := rfl
@[simp] theorem State.setService_agenda (s : State) (k : CombId) (t : Bool) (f : ServiceRegs → ServiceRegs) : (s.setService k t f).agenda = s.agenda := rfl

/-! `Ctx.retire` -/

@[simp] theorem Ctx.retire_cid (c : Ctx) : (c.retire).cid = c.cid := by unfold Ctx.retire; split <;> first | rfl | (split <;> rfl)
@[simp] theorem Ctx.retire_place (c : Ctx) : (c.retire).place = c.place := by unfold Ctx.retire; split <;> first | rfl | (split <;> rfl)
@[simp] theorem Ctx.retire_slot (c : Ctx) : (c.retire).slot = c.slot := by unfold Ctx.retire; split <;> first | rfl | (split <;> rfl)
@[simp] theorem Ctx.retire_level (c : Ctx) : (c.retire).level = c.level := by unfold Ctx.retire; split <;> first | rfl | (split <;> rfl)
@[simp] theorem Ctx.retire_region (c : Ctx) : (c.retire).region = c.region := by unfold Ctx.retire; split <;> first | rfl | (split <;> rfl)
@[simp] theorem Ctx.retire_asid (c : Ctx) : (c.retire).asid = c.asid := by unfold Ctx.retire; split <;> first | rfl | (split <;> rfl)
@[simp] theorem Ctx.retire_status (c : Ctx) : (c.retire).status = c.status := by unfold Ctx.retire; split <;> first | rfl | (split <;> rfl)
@[simp] theorem Ctx.retire_ended (c : Ctx) : (c.retire).ended = c.ended := by unfold Ctx.retire; split <;> first | rfl | (split <;> rfl)
@[simp] theorem Ctx.retire_completed (c : Ctx) : (c.retire).completed = c.completed := by unfold Ctx.retire; split <;> first | rfl | (split <;> rfl)
@[simp] theorem Ctx.retire_regs (c : Ctx) : (c.retire).regs = c.regs := by unfold Ctx.retire; split <;> first | rfl | (split <;> rfl)
@[simp] theorem Ctx.retire_h (c : Ctx) : (c.retire).h = c.h := by unfold Ctx.retire; split <;> first | rfl | (split <;> rfl)
@[simp] theorem Ctx.retire_mat (c : Ctx) : (c.retire).mat = c.mat := by unfold Ctx.retire; split <;> first | rfl | (split <;> rfl)
@[simp] theorem Ctx.retire_mrun (c : Ctx) : (c.retire).mrun = c.mrun := by unfold Ctx.retire; split <;> first | rfl | (split <;> rfl)
@[simp] theorem Ctx.retire_sr (c : Ctx) : (c.retire).sr = c.sr := by unfold Ctx.retire; split <;> first | rfl | (split <;> rfl)
@[simp] theorem Ctx.retire_openW (c : Ctx) : (c.retire).openW = c.openW := by unfold Ctx.retire; split <;> first | rfl | (split <;> rfl)
@[simp] theorem Ctx.retire_pend (c : Ctx) : (c.retire).pend = c.pend := by unfold Ctx.retire; split <;> first | rfl | (split <;> rfl)
@[simp] theorem Ctx.retire_mq (c : Ctx) : (c.retire).mq = c.mq := by unfold Ctx.retire; split <;> first | rfl | (split <;> rfl)
@[simp] theorem Ctx.retire_eq (c : Ctx) : (c.retire).eq = c.eq := by unfold Ctx.retire; split <;> first | rfl | (split <;> rfl)
@[simp] theorem Ctx.retire_nextOp (c : Ctx) : (c.retire).nextOp = c.nextOp := by unfold Ctx.retire; split <;> first | rfl | (split <;> rfl)
@[simp] theorem Ctx.retire_mail (c : Ctx) : (c.retire).mail = c.mail := by unfold Ctx.retire; split <;> first | rfl | (split <;> rfl)
@[simp] theorem Ctx.retire_wait (c : Ctx) : (c.retire).wait = c.wait := by unfold Ctx.retire; split <;> first | rfl | (split <;> rfl)
@[simp] theorem Ctx.retire_told (c : Ctx) : (c.retire).told = c.told := by unfold Ctx.retire; split <;> first | rfl | (split <;> rfl)
@[simp] theorem Ctx.retire_sig (c : Ctx) : (c.retire).sig = c.sig := by unfold Ctx.retire; split <;> first | rfl | (split <;> rfl)
@[simp] theorem Ctx.retire_sigPred (c : Ctx) : (c.retire).sigPred = c.sigPred := by unfold Ctx.retire; split <;> first | rfl | (split <;> rfl)
@[simp] theorem Ctx.retire_meters (c : Ctx) : (c.retire).meters = c.meters := by unfold Ctx.retire; split <;> first | rfl | (split <;> rfl)
@[simp] theorem Ctx.retire_meterLatch (c : Ctx) : (c.retire).meterLatch = c.meterLatch := by unfold Ctx.retire; split <;> first | rfl | (split <;> rfl)
@[simp] theorem Ctx.retire_fault (c : Ctx) : (c.retire).fault = c.fault := by unfold Ctx.retire; split <;> first | rfl | (split <;> rfl)
@[simp] theorem Ctx.retire_gang (c : Ctx) : (c.retire).gang = c.gang := by unfold Ctx.retire; split <;> first | rfl | (split <;> rfl)
@[simp] theorem Ctx.retire_restarts (c : Ctx) : (c.retire).restarts = c.restarts := by unfold Ctx.retire; split <;> first | rfl | (split <;> rfl)
@[simp] theorem Ctx.retire_since (c : Ctx) : (c.retire).since = c.since := by unfold Ctx.retire; split <;> first | rfl | (split <;> rfl)
@[simp] theorem Ctx.retire_roundAt (c : Ctx) : (c.retire).roundAt = c.roundAt := by unfold Ctx.retire; split <;> first | rfl | (split <;> rfl)
@[simp] theorem Ctx.retire_saveArea (c : Ctx) : (c.retire).saveArea = c.saveArea := by unfold Ctx.retire; split <;> first | rfl | (split <;> rfl)
@[simp] theorem Ctx.retire_unplaced (c : Ctx) : (c.retire).unplaced = c.unplaced := by unfold Ctx.retire; split <;> first | rfl | (split <;> rfl)
@[simp] theorem Ctx.retire_savedEq (c : Ctx) : (c.retire).savedEq = c.savedEq := by unfold Ctx.retire; split <;> first | rfl | (split <;> rfl)

/-! `Ctx.jump` -/

@[simp] theorem Ctx.jump_cid (c : Ctx) (pc : Word) : (c.jump pc).cid = c.cid := rfl
@[simp] theorem Ctx.jump_place (c : Ctx) (pc : Word) : (c.jump pc).place = c.place := rfl
@[simp] theorem Ctx.jump_slot (c : Ctx) (pc : Word) : (c.jump pc).slot = c.slot := rfl
@[simp] theorem Ctx.jump_level (c : Ctx) (pc : Word) : (c.jump pc).level = c.level := rfl
@[simp] theorem Ctx.jump_region (c : Ctx) (pc : Word) : (c.jump pc).region = c.region := rfl
@[simp] theorem Ctx.jump_asid (c : Ctx) (pc : Word) : (c.jump pc).asid = c.asid := rfl
@[simp] theorem Ctx.jump_status (c : Ctx) (pc : Word) : (c.jump pc).status = c.status := rfl
@[simp] theorem Ctx.jump_ended (c : Ctx) (pc : Word) : (c.jump pc).ended = c.ended := rfl
@[simp] theorem Ctx.jump_completed (c : Ctx) (pc : Word) : (c.jump pc).completed = c.completed := rfl
@[simp] theorem Ctx.jump_regs (c : Ctx) (pc : Word) : (c.jump pc).regs = c.regs := rfl
@[simp] theorem Ctx.jump_h (c : Ctx) (pc : Word) : (c.jump pc).h = c.h := rfl
@[simp] theorem Ctx.jump_mat (c : Ctx) (pc : Word) : (c.jump pc).mat = c.mat := rfl
@[simp] theorem Ctx.jump_mrun (c : Ctx) (pc : Word) : (c.jump pc).mrun = c.mrun := rfl
@[simp] theorem Ctx.jump_sr (c : Ctx) (pc : Word) : (c.jump pc).sr = c.sr := rfl
@[simp] theorem Ctx.jump_openW (c : Ctx) (pc : Word) : (c.jump pc).openW = c.openW := rfl
@[simp] theorem Ctx.jump_pend (c : Ctx) (pc : Word) : (c.jump pc).pend = c.pend := rfl
@[simp] theorem Ctx.jump_loops (c : Ctx) (pc : Word) : (c.jump pc).loops = c.loops := rfl
@[simp] theorem Ctx.jump_mq (c : Ctx) (pc : Word) : (c.jump pc).mq = c.mq := rfl
@[simp] theorem Ctx.jump_eq (c : Ctx) (pc : Word) : (c.jump pc).eq = c.eq := rfl
@[simp] theorem Ctx.jump_nextOp (c : Ctx) (pc : Word) : (c.jump pc).nextOp = c.nextOp := rfl
@[simp] theorem Ctx.jump_mail (c : Ctx) (pc : Word) : (c.jump pc).mail = c.mail := rfl
@[simp] theorem Ctx.jump_wait (c : Ctx) (pc : Word) : (c.jump pc).wait = c.wait := rfl
@[simp] theorem Ctx.jump_told (c : Ctx) (pc : Word) : (c.jump pc).told = c.told := rfl
@[simp] theorem Ctx.jump_sig (c : Ctx) (pc : Word) : (c.jump pc).sig = c.sig := rfl
@[simp] theorem Ctx.jump_sigPred (c : Ctx) (pc : Word) : (c.jump pc).sigPred = c.sigPred := rfl
@[simp] theorem Ctx.jump_meters (c : Ctx) (pc : Word) : (c.jump pc).meters = c.meters := rfl
@[simp] theorem Ctx.jump_meterLatch (c : Ctx) (pc : Word) : (c.jump pc).meterLatch = c.meterLatch := rfl
@[simp] theorem Ctx.jump_fault (c : Ctx) (pc : Word) : (c.jump pc).fault = c.fault := rfl
@[simp] theorem Ctx.jump_gang (c : Ctx) (pc : Word) : (c.jump pc).gang = c.gang := rfl
@[simp] theorem Ctx.jump_restarts (c : Ctx) (pc : Word) : (c.jump pc).restarts = c.restarts := rfl
@[simp] theorem Ctx.jump_since (c : Ctx) (pc : Word) : (c.jump pc).since = c.since := rfl
@[simp] theorem Ctx.jump_roundAt (c : Ctx) (pc : Word) : (c.jump pc).roundAt = c.roundAt := rfl
@[simp] theorem Ctx.jump_saveArea (c : Ctx) (pc : Word) : (c.jump pc).saveArea = c.saveArea := rfl
@[simp] theorem Ctx.jump_unplaced (c : Ctx) (pc : Word) : (c.jump pc).unplaced = c.unplaced := rfl
@[simp] theorem Ctx.jump_savedEq (c : Ctx) (pc : Word) : (c.jump pc).savedEq = c.savedEq := rfl

/-! `Ctx.run` -/

@[simp] theorem Ctx.run_cid (c : Ctx) : (c.run).cid = c.cid := rfl
@[simp] theorem Ctx.run_place (c : Ctx) : (c.run).place = c.place := rfl
@[simp] theorem Ctx.run_slot (c : Ctx) : (c.run).slot = c.slot := rfl
@[simp] theorem Ctx.run_level (c : Ctx) : (c.run).level = c.level := rfl
@[simp] theorem Ctx.run_region (c : Ctx) : (c.run).region = c.region := rfl
@[simp] theorem Ctx.run_asid (c : Ctx) : (c.run).asid = c.asid := rfl
@[simp] theorem Ctx.run_ended (c : Ctx) : (c.run).ended = c.ended := rfl
@[simp] theorem Ctx.run_completed (c : Ctx) : (c.run).completed = c.completed := rfl
@[simp] theorem Ctx.run_regs (c : Ctx) : (c.run).regs = c.regs := rfl
@[simp] theorem Ctx.run_h (c : Ctx) : (c.run).h = c.h := rfl
@[simp] theorem Ctx.run_mat (c : Ctx) : (c.run).mat = c.mat := rfl
@[simp] theorem Ctx.run_mrun (c : Ctx) : (c.run).mrun = c.mrun := rfl
@[simp] theorem Ctx.run_sr (c : Ctx) : (c.run).sr = c.sr := rfl
@[simp] theorem Ctx.run_pc (c : Ctx) : (c.run).pc = c.pc := rfl
@[simp] theorem Ctx.run_grp (c : Ctx) : (c.run).grp = c.grp := rfl
@[simp] theorem Ctx.run_openW (c : Ctx) : (c.run).openW = c.openW := rfl
@[simp] theorem Ctx.run_pend (c : Ctx) : (c.run).pend = c.pend := rfl
@[simp] theorem Ctx.run_loops (c : Ctx) : (c.run).loops = c.loops := rfl
@[simp] theorem Ctx.run_mq (c : Ctx) : (c.run).mq = c.mq := rfl
@[simp] theorem Ctx.run_eq (c : Ctx) : (c.run).eq = c.eq := rfl
@[simp] theorem Ctx.run_nextOp (c : Ctx) : (c.run).nextOp = c.nextOp := rfl
@[simp] theorem Ctx.run_mail (c : Ctx) : (c.run).mail = c.mail := rfl
@[simp] theorem Ctx.run_wait (c : Ctx) : (c.run).wait = c.wait := rfl
@[simp] theorem Ctx.run_told (c : Ctx) : (c.run).told = c.told := rfl
@[simp] theorem Ctx.run_sig (c : Ctx) : (c.run).sig = c.sig := rfl
@[simp] theorem Ctx.run_sigPred (c : Ctx) : (c.run).sigPred = c.sigPred := rfl
@[simp] theorem Ctx.run_meters (c : Ctx) : (c.run).meters = c.meters := rfl
@[simp] theorem Ctx.run_meterLatch (c : Ctx) : (c.run).meterLatch = c.meterLatch := rfl
@[simp] theorem Ctx.run_fault (c : Ctx) : (c.run).fault = c.fault := rfl
@[simp] theorem Ctx.run_gang (c : Ctx) : (c.run).gang = c.gang := rfl
@[simp] theorem Ctx.run_restarts (c : Ctx) : (c.run).restarts = c.restarts := rfl
@[simp] theorem Ctx.run_since (c : Ctx) : (c.run).since = c.since := rfl
@[simp] theorem Ctx.run_roundAt (c : Ctx) : (c.run).roundAt = c.roundAt := rfl
@[simp] theorem Ctx.run_saveArea (c : Ctx) : (c.run).saveArea = c.saveArea := rfl
@[simp] theorem Ctx.run_unplaced (c : Ctx) : (c.run).unplaced = c.unplaced := rfl
@[simp] theorem Ctx.run_savedEq (c : Ctx) : (c.run).savedEq = c.savedEq := rfl

/-! `Ctx.result` -/

@[simp] theorem Ctx.result_cid (c : Ctx) (r : BitVec 8) (lat : Nat) (x : VWord) : (c.result r lat x).cid = c.cid := by unfold Ctx.result; split <;> first | rfl | (split <;> rfl)
@[simp] theorem Ctx.result_place (c : Ctx) (r : BitVec 8) (lat : Nat) (x : VWord) : (c.result r lat x).place = c.place := by unfold Ctx.result; split <;> first | rfl | (split <;> rfl)
@[simp] theorem Ctx.result_slot (c : Ctx) (r : BitVec 8) (lat : Nat) (x : VWord) : (c.result r lat x).slot = c.slot := by unfold Ctx.result; split <;> first | rfl | (split <;> rfl)
@[simp] theorem Ctx.result_level (c : Ctx) (r : BitVec 8) (lat : Nat) (x : VWord) : (c.result r lat x).level = c.level := by unfold Ctx.result; split <;> first | rfl | (split <;> rfl)
@[simp] theorem Ctx.result_region (c : Ctx) (r : BitVec 8) (lat : Nat) (x : VWord) : (c.result r lat x).region = c.region := by unfold Ctx.result; split <;> first | rfl | (split <;> rfl)
@[simp] theorem Ctx.result_asid (c : Ctx) (r : BitVec 8) (lat : Nat) (x : VWord) : (c.result r lat x).asid = c.asid := by unfold Ctx.result; split <;> first | rfl | (split <;> rfl)
@[simp] theorem Ctx.result_status (c : Ctx) (r : BitVec 8) (lat : Nat) (x : VWord) : (c.result r lat x).status = c.status := by unfold Ctx.result; split <;> first | rfl | (split <;> rfl)
@[simp] theorem Ctx.result_ended (c : Ctx) (r : BitVec 8) (lat : Nat) (x : VWord) : (c.result r lat x).ended = c.ended := by unfold Ctx.result; split <;> first | rfl | (split <;> rfl)
@[simp] theorem Ctx.result_completed (c : Ctx) (r : BitVec 8) (lat : Nat) (x : VWord) : (c.result r lat x).completed = c.completed := by unfold Ctx.result; split <;> first | rfl | (split <;> rfl)
@[simp] theorem Ctx.result_h (c : Ctx) (r : BitVec 8) (lat : Nat) (x : VWord) : (c.result r lat x).h = c.h := by unfold Ctx.result; split <;> first | rfl | (split <;> rfl)
@[simp] theorem Ctx.result_mat (c : Ctx) (r : BitVec 8) (lat : Nat) (x : VWord) : (c.result r lat x).mat = c.mat := by unfold Ctx.result; split <;> first | rfl | (split <;> rfl)
@[simp] theorem Ctx.result_mrun (c : Ctx) (r : BitVec 8) (lat : Nat) (x : VWord) : (c.result r lat x).mrun = c.mrun := by unfold Ctx.result; split <;> first | rfl | (split <;> rfl)
@[simp] theorem Ctx.result_sr (c : Ctx) (r : BitVec 8) (lat : Nat) (x : VWord) : (c.result r lat x).sr = c.sr := by unfold Ctx.result; split <;> first | rfl | (split <;> rfl)
@[simp] theorem Ctx.result_pc (c : Ctx) (r : BitVec 8) (lat : Nat) (x : VWord) : (c.result r lat x).pc = c.pc := by unfold Ctx.result; split <;> first | rfl | (split <;> rfl)
@[simp] theorem Ctx.result_grp (c : Ctx) (r : BitVec 8) (lat : Nat) (x : VWord) : (c.result r lat x).grp = c.grp := by unfold Ctx.result; split <;> first | rfl | (split <;> rfl)
@[simp] theorem Ctx.result_pend (c : Ctx) (r : BitVec 8) (lat : Nat) (x : VWord) : (c.result r lat x).pend = c.pend := by unfold Ctx.result; split <;> first | rfl | (split <;> rfl)
@[simp] theorem Ctx.result_loops (c : Ctx) (r : BitVec 8) (lat : Nat) (x : VWord) : (c.result r lat x).loops = c.loops := by unfold Ctx.result; split <;> first | rfl | (split <;> rfl)
@[simp] theorem Ctx.result_mq (c : Ctx) (r : BitVec 8) (lat : Nat) (x : VWord) : (c.result r lat x).mq = c.mq := by unfold Ctx.result; split <;> first | rfl | (split <;> rfl)
@[simp] theorem Ctx.result_eq (c : Ctx) (r : BitVec 8) (lat : Nat) (x : VWord) : (c.result r lat x).eq = c.eq := by unfold Ctx.result; split <;> first | rfl | (split <;> rfl)
@[simp] theorem Ctx.result_nextOp (c : Ctx) (r : BitVec 8) (lat : Nat) (x : VWord) : (c.result r lat x).nextOp = c.nextOp := by unfold Ctx.result; split <;> first | rfl | (split <;> rfl)
@[simp] theorem Ctx.result_mail (c : Ctx) (r : BitVec 8) (lat : Nat) (x : VWord) : (c.result r lat x).mail = c.mail := by unfold Ctx.result; split <;> first | rfl | (split <;> rfl)
@[simp] theorem Ctx.result_wait (c : Ctx) (r : BitVec 8) (lat : Nat) (x : VWord) : (c.result r lat x).wait = c.wait := by unfold Ctx.result; split <;> first | rfl | (split <;> rfl)
@[simp] theorem Ctx.result_told (c : Ctx) (r : BitVec 8) (lat : Nat) (x : VWord) : (c.result r lat x).told = c.told := by unfold Ctx.result; split <;> first | rfl | (split <;> rfl)
@[simp] theorem Ctx.result_sig (c : Ctx) (r : BitVec 8) (lat : Nat) (x : VWord) : (c.result r lat x).sig = c.sig := by unfold Ctx.result; split <;> first | rfl | (split <;> rfl)
@[simp] theorem Ctx.result_sigPred (c : Ctx) (r : BitVec 8) (lat : Nat) (x : VWord) : (c.result r lat x).sigPred = c.sigPred := by unfold Ctx.result; split <;> first | rfl | (split <;> rfl)
@[simp] theorem Ctx.result_meters (c : Ctx) (r : BitVec 8) (lat : Nat) (x : VWord) : (c.result r lat x).meters = c.meters := by unfold Ctx.result; split <;> first | rfl | (split <;> rfl)
@[simp] theorem Ctx.result_meterLatch (c : Ctx) (r : BitVec 8) (lat : Nat) (x : VWord) : (c.result r lat x).meterLatch = c.meterLatch := by unfold Ctx.result; split <;> first | rfl | (split <;> rfl)
@[simp] theorem Ctx.result_fault (c : Ctx) (r : BitVec 8) (lat : Nat) (x : VWord) : (c.result r lat x).fault = c.fault := by unfold Ctx.result; split <;> first | rfl | (split <;> rfl)
@[simp] theorem Ctx.result_gang (c : Ctx) (r : BitVec 8) (lat : Nat) (x : VWord) : (c.result r lat x).gang = c.gang := by unfold Ctx.result; split <;> first | rfl | (split <;> rfl)
@[simp] theorem Ctx.result_restarts (c : Ctx) (r : BitVec 8) (lat : Nat) (x : VWord) : (c.result r lat x).restarts = c.restarts := by unfold Ctx.result; split <;> first | rfl | (split <;> rfl)
@[simp] theorem Ctx.result_since (c : Ctx) (r : BitVec 8) (lat : Nat) (x : VWord) : (c.result r lat x).since = c.since := by unfold Ctx.result; split <;> first | rfl | (split <;> rfl)
@[simp] theorem Ctx.result_roundAt (c : Ctx) (r : BitVec 8) (lat : Nat) (x : VWord) : (c.result r lat x).roundAt = c.roundAt := by unfold Ctx.result; split <;> first | rfl | (split <;> rfl)
@[simp] theorem Ctx.result_saveArea (c : Ctx) (r : BitVec 8) (lat : Nat) (x : VWord) : (c.result r lat x).saveArea = c.saveArea := by unfold Ctx.result; split <;> first | rfl | (split <;> rfl)
@[simp] theorem Ctx.result_unplaced (c : Ctx) (r : BitVec 8) (lat : Nat) (x : VWord) : (c.result r lat x).unplaced = c.unplaced := by unfold Ctx.result; split <;> first | rfl | (split <;> rfl)
@[simp] theorem Ctx.result_savedEq (c : Ctx) (r : BitVec 8) (lat : Nat) (x : VWord) : (c.result r lat x).savedEq = c.savedEq := by unfold Ctx.result; split <;> first | rfl | (split <;> rfl)

/-! `Ctx.resG` -/

@[simp] theorem Ctx.resG_cid (c : Ctx) (r : BitVec 6) (lat : Nat) (x : Word) : (c.resG r lat x).cid = c.cid := Ctx.result_cid c _ _ _
@[simp] theorem Ctx.resG_place (c : Ctx) (r : BitVec 6) (lat : Nat) (x : Word) : (c.resG r lat x).place = c.place := Ctx.result_place c _ _ _
@[simp] theorem Ctx.resG_slot (c : Ctx) (r : BitVec 6) (lat : Nat) (x : Word) : (c.resG r lat x).slot = c.slot := Ctx.result_slot c _ _ _
@[simp] theorem Ctx.resG_level (c : Ctx) (r : BitVec 6) (lat : Nat) (x : Word) : (c.resG r lat x).level = c.level := Ctx.result_level c _ _ _
@[simp] theorem Ctx.resG_region (c : Ctx) (r : BitVec 6) (lat : Nat) (x : Word) : (c.resG r lat x).region = c.region := Ctx.result_region c _ _ _
@[simp] theorem Ctx.resG_asid (c : Ctx) (r : BitVec 6) (lat : Nat) (x : Word) : (c.resG r lat x).asid = c.asid := Ctx.result_asid c _ _ _
@[simp] theorem Ctx.resG_status (c : Ctx) (r : BitVec 6) (lat : Nat) (x : Word) : (c.resG r lat x).status = c.status := Ctx.result_status c _ _ _
@[simp] theorem Ctx.resG_ended (c : Ctx) (r : BitVec 6) (lat : Nat) (x : Word) : (c.resG r lat x).ended = c.ended := Ctx.result_ended c _ _ _
@[simp] theorem Ctx.resG_completed (c : Ctx) (r : BitVec 6) (lat : Nat) (x : Word) : (c.resG r lat x).completed = c.completed := Ctx.result_completed c _ _ _
@[simp] theorem Ctx.resG_h (c : Ctx) (r : BitVec 6) (lat : Nat) (x : Word) : (c.resG r lat x).h = c.h := Ctx.result_h c _ _ _
@[simp] theorem Ctx.resG_mat (c : Ctx) (r : BitVec 6) (lat : Nat) (x : Word) : (c.resG r lat x).mat = c.mat := Ctx.result_mat c _ _ _
@[simp] theorem Ctx.resG_mrun (c : Ctx) (r : BitVec 6) (lat : Nat) (x : Word) : (c.resG r lat x).mrun = c.mrun := Ctx.result_mrun c _ _ _
@[simp] theorem Ctx.resG_sr (c : Ctx) (r : BitVec 6) (lat : Nat) (x : Word) : (c.resG r lat x).sr = c.sr := Ctx.result_sr c _ _ _
@[simp] theorem Ctx.resG_pc (c : Ctx) (r : BitVec 6) (lat : Nat) (x : Word) : (c.resG r lat x).pc = c.pc := Ctx.result_pc c _ _ _
@[simp] theorem Ctx.resG_grp (c : Ctx) (r : BitVec 6) (lat : Nat) (x : Word) : (c.resG r lat x).grp = c.grp := Ctx.result_grp c _ _ _
@[simp] theorem Ctx.resG_pend (c : Ctx) (r : BitVec 6) (lat : Nat) (x : Word) : (c.resG r lat x).pend = c.pend := Ctx.result_pend c _ _ _
@[simp] theorem Ctx.resG_loops (c : Ctx) (r : BitVec 6) (lat : Nat) (x : Word) : (c.resG r lat x).loops = c.loops := Ctx.result_loops c _ _ _
@[simp] theorem Ctx.resG_mq (c : Ctx) (r : BitVec 6) (lat : Nat) (x : Word) : (c.resG r lat x).mq = c.mq := Ctx.result_mq c _ _ _
@[simp] theorem Ctx.resG_eq (c : Ctx) (r : BitVec 6) (lat : Nat) (x : Word) : (c.resG r lat x).eq = c.eq := Ctx.result_eq c _ _ _
@[simp] theorem Ctx.resG_nextOp (c : Ctx) (r : BitVec 6) (lat : Nat) (x : Word) : (c.resG r lat x).nextOp = c.nextOp := Ctx.result_nextOp c _ _ _
@[simp] theorem Ctx.resG_mail (c : Ctx) (r : BitVec 6) (lat : Nat) (x : Word) : (c.resG r lat x).mail = c.mail := Ctx.result_mail c _ _ _
@[simp] theorem Ctx.resG_wait (c : Ctx) (r : BitVec 6) (lat : Nat) (x : Word) : (c.resG r lat x).wait = c.wait := Ctx.result_wait c _ _ _
@[simp] theorem Ctx.resG_told (c : Ctx) (r : BitVec 6) (lat : Nat) (x : Word) : (c.resG r lat x).told = c.told := Ctx.result_told c _ _ _
@[simp] theorem Ctx.resG_sig (c : Ctx) (r : BitVec 6) (lat : Nat) (x : Word) : (c.resG r lat x).sig = c.sig := Ctx.result_sig c _ _ _
@[simp] theorem Ctx.resG_sigPred (c : Ctx) (r : BitVec 6) (lat : Nat) (x : Word) : (c.resG r lat x).sigPred = c.sigPred := Ctx.result_sigPred c _ _ _
@[simp] theorem Ctx.resG_meters (c : Ctx) (r : BitVec 6) (lat : Nat) (x : Word) : (c.resG r lat x).meters = c.meters := Ctx.result_meters c _ _ _
@[simp] theorem Ctx.resG_meterLatch (c : Ctx) (r : BitVec 6) (lat : Nat) (x : Word) : (c.resG r lat x).meterLatch = c.meterLatch := Ctx.result_meterLatch c _ _ _
@[simp] theorem Ctx.resG_fault (c : Ctx) (r : BitVec 6) (lat : Nat) (x : Word) : (c.resG r lat x).fault = c.fault := Ctx.result_fault c _ _ _
@[simp] theorem Ctx.resG_gang (c : Ctx) (r : BitVec 6) (lat : Nat) (x : Word) : (c.resG r lat x).gang = c.gang := Ctx.result_gang c _ _ _
@[simp] theorem Ctx.resG_restarts (c : Ctx) (r : BitVec 6) (lat : Nat) (x : Word) : (c.resG r lat x).restarts = c.restarts := Ctx.result_restarts c _ _ _
@[simp] theorem Ctx.resG_since (c : Ctx) (r : BitVec 6) (lat : Nat) (x : Word) : (c.resG r lat x).since = c.since := Ctx.result_since c _ _ _
@[simp] theorem Ctx.resG_roundAt (c : Ctx) (r : BitVec 6) (lat : Nat) (x : Word) : (c.resG r lat x).roundAt = c.roundAt := Ctx.result_roundAt c _ _ _
@[simp] theorem Ctx.resG_saveArea (c : Ctx) (r : BitVec 6) (lat : Nat) (x : Word) : (c.resG r lat x).saveArea = c.saveArea := Ctx.result_saveArea c _ _ _
@[simp] theorem Ctx.resG_unplaced (c : Ctx) (r : BitVec 6) (lat : Nat) (x : Word) : (c.resG r lat x).unplaced = c.unplaced := Ctx.result_unplaced c _ _ _
@[simp] theorem Ctx.resG_savedEq (c : Ctx) (r : BitVec 6) (lat : Nat) (x : Word) : (c.resG r lat x).savedEq = c.savedEq := Ctx.result_savedEq c _ _ _

/-! `Ctx.resV` -/

@[simp] theorem Ctx.resV_cid (c : Ctx) (r : BitVec 5) (lat : Nat) (x : VWord) : (c.resV r lat x).cid = c.cid := Ctx.result_cid c _ _ _
@[simp] theorem Ctx.resV_place (c : Ctx) (r : BitVec 5) (lat : Nat) (x : VWord) : (c.resV r lat x).place = c.place := Ctx.result_place c _ _ _
@[simp] theorem Ctx.resV_slot (c : Ctx) (r : BitVec 5) (lat : Nat) (x : VWord) : (c.resV r lat x).slot = c.slot := Ctx.result_slot c _ _ _
@[simp] theorem Ctx.resV_level (c : Ctx) (r : BitVec 5) (lat : Nat) (x : VWord) : (c.resV r lat x).level = c.level := Ctx.result_level c _ _ _
@[simp] theorem Ctx.resV_region (c : Ctx) (r : BitVec 5) (lat : Nat) (x : VWord) : (c.resV r lat x).region = c.region := Ctx.result_region c _ _ _
@[simp] theorem Ctx.resV_asid (c : Ctx) (r : BitVec 5) (lat : Nat) (x : VWord) : (c.resV r lat x).asid = c.asid := Ctx.result_asid c _ _ _
@[simp] theorem Ctx.resV_status (c : Ctx) (r : BitVec 5) (lat : Nat) (x : VWord) : (c.resV r lat x).status = c.status := Ctx.result_status c _ _ _
@[simp] theorem Ctx.resV_ended (c : Ctx) (r : BitVec 5) (lat : Nat) (x : VWord) : (c.resV r lat x).ended = c.ended := Ctx.result_ended c _ _ _
@[simp] theorem Ctx.resV_completed (c : Ctx) (r : BitVec 5) (lat : Nat) (x : VWord) : (c.resV r lat x).completed = c.completed := Ctx.result_completed c _ _ _
@[simp] theorem Ctx.resV_h (c : Ctx) (r : BitVec 5) (lat : Nat) (x : VWord) : (c.resV r lat x).h = c.h := Ctx.result_h c _ _ _
@[simp] theorem Ctx.resV_mat (c : Ctx) (r : BitVec 5) (lat : Nat) (x : VWord) : (c.resV r lat x).mat = c.mat := Ctx.result_mat c _ _ _
@[simp] theorem Ctx.resV_mrun (c : Ctx) (r : BitVec 5) (lat : Nat) (x : VWord) : (c.resV r lat x).mrun = c.mrun := Ctx.result_mrun c _ _ _
@[simp] theorem Ctx.resV_sr (c : Ctx) (r : BitVec 5) (lat : Nat) (x : VWord) : (c.resV r lat x).sr = c.sr := Ctx.result_sr c _ _ _
@[simp] theorem Ctx.resV_pc (c : Ctx) (r : BitVec 5) (lat : Nat) (x : VWord) : (c.resV r lat x).pc = c.pc := Ctx.result_pc c _ _ _
@[simp] theorem Ctx.resV_grp (c : Ctx) (r : BitVec 5) (lat : Nat) (x : VWord) : (c.resV r lat x).grp = c.grp := Ctx.result_grp c _ _ _
@[simp] theorem Ctx.resV_pend (c : Ctx) (r : BitVec 5) (lat : Nat) (x : VWord) : (c.resV r lat x).pend = c.pend := Ctx.result_pend c _ _ _
@[simp] theorem Ctx.resV_loops (c : Ctx) (r : BitVec 5) (lat : Nat) (x : VWord) : (c.resV r lat x).loops = c.loops := Ctx.result_loops c _ _ _
@[simp] theorem Ctx.resV_mq (c : Ctx) (r : BitVec 5) (lat : Nat) (x : VWord) : (c.resV r lat x).mq = c.mq := Ctx.result_mq c _ _ _
@[simp] theorem Ctx.resV_eq (c : Ctx) (r : BitVec 5) (lat : Nat) (x : VWord) : (c.resV r lat x).eq = c.eq := Ctx.result_eq c _ _ _
@[simp] theorem Ctx.resV_nextOp (c : Ctx) (r : BitVec 5) (lat : Nat) (x : VWord) : (c.resV r lat x).nextOp = c.nextOp := Ctx.result_nextOp c _ _ _
@[simp] theorem Ctx.resV_mail (c : Ctx) (r : BitVec 5) (lat : Nat) (x : VWord) : (c.resV r lat x).mail = c.mail := Ctx.result_mail c _ _ _
@[simp] theorem Ctx.resV_wait (c : Ctx) (r : BitVec 5) (lat : Nat) (x : VWord) : (c.resV r lat x).wait = c.wait := Ctx.result_wait c _ _ _
@[simp] theorem Ctx.resV_told (c : Ctx) (r : BitVec 5) (lat : Nat) (x : VWord) : (c.resV r lat x).told = c.told := Ctx.result_told c _ _ _
@[simp] theorem Ctx.resV_sig (c : Ctx) (r : BitVec 5) (lat : Nat) (x : VWord) : (c.resV r lat x).sig = c.sig := Ctx.result_sig c _ _ _
@[simp] theorem Ctx.resV_sigPred (c : Ctx) (r : BitVec 5) (lat : Nat) (x : VWord) : (c.resV r lat x).sigPred = c.sigPred := Ctx.result_sigPred c _ _ _
@[simp] theorem Ctx.resV_meters (c : Ctx) (r : BitVec 5) (lat : Nat) (x : VWord) : (c.resV r lat x).meters = c.meters := Ctx.result_meters c _ _ _
@[simp] theorem Ctx.resV_meterLatch (c : Ctx) (r : BitVec 5) (lat : Nat) (x : VWord) : (c.resV r lat x).meterLatch = c.meterLatch := Ctx.result_meterLatch c _ _ _
@[simp] theorem Ctx.resV_fault (c : Ctx) (r : BitVec 5) (lat : Nat) (x : VWord) : (c.resV r lat x).fault = c.fault := Ctx.result_fault c _ _ _
@[simp] theorem Ctx.resV_gang (c : Ctx) (r : BitVec 5) (lat : Nat) (x : VWord) : (c.resV r lat x).gang = c.gang := Ctx.result_gang c _ _ _
@[simp] theorem Ctx.resV_restarts (c : Ctx) (r : BitVec 5) (lat : Nat) (x : VWord) : (c.resV r lat x).restarts = c.restarts := Ctx.result_restarts c _ _ _
@[simp] theorem Ctx.resV_since (c : Ctx) (r : BitVec 5) (lat : Nat) (x : VWord) : (c.resV r lat x).since = c.since := Ctx.result_since c _ _ _
@[simp] theorem Ctx.resV_roundAt (c : Ctx) (r : BitVec 5) (lat : Nat) (x : VWord) : (c.resV r lat x).roundAt = c.roundAt := Ctx.result_roundAt c _ _ _
@[simp] theorem Ctx.resV_saveArea (c : Ctx) (r : BitVec 5) (lat : Nat) (x : VWord) : (c.resV r lat x).saveArea = c.saveArea := Ctx.result_saveArea c _ _ _
@[simp] theorem Ctx.resV_unplaced (c : Ctx) (r : BitVec 5) (lat : Nat) (x : VWord) : (c.resV r lat x).unplaced = c.unplaced := Ctx.result_unplaced c _ _ _
@[simp] theorem Ctx.resV_savedEq (c : Ctx) (r : BitVec 5) (lat : Nat) (x : VWord) : (c.resV r lat x).savedEq = c.savedEq := Ctx.result_savedEq c _ _ _

/-! `Ctx.resM` -/

@[simp] theorem Ctx.resM_cid (c : Ctx) (r : BitVec 3) (lat : Nat) (x : MWord) : (c.resM r lat x).cid = c.cid := Ctx.result_cid c _ _ _
@[simp] theorem Ctx.resM_place (c : Ctx) (r : BitVec 3) (lat : Nat) (x : MWord) : (c.resM r lat x).place = c.place := Ctx.result_place c _ _ _
@[simp] theorem Ctx.resM_slot (c : Ctx) (r : BitVec 3) (lat : Nat) (x : MWord) : (c.resM r lat x).slot = c.slot := Ctx.result_slot c _ _ _
@[simp] theorem Ctx.resM_level (c : Ctx) (r : BitVec 3) (lat : Nat) (x : MWord) : (c.resM r lat x).level = c.level := Ctx.result_level c _ _ _
@[simp] theorem Ctx.resM_region (c : Ctx) (r : BitVec 3) (lat : Nat) (x : MWord) : (c.resM r lat x).region = c.region := Ctx.result_region c _ _ _
@[simp] theorem Ctx.resM_asid (c : Ctx) (r : BitVec 3) (lat : Nat) (x : MWord) : (c.resM r lat x).asid = c.asid := Ctx.result_asid c _ _ _
@[simp] theorem Ctx.resM_status (c : Ctx) (r : BitVec 3) (lat : Nat) (x : MWord) : (c.resM r lat x).status = c.status := Ctx.result_status c _ _ _
@[simp] theorem Ctx.resM_ended (c : Ctx) (r : BitVec 3) (lat : Nat) (x : MWord) : (c.resM r lat x).ended = c.ended := Ctx.result_ended c _ _ _
@[simp] theorem Ctx.resM_completed (c : Ctx) (r : BitVec 3) (lat : Nat) (x : MWord) : (c.resM r lat x).completed = c.completed := Ctx.result_completed c _ _ _
@[simp] theorem Ctx.resM_h (c : Ctx) (r : BitVec 3) (lat : Nat) (x : MWord) : (c.resM r lat x).h = c.h := Ctx.result_h c _ _ _
@[simp] theorem Ctx.resM_mat (c : Ctx) (r : BitVec 3) (lat : Nat) (x : MWord) : (c.resM r lat x).mat = c.mat := Ctx.result_mat c _ _ _
@[simp] theorem Ctx.resM_mrun (c : Ctx) (r : BitVec 3) (lat : Nat) (x : MWord) : (c.resM r lat x).mrun = c.mrun := Ctx.result_mrun c _ _ _
@[simp] theorem Ctx.resM_sr (c : Ctx) (r : BitVec 3) (lat : Nat) (x : MWord) : (c.resM r lat x).sr = c.sr := Ctx.result_sr c _ _ _
@[simp] theorem Ctx.resM_pc (c : Ctx) (r : BitVec 3) (lat : Nat) (x : MWord) : (c.resM r lat x).pc = c.pc := Ctx.result_pc c _ _ _
@[simp] theorem Ctx.resM_grp (c : Ctx) (r : BitVec 3) (lat : Nat) (x : MWord) : (c.resM r lat x).grp = c.grp := Ctx.result_grp c _ _ _
@[simp] theorem Ctx.resM_pend (c : Ctx) (r : BitVec 3) (lat : Nat) (x : MWord) : (c.resM r lat x).pend = c.pend := Ctx.result_pend c _ _ _
@[simp] theorem Ctx.resM_loops (c : Ctx) (r : BitVec 3) (lat : Nat) (x : MWord) : (c.resM r lat x).loops = c.loops := Ctx.result_loops c _ _ _
@[simp] theorem Ctx.resM_mq (c : Ctx) (r : BitVec 3) (lat : Nat) (x : MWord) : (c.resM r lat x).mq = c.mq := Ctx.result_mq c _ _ _
@[simp] theorem Ctx.resM_eq (c : Ctx) (r : BitVec 3) (lat : Nat) (x : MWord) : (c.resM r lat x).eq = c.eq := Ctx.result_eq c _ _ _
@[simp] theorem Ctx.resM_nextOp (c : Ctx) (r : BitVec 3) (lat : Nat) (x : MWord) : (c.resM r lat x).nextOp = c.nextOp := Ctx.result_nextOp c _ _ _
@[simp] theorem Ctx.resM_mail (c : Ctx) (r : BitVec 3) (lat : Nat) (x : MWord) : (c.resM r lat x).mail = c.mail := Ctx.result_mail c _ _ _
@[simp] theorem Ctx.resM_wait (c : Ctx) (r : BitVec 3) (lat : Nat) (x : MWord) : (c.resM r lat x).wait = c.wait := Ctx.result_wait c _ _ _
@[simp] theorem Ctx.resM_told (c : Ctx) (r : BitVec 3) (lat : Nat) (x : MWord) : (c.resM r lat x).told = c.told := Ctx.result_told c _ _ _
@[simp] theorem Ctx.resM_sig (c : Ctx) (r : BitVec 3) (lat : Nat) (x : MWord) : (c.resM r lat x).sig = c.sig := Ctx.result_sig c _ _ _
@[simp] theorem Ctx.resM_sigPred (c : Ctx) (r : BitVec 3) (lat : Nat) (x : MWord) : (c.resM r lat x).sigPred = c.sigPred := Ctx.result_sigPred c _ _ _
@[simp] theorem Ctx.resM_meters (c : Ctx) (r : BitVec 3) (lat : Nat) (x : MWord) : (c.resM r lat x).meters = c.meters := Ctx.result_meters c _ _ _
@[simp] theorem Ctx.resM_meterLatch (c : Ctx) (r : BitVec 3) (lat : Nat) (x : MWord) : (c.resM r lat x).meterLatch = c.meterLatch := Ctx.result_meterLatch c _ _ _
@[simp] theorem Ctx.resM_fault (c : Ctx) (r : BitVec 3) (lat : Nat) (x : MWord) : (c.resM r lat x).fault = c.fault := Ctx.result_fault c _ _ _
@[simp] theorem Ctx.resM_gang (c : Ctx) (r : BitVec 3) (lat : Nat) (x : MWord) : (c.resM r lat x).gang = c.gang := Ctx.result_gang c _ _ _
@[simp] theorem Ctx.resM_restarts (c : Ctx) (r : BitVec 3) (lat : Nat) (x : MWord) : (c.resM r lat x).restarts = c.restarts := Ctx.result_restarts c _ _ _
@[simp] theorem Ctx.resM_since (c : Ctx) (r : BitVec 3) (lat : Nat) (x : MWord) : (c.resM r lat x).since = c.since := Ctx.result_since c _ _ _
@[simp] theorem Ctx.resM_roundAt (c : Ctx) (r : BitVec 3) (lat : Nat) (x : MWord) : (c.resM r lat x).roundAt = c.roundAt := Ctx.result_roundAt c _ _ _
@[simp] theorem Ctx.resM_saveArea (c : Ctx) (r : BitVec 3) (lat : Nat) (x : MWord) : (c.resM r lat x).saveArea = c.saveArea := Ctx.result_saveArea c _ _ _
@[simp] theorem Ctx.resM_unplaced (c : Ctx) (r : BitVec 3) (lat : Nat) (x : MWord) : (c.resM r lat x).unplaced = c.unplaced := Ctx.result_unplaced c _ _ _
@[simp] theorem Ctx.resM_savedEq (c : Ctx) (r : BitVec 3) (lat : Nat) (x : MWord) : (c.resM r lat x).savedEq = c.savedEq := Ctx.result_savedEq c _ _ _

/-! `Ctx.push` -/

@[simp] theorem Ctx.push_cid (c : Ctx) (f : Nat → MemOp) : (c.push f).cid = c.cid := rfl
@[simp] theorem Ctx.push_place (c : Ctx) (f : Nat → MemOp) : (c.push f).place = c.place := rfl
@[simp] theorem Ctx.push_slot (c : Ctx) (f : Nat → MemOp) : (c.push f).slot = c.slot := rfl
@[simp] theorem Ctx.push_level (c : Ctx) (f : Nat → MemOp) : (c.push f).level = c.level := rfl
@[simp] theorem Ctx.push_region (c : Ctx) (f : Nat → MemOp) : (c.push f).region = c.region := rfl
@[simp] theorem Ctx.push_asid (c : Ctx) (f : Nat → MemOp) : (c.push f).asid = c.asid := rfl
@[simp] theorem Ctx.push_status (c : Ctx) (f : Nat → MemOp) : (c.push f).status = c.status := rfl
@[simp] theorem Ctx.push_ended (c : Ctx) (f : Nat → MemOp) : (c.push f).ended = c.ended := rfl
@[simp] theorem Ctx.push_completed (c : Ctx) (f : Nat → MemOp) : (c.push f).completed = c.completed := rfl
@[simp] theorem Ctx.push_regs (c : Ctx) (f : Nat → MemOp) : (c.push f).regs = c.regs := rfl
@[simp] theorem Ctx.push_h (c : Ctx) (f : Nat → MemOp) : (c.push f).h = c.h := rfl
@[simp] theorem Ctx.push_mat (c : Ctx) (f : Nat → MemOp) : (c.push f).mat = c.mat := rfl
@[simp] theorem Ctx.push_mrun (c : Ctx) (f : Nat → MemOp) : (c.push f).mrun = c.mrun := rfl
@[simp] theorem Ctx.push_sr (c : Ctx) (f : Nat → MemOp) : (c.push f).sr = c.sr := rfl
@[simp] theorem Ctx.push_pc (c : Ctx) (f : Nat → MemOp) : (c.push f).pc = c.pc := rfl
@[simp] theorem Ctx.push_grp (c : Ctx) (f : Nat → MemOp) : (c.push f).grp = c.grp := rfl
@[simp] theorem Ctx.push_openW (c : Ctx) (f : Nat → MemOp) : (c.push f).openW = c.openW := rfl
@[simp] theorem Ctx.push_pend (c : Ctx) (f : Nat → MemOp) : (c.push f).pend = c.pend := rfl
@[simp] theorem Ctx.push_loops (c : Ctx) (f : Nat → MemOp) : (c.push f).loops = c.loops := rfl
@[simp] theorem Ctx.push_eq (c : Ctx) (f : Nat → MemOp) : (c.push f).eq = c.eq := rfl
@[simp] theorem Ctx.push_nextOp (c : Ctx) (f : Nat → MemOp) : (c.push f).nextOp = c.nextOp := rfl
@[simp] theorem Ctx.push_mail (c : Ctx) (f : Nat → MemOp) : (c.push f).mail = c.mail := rfl
@[simp] theorem Ctx.push_wait (c : Ctx) (f : Nat → MemOp) : (c.push f).wait = c.wait := rfl
@[simp] theorem Ctx.push_told (c : Ctx) (f : Nat → MemOp) : (c.push f).told = c.told := rfl
@[simp] theorem Ctx.push_sig (c : Ctx) (f : Nat → MemOp) : (c.push f).sig = c.sig := rfl
@[simp] theorem Ctx.push_sigPred (c : Ctx) (f : Nat → MemOp) : (c.push f).sigPred = c.sigPred := rfl
@[simp] theorem Ctx.push_meters (c : Ctx) (f : Nat → MemOp) : (c.push f).meters = c.meters := rfl
@[simp] theorem Ctx.push_meterLatch (c : Ctx) (f : Nat → MemOp) : (c.push f).meterLatch = c.meterLatch := rfl
@[simp] theorem Ctx.push_fault (c : Ctx) (f : Nat → MemOp) : (c.push f).fault = c.fault := rfl
@[simp] theorem Ctx.push_gang (c : Ctx) (f : Nat → MemOp) : (c.push f).gang = c.gang := rfl
@[simp] theorem Ctx.push_restarts (c : Ctx) (f : Nat → MemOp) : (c.push f).restarts = c.restarts := rfl
@[simp] theorem Ctx.push_since (c : Ctx) (f : Nat → MemOp) : (c.push f).since = c.since := rfl
@[simp] theorem Ctx.push_roundAt (c : Ctx) (f : Nat → MemOp) : (c.push f).roundAt = c.roundAt := rfl
@[simp] theorem Ctx.push_saveArea (c : Ctx) (f : Nat → MemOp) : (c.push f).saveArea = c.saveArea := rfl
@[simp] theorem Ctx.push_unplaced (c : Ctx) (f : Nat → MemOp) : (c.push f).unplaced = c.unplaced := rfl
@[simp] theorem Ctx.push_savedEq (c : Ctx) (f : Nat → MemOp) : (c.push f).savedEq = c.savedEq := rfl

/-! `Ctx.mapQ` -/

@[simp] theorem Ctx.mapQ_cid (c : Ctx) (q : Nat) (f : List Entry → List Entry) : (c.mapQ q f).cid = c.cid := rfl
@[simp] theorem Ctx.mapQ_place (c : Ctx) (q : Nat) (f : List Entry → List Entry) : (c.mapQ q f).place = c.place := rfl
@[simp] theorem Ctx.mapQ_slot (c : Ctx) (q : Nat) (f : List Entry → List Entry) : (c.mapQ q f).slot = c.slot := rfl
@[simp] theorem Ctx.mapQ_level (c : Ctx) (q : Nat) (f : List Entry → List Entry) : (c.mapQ q f).level = c.level := rfl
@[simp] theorem Ctx.mapQ_region (c : Ctx) (q : Nat) (f : List Entry → List Entry) : (c.mapQ q f).region = c.region := rfl
@[simp] theorem Ctx.mapQ_asid (c : Ctx) (q : Nat) (f : List Entry → List Entry) : (c.mapQ q f).asid = c.asid := rfl
@[simp] theorem Ctx.mapQ_status (c : Ctx) (q : Nat) (f : List Entry → List Entry) : (c.mapQ q f).status = c.status := rfl
@[simp] theorem Ctx.mapQ_ended (c : Ctx) (q : Nat) (f : List Entry → List Entry) : (c.mapQ q f).ended = c.ended := rfl
@[simp] theorem Ctx.mapQ_completed (c : Ctx) (q : Nat) (f : List Entry → List Entry) : (c.mapQ q f).completed = c.completed := rfl
@[simp] theorem Ctx.mapQ_regs (c : Ctx) (q : Nat) (f : List Entry → List Entry) : (c.mapQ q f).regs = c.regs := rfl
@[simp] theorem Ctx.mapQ_h (c : Ctx) (q : Nat) (f : List Entry → List Entry) : (c.mapQ q f).h = c.h := rfl
@[simp] theorem Ctx.mapQ_mat (c : Ctx) (q : Nat) (f : List Entry → List Entry) : (c.mapQ q f).mat = c.mat := rfl
@[simp] theorem Ctx.mapQ_mrun (c : Ctx) (q : Nat) (f : List Entry → List Entry) : (c.mapQ q f).mrun = c.mrun := rfl
@[simp] theorem Ctx.mapQ_sr (c : Ctx) (q : Nat) (f : List Entry → List Entry) : (c.mapQ q f).sr = c.sr := rfl
@[simp] theorem Ctx.mapQ_pc (c : Ctx) (q : Nat) (f : List Entry → List Entry) : (c.mapQ q f).pc = c.pc := rfl
@[simp] theorem Ctx.mapQ_grp (c : Ctx) (q : Nat) (f : List Entry → List Entry) : (c.mapQ q f).grp = c.grp := rfl
@[simp] theorem Ctx.mapQ_openW (c : Ctx) (q : Nat) (f : List Entry → List Entry) : (c.mapQ q f).openW = c.openW := rfl
@[simp] theorem Ctx.mapQ_pend (c : Ctx) (q : Nat) (f : List Entry → List Entry) : (c.mapQ q f).pend = c.pend := rfl
@[simp] theorem Ctx.mapQ_loops (c : Ctx) (q : Nat) (f : List Entry → List Entry) : (c.mapQ q f).loops = c.loops := rfl
@[simp] theorem Ctx.mapQ_mq (c : Ctx) (q : Nat) (f : List Entry → List Entry) : (c.mapQ q f).mq = c.mq := rfl
@[simp] theorem Ctx.mapQ_nextOp (c : Ctx) (q : Nat) (f : List Entry → List Entry) : (c.mapQ q f).nextOp = c.nextOp := rfl
@[simp] theorem Ctx.mapQ_mail (c : Ctx) (q : Nat) (f : List Entry → List Entry) : (c.mapQ q f).mail = c.mail := rfl
@[simp] theorem Ctx.mapQ_wait (c : Ctx) (q : Nat) (f : List Entry → List Entry) : (c.mapQ q f).wait = c.wait := rfl
@[simp] theorem Ctx.mapQ_told (c : Ctx) (q : Nat) (f : List Entry → List Entry) : (c.mapQ q f).told = c.told := rfl
@[simp] theorem Ctx.mapQ_sig (c : Ctx) (q : Nat) (f : List Entry → List Entry) : (c.mapQ q f).sig = c.sig := rfl
@[simp] theorem Ctx.mapQ_sigPred (c : Ctx) (q : Nat) (f : List Entry → List Entry) : (c.mapQ q f).sigPred = c.sigPred := rfl
@[simp] theorem Ctx.mapQ_meters (c : Ctx) (q : Nat) (f : List Entry → List Entry) : (c.mapQ q f).meters = c.meters := rfl
@[simp] theorem Ctx.mapQ_meterLatch (c : Ctx) (q : Nat) (f : List Entry → List Entry) : (c.mapQ q f).meterLatch = c.meterLatch := rfl
@[simp] theorem Ctx.mapQ_fault (c : Ctx) (q : Nat) (f : List Entry → List Entry) : (c.mapQ q f).fault = c.fault := rfl
@[simp] theorem Ctx.mapQ_gang (c : Ctx) (q : Nat) (f : List Entry → List Entry) : (c.mapQ q f).gang = c.gang := rfl
@[simp] theorem Ctx.mapQ_restarts (c : Ctx) (q : Nat) (f : List Entry → List Entry) : (c.mapQ q f).restarts = c.restarts := rfl
@[simp] theorem Ctx.mapQ_since (c : Ctx) (q : Nat) (f : List Entry → List Entry) : (c.mapQ q f).since = c.since := rfl
@[simp] theorem Ctx.mapQ_roundAt (c : Ctx) (q : Nat) (f : List Entry → List Entry) : (c.mapQ q f).roundAt = c.roundAt := rfl
@[simp] theorem Ctx.mapQ_saveArea (c : Ctx) (q : Nat) (f : List Entry → List Entry) : (c.mapQ q f).saveArea = c.saveArea := rfl
@[simp] theorem Ctx.mapQ_unplaced (c : Ctx) (q : Nat) (f : List Entry → List Entry) : (c.mapQ q f).unplaced = c.unplaced := rfl
@[simp] theorem Ctx.mapQ_savedEq (c : Ctx) (q : Nat) (f : List Entry → List Entry) : (c.mapQ q f).savedEq = c.savedEq := rfl

/-! `Ctx.charge` -/

@[simp] theorem Ctx.charge_cid (c : Ctx) (ps : List Part) : (c.charge ps).cid = c.cid := rfl
@[simp] theorem Ctx.charge_place (c : Ctx) (ps : List Part) : (c.charge ps).place = c.place := rfl
@[simp] theorem Ctx.charge_slot (c : Ctx) (ps : List Part) : (c.charge ps).slot = c.slot := rfl
@[simp] theorem Ctx.charge_level (c : Ctx) (ps : List Part) : (c.charge ps).level = c.level := rfl
@[simp] theorem Ctx.charge_region (c : Ctx) (ps : List Part) : (c.charge ps).region = c.region := rfl
@[simp] theorem Ctx.charge_asid (c : Ctx) (ps : List Part) : (c.charge ps).asid = c.asid := rfl
@[simp] theorem Ctx.charge_status (c : Ctx) (ps : List Part) : (c.charge ps).status = c.status := rfl
@[simp] theorem Ctx.charge_ended (c : Ctx) (ps : List Part) : (c.charge ps).ended = c.ended := rfl
@[simp] theorem Ctx.charge_completed (c : Ctx) (ps : List Part) : (c.charge ps).completed = c.completed := rfl
@[simp] theorem Ctx.charge_regs (c : Ctx) (ps : List Part) : (c.charge ps).regs = c.regs := rfl
@[simp] theorem Ctx.charge_h (c : Ctx) (ps : List Part) : (c.charge ps).h = c.h := rfl
@[simp] theorem Ctx.charge_mat (c : Ctx) (ps : List Part) : (c.charge ps).mat = c.mat := rfl
@[simp] theorem Ctx.charge_mrun (c : Ctx) (ps : List Part) : (c.charge ps).mrun = c.mrun := rfl
@[simp] theorem Ctx.charge_sr (c : Ctx) (ps : List Part) : (c.charge ps).sr = c.sr := rfl
@[simp] theorem Ctx.charge_pc (c : Ctx) (ps : List Part) : (c.charge ps).pc = c.pc := rfl
@[simp] theorem Ctx.charge_grp (c : Ctx) (ps : List Part) : (c.charge ps).grp = c.grp := rfl
@[simp] theorem Ctx.charge_openW (c : Ctx) (ps : List Part) : (c.charge ps).openW = c.openW := rfl
@[simp] theorem Ctx.charge_pend (c : Ctx) (ps : List Part) : (c.charge ps).pend = c.pend := rfl
@[simp] theorem Ctx.charge_loops (c : Ctx) (ps : List Part) : (c.charge ps).loops = c.loops := rfl
@[simp] theorem Ctx.charge_mq (c : Ctx) (ps : List Part) : (c.charge ps).mq = c.mq := rfl
@[simp] theorem Ctx.charge_eq (c : Ctx) (ps : List Part) : (c.charge ps).eq = c.eq := rfl
@[simp] theorem Ctx.charge_nextOp (c : Ctx) (ps : List Part) : (c.charge ps).nextOp = c.nextOp := rfl
@[simp] theorem Ctx.charge_mail (c : Ctx) (ps : List Part) : (c.charge ps).mail = c.mail := rfl
@[simp] theorem Ctx.charge_wait (c : Ctx) (ps : List Part) : (c.charge ps).wait = c.wait := rfl
@[simp] theorem Ctx.charge_told (c : Ctx) (ps : List Part) : (c.charge ps).told = c.told := rfl
@[simp] theorem Ctx.charge_sig (c : Ctx) (ps : List Part) : (c.charge ps).sig = c.sig := rfl
@[simp] theorem Ctx.charge_sigPred (c : Ctx) (ps : List Part) : (c.charge ps).sigPred = c.sigPred := rfl
@[simp] theorem Ctx.charge_meterLatch (c : Ctx) (ps : List Part) : (c.charge ps).meterLatch = c.meterLatch := rfl
@[simp] theorem Ctx.charge_fault (c : Ctx) (ps : List Part) : (c.charge ps).fault = c.fault := rfl
@[simp] theorem Ctx.charge_gang (c : Ctx) (ps : List Part) : (c.charge ps).gang = c.gang := rfl
@[simp] theorem Ctx.charge_restarts (c : Ctx) (ps : List Part) : (c.charge ps).restarts = c.restarts := rfl
@[simp] theorem Ctx.charge_since (c : Ctx) (ps : List Part) : (c.charge ps).since = c.since := rfl
@[simp] theorem Ctx.charge_roundAt (c : Ctx) (ps : List Part) : (c.charge ps).roundAt = c.roundAt := rfl
@[simp] theorem Ctx.charge_saveArea (c : Ctx) (ps : List Part) : (c.charge ps).saveArea = c.saveArea := rfl
@[simp] theorem Ctx.charge_unplaced (c : Ctx) (ps : List Part) : (c.charge ps).unplaced = c.unplaced := rfl
@[simp] theorem Ctx.charge_savedEq (c : Ctx) (ps : List Part) : (c.charge ps).savedEq = c.savedEq := rfl

/-! `Ctx.setHandle` -/

@[simp] theorem Ctx.setHandle_cid (c : Ctx) (i : BitVec 4) (x : Handle) : (c.setHandle i x).cid = c.cid := rfl
@[simp] theorem Ctx.setHandle_place (c : Ctx) (i : BitVec 4) (x : Handle) : (c.setHandle i x).place = c.place := rfl
@[simp] theorem Ctx.setHandle_slot (c : Ctx) (i : BitVec 4) (x : Handle) : (c.setHandle i x).slot = c.slot := rfl
@[simp] theorem Ctx.setHandle_level (c : Ctx) (i : BitVec 4) (x : Handle) : (c.setHandle i x).level = c.level := rfl
@[simp] theorem Ctx.setHandle_region (c : Ctx) (i : BitVec 4) (x : Handle) : (c.setHandle i x).region = c.region := rfl
@[simp] theorem Ctx.setHandle_asid (c : Ctx) (i : BitVec 4) (x : Handle) : (c.setHandle i x).asid = c.asid := rfl
@[simp] theorem Ctx.setHandle_status (c : Ctx) (i : BitVec 4) (x : Handle) : (c.setHandle i x).status = c.status := rfl
@[simp] theorem Ctx.setHandle_ended (c : Ctx) (i : BitVec 4) (x : Handle) : (c.setHandle i x).ended = c.ended := rfl
@[simp] theorem Ctx.setHandle_completed (c : Ctx) (i : BitVec 4) (x : Handle) : (c.setHandle i x).completed = c.completed := rfl
@[simp] theorem Ctx.setHandle_regs (c : Ctx) (i : BitVec 4) (x : Handle) : (c.setHandle i x).regs = c.regs := rfl
@[simp] theorem Ctx.setHandle_mat (c : Ctx) (i : BitVec 4) (x : Handle) : (c.setHandle i x).mat = c.mat := rfl
@[simp] theorem Ctx.setHandle_mrun (c : Ctx) (i : BitVec 4) (x : Handle) : (c.setHandle i x).mrun = c.mrun := rfl
@[simp] theorem Ctx.setHandle_sr (c : Ctx) (i : BitVec 4) (x : Handle) : (c.setHandle i x).sr = c.sr := rfl
@[simp] theorem Ctx.setHandle_pc (c : Ctx) (i : BitVec 4) (x : Handle) : (c.setHandle i x).pc = c.pc := rfl
@[simp] theorem Ctx.setHandle_grp (c : Ctx) (i : BitVec 4) (x : Handle) : (c.setHandle i x).grp = c.grp := rfl
@[simp] theorem Ctx.setHandle_openW (c : Ctx) (i : BitVec 4) (x : Handle) : (c.setHandle i x).openW = c.openW := rfl
@[simp] theorem Ctx.setHandle_pend (c : Ctx) (i : BitVec 4) (x : Handle) : (c.setHandle i x).pend = c.pend := rfl
@[simp] theorem Ctx.setHandle_loops (c : Ctx) (i : BitVec 4) (x : Handle) : (c.setHandle i x).loops = c.loops := rfl
@[simp] theorem Ctx.setHandle_mq (c : Ctx) (i : BitVec 4) (x : Handle) : (c.setHandle i x).mq = c.mq := rfl
@[simp] theorem Ctx.setHandle_eq (c : Ctx) (i : BitVec 4) (x : Handle) : (c.setHandle i x).eq = c.eq := rfl
@[simp] theorem Ctx.setHandle_nextOp (c : Ctx) (i : BitVec 4) (x : Handle) : (c.setHandle i x).nextOp = c.nextOp := rfl
@[simp] theorem Ctx.setHandle_mail (c : Ctx) (i : BitVec 4) (x : Handle) : (c.setHandle i x).mail = c.mail := rfl
@[simp] theorem Ctx.setHandle_wait (c : Ctx) (i : BitVec 4) (x : Handle) : (c.setHandle i x).wait = c.wait := rfl
@[simp] theorem Ctx.setHandle_told (c : Ctx) (i : BitVec 4) (x : Handle) : (c.setHandle i x).told = c.told := rfl
@[simp] theorem Ctx.setHandle_sig (c : Ctx) (i : BitVec 4) (x : Handle) : (c.setHandle i x).sig = c.sig := rfl
@[simp] theorem Ctx.setHandle_sigPred (c : Ctx) (i : BitVec 4) (x : Handle) : (c.setHandle i x).sigPred = c.sigPred := rfl
@[simp] theorem Ctx.setHandle_meters (c : Ctx) (i : BitVec 4) (x : Handle) : (c.setHandle i x).meters = c.meters := rfl
@[simp] theorem Ctx.setHandle_meterLatch (c : Ctx) (i : BitVec 4) (x : Handle) : (c.setHandle i x).meterLatch = c.meterLatch := rfl
@[simp] theorem Ctx.setHandle_fault (c : Ctx) (i : BitVec 4) (x : Handle) : (c.setHandle i x).fault = c.fault := rfl
@[simp] theorem Ctx.setHandle_gang (c : Ctx) (i : BitVec 4) (x : Handle) : (c.setHandle i x).gang = c.gang := rfl
@[simp] theorem Ctx.setHandle_restarts (c : Ctx) (i : BitVec 4) (x : Handle) : (c.setHandle i x).restarts = c.restarts := rfl
@[simp] theorem Ctx.setHandle_since (c : Ctx) (i : BitVec 4) (x : Handle) : (c.setHandle i x).since = c.since := rfl
@[simp] theorem Ctx.setHandle_roundAt (c : Ctx) (i : BitVec 4) (x : Handle) : (c.setHandle i x).roundAt = c.roundAt := rfl
@[simp] theorem Ctx.setHandle_saveArea (c : Ctx) (i : BitVec 4) (x : Handle) : (c.setHandle i x).saveArea = c.saveArea := rfl
@[simp] theorem Ctx.setHandle_unplaced (c : Ctx) (i : BitVec 4) (x : Handle) : (c.setHandle i x).unplaced = c.unplaced := rfl
@[simp] theorem Ctx.setHandle_savedEq (c : Ctx) (i : BitVec 4) (x : Handle) : (c.setHandle i x).savedEq = c.savedEq := rfl

/-! `Ctx.fence` -/

@[simp] theorem Ctx.fence_cid (c : Ctx) (k : FenceKind) (v : Word) : (c.fence k v).cid = c.cid := rfl
@[simp] theorem Ctx.fence_place (c : Ctx) (k : FenceKind) (v : Word) : (c.fence k v).place = c.place := rfl
@[simp] theorem Ctx.fence_slot (c : Ctx) (k : FenceKind) (v : Word) : (c.fence k v).slot = c.slot := rfl
@[simp] theorem Ctx.fence_level (c : Ctx) (k : FenceKind) (v : Word) : (c.fence k v).level = c.level := rfl
@[simp] theorem Ctx.fence_region (c : Ctx) (k : FenceKind) (v : Word) : (c.fence k v).region = c.region := rfl
@[simp] theorem Ctx.fence_asid (c : Ctx) (k : FenceKind) (v : Word) : (c.fence k v).asid = c.asid := rfl
@[simp] theorem Ctx.fence_status (c : Ctx) (k : FenceKind) (v : Word) : (c.fence k v).status = c.status := rfl
@[simp] theorem Ctx.fence_ended (c : Ctx) (k : FenceKind) (v : Word) : (c.fence k v).ended = c.ended := rfl
@[simp] theorem Ctx.fence_completed (c : Ctx) (k : FenceKind) (v : Word) : (c.fence k v).completed = c.completed := rfl
@[simp] theorem Ctx.fence_regs (c : Ctx) (k : FenceKind) (v : Word) : (c.fence k v).regs = c.regs := rfl
@[simp] theorem Ctx.fence_h (c : Ctx) (k : FenceKind) (v : Word) : (c.fence k v).h = c.h := rfl
@[simp] theorem Ctx.fence_mat (c : Ctx) (k : FenceKind) (v : Word) : (c.fence k v).mat = c.mat := rfl
@[simp] theorem Ctx.fence_mrun (c : Ctx) (k : FenceKind) (v : Word) : (c.fence k v).mrun = c.mrun := rfl
@[simp] theorem Ctx.fence_sr (c : Ctx) (k : FenceKind) (v : Word) : (c.fence k v).sr = c.sr := rfl
@[simp] theorem Ctx.fence_pc (c : Ctx) (k : FenceKind) (v : Word) : (c.fence k v).pc = c.pc := rfl
@[simp] theorem Ctx.fence_grp (c : Ctx) (k : FenceKind) (v : Word) : (c.fence k v).grp = c.grp := rfl
@[simp] theorem Ctx.fence_openW (c : Ctx) (k : FenceKind) (v : Word) : (c.fence k v).openW = c.openW := rfl
@[simp] theorem Ctx.fence_pend (c : Ctx) (k : FenceKind) (v : Word) : (c.fence k v).pend = c.pend := rfl
@[simp] theorem Ctx.fence_loops (c : Ctx) (k : FenceKind) (v : Word) : (c.fence k v).loops = c.loops := rfl
@[simp] theorem Ctx.fence_eq (c : Ctx) (k : FenceKind) (v : Word) : (c.fence k v).eq = c.eq := rfl
@[simp] theorem Ctx.fence_nextOp (c : Ctx) (k : FenceKind) (v : Word) : (c.fence k v).nextOp = c.nextOp := rfl
@[simp] theorem Ctx.fence_mail (c : Ctx) (k : FenceKind) (v : Word) : (c.fence k v).mail = c.mail := rfl
@[simp] theorem Ctx.fence_wait (c : Ctx) (k : FenceKind) (v : Word) : (c.fence k v).wait = c.wait := rfl
@[simp] theorem Ctx.fence_told (c : Ctx) (k : FenceKind) (v : Word) : (c.fence k v).told = c.told := rfl
@[simp] theorem Ctx.fence_sig (c : Ctx) (k : FenceKind) (v : Word) : (c.fence k v).sig = c.sig := rfl
@[simp] theorem Ctx.fence_sigPred (c : Ctx) (k : FenceKind) (v : Word) : (c.fence k v).sigPred = c.sigPred := rfl
@[simp] theorem Ctx.fence_meters (c : Ctx) (k : FenceKind) (v : Word) : (c.fence k v).meters = c.meters := rfl
@[simp] theorem Ctx.fence_meterLatch (c : Ctx) (k : FenceKind) (v : Word) : (c.fence k v).meterLatch = c.meterLatch := rfl
@[simp] theorem Ctx.fence_fault (c : Ctx) (k : FenceKind) (v : Word) : (c.fence k v).fault = c.fault := rfl
@[simp] theorem Ctx.fence_gang (c : Ctx) (k : FenceKind) (v : Word) : (c.fence k v).gang = c.gang := rfl
@[simp] theorem Ctx.fence_restarts (c : Ctx) (k : FenceKind) (v : Word) : (c.fence k v).restarts = c.restarts := rfl
@[simp] theorem Ctx.fence_since (c : Ctx) (k : FenceKind) (v : Word) : (c.fence k v).since = c.since := rfl
@[simp] theorem Ctx.fence_roundAt (c : Ctx) (k : FenceKind) (v : Word) : (c.fence k v).roundAt = c.roundAt := rfl
@[simp] theorem Ctx.fence_saveArea (c : Ctx) (k : FenceKind) (v : Word) : (c.fence k v).saveArea = c.saveArea := rfl
@[simp] theorem Ctx.fence_unplaced (c : Ctx) (k : FenceKind) (v : Word) : (c.fence k v).unplaced = c.unplaced := rfl
@[simp] theorem Ctx.fence_savedEq (c : Ctx) (k : FenceKind) (v : Word) : (c.fence k v).savedEq = c.savedEq := rfl

/-! `Ctx.age` -/

@[simp] theorem Ctx.age_cid (c : Ctx) (d : Option Nat) : (c.age d).cid = c.cid := rfl
@[simp] theorem Ctx.age_place (c : Ctx) (d : Option Nat) : (c.age d).place = c.place := rfl
@[simp] theorem Ctx.age_slot (c : Ctx) (d : Option Nat) : (c.age d).slot = c.slot := rfl
@[simp] theorem Ctx.age_level (c : Ctx) (d : Option Nat) : (c.age d).level = c.level := rfl
@[simp] theorem Ctx.age_region (c : Ctx) (d : Option Nat) : (c.age d).region = c.region := rfl
@[simp] theorem Ctx.age_asid (c : Ctx) (d : Option Nat) : (c.age d).asid = c.asid := rfl
@[simp] theorem Ctx.age_status (c : Ctx) (d : Option Nat) : (c.age d).status = c.status := rfl
@[simp] theorem Ctx.age_ended (c : Ctx) (d : Option Nat) : (c.age d).ended = c.ended := rfl
@[simp] theorem Ctx.age_completed (c : Ctx) (d : Option Nat) : (c.age d).completed = c.completed := rfl
@[simp] theorem Ctx.age_h (c : Ctx) (d : Option Nat) : (c.age d).h = c.h := rfl
@[simp] theorem Ctx.age_mat (c : Ctx) (d : Option Nat) : (c.age d).mat = c.mat := rfl
@[simp] theorem Ctx.age_mrun (c : Ctx) (d : Option Nat) : (c.age d).mrun = c.mrun := rfl
@[simp] theorem Ctx.age_sr (c : Ctx) (d : Option Nat) : (c.age d).sr = c.sr := rfl
@[simp] theorem Ctx.age_pc (c : Ctx) (d : Option Nat) : (c.age d).pc = c.pc := rfl
@[simp] theorem Ctx.age_grp (c : Ctx) (d : Option Nat) : (c.age d).grp = c.grp := rfl
@[simp] theorem Ctx.age_pend (c : Ctx) (d : Option Nat) : (c.age d).pend = c.pend := rfl
@[simp] theorem Ctx.age_loops (c : Ctx) (d : Option Nat) : (c.age d).loops = c.loops := rfl
@[simp] theorem Ctx.age_mq (c : Ctx) (d : Option Nat) : (c.age d).mq = c.mq := rfl
@[simp] theorem Ctx.age_eq (c : Ctx) (d : Option Nat) : (c.age d).eq = c.eq := rfl
@[simp] theorem Ctx.age_nextOp (c : Ctx) (d : Option Nat) : (c.age d).nextOp = c.nextOp := rfl
@[simp] theorem Ctx.age_mail (c : Ctx) (d : Option Nat) : (c.age d).mail = c.mail := rfl
@[simp] theorem Ctx.age_wait (c : Ctx) (d : Option Nat) : (c.age d).wait = c.wait := rfl
@[simp] theorem Ctx.age_told (c : Ctx) (d : Option Nat) : (c.age d).told = c.told := rfl
@[simp] theorem Ctx.age_sig (c : Ctx) (d : Option Nat) : (c.age d).sig = c.sig := rfl
@[simp] theorem Ctx.age_sigPred (c : Ctx) (d : Option Nat) : (c.age d).sigPred = c.sigPred := rfl
@[simp] theorem Ctx.age_meters (c : Ctx) (d : Option Nat) : (c.age d).meters = c.meters := rfl
@[simp] theorem Ctx.age_meterLatch (c : Ctx) (d : Option Nat) : (c.age d).meterLatch = c.meterLatch := rfl
@[simp] theorem Ctx.age_fault (c : Ctx) (d : Option Nat) : (c.age d).fault = c.fault := rfl
@[simp] theorem Ctx.age_gang (c : Ctx) (d : Option Nat) : (c.age d).gang = c.gang := rfl
@[simp] theorem Ctx.age_restarts (c : Ctx) (d : Option Nat) : (c.age d).restarts = c.restarts := rfl
@[simp] theorem Ctx.age_since (c : Ctx) (d : Option Nat) : (c.age d).since = c.since := rfl
@[simp] theorem Ctx.age_roundAt (c : Ctx) (d : Option Nat) : (c.age d).roundAt = c.roundAt := rfl
@[simp] theorem Ctx.age_saveArea (c : Ctx) (d : Option Nat) : (c.age d).saveArea = c.saveArea := rfl
@[simp] theorem Ctx.age_unplaced (c : Ctx) (d : Option Nat) : (c.age d).unplaced = c.unplaced := rfl
@[simp] theorem Ctx.age_savedEq (c : Ctx) (d : Option Nat) : (c.age d).savedEq = c.savedEq := rfl

/-! `Ctx.abandon` -/

@[simp] theorem Ctx.abandon_cid (c : Ctx) : (c.abandon).cid = c.cid := by unfold Ctx.abandon; split <;> rfl
@[simp] theorem Ctx.abandon_place (c : Ctx) : (c.abandon).place = c.place := by unfold Ctx.abandon; split <;> rfl
@[simp] theorem Ctx.abandon_slot (c : Ctx) : (c.abandon).slot = c.slot := by unfold Ctx.abandon; split <;> rfl
@[simp] theorem Ctx.abandon_level (c : Ctx) : (c.abandon).level = c.level := by unfold Ctx.abandon; split <;> rfl
@[simp] theorem Ctx.abandon_region (c : Ctx) : (c.abandon).region = c.region := by unfold Ctx.abandon; split <;> rfl
@[simp] theorem Ctx.abandon_asid (c : Ctx) : (c.abandon).asid = c.asid := by unfold Ctx.abandon; split <;> rfl
@[simp] theorem Ctx.abandon_status (c : Ctx) : (c.abandon).status = c.status := by unfold Ctx.abandon; split <;> rfl
@[simp] theorem Ctx.abandon_ended (c : Ctx) : (c.abandon).ended = c.ended := by unfold Ctx.abandon; split <;> rfl
@[simp] theorem Ctx.abandon_completed (c : Ctx) : (c.abandon).completed = c.completed := by unfold Ctx.abandon; split <;> rfl
@[simp] theorem Ctx.abandon_regs (c : Ctx) : (c.abandon).regs = c.regs := by unfold Ctx.abandon; split <;> rfl
@[simp] theorem Ctx.abandon_h (c : Ctx) : (c.abandon).h = c.h := by unfold Ctx.abandon; split <;> rfl
@[simp] theorem Ctx.abandon_mat (c : Ctx) : (c.abandon).mat = c.mat := by unfold Ctx.abandon; split <;> rfl
@[simp] theorem Ctx.abandon_mrun (c : Ctx) : (c.abandon).mrun = c.mrun := by unfold Ctx.abandon; split <;> rfl
@[simp] theorem Ctx.abandon_sr (c : Ctx) : (c.abandon).sr = c.sr := by unfold Ctx.abandon; split <;> rfl
@[simp] theorem Ctx.abandon_pc (c : Ctx) : (c.abandon).pc = c.pc := by unfold Ctx.abandon; split <;> rfl
@[simp] theorem Ctx.abandon_grp (c : Ctx) : (c.abandon).grp = c.grp := by unfold Ctx.abandon; split <;> rfl
@[simp] theorem Ctx.abandon_openW (c : Ctx) : (c.abandon).openW = c.openW := by unfold Ctx.abandon; split <;> rfl
@[simp] theorem Ctx.abandon_pend (c : Ctx) : (c.abandon).pend = c.pend := by unfold Ctx.abandon; split <;> rfl
@[simp] theorem Ctx.abandon_loops (c : Ctx) : (c.abandon).loops = c.loops := by unfold Ctx.abandon; split <;> rfl
@[simp] theorem Ctx.abandon_mq (c : Ctx) : (c.abandon).mq = c.mq := by unfold Ctx.abandon; split <;> rfl
@[simp] theorem Ctx.abandon_eq (c : Ctx) : (c.abandon).eq = c.eq := by unfold Ctx.abandon; split <;> rfl
@[simp] theorem Ctx.abandon_nextOp (c : Ctx) : (c.abandon).nextOp = c.nextOp := by unfold Ctx.abandon; split <;> rfl
@[simp] theorem Ctx.abandon_mail (c : Ctx) : (c.abandon).mail = c.mail := by unfold Ctx.abandon; split <;> rfl
@[simp] theorem Ctx.abandon_wait (c : Ctx) : (c.abandon).wait = c.wait := by unfold Ctx.abandon; split <;> rfl
@[simp] theorem Ctx.abandon_told (c : Ctx) : (c.abandon).told = c.told := by unfold Ctx.abandon; split <;> rfl
@[simp] theorem Ctx.abandon_meters (c : Ctx) : (c.abandon).meters = c.meters := by unfold Ctx.abandon; split <;> rfl
@[simp] theorem Ctx.abandon_meterLatch (c : Ctx) : (c.abandon).meterLatch = c.meterLatch := by unfold Ctx.abandon; split <;> rfl
@[simp] theorem Ctx.abandon_fault (c : Ctx) : (c.abandon).fault = c.fault := by unfold Ctx.abandon; split <;> rfl
@[simp] theorem Ctx.abandon_gang (c : Ctx) : (c.abandon).gang = c.gang := by unfold Ctx.abandon; split <;> rfl
@[simp] theorem Ctx.abandon_restarts (c : Ctx) : (c.abandon).restarts = c.restarts := by unfold Ctx.abandon; split <;> rfl
@[simp] theorem Ctx.abandon_since (c : Ctx) : (c.abandon).since = c.since := by unfold Ctx.abandon; split <;> rfl
@[simp] theorem Ctx.abandon_roundAt (c : Ctx) : (c.abandon).roundAt = c.roundAt := by unfold Ctx.abandon; split <;> rfl
@[simp] theorem Ctx.abandon_saveArea (c : Ctx) : (c.abandon).saveArea = c.saveArea := by unfold Ctx.abandon; split <;> rfl
@[simp] theorem Ctx.abandon_unplaced (c : Ctx) : (c.abandon).unplaced = c.unplaced := by unfold Ctx.abandon; split <;> rfl
@[simp] theorem Ctx.abandon_savedEq (c : Ctx) : (c.abandon).savedEq = c.savedEq := by unfold Ctx.abandon; split <;> rfl

/-! `Ctx.stopOn` -/

@[simp] theorem Ctx.stopOn_cid (c : Ctx) (t : Trap) (now : Nat) : (c.stopOn t now).cid = c.cid := rfl
@[simp] theorem Ctx.stopOn_place (c : Ctx) (t : Trap) (now : Nat) : (c.stopOn t now).place = c.place := rfl
@[simp] theorem Ctx.stopOn_slot (c : Ctx) (t : Trap) (now : Nat) : (c.stopOn t now).slot = c.slot := rfl
@[simp] theorem Ctx.stopOn_level (c : Ctx) (t : Trap) (now : Nat) : (c.stopOn t now).level = c.level := rfl
@[simp] theorem Ctx.stopOn_region (c : Ctx) (t : Trap) (now : Nat) : (c.stopOn t now).region = c.region := rfl
@[simp] theorem Ctx.stopOn_asid (c : Ctx) (t : Trap) (now : Nat) : (c.stopOn t now).asid = c.asid := rfl
@[simp] theorem Ctx.stopOn_ended (c : Ctx) (t : Trap) (now : Nat) : (c.stopOn t now).ended = c.ended := rfl
@[simp] theorem Ctx.stopOn_completed (c : Ctx) (t : Trap) (now : Nat) : (c.stopOn t now).completed = c.completed := rfl
@[simp] theorem Ctx.stopOn_regs (c : Ctx) (t : Trap) (now : Nat) : (c.stopOn t now).regs = c.regs := rfl
@[simp] theorem Ctx.stopOn_h (c : Ctx) (t : Trap) (now : Nat) : (c.stopOn t now).h = c.h := rfl
@[simp] theorem Ctx.stopOn_mat (c : Ctx) (t : Trap) (now : Nat) : (c.stopOn t now).mat = c.mat := rfl
@[simp] theorem Ctx.stopOn_mrun (c : Ctx) (t : Trap) (now : Nat) : (c.stopOn t now).mrun = c.mrun := rfl
@[simp] theorem Ctx.stopOn_pc (c : Ctx) (t : Trap) (now : Nat) : (c.stopOn t now).pc = c.pc := rfl
@[simp] theorem Ctx.stopOn_grp (c : Ctx) (t : Trap) (now : Nat) : (c.stopOn t now).grp = c.grp := rfl
@[simp] theorem Ctx.stopOn_openW (c : Ctx) (t : Trap) (now : Nat) : (c.stopOn t now).openW = c.openW := rfl
@[simp] theorem Ctx.stopOn_pend (c : Ctx) (t : Trap) (now : Nat) : (c.stopOn t now).pend = c.pend := rfl
@[simp] theorem Ctx.stopOn_loops (c : Ctx) (t : Trap) (now : Nat) : (c.stopOn t now).loops = c.loops := rfl
@[simp] theorem Ctx.stopOn_mq (c : Ctx) (t : Trap) (now : Nat) : (c.stopOn t now).mq = c.mq := rfl
@[simp] theorem Ctx.stopOn_eq (c : Ctx) (t : Trap) (now : Nat) : (c.stopOn t now).eq = c.eq := rfl
@[simp] theorem Ctx.stopOn_nextOp (c : Ctx) (t : Trap) (now : Nat) : (c.stopOn t now).nextOp = c.nextOp := rfl
@[simp] theorem Ctx.stopOn_mail (c : Ctx) (t : Trap) (now : Nat) : (c.stopOn t now).mail = c.mail := rfl
@[simp] theorem Ctx.stopOn_wait (c : Ctx) (t : Trap) (now : Nat) : (c.stopOn t now).wait = c.wait := rfl
@[simp] theorem Ctx.stopOn_told (c : Ctx) (t : Trap) (now : Nat) : (c.stopOn t now).told = c.told := rfl
@[simp] theorem Ctx.stopOn_sig (c : Ctx) (t : Trap) (now : Nat) : (c.stopOn t now).sig = c.sig := rfl
@[simp] theorem Ctx.stopOn_sigPred (c : Ctx) (t : Trap) (now : Nat) : (c.stopOn t now).sigPred = c.sigPred := rfl
@[simp] theorem Ctx.stopOn_meters (c : Ctx) (t : Trap) (now : Nat) : (c.stopOn t now).meters = c.meters := rfl
@[simp] theorem Ctx.stopOn_meterLatch (c : Ctx) (t : Trap) (now : Nat) : (c.stopOn t now).meterLatch = c.meterLatch := rfl
@[simp] theorem Ctx.stopOn_gang (c : Ctx) (t : Trap) (now : Nat) : (c.stopOn t now).gang = c.gang := rfl
@[simp] theorem Ctx.stopOn_restarts (c : Ctx) (t : Trap) (now : Nat) : (c.stopOn t now).restarts = c.restarts := rfl
@[simp] theorem Ctx.stopOn_since (c : Ctx) (t : Trap) (now : Nat) : (c.stopOn t now).since = c.since := rfl
@[simp] theorem Ctx.stopOn_roundAt (c : Ctx) (t : Trap) (now : Nat) : (c.stopOn t now).roundAt = c.roundAt := rfl
@[simp] theorem Ctx.stopOn_saveArea (c : Ctx) (t : Trap) (now : Nat) : (c.stopOn t now).saveArea = c.saveArea := rfl
@[simp] theorem Ctx.stopOn_unplaced (c : Ctx) (t : Trap) (now : Nat) : (c.stopOn t now).unplaced = c.unplaced := rfl
@[simp] theorem Ctx.stopOn_savedEq (c : Ctx) (t : Trap) (now : Nat) : (c.stopOn t now).savedEq = c.savedEq := rfl

/-! `Ctx.fault'` -/

@[simp] theorem Ctx.fault_cid (c : Ctx) (t : Trap) (now : Nat) : (c.fault' t now).cid = c.cid := by unfold Ctx.fault' Ctx.detach; split <;> exact Ctx.abandon_cid c
@[simp] theorem Ctx.fault_place (c : Ctx) (t : Trap) (now : Nat) : (c.fault' t now).place = c.place := by unfold Ctx.fault' Ctx.detach; split <;> exact Ctx.abandon_place c
@[simp] theorem Ctx.fault_slot (c : Ctx) (t : Trap) (now : Nat) : (c.fault' t now).slot = c.slot := by unfold Ctx.fault' Ctx.detach; split <;> exact Ctx.abandon_slot c
@[simp] theorem Ctx.fault_level (c : Ctx) (t : Trap) (now : Nat) : (c.fault' t now).level = c.level := by unfold Ctx.fault' Ctx.detach; split <;> exact Ctx.abandon_level c
@[simp] theorem Ctx.fault_region (c : Ctx) (t : Trap) (now : Nat) : (c.fault' t now).region = c.region := by unfold Ctx.fault' Ctx.detach; split <;> exact Ctx.abandon_region c
@[simp] theorem Ctx.fault_asid (c : Ctx) (t : Trap) (now : Nat) : (c.fault' t now).asid = c.asid := by unfold Ctx.fault' Ctx.detach; split <;> exact Ctx.abandon_asid c
@[simp] theorem Ctx.fault_ended (c : Ctx) (t : Trap) (now : Nat) : (c.fault' t now).ended = c.ended := by unfold Ctx.fault' Ctx.detach; split <;> exact Ctx.abandon_ended c
@[simp] theorem Ctx.fault_completed (c : Ctx) (t : Trap) (now : Nat) : (c.fault' t now).completed = c.completed := by unfold Ctx.fault' Ctx.detach; split <;> exact Ctx.abandon_completed c
@[simp] theorem Ctx.fault_regs (c : Ctx) (t : Trap) (now : Nat) : (c.fault' t now).regs = c.regs := by unfold Ctx.fault' Ctx.detach; split <;> exact Ctx.abandon_regs c
@[simp] theorem Ctx.fault_h (c : Ctx) (t : Trap) (now : Nat) : (c.fault' t now).h = c.h := by unfold Ctx.fault' Ctx.detach; split <;> exact Ctx.abandon_h c
@[simp] theorem Ctx.fault_mat (c : Ctx) (t : Trap) (now : Nat) : (c.fault' t now).mat = c.mat := by unfold Ctx.fault' Ctx.detach; split <;> exact Ctx.abandon_mat c
@[simp] theorem Ctx.fault_pc (c : Ctx) (t : Trap) (now : Nat) : (c.fault' t now).pc = c.pc := by unfold Ctx.fault' Ctx.detach; split <;> exact Ctx.abandon_pc c
@[simp] theorem Ctx.fault_openW (c : Ctx) (t : Trap) (now : Nat) : (c.fault' t now).openW = c.openW := by unfold Ctx.fault' Ctx.detach; split <;> exact Ctx.abandon_openW c
@[simp] theorem Ctx.fault_pend (c : Ctx) (t : Trap) (now : Nat) : (c.fault' t now).pend = c.pend := by unfold Ctx.fault' Ctx.detach; split <;> exact Ctx.abandon_pend c
@[simp] theorem Ctx.fault_loops (c : Ctx) (t : Trap) (now : Nat) : (c.fault' t now).loops = c.loops := by unfold Ctx.fault' Ctx.detach; split <;> exact Ctx.abandon_loops c
@[simp] theorem Ctx.fault_mq (c : Ctx) (t : Trap) (now : Nat) : (c.fault' t now).mq = c.mq := by unfold Ctx.fault' Ctx.detach; split <;> exact Ctx.abandon_mq c
@[simp] theorem Ctx.fault_eq (c : Ctx) (t : Trap) (now : Nat) : (c.fault' t now).eq = c.eq := by unfold Ctx.fault' Ctx.detach; split <;> exact Ctx.abandon_eq c
@[simp] theorem Ctx.fault_nextOp (c : Ctx) (t : Trap) (now : Nat) : (c.fault' t now).nextOp = c.nextOp := by unfold Ctx.fault' Ctx.detach; split <;> exact Ctx.abandon_nextOp c
@[simp] theorem Ctx.fault_mail (c : Ctx) (t : Trap) (now : Nat) : (c.fault' t now).mail = c.mail := by unfold Ctx.fault' Ctx.detach; split <;> exact Ctx.abandon_mail c
@[simp] theorem Ctx.fault_wait (c : Ctx) (t : Trap) (now : Nat) : (c.fault' t now).wait = c.wait := by unfold Ctx.fault' Ctx.detach; split <;> exact Ctx.abandon_wait c
@[simp] theorem Ctx.fault_told (c : Ctx) (t : Trap) (now : Nat) : (c.fault' t now).told = c.told := by unfold Ctx.fault' Ctx.detach; split <;> exact Ctx.abandon_told c
@[simp] theorem Ctx.fault_meters (c : Ctx) (t : Trap) (now : Nat) : (c.fault' t now).meters = c.meters := by unfold Ctx.fault' Ctx.detach; split <;> exact Ctx.abandon_meters c
@[simp] theorem Ctx.fault_meterLatch (c : Ctx) (t : Trap) (now : Nat) : (c.fault' t now).meterLatch = c.meterLatch := by unfold Ctx.fault' Ctx.detach; split <;> exact Ctx.abandon_meterLatch c
@[simp] theorem Ctx.fault_restarts (c : Ctx) (t : Trap) (now : Nat) : (c.fault' t now).restarts = c.restarts := by unfold Ctx.fault' Ctx.detach; split <;> exact Ctx.abandon_restarts c
@[simp] theorem Ctx.fault_since (c : Ctx) (t : Trap) (now : Nat) : (c.fault' t now).since = c.since := by unfold Ctx.fault' Ctx.detach; split <;> exact Ctx.abandon_since c
@[simp] theorem Ctx.fault_roundAt (c : Ctx) (t : Trap) (now : Nat) : (c.fault' t now).roundAt = c.roundAt := by unfold Ctx.fault' Ctx.detach; split <;> exact Ctx.abandon_roundAt c
@[simp] theorem Ctx.fault_saveArea (c : Ctx) (t : Trap) (now : Nat) : (c.fault' t now).saveArea = c.saveArea := by unfold Ctx.fault' Ctx.detach; split <;> exact Ctx.abandon_saveArea c
@[simp] theorem Ctx.fault_unplaced (c : Ctx) (t : Trap) (now : Nat) : (c.fault' t now).unplaced = c.unplaced := by unfold Ctx.fault' Ctx.detach; split <;> exact Ctx.abandon_unplaced c
@[simp] theorem Ctx.fault_savedEq (c : Ctx) (t : Trap) (now : Nat) : (c.fault' t now).savedEq = c.savedEq := by unfold Ctx.fault' Ctx.detach; split <;> exact Ctx.abandon_savedEq c

end Sys2Proof.Machine
end

