-- ==== Sys2Proof/Laws/Regs.lean ====
section
/-!
SUPPORT. Laws of the register files: hard-wired registers, a read after a write, and what a result of each latency class
does to a context.
-/
namespace Sys2Proof.Machine

/-! ### Reads and writes (R167) -/

@[simp] theorem Regs.rg_zero (R : Regs) : R.rg 0 = 0 := rfl
@[simp] theorem Regs.rm_zero (R : Regs) : R.rm 0 = 0xFFFFFFFF := rfl
@[simp] theorem Regs.wg_zero (R : Regs) (x : Word) : R.wg 0 x = R := rfl
@[simp] theorem Regs.wm_zero (R : Regs) (x : MWord) : R.wm 0 x = R := rfl

theorem get_set_same {α : Type} {n i : Nat} (v : Vector α n) (h : i < n) (x : α) (f : Fin n) (hf : f.val = i) :
    (v.set i x h).get f = x := by
  subst hf
  show (v.set f.val x h)[f.val] = x
  simp
theorem get_set_other {α : Type} {n i : Nat} (v : Vector α n) (h : i < n) (x : α) (f : Fin n) (hf : i ≠ f.val) :
    (v.set i x h).get f = v.get f := by
  show (v.set i x h)[f.val] = v[f.val]
  simp [hf]
theorem toNat_ne {w : Nat} {r q : BitVec w} (h : q ≠ r) : r.toNat ≠ q.toFin.val := fun e => h (BitVec.eq_of_toNat_eq e.symm)

theorem Regs.rg_wg_same (R : Regs) {r : BitVec 6} (h : r ≠ 0) (x : Word) : (R.wg r x).rg r = x := by
  unfold Regs.rg Regs.wg
  rw [if_neg h, if_neg h]
  exact get_set_same _ r.isLt _ _ rfl
theorem Regs.rg_wg_other (R : Regs) {r q : BitVec 6} (h : q ≠ r) (x : Word) : (R.wg r x).rg q = R.rg q := by
  unfold Regs.rg Regs.wg
  split
  · rfl
  · split
    · rfl
    · exact get_set_other _ r.isLt _ _ (toNat_ne h)
theorem Regs.rv_wv_same (R : Regs) (r : BitVec 5) (x : VWord) : (R.wv r x).rv r = x := get_set_same _ r.isLt _ _ rfl
theorem Regs.rv_wv_other (R : Regs) {r q : BitVec 5} (h : q ≠ r) (x : VWord) : (R.wv r x).rv q = R.rv q :=
  get_set_other _ r.isLt _ _ (toNat_ne h)
theorem Regs.rm_wm_same (R : Regs) {r : BitVec 3} (h : r ≠ 0) (x : MWord) : (R.wm r x).rm r = x := by
  unfold Regs.rm Regs.wm
  rw [if_neg h, if_neg h]
  exact get_set_same _ r.isLt _ _ rfl
theorem Regs.rm_wm_other (R : Regs) {r q : BitVec 3} (h : q ≠ r) (x : MWord) : (R.wm r x).rm q = R.rm q := by
  unfold Regs.rm Regs.wm
  split
  · rfl
  · split
    · rfl
    · exact get_set_other _ r.isLt _ _ (toNat_ne h)

@[simp] theorem Regs.rv_wg (R : Regs) (r : BitVec 6) (x : Word) (q : BitVec 5) : (R.wg r x).rv q = R.rv q := by
  unfold Regs.wg; split <;> rfl
@[simp] theorem Regs.rm_wg (R : Regs) (r : BitVec 6) (x : Word) (q : BitVec 3) : (R.wg r x).rm q = R.rm q := by
  unfold Regs.wg; split <;> rfl
@[simp] theorem Regs.rg_wv (R : Regs) (r : BitVec 5) (x : VWord) (q : BitVec 6) : (R.wv r x).rg q = R.rg q := rfl
@[simp] theorem Regs.rm_wv (R : Regs) (r : BitVec 5) (x : VWord) (q : BitVec 3) : (R.wv r x).rm q = R.rm q := rfl
@[simp] theorem Regs.rg_wm (R : Regs) (r : BitVec 3) (x : MWord) (q : BitVec 6) : (R.wm r x).rg q = R.rg q := by
  unfold Regs.wm; split <;> rfl
@[simp] theorem Regs.rv_wm (R : Regs) (r : BitVec 3) (x : MWord) (q : BitVec 5) : (R.wm r x).rv q = R.rv q := by
  unfold Regs.wm; split <;> rfl

/-! ### Specifiers -/

theorem specG_lt (r : BitVec 6) : specG r < 0x40 := by revert r; decide
theorem specG_reg (r : BitVec 6) : (specG r).extractLsb' 0 6 = r := by revert r; decide
theorem specV_range (r : BitVec 5) : ¬ specV r < 0x40 ∧ specV r < 0x60 := by revert r; decide
theorem specV_reg (r : BitVec 5) : (specV r).extractLsb' 0 5 = r := by revert r; decide
theorem specM_range (r : BitVec 3) : ¬ specM r < 0x40 ∧ ¬ specM r < 0x60 ∧ specM r < 0x68 := by revert r; decide
theorem specM_reg (r : BitVec 3) : (specM r).extractLsb' 0 3 = r := by revert r; decide
theorem specG_zero {r : BitVec 6} : (specG r = 0 ∨ specG r = 0x60) ↔ r = 0 := by revert r; decide
theorem specV_zero (r : BitVec 5) : ¬ (specV r = 0 ∨ specV r = 0x60) := by revert r; decide
theorem specM_zero {r : BitVec 3} : (specM r = 0 ∨ specM r = 0x60) ↔ r = 0 := by revert r; decide

@[simp] theorem Regs.at_specG (R : Regs) (r : BitVec 6) : R.at (specG r) = (R.rg r).zeroExtend 256 := by
  simp only [Regs.at, specG_lt, specG_reg, if_true]
@[simp] theorem Regs.at_specV (R : Regs) (r : BitVec 5) : R.at (specV r) = R.rv r := by
  simp only [Regs.at, (specV_range r).1, (specV_range r).2, specV_reg, if_true, if_false]
@[simp] theorem Regs.at_specM (R : Regs) (r : BitVec 3) : R.at (specM r) = (R.rm r).zeroExtend 256 := by
  simp only [Regs.at, (specM_range r).1, (specM_range r).2.1, (specM_range r).2.2, specM_reg, if_true, if_false]

theorem low_ne {n : Nat} {q p : BitVec 8} (h : p ≠ q) (hn : p.toNat / 2 ^ n = q.toNat / 2 ^ n) :
    p.extractLsb' 0 n ≠ q.extractLsb' 0 n := by
  intro e
  have e' := congrArg BitVec.toNat e
  simp only [BitVec.extractLsb'_toNat, Nat.shiftRight_zero] at e'
  apply h
  apply BitVec.eq_of_toNat_eq
  rw [← Nat.div_add_mod p.toNat (2 ^ n), ← Nat.div_add_mod q.toNat (2 ^ n), hn, e']

/-- A write by specifier changes no other register. -/
theorem Regs.at_wspec_other (R : Regs) {q p : BitVec 8} (h : p ≠ q) (x : VWord) : (R.wspec q x).at p = R.at p := by
  unfold Regs.wspec Regs.at
  by_cases p1 : p < 0x40 <;> by_cases p2 : p < 0x60 <;> by_cases p3 : p < 0x68 <;>
    by_cases q1 : q < 0x40 <;> by_cases q2 : q < 0x60 <;> by_cases q3 : q < 0x68 <;>
    simp only [p1, p2, p3, q1, q2, q3, if_true, if_false, Regs.rv_wg, Regs.rm_wg, Regs.rg_wv, Regs.rm_wv, Regs.rg_wm,
      Regs.rv_wm]
  all_goals first
    | (rw [Regs.rg_wg_other]; exact low_ne h (by simp only [BitVec.lt_def] at p1 q1; simp at p1 q1; omega))
    | (rw [Regs.rv_wv_other]; exact low_ne h (by simp only [BitVec.lt_def] at *; simp at *; omega))
    | (rw [Regs.rm_wm_other]; exact low_ne h (by simp only [BitVec.lt_def] at *; simp at *; omega))

/-! ### Results (R179, R180) -/

theorem Ctx.result_lands_short (c : Ctx) {q : BitVec 8} {lat : Nat} (hl : lat ≤ 1) (x : VWord)
    (hx : ¬(q = 0 ∨ q = 0x60) → (c.regs.wspec q x).at q = x) : lands c (c.result q lat x) q lat x := by
  unfold Ctx.result lands
  by_cases hq : q = 0 ∨ q = 0x60
  · have : (q = 0 || q = 0x60) = true := by simpa using hq
    simp only [this, if_true, hq]
    simp
  · have : (q = 0 || q = 0x60) = false := by simpa using hq
    simp only [this, hq, hl, if_true, if_false, Bool.false_eq_true]
    refine ⟨fun p hp => Regs.at_wspec_other _ hp _, fun w hw => by simp [hw], hx hq, fun w hw => ?_⟩
    simpa using (List.mem_filter.1 hw).2

theorem Ctx.result_lands_long (c : Ctx) {q : BitVec 8} {lat : Nat} (hl : ¬ lat ≤ 1) (x : VWord) :
    lands c (c.result q lat x) q lat x := by
  unfold Ctx.result lands
  by_cases hq : q = 0 ∨ q = 0x60
  · have : (q = 0 || q = 0x60) = true := by simpa using hq
    simp only [this, if_true, hq]
    simp
  · have : (q = 0 || q = 0x60) = false := by simpa using hq
    simp only [this, hq, hl, if_false, Bool.false_eq_true]
    refine ⟨fun p _ => trivial, fun w hw => ?_, trivial, by simp⟩
    have : ∀ y : OpenWrite, y.spec = q → w ≠ y := fun y hy e => hw (e ▸ hy)
    simp [hw, this]

theorem Ctx.resG_lands (c : Ctx) (r : BitVec 6) (lat : Nat) (x : Word) :
    lands c (c.resG r lat x) (specG r) lat (x.zeroExtend 256) := by
  by_cases hl : lat ≤ 1
  · refine Ctx.result_lands_short c hl _ fun h => ?_
    have hr : r ≠ 0 := fun e => h (specG_zero.2 e)
    have e : (BitVec.zeroExtend 256 x).extractLsb' 0 64 = x := by
      apply BitVec.eq_of_toNat_eq
      simp [BitVec.toNat_setWidth]
      omega
    unfold Regs.wspec
    rw [if_pos (specG_lt r), specG_reg, Regs.at_specG, e, Regs.rg_wg_same _ hr]
  · exact Ctx.result_lands_long c hl _

theorem Ctx.resV_lands (c : Ctx) (r : BitVec 5) (lat : Nat) (x : VWord) : lands c (c.resV r lat x) (specV r) lat x := by
  by_cases hl : lat ≤ 1
  · refine Ctx.result_lands_short c hl _ fun _ => ?_
    unfold Regs.wspec
    rw [if_neg (specV_range r).1, if_pos (specV_range r).2, specV_reg, Regs.at_specV, Regs.rv_wv_same]
  · exact Ctx.result_lands_long c hl _

theorem Ctx.resM_lands (c : Ctx) (r : BitVec 3) (lat : Nat) (x : MWord) :
    lands c (c.resM r lat x) (specM r) lat (x.zeroExtend 256) := by
  by_cases hl : lat ≤ 1
  · refine Ctx.result_lands_short c hl _ fun h => ?_
    have hr : r ≠ 0 := fun e => h (specM_zero.2 e)
    have e : (BitVec.zeroExtend 256 x).extractLsb' 0 32 = x := by
      apply BitVec.eq_of_toNat_eq
      simp [BitVec.toNat_setWidth]
      omega
    unfold Regs.wspec
    rw [if_neg (specM_range r).1, if_neg (specM_range r).2.1, if_pos (specM_range r).2.2, specM_reg, Regs.at_specM, e,
      Regs.rm_wm_same _ hr]
  · exact Ctx.result_lands_long c hl _

end Sys2Proof.Machine
end

