-- ==== Sys2Proof/Laws/Ops.lean ====
section
/-!
SUPPORT. What the shared operations can do: retiring, forms that are whole, lane forms, floating forms, transfers, faults.
-/
namespace Sys2Proof.Machine

/-! ### Retiring -/

/-- Retiring changes the program counter, the group and the loop stack only. -/
theorem Ctx.retire_parts (c : Ctx) :
    c.retire = { c with pc := c.retire.pc, grp := c.retire.grp, loops := c.retire.loops } :=
  match c with
  | { grp := none, .. } => rfl
  | { grp := some ⟨_, _, [], _, _, _, _, _⟩, .. } => rfl
  | { grp := some ⟨_, _, [_], _, _, _, _, _⟩, .. } => rfl
  | { grp := some ⟨_, _, _ :: _ :: _, _, _, _, _, _⟩, .. } => rfl

/-- Retiring does not look at registers, windows or state registers. -/
theorem Ctx.retire_with (c : Ctx) (R : Regs) (W : List OpenWrite) (S : SrBank) :
    ({ c with regs := R, openW := W, sr := S } : Ctx).retire =
      { c with regs := R, openW := W, sr := S, pc := c.retire.pc, grp := c.retire.grp, loops := c.retire.loops } :=
  match c with
  | { grp := none, .. } => rfl
  | { grp := some ⟨_, _, [], _, _, _, _, _⟩, .. } => rfl
  | { grp := some ⟨_, _, [_], _, _, _, _, _⟩, .. } => rfl
  | { grp := some ⟨_, _, _ :: _ :: _, _, _, _, _, _⟩, .. } => rfl

theorem memoryKept_refl (s : State) : memoryKept s s := fun _ => rfl
theorem memoryKept_th (s : State) (f : Ctx → Ctx) : memoryKept s (s.mapTh f) := fun _ => rfl

theorem onlyRegs_mapTh {s : State} {R : Regs} {W : List OpenWrite} :
    onlyRegs s (s.mapTh fun c => ({ c with regs := R, openW := W } : Ctx).retire) := by
  have e := Ctx.retire_with s.th R W s.th.sr
  refine ⟨rfl, fun _ => rfl, ⟨?_, ?_, ?_⟩, ?_⟩
  · exact (congrArg Ctx.pc e :)
  · exact (congrArg Ctx.grp e :)
  · exact (congrArg Ctx.loops e :)
  · simp only [State.mapTh]
    rw [show ({ s.th with regs := R, openW := W } : Ctx) = { s.th with regs := R, openW := W, sr := s.th.sr } from rfl, e]

theorem onlyRegs_retire (s : State) : onlyRegs s s.retire := by
  have := @onlyRegs_mapTh s s.th.regs s.th.openW
  exact this

theorem lands_retire {c d : Ctx} {q : BitVec 8} {lat : Nat} {x : VWord} (h : lands c d q lat x) : lands c d.retire q lat x := by
  have e1 : d.retire.regs = d.regs := by simp
  have e2 : d.retire.openW = d.openW := by simp
  unfold lands at *
  rw [e1, e2]
  exact h

/-! ### Whole forms and lane forms -/

/-- A whole form whose predicate passes: its result lands and nothing but registers changes. -/
theorem whole_lands {h : Hdr} {f : Ctx → Ctx} {s : State} {q : BitVec 8} {lat : Nat} {x : VWord}
    (hp : predOn h s.th.regs = true) (hf : f s.th = { s.th with regs := (f s.th).regs, openW := (f s.th).openW })
    (hl : lands s.th (f s.th) q lat x) :
    goesTo (whole h f s) fun t => onlyRegs s t ∧ lands s.th t.th q lat x := by
  refine ⟨_, rfl, ?_, ?_⟩
  · have : (s.mapTh fun c => (if predOn h c.regs then f c else c).retire) =
        s.mapTh fun c => ({ c with regs := (f s.th).regs, openW := (f s.th).openW } : Ctx).retire := by
      simp only [State.mapTh, hp, if_true]
      rw [← hf]
    rw [this]
    exact onlyRegs_mapTh
  · show lands s.th ((if predOn h s.th.regs then f s.th else s.th).retire) q lat x
    rw [if_pos hp]
    exact lands_retire hl

/-- A whole form whose predicate fails only goes on (R174). -/
theorem whole_off {h : Hdr} {f : Ctx → Ctx} {s : State} (hp : predOn h s.th.regs = false) : whole h f s = .next s.retire := by
  simp [whole, State.retire, State.mapTh, hp]

theorem lanewise_lands {f : Ctx → Ctx} {s : State} {q : BitVec 8} {lat : Nat} {x : VWord}
    (hf : f s.th = { s.th with regs := (f s.th).regs, openW := (f s.th).openW }) (hl : lands s.th (f s.th) q lat x) :
    goesTo (lanewise f s) fun t => onlyRegs s t ∧ lands s.th t.th q lat x := by
  refine ⟨_, rfl, ?_, lands_retire hl⟩
  have : (s.mapTh fun c => (f c).retire) =
      s.mapTh fun c => ({ c with regs := (f s.th).regs, openW := (f s.th).openW } : Ctx).retire := by
    simp only [State.mapTh]
    rw [← hf]
  rw [this]
  exact onlyRegs_mapTh

theorem Ctx.result_only (c : Ctx) (q : BitVec 8) (lat : Nat) (x : VWord) :
    c.result q lat x = { c with regs := (c.result q lat x).regs, openW := (c.result q lat x).openW } := by
  unfold Ctx.result
  split
  · rfl
  · split <;> rfl

theorem whole_resG {h : Hdr} {s : State} {d : BitVec 6} {lat : Nat} {f : Ctx → Word} (hp : predOn h s.th.regs = true) :
    goesTo (whole h (fun c => c.resG d lat (f c)) s) fun t =>
      onlyRegs s t ∧ lands s.th t.th (specG d) lat ((f s.th).zeroExtend 256) :=
  whole_lands hp (Ctx.result_only _ _ _ _) (Ctx.resG_lands _ _ _ _)

theorem whole_resM {h : Hdr} {s : State} {d : BitVec 3} {lat : Nat} {f : Ctx → MWord} (hp : predOn h s.th.regs = true) :
    goesTo (whole h (fun c => c.resM d lat (f c)) s) fun t =>
      onlyRegs s t ∧ lands s.th t.th (specM d) lat ((f s.th).zeroExtend 256) :=
  whole_lands hp (Ctx.result_only _ _ _ _) (Ctx.resM_lands _ _ _ _)

theorem whole_resV {h : Hdr} {s : State} {d : BitVec 5} {lat : Nat} {f : Ctx → VWord} (hp : predOn h s.th.regs = true) :
    goesTo (whole h (fun c => c.resV d lat (f c)) s) fun t => onlyRegs s t ∧ lands s.th t.th (specV d) lat (f s.th) :=
  whole_lands hp (Ctx.result_only _ _ _ _) (Ctx.resV_lands _ _ _ _)

/-- A lane form: its result, lane by lane. -/
theorem vlanes_lands {h : Hdr} {t : Ty} {d : BitVec 5} {lat : Nat} {f : Ctx → List Nat} {s : State}
    (hf : ∀ x ∈ f s.th, x < 2 ^ t.bits) :
    goesTo (vlanes h t d lat f s) fun u => onlyRegs s u ∧ ∃ x, lands s.th u.th (specV d) lat x ∧
      ∀ j < t.lanes, laneOf t.bits x j =
        if laneActive t.bytes (predMask h s.th.regs) j then (f s.th).getD j 0 else laneOf t.bits (s.th.regs.rv d) j := by
  obtain ⟨u, hu, ho, hl⟩ := lanewise_lands (f := fun c => c.resV d lat (c.mergeV (predMask h c.regs) t d (f c))) (s := s)
    (Ctx.result_only _ _ _ _) (Ctx.resV_lands _ _ _ _)
  refine ⟨u, hu, ho, _, hl, fun j hj => ?_⟩
  have hj' : j < 256 / t.bits := by rw [Ty.lanes_eq]; exact hj
  unfold Ctx.mergeV
  rw [laneOf_mergeLanes _ _ _ hj', Ty.bits_div, laneOf_ofLanes _ (lane_fits hj')]
  congr 1
  apply Nat.mod_eq_of_lt
  rw [List.getD_eq_getElem?_getD]
  cases hx : (f s.th)[j]? with
  | none => exact Nat.two_pow_pos _
  | some y => exact hf y (List.mem_of_getElem? hx)

/-! ### Floating forms -/

/-- With no trap enabled, a floating form raises its flags, and its result follows (R121, R123). -/
theorem fpFinish_quiet {s : State} {fs : List FFlags} {after : Ctx → Ctx} (he : fpEnables s.th.sr = 0) :
    fpFinish s fs after = .next { s with th := (after { s.th with sr := s.th.sr.raise (orFlags fs) }).retire } := by
  simp [fpFinish, SrBank.fpDone, he]

/-! ### Transfers and faults -/

theorem transfer_ok {s : State} {t : Word} {f : Ctx → Ctx} (h : s.targetOk s.th t = true) :
    transfer s t f = .next (s.mapTh fun c => (f c).jump t) := by simp [transfer, h]

theorem transfer_bad {s : State} {t : Word} {f : Ctx → Ctx} (h : s.targetOk s.th t = false) :
    transfer s t f = faultOut s ⟨cTarget, 0, t⟩ := by simp [transfer, h]

theorem onPred_on {h : Hdr} {f : State → Out} {s : State} (hp : predOn h s.th.regs = true) : onPred h f s = f s := by
  simp [onPred, hp]
theorem onPred_off {h : Hdr} {f : State → Out} {s : State} (hp : predOn h s.th.regs = false) : onPred h f s = .next s.retire := by
  simp [onPred, hp]

end Sys2Proof.Machine
end

