-- ==== Sys2Proof/Laws/PerInstr.lean ====
section
/-!
SUPPORT. Statements about every instruction, one lemma for each constructor: the instructions have an encoding, and the
steps that the opcode table lists without one (rows 297 to 371) have none.
-/
namespace Sys2Proof.Laws.Encoding

/-- The rows of the opcode table without an encoding are the steps that no program names. -/
def isStep : Instr → Bool
  | .nop _ => false
  | .add _ _ => false
  | .sub _ _ => false
  | .neg _ _ => false
  | .abs _ _ => false
  | .adds _ _ => false
  | .subs _ _ => false
  | .add3 _ _ => false
  | .and _ _ => false
  | .or _ _ => false
  | .xor _ _ => false
  | .andn _ _ => false
  | .orn _ _ => false
  | .xnor _ _ => false
  | .not _ _ => false
  | .shl _ _ => false
  | .shr _ _ => false
  | .sar _ _ => false
  | .rol _ _ => false
  | .ror _ _ => false
  | .mul _ _ => false
  | .mulh _ _ => false
  | .mad _ _ => false
  | .div _ _ => false
  | .rem _ _ => false
  | .ceq _ _ => false
  | .cne _ _ => false
  | .clt _ _ => false
  | .cle _ _ => false
  | .cgt _ _ => false
  | .cge _ _ => false
  | .ctst _ _ => false
  | .ctstz _ _ => false
  | .sel _ _ => false
  | .selz _ _ => false
  | .popc _ _ => false
  | .clz _ _ => false
  | .ctz _ _ => false
  | .brev _ _ => false
  | .bswap _ _ => false
  | .bext _ _ => false
  | .bins _ _ => false
  | .min _ _ => false
  | .max _ _ => false
  | .clamp _ _ => false
  | .lea _ _ => false
  | .lcell _ _ => false
  | .lslice _ _ => false
  | .addImm _ _ => false
  | .subImm _ _ => false
  | .addsImm _ _ => false
  | .subsImm _ _ => false
  | .rsub _ _ => false
  | .andImm _ _ => false
  | .orImm _ _ => false
  | .xorImm _ _ => false
  | .andnImm _ _ => false
  | .ornImm _ _ => false
  | .xnorImm _ _ => false
  | .shlImm _ _ => false
  | .shrImm _ _ => false
  | .sarImm _ _ => false
  | .rolImm _ _ => false
  | .rorImm _ _ => false
  | .ceqImm _ _ => false
  | .cneImm _ _ => false
  | .cltImm _ _ => false
  | .cleImm _ _ => false
  | .cgtImm _ _ => false
  | .cgeImm _ _ => false
  | .ctstImm _ _ => false
  | .ctstzImm _ _ => false
  | .movi _ _ => false
  | .movzi _ _ => false
  | .movhi _ _ => false
  | .leai _ _ => false
  | .leapc _ _ => false
  | .br _ _ => false
  | .bz _ _ => false
  | .bnz _ _ => false
  | .blz _ _ => false
  | .bgez _ _ => false
  | .jr _ _ => false
  | .call _ _ => false
  | .callr _ _ => false
  | .ret _ => false
  | .loop _ _ => false
  | .lbrk _ => false
  | .gdet _ => false
  | .gjoin _ => false
  | .srrd _ _ => false
  | .srwr _ _ => false
  | .srwri _ _ => false
  | .trap _ _ => false
  | .halt _ => false
  | .vaddInt _ _ => false
  | .vsubInt _ _ => false
  | .vnegInt _ _ => false
  | .vabsInt _ _ => false
  | .vadds _ _ => false
  | .vsubs _ _ => false
  | .vmulInt _ _ => false
  | .vmulh _ _ => false
  | .vmad _ _ => false
  | .vminInt _ _ => false
  | .vmaxInt _ _ => false
  | .vand _ _ => false
  | .vor _ _ => false
  | .vxor _ _ => false
  | .vandn _ _ => false
  | .vnot _ _ => false
  | .vshl _ _ => false
  | .vshr _ _ => false
  | .vsar _ _ => false
  | .vceq _ _ => false
  | .vcne _ _ => false
  | .vclt _ _ => false
  | .vcle _ _ => false
  | .vcgt _ _ => false
  | .vcge _ _ => false
  | .vsel _ _ => false
  | .mand _ _ => false
  | .mor _ _ => false
  | .mxor _ _ => false
  | .mandn _ _ => false
  | .mnot _ _ => false
  | .mpopc _ _ => false
  | .mfirst _ _ => false
  | .mfromg _ _ => false
  | .mtog _ _ => false
  | .vbcsti _ _ => false
  | .vbcst _ _ => false
  | .vaddFp _ _ => false
  | .vsubFp _ _ => false
  | .vmulFp _ _ => false
  | .vminFp _ _ => false
  | .vmaxFp _ _ => false
  | .vabsFp _ _ => false
  | .vnegFp _ _ => false
  | .vfma _ _ => false
  | .vfms _ _ => false
  | .vfnma _ _ => false
  | .vfnms _ _ => false
  | .vdiv _ _ => false
  | .vsqrt _ _ => false
  | .vexp _ _ => false
  | .vlog _ _ => false
  | .vexp2 _ _ => false
  | .vlog2 _ _ => false
  | .vtanh _ _ => false
  | .vrcpe _ _ => false
  | .vrsqrte _ _ => false
  | .vexpe _ _ => false
  | .vloge _ _ => false
  | .vtanhe _ _ => false
  | .vsigme _ _ => false
  | .vcvt _ _ => false
  | .vbfpx _ _ => false
  | .vbfpe _ _ => false
  | .vbfpeHi _ _ => false
  | .vbfpd _ _ => false
  | .vperm _ _ => false
  | .vperm2 _ _ => false
  | .vslide _ _ => false
  | .vzipl _ _ => false
  | .vziph _ _ => false
  | .vuzpe _ _ => false
  | .vuzpo _ _ => false
  | .vrsum _ _ => false
  | .vrmin _ _ => false
  | .vrmax _ _ => false
  | .vrand _ _ => false
  | .vror _ _ => false
  | .rng _ _ => false
  | .vrng _ _ => false
  | .vins _ _ => false
  | .vext _ _ => false
  | .vmov _ _ => false
  | .fadd _ _ => false
  | .fsub _ _ => false
  | .fmul _ _ => false
  | .fmin _ _ => false
  | .fmax _ _ => false
  | .fabs _ _ => false
  | .fneg _ _ => false
  | .ffma _ _ => false
  | .ffms _ _ => false
  | .ffnma _ _ => false
  | .ffnms _ _ => false
  | .fdiv _ _ => false
  | .fsqrt _ _ => false
  | .fexp _ _ => false
  | .flog _ _ => false
  | .fexp2 _ _ => false
  | .flog2 _ _ => false
  | .fceq _ _ => false
  | .fcne _ _ => false
  | .fclt _ _ => false
  | .fcle _ _ => false
  | .fcgt _ _ => false
  | .fcge _ _ => false
  | .fcvt _ _ => false
  | .mzero _ _ => false
  | .mrdrow _ _ => false
  | .mwrrow _ _ => false
  | .mmov _ _ => false
  | .masel _ _ => false
  | .masx _ _ => false
  | .mbsel _ _ => false
  | .mma _ _ => false
  | .mdrain _ _ => false
  | .ld _ _ => false
  | .ldv _ _ => false
  | .ldvb _ _ => false
  | .st _ _ => false
  | .stv _ _ => false
  | .ldf _ _ => false
  | .ldfh _ _ => false
  | .ldfv _ _ => false
  | .ldr _ _ => false
  | .ldrv _ _ => false
  | .ldrx _ _ => false
  | .ldAcq _ _ => false
  | .stRel _ _ => false
  | .sts _ _ => false
  | .stsv _ _ => false
  | .vgather _ _ => false
  | .vscatter _ _ => false
  | .pft _ _ => false
  | .pfh _ _ => false
  | .amoSwap _ _ => false
  | .amoAdd _ _ => false
  | .amoAnd _ _ => false
  | .amoOr _ _ => false
  | .amoXor _ _ => false
  | .amoMin _ _ => false
  | .amoMax _ _ => false
  | .cas _ _ => false
  | .redAdd _ _ => false
  | .redAnd _ _ => false
  | .redOr _ _ => false
  | .redXor _ _ => false
  | .redMin _ _ => false
  | .redMax _ _ => false
  | .amo2Swap _ _ => false
  | .amo2Add _ _ => false
  | .amo2And _ _ => false
  | .amo2Or _ _ => false
  | .amo2Xor _ _ => false
  | .dcas _ _ => false
  | .amove _ _ => false
  | .fenceAcq _ => false
  | .fenceRel _ _ => false
  | .fenceFull _ _ => false
  | .waitaddr _ _ => false
  | .evsig _ _ => false
  | .evwait _ _ => false
  | .send _ _ => false
  | .sendv _ _ => false
  | .sendRel _ _ => false
  | .recv _ _ => false
  | .recvv _ _ => false
  | .recvAny _ _ => false
  | .recvvAny _ _ => false
  | .sstep _ => false
  | .bar _ _ => false
  | .fprobe _ _ => false
  | .fork _ _ => false
  | .rdv _ _ => false
  | .hwait _ _ => false
  | .hdet _ _ => false
  | .htest _ _ => false
  | .hpass _ _ => false
  | .hcancel _ _ => false
  | .cpy _ _ => false
  | .cpyf _ _ => false
  | .cpyb _ _ => false
  | .qfence _ _ => false
  | .coll _ _ => false
  | .contend _ _ => false
  | .afclaim _ _ => false
  | .afcal _ _ => false
  | .afcfg _ _ => false
  | .afscale _ _ => false
  | .afrun _ _ => false
  | .afsettle _ _ => false
  | .afsample _ _ => false
  | .afstop _ _ => false
  | .afrel _ _ => false
  | .ctxsave _ _ => false
  | .ctxload _ _ => false
  | .mint _ _ => false
  | .fret _ _ => false
  | .tlbwr _ _ => false
  | .tlbinv _ _ => false
  | .snap _ _ => false
  | .mseal _ _ => false
  | .evIssue _ => true
  | .evArrival _ _ => true
  | .evPerform _ => true
  | .evApply _ => true
  | .evPairSecondHome _ => true
  | .evReplyDelivery _ => true
  | .evWcbFlush _ _ => true
  | .evEngineEntryBegin _ _ => true
  | .evHandleResolve _ _ => true
  | .evWakeDelivery _ => true
  | .evWaitTimeout _ => true
  | .evHostInboundWrite _ _ _ => true
  | .evHostInboundRead _ _ _ => true
  | .evHostFlushRead _ _ => true
  | .evMailboxDeliver _ _ => true
  | .evContextTimeslice _ => true
  | .evMintArrival _ => true
  | .evFaultRecordPost _ => true
  | .evFqtailWrite _ _ _ => true
  | .evFaultDomainEnd _ => true
  | .evFpWindowClose _ => true
  | .evCellComplete _ => true
  | .evChildLaunch _ _ => true
  | .evLaunchSelect _ _ => true
  | .evExchangeTransfer _ => true
  | .evRoundTimerExpiry _ => true
  | .evRoundMarkerArrival _ _ => true
  | .evTokenPass _ => true
  | .evContendRegister _ => true
  | .evWaggleContest _ => true
  | .evContestResult _ => true
  | .evSequencerBind _ => true
  | .evBindingReceive _ _ => true
  | .evCollectiveStart _ _ => true
  | .evContributionArrival _ _ => true
  | .evTgTimeout _ => true
  | .evCancelRecord _ _ => true
  | .evSwitchFailure _ _ => true
  | .evSequencerHeartbeat => true
  | .evSequencerFailover _ => true
  | .evRegistrationRetry _ => true
  | .evAfcalComplete _ => true
  | .evFabricSaturation _ _ => true
  | .evFabricSettleDone _ => true
  | .evFabricSettleTimeout _ => true
  | .evQueueDoorbell _ _ => true
  | .evQueueLaunch _ => true
  | .evQueueFence _ => true
  | .evQueueFenceComplete _ => true
  | .evQueueCancel _ => true
  | .evRegisterWrite _ _ => true
  | .evLinkRetry _ => true
  | .evLinkFail _ => true
  | .evLinkRateChange _ _ _ => true
  | .evBudgetInterval _ => true
  | .evFrequencyStep _ _ => true
  | .evRelockRestart _ => true
  | .evSnapshotTrigger => true
  | .evMeterList => true
  | .evMeterRead _ => true
  | .evGetVersion => true
  | .evGetCapabilities => true
  | .evNegotiateAlgorithms _ _ => true
  | .evGetDigests => true
  | .evGetCertificate _ => true
  | .evChallenge _ => true
  | .evGetMeasurements _ => true
  | .evPackageReset _ => true
  | .evPatrolScrub _ _ _ => true
  | .evCellError _ => true
  | .evQueueEnable _ _ _ => true
  | .evGroupCreate _ => true
  | .evStandbyReplacement _ => true
  | .evExportRevocation _ _ => true
  | .evSnapshotRelease => true

/-- An instruction has an encoding unless it is one of those steps. -/
def Statement (i : Instr) : Prop := (encode i).isNone = isStep i

theorem nop : ∀ a, Statement (.nop a) := fun _ => rfl
theorem add : ∀ a b, Statement (.add a b) := fun _ _ => rfl
theorem sub : ∀ a b, Statement (.sub a b) := fun _ _ => rfl
theorem neg : ∀ a b, Statement (.neg a b) := fun _ _ => rfl
theorem abs : ∀ a b, Statement (.abs a b) := fun _ _ => rfl
theorem adds : ∀ a b, Statement (.adds a b) := fun _ _ => rfl
theorem subs : ∀ a b, Statement (.subs a b) := fun _ _ => rfl
theorem add3 : ∀ a b, Statement (.add3 a b) := fun _ _ => rfl
theorem and : ∀ a b, Statement (.and a b) := fun _ _ => rfl
theorem or : ∀ a b, Statement (.or a b) := fun _ _ => rfl
theorem xor : ∀ a b, Statement (.xor a b) := fun _ _ => rfl
theorem andn : ∀ a b, Statement (.andn a b) := fun _ _ => rfl
theorem orn : ∀ a b, Statement (.orn a b) := fun _ _ => rfl
theorem xnor : ∀ a b, Statement (.xnor a b) := fun _ _ => rfl
theorem not : ∀ a b, Statement (.not a b) := fun _ _ => rfl
theorem shl : ∀ a b, Statement (.shl a b) := fun _ _ => rfl
theorem shr : ∀ a b, Statement (.shr a b) := fun _ _ => rfl
theorem sar : ∀ a b, Statement (.sar a b) := fun _ _ => rfl
theorem rol : ∀ a b, Statement (.rol a b) := fun _ _ => rfl
theorem ror : ∀ a b, Statement (.ror a b) := fun _ _ => rfl
theorem mul : ∀ a b, Statement (.mul a b) := fun _ _ => rfl
theorem mulh : ∀ a b, Statement (.mulh a b) := fun _ _ => rfl
theorem mad : ∀ a b, Statement (.mad a b) := fun _ _ => rfl
theorem div : ∀ a b, Statement (.div a b) := fun _ _ => rfl
theorem rem : ∀ a b, Statement (.rem a b) := fun _ _ => rfl
theorem ceq : ∀ a b, Statement (.ceq a b) := fun _ _ => rfl
theorem cne : ∀ a b, Statement (.cne a b) := fun _ _ => rfl
theorem clt : ∀ a b, Statement (.clt a b) := fun _ _ => rfl
theorem cle : ∀ a b, Statement (.cle a b) := fun _ _ => rfl
theorem cgt : ∀ a b, Statement (.cgt a b) := fun _ _ => rfl
theorem cge : ∀ a b, Statement (.cge a b) := fun _ _ => rfl
theorem ctst : ∀ a b, Statement (.ctst a b) := fun _ _ => rfl
theorem ctstz : ∀ a b, Statement (.ctstz a b) := fun _ _ => rfl
theorem sel : ∀ a b, Statement (.sel a b) := fun _ _ => rfl
theorem selz : ∀ a b, Statement (.selz a b) := fun _ _ => rfl
theorem popc : ∀ a b, Statement (.popc a b) := fun _ _ => rfl
theorem clz : ∀ a b, Statement (.clz a b) := fun _ _ => rfl
theorem ctz : ∀ a b, Statement (.ctz a b) := fun _ _ => rfl
theorem brev : ∀ a b, Statement (.brev a b) := fun _ _ => rfl
theorem bswap : ∀ a b, Statement (.bswap a b) := fun _ _ => rfl
theorem bext : ∀ a b, Statement (.bext a b) := fun _ _ => rfl
theorem bins : ∀ a b, Statement (.bins a b) := fun _ _ => rfl
theorem min : ∀ a b, Statement (.min a b) := fun _ _ => rfl
theorem max : ∀ a b, Statement (.max a b) := fun _ _ => rfl
theorem clamp : ∀ a b, Statement (.clamp a b) := fun _ _ => rfl
theorem lea : ∀ a b, Statement (.lea a b) := fun _ _ => rfl
theorem lcell : ∀ a b, Statement (.lcell a b) := fun _ _ => rfl
theorem lslice : ∀ a b, Statement (.lslice a b) := fun _ _ => rfl
theorem addImm : ∀ a b, Statement (.addImm a b) := fun _ _ => rfl
theorem subImm : ∀ a b, Statement (.subImm a b) := fun _ _ => rfl
theorem addsImm : ∀ a b, Statement (.addsImm a b) := fun _ _ => rfl
theorem subsImm : ∀ a b, Statement (.subsImm a b) := fun _ _ => rfl
theorem rsub : ∀ a b, Statement (.rsub a b) := fun _ _ => rfl
theorem andImm : ∀ a b, Statement (.andImm a b) := fun _ _ => rfl
theorem orImm : ∀ a b, Statement (.orImm a b) := fun _ _ => rfl
theorem xorImm : ∀ a b, Statement (.xorImm a b) := fun _ _ => rfl
theorem andnImm : ∀ a b, Statement (.andnImm a b) := fun _ _ => rfl
theorem ornImm : ∀ a b, Statement (.ornImm a b) := fun _ _ => rfl
theorem xnorImm : ∀ a b, Statement (.xnorImm a b) := fun _ _ => rfl
theorem shlImm : ∀ a b, Statement (.shlImm a b) := fun _ _ => rfl
theorem shrImm : ∀ a b, Statement (.shrImm a b) := fun _ _ => rfl
theorem sarImm : ∀ a b, Statement (.sarImm a b) := fun _ _ => rfl
theorem rolImm : ∀ a b, Statement (.rolImm a b) := fun _ _ => rfl
theorem rorImm : ∀ a b, Statement (.rorImm a b) := fun _ _ => rfl
theorem ceqImm : ∀ a b, Statement (.ceqImm a b) := fun _ _ => rfl
theorem cneImm : ∀ a b, Statement (.cneImm a b) := fun _ _ => rfl
theorem cltImm : ∀ a b, Statement (.cltImm a b) := fun _ _ => rfl
theorem cleImm : ∀ a b, Statement (.cleImm a b) := fun _ _ => rfl
theorem cgtImm : ∀ a b, Statement (.cgtImm a b) := fun _ _ => rfl
theorem cgeImm : ∀ a b, Statement (.cgeImm a b) := fun _ _ => rfl
theorem ctstImm : ∀ a b, Statement (.ctstImm a b) := fun _ _ => rfl
theorem ctstzImm : ∀ a b, Statement (.ctstzImm a b) := fun _ _ => rfl
theorem movi : ∀ a b, Statement (.movi a b) := fun _ _ => rfl
theorem movzi : ∀ a b, Statement (.movzi a b) := fun _ _ => rfl
theorem movhi : ∀ a b, Statement (.movhi a b) := fun _ _ => rfl
theorem leai : ∀ a b, Statement (.leai a b) := fun _ _ => rfl
theorem leapc : ∀ a b, Statement (.leapc a b) := fun _ _ => rfl
theorem br : ∀ a b, Statement (.br a b) := fun _ _ => rfl
theorem bz : ∀ a b, Statement (.bz a b) := fun _ _ => rfl
theorem bnz : ∀ a b, Statement (.bnz a b) := fun _ _ => rfl
theorem blz : ∀ a b, Statement (.blz a b) := fun _ _ => rfl
theorem bgez : ∀ a b, Statement (.bgez a b) := fun _ _ => rfl
theorem jr : ∀ a b, Statement (.jr a b) := fun _ _ => rfl
theorem call : ∀ a b, Statement (.call a b) := fun _ _ => rfl
theorem callr : ∀ a b, Statement (.callr a b) := fun _ _ => rfl
theorem ret : ∀ a, Statement (.ret a) := fun _ => rfl
theorem loop : ∀ a b, Statement (.loop a b) := fun _ _ => rfl
theorem lbrk : ∀ a, Statement (.lbrk a) := fun _ => rfl
theorem gdet : ∀ a, Statement (.gdet a) := fun _ => rfl
theorem gjoin : ∀ a, Statement (.gjoin a) := fun _ => rfl
theorem srrd : ∀ a b, Statement (.srrd a b) := fun _ _ => rfl
theorem srwr : ∀ a b, Statement (.srwr a b) := fun _ _ => rfl
theorem srwri : ∀ a b, Statement (.srwri a b) := fun _ _ => rfl
theorem trap : ∀ a b, Statement (.trap a b) := fun _ _ => rfl
theorem halt : ∀ a, Statement (.halt a) := fun _ => rfl
theorem vaddInt : ∀ a b, Statement (.vaddInt a b) := fun _ _ => rfl
theorem vsubInt : ∀ a b, Statement (.vsubInt a b) := fun _ _ => rfl
theorem vnegInt : ∀ a b, Statement (.vnegInt a b) := fun _ _ => rfl
theorem vabsInt : ∀ a b, Statement (.vabsInt a b) := fun _ _ => rfl
theorem vadds : ∀ a b, Statement (.vadds a b) := fun _ _ => rfl
theorem vsubs : ∀ a b, Statement (.vsubs a b) := fun _ _ => rfl
theorem vmulInt : ∀ a b, Statement (.vmulInt a b) := fun _ _ => rfl
theorem vmulh : ∀ a b, Statement (.vmulh a b) := fun _ _ => rfl
theorem vmad : ∀ a b, Statement (.vmad a b) := fun _ _ => rfl
theorem vminInt : ∀ a b, Statement (.vminInt a b) := fun _ _ => rfl
theorem vmaxInt : ∀ a b, Statement (.vmaxInt a b) := fun _ _ => rfl
theorem vand : ∀ a b, Statement (.vand a b) := fun _ _ => rfl
theorem vor : ∀ a b, Statement (.vor a b) := fun _ _ => rfl
theorem vxor : ∀ a b, Statement (.vxor a b) := fun _ _ => rfl
theorem vandn : ∀ a b, Statement (.vandn a b) := fun _ _ => rfl
theorem vnot : ∀ a b, Statement (.vnot a b) := fun _ _ => rfl
theorem vshl : ∀ a b, Statement (.vshl a b) := fun _ _ => rfl
theorem vshr : ∀ a b, Statement (.vshr a b) := fun _ _ => rfl
theorem vsar : ∀ a b, Statement (.vsar a b) := fun _ _ => rfl
theorem vceq : ∀ a b, Statement (.vceq a b) := fun _ _ => rfl
theorem vcne : ∀ a b, Statement (.vcne a b) := fun _ _ => rfl
theorem vclt : ∀ a b, Statement (.vclt a b) := fun _ _ => rfl
theorem vcle : ∀ a b, Statement (.vcle a b) := fun _ _ => rfl
theorem vcgt : ∀ a b, Statement (.vcgt a b) := fun _ _ => rfl
theorem vcge : ∀ a b, Statement (.vcge a b) := fun _ _ => rfl
theorem vsel : ∀ a b, Statement (.vsel a b) := fun _ _ => rfl
theorem mand : ∀ a b, Statement (.mand a b) := fun _ _ => rfl
theorem mor : ∀ a b, Statement (.mor a b) := fun _ _ => rfl
theorem mxor : ∀ a b, Statement (.mxor a b) := fun _ _ => rfl
theorem mandn : ∀ a b, Statement (.mandn a b) := fun _ _ => rfl
theorem mnot : ∀ a b, Statement (.mnot a b) := fun _ _ => rfl
theorem mpopc : ∀ a b, Statement (.mpopc a b) := fun _ _ => rfl
theorem mfirst : ∀ a b, Statement (.mfirst a b) := fun _ _ => rfl
theorem mfromg : ∀ a b, Statement (.mfromg a b) := fun _ _ => rfl
theorem mtog : ∀ a b, Statement (.mtog a b) := fun _ _ => rfl
theorem vbcsti : ∀ a b, Statement (.vbcsti a b) := fun _ _ => rfl
theorem vbcst : ∀ a b, Statement (.vbcst a b) := fun _ _ => rfl
theorem vaddFp : ∀ a b, Statement (.vaddFp a b) := fun _ _ => rfl
theorem vsubFp : ∀ a b, Statement (.vsubFp a b) := fun _ _ => rfl
theorem vmulFp : ∀ a b, Statement (.vmulFp a b) := fun _ _ => rfl
theorem vminFp : ∀ a b, Statement (.vminFp a b) := fun _ _ => rfl
theorem vmaxFp : ∀ a b, Statement (.vmaxFp a b) := fun _ _ => rfl
theorem vabsFp : ∀ a b, Statement (.vabsFp a b) := fun _ _ => rfl
theorem vnegFp : ∀ a b, Statement (.vnegFp a b) := fun _ _ => rfl
theorem vfma : ∀ a b, Statement (.vfma a b) := fun _ _ => rfl
theorem vfms : ∀ a b, Statement (.vfms a b) := fun _ _ => rfl
theorem vfnma : ∀ a b, Statement (.vfnma a b) := fun _ _ => rfl
theorem vfnms : ∀ a b, Statement (.vfnms a b) := fun _ _ => rfl
theorem vdiv : ∀ a b, Statement (.vdiv a b) := fun _ _ => rfl
theorem vsqrt : ∀ a b, Statement (.vsqrt a b) := fun _ _ => rfl
theorem vexp : ∀ a b, Statement (.vexp a b) := fun _ _ => rfl
theorem vlog : ∀ a b, Statement (.vlog a b) := fun _ _ => rfl
theorem vexp2 : ∀ a b, Statement (.vexp2 a b) := fun _ _ => rfl
theorem vlog2 : ∀ a b, Statement (.vlog2 a b) := fun _ _ => rfl
theorem vtanh : ∀ a b, Statement (.vtanh a b) := fun _ _ => rfl
theorem vrcpe : ∀ a b, Statement (.vrcpe a b) := fun _ _ => rfl
theorem vrsqrte : ∀ a b, Statement (.vrsqrte a b) := fun _ _ => rfl
theorem vexpe : ∀ a b, Statement (.vexpe a b) := fun _ _ => rfl
theorem vloge : ∀ a b, Statement (.vloge a b) := fun _ _ => rfl
theorem vtanhe : ∀ a b, Statement (.vtanhe a b) := fun _ _ => rfl
theorem vsigme : ∀ a b, Statement (.vsigme a b) := fun _ _ => rfl
theorem vcvt : ∀ a b, Statement (.vcvt a b) := fun _ _ => rfl
theorem vbfpx : ∀ a b, Statement (.vbfpx a b) := fun _ _ => rfl
theorem vbfpe : ∀ a b, Statement (.vbfpe a b) := fun _ _ => rfl
theorem vbfpeHi : ∀ a b, Statement (.vbfpeHi a b) := fun _ _ => rfl
theorem vbfpd : ∀ a b, Statement (.vbfpd a b) := fun _ _ => rfl
theorem vperm : ∀ a b, Statement (.vperm a b) := fun _ _ => rfl
theorem vperm2 : ∀ a b, Statement (.vperm2 a b) := fun _ _ => rfl
theorem vslide : ∀ a b, Statement (.vslide a b) := fun _ _ => rfl
theorem vzipl : ∀ a b, Statement (.vzipl a b) := fun _ _ => rfl
theorem vziph : ∀ a b, Statement (.vziph a b) := fun _ _ => rfl
theorem vuzpe : ∀ a b, Statement (.vuzpe a b) := fun _ _ => rfl
theorem vuzpo : ∀ a b, Statement (.vuzpo a b) := fun _ _ => rfl
theorem vrsum : ∀ a b, Statement (.vrsum a b) := fun _ _ => rfl
theorem vrmin : ∀ a b, Statement (.vrmin a b) := fun _ _ => rfl
theorem vrmax : ∀ a b, Statement (.vrmax a b) := fun _ _ => rfl
theorem vrand : ∀ a b, Statement (.vrand a b) := fun _ _ => rfl
theorem vror : ∀ a b, Statement (.vror a b) := fun _ _ => rfl
theorem rng : ∀ a b, Statement (.rng a b) := fun _ _ => rfl
theorem vrng : ∀ a b, Statement (.vrng a b) := fun _ _ => rfl
theorem vins : ∀ a b, Statement (.vins a b) := fun _ _ => rfl
theorem vext : ∀ a b, Statement (.vext a b) := fun _ _ => rfl
theorem vmov : ∀ a b, Statement (.vmov a b) := fun _ _ => rfl
theorem fadd : ∀ a b, Statement (.fadd a b) := fun _ _ => rfl
theorem fsub : ∀ a b, Statement (.fsub a b) := fun _ _ => rfl
theorem fmul : ∀ a b, Statement (.fmul a b) := fun _ _ => rfl
theorem fmin : ∀ a b, Statement (.fmin a b) := fun _ _ => rfl
theorem fmax : ∀ a b, Statement (.fmax a b) := fun _ _ => rfl
theorem fabs : ∀ a b, Statement (.fabs a b) := fun _ _ => rfl
theorem fneg : ∀ a b, Statement (.fneg a b) := fun _ _ => rfl
theorem ffma : ∀ a b, Statement (.ffma a b) := fun _ _ => rfl
theorem ffms : ∀ a b, Statement (.ffms a b) := fun _ _ => rfl
theorem ffnma : ∀ a b, Statement (.ffnma a b) := fun _ _ => rfl
theorem ffnms : ∀ a b, Statement (.ffnms a b) := fun _ _ => rfl
theorem fdiv : ∀ a b, Statement (.fdiv a b) := fun _ _ => rfl
theorem fsqrt : ∀ a b, Statement (.fsqrt a b) := fun _ _ => rfl
theorem fexp : ∀ a b, Statement (.fexp a b) := fun _ _ => rfl
theorem flog : ∀ a b, Statement (.flog a b) := fun _ _ => rfl
theorem fexp2 : ∀ a b, Statement (.fexp2 a b) := fun _ _ => rfl
theorem flog2 : ∀ a b, Statement (.flog2 a b) := fun _ _ => rfl
theorem fceq : ∀ a b, Statement (.fceq a b) := fun _ _ => rfl
theorem fcne : ∀ a b, Statement (.fcne a b) := fun _ _ => rfl
theorem fclt : ∀ a b, Statement (.fclt a b) := fun _ _ => rfl
theorem fcle : ∀ a b, Statement (.fcle a b) := fun _ _ => rfl
theorem fcgt : ∀ a b, Statement (.fcgt a b) := fun _ _ => rfl
theorem fcge : ∀ a b, Statement (.fcge a b) := fun _ _ => rfl
theorem fcvt : ∀ a b, Statement (.fcvt a b) := fun _ _ => rfl
theorem mzero : ∀ a b, Statement (.mzero a b) := fun _ _ => rfl
theorem mrdrow : ∀ a b, Statement (.mrdrow a b) := fun _ _ => rfl
theorem mwrrow : ∀ a b, Statement (.mwrrow a b) := fun _ _ => rfl
theorem mmov : ∀ a b, Statement (.mmov a b) := fun _ _ => rfl
theorem masel : ∀ a b, Statement (.masel a b) := fun _ _ => rfl
theorem masx : ∀ a b, Statement (.masx a b) := fun _ _ => rfl
theorem mbsel : ∀ a b, Statement (.mbsel a b) := fun _ _ => rfl
theorem mma : ∀ a b, Statement (.mma a b) := fun _ _ => rfl
theorem mdrain : ∀ a b, Statement (.mdrain a b) := fun _ _ => rfl
theorem ld : ∀ a b, Statement (.ld a b) := fun _ _ => rfl
theorem ldv : ∀ a b, Statement (.ldv a b) := fun _ _ => rfl
theorem ldvb : ∀ a b, Statement (.ldvb a b) := fun _ _ => rfl
theorem st : ∀ a b, Statement (.st a b) := fun _ _ => rfl
theorem stv : ∀ a b, Statement (.stv a b) := fun _ _ => rfl
theorem ldf : ∀ a b, Statement (.ldf a b) := fun _ _ => rfl
theorem ldfh : ∀ a b, Statement (.ldfh a b) := fun _ _ => rfl
theorem ldfv : ∀ a b, Statement (.ldfv a b) := fun _ _ => rfl
theorem ldr : ∀ a b, Statement (.ldr a b) := fun _ _ => rfl
theorem ldrv : ∀ a b, Statement (.ldrv a b) := fun _ _ => rfl
theorem ldrx : ∀ a b, Statement (.ldrx a b) := fun _ _ => rfl
theorem ldAcq : ∀ a b, Statement (.ldAcq a b) := fun _ _ => rfl
theorem stRel : ∀ a b, Statement (.stRel a b) := fun _ _ => rfl
theorem sts : ∀ a b, Statement (.sts a b) := fun _ _ => rfl
theorem stsv : ∀ a b, Statement (.stsv a b) := fun _ _ => rfl
theorem vgather : ∀ a b, Statement (.vgather a b) := fun _ _ => rfl
theorem vscatter : ∀ a b, Statement (.vscatter a b) := fun _ _ => rfl
theorem pft : ∀ a b, Statement (.pft a b) := fun _ _ => rfl
theorem pfh : ∀ a b, Statement (.pfh a b) := fun _ _ => rfl
theorem amoSwap : ∀ a b, Statement (.amoSwap a b) := fun _ _ => rfl
theorem amoAdd : ∀ a b, Statement (.amoAdd a b) := fun _ _ => rfl
theorem amoAnd : ∀ a b, Statement (.amoAnd a b) := fun _ _ => rfl
theorem amoOr : ∀ a b, Statement (.amoOr a b) := fun _ _ => rfl
theorem amoXor : ∀ a b, Statement (.amoXor a b) := fun _ _ => rfl
theorem amoMin : ∀ a b, Statement (.amoMin a b) := fun _ _ => rfl
theorem amoMax : ∀ a b, Statement (.amoMax a b) := fun _ _ => rfl
theorem cas : ∀ a b, Statement (.cas a b) := fun _ _ => rfl
theorem redAdd : ∀ a b, Statement (.redAdd a b) := fun _ _ => rfl
theorem redAnd : ∀ a b, Statement (.redAnd a b) := fun _ _ => rfl
theorem redOr : ∀ a b, Statement (.redOr a b) := fun _ _ => rfl
theorem redXor : ∀ a b, Statement (.redXor a b) := fun _ _ => rfl
theorem redMin : ∀ a b, Statement (.redMin a b) := fun _ _ => rfl
theorem redMax : ∀ a b, Statement (.redMax a b) := fun _ _ => rfl
theorem amo2Swap : ∀ a b, Statement (.amo2Swap a b) := fun _ _ => rfl
theorem amo2Add : ∀ a b, Statement (.amo2Add a b) := fun _ _ => rfl
theorem amo2And : ∀ a b, Statement (.amo2And a b) := fun _ _ => rfl
theorem amo2Or : ∀ a b, Statement (.amo2Or a b) := fun _ _ => rfl
theorem amo2Xor : ∀ a b, Statement (.amo2Xor a b) := fun _ _ => rfl
theorem dcas : ∀ a b, Statement (.dcas a b) := fun _ _ => rfl
theorem amove : ∀ a b, Statement (.amove a b) := fun _ _ => rfl
theorem fenceAcq : ∀ a, Statement (.fenceAcq a) := fun _ => rfl
theorem fenceRel : ∀ a b, Statement (.fenceRel a b) := fun _ _ => rfl
theorem fenceFull : ∀ a b, Statement (.fenceFull a b) := fun _ _ => rfl
theorem waitaddr : ∀ a b, Statement (.waitaddr a b) := fun _ _ => rfl
theorem evsig : ∀ a b, Statement (.evsig a b) := fun _ _ => rfl
theorem evwait : ∀ a b, Statement (.evwait a b) := fun _ _ => rfl
theorem send : ∀ a b, Statement (.send a b) := fun _ _ => rfl
theorem sendv : ∀ a b, Statement (.sendv a b) := fun _ _ => rfl
theorem sendRel : ∀ a b, Statement (.sendRel a b) := fun _ _ => rfl
theorem recv : ∀ a b, Statement (.recv a b) := fun _ _ => rfl
theorem recvv : ∀ a b, Statement (.recvv a b) := fun _ _ => rfl
theorem recvAny : ∀ a b, Statement (.recvAny a b) := fun _ _ => rfl
theorem recvvAny : ∀ a b, Statement (.recvvAny a b) := fun _ _ => rfl
theorem sstep : ∀ a, Statement (.sstep a) := fun _ => rfl
theorem bar : ∀ a b, Statement (.bar a b) := fun _ _ => rfl
theorem fprobe : ∀ a b, Statement (.fprobe a b) := fun _ _ => rfl
theorem fork : ∀ a b, Statement (.fork a b) := fun _ _ => rfl
theorem rdv : ∀ a b, Statement (.rdv a b) := fun _ _ => rfl
theorem hwait : ∀ a b, Statement (.hwait a b) := fun _ _ => rfl
theorem hdet : ∀ a b, Statement (.hdet a b) := fun _ _ => rfl
theorem htest : ∀ a b, Statement (.htest a b) := fun _ _ => rfl
theorem hpass : ∀ a b, Statement (.hpass a b) := fun _ _ => rfl
theorem hcancel : ∀ a b, Statement (.hcancel a b) := fun _ _ => rfl
theorem cpy : ∀ a b, Statement (.cpy a b) := fun _ _ => rfl
theorem cpyf : ∀ a b, Statement (.cpyf a b) := fun _ _ => rfl
theorem cpyb : ∀ a b, Statement (.cpyb a b) := fun _ _ => rfl
theorem qfence : ∀ a b, Statement (.qfence a b) := fun _ _ => rfl
theorem coll : ∀ a b, Statement (.coll a b) := fun _ _ => rfl
theorem contend : ∀ a b, Statement (.contend a b) := fun _ _ => rfl
theorem afclaim : ∀ a b, Statement (.afclaim a b) := fun _ _ => rfl
theorem afcal : ∀ a b, Statement (.afcal a b) := fun _ _ => rfl
theorem afcfg : ∀ a b, Statement (.afcfg a b) := fun _ _ => rfl
theorem afscale : ∀ a b, Statement (.afscale a b) := fun _ _ => rfl
theorem afrun : ∀ a b, Statement (.afrun a b) := fun _ _ => rfl
theorem afsettle : ∀ a b, Statement (.afsettle a b) := fun _ _ => rfl
theorem afsample : ∀ a b, Statement (.afsample a b) := fun _ _ => rfl
theorem afstop : ∀ a b, Statement (.afstop a b) := fun _ _ => rfl
theorem afrel : ∀ a b, Statement (.afrel a b) := fun _ _ => rfl
theorem ctxsave : ∀ a b, Statement (.ctxsave a b) := fun _ _ => rfl
theorem ctxload : ∀ a b, Statement (.ctxload a b) := fun _ _ => rfl
theorem mint : ∀ a b, Statement (.mint a b) := fun _ _ => rfl
theorem fret : ∀ a b, Statement (.fret a b) := fun _ _ => rfl
theorem tlbwr : ∀ a b, Statement (.tlbwr a b) := fun _ _ => rfl
theorem tlbinv : ∀ a b, Statement (.tlbinv a b) := fun _ _ => rfl
theorem snap : ∀ a b, Statement (.snap a b) := fun _ _ => rfl
theorem mseal : ∀ a b, Statement (.mseal a b) := fun _ _ => rfl
theorem evIssue : ∀ a, Statement (.evIssue a) := fun _ => rfl
theorem evArrival : ∀ a b, Statement (.evArrival a b) := fun _ _ => rfl
theorem evPerform : ∀ a, Statement (.evPerform a) := fun _ => rfl
theorem evApply : ∀ a, Statement (.evApply a) := fun _ => rfl
theorem evPairSecondHome : ∀ a, Statement (.evPairSecondHome a) := fun _ => rfl
theorem evReplyDelivery : ∀ a, Statement (.evReplyDelivery a) := fun _ => rfl
theorem evWcbFlush : ∀ a b, Statement (.evWcbFlush a b) := fun _ _ => rfl
theorem evEngineEntryBegin : ∀ a b, Statement (.evEngineEntryBegin a b) := fun _ _ => rfl
theorem evHandleResolve : ∀ a b, Statement (.evHandleResolve a b) := fun _ _ => rfl
theorem evWakeDelivery : ∀ a, Statement (.evWakeDelivery a) := fun _ => rfl
theorem evWaitTimeout : ∀ a, Statement (.evWaitTimeout a) := fun _ => rfl
theorem evHostInboundWrite : ∀ a b c, Statement (.evHostInboundWrite a b c) := fun _ _ _ => rfl
theorem evHostInboundRead : ∀ a b c, Statement (.evHostInboundRead a b c) := fun _ _ _ => rfl
theorem evHostFlushRead : ∀ a b, Statement (.evHostFlushRead a b) := fun _ _ => rfl
theorem evMailboxDeliver : ∀ a b, Statement (.evMailboxDeliver a b) := fun _ _ => rfl
theorem evContextTimeslice : ∀ a, Statement (.evContextTimeslice a) := fun _ => rfl
theorem evMintArrival : ∀ a, Statement (.evMintArrival a) := fun _ => rfl
theorem evFaultRecordPost : ∀ a, Statement (.evFaultRecordPost a) := fun _ => rfl
theorem evFqtailWrite : ∀ a b c, Statement (.evFqtailWrite a b c) := fun _ _ _ => rfl
theorem evFaultDomainEnd : ∀ a, Statement (.evFaultDomainEnd a) := fun _ => rfl
theorem evFpWindowClose : ∀ a, Statement (.evFpWindowClose a) := fun _ => rfl
theorem evCellComplete : ∀ a, Statement (.evCellComplete a) := fun _ => rfl
theorem evChildLaunch : ∀ a b, Statement (.evChildLaunch a b) := fun _ _ => rfl
theorem evLaunchSelect : ∀ a b, Statement (.evLaunchSelect a b) := fun _ _ => rfl
theorem evExchangeTransfer : ∀ a, Statement (.evExchangeTransfer a) := fun _ => rfl
theorem evRoundTimerExpiry : ∀ a, Statement (.evRoundTimerExpiry a) := fun _ => rfl
theorem evRoundMarkerArrival : ∀ a b, Statement (.evRoundMarkerArrival a b) := fun _ _ => rfl
theorem evTokenPass : ∀ a, Statement (.evTokenPass a) := fun _ => rfl
theorem evContendRegister : ∀ a, Statement (.evContendRegister a) := fun _ => rfl
theorem evWaggleContest : ∀ a, Statement (.evWaggleContest a) := fun _ => rfl
theorem evContestResult : ∀ a, Statement (.evContestResult a) := fun _ => rfl
theorem evSequencerBind : ∀ a, Statement (.evSequencerBind a) := fun _ => rfl
theorem evBindingReceive : ∀ a b, Statement (.evBindingReceive a b) := fun _ _ => rfl
theorem evCollectiveStart : ∀ a b, Statement (.evCollectiveStart a b) := fun _ _ => rfl
theorem evContributionArrival : ∀ a b, Statement (.evContributionArrival a b) := fun _ _ => rfl
theorem evTgTimeout : ∀ a, Statement (.evTgTimeout a) := fun _ => rfl
theorem evCancelRecord : ∀ a b, Statement (.evCancelRecord a b) := fun _ _ => rfl
theorem evSwitchFailure : ∀ a b, Statement (.evSwitchFailure a b) := fun _ _ => rfl
theorem evSequencerHeartbeat : Statement .evSequencerHeartbeat := rfl
theorem evSequencerFailover : ∀ a, Statement (.evSequencerFailover a) := fun _ => rfl
theorem evRegistrationRetry : ∀ a, Statement (.evRegistrationRetry a) := fun _ => rfl
theorem evAfcalComplete : ∀ a, Statement (.evAfcalComplete a) := fun _ => rfl
theorem evFabricSaturation : ∀ a b, Statement (.evFabricSaturation a b) := fun _ _ => rfl
theorem evFabricSettleDone : ∀ a, Statement (.evFabricSettleDone a) := fun _ => rfl
theorem evFabricSettleTimeout : ∀ a, Statement (.evFabricSettleTimeout a) := fun _ => rfl
theorem evQueueDoorbell : ∀ a b, Statement (.evQueueDoorbell a b) := fun _ _ => rfl
theorem evQueueLaunch : ∀ a, Statement (.evQueueLaunch a) := fun _ => rfl
theorem evQueueFence : ∀ a, Statement (.evQueueFence a) := fun _ => rfl
theorem evQueueFenceComplete : ∀ a, Statement (.evQueueFenceComplete a) := fun _ => rfl
theorem evQueueCancel : ∀ a, Statement (.evQueueCancel a) := fun _ => rfl
theorem evRegisterWrite : ∀ a b, Statement (.evRegisterWrite a b) := fun _ _ => rfl
theorem evLinkRetry : ∀ a, Statement (.evLinkRetry a) := fun _ => rfl
theorem evLinkFail : ∀ a, Statement (.evLinkFail a) := fun _ => rfl
theorem evLinkRateChange : ∀ a b c, Statement (.evLinkRateChange a b c) := fun _ _ _ => rfl
theorem evBudgetInterval : ∀ a, Statement (.evBudgetInterval a) := fun _ => rfl
theorem evFrequencyStep : ∀ a b, Statement (.evFrequencyStep a b) := fun _ _ => rfl
theorem evRelockRestart : ∀ a, Statement (.evRelockRestart a) := fun _ => rfl
theorem evSnapshotTrigger : Statement .evSnapshotTrigger := rfl
theorem evMeterList : Statement .evMeterList := rfl
theorem evMeterRead : ∀ a, Statement (.evMeterRead a) := fun _ => rfl
theorem evGetVersion : Statement .evGetVersion := rfl
theorem evGetCapabilities : Statement .evGetCapabilities := rfl
theorem evNegotiateAlgorithms : ∀ a b, Statement (.evNegotiateAlgorithms a b) := fun _ _ => rfl
theorem evGetDigests : Statement .evGetDigests := rfl
theorem evGetCertificate : ∀ a, Statement (.evGetCertificate a) := fun _ => rfl
theorem evChallenge : ∀ a, Statement (.evChallenge a) := fun _ => rfl
theorem evGetMeasurements : ∀ a, Statement (.evGetMeasurements a) := fun _ => rfl
theorem evPackageReset : ∀ a, Statement (.evPackageReset a) := fun _ => rfl
theorem evPatrolScrub : ∀ a b c, Statement (.evPatrolScrub a b c) := fun _ _ _ => rfl
theorem evCellError : ∀ a, Statement (.evCellError a) := fun _ => rfl
theorem evQueueEnable : ∀ a b c, Statement (.evQueueEnable a b c) := fun _ _ _ => rfl
theorem evGroupCreate : ∀ a, Statement (.evGroupCreate a) := fun _ => rfl
theorem evStandbyReplacement : ∀ a, Statement (.evStandbyReplacement a) := fun _ => rfl
theorem evExportRevocation : ∀ a b, Statement (.evExportRevocation a b) := fun _ _ => rfl
theorem evSnapshotRelease : Statement .evSnapshotRelease := rfl

end Sys2Proof.Laws.Encoding
end

