-- ==== Sys2Proof/Tests/Slice0.lean ====
section
/-!
SUPPORT. Tests: ill-formed terms, words written out from the encoding tables, one step of small states against values
worked by hand from the rules, and a witness for the hypotheses of every statement.
-/
namespace Sys2Proof.Tests

set_option Elab.async false

open Sys2Proof Sys2Proof.Machine Sys2Proof.Claims

/-! ### Small states -/

/-- The outcome is a next state that passes a check. -/
def yes (o : Out) (p : State → Bool) : Bool := match o with
  | .next t => p t
  | _ => false

/-- The same state, as far as its contexts, messages, records, regions, contests, collectives and claims go: the rest holds free
values. -/
def same (a b : State) : Bool :=
  a.th == b.th && a.pool == b.pool && a.net == b.net && a.cells == b.cells && a.regions == b.regions && a.plane == b.plane &&
    a.swarm == b.swarm && a.claims == b.claims && a.now == b.now
/-- A header without predicate or stall. -/
def hd : Hdr := ⟨0, false, 0⟩
/-- A header whose predicate register m1 is negated. -/
def hdOff : Hdr := ⟨0, true, 0⟩
def g (n : BitVec 6) : GReg := ⟨n, ⟨.none, .none, 0⟩⟩
def v (n : BitVec 5) : VReg := ⟨n, ⟨.none, 0, 0⟩⟩
def rg (n : BitVec 6) : GSrc := .reg (g n)
def rv (n : BitVec 5) : VSrc := .reg (v n)

/-- A user context of cell 0 that executes at 0x100, at determinism level 0, with g registers as given. -/
def user (rs : List (BitVec 6 × Word)) : Ctx :=
  { Ctx.reset with
    cid := 1, status := .running, pc := 0x100, slot := 0, level := .user,
    regs := rs.foldl (fun R x => R.wg x.1 x.2) .launch }
/-- The package with only that context in it. -/
def solo (rs : List (BitVec 6 × Word)) : State := { State.reset with th := user rs }
/-- The same with v registers. -/
def lanes (rs : List (BitVec 6 × Word)) (vs : List (BitVec 5 × VWord)) : State :=
  let s := solo rs
  { s with th := { s.th with regs := vs.foldl (fun R x => R.wv x.1 x.2) s.th.regs } }
/-- A state with its issuing context changed. -/
def upd (s : State) (f : Ctx → Ctx) : State := { s with th := f s.th }

/-- Attributes of a region of two cells. -/
def attrs (free : Bool) (det : Nat) : Attrs := ⟨2, 0, 0, 4096, 1000, 1, 1, 7, false, free, det, 1, 0, 0, false, 0⟩
/-- A region with logical cells 0 and 1 on cells 0 and 1. -/
def region (free : Bool) (det : Nat) : Region :=
  { id := 0, home := 0, rcb := 0, asid := 1, queue := none, parent := none, a := attrs free det, entry := 0,
    slot := some 3, sigTable := 0, phase := .own, status := .ok, map := [0, 1], ctxs := [1, 2],
    kids := 0, nextKid := 0, cmap := 0, chans := none, sched := [], joined := [], closed := none, xpos := 0, xmove := .idle, bars := [],
    ev := Vector.replicate 16 0, token := .start, terminated := false, fpEvents := [], fpWindow := 0, logCount := 0,
    combsDone := [], framesDone := [], launched := 0, doneCells := [], ending := false, cyc0 := [], gated0 := [] }
/-- The context is logical cell 0 of that region, a second context is logical cell 1. -/
def inRegion (free : Bool) (rs : List (BitVec 6 × Word)) : State :=
  let s := solo rs
  { s with
    th := { s.th with region := some 0, asid := 1 }, regions := [region free 0],
    pool := [{ Ctx.reset with
      cid := 2, place := .user 1, status := .ready, regs := .launch, region := some 0, asid := 1,
      sr := { SrBank.reset with lcell := 1 } }] }

/-- What a register holds or will hold: the value in the open window of a specifier, or else in its register. -/
def got (c : Ctx) (q : BitVec 8) : Nat := (((c.openW.find? fun w => w.spec == q).map OpenWrite.val).getD (c.regs.at q)).toNat
/-- The value left for g1, v1 and m1. -/
def g1 (o : Out) : Nat := match o with
  | .next t => got t.th 1
  | _ => 0
def v1 (t : Ty) (o : Out) : List Nat := match o with
  | .next s => (List.range t.lanes).map fun j => laneOf t.bits (BitVec.ofNat 256 (got s.th 0x41)) j
  | _ => []
def m1 (o : Out) : Nat := match o with
  | .next t => got t.th 0x61
  | _ => 0
/-- The fault a context stopped on: cause, detail and address. -/
def stop (o : Out) : Option (Nat × Nat × Nat) := match o with
  | .next t => t.th.fault.map fun f => (f.cause.toNat, f.detail.toNat, f.addr.toNat)
  | _ => none
/-- A two's complement number of 64 bits. -/
def int (x : Int) : Nat := (BitVec.ofInt 64 x).toNat

/-- The same package with every slot of the line at 0x140 a legal target. -/
def marked (rs : List (BitVec 6 × Word)) : State := { solo rs with mem := [⟨0x17D, 0xF8⟩] }
/-- The program counter after an outcome. -/
def pcOf (o : Out) : Nat := match o with
  | .next t => t.th.pc.toNat
  | _ => 0

/-- A two's complement number of 32 bits. -/
def w32 (x : Int) : Nat := (BitVec.ofInt 32 x).toNat
/-- A package with eight 32-bit lanes in v2, and m1 as given. -/
def vec (xs : List Nat) (mask : MWord) : State := upd (lanes [] [(2, BitVec.ofNat 256 (packLanes 32 xs))]) fun c =>
  { c with regs := c.regs.wm 1 mask }
/-- Under the predicate m1. -/
def byM1 : Hdr := ⟨0, false, 1⟩
/-- Every byte of lane 0 and the lowest byte of lane 2, which is active by its lowest bit alone (R217). -/
def someLanes : MWord := 0x0000010F

/-- The addresses of the operations in the queue of the issuing context after an outcome. -/
def queued (o : Out) : List Nat := match o with
  | .next t => t.th.mq.iq.map MemOp.pa
  | _ => []
/-- The results on their way to the issuing context. -/
def dests (o : Out) : List Dest := match o with
  | .next t => t.th.pend.map Pend.dest
  | _ => []
/-- Is a placement a list of parts, or the fault with a cause and an address. -/
def placed (r : Except Trap (List Part)) : List Nat := match r with
  | .ok ps => ps.map Part.pa
  | .error _ => []
def refusedFor (r : Except Trap (List Part)) : Nat := match r with
  | .ok _ => 0
  | .error t => t.cause
/-- Two HBM pages of frame 0 at the start of the paged window: BFP8 elements, whose companion page is the second one
(R73, R340, R341). -/
def paged (rs : List (BitVec 6 × Word)) (fmt : Word) : State :=
  { solo rs with
    hub := { Hub.reset with live := 1 },
    cells := [{ CellRec.reset 0 with tlb := [⟨0x10000000020, 0x8000100D0 + fmt * 0x1000⟩, ⟨0x10000000120, 0x10000000D0⟩] }] }

/-! ### Ill-formed terms -/

/-- Terms that no word stands for: a type, a modifier, a slot, a state register, a part, a register base or a count
outside its rule (R168 to R173, R186, R193 to R240). -/
theorem test_illFormedScalarVector : ([
    .nop ⟨0, false, 1⟩, .add hd ⟨.f32, 1, rg 2, rg 3⟩, .add hd ⟨.d, 1, .reg ⟨2, ⟨.none, .none, 1⟩⟩, rg 3⟩,
    .add hd ⟨.d, 1, rg 2, .reg ⟨3, ⟨.none, .none, 1⟩⟩⟩, .not hd ⟨.f16, 1, rg 2⟩, .mad hd ⟨.bfp8, 1, rg 2, rg 3, 4⟩,
    .ceq hd ⟨.f64, 1, rg 2, rg 3⟩, .sel hd ⟨.f32, 1, rg 2, rg 3, 1⟩, .lea hd ⟨.w, 1, rg 2, rg 3, 4⟩,
    .addImm hd ⟨.f32, 1, rg 2, 0⟩, .ceqImm hd ⟨.f32, 1, rg 2, 0⟩, .leai hd ⟨.w, 1, rg 2, 0⟩, .br hd ⟨0, 5⟩,
    .bz hd ⟨g 1, ⟨0, 7⟩⟩, .bz hd ⟨⟨1, ⟨.none, .none, 3⟩⟩, ⟨0, 0⟩⟩, .jr hd ⟨⟨1, ⟨.none, .sx8, 1⟩⟩⟩, .loop hd ⟨rg 1, ⟨0, 6⟩⟩,
    .gdet ⟨0, true, 0⟩, .gjoin ⟨0, false, 1⟩, .srrd hd ⟨1, 0x006⟩, .srwr hd ⟨0x7FF, rg 1⟩, .srwri hd ⟨0x029, 0⟩,
    .vaddInt hd ⟨.f32, 1, rv 2, rv 3⟩, .vaddInt hd ⟨.w, 1, .reg ⟨2, ⟨.rot, 3, 8⟩⟩, rv 3⟩,
    .vaddInt hd ⟨.w, 1, rv 2, .reg ⟨3, ⟨.bcast, 4, 0⟩⟩⟩, .vaddInt hd ⟨.w, 1, .reg ⟨2, ⟨.none, 1, 0⟩⟩, rv 3⟩,
    .vnot hd ⟨.f16, 1, rv 2⟩, .vmad hd ⟨.f32, 1, rv 2, rv 3, 4⟩, .vceq hd ⟨.f64, 1, rv 2, rv 3⟩,
    .vsel hd ⟨.sw, 1, rv 2, rv 3, 1⟩, .mfromg hd ⟨1, ⟨2, ⟨.none, .none, 1⟩⟩⟩, .vbcsti hd ⟨.f64, 1, 0⟩,
    .vbcst hd ⟨.e4m3, 1, 2⟩, .vaddFp hd ⟨.f64, .dyn, 1, rv 2, rv 3⟩, .vminFp hd ⟨.f32, .rne, 1, rv 2, rv 3⟩,
    .vabsFp hd ⟨.f32, .rtz, 1, rv 2⟩, .vrcpe hd ⟨.f32, .rne, 1, rv 2⟩, .vfma hd ⟨.w, .dyn, 1, rv 2, rv 3, 4⟩] :
    List Instr).all (fun i => !i.wellFormed) = true := by decide
theorem test_illFormedFloat : ([
    .vcvt hd ⟨.w, .d, 0, .dyn, 1, rv 2⟩, .vcvt hd ⟨.f32, .f32, 0, .dyn, 1, rv 2⟩, .vcvt hd ⟨.f32, .f16, 2, .dyn, 1, rv 2⟩,
    .vcvt hd ⟨.bfp8, .f32, 0, .dyn, 1, rv 2⟩, .vbfpx hd ⟨.f32, 1, 0⟩, .vbfpx hd ⟨.bfp8, 1, 2⟩, .vbfpx ⟨0, false, 1⟩ ⟨.bfp8, 1, 0⟩,
    .vbfpe hd ⟨.bfp8, .rne, 1, 6, g 5⟩, .vbfpeHi hd ⟨.bfp8, .rne, 1, 4, g 5⟩, .vbfpd hd ⟨.bfp8, 4, 1, v 2, g 3⟩,
    .vslide hd ⟨.f32, 1, rv 2, rg 3, 4⟩, .vrsum hd ⟨.w, .rne, 1, rv 2⟩, .vrmin hd ⟨.f32, .rne, 1, rv 2⟩,
    .vrand hd ⟨.f32, .dyn, 1, rv 2⟩, .rng hd ⟨1, .reg ⟨2, ⟨.none, .none, 9⟩⟩, rg 3⟩, .vins hd ⟨.sw, 1, g 2, rg 3⟩,
    .vext hd ⟨.f32, 1, v 2, rg 3⟩, .vmov hd ⟨.f32, 1, rv 2⟩, .fmin hd ⟨.rne, 1, .reg 2, .reg 3⟩, .fabs hd ⟨.sr, 1, .reg 2⟩,
    .fcvt hd ⟨.f32, .f16, .dyn, 1, .reg 2⟩, .fcvt hd ⟨.f64, .f64, .dyn, 1, .reg 2⟩] :
    List Instr).all (fun i => !i.wellFormed) = true := by decide
/-- The same for matrix, memory, engine and privileged forms (R246 to R300). -/
theorem test_illFormedMemoryEngines : ([
    .mwrrow hd ⟨false, 0, ⟨2, ⟨.rot, 4, 0⟩⟩⟩, .masel hd ⟨g 2, ⟨3, ⟨.none, .none, 1⟩⟩⟩, .mma hd ⟨.bfp8, .f16, false, 1⟩,
    .mma hd ⟨.f32, .f32, false, 1⟩, .mma hd ⟨.f16, .f16, false, 0⟩, .mma hd ⟨.f16, .f16, false, 1025⟩,
    .mdrain hd ⟨.f64, .dyn, false, g 1, g 2, 0, 0, false, false⟩, .mdrain hd ⟨.f32, .dyn, false, g 1, g 2, 1, 0, false, false⟩,
    .mdrain hd ⟨.f32, .dyn, false, g 1, g 2, 2, 0, true, false⟩, .ld hd ⟨.e4m3, 1, g 2, 0⟩, .ldf hd ⟨.f16, 1, g 2, 0⟩,
    .ldrx hd ⟨.w, 1, g 2, 0⟩, .ldAcq hd ⟨.sw, 1, g 2, 0, 0⟩, .stRel hd ⟨.f16, g 2, 0, rg 1, 0⟩,
    .stv hd ⟨.w, g 2, 0, ⟨1, ⟨.bfly, 3, 9⟩⟩⟩, .vgather hd ⟨.sw, 1, g 2, 0, v 3⟩, .pft hd ⟨⟨2, ⟨.none, .none, 1⟩⟩, 0⟩,
    .amoAnd hd ⟨false, .f32, 1, g 2, 0, rg 3, 0⟩, .amoAdd hd ⟨false, .h, 1, g 2, 0, rg 3, 0⟩,
    .amoAdd hd ⟨false, .d, 1, g 2, 0, rg 3, 1⟩, .redAdd hd ⟨.bf16, g 2, 0, .g (rg 3)⟩, .redAnd hd ⟨.bf16, g 2, 0, .v (v 3)⟩,
    .amo2Add hd ⟨.d, 1, g 2, 3, rg 4, 0⟩, .amove hd ⟨.h, 1, g 2, 3, 0⟩, .waitaddr hd ⟨.b, 1, g 2, 0, rg 3, 0⟩,
    .send hd ⟨⟨1, ⟨.none, .none, 2⟩⟩, rg 2, 0⟩, .sendv hd ⟨g 1, ⟨2, ⟨.rot, 3, 0⟩⟩, 0⟩, .bar hd ⟨1, 0, 0⟩, .fork hd ⟨0, 0, none, none⟩,
    .fork hd ⟨0, 1, some (g 2), none⟩, .fork hd ⟨1, 0, some (g 0), none⟩, .fork hd ⟨1, 1, some (g 2), some (g 3)⟩,
    .coll hd ⟨1, g 2, .bcast, .max, .w, .any⟩, .coll hd ⟨1, g 2, .allreduce, .sum, .b, .any⟩, .afclaim hd ⟨1, false, 0⟩,
    .afclaim hd ⟨1, false, 65⟩, .afsample hd ⟨1, g 2, g 3, 0⟩, .afsample hd ⟨1, g 2, g 3, 65⟩,
    .fret hd ⟨1, ⟨2, ⟨.none, .none, 1⟩⟩, 0⟩, .mseal hd ⟨1, g 2, ⟨3, ⟨.none, .none, 1⟩⟩⟩] :
    List Instr).all (fun i => !i.wellFormed) = true := by decide

/-! ### Words -/

theorem test_words_scalar :
    decode 0x110001020000300030003000 = .ok (.andn ⟨0, false, 0⟩ ⟨.d, 1, .reg ⟨2, ⟨.none, .none, 0⟩⟩, .reg ⟨3, ⟨.none, .none, 0⟩⟩⟩) ∧
    decode 0x1200010270B8400060002000 = .ok (.sar ⟨0, false, 0⟩ ⟨.sw, 1, .reg ⟨2, ⟨.shl, .zx16, 11⟩⟩, .imm 4⟩) ∧
    decode 0x130001020000300070402000 = .ok (.mad ⟨0, false, 0⟩ ⟨.sd, 1, .reg ⟨2, ⟨.none, .none, 0⟩⟩, .reg ⟨3, ⟨.none, .none, 0⟩⟩, 4⟩) ∧
    decode 0x140001020000300060001000 = .ok (.rem ⟨0, false, 0⟩ ⟨.sw, 1, .reg ⟨2, ⟨.none, .none, 0⟩⟩, .reg ⟨3, ⟨.none, .none, 0⟩⟩⟩) ∧
    decode 0x150062030000400060002000 = .ok (.clt ⟨0, false, 0⟩ ⟨.sw, 2, .reg ⟨3, ⟨.none, .none, 0⟩⟩, .reg ⟨4, ⟨.none, .none, 0⟩⟩⟩) ∧
    decode 0x16000E810000000036100000 = .ok (.sel ⟨0, false, 0⟩ ⟨.d, 14, .imm 1, .reg ⟨0, ⟨.none, .none, 0⟩⟩, 1⟩) ∧
    decode 0x170001020000300000406000 = .ok (.bins ⟨0, false, 0⟩ ⟨.b, 1, .reg ⟨2, ⟨.none, .none, 0⟩⟩, .reg ⟨3, ⟨.none, .none, 0⟩⟩, 4⟩) ∧
    decode 0x180001020000300050001000 = .ok (.max ⟨0, false, 0⟩ ⟨.sh, 1, .reg ⟨2, ⟨.none, .none, 0⟩⟩, .reg ⟨3, ⟨.none, .none, 0⟩⟩⟩) ∧
    decode 0x190001020000300030002000 = .ok (.lslice ⟨0, false, 0⟩ ⟨.d, 1, .reg ⟨2, ⟨.none, .none, 0⟩⟩, .reg ⟨3, ⟨.none, .none, 0⟩⟩⟩) := by decide

theorem test_words_immediate :
    decode 0x200003030000030000000064 = .ok (.addImm ⟨0, false, 0⟩ ⟨.d, 3, .reg ⟨3, ⟨.none, .none, 0⟩⟩, 100⟩) ∧
    decode 0x2100030300002300FFFFFFFF = .ok (.xorImm ⟨0, false, 0⟩ ⟨.d, 3, .reg ⟨3, ⟨.none, .none, 0⟩⟩, 0xFFFFFFFF⟩) ∧
    decode 0x220003030000420000000005 = .ok (.rorImm ⟨0, false, 0⟩ ⟨.w, 3, .reg ⟨3, ⟨.none, .none, 0⟩⟩, 5⟩) ∧
    decode 0x230061030000720000000001 = .ok (.ctstzImm ⟨0, false, 0⟩ ⟨.w, 1, .reg ⟨3, ⟨.none, .none, 0⟩⟩, 1⟩) ∧
    decode 0x240004000000230000010000 = .ok (.movhi ⟨0, false, 0⟩ ⟨4, 0x10000⟩) ∧
    decode 0x250005000000130000000040 = .ok (.leapc ⟨0, false, 0⟩ ⟨5, 0x40⟩) := by decide

theorem test_words_control :
    decode 0x3000000700001000FFFFFFF3 = .ok (.bz ⟨0, false, 0⟩ ⟨⟨7, ⟨.none, .none, 0⟩⟩, ⟨-2, 3⟩⟩) ∧
    decode 0x300000080000500000000000 = .ok (.jr ⟨0, false, 0⟩ ⟨⟨8, ⟨.none, .none, 0⟩⟩⟩) ∧
    decode 0x31000000000000000000000C = .ok (.call ⟨0, false, 0⟩ ⟨1, 4⟩) ∧
    decode 0x310000000000200000000000 = .ok (.ret ⟨0, false, 0⟩) ∧
    decode 0x320000000000000000000009 = .ok (.loop ⟨0, false, 0⟩ ⟨.reg ⟨0, ⟨.none, .none, 0⟩⟩, ⟨1, 1⟩⟩) ∧
    decode 0x330000000000100000000000 = .ok (.gjoin ⟨0, false, 0⟩) := by decide

theorem test_words_vector :
    decode 0x400041420004300074408000 = .ok (.vmad ⟨0, false, 0⟩ ⟨.sd, 1, .reg ⟨2, ⟨.none, 0, 0⟩⟩, .reg ⟨3, ⟨.none, 0, 0⟩⟩, 4⟩) ∧
    decode 0x41004142A07810001000A000 = .ok (.vsar ⟨0, false, 0⟩ ⟨.h, 1, .reg ⟨2, ⟨.bfly, 4, 7⟩⟩, .imm 1⟩) ∧
    decode 0x420063420004300090005000 = .ok (.vcge ⟨0, false, 0⟩ ⟨.f32, 3, .reg ⟨2, ⟨.none, 0, 0⟩⟩, .reg ⟨3, ⟨.none, 0, 0⟩⟩⟩) ∧
    decode 0x420041420004300026508000 = .ok (.vsel ⟨0, false, 0⟩ ⟨.w, 1, .reg ⟨2, ⟨.none, 0, 0⟩⟩, .reg ⟨3, ⟨.none, 0, 0⟩⟩, 5⟩) ∧
    decode 0x430061620006300020003000 = .ok (.mandn ⟨0, false, 0⟩ ⟨1, 2, 3⟩) ∧
    decode 0x44004500000009003F800000 = .ok (.vbcsti ⟨0, false, 0⟩ ⟨.f32, 5, 0x3F800000⟩) ∧
    decode 0x4900414200043000A4403C00 = .ok (.vfnms ⟨0, false, 0⟩ ⟨.f16, .sr, 1, .reg ⟨2, ⟨.none, 0, 0⟩⟩, .reg ⟨3, ⟨.none, 0, 0⟩⟩, 4⟩) ∧
    decode 0x4A0041420000000090006200 = .ok (.vtanh ⟨0, false, 0⟩ ⟨.f32, .rne, 1, .reg ⟨2, ⟨.none, 0, 0⟩⟩⟩) ∧
    decode 0x4B0041420000000090005000 = .ok (.vsigme ⟨0, false, 0⟩ ⟨.f32, .dyn, 1, .reg ⟨2, ⟨.none, 0, 0⟩⟩⟩) ∧
    decode 0x4C00414200000000C0019000 = .ok (.vcvt ⟨0, false, 0⟩ ⟨.f32, .e4m3, 1, .dyn, 1, .reg ⟨2, ⟨.none, 0, 0⟩⟩⟩) ∧
    decode 0x4E0041420008300014402000 = .ok (.vslide ⟨0, false, 0⟩ ⟨.h, 1, .reg ⟨2, ⟨.none, 0, 0⟩⟩, .imm 3, 4⟩) ∧
    decode 0x4F0006420000000090000200 = .ok (.vrsum ⟨0, false, 0⟩ ⟨.f32, .rne, 6, .reg ⟨2, ⟨.none, 0, 0⟩⟩⟩) ∧
    decode 0x510009420008700020001000 = .ok (.vext ⟨0, false, 0⟩ ⟨.w, 9, ⟨2, ⟨.none, 0, 0⟩⟩, .imm 7⟩) := by decide

theorem test_words_float64 :
    decode 0x600001020000300080002600 = .ok (.fmul ⟨0, false, 0⟩ ⟨.rup, 1, .reg 2, .reg 3⟩) ∧
    decode 0x610001020000300080401000 = .ok (.ffms ⟨0, false, 0⟩ ⟨.dyn, 1, .reg 2, .reg 3, 4⟩) ∧
    decode 0x620001020000000080001800 = .ok (.fsqrt ⟨0, false, 0⟩ ⟨.rdn, 1, .reg 2⟩) := by decide

theorem test_words_memory :
    decode 0x700003040000000000603FF8 = .ok (.ld ⟨0, false, 0⟩ ⟨.sw, 3, ⟨4, ⟨.none, .none, 0⟩⟩, -8⟩) ∧
    decode 0x710000040000100000300008 = .ok (.st ⟨0, false, 0⟩ ⟨.d, ⟨4, ⟨.none, .none, 0⟩⟩, 8, .reg ⟨1, ⟨.none, .none, 0⟩⟩⟩) ∧
    decode 0x720005060000000000901FFF = .ok (.ldf ⟨0, false, 0⟩ ⟨.f32, 5, ⟨6, ⟨.none, .none, 0⟩⟩, 8191⟩) ∧
    decode 0x740000040004200001902000 = .ok (.stsv ⟨0, false, 0⟩ ⟨.f32, ⟨4, ⟨.none, .none, 0⟩⟩, -8192, ⟨2, ⟨.none, 0, 0⟩⟩⟩) ∧
    decode 0x750043040004200001200000 = .ok (.vscatter ⟨0, false, 0⟩ ⟨.w, ⟨4, ⟨.none, .none, 0⟩⟩, 0, ⟨2, ⟨.none, 0, 0⟩⟩, 3⟩) ∧
    decode 0x760000040000000001000040 = .ok (.pfh ⟨0, false, 0⟩ ⟨⟨4, ⟨.none, .none, 0⟩⟩, 64⟩) ∧
    decode 0x770003040000100080330000 = .ok (.amoSwap ⟨0, false, 0⟩ ⟨true, .d, 3, ⟨4, ⟨.none, .none, 0⟩⟩, 0, .reg ⟨1, ⟨.none, .none, 0⟩⟩, 12⟩) ∧
    decode 0x780000040004200011900000 = .ok (.redAdd ⟨0, false, 0⟩ ⟨.f32, ⟨4, ⟨.none, .none, 0⟩⟩, 0, .v ⟨2, ⟨.none, 0, 0⟩⟩⟩) ∧
    decode 0x790003050000000009300600 = .ok (.amove ⟨0, false, 0⟩ ⟨.d, 3, ⟨5, ⟨.none, .none, 0⟩⟩, 6, 0⟩) ∧
    decode 0x7A0000000000000002014000 = .ok (.fenceFull ⟨0, false, 0⟩ ⟨5⟩) := by decide

theorem test_words_engine :
    decode 0x9100096A0000000000000000 = .ok (.htest ⟨0, false, 0⟩ ⟨9, 2⟩) ∧
    decode 0x9100006A0000400001050000 = .ok (.hpass ⟨0, false, 0⟩ ⟨2, ⟨4, ⟨.none, .none, 0⟩⟩, 5⟩) ∧
    decode 0xA1000000000000000000002A = .ok (.trap ⟨0, false, 0⟩ ⟨0x2A⟩) ∧
    decode 0xA10000000000000001000000 = .ok (.halt ⟨0, false, 0⟩) ∧
    decode 0xA30007000000000000000000 = .ok (.snap ⟨0, false, 0⟩ ⟨7⟩) ∧
    decode 0xA30007080000900001000000 = .ok (.mseal ⟨0, false, 0⟩ ⟨7, ⟨8, ⟨.none, .none, 0⟩⟩, ⟨9, ⟨.none, .none, 0⟩⟩⟩) := by decide

/-- Unassigned words are refused by name (R187, R188): a reserved major, an unassigned minor, a reserved field, a type,
a rounding code, a register file, a specifier, a modifier, a target slot, a `nop` field; of two reasons the lower. -/
theorem test_refusedWords :
    decode 0xFFFFFFFFFFFFFFFFFFFFFFFF = .error .reservedMajor ∧ decode 0x110001020000300030007000 = .error .unassignedMinor ∧
    decode 0x110001020000300030000001 = .error .reservedField ∧ decode 0x110001020000300090000000 = .error .typeCode ∧
    decode 0x110001020000300030000200 = .error .roundingCode ∧ decode 0x110001420000300030000000 = .error .registerFile ∧
    decode 0x1100017A0000300030000000 = .error .specifier ∧ decode 0x110001022000300030000000 = .error .modifier ∧
    decode 0x300000000000000000000005 = .error .targetSlot ∧ decode 0x000000010000000000000000 = .error .nopField ∧
    decode 0x110001420000300090000000 = .error .typeCode := by decide

/-- The table's numbering: bit 0 is the lowest bit of the first byte; a refused word is none. -/
theorem test_tableWord : decodeTableWord 96 0x10000102000FD00060000000 = some (.add hd ⟨.sw, 1, rg 2, .imm (-3)⟩) ∧
    decodeTableWord 96 0xFFFFFFFFFFFFFFFFFFFFFFFF = none := by decide

/-- The encoder writes the words of the spec; a step without an encoding has none (witness for `DecodeOfEncode` and
`EncodeOfDecode`). -/
theorem test_encode : (Instr.add hd ⟨.sw, 1, rg 2, .imm (-3)⟩).wellFormed = true ∧
    encode (.add hd ⟨.sw, 1, rg 2, .imm (-3)⟩) = some 0x10000102000FD00060000000 ∧
    encode (.vbfpe ⟨3, false, 0⟩ ⟨.bfp8, .rne, 8, 4, g 5⟩) = some 0x4D30484400005000E0001200 ∧
    encode (.tlbwr hd ⟨9, 10, 11, 2, 0, 5⟩) = some 0xA200090A0000B00004000805 ∧ encode (.evMeterList) = none := by decide

/-! ### Fetch, faults, moves of immediates, integer instructions -/

/-- One group of one slot, `add.d g3, g3, 100`, is fetched and executed (witness for `StepRunsDecoded` and
`GroupsHoldDecodedSlots`). -/
theorem test_stepRunsWord :
    let s := (solo [(3, 5)]).withFetchWord 96 0x200003030000030000000064
    let i := Instr.addImm hd ⟨.d, 3, rg 3, 100⟩
    s.agenda = [] ∧ s.issues s.th = true ∧ s.th.grp = none ∧ gangRole s.th ≠ 2 ∧ s.th.sr.ctl = 0 ∧ s.th.sig = none ∧
    s.fetchAbsent s.th = none ∧ slotOf s.th.pc < 5 ∧
    (match s.fetchLine s.th s.th.pc with
      | .ok line =>
        let k := slotOf s.th.pc
        decide (groupLast (lineStops (lineWord line)) k = k ∧ lineParityBad (lineWord line) = false ∧
          slotParityBad line k = false ∧ lineReason (lineWord line) = none ∧
          decode (BitVec.ofNat 96 (slotWord line k)) = .ok i)
      | .error _ => false) = true ∧
    ¬ (majorOf 0x200003030000030000000064 = 0xA2) ∧ groupFault [i] = none ∧ s.th.interlocked i = false ∧
    Machine.Instr.checks i s.th = none ∧
    (match s.groupAt s.th with
      | .ok g => g.first == 0x100 && g.rest.map SlotInstr.i == [i]
      | .error _ => false) = true ∧
    yes (step s) (fun t => t.th.regs.rg 3 == 105 && t.th.pc == 0x10C) = true := by decide +kernel
/-- A branch to a line without targets stops its group (R188). -/
theorem test_illegalTarget :
    let s := (solo []).withFetchWord 96 0x300000000000000000000008
    let i := Instr.br hd ⟨1, 0⟩
    s.issues s.th = true ∧ s.fetchAbsent s.th = none ∧ decode 0x300000000000000000000008 = .ok i ∧
    s.agenda = [] ∧ s.th.grp = none ∧ gangRole s.th ≠ 2 ∧ s.th.sr.ctl = 0 ∧ s.th.sig = none ∧
    (match s.fetchLine s.th s.th.pc with
      | .ok line => groupLast (lineStops (lineWord line)) 4 == 4 && !lineParityBad (lineWord line) && !slotParityBad line 4
      | .error _ => false) = true ∧ slotOf s.th.pc = 0 ∧
    s.th.interlocked i = false ∧ Machine.Instr.checks i s.th = some 0x140 ∧ s.targetOk s.th 0x140 = false ∧
    yes (step s) (fun t => t.th.sr.tcause == 0x02 && t.th.sr.taddr == 0x140 && t.th.sr.tpc == 0x100) = true := by decide +kernel
/-- The second slot of a group executes. -/
theorem test_stepRunsNextSlot :
    let i := Instr.addImm hd ⟨.d, 3, rg 3, 100⟩
    let s := upd (solo [(3, 5)]) fun c => { c with pc := 0x10C, grp := some ⟨0x100, [], [⟨0x10C, 0, i⟩], 0x118, 0, false, none, false⟩ }
    s.agenda = [] ∧ s.issues s.th = true ∧ s.th.sig = none ∧ s.th.interlocked i = false ∧
    yes (step s) (fun t => t.th.regs.rg 3 == 105 && t.th.pc == 0x118 && t.th.grp.all fun g => g.rest.isEmpty) = true := by decide
/-- A privileged word in a user context (R300). -/
theorem test_privilegedWord : slotMajor 0xA200090A0000B00004000805 = 0xA2 ∧
    (match decodeSlot .user 0x100 (0xA200090A0000B00004000805 : Nat) with
      | .error t => t.cause == 0x05 && t.addr == 0xA204
      | .ok _ => false) = true ∧
    yes (step ((solo []).withFetchWord 96 0xA200090A0000B00004000805)) (fun t => t.th.sr.tcause == 0x05 &&
      t.th.sr.taddr == 0xA204 && t.th.sr.tpc == 0x100) = true := by decide +kernel
/-- `trap` at a code (R216, R328). -/
theorem test_trap : predOn hd (solo []).th.regs = true ∧
    yes (exec (.trap hd ⟨0xFFF⟩) (solo [(5, 7)])) (fun t => t.th.sr.tcause == 0x06 && t.th.sr.taddr == 0xFFF &&
      t.th.sr.tpc == 0x100 && decide (t.th.status = .parked .supervisor) && t.th.regs.rg 5 == 7) = true := by decide
theorem test_faultDetail :
    yes (faultOut (solo []) ⟨0xFFFF, 0xFFFF, 1⟩) (fun t => t.th.sr.tcause == 0xFFFFFFFF) = true := by decide
theorem test_nop : majorOf 0x00F000000000000000000000 = 0 ∧
    decode 0x00F000000000000000000000 = .ok (.nop ⟨15, false, 0⟩) ∧
    yes (exec (.nop hd) (solo [])) (fun t => t.th.pc == 0x10C) = true := by decide
/-- Worked by hand from R205 and R206: the constant 0x01_0000_2000_0000 and sign extensions. -/
theorem test_immediateMoves :
    g1 (exec (.movi hd ⟨1, 0x80000000⟩) (solo [])) = 0xFFFFFFFF80000000 ∧
    g1 (exec (.movzi hd ⟨1, 0x80000000⟩) (solo [])) = 0x80000000 ∧
    g1 (exec (.movhi hd ⟨1, 0x10000⟩) (solo [(1, 0x20000000)])) = 0x01000020000000 ∧
    (Instr.leai hd ⟨.d, 1, rg 2, 0xFFFFFFFF⟩).wellFormed = true ∧
    g1 (exec (.leai hd ⟨.d, 1, rg 2, 0xFFFFFFFF⟩) (solo [(2, 0)])) = 2 ^ 64 - 1 ∧
    g1 (exec (.leapc hd ⟨1, 0xFFFFFFF0⟩) (solo [])) = 0xF0 ∧ majorOf 0x240004000000230000010000 = 0x24 ∧
    decode 0x240004000000230000010000 = .ok (.movhi hd ⟨4, 0x10000⟩) := by decide
/-- A canonical memory (witness for `StepKeepsCanonical`). -/
theorem test_canonical : ({ State.reset with mem := [⟨5, 1⟩] } : State).mem.wf = true ∧
    ({ State.reset with mem := [⟨5, 0⟩] } : State).mem.wf = false ∧
    yes (step ((solo []).withFetchWord 96 0)) (fun t => t.mem.wf) = true := by decide +kernel

/-- a = -7, b = 3 as signed words, worked by hand (R194 to R202). -/
theorem test_twoSource : (twoSource.map fun p => g1 (exec (p.1 hd ⟨.sw, 1, rg 2, rg 3⟩) (solo [(2, int (-7)), (3, 3)]))) =
    [int (-4), int (-10), 1, int (-5), int (-6), int (-8), int (-3), 5, int (-56), 0x1FFFFFFF, int (-1), int (-49), 0x3FFFFFFF,
     int (-21), int (-1), int (-2), int (-1), int (-7), 3, 0] ∧
    (twoSource.all fun p => (p.1 hd ⟨.sw, 1, rg 2, rg 3⟩).wellFormed) = true := by decide
/-- The corners of R196, R198 and R201: a shift by w, division by 0 and of the least number, a field. -/
theorem test_integerCorners :
    g1 (exec (.shl hd ⟨.b, 1, rg 2, .imm 8⟩) (solo [(2, 0x1FF)])) = 0xFF ∧
    g1 (exec (.div hd ⟨.w, 1, rg 2, rg 0⟩) (solo [(2, 9)])) = 0xFFFFFFFF ∧
    g1 (exec (.rem hd ⟨.sw, 1, rg 2, rg 0⟩) (solo [(2, int (-9))])) = int (-9) ∧
    g1 (exec (.div hd ⟨.sw, 1, rg 2, .imm (-1)⟩) (solo [(2, 0x80000000)])) = int (-0x80000000) ∧
    g1 (exec (.rem hd ⟨.sw, 1, rg 2, .imm (-1)⟩) (solo [(2, 0x80000000)])) = 0 ∧
    g1 (exec (.bext hd ⟨.sw, 1, rg 2, rg 3⟩) (solo [(2, 0x80000000), (3, 0x0118 + 7)])) = int (-1) ∧
    g1 (exec (.add hd ⟨.d, 0, rg 2, rg 2⟩) (solo [(2, 9)])) = 0 := by decide
/-- a = 6, the immediate -1, read as 16-bit numbers (R204). -/
theorem test_immediate : (immediate.map fun p =>
      g1 (exec (p.1 hd ⟨if (p.1 hd ⟨.h, 1, rg 2, 0⟩).wellFormed then .h else .d, 1, rg 2, 0xFFFFFFFF⟩) (solo [(2, 6)]))) =
    [5, 7, 0xFFF9, 6, 0xFFFF, 0xFFF9, 0, 6, 6, 0, 0, 0, 3, 12, 5] := by decide
/-- a = 0x0102, read as 16-bit numbers (R194, R195, R201). -/
theorem test_oneSource : (oneSource.map fun p => g1 (exec (p.1 hd ⟨.sh, 1, rg 2⟩) (solo [(2, 0x0102)]))) =
    [int (-0x0102), 0x0102, int (-0x0103), 2, 7, 1, 0x4080, 0x0201] := by decide
/-- a = 9, b = 0x0201, c = 5 (R194, R197, R200 to R203); the field at bit 1 of 2 bits becomes 01. -/
theorem test_threeSource : (threeSource.map fun p => g1 (exec (p.1 hd ⟨.d, 1, rg 2, rg 3, 4⟩)
      (solo [(2, 9), (3, 0x0201), (4, 5)]))) = [9 + 0x201 + 5, 9 * 0x201 + 5, 0x201, 5, 9 + 0x201 + 5, 11] := by decide
/-- The slice of frame cell index 0x1935 (R203), the ends of the ranges, `sel` with m1 clear and with m0. -/
theorem test_scalarMoves :
    g1 (exec (.lslice hd ⟨.d, 1, rg 2, rg 0⟩) (solo [(2, 0x1935)])) = 0x2326A0000 ∧
    g1 (exec (.lslice hd ⟨.d, 1, rg 2, rg 3⟩) (solo [(2, 8191), (3, 0x20000)])) = 0xFF00000000000000 ∧
    g1 (exec (.lcell hd ⟨.d, 1, rg 2, rg 3⟩) (solo [(2, 8191), (3, 0xFFFF)])) = 0x11FFFFFFF ∧
    g1 (exec (.lcell hd ⟨.d, 1, rg 2, rg 0⟩) (solo [(2, 8192)])) = 0xFF00000000000000 ∧
    (Instr.sel hd ⟨.sb, 1, rg 2, rg 3, 1⟩).wellFormed = true ∧
    g1 (exec (.sel hd ⟨.sb, 1, rg 2, rg 3, 0⟩) (solo [(2, 0xFF), (3, 2)])) = int (-1) ∧
    g1 (exec (.sel hd ⟨.sb, 1, rg 2, rg 3, 1⟩) (upd (solo [(2, 0xFF), (3, 2)]) fun c => { c with regs := c.regs.wm 1 0xFFFFFFFE }))
      = 2 := by decide
/-- a = -1 against 1, signed and unsigned, and the immediate 1 (R199, R204). -/
theorem test_relations :
    (relations.map fun p => m1 (exec (p.1 hd ⟨.sw, 1, rg 2, rg 3⟩) (solo [(2, int (-1)), (3, 1)])) / 0xFFFFFFFF) =
      [0, 1, 1, 1, 0, 0, 1, 0] ∧
    (relations.map fun p => m1 (exec (p.2.1 hd ⟨.w, 1, rg 2, 1⟩) (solo [(2, int (-1))])) / 0xFFFFFFFF) =
      [0, 1, 0, 0, 1, 1, 1, 0] ∧
    (relations.all fun p => (p.1 hd ⟨.sw, 1, rg 2, rg 3⟩).wellFormed && (p.2.1 hd ⟨.w, 1, rg 2, 1⟩).wellFormed) = true := by decide
/-- Saturation at both ends of 8 bits, with sr.fpstat.sv (R194). -/
theorem test_saturating :
    (saturating.map fun p => g1 (exec (p.1 hd ⟨.sb, 1, rg 2, rg 3⟩) (solo [(2, 127), (3, int (-1))]))) = [126, 127] ∧
    (saturating.map fun p => g1 (exec (p.2.1 hd ⟨.b, 1, rg 2, 1⟩) (solo [(2, 0)]))) = [1, 0] ∧
    yes (exec (.subs hd ⟨.b, 1, rg 0, rg 3⟩) (solo [(3, 1)])) (fun t => t.th.sr.fpstat == 0x20) = true ∧
    yes (exec (.adds hd ⟨.b, 1, rg 0, rg 3⟩) (solo [(3, 1)])) (fun t => t.th.sr.fpstat == 0) = true := by decide

/-! ### Control transfers and state registers -/

/-- Branches at a = 0, -1 and 1, taken to slot 4 of the next line, not taken, and to a slot that begins no group (R207,
R208). -/
theorem test_branches :
    ([Instr.bz hd ⟨g 2, ⟨1, 4⟩⟩, .bnz hd ⟨g 2, ⟨1, 4⟩⟩, .blz hd ⟨g 2, ⟨1, 4⟩⟩, .bgez hd ⟨g 2, ⟨1, 4⟩⟩].map fun i =>
      ([0, 2 ^ 64 - 1, 1] : List Nat).map fun (x : Nat) => pcOf (exec i (marked [(2, BitVec.ofNat 64 x)]))) =
    [[0x170, 0x10C, 0x10C], [0x10C, 0x170, 0x170], [0x10C, 0x170, 0x10C], [0x170, 0x10C, 0x170]] ∧
    (marked []).targetOk (marked []).th 0x170 = true ∧ (solo []).targetOk (solo []).th 0x170 = false ∧
    pcOf (exec (.br hd ⟨1, 0⟩) (marked [])) = 0x140 ∧ pcOf (exec (.br hdOff ⟨1, 0⟩) (solo [])) = 0x10C ∧
    predOn hdOff (solo []).th.regs = false ∧
    stop (exec (.br hd ⟨1, 0⟩) (solo [])) = some (0x02, 0, 0x140) ∧
    stop (exec (.bz hd ⟨g 2, ⟨-1, 0⟩⟩) (solo [])) = some (0x02, 0, 0xC0) := by decide
/-- Calls leave the next group in lk; `ret` and `jr` go where their register says (R208, R209). -/
theorem test_jumps :
    let s := upd (marked [(2, 0x14C), (63, 0x158)]) fun c => { c with grp := some ⟨0x100, [], [], 0x10C, 0, false, none, false⟩ }
    yes (exec (.call hd ⟨1, 0⟩) s) (fun t => t.th.pc == 0x140 && t.th.regs.rg 63 == 0x10C) = true ∧
    yes (exec (.callr hd ⟨g 2⟩) s) (fun t => t.th.pc == 0x14C && t.th.regs.rg 63 == 0x10C) = true ∧
    yes (exec (.jr hd ⟨g 2⟩) s) (fun t => t.th.pc == 0x14C && t.th.regs.rg 63 == 0x158) = true ∧
    pcOf (exec (.ret hd) s) = 0x158 ∧ s.targetOk s.th 0x14C = true ∧ s.targetOk s.th (s.th.regs.rg 63) = true ∧
    s.targetOk s.th 0x141 = false ∧ stop (exec (.jr hd ⟨g 2⟩) (marked [(2, 0x141)])) = some (0x02, 0, 0x141) ∧
    stop (exec (.callr hd ⟨g 2⟩) (marked [(2, 2 ^ 56)])) = some (0x02, 0, 2 ^ 56) := by decide +kernel
/-- A loop of count 1 and 0, a fifth level, an exit that is not behind the loop, and `lbrk` (R210 to R212). -/
theorem test_loops :
    let l : LoopLevel := ⟨0x100, 0x140, 1⟩
    let four := fun (s : State) => upd s fun c => { c with loops := [l, l, l, l] }
    (marked []).targetOk (marked []).th (target (marked []).th ⟨1, 0⟩) = true ∧
    yes (exec (.loop hd ⟨rg 2, ⟨1, 0⟩⟩) (marked [(2, 0x100000001)])) (fun t => t.th.pc == 0x10C && t.th.loops == [⟨0x10C, 0x140, 1⟩]) =
      true ∧
    yes (exec (.loop hd ⟨rg 0, ⟨1, 0⟩⟩) (marked [])) (fun t => t.th.pc == 0x140 && t.th.loops == []) = true ∧
    stop (exec (.loop hd ⟨.imm 1, ⟨1, 0⟩⟩) (four (marked []))) = some (0x1C, 1, 1) ∧
    stop (exec (.loop hd ⟨.imm 1, ⟨1, 0⟩⟩) (upd (marked []) fun c => { c with pc := 0x170 })) = some (0x02, 0, 0x180) ∧
    stop (exec (.loop hd ⟨.imm 1, ⟨0, 0⟩⟩) (upd (marked []) fun c => { c with pc := 0x158 })) = some (0x1C, 2, 2) ∧
    stop (exec (.lbrk hd) (marked [])) = some (0x1C, 3, 3) ∧
    yes (exec (.lbrk hd) (four (marked []))) (fun t => t.th.pc == 0x140 && t.th.loops.length == 3) = true := by decide
/-- The end test counts down, pops levels whose count is over, and repeats (R211). -/
theorem test_endTest :
    endTest [⟨0x100, 0x140, 2⟩] 0x140 = ([⟨0x100, 0x140, 1⟩], 0x100) ∧
    endTest [⟨0x100, 0x140, 1⟩, ⟨0xC0, 0x140, 2⟩] 0x140 = ([⟨0xC0, 0x140, 1⟩], 0xC0) ∧
    endTest [⟨0x100, 0x140, 1⟩] 0x140 = ([], 0x140) ∧ endTest [⟨0x100, 0x140, 1⟩] 0x14C = ([⟨0x100, 0x140, 1⟩], 0x14C) := by
  decide
/-- `halt` drained and not, with a predicate that is off (R216). -/
theorem test_halt :
    (solo []).th.drained = true ∧ (solo []).th.pend = [] ∧
    yes (exec (.halt hd) (solo [])) (fun t => t.th.ended) = true ∧
    (let s := upd (solo []) fun c => { c with mq := { c.mq with outs := [⟨1, .cell 0, true, false⟩] } }
     s.th.drained = false ∧ yes (exec (.halt hd) s) (fun t => decide (t.th.status = .parked .drain)) = true) ∧
    yes (exec (.halt hdOff) (solo [])) (fun t => !t.th.ended && t.th.pc == 0x10C) = true := by decide
/-- A leader alone, a leader whose follower left, a follower that detaches, a solo context (R49, R50, R213). -/
theorem test_gangs :
    let lead := fun (k : Nat) (j : Bool) => { upd (solo []) (·.setRole 1) with
      pool := [({ Ctx.reset with cid := 2, place := .user 1, gang := ⟨some 1, [], j⟩ } : Ctx).setRole k] }
    gangRole (lead 3 true).th = 1 ∧ ((lead 3 true).looseFollowers 1).length = 1 ∧
    yes (exec (.gjoin hd) (lead 3 true)) (fun t => t.th.pc == 0x10C && t.pool.all fun c => gangRole c == 2) = true ∧
    yes (exec (.gjoin hd) (lead 3 false)) (fun t => decide (t.th.status = .parked .gang)) = true ∧
    gangRole (solo []).th = 0 ∧ pcOf (exec (.gjoin hd) (solo [])) = 0x10C ∧ pcOf (exec (.gdet hd) (solo [])) = 0x10C ∧
    yes (exec (.gdet hd) (upd (solo []) (·.setRole 2))) (fun t => gangRole t.th == 3) = true := by decide
/-- Reads of state registers: sr.reftime and sr.ncyc at 10 ns, sr.coord of cell 0, sr.loop, sr.mprog, sr.fpstat (R186). -/
theorem test_srReads :
    let s := { upd (solo []) fun c => { c with
      loops := [⟨0, 0, 7⟩], mat := { c.mat with koff := 3 }, sr := { c.sr with fpstat := 5 } } with now := 10 }
    s.th.flagsOpen = false ∧ s.th.matrixForked = false ∧ s.th.place = .user 0 ∧
    ([0x01A, 0x019, 0x009, 0x025, 0x023, 0x002, 0x001].map fun (n : BitVec 12) => g1 (exec (.srrd hd ⟨1, n⟩) s)) =
      [10, 18, 0, 7 * 2 ^ 32 + 1, 96, 5, 1] := by decide
/-- Writes: sr.fpctl at 0x106, a reserved rounding mode, flags cleared by 1, a register that ignores the write, sr.mprog
(R120, R186, R215). -/
theorem test_srWrites :
    yes (exec (.srwri hd ⟨0x001, 0x106⟩) (solo [])) (fun t => t.th.sr.fpctl == 0x106) = true ∧
    yes (exec (.srwri hd ⟨0x001, 0x107⟩) (solo [])) (fun t => t.th.sr.fpctl == 0x101) = true ∧
    yes (exec (.srwri hd ⟨0x002, 0xFFF⟩) (upd (solo []) fun c => { c with sr := { c.sr with fpstat := 0x1FF } }))
      (fun t => t.th.sr.fpstat == 0x1C0) = true ∧
    yes (exec (.srwr hd ⟨0x01A, rg 2⟩) (solo [(2, 9)])) (fun t => t.th.pc == 0x10C && t.now == 0) = true ∧
    yes (exec (.srwr hd ⟨0x003, rg 2⟩) (solo [(2, 9)])) (fun t => t.th.sr.srctr == 9) = true ∧
    yes (exec (.srwri hd ⟨0x023, 64⟩) (solo [])) (fun t => t.th.mat.koff == 2) = true ∧
    (solo []).th.matrixForked = false ∧ stop (exec (.srwri hd ⟨0x800, 0⟩) (solo [])) = some (0x05, 0, 0x800) ∧
    stop (exec (.srrd hd ⟨1, 0xFFF⟩) (solo [])) = some (0x05, 0, 0xFFF) ∧
    stop (exec (.srwr hd ⟨0x840, rg 1⟩) (solo [])) = some (0x05, 0, 0x840) := by decide

/-! ### Lanes, masks, floating point -/

/-- a = -7 in lane 0, b = 3 (R219, R220); lane 1 is not active and keeps its value. -/
theorem test_laneForms :
    (laneForms.map fun p => (v1 .w (exec (p.1 byM1 ⟨.sw, 1, rv 2, .imm 3⟩) (vec [w32 (-7), 9] someLanes))).take 2) =
    ([-4, -10, -21, -1, -7, 3, 1, -5, -6, -8, -56, 0x1FFFFFFF, -1].map fun x => [w32 x, 0]) ∧
    (laneForms.all fun p => (p.1 byM1 ⟨.sw, 1, rv 2, .imm 3⟩).wellFormed) = true := by decide +kernel
theorem test_laneUnary :
    (laneUnary.map fun p =>
      (v1 .w (exec (p.1 hd ⟨if (p.1 hd ⟨.sw, 1, rv 2⟩).wellFormed then .sw else .w, 1, rv 2⟩) (vec [w32 (-7), 9] 0))).take 2) =
    [[7, w32 (-9)], [7, 9], [6, w32 (-10)], [w32 (-7), 9]] := by decide
/-- `vmad`, `vsel`, the broadcasts (R219, R221, R223). -/
theorem test_laneMoves :
    (Instr.vmad hd ⟨.w, 1, rv 2, .imm 3, 2⟩).wellFormed = true ∧
    (v1 .w (exec (.vmad hd ⟨.w, 1, rv 2, .imm 3, 2⟩) (vec [7, 9] 0))).take 2 = [28, 36] ∧
    (Instr.vsel hd ⟨.w, 1, rv 2, .imm 0, 1⟩).wellFormed = true ∧
    (v1 .w (exec (.vsel hd ⟨.w, 1, rv 2, .imm 1, 1⟩) (vec [7, 8, 9] someLanes))).take 3 = [7, 1, 9] ∧
    (Instr.vbcsti hd ⟨.f16, 1, 0xFFFF3C00⟩).wellFormed = true ∧
    (v1 .h (exec (.vbcsti hd ⟨.f16, 1, 0xFFFF3C00⟩) (solo []))).take 2 = [0x3C00, 0x3C00] ∧
    v1 .d (exec (.vbcsti hd ⟨.sd, 1, 0x80000000⟩) (solo [])) = List.replicate 4 0xFFFFFFFF80000000 ∧
    (Instr.vbcst hd ⟨.b, 1, 2⟩).wellFormed = true ∧
    v1 .b (exec (.vbcst hd ⟨.b, 1, 2⟩) (solo [(2, 0x1FE)])) = List.replicate 32 0xFE := by decide
/-- Saturating lanes clamp at both ends; only an active lane that clamps sets sr.fpstat.sv (R219). -/
theorem test_laneSat :
    (laneSat.map fun p => (v1 .w (exec (p.1 byM1 ⟨.sw, 1, rv 2, .imm 1⟩) (vec [0x7FFFFFFF, 0, 0x80000000] someLanes))).take 3) =
      [[0x7FFFFFFF, 0, 0x80000001], [0x7FFFFFFE, 0, 0x80000000]] ∧
    yes (exec (.vadds byM1 ⟨.sw, 1, rv 2, .imm 1⟩) (vec [0x7FFFFFFF] someLanes)) (fun t => t.th.sr.fpstat == 0x20) = true ∧
    yes (exec (.vadds byM1 ⟨.sw, 1, rv 2, .imm 1⟩) (vec [0, 0x7FFFFFFF] someLanes)) (fun t => t.th.sr.fpstat == 0) = true := by
  decide
/-- Source modifiers: the butterfly of the worked encoding, a rotation by S - 1, a broadcast, an extension before a shift
(R168, R169). -/
theorem test_modifiers :
    let R := (vec [10, 11, 12, 13, 14, 15, 16, 17] 0).th.regs
    (R.vs .w (.reg ⟨2, ⟨.bfly, 2, 1⟩⟩)) = [11, 10, 13, 12, 15, 14, 17, 16] ∧
    (R.vs .w (.reg ⟨2, ⟨.rot, 3, 7⟩⟩)) = [17, 10, 11, 12, 13, 14, 15, 16] ∧
    (R.vs .w (.reg ⟨2, ⟨.bcast, 1, 1⟩⟩)) = [11, 11, 13, 13, 15, 15, 17, 17] ∧
    (⟨2, ⟨.rot, 3, 7⟩⟩ : VReg).ok 8 = true ∧
    (solo [(2, 0x1FF)]).th.regs.gs (.reg ⟨2, ⟨.shl, .sx8, 63⟩⟩) = 0x8000000000000000 ∧
    (solo [(2, 0x80000000)]).th.regs.gs (.reg ⟨2, ⟨.sar, .sx32, 31⟩⟩) = 0xFFFFFFFFFFFFFFFF := by decide
/-- Integer and floating lane compares at equal, smaller and inactive lanes; m1 keeps the bits of inactive lanes (R221). -/
theorem test_laneCompares :
    (laneRelations.map fun p => m1 (exec (p.1 hd ⟨.sw, 1, rv 2, .imm 3⟩) (vec [w32 (-1), 3] 0)) % 256) =
      [0xF0, 0x0F, 0x0F, 0xFF, 0x00, 0xF0] ∧
    (laneRelations.map fun p => m1 (exec (p.1 byM1 ⟨.f32, 1, rv 2, rv 2⟩) (vec [0x7FC00000, 0] 0x1)) % 256) =
      [0, 0x0F, 0, 0, 0, 0] ∧
    yes (exec (.vclt hd ⟨.f32, 1, rv 2, rv 2⟩) (vec [0x7F800001] 0)) (fun t => t.th.sr.fpstat == 0x10) = true := by decide
/-- Masks (R222). -/
theorem test_masks :
    let s := upd (solo [(2, 0x1F0F0F0F0)]) fun c => { c with regs := (c.regs.wm 2 0xFF00).wm 3 0xF0F0 }
    ([Instr.mand hd ⟨1, 2, 3⟩, .mor hd ⟨1, 2, 3⟩, .mxor hd ⟨1, 2, 3⟩, .mandn hd ⟨1, 2, 3⟩, .mnot hd ⟨1, 2⟩,
      .mfromg hd ⟨1, g 2⟩].map fun i => m1 (exec i s)) = [0xF000, 0xFFF0, 0x0FF0, 0x0F00, 0xFFFF00FF, 0xF0F0F0F0] ∧
    ([Instr.mpopc hd ⟨1, 2⟩, .mfirst hd ⟨1, 2⟩, .mfirst hd ⟨1, 4⟩, .mtog hd ⟨1, 3⟩].map fun i =>
      g1 (exec i (upd s fun c => { c with regs := c.regs.wm 4 0 }))) = [8, 8, 32, 0xF0F0] := by decide
/-- Permutations of the lanes 10 to 17 with b = 1 (R232); `vperm` with a rotation, as in its example. -/
theorem test_permutations :
    let s := vec [10, 11, 12, 13, 14, 15, 16, 17] 0
    (permutations.map fun p => v1 .w (exec (p.1 hd ⟨.w, 1, rv 2, .imm 1⟩) s)) =
      [[11, 11, 11, 11, 11, 11, 11, 11], [10, 1, 11, 1, 12, 1, 13, 1], [14, 1, 15, 1, 16, 1, 17, 1],
       [10, 12, 14, 16, 1, 1, 1, 1], [11, 13, 15, 17, 1, 1, 1, 1]] ∧
    v1 .w (exec (.vperm2 hd ⟨.w, 1, rv 2, .imm 9, 2⟩) s) = List.replicate 8 11 ∧
    v1 .w (exec (.vslide hd ⟨.w, 1, rv 2, .imm 9, 2⟩) s) = [11, 12, 13, 14, 15, 16, 17, 10] ∧
    v1 .w (exec (.vperm hd ⟨.w, 1, .reg ⟨2, ⟨.rot, 3, 1⟩⟩, .imm 0⟩) s) = List.replicate 8 11 := by decide
/-- Single lanes: the index is taken modulo the lanes (R235); random words are functions of their operands (R234). -/
theorem test_laneNumbers :
    let s := upd (vec [10, 11] 0) fun c => { c with regs := c.regs.wg 3 0x1FFFFFFFF }
    (Instr.vins hd ⟨.w, 2, g 3, .imm 9⟩).wellFormed = true ∧ (Instr.vext hd ⟨.w, 1, v 2, .imm 9⟩).wellFormed = true ∧
    yes (exec (.vins hd ⟨.w, 2, g 3, .imm 9⟩) s) (fun t => got t.th 0x42 % 2 ^ 96 == 10 + 0xFFFFFFFF * 2 ^ 32) = true ∧
    g1 (exec (.vext hd ⟨.w, 1, v 2, .imm 9⟩) s) = 11 ∧
    g1 (exec (.rng hd ⟨1, rg 3, .imm 1⟩) s) = (v1 .d (exec (.vrng hd ⟨1, rg 3, rg 0⟩) s)).getD 1 0 := by decide

/-- Floating lanes 2.0 and -1.5 against 1.0 in RNE (R218, R224). -/
theorem test_floatBinary :
    (floatBinary.map fun p => (v1 .w (exec (p.1 hd ⟨.f32, .rne, 1, rv 2, rv 3⟩)
      (lanes [] [(2, 0xBFC0000040000000), (3, 0x3F8000003F800000)]))).take 2) =
      [[0x40400000, 0xBF000000], [0x3F800000, 0xC0200000], [0x40000000, 0xBFC00000], [0x40000000, 0xBFC00000]] ∧
    (floatBinary.map fun p => g1 (exec (p.2.2.1 hd ⟨.rne, 1, .reg 2, .reg 3⟩)
      (solo [(2, 0x4000000000000000), (3, 0x3FF8000000000000)]))) =
      [0x400C000000000000, 0x3FE0000000000000, 0x4008000000000000, 0x3FF5555555555555] := by decide +kernel
/-- An enabled exception: 1 / 0 with DZ enabled stops on the FP trap and writes nothing (R123). -/
theorem test_floatTrap :
    let s := upd (solo [(2, 0x3FF0000000000000), (1, 7)]) fun c => { c with sr := { c.sr with fpctl := 0x81 } }
    let o := exec (.fdiv hd ⟨.rne, 1, .reg 2, .reg 0⟩) s
    fpEnables s.th.sr ≠ 0 ∧ (stop o).map Prod.fst = some 0x1B ∧
    yes o (fun t => t.th.regs.rg 1 == 7 && t.th.sr.fpstat == 0x0808) = true := by decide +kernel
/-- 2 × 3 ± 1 and its negations (R225, R238). -/
theorem test_fused :
    (floatFused.map fun p => g1 (exec (p.2.1 hd ⟨.rne, 1, .reg 2, .reg 3, 4⟩)
      (solo [(2, 0x4000000000000000), (3, 0x4008000000000000), (4, 0x3FF0000000000000)]))) =
      [0x401C000000000000, 0x4014000000000000, 0xC014000000000000, 0xC01C000000000000] ∧
    (floatFused.map fun p => (v1 .w (exec (p.1 hd ⟨.f32, .rne, 1, rv 2, rv 3, 4⟩)
      (lanes [] [(2, 0x40000000), (3, 0x40400000), (4, 0x3F800000)]))).take 1) =
      [[0x40E00000], [0x40A00000], [0xC0A00000], [0xC0E00000]] := by decide +kernel
/-- Minima and maxima of +0 and -0, of a quiet NaN and a number; sign forms of a NaN (R113, R224). -/
theorem test_minMaxSign :
    (floatMinMax.map fun p => (v1 .w (exec (p.1 hd ⟨.f32, .dyn, 1, rv 2, rv 3⟩)
      (lanes [] [(2, 0x7FC0000000000000), (3, 0x3F80000080000000)]))).take 2) =
      [[0x80000000, 0x7FC00000], [0, 0x7FC00000]] ∧
    (floatSign.map fun p => (v1 .w (exec (p.1 hd ⟨.f32, .dyn, 1, rv 2⟩) (vec [0xFFC00001] 0))).take 1) =
      [[0x7FC00001], [0x7FC00001]] ∧
    (floatSign.map fun p => g1 (exec (p.2.1 hd ⟨.dyn, 1, .reg 2⟩) (solo [(2, 0xBFF0000000000000)]))) =
      [0x3FF0000000000000, 0x3FF0000000000000] := by decide
/-- Square roots, and exp2 and log2 of exact values (R226, R239). -/
theorem test_functions :
    (v1 .w (exec (.vsqrt hd ⟨.f32, .rne, 1, rv 2⟩) (vec [0x40800000, 0x40000000] 0))).take 2 = [0x40000000, 0x3FB504F3] ∧
    (v1 .w (exec (.vexp hd ⟨.f32, .rne, 1, rv 2⟩) (vec [0, 0xFF800000] 0))).take 2 = [0x3F800000, 0] ∧
    (v1 .w (exec (.vlog hd ⟨.f32, .rne, 1, rv 2⟩) (vec [0x3F800000, 0] 0))).take 2 = [0, 0xFF800000] ∧
    (v1 .w (exec (.vtanh hd ⟨.f32, .rne, 1, rv 2⟩) (vec [0x80000000, 0x7F800000] 0))).take 2 = [0x80000000, 0x3F800000] ∧
    g1 (exec (.fsqrt hd ⟨.rne, 1, .reg 2⟩) (solo [(2, 0x4010000000000000)])) = 0x4000000000000000 := by decide +kernel
/-- At determinism level 3 an estimate takes the determinism fault, predicate off or not (R126); at level 2 the reciprocal
of 0 is infinite (R227). -/
theorem test_estimates :
    let s := fun (n : Word) => upd (solo []) fun c => { c with sr := { c.sr with det := n } }
    detLevel (s 3).th = 3 ∧ stop (exec (.vrcpe hdOff ⟨.f32, .dyn, 1, rv 2⟩) (s 3)) = some (0x07, 0, 0) ∧
    detLevel (s 2).th ≠ 3 ∧ (v1 .w (exec (.vrcpe hd ⟨.f32, .dyn, 1, rv 2⟩) (s 2))).take 1 = [0x7F800000] := by decide
/-- FP64 compares at 1 and 2, and of a NaN with itself (R240). -/
theorem test_fp64Compare :
    (laneRelations.map fun p => m1 (exec (p.2.1 hd ⟨1, .reg 2, .reg 3⟩)
      (solo [(2, 0x3FF0000000000000), (3, 0x4000000000000000)])) / 0xFFFFFFFF) = [0, 1, 1, 1, 0, 0] ∧
    (laneRelations.map fun p => m1 (exec (p.2.1 hd ⟨1, .reg 2, .reg 2⟩) (solo [(2, 0x7FF8000000000000)])) / 0xFFFFFFFF) =
      [0, 1, 0, 0, 0, 0] := by decide
/-- Conversions: 3.0 to a word, saturation at the end of a byte, a part of a wider register, FP64 to FP32 (R115, R228,
R240). -/
theorem test_conversions :
    (Instr.vcvt hd ⟨.f32, .sw, 0, .rtz, 1, rv 2⟩).wellFormed = true ∧
    (v1 .w (exec (.vcvt hd ⟨.f32, .sw, 0, .rtz, 1, rv 2⟩) (vec [0x40400000, 0xC0200000] 0))).take 2 = [3, w32 (-2)] ∧
    ((v1 .b (exec (.vcvt hd ⟨.f32, .b, 1, .rne, 1, rv 2⟩) (vec [0x40400000, 0x44000000] 0))).drop 8).take 2 = [3, 255] ∧
    (v1 .w (exec (.vcvt hd ⟨.b, .f32, 3, .rne, 1, rv 2⟩) (lanes [] [(2, 5 <<< 192)]))).take 2 = [0x40A00000, 0] ∧
    (Instr.fcvt hd ⟨.f64, .f32, .rne, 1, .reg 2⟩).wellFormed = true ∧
    g1 (exec (.fcvt hd ⟨.f64, .f32, .rne, 1, .reg 2⟩) (solo [(2, 0x3FF8000000000000)])) = 0x3FC00000 ∧
    g1 (exec (.fcvt hd ⟨.f64, .sw, .rtz, 1, .reg 2⟩) (solo [(2, 0xBFF8000000000000)])) = int (-1) := by decide +kernel
/-- The worked example of the block formats: 3.0 and -0.3 under the pair 0x807D (R229 to R231). -/
theorem test_blocks :
    let s := upd (lanes [(5, 0x807D)] [(4, 0xBE99999A40400000), (8, 0x66B0)]) fun c => c
    (Instr.vbfpx hd ⟨.bfp8, 1, 4⟩).wellFormed = true ∧ g1 (exec (.vbfpx hd ⟨.bfp8, 1, 4⟩) s) = 0x807D ∧
    (Instr.vbfpe hd ⟨.bfp8, .rne, 1, 4, g 5⟩).wellFormed = true ∧
    (v1 .b (exec (.vbfpe hd ⟨.bfp8, .rne, 1, 4, g 5⟩) s)).take 3 = [0xB0, 0x66, 0] ∧
    yes (exec (.vbfpe hd ⟨.bfp8, .rne, 1, 4, g 5⟩) s) (fun t => t.th.sr.fpstat == 1) = true ∧
    (Instr.vbfpe hd ⟨.bfp4, .rne, 1, 4, g 5⟩).wellFormed = true ∧ (Instr.vbfpeHi hd ⟨.bfp4, .rne, 1, 4, g 5⟩).wellFormed = true ∧
    (v1 .b (exec (.vbfpeHi hd ⟨.bfp4, .rne, 1, 4, g 5⟩) s)).take 16 = List.replicate 16 0 ∧
    (Instr.vbfpd hd ⟨.bfp8, 0, 1, v 8, g 5⟩).wellFormed = true ∧
    (v1 .w (exec (.vbfpd hd ⟨.bfp8, 0, 1, v 8, g 5⟩) s)).take 3 = [0x40400000, 0xBE980000, 0] := by decide +kernel
/-- The worked example of the pairwise sum (R233), and integer reductions of 3, 5 and an inactive 9. -/
theorem test_reductions :
    g1 (exec (.vrsum hd ⟨.f32, .rne, 1, rv 2⟩) (vec [0x3F800000, 0x33800000, 0x33800000, 0x33800000] 0)) = 0x3F800001 ∧
    (Instr.vrsum hd ⟨.f32, .rne, 1, rv 2⟩).wellFormed = true ∧ Ty.f32.isVF = true ∧
    g1 (exec (.vrmin hd ⟨.f32, .dyn, 1, rv 2⟩) (vec [0x3F800000] 0)) = 0 ∧
    g1 (exec (.vrmax hd ⟨.f32, .dyn, 1, rv 2⟩) (vec [0xBF800000] 0)) = 0 ∧
    (laneFolds.map fun p => g1 (exec (p.1 byM1 ⟨.w, .dyn, 1, rv 2⟩) (vec [3, 9, 5] someLanes))) = [8, 3, 5, 1, 7] := by
  decide +kernel
/-- Rounding 5/2 to an integer in each mode, and a stochastic mode that adds its draw (R115, R116). -/
theorem test_rounding :
    ([RMode.rne, .rtz, .rup, .rdn, .rna].map fun m => (roundMag m ⟨false, 5, -1, false⟩ 0).1) = [2, 2, 3, 2, 3] ∧
    ([RMode.rne, .rtz, .rup, .rdn, .rna].map fun m => (roundMag m ⟨true, 5, -1, false⟩ 0).1) = [2, 2, 2, 3, 3] ∧
    modeAt { SrBank.reset with fpctl := 3 } .dyn 0 = .rup ∧
    FFmt.f32.value 0x3F800000 = .fin false 0x800000 (-23) ∧
    (Raw.ex ⟨false, 0x800000, -23, false⟩).round .f32 .rtz = ⟨0x3F800000, 0⟩ := by decide

/-! ### Memory, atomics, waits, messages -/

/-- The ends of a cell's local memory and of the windows (R59, R61, R62). -/
theorem test_windows :
    let at_ := fun (va : Word) (n : Nat) => (solo []).placeAt (solo []).th .read va n
    placed (at_ 0xF7F8 8) = [0xF7F8] ∧ refusedFor (at_ 0xF7F9 8) = 0x0B ∧ refusedFor (at_ 0xFFFF 1) = 0x0B ∧
    placed (at_ 0x7C 8) = [0x7C, 0x80] ∧ refusedFor (at_ 0x10000 1) = 0x0C ∧ refusedFor (at_ 0xFFFFFFFF 1) = 0x0C ∧
    refusedFor (at_ 0x120000000 1) = 0x0C ∧ refusedFor (at_ 0x240000000 1) = 0x0C ∧ refusedFor (at_ 0x1000000000000 1) = 0x10 ∧
    refusedFor (at_ 0x100000000000000 1) = 0x0C ∧ (solo []).th.place = .user 0 := by decide
/-- Every load form queues its accesses with a result on its way (R263 to R267); checks that fail (R262). -/
theorem test_loads :
    let s := lanes [(2, 0x1F8), (12, 0xF000000000000000)] [(3, 2)]
    ([Instr.ld hd ⟨.d, 1, g 2, 8⟩, .ldr hd ⟨.d, 1, g 2, -8⟩, .ldAcq hd ⟨.d, 1, g 2, 0, 0⟩, .ldv hd ⟨.w, 1, g 2, 8⟩,
      .ldrv hd ⟨.w, 1, g 2, 0⟩, .ldvb hd ⟨.h, 1, g 2, 7⟩, .vgather byM1 ⟨.w, 1, g 2, 8, v 3⟩].map fun i =>
      queued (exec i (upd s fun c => { c with regs := c.regs.wm 1 1 }))) =
      [[0x200], [0x1F0], [0x1F8], [0x200], [0x1F8, 0x200], [0x1FF, 0x200], [0x208]] ∧
    (loadForm s (.ld hd ⟨.d, 1, g 2, 8⟩)).isSome = true ∧ (Instr.ld hd ⟨.d, 1, g 2, 8⟩).wellFormed = true ∧
    placed (s.placeAll s.th .read false every [⟨0x200, 8, 0⟩] |>.map (·.map Prod.fst)) = [0x200] ∧
    s.badParts [⟨0x200, 0x200, 8, none, .local_⟩] = false ∧ s.absentPart [⟨0x200, 0x200, 8, none, .local_⟩] = none ∧
    stop (exec (.ldAcq hd ⟨.d, 1, g 2, 0, 12⟩) s) = some (0x16, 0, 0xF000000000000000) ∧
    stop (exec (.ldAcq hd ⟨.d, 1, g 2, 1, 0⟩) s) = some (0x14, 0, 0x1F9) ∧
    stop (exec (.ld hd ⟨.d, 1, g 12, 0⟩) s) = some (0x0C, 0, 0xF000000000000000) ∧
    yes (exec (.ld hd ⟨.b, 1, g 2, 0⟩) { s with cells := [{ CellRec.reset 0 with isSealed := true }] }) (fun t =>
      decide (t.th.status = .parked .drain) && t.th.mq.iq.length == 1 && t.th.pend.any Pend.held) = true ∧
    dests (exec (.ld hdOff ⟨.d, 1, g 12, 0⟩) s) = [] := by decide +kernel
/-- Every store form, and a store that is not on (R263, R265 to R267). -/
theorem test_stores :
    let s := upd (lanes [(2, 0x1F8), (1, 0x1122)] [(3, 0xAABBCCDD)]) fun c => { c with regs := c.regs.wm 1 1 }
    ([Instr.st hd ⟨.h, g 2, 7, rg 1⟩, .sts hd ⟨.d, g 2, 0, rg 1⟩, .stRel hd ⟨.d, g 2, 8, rg 1, 0⟩, .stv byM1 ⟨.w, g 2, 0, v 3⟩,
      .stsv byM1 ⟨.w, g 2, 0, v 3⟩, .vscatter byM1 ⟨.b, g 2, 0, v 3, 4⟩].map fun i => queued (exec i s)) =
      [[0x1FF, 0x200], [0x1F8], [0x200], [0x1F8], [0x1F8], [0x1F8 - 0x23]] ∧
    (storeForm s (.st hd ⟨.h, g 2, 7, rg 1⟩)).isSome = true ∧
    yes (exec (.st hd ⟨.h, g 2, 7, rg 1⟩) s) (fun t => (t.th.mq.iq.map MemOp.act) == [.store [some 0x22], .store [some 0x11]]) =
      true ∧
    queued (exec (.st hdOff ⟨.h, g 2, 7, rg 1⟩) s) = [] := by decide +kernel
/-- A loaded signed word lands when its last byte arrives (R263). -/
theorem test_loadedValue :
    let c : Ctx := { user [] with pend := [⟨4, 0x100, .g 1 .sw, 1, [0, 0, 0, 0], false⟩] }
    let p : Pend := ⟨4, 0x100, .g 1 .sw, 1, [0, 0, 0, 0], false⟩
    c.pend.find? (fun q => q.id == p.id) = some p ∧ p.buf.length = Ty.sw.bytes ∧
    (c.deliver 4 0 [0xFE, 0xFF, 0xFF, 0xFF] 0).regs.rg 1 = 0xFFFFFFFFFFFFFFFE := by decide
/-- Decoding loads on a BFP8 page with its companion page (R75, R264), on a page without a format, off the end. -/
theorem test_decodingLoads :
    let s := paged [(2, 0x1000000000000), (3, 0x100000000FFFF)] 1
    (match s.ldfPage false 0x1000000000000 0 with
      | .ok q =>
        q.va == 0x1000000000000 && (match s.decodeEntry s.th 0x1000000000000 q with
          | .ok e => e.fmt == 1 && (match s.companionRun s.th e (BitVec.ofNat 64 q.va) 1 with
            | .ok ps => ps.length == 1 && decide (s.badParts (q :: ps) = false ∧ s.absentPart (q :: ps) = none)
            | .error _ => false) && decide (q.va + 1 ≤ e.base + e.bytes) && ldfBytes e.fmt == 1
          | .error _ => false)
      | .error _ => false) = true ∧
    s.th.pend.any s.th.heldBy = false ∧ fpEnables s.th.sr = 0 ∧
    (queued (exec (.ldf hd ⟨.f32, 1, g 2, 0⟩) s)).length = 2 ∧ (queued (exec (.ldrx hd ⟨.h, 1, g 2, 0⟩) s)).length = 1 ∧
    (queued (exec (.ldfv hd ⟨.f32, 1, g 2, 0⟩) s)).length = 2 ∧
    (queued (exec (.ldfh hd ⟨.f32, 1, g 2, 0⟩) (paged [(2, 0x1000000000000)] 2))).length = 2 ∧
    (stop (exec (.ldfh hd ⟨.f32, 1, g 2, 0⟩) s)).map Prod.fst = some 0x12 ∧
    (stop (exec (.ldf hd ⟨.f32, 1, g 2, 0⟩) (paged [(2, 0x1000000000000)] 0))).map Prod.fst = some 0x12 ∧
    (stop (exec (.ldfv hd ⟨.f32, 1, g 3, 0⟩) s)).map Prod.fst = some 0x12 := by decide +kernel
/-- Prefetches on an address that exists, one that does not, and off (R268). -/
theorem test_prefetches :
    queued (exec (.pfh hd ⟨g 2, 0⟩) (solo [(2, 0x200)])) = [0x200] ∧ queued (exec (.pfh hdOff ⟨g 2, 0⟩) (solo [])) = [] ∧
    refusedFor ((solo []).place (solo []).th .read false 0x10000 1) = 0x0C ∧
    yes (exec (.pfh hd ⟨g 2, 0⟩) (solo [(2, 0x10000)])) (fun t => t.th.mq.iq.isEmpty && t.th.fault.isNone && t.th.pc == 0x10C) = true ∧
    pcOf (exec (.pft hd ⟨g 2, 0⟩) (solo [])) = 0x10C := by decide
/-- A context at a determinism level whose m1 is clear; what an instruction stops on and queues in it. -/
def level (n : Word) : State := upd (solo [(2, 0x200), (3, 0x204), (5, 0xF000000000000000)]) fun c =>
  { c with sr := { c.sr with det := n }, regs := c.regs.wm 1 0 }
def seenAt (i : Instr) (n : Word) : Option (Nat × Nat × Nat) × List Nat := (stop (exec i (level n)), queued (exec i (level n)))
/-- Atomics: their faults in order and a queued operation (R126, R269). -/
theorem test_atomics :
    (atomics.all fun p => (p.1 hd ⟨false, .d, 1, g 2, 0, rg 3, 0⟩).wellFormed &&
      queued (exec (p.1 hd ⟨true, .d, 1, g 2, 0, rg 3, 0⟩) (level 0)) == [0x200] &&
      dests (exec (p.1 hd ⟨false, .d, 1, g 2, 0, rg 3, 0⟩) (level 0)) == [.g 1 .d]) = true ∧
    seenAt (.amoAdd hd ⟨false, .d, 1, g 2, 0, rg 3, 0⟩) 1 = (some (0x07, 0, 0), []) ∧
    seenAt (.amoAdd hd ⟨false, .d, 1, g 3, 0, rg 3, 0⟩) 0 = (some (0x14, 0, 0x204), []) ∧
    seenAt (.amoAdd hd ⟨true, .d, 1, g 2, 0, rg 3, 5⟩) 0 = (some (0x16, 0, 0xF000000000000000), []) ∧
    seenAt (.amoAdd hd ⟨false, .w, 1, g 5, 0, rg 3, 0⟩) 0 = (some (0x0C, 0, 0xF000000000000000), []) ∧
    seenAt (.amoAdd hdOff ⟨false, .d, 1, g 2, 0, rg 3, 0⟩) 0 = (none, []) := by decide +kernel
/-- Reductions: at every level on integers, misaligned lanes, no active lane, floats at level 1 (R126, R270). -/
theorem test_reductionOps :
    (reductions.all fun p => (p.1 hd ⟨.w, g 2, 0, .g (rg 3)⟩).wellFormed &&
      seenAt (p.1 hd ⟨.w, g 2, 0, .v (v 3)⟩) 1 == (none, [0x200]) && seenAt (p.1 hd ⟨.w, g 2, 4, .g (rg 3)⟩) 3 == (none, [0x204]) &&
      seenAt (p.1 hd ⟨.w, g 2, 4, .v (v 3)⟩) 0 == (some (0x14, 0, 0x204), []) &&
      seenAt (p.1 byM1 ⟨.w, g 2, 0, .v (v 3)⟩) 0 == (none, [])) = true ∧
    seenAt (.redAdd hd ⟨.f32, g 2, 0, .g (rg 3)⟩) 1 = (some (0x07, 0, 0), []) := by decide +kernel
/-- An atomic at a host port takes the port fault (R269). -/
theorem test_atomicAtHost :
    let s := { solo [(2, 0x1000000000000)] with
      cells := [{ CellRec.reset 0 with tlb := [⟨0x10000000020, 0x40000000000000D0⟩] }] }
    (match s.place s.th .write false 0x1000000000000 8 with
      | .ok ps => !(noHost ps)
      | .error _ => false) = true ∧
    stop (exec (.amoAdd hd ⟨false, .d, 1, g 2, 0, rg 3, 0⟩) s) = some (0x15, 0, 0x1000000000000) := by decide
/-- Two-address operations on words 4 bytes apart, in either order, overlapping and misaligned (R262, R271). -/
theorem test_pairs :
    let s := solo [(2, 0x204), (3, 0x200), (4, 0x202), (5, 0xF000000000000000)]
    (pairs.all fun p => (p.1 hd ⟨.w, 1, g 2, 3, rg 4, 0⟩).wellFormed &&
      decide (queued (exec (p.1 hd ⟨.w, 1, g 2, 3, rg 4, 0⟩) s) = [0x200] ∧
        queued (exec (p.1 hd ⟨.w, 1, g 3, 2, rg 4, 0⟩) s) = [0x200] ∧
        dests (exec (p.1 hd ⟨.w, 1, g 3, 2, rg 4, 0⟩) s) = [.pair 1] ∧
        stop (exec (p.1 hd ⟨.w, 1, g 2, 2, rg 4, 0⟩) s) = some (0x17, 0, 0x204) ∧
        stop (exec (p.1 hd ⟨.w, 1, g 4, 2, rg 4, 0⟩) s) = some (0x14, 0, 0x202) ∧
        stop (exec (p.1 hd ⟨.w, 1, g 2, 4, rg 4, 0⟩) s) = some (0x14, 0, 0x202) ∧
        stop (exec (p.1 hd ⟨.w, 1, g 2, 3, rg 4, 5⟩) s) = some (0x16, 0, 0xF000000000000000))) = true ∧
    (Instr.amove hd ⟨.w, 1, g 2, 3, 0⟩).wellFormed = true ∧ queued (exec (.amove hd ⟨.w, 1, g 2, 3, 0⟩) s) = [0x200] ∧
    (match s.placePair 4 0x204 0x200 false false with
      | .ok (p, q) => decide (p.pa + 4 ≤ q.pa ∨ q.pa + 4 ≤ p.pa) && noHost [p, q]
      | .error _ => false) = true ∧
    (s.isFree s.th && decide (1 ≤ detLevel s.th)) = false := by decide +kernel
/-- Fences and the probe (R46, R272). -/
theorem test_fences :
    let s := solo [(5, 0xF000000000000000), (6, 0x5000000000000000)]
    ([Instr.fenceAcq hd, .fenceRel hd ⟨0⟩, .fenceFull hd ⟨6⟩].map fun i => yes (exec i s) fun t => t.th.mq.marks.length == 1) =
      [true, true, true] ∧
    stop (exec (.fenceFull hd ⟨5⟩) s) = some (0x16, 0, 0xF000000000000000) ∧ scopeOk (scopeValue s.th 6) = true ∧
    scopeOk (scopeValue s.th 5) = false ∧
    g1 (exec (.fprobe hd ⟨1⟩) { inRegion true [] with regions := [{ region true 0 with terminated := true, token := { Token.start with pass := 3 } }] }) =
      2 ^ 63 + 3 := by decide +kernel
/-- `waitaddr` with and without a deadline, misaligned (R274); events in both modes (R275). -/
theorem test_waits :
    let s := solo [(2, 0x200), (3, 50)]
    yes (exec (.waitaddr hd ⟨.w, 1, g 2, 0, .imm 1, 3⟩) s) (fun t => decide (t.th.status = .running) && t.th.pc == 0x10C &&
      (t.th.wait.map fun w => w.deadline) == some (some 50)) = true ∧
    yes (exec (.waitaddr hd ⟨.w, 1, g 2, 0, .imm 1, 0⟩) s) (fun t => (t.th.wait.map fun w => w.deadline) == some none) = true ∧
    stop (exec (.waitaddr hd ⟨.w, 1, g 2, 2, .imm 1, 0⟩) s) = some (0x14, 0, 0x202) ∧
    (inRegion true []).isFree (inRegion true []).th = true ∧ ((inRegion true []).regionOf (inRegion true []).th).isSome = true ∧
    (queued (exec (.evsig hd ⟨3, .imm 1⟩) (inRegion true []))).length = 1 ∧
    yes (exec (.evwait hd ⟨1, 3, .imm 1, 0⟩) (inRegion true [])) (fun t => decide (t.th.status = .running) &&
      (t.th.wait.map fun w => w.entered) == some false) = true ∧
    (inRegion false []).isFree (inRegion false []).th = false ∧
    stop (exec (.evsig hd ⟨3, .imm 1⟩) (inRegion false [])) = some (0x08, 0, 0) ∧
    stop (exec (.evwait hd ⟨1, 3, .imm 1, 0⟩) (inRegion false [])) = some (0x08, 0, 0) := by decide +kernel
/-- Sends to cell 1, beyond the region and off the channel map; receives of a message, of another size, of none (R40,
R276, R277). -/
theorem test_messages :
    let s := inRegion true [(2, 1), (3, 2)]
    let box := fun (bs : List Byte) => upd s fun c => { c with mail := { c.mail with box := [⟨1, 5, .data bs, 0⟩] } }
    let chan := { s with regions := [{ region true 0 with chans := some [[0], []] }] }
    ([Instr.send hd ⟨g 2, .imm 1, 5⟩, .sendv hd ⟨g 2, v 2, 5⟩, .sendRel hd ⟨g 2, .imm 1, 5, 0⟩].map fun i =>
      yes (exec i s) fun t => t.th.mail.sent == 1 && t.th.mq.iq.length == 1) = [true, true, true] ∧
    stop (exec (.send hd ⟨g 3, .imm 1, 5⟩) s) = some (0x0B, 0, 2) ∧ stop (exec (.send hd ⟨g 2, .imm 1, 5⟩) chan) = some (0x09, 0, 1) ∧
    yes (exec (.recv hd ⟨1, g 2, 4⟩) (box (bytesOf 8 77))) (fun t => t.th.regs.rg 1 == 77 && t.th.regs.rg 4 == 0x50001 &&
      t.th.mail.box.isEmpty) = true ∧
    yes (exec (.recvAny hd ⟨1, 4⟩) (box (bytesOf 8 77))) (fun t => t.th.regs.rg 1 == 77) = true ∧
    yes (exec (.recvv hd ⟨1, g 2, 4⟩) (box (bytesOf 32 77))) (fun t => t.th.regs.rv 1 == 77) = true ∧
    yes (exec (.recvvAny hd ⟨1, 4⟩) (box (bytesOf 32 77))) (fun t => t.th.regs.rv 1 == 77) = true ∧
    stop (exec (.recv hd ⟨1, g 2, 4⟩) (box (bytesOf 32 77))) = some (0x21, 0, 32) ∧
    s.recvNothing (region true 0) (some 1) = none ∧
    yes (exec (.recv hd ⟨1, g 2, 4⟩) s) (fun t => decide (t.th.status = .parked .mailbox)) = true := by decide +kernel
/-- A receive that nothing can answer: the region has terminated (R277). -/
theorem test_receiveEnds :
    let r := { region true 0 with terminated := true }
    let s := { inRegion true [(2, 1)] with regions := [r] }
    (s.recvNothing r (some 1)).isSome = true ∧
    yes (exec (.recv hd ⟨1, g 2, 4⟩) s) (fun t => some (t.th.regs.rg 4) == s.recvNothing r (some 1)) = true := by decide +kernel
/-- Joins that do not close the barrier, joins that wait, and the mode faults (R34, R278). -/
theorem test_joins :
    let owing := fun (s : State) => upd s fun c => { c with mq := { c.mq with outs := [⟨1, .hbm 0 0, true, false⟩] } }
    let sup := inRegion false []
    let free := inRegion true [(5, 0xF000000000000000)]
    stop (exec (.sstep hd) free) = some (0x08, 0, 0) ∧ stop (exec (.bar hd ⟨1, 0, 4⟩) sup) = some (0x08, 0, 0) ∧
    sup.th.scopeDrained scopePackage = true ∧ (owing sup).th.scopeDrained scopePackage = false ∧
    yes (exec (.sstep hd) (owing sup)) (fun t => decide (t.th.status = .parked .drain)) = true ∧
    sup.memberEnded (region false 0) 1 = false ∧ sup.region? (some 0) = some (region false 0) ∧
    yes (exec (.sstep hd) sup) (fun t => decide (t.th.status = .parked .barrier) && (t.regions.map Region.joined) == [[0]]) = true ∧
    stop (exec (.bar hd ⟨1, 0, 5⟩) free) = some (0x16, 0, 0xF000000000000000) ∧
    (let f := upd free fun c => { c with regs := c.regs.wg 6 0x4000000000000000 }
     scopeOk (scopeValue f.th 6) = true ∧ barOutside f.th (scopeValue f.th 6) = false ∧
     yes (exec (.bar hd ⟨1, 0, 6⟩) (owing f)) (fun t => decide (t.th.status = .parked .drain)) = true ∧
     yes (exec (.bar hd ⟨1, 0, 6⟩) f) (fun t => decide (t.th.status = .parked .barrier)) = true ∧
     (barMembers (region true 0) f.th.cell (scopeValue f.th 6)).contains 1 = true) := by decide +kernel

/-! ### Operations on their way -/

/-- A message of context 1 to the local memory of cell 0. -/
def opAt (seq pa : Nat) (a : Act) : MemOp := ⟨seq, .cell 0, pa, BitVec.ofNat 64 pa, ⟨false, none⟩, a, false, []⟩
def flightAt (seq pa : Nat) (a : Act) : Flight := ⟨.ctx 1, opAt seq pa a⟩
/-- A package with operations in the queue of its context, on their way, arrived, and in the write queues. -/
def traffic (iq : List MemOp) (ch aq : List Flight) (wq : List (Home × WEntry)) : State :=
  let s := solo []
  { upd s fun c => { c with mq := { c.mq with iq := iq, next := 9 } } with
    cells := [{ CellRec.reset 0 with owner := some 1 }], net := { Net.reset with ch := ch, aq := aq, wq := wq } }

/-- ISSUE of a store, and of a streaming store (R85, R93). -/
theorem test_issue :
    let st := opAt 3 0x200 (.store [some 7])
    let s := traffic [st] [] [] []
    let u := traffic [{ st with stream := true }] [] [] []
    s.th.resident = true ∧ s.th.mayIssue st = true ∧ (s.dirtyOp s.th st).isSome = true ∧ (s.ctx? 1).isSome = true ∧
    yes (exec (.evIssue 1) s) (fun t => t.th.mq.iq.isEmpty && t.net.ch == [⟨.ctx 1, st⟩] && t.th.mq.outs.length == 1) = true ∧
    yes (exec (.evIssue 1) u) (fun t => t.th.mq.iq.isEmpty && t.net.ch.isEmpty && t.th.mq.wcb.length == 1) = true := by
  decide +kernel
/-- ARRIVAL takes the oldest on its path, FLUSH sends a line (R86, R93). -/
theorem test_arrival :
    let a := flightAt 1 0x200 (.store [some 7])
    let b := flightAt 2 0x208 (.store [some 8])
    goesFrom (.ctx 1) (.cell 0) a = true ∧
    yes (exec (.evArrival (.ctx 1) (.cell 0)) (traffic [] [a, b] [] [])) (fun t => t.net.ch == [b] && t.net.aq == [a]) = true ∧
    (let s := upd (solo []) fun c => { c with mq := { c.mq with wcb := [⟨.cell 0, 8, 0x200, 4, List.replicate 64 none, []⟩] } }
     (State.dirty s.th [] s).isSome = true ∧
     yes (exec (.evWcbFlush 1 8) s) (fun t => t.th.mq.wcb.isEmpty && t.net.ch.length == 1 && t.th.mq.outs.length == 1) = true) := by
  decide +kernel
/-- A load performed behind a store of the same line reads its byte; the store's byte reads as written (R87). -/
theorem test_perform :
    let st := flightAt 1 0x200 (.store [some 7])
    let ld := flightAt 2 0x1FF (.load 5 0 2 [])
    let s := traffic [] [] [ld] [(.cell 0, .write 0x200 [some 7])]
    (s.tryPerform (.cell 0) 0).isSome = true ∧ s.errorAt ld = false ∧
    yes (exec (.evPerform (.cell 0)) s) (fun t => t.net.replies == [⟨.ctx 1, 2, some (5, 0), [0, 7], false, 0x1FF⟩]) = true ∧
    yes (exec (.evPerform (.cell 0)) (traffic [] [] [st] [])) (fun t => t.byteAt 0x200 == 7 && t.byteAt 0x201 == 0) = true ∧
    yes (exec (.evApply (.cell 0)) s) (fun t => t.mem == [⟨0x200, 7⟩] && t.net.wq.isEmpty && t.byteAt 0x200 == 7) = true := by
  decide +kernel
/-- Atomics on the word 5: each operation with the operand 3, and a compare that fails (R269). -/
theorem test_atomicPerformed :
    let run := fun (op : RmwOp) (b cmp : Word) =>
      let f := flightAt 1 0x200 (.amo op .sw b cmp 5)
      match ({ traffic [] [] [] [] with mem := [⟨0x200, 5⟩] } : State).perform f with
      | some t => (t.net.replies.map Reply.bytes, t.byteAt 0x200)
      | none => ([], 0)
    ([RmwOp.swap, .add, .and, .or, .xor, .min, .max, .cas].map fun op => (run op 3 5).2) = [3, 8, 1, 7, 6, 3, 5, 3] ∧
    (run .cas 3 4).2 = 5 ∧ (run .add 3 0).1 = [[5, 0, 0, 0]] ∧ Ty.sw.isAmoInt = true ∧
    (traffic [] [] [] []).errorAt (flightAt 1 0x200 (.amo .add .sw 3 0 5)) = false := by decide +kernel
/-- The second home of an exchange writes both words, answers and unlocks (R96). -/
theorem test_pairSecond :
    let f : Flight := ⟨.ctx 1, ⟨1, .vault 0, 0x100000000, 0, ⟨true, none⟩,
      .pair .swap false false .w 0x200 0x100000000 0 1 2 0 0 true 9 5, false, []⟩⟩
    let s := { solo [] with net := { Net.reset with aq := [f], locks := [⟨8, 1⟩] } }
    (s.trySecond (.vault 0) 0).isSome = true ∧
    yes (exec (.evPairSecondHome (.vault 0)) s) (fun t => t.net.aq.isEmpty && t.net.locks.isEmpty && t.byteAt 0x200 == 1 &&
      t.byteAt 0x100000000 == 2 && t.net.replies.length == 1) = true := by decide +kernel
/-- A reply delivers its bytes and acknowledges; a wake and a deadline end a wait with 0 and 4 (R273, R274). -/
theorem test_replies :
    let s := { upd (solo []) fun c => { c with
        pend := [⟨5, 0x100, .g 1 .b, 1, [0], false⟩], mq := { c.mq with outs := [⟨6, .cell 0, true, false⟩] } } with
      net := { Net.reset with replies := [⟨.ctx 1, 6, some (5, 0), [0x80], false, 0⟩] } }
    let w := { upd (solo []) fun c => { c with
        status := .parked .addr, pend := [⟨5, 0x100, .status 1, 1, List.replicate 8 0, false⟩], wait := some ⟨5, 1, some 7, none, true⟩ } with
      net := { Net.reset with wakes := [⟨1, 5, 0, none⟩] }, now := 7 }
    yes (exec (.evReplyDelivery 0) s) (fun t => t.th.regs.rg 1 == 0x80 && t.th.mq.outs.isEmpty && t.net.replies.isEmpty) = true ∧
    w.waiting 1 5 = true ∧ (w.ctx? 1).isSome = true ∧
    yes (exec (.evWakeDelivery 0) w) (fun t => t.th.regs.rg 1 == 0 && t.th.wait.isNone && decide (t.th.status ≠ .parked .addr)) = true ∧
    yes (exec (.evWaitTimeout 1) w) (fun t => t.th.regs.rg 1 == 4 && t.th.wait.isNone) = true := by decide +kernel
/-- The host writes two lines, reads, flushes; a spilled message enters the mailbox (R100, R101, R276). -/
theorem test_hostAndMail :
    let s := { solo [] with hub := { Hub.reset with
      live := 1, links := [Link.trained 0], queues := [(0, ⟨0x8000000000000000, 2, 0, 0, 0⟩)] } }
    let m : Mail := ⟨1, 5, .data [1], 0⟩
    let b := upd (solo []) fun c => { c with mail := { c.mail with spill := [m] }, mq := { c.mq with eps := [0, 1] } }
    s.routeUp (.host 0) = true ∧ s.hostQuiet 0 = true ∧ s.inboundOk 0x1000000003F 2 = true ∧ s.absentRange 0x1000000003F 2 = none ∧
    s.inboundOk 0x3F 2 = false ∧
    yes (exec (.evHostInboundWrite 0 0x1000000003F [1, 2]) s) (fun t => t.net.ch.length == 2 && t.net.ch.all fun f => f.src == .hub 0) = true ∧
    yes (exec (.evHostInboundRead 0 0x1000000003F 2) s) (fun t => t.net.hostReads == [⟨0, 0, 0x1000000003F, none⟩] && t.net.ch.length == 2) = true ∧
    (b.th.mq.outs.any fun o => o.home == .host 0) = false ∧
    yes (exec (.evHostFlushRead 0 1) b) (fun t => t.th.mq.eps == [1]) = true ∧ b.th.resident = true ∧
    yes (exec (.evMailboxDeliver 1 0) b) (fun t => t.th.mail.box == [m] && t.th.mail.spill.isEmpty && t.th.mail.received == 1) = true := by
  decide +kernel

/-! ### The matrix unit and the engines -/

/-- An entry of an engine queue. -/
def entryOf (op : Nat) (w : Work) (k : Course) : Entry := ⟨op, 0, w, k, false, 0, none, false⟩
/-- A context with a handle h2 in a state, and entries in a queue. -/
def withHandle (st : HState) (rs : List (BitVec 6 × Word)) : State := upd (solo rs) fun c =>
  { c with h := c.h.set 2 ⟨st, 0x55, 0x66, 4294967297, true⟩ }
def withQueue (q : Nat) (es : List Entry) (s : State) : State := upd s fun c =>
  { c with eq := Vector.ofFn fun i : Fin 8 => if i.val = q then es else c.eq.get i }
/-- Element (i, j) of a0 after an outcome. -/
def a0 (o : Out) (i j : Nat) : Nat := match o with
  | .next t => elem t.th.mat false i j
  | _ => 99

/-- Rows of the accumulators, descriptors, and a PENDING matrix program that holds them (R241 to R245). -/
theorem test_matrixRegisters :
    let s := upd (lanes [(2, 0x1122), (3, 0x400000030)] [(4, 0x1100000022)]) fun c =>
      { c with mat := { c.mat with a0 := Vector.replicate 128 7, a1 := Vector.replicate 128 8 } }
    let forked := withQueue 4 [entryOf 1 (.prog true ⟨.launch, 0, 0, none, none, none⟩) .waiting] s
    s.th.matrixForked = false ∧ forked.th.matrixForked = true ∧
    a0 (exec (.mzero hd ⟨false⟩) s) 15 7 = 0 ∧ a0 (exec (.mmov hd ⟨false⟩) s) 0 0 = 8 ∧
    (Instr.mwrrow hd ⟨false, 15, v 4⟩).wellFormed = true ∧ a0 (exec (.mwrrow hd ⟨false, 15, v 4⟩) s) 15 0 = 0x22 ∧
    a0 (exec (.mwrrow hd ⟨false, 15, v 4⟩) s) 15 1 = 0x11 ∧ a0 (exec (.mwrrow hd ⟨false, 15, v 4⟩) s) 14 7 = 7 ∧
    v1 .w (exec (.mrdrow hd ⟨true, 0, 1⟩) s) = List.replicate 8 8 ∧
    yes (exec (.masel hd ⟨g 2, g 3⟩) s) (fun t => t.th.mat.abase == 0x1122 && t.th.mat.rs == 0x30 && t.th.mat.ks == 4) = true ∧
    yes (exec (.masx hd ⟨g 2⟩) s) (fun t => t.th.mat.axbase == 0x1122) = true ∧
    yes (exec (.mbsel hd ⟨rg 2, .imm 3⟩) s) (fun t => t.th.mat.bo == 0x1122 && t.th.mat.xo == 3) = true ∧
    ([Instr.mzero hd ⟨false⟩, .mrdrow hd ⟨true, 0, 1⟩, .mwrrow hd ⟨false, 15, v 4⟩, .mmov hd ⟨false⟩, .masel hd ⟨g 2, g 3⟩,
      .masx hd ⟨g 2⟩, .mbsel hd ⟨rg 2, .imm 3⟩, .mma hd ⟨.f16, .f16, false, 1⟩,
      .mdrain hd ⟨.f32, .dyn, false, g 2, g 3, 0, 0, true, false⟩].map fun i =>
      yes (exec i forked) fun t => decide (t.th.status = .parked .drain)) = List.replicate 9 true := by decide +kernel
/-- Reads of handles in each state (R281, R284). -/
theorem test_handles :
    ([HState.empty, .pending, .done, .failed, .cancelled].map fun st => g1 (exec (.htest hd ⟨1, 2⟩) (withHandle st []))) =
      [0, 1, 2, 3, 4] ∧
    stop (exec (.hwait hd ⟨1, 2⟩) (withHandle .empty [])) = some (0x19, 0, 2) ∧
    yes (exec (.hwait hd ⟨1, 2⟩) (withHandle .pending [])) (fun t => decide (t.th.status = .parked .handle)) = true ∧
    g1 (exec (.hwait hd ⟨1, 2⟩) (withHandle .done [])) = 0x55 ∧ g1 (exec (.hdet hd ⟨1, 2⟩) (withHandle .failed [])) = 0x66 ∧
    isResolved (hand (withHandle .cancelled []) 2) = true ∧
    pcOf (exec (.rdv hd ⟨4⟩) (withHandle .done [])) = 0x10C ∧ stop (exec (.rdv hd ⟨5⟩) (withHandle .done [])) = some (0x19, 0, 0) ∧
    yes (exec (.rdv hd ⟨4⟩) (withHandle .pending [])) (fun t => decide (t.th.status = .parked .handle)) = true ∧
    pcOf (exec (.hcancel hd ⟨2⟩) (withHandle .done [])) = 0x10C := by decide +kernel
/-- A waiting copy is cancelled; forks and their checks (R282, R286). -/
theorem test_forks :
    let c := withQueue 1 [entryOf 4294967297 (.copy ⟨.raw, 0, 0, 4, 0, 0, false, none, none, none⟩) .waiting] (withHandle .pending [])
    let s := withHandle .pending [(2, 0x240), (3, 0x241), (4, 0x280)]
    (hand c 2).op % 2 ^ 32 = c.th.cid ∧
    yes (exec (.hcancel hd ⟨2⟩) c) (fun t => (t.th.queue 1).map Entry.course == [.done .cancelled 0 0]) = true ∧
    stop (exec (.fork hd ⟨2, 0, some (g 2), none⟩) s) = some (0x18, 0, 2) ∧
    stop (exec (.fork hd ⟨0, 2, none, some (g 2)⟩) s) = some (0x18, 0, 2) ∧
    stop (exec (.fork hd ⟨1, 0, some (g 3), none⟩) s) = some (0x14, 0, 0x241) ∧ s.th.pend = [] ∧
    yes (exec (.fork hd ⟨1, 0, some (g 2), none⟩) s) (fun t => (t.th.queue 4).length == 1 && (t.th.queue 5).isEmpty) = true ∧
    yes (exec (.fork hd ⟨0, 1, none, some (g 2)⟩) s) (fun t => (t.th.queue 4).isEmpty && (t.th.queue 5).length == 1) = true ∧
    yes (exec (.fork hd ⟨1, 3, some (g 2), some (g 4)⟩) s) (fun t => (t.th.queue 4).length == 1 && (t.th.queue 5).length == 1 &&
      decide ((hand t 1).st = .pending ∧ (hand t 3).st = .pending)) = true := by decide +kernel
/-- A handle passed to the own cell, to a PENDING handle, to another cell, EMPTY (R285). -/
theorem test_hpass :
    let s := upd (inRegion true [(3, 1)]) fun c => { c with
      h := (c.h.set 2 ⟨.done, 0x55, 0, 1, true⟩).set 4 ⟨.pending, 0, 0, 9, true⟩ }
    stop (exec (.hpass hd ⟨1, g 0, 3⟩) s) = some (0x19, 0, 1) ∧ stop (exec (.hpass hd ⟨2, g 0, 4⟩) s) = some (0x18, 0, 4) ∧
    yes (exec (.hpass hd ⟨2, g 0, 3⟩) s) (fun t => decide ((hand t 3).st = .done ∧ (hand t 2).st = .empty)) = true ∧
    yes (exec (.hpass hd ⟨2, g 0, 2⟩) s) (fun t => decide ((hand t 2).st = .done) && t.th.pc == 0x10C) = true ∧
    (region true 0).channelOk s.th.logical 1 = true ∧ s.th.logical = 0 ∧
    yes (exec (.hpass hd ⟨2, g 3, 3⟩) s) (fun t => decide ((hand t 2).st = .empty) && t.th.mq.iq.length == 1) = true := by decide +kernel
/-- Copies of 0 and 4 bytes, to a PENDING handle, and a queue fence on two queues and none (R98, R287, R290). -/
theorem test_copies :
    let s := withHandle .pending [(3, 0x300), (4, 0x200), (5, 4)]
    s.copyForeign s.th [(0x300, 4), (0x200, 4)] = none ∧
    stop (exec (.cpy hd ⟨2, 1, g 3, g 4, 5⟩) s) = some (0x18, 0, 2) ∧
    yes (exec (.cpy hd ⟨1, 1, g 3, g 4, 0⟩) s) (fun t => decide ((hand t 1).st = .done) && (t.th.queue 1).isEmpty) = true ∧
    yes (exec (.cpy hd ⟨1, 1, g 3, g 4, 5⟩) s) (fun t => decide ((hand t 1).st = .pending) && (t.th.queue 1).length == 1) = true ∧
    yes (exec (.cpyf hd ⟨1, 3, g 3, g 4, 5⟩) s) (fun t => (t.th.queue 3).length == 1) = true ∧
    yes (exec (.qfence hd ⟨0x81⟩) s) (fun t => (t.th.queue 0).length == 1 && (t.th.queue 7).length == 1 && (t.th.queue 1).isEmpty) =
      true ∧ pcOf (exec (.qfence hd ⟨0⟩) s) = 0x10C := by decide +kernel
/-- `cpyb` with 0 and 1,025 K blocks, on a PENDING handle, and with a panel and a slice in HBM and in a vault (R289). -/
theorem test_panelCopy :
    let s := fun (n : Nat) => upd (withHandle .pending [(3, 0x1000000000000), (4, BitVec.ofNat 64 (n * 2 ^ 32))]) fun c => c
    (s 1).superstep (s 1).th = false ∧ stop (exec (.cpyb hd ⟨1, 0, g 3, g 4⟩) (s 0)) = some (0x1A, 0, 0) ∧
    stop (exec (.cpyb hd ⟨1, 0, g 3, g 4⟩) (s 1025)) = some (0x1A, 0, 1025) ∧
    stop (exec (.cpyb hd ⟨2, 0, g 3, g 4⟩) (s 1)) = some (0x18, 0, 2) := by decide +kernel
/-- Collectives and contests: their faults and their entries (R126, R149, R291, R293, R296). -/
theorem test_collContend :
    let s := fun (n : Word) => upd (inRegion true [(3, 0x240), (4, 0x241)]) fun c =>
      { c with sr := { c.sr with det := n }, h := c.h.set 2 ⟨.pending, 0, 0, 9, true⟩ }
    stop (exec (.coll hd ⟨1, g 3, .allreduce, .sum, .f32, .any⟩) (s 1)) = some (0x07, 0, 0) ∧
    stop (exec (.coll hd ⟨1, g 3, .allreduce, .sum, .f32, .tree⟩) (s 2)) = some (0x07, 0, 0) ∧
    stop (exec (.coll hd ⟨2, g 3, .barrier, .sum, .w, .any⟩) (s 0)) = some (0x18, 0, 2) ∧
    stop (exec (.coll hd ⟨1, g 4, .barrier, .sum, .w, .any⟩) (s 0)) = some (0x14, 0, 0x241) ∧
    yes (exec (.coll hd ⟨1, g 3, .barrier, .sum, .w, .any⟩) (s 0)) (fun t => (t.th.queue 6).length == 1) = true ∧
    stop (exec (.contend hd ⟨1, rg 3, 3, 1⟩) (s 1)) = some (0x07, 0, 0) ∧
    stop (exec (.contend hd ⟨1, rg 3, 15, 1⟩) (s 0)) = some (0x1D, 0, 0xF01) ∧
    stop (exec (.contend hd ⟨1, rg 3, 14, 0⟩) (s 0)) = some (0x1D, 0, 0xE00) ∧
    yes (exec (.contend hd ⟨1, rg 3, 14, 0xFF⟩) (s 0)) (fun t => (t.th.queue 6).length == 1) = true := by decide +kernel

/-! ### `mma`, `mdrain`, the fabric, privileged instructions -/

/-- A region whose cell 0 holds its whole slice: A from local memory at 0x1000, rows of 64 bytes, the slice of B. -/
def matrix (koff : BitVec 11) : State :=
  { upd (inRegion true [(2, 0x2000), (3, 32), (4, 0x2004)]) fun c => { c with
      mat := { c.mat with a0 := Vector.replicate 128 0x3F800000, abase := 0x1000, rs := 64, ks := 64, koff := koff } } with
    regions := [{ region true 0 with a := { attrs true 0 with vault := 0x40000 } }],
    cells := [{ CellRec.reset 0 with owner := some 1 }],
    mem := [⟨0x1001, 0x40⟩, ⟨0x100000001, 0x42⟩] }

/-- The `mma` in progress of a state. -/
def running (r : Option MatRun) (s : State) : State := upd s fun c => { c with mrun := r }
def oneBlock : MmaOp := ⟨.f16, .f16, false, 1⟩
/-- The parts of a block, with their places in the buffer. -/
def blockAt (x : Except Trap (List (Machine.Part × Nat))) : List (Nat × Nat) := match x with
  | .ok ps => ps.map fun p => (p.1.pa, p.2)
  | .error _ => []
/-- The checks pass, and the reads of block 0 issue: rows of A at steps of 64 bytes, columns of B at the sub-slices. -/
theorem test_mmaReads :
    let s := matrix 0
    let a : AStream := ⟨64, 64, 0, false⟩
    let r := running (some ⟨a, false, none⟩) s
    s.th.matrixForked = false ∧ (match s.aStream s.th 64 with | .ok b => b.rsx == 64 && !b.paged | .error _ => false) = true ∧
    s.mmaChecks s.th a oneBlock = none ∧ yes (exec (.mma hd oneBlock) s) (fun t => t.th.mrun == some ⟨a, false, none⟩) = true ∧
    blockAt (s.aBlock s.th a .f16 0 15) = [(0x13C0, 990)] ∧ blockAt (s.bBlock s.th 1056 .f16 0 7) = [(0x10001C000, 1518)] ∧
    ((List.range 16).all (fun i => (s.aBlock r.th a .f16 0 i).toOption.isSome) &&
      (List.range 8).all fun j => (s.bBlock r.th 1056 .f16 0 j).toOption.isSome) = true ∧
    yes (exec (.mma hd oneBlock) r) (fun t => t.th.mq.iq.length == 24 && t.th.mat.koff == 0 && t.th.mrun.any MatRun.waiting) = true ∧
    yes (exec (.mma hd oneBlock) (running (some ⟨a, true, none⟩) s)) (fun t => decide (t.th.status = .parked .drain)) = true := by
  decide +kernel
/-- A[0][0] = 2, B[0][0] = 3 on an accumulator of ones: the element (0, 0) becomes 7, the others stay (R118, R250). The last
block completes the instruction; an earlier one moves the offset and leaves it in progress (R253). -/
theorem test_mmaAdds :
    let buf : List Byte := [0, 0x40] ++ List.replicate 1054 0 ++ [0, 0x42] ++ List.replicate 526 0
    let s := running (some ⟨⟨64, 64, 0, false⟩, false, some buf⟩) (matrix 0)
    a0 (exec (.mma hd oneBlock) s) 0 0 = 0x40E00000 ∧ a0 (exec (.mma hd oneBlock) s) 0 1 = 0x3F800000 ∧
    a0 (exec (.mma hd oneBlock) s) 15 7 = 0x3F800000 ∧ blockFlags s oneBlock buf &&& fpEnables s.th.sr = 0 ∧
    yes (exec (.mma hd oneBlock) s) (fun t => t.th.mat.koff == 0 && t.th.pc == 0x10C && t.th.mrun.isNone) = true ∧
    yes (exec (.mma hd ⟨.f16, .f16, false, 2⟩) s) (fun t => t.th.mat.koff == 1 && t.th.mrun.isSome && t.th.pc == s.th.pc) = true :=
  by decide +kernel
/-- A signalling NaN in A with the invalid trap on adds nothing (R124, R250). -/
theorem test_mmaTraps :
    let buf : List Byte := [1, 0x7C] ++ List.replicate 1582 0
    let s := upd (running (some ⟨⟨64, 64, 0, false⟩, false, some buf⟩) (matrix 0)) fun c =>
      { c with sr := { c.sr with fpctl := 0x1F00 } }
    blockFlags s oneBlock buf &&& fpEnables s.th.sr ≠ 0 ∧
    (stop (exec (.mma hd oneBlock) s)).map Prod.fst = some 0x1B ∧ a0 (exec (.mma hd oneBlock) s) 0 0 = 0x3F800000 := by
  decide +kernel
/-- The faults of `mma`: a stream without translation, an offset at the end, a descriptor, a slice that is not granted,
a block of A outside the windows (R249, R250). -/
theorem test_mmaFaults :
    let to_ := fun (a : BitVec 56) => upd (matrix 0) fun c => { c with mat := { c.mat with abase := a } }
    let far := running (some ⟨⟨64, 64, 0, false⟩, false, none⟩) (to_ 0x20000)
    (stop (exec (.mma hd oneBlock) (to_ 0x1000000000000))).map Prod.fst = some 0x10 ∧
    stop (exec (.mma hd oneBlock) (matrix 1)) = some (0x1A, 0, 32) ∧ stop (exec (.mma hd oneBlock) (to_ 0x1001)) = some (0x1A, 0, 0x1001) ∧
    stop (exec (.mma hd oneBlock) { matrix 0 with regions := [region true 0] }) = some (0x0B, 0, 0x200000000) ∧
    (far.kBlock far.th ⟨64, 64, 0, false⟩ oneBlock 0).toOption.isNone = true ∧
    stop (exec (.mma hd oneBlock) far) = some (0x0C, 0, 0x20000) := by decide +kernel
/-- Row 1 of a block of BFP8 elements with its exponent pair in fixed memory (R247). -/
theorem test_mmaBfp :
    let s := upd (matrix 0) fun c => { c with mat := { c.mat with axbase := 0x1800 } }
    blockAt (s.aBlock s.th ⟨64, 32, 0, false⟩ .bfp8 1 1) = [(0x1060, 34), (0x1806, 66)] ∧
    placed (s.placeAt s.th .read 0x1060 32) = [0x1060] ∧ placed (s.placeAt s.th .read 0x1806 2) = [0x1806] ∧
    s.th.mat.abase.toNat + (1 * 64 + 1 * 32) < 2 ^ 40 := by decide +kernel
/-- A drain of ones to rows of 32 bytes, and to a misaligned BFP destination; the accumulator is zeroed when it says so
(R255, R257). -/
theorem test_mdrain :
    let s := matrix 0
    let o : MdrainOp := ⟨.f32, .dyn, false, g 2, g 3, 0, 0, true, true⟩
    let r := drainStores o false s.th
    s.drainChecks s.th o r.1 = none ∧ orFlags r.2 &&& fpEnables s.th.sr = 0 ∧
    (match s.placeStores s.th r.1 with
      | .ok ps => decide (s.sealedPart (ps.map Prod.fst) = none ∧ s.absentPart (ps.map Prod.fst) = none) &&
          ps.map (fun p => (p.1.pa, p.2.length)) == (List.range 16).map fun i => (0x2000 + 32 * i, 32)
      | .error _ => false) = true ∧
    yes (exec (.mdrain hd o) s) (fun t => (t.th.mq.iq.map MemOp.act).head? ==
      some (.store ((List.range 32).map fun k => some (([0, 0, 0x80, 0x3F] : List Byte).getD (k % 4) 0))) &&
      t.th.mq.iq.length == 16 && elem t.th.mat false 0 0 == 0x3F800000 && decide (t.th.status = .parked .drain)) = true ∧
    yes (exec (.mdrain hd { o with zero := false }) s) (fun t => t.th.mq.iq.length == 16 &&
      elem t.th.mat false 0 0 == 0x3F800000 && t.th.pc == 0x10C) = true ∧
    stop (exec (.mdrain hd ⟨.bfp8, .dyn, false, g 4, g 3, 0, 0, true, false⟩) s) = some (0x1A, 0, 0x2004) ∧
    stop (exec (.mdrain hd ⟨.f32, .dyn, false, g 5, g 3, 0, 0, true, false⟩)
      (upd s fun c => { c with regs := c.regs.wg 5 0xF000000000000000 })) = some (0x0C, 0, 0xF000000000000000) := by decide +kernel
/-- A zero drain clears its accumulator when none of its stores is left in IQ(c) (R85, R257). -/
theorem test_mdrainZeroes :
    let o : MdrainOp := ⟨.f32, .dyn, false, g 2, g 3, 0, 0, true, true⟩
    let s := fun n => upd (matrix 0) fun c => { c with
      pend := [⟨5, c.pc, .none, 1, [], false⟩], mq := { c.mq with iq := [⟨n, .cell 0, 0x2000, 0x2000, ⟨false, none⟩, .store [some 1], false, []⟩] } }
    (s 6).th.pend.find? (fun p => p.dest == Dest.none && p.pc == (s 6).th.pc) = some ⟨5, (s 6).th.pc, .none, 1, [], false⟩ ∧
    yes (exec (.mdrain hd o) (s 6)) (fun t => decide (t.th.status = .parked .drain) && elem t.th.mat false 0 0 == 0x3F800000) = true ∧
    orFlags (drainStores o false (s 4).th).2 &&& fpEnables (s 4).th.sr = 0 ∧
    yes (exec (.mdrain hd o) (s 4)) (fun t => t.th.pend.isEmpty && elem t.th.mat false 0 0 == 0 && t.th.pc == 0x10C) = true := by
  decide +kernel
/-- A drain of signalling NaNs with the invalid trap on stores nothing (R257). -/
theorem test_mdrainTraps :
    let s := upd (matrix 0) fun c => { c with
      mat := { c.mat with a0 := Vector.replicate 128 0x7F800001 }, sr := { c.sr with fpctl := 0x1F00 } }
    let o : MdrainOp := ⟨.f32, .dyn, false, g 2, g 3, 0, 0, true, true⟩
    orFlags (drainStores o false s.th).2 &&& fpEnables s.th.sr ≠ 0 ∧
    (stop (exec (.mdrain hd o) s)).map Prod.fst = some 0x1B ∧ queued (exec (.mdrain hd o) s) = [] := by decide +kernel
/-- `cpyb` with a granted slice enters its queue (R289, R290). -/
theorem test_panelEntry :
    let s := upd (matrix 0) fun c => { c with regs := c.regs.wg 4 0x100000000 }
    s.superstep s.th = false ∧ s.panelFault s.th 0x2000 0x100000000 = none ∧ s.sliceFault s.th = none ∧
    yes (exec (.cpyb hd ⟨1, 0, g 2, g 4⟩) s) (fun t => (t.th.queue 0).length == 1) = true := by decide +kernel

/-- A context with a claim of two patches in a state, or without one. -/
def claimed (st : Option ClaimState) (cfg sat : Bool) (rs : List (BitVec 6 × Word)) : State :=
  { solo rs with
    cells := [{ CellRec.reset 0 with owner := some 1 }],
    claims := match st with
      | none => []
      | some st => [⟨1, 0, 2, st, true, cfg, sat, 5, [], [], 0, [], [], [], 0, 0⟩] }
/-- The claim states, queue 7 and the state of h1 after an outcome. -/
def fabricOf (o : Out) : List ClaimState × List Course × Option HState := match o with
  | .next t => (t.claims.map Claim.st, (t.th.queue 7).map Entry.course, some (hand t 1).st)
  | _ => ([], [], none)
def fabricOn (i : Instr) (st : Option ClaimState) (cfg : Bool) := fabricOf (exec i (claimed st cfg false [(2, 0x100010001)]))
/-- The states and handles of the nine operations (R133 to R138, R297). -/
theorem test_fabricStates :
    fabricOn (.afclaim hd ⟨1, false, 64⟩) none false = ([], [.begun], some .pending) ∧
    fabricOn (.afcal hd ⟨1⟩) (some .idle) false = ([.idle], [.begun], some .pending) ∧
    fabricOn (.afrun hd ⟨1⟩) (some .idle) true = ([.run], [], some .done) ∧
    fabricOn (.afstop hd ⟨1⟩) (some .run) true = ([.hold], [], some .done) ∧ fabricOn (.afrel hd ⟨1⟩) (some .run) true = ([], [], some .done) ∧
    fabricOn (.afsettle hd ⟨1, g 2⟩) (some .run) true = ([.run], [.begun], some .pending) := by decide +kernel
/-- Claims in the wrong state and the operands of `afsettle` (R135, R138, R298). -/
theorem test_fabricFaults :
    ([Instr.afcal hd ⟨1⟩, .afrun hd ⟨1⟩, .afstop hd ⟨1⟩, .afrel hd ⟨1⟩].map fun i =>
      (stop (exec i (claimed none false false []))).map Prod.fst) = List.replicate 4 (some 0x1E) ∧
    (stop (exec (.afclaim hd ⟨1, true, 1⟩) (claimed (some .idle) false false []))).map Prod.fst = some 0x1E ∧
    (stop (exec (.afcal hd ⟨1⟩) (claimed (some .run) true false []))).map Prod.fst = some 0x1E ∧
    (stop (exec (.afrun hd ⟨1⟩) (claimed (some .idle) false false []))).map Prod.fst = some 0x1E ∧
    stop (exec (.afsettle hd ⟨1, g 2⟩) (claimed (some .run) true false [(2, 1)])) = some (0x1F, 0, 1) ∧
    stop (exec (.afsettle hd ⟨1, g 2⟩) (claimed (some .run) true true [(2, 0x100010001)])) = some (0x20, 0, 5) := by decide +kernel
/-- An entry of a fabric instruction that waits, its handle h1, and what it finds at the head or behind another (R280). -/
theorem test_fabricHead :
    let e : Entry := ⟨4294967297, 0, .fabric .cal, .waiting, false, 0, some (1, Handle.reset), false⟩
    let s := withQueue 7 [e] (claimed (some .idle) true false [])
    let behind := withQueue 7 [entryOf 9 (.fabric .run) .begun, e] s
    let early := upd (withQueue 7 [{ e with seq := 2 }] s) fun c => { c with mq := { c.mq with outs := [⟨1, .cell 0, true, false⟩] } }
    fabricForm s (.afcal hd ⟨1⟩) = some (hd, some 1, none, .cal) ∧ predOn hd s.th.regs = true ∧ detLevel s.th = 0 ∧
    ((s.th.queue 7).head? == some e && unissued e && s.th.ackedBelow e.seq) = true ∧
    fabricOf (exec (.afcal hd ⟨1⟩) s) = ([.idle], [.begun], some .empty) ∧ (behind.th.queue 7).find? unissued = some e ∧
    early.th.ackedBelow 2 = false ∧
    ([behind, early].map fun u => yes (exec (.afcal hd ⟨1⟩) u) fun t => decide (t.th.status = .parked .fabric)) = [true, true] ∧
    stop (exec (.afcal hd ⟨1⟩) (upd (claimed (some .idle) true false []) fun c =>
      { c with h := c.h.set 1 ⟨.pending, 0, 0, 9, true⟩ })) = some (0x18, 0, 1) ∧
    yes (exec (.afcal hd ⟨1⟩) { s with claims := [] }) (fun t => (t.th.queue 7).isEmpty && t.th.fault.any fun f => f.cause == 0x1E) =
      true := by decide +kernel
/-- Scales at the ends of their ranges (R142, R298). -/
theorem test_fabricScale :
    let s := claimed (some .idle) false false [(2, 0x20000 + 126), (5, 0x10000 + 128)]
    scaleBad 2 (s.th.regs.gr (g 2)) 31 = none ∧
    yes (exec (.afscale hd ⟨g 2, .imm 31⟩) s) (fun t => t.claims.map Claim.scales == [[(126, 31), (127, 31)]] ||
      t.claims.map Claim.scales == [[(127, 31), (126, 31)]]) = true ∧
    stop (exec (.afscale hd ⟨g 2, .imm 32⟩) s) = some (0x1F, 0, 32) ∧
    stop (exec (.afscale hd ⟨g 2, .imm (-33)⟩) s) = some (0x1F, 0, 2 ^ 64 - 33) ∧
    stop (exec (.afscale hd ⟨g 5, .imm 0⟩) s) = some (0x1F, 0, 0x10080) := by decide +kernel
/-- An entry at the head of queue 7, with its reads under way or answered. -/
def reading (w : AfOp) (io : Option Io) (st : ClaimState) (rs : List (BitVec 6 × Word)) : State :=
  let e : Entry := ⟨4294967297, 0, .fabric w, .waiting, false, 0, some (1, Handle.reset), false⟩
  let s := withQueue 7 [e] (claimed (some st) true false rs)
  { s with net := { s.net with ios := io.toList } }
def answered (bytes : List Byte) : Option Io := some ⟨.engine 1 7, 4294967297, bytes, 0, 0, none⟩
/-- A table: an entry is read, one that has been read joins it, a whole one is loaded, a bad one refused (R132, R133). -/
theorem test_fabricTable :
    let at_ := fun ws => reading (.cfg 0x200 ws) none .idle [(3, 0x200)]
    let after := fun w => exec (.afcfg hd ⟨1, g 3⟩) (at_ [w])
    placed ((at_ []).placeAt (at_ []).th.asUnit .read 0x208 8) = [0x208] ∧ tableOver [] = false ∧ tableOver [0] = true ∧
    yes (exec (.afcfg hd ⟨1, g 3⟩) (at_ [])) (fun t => decide (t.th.status = .parked .fabric) &&
      t.net.ios == [⟨.engine 1 7, 4294967297, List.replicate 8 0, 1, 0, none⟩] && t.net.ch.length == 1) = true ∧
    yes (exec (.afcfg hd ⟨1, g 3⟩) (reading (.cfg 0x200 []) (answered (bytesOf 8 77)) .idle [(3, 0x200)]))
      (fun t => t.net.ios.isEmpty && ((t.th.queue 7).map Entry.entries) == [[77]]) = true ∧
    cfgError 2 [0] true = none ∧ fabricOf (after 0) = ([.idle], [], some .done) ∧
    yes (after 0) (fun t => (hand t 1).res == 1) = true ∧
    cfgError 2 [0xF000000000000000, 0] true = some 0 ∧
    yes (exec (.afcfg hd ⟨1, g 3⟩) (at_ [0xF000000000000000, 0]))
      (fun t => decide ((hand t 1).st = .failed) && (hand t 1).res == 0x7000000000000) = true ∧
    stop (exec (.afcfg hd ⟨1, g 3⟩) (claimed (some .idle) false false [(3, 0x201)])) = some (0x14, 0, 0x201) := by decide +kernel
/-- A sample: its list is read, a number outside the claim, the instant it begins (R139, R140). -/
theorem test_fabricSample :
    let w : AfOp := .sample 0x200 [] [] 0 0
    let rs : List (BitVec 6 × Word) := [(3, 0x200), (4, 0x204)]
    let i := Instr.afsample hd ⟨1, g 3, g 4, 1⟩
    let s := reading w none .hold rs
    placed (s.placeAt s.th.asUnit .read 0x204 2) = [0x204] ∧
    yes (exec i s) (fun t => t.net.ios.map Io.reads == [1]) = true ∧
    sampleBad 2 0x200 [128] = some 128 ∧ sampleBad 2 0x200 [127] = none ∧ sampleBad 2 0x202 [127] = some 0x202 ∧
    stop (exec i (reading w (answered [128, 0]) .hold rs)) = some (0x1F, 0, 128) ∧
    (let k := reading w (answered [5, 0]) .hold rs
     stop (exec i { k with claims := k.claims.map fun x => { x with sat := true } }) = some (0x20, 0, 5)) ∧
    placed (s.placeAt s.th.asUnit .write 0x200 4) = [0x200] := by decide +kernel

/-- Comb firmware of comb 0, and a context that waits on its supervisor in slot 1 of cell 0. -/
def firmware (rs : List (BitVec 6 × Word)) (d : Ctx → Ctx) : State :=
  { upd (solo rs) fun c => { c with level := .comb, place := .supervisor 0 } with
    hub := { Hub.reset with live := 1 },
    pool := [d { Ctx.reset with
      cid := 7, slot := 1, status := .parked .supervisor, regs := Regs.launch.wg 5 0x77, pc := 0x140 }] }
/-- The context 7 after an outcome. -/
def seven (o : Out) (p : Ctx → Bool) : Bool := yes o fun t => (t.ctx? 7).any p

/-- Privileged instructions at the levels that may not run them, predicate off or not (R300). -/
theorem test_privilegeFaults :
    ([Instr.ctxsave hdOff ⟨1, g 2, g 3, false, 0⟩, .ctxload hd ⟨1, g 2, g 3, false, false, 0⟩, .mint hd ⟨g 2, g 3⟩,
      .fret hd ⟨1, g 2, 0⟩, .tlbwr hd ⟨1, 2, 3, 0, 0, 0⟩, .tlbinv hd ⟨1, 2, 3, 0, 0⟩, .snap hd ⟨1⟩, .mseal hd ⟨1, g 2, g 3⟩].map
      fun i => stop (exec i (solo []))) =
      [0xA200, 0xA201, 0xA202, 0xA203, 0xA204, 0xA205, 0xA300, 0xA301].map (fun a => some (0x05, 0, a)) ∧
    stop (exec (.snap hd ⟨1⟩) (firmware [] id)) = some (0x05, 0, 0xA300) ∧ (firmware [] id).th.level = .comb := by decide +kernel
set_option maxRecDepth 200000 in
/-- Save and its rejections: slot 3, a cell that does not exist, an empty slot, a context with work on its way (R335). -/
theorem test_ctxsave :
    let s := fun (d : Ctx → Ctx) => firmware [(3, 0x100000), (4, 128)] d
    g1 (exec (.ctxsave hd ⟨1, g 0, g 3, false, 3⟩) (s id)) = 5 ∧ g1 (exec (.ctxsave hd ⟨1, g 4, g 3, false, 1⟩) (s id)) = 6 ∧
    g1 (exec (.ctxsave hd ⟨1, g 0, g 3, false, 0⟩) (s id)) = 2 ∧
    g1 (exec (.ctxsave hd ⟨1, g 0, g 3, false, 1⟩) (s fun c => { c with status := .running })) = 1 ∧
    ((s id).ctx? 7).isSome = true ∧ (s id).edge? 7 = none ∧ (occupant (s id) 0 1).isSome = true ∧ cellNamed (s id) (g 0) = some 0 ∧
    seven (exec (.ctxsave hd ⟨1, g 0, g 3, false, 1⟩) (s id)) (fun c => decide (c.status = .saved) && c.saveArea == some 0x100000) =
      true ∧
    yes (exec (.ctxsave hd ⟨1, g 0, g 3, false, 1⟩) (s fun c => { c with mq := { c.mq with outs := [⟨1, .cell 0, true, false⟩] } }))
      (fun t => decide (t.th.status = .parked .drain)) = true := by decide +kernel
/-- The rejections of a load: slot 3, a cell that does not exist, a slot that holds a context, an unknown context (R335). -/
theorem test_ctxload :
    let s := fun va => upd (firmware [(3, va), (4, 128)] id) fun c => c
    g1 (exec (.ctxload hd ⟨1, g 0, g 3, false, false, 3⟩) (s 0x100000)) = 5 ∧
    g1 (exec (.ctxload hd ⟨1, g 4, g 3, false, false, 0⟩) (s 0x100000)) = 6 ∧
    g1 (exec (.ctxload hd ⟨1, g 0, g 3, false, false, 1⟩) (s 0x100000)) = 1 ∧
    g1 (exec (.ctxload hd ⟨1, g 0, g 3, false, false, 0⟩) (s 0x100000)) = 3 := by decide +kernel
/-- `mint`, and `fret` of a stopped context, of one whose record is not posted, of one that runs (R335, R336). -/
theorem test_fret :
    let f : FaultRec := ⟨6, 0, 0x200, 0, 0, true⟩
    let s := firmware [(4, 127), (5, 128)] fun c => { c with fault := some f, sr := { c.sr with tpc := 0x200 } }
    seven (exec (.fret hd ⟨1, g 0, 1⟩) s) (fun c => decide (c.status = .ready ∧ c.pc = 0x200 ∧ c.fault = none)) = true ∧
    yes (exec (.fret hd ⟨1, g 0, 1⟩) (firmware [] fun c => { c with fault := some { f with posted := false } }))
      (fun t => decide (t.th.status = .parked .drain)) = true ∧
    g1 (exec (.fret hd ⟨1, g 0, 1⟩) (firmware [(1, 9)] fun c => { c with status := .ready })) = 0 ∧
    g1 (exec (.fret hd ⟨1, g 0, 1⟩) (firmware [] fun c => { c with status := .running })) = 1 ∧
    yes (exec (.mint hd ⟨g 4, g 0⟩) s) (fun t => t.net.mints == [⟨127, 0⟩]) = true ∧
    yes (exec (.mint hd ⟨g 5, g 0⟩) s) (fun t => t.net.mints.isEmpty && t.th.pc == 0x10C) = true := by decide +kernel
/-- TLB writes and invalidations (R343, R344). -/
theorem test_tlb :
    let s := firmware [(2, 0x10000000020), (3, 0x8000000D0), (6, 7)] id
    let e : TlbEntry := ⟨0x10000000020, 0x8000000D0⟩
    entryOk e = true ∧ entryOk ⟨0, 7⟩ = false ∧
    g1 (exec (.tlbwr hd ⟨1, 0, 6, 0, 0, 0⟩) s) = 7 ∧ g1 (exec (.tlbwr hd ⟨1, 2, 3, 3, 0, 0⟩) s) = 7 ∧
    g1 (exec (.tlbwr hd ⟨1, 2, 3, 0, 7, 0⟩) s) = 8 ∧
    yes (exec (.tlbwr hd ⟨1, 2, 3, 2, 0, 127⟩) s) (fun t => (t.combRec 0).tlb == [e] && (t.cellRec 127).tlb == [e] &&
      (t.cellRec 0).tlb == []) = true ∧
    yes (exec (.tlbwr hd ⟨1, 2, 3, 1, 0, 0⟩) s) (fun t => (t.combRec 0).tlb == [] && (t.cellRec 0).tlb == [e]) = true ∧
    g1 (exec (.tlbinv hd ⟨1, 2, 3, 3, 0⟩) s) = 7 ∧ g1 (exec (.tlbinv hd ⟨1, 2, 3, 0, 2⟩) s) = 7 ∧ s.th.invOpen = none ∧
    s.invBounds 0 1 7 = [(1, 0)] ∧
    yes (exec (.tlbinv hd ⟨1, 2, 6, 1, 0⟩) { s with combs := [{ CombRec.reset 0 with tlb := [e, ⟨e.w0 + 0x7000000000000, e.w1⟩] }] })
      (fun t => t.th.regs.rg 1 == 0 && (t.combRec 0).tlb == [e] && (t.combRec 0).tlbgen == 1) = true := by decide +kernel
/-- The common snapshot, and a sealed meter block (R376, R377). -/
theorem test_snapSeal :
    let s := upd (firmware [(2, 7), (3, 0x100000), (4, 0x100001), (5, 6)] id) fun c => { c with level := .package }
    g1 (exec (.snap hd ⟨1⟩) { s with power := { PowerState.reset with snapHeld := true } }) = 0xFFFFFFFF ∧
    yes (exec (.snap hd ⟨1⟩) s) (fun t => t.power.snapArmed == some (1, 0, 1024) && t.th.pend.length == 1) = true ∧
    g1 (exec (.mseal hd ⟨1, g 5, g 3⟩) s) = 1 ∧ g1 (exec (.mseal hd ⟨1, g 2, g 4⟩) s) = 2 ∧
    (s.blockOf 7).map List.length = some 15 ∧ s.blockOf 6 = none ∧
    g1 (exec (.mseal hd ⟨1, g 2, g 3⟩) s) = 0 := by decide +kernel

/-- A saved context whose block of zeros carries its seal, beside the firmware of its comb. -/
noncomputable def sealMem : Memory :=
  Memory.setNum [] (paHbm 0 0x102FF8) 8 (Config.meterSeal 0 (List.replicate 15 0)).toNat
noncomputable def sealedState : State := { State.reset with
  th := { Ctx.reset with cid := 1, level := .comb, status := .running, place := .supervisor 0 }
  pool := [{ Ctx.reset with cid := 0, status := .saved }]
  mem := sealMem }
theorem sealed_num {off : Nat} (h : off < 0x4000) :
    sealedState.areaNum 0x100000 off 8 = sealMem.num (paHbm 0 0x100000 + off) 8 := by
  have e : saveAt sealedState.th 0x100000 off = paHbm 0 0x100000 + off := by
    have : saveAt sealedState.th 0x100000 off = paHbm 0 ((0x100000 + off) % 2 ^ 36) := by
      simp [saveAt, launchPa, sealedState, Ctx.comb, Ctx.comb?, combFrame]
    rw [this, Nat.mod_eq_of_lt (by omega)]
    simp only [paHbm, Nat.add_assoc]
  have n : ¬ 2 ^ 47 ≤ paHbm 0 0x100000 + off := by simp only [paHbm]; omega
  simp only [State.areaNum, State.peek, e, if_neg n]
  rfl
theorem sealed_far {off : Nat} (h : off + 8 ≤ 0x2FF8) : sealedState.areaNum 0x100000 off 8 = 0 := by
  rw [sealed_num (by omega), Memory.num, show sealMem = Memory.write [] _ (bytesOf 8 _) from rfl,
    Memory.read_write_other _ (Or.inl (by simp only [paHbm]; omega)),
    Memory.read_empty (Or.inr (by simp only [serviceEnd, paHbm]; omega))]
  rfl
/-- A load of its data without the carve-out is refused, one without either goes on (R333, R335). -/
theorem test_sealedLoad : sealedState.th.level = .comb ∧ sealedState.th.status = .running ∧
    sealedState.areaNum 0x100000 0 8 = 0 ∧ sealedState.sealOk 0x100000 0 = true ∧ occupant sealedState 0 0 = none ∧
    ∃ c, sealedState.ctx? 0 = some c ∧ c.status = .saved ∧ sealedState.loadHeld 0 c false false = false ∧
      sealedState.loadHeld 0 c false true = true := by
  have block : (List.range 15).map (fun n => sealedState.areaWord 0x100000 (0x2F00 + 8 * n)) = List.replicate 15 0 := by
    rw [show List.replicate 15 (0 : Word) = (List.range 15).map fun _ => 0 from rfl]
    refine List.map_congr_left fun n hn => ?_
    rw [State.areaWord, sealed_far (by have := List.mem_range.mp hn; omega)]
    rfl
  have mac : sealedState.areaWord 0x100000 0x2FF8 = Config.meterSeal 0 (List.replicate 15 0) := by
    rw [State.areaWord, sealed_num (by omega), show paHbm 0 0x100000 + 0x2FF8 = paHbm 0 0x102FF8 from rfl, sealMem,
      Memory.num_setNum rfl, show 256 ^ 8 = 2 ^ 64 from rfl, Nat.mod_eq_of_lt (BitVec.isLt _), BitVec.ofNat_toNat,
      BitVec.setWidth_eq]
  refine ⟨rfl, rfl, sealed_far (by omega), ?_, rfl, _, rfl, rfl, rfl, rfl⟩
  simp only [State.sealOk, block, mac, beq_self_eq_true]

/-! ### The engines, the plane and the swarm between instructions -/

/-- Entries begin when the operations before them are acknowledged; a fence heads both its queues; an outcome resolves its
handle (R97, R98, R138). -/
theorem test_engineEvents :
    let c : Work := .copy ⟨.raw, 0, 0, 4, 0, 0, false, none, none, none⟩
    let s := upd (withQueue 1 [entryOf 9 c .waiting] (solo [])) fun c => c
    let held := upd s fun c => { c with mq := { c.mq with outs := [⟨0, .cell 0, true, false⟩] }, eq := c.eq }
    let late := upd held fun c => { c with eq := Vector.replicate 8 [{ entryOf 9 (.copy ⟨.raw, 0, 0, 4, 0, 0, false, none, none, none⟩) .waiting with seq := 1 }] }
    let f := withQueue 7 [entryOf 4 (.fence 4 0x80) .waiting] (solo [])
    let d := withQueue 1 [entryOf 9 c (.done .done 5 6)] (upd (solo []) fun c => { c with h := c.h.set 2 ⟨.pending, 0, 0, 9, true⟩ })
    (s.ctx? 1).isSome = true ∧ s.th.resident = true ∧ s.th.ackedBelow 0 = true ∧
    yes (exec (.evEngineEntryBegin 1 1) s) (fun t => (t.th.queue 1).map Entry.course == [.begun]) = true ∧
    late.th.ackedBelow 1 = false ∧ yes (exec (.evEngineEntryBegin 1 1) late) (same late) = true ∧
    f.th.fenceOver 4 0x80 = true ∧ yes (exec (.evEngineEntryBegin 1 7) f) (fun t => (t.th.queue 7).isEmpty) = true ∧
    ((d.th.queue 1).find? fun x => x.outcome.isSome).isSome = true ∧
    yes (exec (.evHandleResolve 1 1) d) (fun t => (t.th.queue 1).isEmpty && t.th.h.get 2 == ⟨.done, 5, 6, 9, true⟩) = true := by
  decide +kernel
/-- A begun operation of queue 7 on a claim of 128 integrators in RUN whose states and calm time are given. -/
def analog (w : AfOp) (xi : List Int) (calm now : Nat) : State :=
  let s := withQueue 7 [entryOf 9 (.fabric w) .begun] (claimed (some .run) true false [])
  { s with now := now, claims := s.claims.map fun k => { k with xi := xi, calm := calm } }
/-- A calibration, a settling that holds and one that runs out of time, a saturation with and without an operation, of a
state at ±1.25 and of one that passes it (R136 to R138). -/
theorem test_fabricEvents :
    let p : Word := 0x100010001
    let high : List Int := List.replicate 127 0 ++ [5 * 2 ^ 30 + 1]
    let idle := fun (xi : List Int) => withQueue 7 [] (analog .cal xi 0 5)
    fabricOf (exec (.evAfcalComplete 1) (analog .cal [] 0 0)) = ([.run], [.done .done 0 0], some .empty) ∧
    yes (exec (.evAfcalComplete 1) (analog .cal [] 0 0)) (fun t => t.claims.map Claim.cal == [true]) = true ∧
    settleHold p = 1 ∧ settleT p = 1 ∧
    fabricOf (exec (.evFabricSettleDone 1) (analog (.settle p) [] 10 10)) = ([.run], [.done .done 10 0], some .empty) ∧
    fabricOf (exec (.evFabricSettleDone 1) (analog (.settle p) [] 9 10)) = ([.run], [.begun], some .empty) ∧
    fabricOf (exec (.evFabricSettleTimeout 1) (analog (.settle p) [] 0 1000)) =
      ([.run], [.done .failed 0x8000000000000 0], some .empty) ∧
    satLevel < (⟨1, 0, 2, .run, true, true, false, 0, [], [], 0, high, [], [], 0, 0⟩ : Claim).xiAt 127 ∧
    fabricOf (exec (.evFabricSaturation 1 127) (analog (.settle p) high 0 5)) =
      ([.run], [.done .failed 0x900000000007F 0], some .empty) ∧
    yes (exec (.evFabricSaturation 1 127) (idle high)) (fun t => t.claims.map (fun k => (k.sat, k.sint, k.held, k.xiAt 127)) ==
      [(true, 127, [127], 5 * 2 ^ 30)]) = true := by decide +kernel
/-- At rest: an integrator with an empty table, its state at +1.25, does not pass (R131, R137). -/
theorem test_rest : let k : Claim := ⟨1, 0, 1, .run, true, true, false, 0, [], [], 0, [5 * 2 ^ 30], [], [], 0, 0⟩
    k.passing 0 = false ∧ k.xiAt 0 = satLevel := by decide +kernel
/-- The gain and the bias of an entry (R129); time passes over a claim in HOLD, and not past a state beyond ±1.25 in RUN, nor
past a relock of 600 ns (R131, R137). -/
theorem test_flow :
    let k : Claim := ⟨1, 0, 1, .hold, false, true, false, 0, [0x1000020000000000, 0x3000000000000200, 0], [], 0, 7 :: List.replicate 63 0, [], [], 0, 0⟩
    let s : State := { solo [] with claims := [k] }
    let u : State := { s with claims := [{ k with st := .run, xi := [5 * 2 ^ 30 + 1] }] }
    let v : State := { s with claims := [], frames := [{ FrameRec.reset 0 with relock := some 700, relockAt := 0 }], now := 600 }
    k.kept = [0x1000020000000000, 0x3000000000000200, 0] ∧ gainCode k.kept 0 = 2 ∧ biasOf k.kept 0 = 2 ^ 32 ∧ s.timeDue = false ∧
    yes (s.makeMove (.time 1)) (fun t => t.now == 1 && t.claims == [k]) = true ∧ s.fabricFlow.claims = [k] ∧
    yes (u.makeMove (.time 1)) (same u) = true ∧ yes (v.makeMove (.time 1)) (same v) = true := by decide +kernel
/-- A candidate joins its lane under the slot of its region, once; outside a region it joins none (R148, R149). -/
theorem test_contend :
    let w := fun s => withQueue 6 [entryOf 9 (.contend 77 3 5) .begun] s
    yes (exec (.evContendRegister 1) (w (solo []))) (same (w (solo []))) = true ∧
    yes (exec (.evContendRegister 1) (w (inRegion true []))) (fun t => t.plane.cands == [⟨3, 773, 77, 0, 0, 1, 9, 0, false, 0⟩] &&
      yes (exec (.evContendRegister 1) t) (same t)) = true := by decide +kernel
/-- A contest without and with candidates, its result for a program and for a claim (R134, R151 to R154). -/
theorem test_contests :
    let a : Cand := ⟨3, 5, 77, 0, 0, 1, 9, 0, false, 0⟩
    let b : Cand := ⟨3, 6, 78, 0, 0, 2, 8, 0, false, 0⟩
    let s := { solo [] with plane := ⟨[], [a, b], []⟩, now := 210 }
    let r : ContestResult := ⟨3, 5, 77, 0, 0, 1, [a], 420⟩
    let x : Cand := ⟨15, 0xCF2, 0, 0, 0, 1, 9, 0, true, 4⟩
    s.dueContest 3 = some (1, [a]) ∧ (s.enters 3 a && s.enters 3 b) = true ∧ ({ s with now := 209 } : State).dueContest 3 = none ∧
    contestCode 0 6 < contestCode 0 5 ∧ Cand.beats b { a with id := 6 } = true ∧
    yes (exec (.evWaggleContest 3) { s with now := 209 }) (same { s with now := 209 }) = true ∧
    yes (s.makeMove (.time 1)) (same s) = true ∧
    yes (exec (.evWaggleContest 3) s) (fun t => t.plane.results == [r] && (t.lane 3).last == 5) = true ∧
    (let w := withQueue 6 [entryOf 9 (.contend 77 3 5) .begun] { solo [] with plane := ⟨[], [], [r]⟩, now := 420 }
     yes (exec (.evContestResult 3) w) (fun t => (t.th.queue 6).map Entry.course == [.done .done 77 0x8000000000000000]) = true) ∧
    (let w := withQueue 7 [entryOf 9 (.fabric (.claim false 4)) .begun]
      { solo [] with plane := ⟨[], [], [⟨15, 0xCF2, 0, 0, 0, 1, [x], 420⟩]⟩, now := 420 }
     yes (exec (.evContestResult 15) w) (fun t => t.claims.map Claim.np == [4] &&
       (t.th.queue 7).map Entry.course == [.done .done 0x20004 0]) = true) := by decide +kernel

/-- A reduction of two 32-bit sums of a group of two members, the second in another package. -/
def pairGroup : Group := ⟨⟨5, 0, [⟨Config.package, 0, 0⟩, ⟨Config.package + 1, 0, 0⟩], 10⟩, [0, 0]⟩
def sumOf2 : CollOpnd := ⟨.allreduce, .sum, .w, .any, 0x240⟩
def bound : Binding := ⟨0, 5, 0, sumOf2, 2, 0, 0, [none, none], [0], [], [], [], none, [], false, [], 0⟩
def member : Registration := ⟨5, 0, 0, 1, 9, sumOf2, 2, 0, 0x200, 0x300, 0, true, false, none, false⟩
/-- A package that knows the group, with registrations and bindings. -/
def swarming (regs : List Registration) (bs : List Binding) (now : Nat) : State :=
  { solo [] with cells := [{ CellRec.reset 0 with owner := some 1 }], swarm := ⟨[pairGroup], regs, bs, 1, 0, [1, 2]⟩, now := now }
/-- What became of number 0. -/
def number (o : Out) (p : Binding → Bool) : Bool := yes o fun t => (t.binding? 0).any p

/-- The same group without its second member. -/
def ownGroup : Group := ⟨⟨5, 0, [⟨Config.package, 0, 0⟩], 10⟩, [0]⟩
theorem test_members : pairGroup.here 0 = true ∧ pairGroup.here 1 = false ∧ (∀ k < 1, ownGroup.here k = true) := by
  simp [Group.here, pairGroup, ownGroup]
/-- A registration of a group of this package alone is the first, and its number is bound (R157). -/
theorem test_binds :
    let s := { swarming [member] [] 0 with swarm := ⟨[ownGroup], [member], [], 1, 0, [1, 2]⟩ }
    s.firstReg ownGroup = some (0, sumOf2, 2, 0) ∧ s.inWindow = true ∧ s.group? 5 = some ownGroup := by
  refine ⟨?_, rfl, rfl⟩
  simp [State.firstReg, ownGroup, Group.here, member, List.range_succ]
/-- A member of another package registers the least number that is not bound (R157). -/
theorem test_farRegistration : ∃ c n r, (swarming [] [bound] 0).firstReg pairGroup = some (1, c, n, r) := by
  have far : (List.range 2).find? (fun x => !pairGroup.here x) = some 1 := by simp [pairGroup, Group.here, List.range_succ]
  refine ⟨(remoteDesc 5 1 1 2).1, (remoteDesc 5 1 1 2).2.1, (remoteDesc 5 1 1 2).2.2, ?_⟩
  have two : pairGroup.d.members.length = 2 := rfl
  simp only [State.firstReg, two, far]
  rfl
/-- A binding starts on its members once both hold it, and not before (R159). -/
theorem test_starts :
    let b := { bound with received := [0, 1] }
    let s := swarming [member] [b] 0
    s.mayStart pairGroup b 0 = true ∧ s.mayStart pairGroup b 1 = true ∧ (swarming [member] [bound] 0).mayStart pairGroup bound 0 = false ∧
    (s.regOf b 0).isSome = true ∧ (s.ctx? 1).isSome = true := by
  refine ⟨?_, ?_, ?_, rfl, rfl⟩ <;>
  simp [State.mayStart, State.issuedBy, bound, Group.here, List.range_succ, State.regOf, swarming, member,
    pairGroup, State.prevStarted, solo]
/-- Receipt, reads of the source, timeout, cancel of a collective number (R158 to R162). -/
theorem test_numbers :
    let s := swarming [member] [bound] 0
    number (exec (.evBindingReceive 0 0) (swarming [member] [{ bound with received := [] }] 0)) (fun b => b.received == [0]) =
      true ∧
    (match s.collParts s.th .read .w 0x200 (bound.sends 2 0) with
      | .ok ps => ps.map Prod.snd == [0] && decide (s.absentPart (ps.map Prod.fst) = none)
      | .error _ => false) = true ∧ s.io? (.engine 1 8) 9 = none ∧ bound.sends 2 0 = 2 ∧
    number (exec (.evTgTimeout 0) (swarming [member] [bound] 10000)) (fun b => b.retired) = true ∧
    yes (exec (.evTgTimeout 0) (swarming [member] [bound] 9999)) (fun t => t.swarm.binds == [bound]) = true ∧
    number (exec (.evCancelRecord 0 1) (swarming [{ member with cancel := true }] [bound] 0))
      (fun b => b.retired && b.reached == [1]) = true ∧
    number (exec (.evCancelRecord 0 1) (swarming [] [{ bound with retired := true }] 0)) (fun b => b.reached == [1]) = true := by
  decide +kernel
/-- All links trained. -/
def trained (s : State) : State := { s with hub := { s.hub with links := (List.range 30).map Link.trained } }
/-- A contribution whose reads have been answered, its link down and up (R160, R362). -/
theorem test_contribution :
    let b := { bound with received := [0, 1], started := [0, 1] }
    let w : Io := ⟨.engine 1 8, 9, List.replicate 8 0, 0, 0, none⟩
    let s := { swarming [member] [b] 7 with net := { Net.reset with ios := [w] } }
    s.io? (.engine 1 8) 9 = some w ∧ s.regOf b 0 = some member ∧ b.retired = false ∧ s.binding? 0 = some b ∧ b.inSwitch = false ∧
    (∀ k < 24, (s.link (6 + k)).up = false) ∧ ∀ k < 24, ((trained s).link (6 + k)).up = true := by decide +kernel
/-- A number that a switch takes fails once T_g has passed after its first contribution, and not while its only member, of
this package, is there and its link is up (R163). -/
theorem test_switchFailure (h : Config.inSwitch 0 = true) :
    let b : Binding := { bound with c := { sumOf2 with op := .max }, firstAt := some 0 }
    let s := swarming [member] [b] 10000
    let u := { trained (swarming [member] [b] 9999) with swarm := ⟨[ownGroup], [member], [b], 1, 0, [1, 2]⟩ }
    b.inSwitch = true ∧ b.retired = false ∧ s.allArrived b = false ∧ s.switchFails b = true ∧ u.switchFails b = false := by
  have here : (solo []).ctxs = [(solo []).th] := rfl
  have up : ∀ k < 24, ((trained (swarming [] [] 0)).link (6 + k)).up = true := by decide +kernel
  have up := up (Config.collLink 0 0 % 24) (Nat.mod_lt _ (by decide))
  simp only [trained, swarming, State.link] at up
  refine ⟨?_, rfl, by decide +kernel, ?_, ?_⟩
  · simp [Binding.inSwitch, bound, sumOf2, h]
  · simp [State.switchFails, State.tooLate, State.tgOf, swarming, State.group?, pairGroup, Binding.inSwitch, bound, sumOf2, h]
  · simp [State.switchFails, State.contributorLost, State.tooLate, State.tgOf, swarming, State.group?, ownGroup, bound, Group.here, State.regOf,
      member, List.range_succ, State.ctx?, State.ctxs, solo, user, State.reset, State.valtiaUp, State.link, trained]
    exact fun _ => up
/-- Heartbeats, failover, retry, standbys, and a group at the bounds of T_g (R161, R164, R364, R365). -/
theorem test_sequencer :
    let s := fun (now : Nat) => swarming [{ member with sent := false }] [] now
    yes (exec .evSequencerHeartbeat (s 9999)) (fun t => t.swarm.lastBeat == 0) = true ∧
    yes (exec .evSequencerHeartbeat (s 10000)) (fun t => t.swarm.lastBeat == 10000) = true ∧
    yes (exec (.evSequencerFailover 1) (s 49999)) (fun t => t.swarm.standbys == [1, 2]) = true ∧
    yes (exec (.evSequencerFailover 1) (s 50000)) (fun t => t.swarm.standbys == [2] && t.swarm.lastBeat == 50000) = true ∧
    yes (exec (.evSequencerFailover 2) (s 50000)) (fun t => t.swarm.standbys == [] &&
      t.swarm.regs.map Registration.sent == [false]) = true ∧
    yes (exec (.evRegistrationRetry 1) (s 0)) (fun t => t.swarm.regs.map Registration.sent == [true]) = true ∧
    yes (exec (.evStandbyReplacement 3) (s 0)) (fun t => t.swarm.standbys == [1, 2]) = true ∧
    (s 0).group? 6 = none := by decide +kernel
/-- A group of frame 0, of its partition and of another, and an identifier of 33 bits (R350, R365). -/
theorem test_groups :
    let s := swarming [] [] 0
    let made := fun id p => yes (exec (.evGroupCreate ⟨id, p, [⟨Config.package, 0, 0⟩], 10⟩) s) fun t => t.swarm.groups.length == 2
    (made 6 0 = true ∧ made 6 1 = false ∧ made (2 ^ 32) 0 = false) ∧ (s.frameRec 0).partition = 0 := by
  have p : ((swarming [] [] 0).frameRec 0).partition = 0 := rfl
  have f : (swarming [] [] 0).group? 6 = none := rfl
  have l : (swarming [] [] 0).swarm.groups.length = 1 := rfl
  simp [exec, execEvGroupCreate, p, f, l, yes]

/-! ### Regions and supervision between instructions -/

/-- A region of cells 0 and 1 with an RCB at stack offset 0, whose child table at 0x1000 names a child at 0x200. -/
def family (kids : Nat) (mem : List (Nat × Byte)) : State :=
  let s := inRegion true []
  { s with
    regions := [{ region true 0 with phase := .children, kids := kids, ctxs := [] }], hub := { Hub.reset with live := 1 },
    mem := [⟨paHbm 0 0x41, 0x10⟩] ++ mem.map fun x => ⟨paHbm 0 x.1, x.2⟩ }
/-- The first region after an outcome. -/
def first (o : Out) (p : Region → Bool) : Bool := yes o fun t => (t.region? (some 0)).any p

/-- A cell that has ended, with a PENDING handle, with its sibling still running, as the last (R33). -/
theorem test_cellComplete :
    let s := upd (inRegion true []) fun c => { c with ended := true }
    let p := upd s fun c => { c with h := c.h.set 2 ⟨.pending, 0, 0, 9, true⟩ }
    let last := { s with regions := [{ region true 0 with doneCells := [1] }] }
    (s.ctx? 1).isSome = true ∧ (s.region? (some 0)).isSome = true ∧
    yes (exec (.evCellComplete 1) p) (same p) = true ∧
    first (exec (.evCellComplete 1) s) (fun r => r.doneCells == [0]) = true ∧
    yes (exec (.evCellComplete 1) last) (fun t => t.ctxs.all fun d => d.region != some 0) = true ∧
    yes (exec (.evCellComplete 1) (upd (solo []) fun c => { c with ended := true })) (fun t => t.th.completed) = true := by
  decide +kernel
/-- A cell that owes a zero-length read, or has a write on its way, does not complete (R33, R101, R356). -/
theorem test_cellCompleteWaits :
    let s := fun mq => upd (inRegion true []) fun c => { c with ended := true, mq := { c.mq with eps := mq.1, outs := mq.2 } }
    let owes := s ([0], [])
    let busy := s ([], [⟨1, .cell 0, false, false⟩])
    (s ([], [])).th.drained = true ∧ owes.th.drained = true ∧ busy.th.drained = false ∧
    yes (exec (.evCellComplete 1) owes) (same owes) = true ∧ yes (exec (.evCellComplete 1) busy) (same busy) = true := by decide +kernel
/-- A child launches on its cells; one whose RCB has a reserved bit, one over the budget (R29, R30, R357). -/
theorem test_childLaunch :
    let s := family 1 [(0x200, 0x40), (0x1001, 2)]
    let bad := family 1 [(0x200, 0x40), (0x2FF, 1), (0x1001, 2), (0x1007, 0x80)]
    let large := family 1 [(0x200, 0x40), (0x208, 3), (0x226, 1), (0x1001, 2)]
    let e := fun (s : State) => s.launchNum 0 ((s.readRcb 0 0).fld 8 0 56) 8
    e s = 0x200 ∧ e bad = 0x8000000000000200 ∧ s.childrenOf 0 = [] ∧ (bad.plan 0 0x200 (attrs true 0) false).ok = false ∧
    ((large.plan 0 0x200 (attrs true 0) false).ok && (large.plan 0 0x200 (attrs true 0) false).childOver { region true 0 with ctxs := [] }) = true ∧
    (let p := s.plan 0 0x200 (attrs true 0) false
     p.ok = true ∧ p.childOver { region true 0 with ctxs := [] } = false ∧ p.own ≠ 0 ∧ p.fits [0, 1].contains [0, 1] = true ∧
     p.a.vault ≤ 0 ∧ p.a.nested = false) ∧
    yes (exec (.evChildLaunch 0 [0, 1]) s) (fun t => t.regions.length == 2 && t.pool.length == 3 &&
      (t.pool.drop 1).map Ctx.pc == [0x40, 0x40]) = true := by decide +kernel
/-- Time slices of 65,536 cycles (R53). -/
theorem test_timeslice :
    let b : Ctx := { Ctx.reset with cid := 2, slot := 1, status := .ready }
    let s := fun (now : Nat) => { solo [] with pool := [b], now := now }
    (s 0).cyclesIn 0 36408 = 65534 ∧ (s 0).cyclesIn 0 36409 = 65536 ∧
    yes (exec (.evContextTimeslice 0) (s 36408)) (fun t => decide (t.th.status = .running)) = true ∧
    yes (exec (.evContextTimeslice 0) (s 36409)) (fun t => decide (t.th.status = .ready)) = true := by decide +kernel
/-- Transfers of a region of two cells, both parked in the barrier, and how far the one in progress is. -/
def exchanging (xs : List Xfer) (now : Nat) (k : XMove) (ios : List Io) : State :=
  let s := upd (inRegion false []) fun c => { c with status := .parked .barrier }
  { s with
    pool := s.pool.map fun c => { c with status := .parked .barrier },
    regions := [{ region false 0 with sched := [xs], joined := [0, 1], closed := some 0, xmove := k }], now := now,
    cells := [{ CellRec.reset 0 with owner := some 1 }, { CellRec.reset 1 with owner := some 2 }],
    net := { Net.reset with ios := ios } }
/-- A transfer before its slot, at it, once its source has been read, and once its destination has been written: the next
one is left, or the compute phase begins after the last (R36, R37). -/
theorem test_exchange :
    let x : Xfer := ⟨2, 3, 0, false, 0x100, 1, false, 0x200⟩
    let r := region false 0
    let io := fun (rs as : Nat) => (⟨.engine 1 0, 0, [0, 7, 0], rs, as, none⟩ : Io)
    let go := fun (s : State) => exec (.evExchangeTransfer 0) s
    r.mover x = .engine 1 0 ∧ (exchanging [x] 64 .idle []).dataReady r 0 false = true ∧
    (exchanging [x] 64 .idle []).dataReady r 1 false = true ∧ ({ exchanging [x] 64 .idle [] with cells := [] } : State).dataReady r 0 false = false ∧
    yes (go (exchanging [x] 63 .idle [])) (same (exchanging [x] 63 .idle [])) = true ∧
    yes (go (exchanging [x] 64 .idle [])) (fun t => t.regions.map Region.xmove == [.reading] &&
      t.net.ch.map (fun f => f.op.pa) == [0x100] && t.net.ios == [⟨.engine 1 0, 0, [0, 0, 0], 1, 0, none⟩]) = true ∧
    yes (go (exchanging [x] 65 .reading [io 0 0])) (fun t => t.regions.map Region.xmove == [.writing] &&
      t.net.ch.map (fun f => (f.op.pa, f.op.act)) == [(0x10200, .store [some 0, some 7, some 0])]) = true ∧
    (exchanging [x] 66 .writing [io 0 0]).ioOver (.engine 1 0) 0 = true ∧
    ([0, 1].all fun k => (exchanging [x] 66 .writing [io 0 0]).joinHere r k) = true ∧
    first (go (exchanging [x] 66 .writing [io 0 0])) (fun y => y.joined == [] && y.closed == none) = true ∧
    first (go (exchanging [x, x] 66 .writing [io 0 0])) (fun y => y.xpos == 1 && y.closed == some 0 && y.xmove == .idle) = true := by
  decide +kernel
/-- A round edge without and with input channels, and the marker that ends it (R42). -/
theorem test_rounds :
    let a : Attrs := { attrs true 0 with rounds := true, period := 1000 }
    let s := fun (now : Nat) (chans : List (List Nat)) (aq : List Flight) => { inRegion true [] with
      regions := [{ region true 0 with a := a, chans := some chans }], now := now, net := { Net.reset with aq := aq } }
    let m : Flight := ⟨.ctx 2, ⟨4, .cell 0, 0, 0, ⟨false, none⟩, .mail 1 ⟨1, 0, .marker 1, 4⟩, false, []⟩⟩
    (s 999 [] []).th.roundAt = 0 ∧ (s 1000 [] []).edge? 1 = none ∧
    yes (exec (.evRoundTimerExpiry 1) (s 999 [[1], []] [])) (fun t => t.points.isEmpty) = true ∧
    yes (exec (.evRoundTimerExpiry 1) (s 1000 [[1], []] [])) (fun t => t.th.sr.round == 1 && t.th.mq.iq.length == 1) = true ∧
    yes (exec (.evRoundTimerExpiry 1) (s 1000 [[1], [0]] [])) (fun t => t.th.sr.round == 0 && t.points.map RestartPoint.done == [false]) =
      true ∧
    ((s 5 [[1], [0]] [m]).markerAt 1 1).isSome = true ∧
    yes (exec (.evRoundMarkerArrival 1 1) (s 5 [[1], [0]] [m])) (fun t => t.th.sr.round == 1 && t.net.aq.isEmpty) = true := by
  decide +kernel
/-- A context with an operation on its way records no restart point; a marker of a round that is over only leaves (R42, R44). -/
theorem test_edgeWaits :
    let a : Attrs := { attrs true 0 with rounds := true, period := 1000 }
    let s := fun (rd : Word) os => { upd (inRegion true []) (fun c => { c with sr := { c.sr with round := rd }, mq := { c.mq with outs := os } }) with
      regions := [{ region true 0 with a := a, chans := some [[1], [0]] }], now := 1000,
      net := { Net.reset with aq := [⟨.ctx 2, ⟨4, .cell 0, 0, 0, ⟨false, none⟩, .mail 1 ⟨1, 0, .marker 1, 4⟩, false, []⟩⟩] } }
    let w := s 0 [⟨1, .cell 0, false, false⟩]
    w.th.recordable = false ∧ (s 0 []).th.recordable = true ∧ (s 0 []).edge? 1 = none ∧
    yes (exec (.evRoundTimerExpiry 1) w) (same w) = true ∧ yes (exec (.evRoundMarkerArrival 1 1) w) (same w) = true ∧
    yes (exec (.evRoundMarkerArrival 1 1) (s 0 [])) (fun t => t.points.map RestartPoint.done == [true] &&
      t.points.map (fun p => p.ctx.sr.round) == [1]) = true ∧
    yes (exec (.evRoundMarkerArrival 1 1) (s 1 [])) (fun t => t.points.isEmpty && t.net.aq.isEmpty) = true := by decide +kernel
/-- The token starts, passes a cell, and finds the region terminated after a clean round (R46, R47). -/
theorem test_token :
    let s := fun (t : Token) => { upd (inRegion true []) (fun c => { c with status := .parked .mailbox }) with
      regions := [{ region true 0 with token := t }] }
    let q := fun (t : Token) => { s t with pool := (s t).pool.map fun c => { c with ended := true, mail := { c.mail with sent := 1 } } }
    (s .start).passive (region true 0) 0 = true ∧ (s .start).passive (region true 0) 1 = false ∧
    first (exec (.evTokenPass 0) (s .start)) (fun r => r.token == ⟨1, false, 0, 1, true⟩) = true ∧
    yes (exec (.evTokenPass 0) (s ⟨1, false, 0, 1, true⟩)) (same (s ⟨1, false, 0, 1, true⟩)) = true ∧
    first (exec (.evTokenPass 0) (q ⟨1, false, 0, 1, true⟩)) (fun r => r.token == ⟨0, false, 1, 1, true⟩) = true ∧
    first (exec (.evTokenPass 0) (s ⟨0, false, 0, 1, true⟩)) (fun r => r.terminated) = true ∧
    first (exec (.evTokenPass 0) (s ⟨0, false, 1, 1, true⟩)) (fun r => !r.terminated && r.token == ⟨0, false, 1, 1, false⟩) =
      true := by decide +kernel
/-- Interrupt messages with reason 0 and another, on a sound context and after a contained fault; a cell error (R57, R336,
R337). -/
theorem test_interrupts :
    let s := fun (n : Word) => { solo [] with net := { Net.reset with mints := [⟨0, n⟩] } }
    let bad := upd (s 1) fun c => { c with fault := some ⟨0x13, 0, 0, 0, 0, true⟩ }
    let block := upd (s 1) fun c => { c with mrun := some ⟨⟨64, 64, 0, false⟩, true, none⟩ }
    block.unfinished block.th = true ∧ yes (exec (.evMintArrival 0) block) (same block) = true ∧
    (s 0).unfinished (s 0).th = false ∧ (s 0).net.mints.length = 1 ∧ (s 0).onCell 0 = [(s 0).th] ∧ (s 0).edge? 1 = none ∧
    yes (exec (.evMintArrival 0) (s 0)) (fun t => decide (t.th.status = .parked .supervisor) && t.net.mints.isEmpty) = true ∧
    yes (exec (.evMintArrival 0) bad) (fun t => (t.cellRec 0).isSealed) = true ∧
    (solo []).th.cell?.isSome = true ∧
    yes (exec (.evCellError 1) (solo [])) (fun t => t.th.fault.map FaultRec.cause == some 0x23) = true := by decide +kernel
/-- Nothing reaches the cells of a frame that relocks (R370); the pre-empting message finds a context in its drain on the seat. -/
theorem test_interruptsSeat :
    let s := fun (st : Status) f => { upd (solo []) (fun c => { c with status := st }) with net := { Net.reset with mints := [⟨0, 0⟩] }, frames := f }
    let still := s .running [{ FrameRec.reset 0 with relock := some 700, relockAt := 0 }]
    still.stopped 0 = true ∧ yes (exec (.evMintArrival 0) still) (same still) = true ∧ (s (.parked .drain) []).stopped 0 = false ∧
    (s (.parked .drain) []).heldBack (s (.parked .drain) []).th = false ∧
    yes (exec (.evMintArrival 0) (s (.parked .drain) [])) (fun t => decide (t.th.status = .parked .supervisor)) = true := by decide +kernel
/-- A fault record goes to its ring; a ring of 256 is full; the tail consumes (R330). -/
theorem test_faultRecords :
    let f : FaultRec := ⟨6, 7, 0x200, 0x300, 9, false⟩
    let ring := fun (n : Nat) => { CombRec.reset 0 with sup := { ServiceRegs.reset with fqbase := 0x1000, fqhead := 2, fqcount := n } }
    let s := fun (n : Nat) => { upd (solo []) (fun c => { c with fault := some f }) with combs := [ring n] }
    (s 255).th.drained = true ∧
    yes (exec (.evFaultRecordPost 1) (s 256)) (fun t => t.th.fault == some f) = true ∧
    yes (exec (.evFaultRecordPost 1) (s 255)) (fun t => t.th.fault.any FaultRec.posted && (t.combRec 0).sup.fqhead == 3 &&
      wordAt t (paHbm 0 0x1040) == 0x0006000700000000 && wordAt t (paHbm 0 0x1048) == 0x200 &&
      wordAt t (paHbm 0 0x1050) == 0x300 && wordAt t (paHbm 0 0x1058) == 9) = true ∧
    yes (exec (.evFqtailWrite 0 false 1) (s 255)) (fun t => (t.combRec 0).sup.fqcount == 254) = true := by decide +kernel
/-- The window of an FP trap closes two windows later; a lost context ends its domain (R52, R124). -/
theorem test_collectionAndLoss :
    let e : FpEvent := ⟨0x10000, ⟨0x1B, 1, 0x100, 0, 4096, true⟩, 0, 0⟩
    let s := fun (now : Nat) => { inRegion true [] with regions := [{ region true 0 with fpEvents := [e] }], now := now }
    let l := upd (inRegion true []) fun c => { c with fault := some ⟨6, 0, 0, 0, 0, true⟩ }
    (s 12287).fpClosed (region true 0) 1 = false ∧
    first (exec (.evFpWindowClose 0) (s 12287)) (fun r => r.fpEvents == [e]) = true ∧
    first (exec (.evFpWindowClose 0) (s 12288)) (fun r => r.fpEvents.isEmpty && r.fpWindow == 2) = true ∧
    l.lost (region true 0) l.th = true ∧ (s 0).lost (region true 0) (s 0).th = false ∧
    yes (exec (.evFaultDomainEnd 7) l) (fun t => t.regions.map Region.ending == [true] &&
      t.ctxs.map Ctx.status == [.parked .supervisor, .parked .supervisor] &&
      (t.ctxs.all (t.quiet ·)) && yes (exec (.evFaultDomainEnd 7) t) fun u => u.ctxs.all fun d => d.region != some 0) = true := by decide +kernel

/-! ### The hub and power between instructions -/

/-- Queue 0 of frame 0 enabled with 16 slots, its ring at 0x2000, its completion ring at 0x3000, and entries. -/
def hubState (es : List QEntry) (mem : List (Nat × Byte)) : State :=
  let s := solo []
  { s with
    hub := { Hub.reset with live := 1, stage := 6, queues := [(0, ⟨0x8000000000002000, 9, 0, 0, 0x8000000000003000⟩)], entries := es, nextSeq := 8 },
    mem := mem.map fun x => ⟨paHbm 0 x.1, x.2⟩ }
/-- An accepted entry. -/
def entryAt (seq op : Nat) (rcb tag : Word) (taken : Bool) : QEntry := ⟨seq, 0, seq, op, rcb, tag, .accepted, .ok, taken, none, []⟩
/-- The entries after an outcome. -/
def entries (o : Out) (p : List QEntry → Bool) : Bool := yes o fun t => p t.hub.entries

/-- A doorbell of a queue that is live, is not, is not enabled; a launch and a fence taken up; a fence with an earlier entry
and without; a cancel (R354, R355). -/
theorem test_workQueues :
    let s := hubState [] [(0x2007, 1)]
    let off := { s with hub := { s.hub with queues := [(0, ⟨0x8000000000002000, 8, 0, 0, 0x8000000000003000⟩)] } }
    let launch := hubState [entryAt 3 1 0x200 9 false] []
    let fence := fun (taken : Bool) => hubState [entryAt 3 2 0 9 taken] []
    let behind := hubState [{ entryAt 2 1 0x200 9 true with st := .launched }, entryAt 3 2 0 9 true] []
    let cancel := hubState [entryAt 2 1 0x200 9 false, entryAt 3 3 0 9 false] []
    s.queueLive 0 = true ∧ s.queueLive 128 = false ∧ (s.queueRegs 0).enabled = true ∧ (off.queueRegs 0).enabled = false ∧
    entryIllegal (fun i => bytesAt (s.peek (ringPa 0 0x8000000000002000 0) 64) (8 * i) 8) = false ∧
    entries (exec (.evQueueDoorbell 0 1) s) (fun es => es == [⟨8, 0, 0, 1, 0, 0, .accepted, .ok, false, none, []⟩]) = true ∧
    entries (exec (.evQueueDoorbell 0 1) off) List.isEmpty = true ∧ launch.turn 0 = some (entryAt 3 1 0x200 9 false) ∧
    launch.cancelAhead (entryAt 3 1 0x200 9 false) = false ∧
    entries (exec (.evQueueLaunch 0) launch) (fun es => es == [{ entryAt 3 1 0x200 9 true with plan := some (launch.rootPlan (entryAt 3 1 0x200 9 false)) }]) = true ∧
    entries (exec (.evQueueFence 0) (fence false)) (fun es => es.map QEntry.taken == [true]) = true ∧
    entries (exec (.evQueueFenceComplete 0) (fence true)) List.isEmpty = true ∧
    yes (exec (.evQueueFenceComplete 0) (fence true)) (fun t => wordAt t (paHbm 0 (0x3000 + 96)) == 9 &&
      wordAt t (paHbm 0 (0x3000 + 104)) == 3) = true ∧
    behind.turn 0 = some (entryAt 3 2 0 9 true) ∧
    entries (exec (.evQueueFenceComplete 0) behind) (fun es => es.length == 2) = true ∧
    entries (exec (.evQueueCancel 0) cancel) List.isEmpty = true := by decide +kernel
/-- Register writes at the last address of a queue, and enabling (R354). -/
theorem test_queueRegisters :
    let s := hubState [] []
    yes (exec (.evRegisterWrite 0x10000 0xFFFFFFFFFFFFFFFF) s) (fun t => (t.queueRegs 0).base == 0xC0FFFFFFFFFFFFFF) = true ∧
    yes (exec (.evRegisterWrite 0x10008 0xFFFFFFFFFFFFFFFF) s) (fun t => (t.queueRegs 0).ctrl == 0x309) = true ∧
    yes (exec (.evRegisterWrite 0x1003F 5) s) (same s) = true ∧
    yes (exec (.evQueueEnable 0 true 15) s) (fun t => (t.queueRegs 0).ctrl == 31) = true ∧ s.hub.stage = 6 ∧
    yes (exec (.evQueueEnable 0 true 15) { s with hub := { s.hub with stage := 5 } }) (fun t => (t.queueRegs 0).ctrl == 9) = true := by decide +kernel
/-- A package with one launch that its queue has taken up: what was read of its tables then stays with it (R37, R41). -/
def takenUp (rcb : Word) (mem : List (Nat × Byte)) : QEntry × State :=
  let s := hubState [] mem
  let e := { entryAt 3 1 rcb 9 true with plan := some (s.rootPlan (entryAt 3 1 rcb 9 true)) }
  (e, { s with hub := { s.hub with entries := [e] } })
/-- A root of two cells launches on them; one whose RCB is misaligned does not run (R357, R358). -/
theorem test_launchSelect :
    let p := takenUp 0x200 [(0x200, 0x40), (0x208, 2), (0x226, 1)]
    let q := takenUp 0x240 []
    p.2.choose 0 = some p.1 ∧ q.1.plan.map Plan.ok = some false ∧ q.2.choose 0 = some q.1 ∧
    p.1.plan.any (fun x => decide (x.ok = true ∧ x.rootOver = false ∧ x.own ≠ 0 ∧ x.rcb.contests = false ∧
      p.2.shareOk x p.1 0 2 [0, 1] = true)) = true ∧ p.1.needs = [(0, 2)] ∧ 2 ≤ p.2.freeOn 0 ∧
    yes (exec (.evLaunchSelect 0 [0, 1]) p.2) (fun t => t.regions.map Region.map == [[0, 1]] && t.pool.map Ctx.pc == [0x40, 0x40]) =
      true ∧
    entries (exec (.evLaunchSelect 0 []) q.2) List.isEmpty = true := by decide +kernel
/-- Launch logic holds its frame for a root while cells or vault are short (R29, R358). -/
theorem test_launchHolds :
    let p := takenUp 0x200 [(0x200, 0x40), (0x208, 2), (0x226, 1)]
    let used := { p.2 with hub := { p.2.hub with live := 0 } }
    let full := { p.2 with regions := [{ region true 0 with map := [5], a := { attrs true 0 with vault := 0x40000000 } }] }
    let large := takenUp 0x200 [(0x200, 0x40), (0x208, 2), (0x212, 1), (0x226, 1)]
    used.freeOn 0 = 0 ∧ yes (exec (.evLaunchSelect 0 [0, 1]) used) (fun t => (t.frameRec 0).held == some 3 && t.regions.isEmpty) = true ∧
    p.1.plan.any (fun x => decide (x.vaultOn 0 ≤ p.2.vaultLeft 0)) = true ∧ full.vaultLeft 0 = 0 ∧ large.1.plan.any (fun x => decide (0 < x.vaultOn 0)) = true := by
  decide +kernel
/-- Links, a frequency step and its restart, a claim that loses calibration, scrub results, an export, time below the next
interval (R352, R362, R363, R367, R370, R378). -/
theorem test_linksPower :
    let s := trained { claimed (some .idle) false false [] with hub := { Hub.reset with live := 1 } }
    let step := { s with frames := [{ FrameRec.reset 0 with relock := some 600, cycBase := 5 }], now := 7 }
    linkOk 29 2 1120 = true ∧ linkOk 30 2 1120 = false ∧ linkOk 0 16 30 = false ∧ linkOk 0 16 25 = true ∧ (s.link 29).up = true ∧
    yes (exec (.evLinkFail 29) s) (fun t => !(t.link 29).up) = true ∧
    yes (exec (.evLinkRateChange 29 2 1120) s) (fun t => (t.link 29).width == 2) = true ∧
    yes (exec (.evLinkRateChange 29 2 1120) step) (fun t => (t.link 29).pending == some (2, 1120) && (t.link 29).width == 8) = true ∧
    yes (exec (.evFrequencyStep 0 600) s) (fun t => (t.frameRec 0).relock == some 600 && t.claims.map Claim.cal == [false]) = true ∧
    yes (exec (.evFrequencyStep 0 1800) step) (fun t => (t.frameRec 0).laterStep == some (1800, 0)) = true ∧
    yes (exec (.evRelockRestart 0) step) (fun t => (t.frameRec 0).mhz == 600 && (t.frameRec 0).fstep == 0x500000007) = true ∧
    (s.frameRec 0).relock = none ∧ s.now < s.power.nextInterval ∧ s.hub.live.getLsbD 0 = true ∧
    yes (exec (.evPatrolScrub 0 2147483647 .uncorrectable) s) (fun t => t.poisoned (paHbm 0 (32 * 2147483647)) 32) = true ∧
    yes (exec (.evPatrolScrub 0 0 .corrected) s) (fun t => t.power.corrections == [(0, 1)]) = true ∧
    yes (exec (.evExportRevocation 0 4) { s with frames := [{ FrameRec.reset 0 with imports := [⟨4, [], false⟩] }] })
      (fun t => (t.frameRec 0).imports.map Import.revoked == [true]) = true := by decide +kernel
/-- What a budget interval takes for the power of the parts: a part that has passed its allocation before is held to it (R4,
R367); duties of a frame that relocks wait for its restart (R381). -/
theorem test_budget :
    let s := { solo [] with hub := { Hub.reset with live := 1 } }
    let held := { s with power := { s.power with enforced := [0] } }
    let late := { s with frames := [{ FrameRec.reset 0 with relock := some 600, lateDuties := [(3, 7, 1)] }], now := 7 }
    s.measured ⟨0, 0, 0, [], []⟩ = 0 ∧ s.measured ⟨300000, 0, 0, [], []⟩ = 300000 ∧ held.measured ⟨300000, 0, 0, [], []⟩ = 250000 ∧
    s.measured ⟨2600000, 0, 0, [], []⟩ = 2600000 ∧ ¬ s.power.nextInterval ≤ s.now ∧
    yes (exec (.evRelockRestart 0) late) (fun t => (t.cellRec 3).duty == 7 && (t.frameRec 0).lateDuties.isEmpty) = true := by decide +kernel
/-- A snapshot before its instant and at it, the meters of a context, the order of the SPDM exchange (R376, R380). -/
theorem test_management :
    let s := fun (now : Nat) => { upd (solo []) (fun c => { c with pend := [⟨0, 0x100, .g 1 .d, 1, List.replicate 8 0, false⟩] }) with
      power := { PowerState.reset with snapArmed := some (1, 0, 1024), snapSeq := 4 }, now := now }
    yes (exec .evSnapshotTrigger (s 1023)) (fun t => !t.power.snapHeld) = true ∧
    yes (exec .evSnapshotTrigger (s 1024)) (fun t => t.power.snapHeld && t.power.snapSeq == 5 && t.th.regs.rg 1 == 4) = true ∧
    (s 1024).timeDue = true ∧ ((s 0).blockOf 1).isSome = true ∧
    yes (exec .evMeterList (s 0)) (fun t => t.power.mctp == [[1]]) = true := by decide +kernel
/-- An image of the fused root key and counter is sound when its signature verifies (R379). -/
theorem test_image (h : Config.signatureOk Config.rootKeyHash (Nat.pair 0 Config.securityVersion) 0 = true) :
    let i : Image := ⟨Config.rootKeyHash, Config.securityVersion, 0, 0⟩
    SecState.reset.accepts i = true ∧ (SecState.reset.accepts { i with keyHash := i.keyHash + 1 } = false) := by
  simp [SecState.accepts, SecState.reset, h]

/-! ### Witnesses of further clauses -/

/-- Firmware reads and writes its privileged registers; a number that names none is an illegal encoding (R326, R327). -/
theorem test_privilegedRegisters :
    let s := upd (firmware [(3, 0x1234)] id) fun c => { c with level := .comb }
    serviceCell s.th = some (0, false) ∧ ((privRegs s (0, false)).map Prod.fst).contains 0x800 = true ∧
    ((privRegs s (0, false)).map Prod.fst).contains 0x806 = false ∧
    yes (exec (.srwr hd ⟨0x800, rg 3⟩) s) (fun t => (t.combRec 0).sup.fqbase == 0x1234 && t.th.pc == 0x10C) = true ∧
    yes (exec (.srwri hd ⟨0x82F, 0xFFF⟩) s) (fun t => (t.combRec 0).leakAt 15 == 0xFFF) = true ∧
    g1 (exec (.srrd hd ⟨1, 0x880⟩) s) = (s.cellRec 0).dutyWord 0 ∧
    (encode (.srrd hd ⟨1, 0x806⟩)).isSome = true ∧
    (stop (exec (.srrd hd ⟨1, 0x806⟩) s)).map (fun x => (x.1, x.2.1)) = some (1, 3) := by decide +kernel
/-- A receive that termination has woken, one behind an earlier operation to its own cell, a vector receive under a mask
(R47, R104, R217, R277). -/
theorem test_receiveClauses :
    let s := inRegion true [(2, 1)]
    let msg : Mail := ⟨1, 5, .data (bytesOf 32 (2 ^ 255 + 7)), 0⟩
    let behind := upd s fun c => { c with mq := { c.mq with iq := [⟨1, .cell 0, 0x200, 0x200, ⟨false, none⟩, .store [some 1], false, []⟩] } }
    let masked := upd s fun c => { c with regs := c.regs.wm 1 0xFF, mail := { c.mail with box := [msg] } }
    s.caughtUp s.th = true ∧ behind.caughtUp behind.th = false ∧ anyLane byM1 masked .d = true ∧
    yes (exec (.recv hd ⟨1, g 2, 4⟩) (upd s fun c => { c with told := true })) (fun t => t.th.regs.rg 4 == 2 ^ 63 && !t.th.told) =
      true ∧
    yes (exec (.recv hd ⟨1, g 2, 4⟩) behind) (fun t => decide (t.th.status = .parked .drain)) = true ∧
    yes (exec (.recvv byM1 ⟨1, g 2, 4⟩) masked) (fun t => t.th.regs.rv 1 == 7 && t.th.mail.box.isEmpty) = true := by
  decide +kernel
/-- Joins held back by an acquire; joins that close their barrier (R38, R90, R278). -/
theorem test_barriersClose :
    let late := fun (free : Bool) => upd (inRegion free []) fun c => { c with mq := { c.mq with outs := [⟨1, .hbm 0 0, true, true⟩] } }
    let other : State → State := fun s => { s with pool := s.pool.map fun c => { c with status := .parked .barrier } }
    let s := { other (inRegion false []) with regions := [{ region false 0 with joined := [1] }] }
    let f := { other (inRegion true [(6, 0x4000000000000000)]) with regions := [{ region true 0 with
      bars := [⟨0, barMembers (region true 0) (some 0) 0x4000000000000000, [(1, 0)], 4⟩] }] }
    (late false).th.mayJoin = false ∧ s.th.mayJoin = true ∧ s.joinHere { region false 0 with joined := [1] } 1 = true ∧
    (region false 0).exchange (s.superstepOf (region false 0)) = [] ∧
    yes (exec (.sstep hd) s) (fun t => decide (t.th.status = .ready) && t.th.sr.ssnum == 1 && t.regions.map Region.joined == [[]]) =
      true ∧
    yes (exec (.bar hd ⟨1, 0, 6⟩) f) (fun t => decide (t.th.status = .ready) && got t.th 1 == 5) = true := by decide +kernel
/-- Answers to an engine and to the hub, an error answer to a context (R84, R100, R103). -/
theorem test_answers :
    let io := fun (src : Source) => (⟨src, 9, [0, 0], 1, 1, none⟩ : Io)
    let s := fun (rs : List Reply) => { solo [] with net := { Net.reset with
      replies := rs, ios := [io (.engine 1 4), io (.hub 0)], hostReads := [⟨9, 0, 0x3F, none⟩] } }
    let bad := upd (s [⟨.ctx 1, 6, some (5, 0), [0], true, 0x10000000000⟩]) fun c => { c with
      mq := { c.mq with iq := [⟨5, .cell 0, 0x200, 0x200, ⟨false, none⟩, .store [some 1], false, []⟩, ⟨7, .cell 0, 0x200, 0x200, ⟨false, none⟩, .store [some 1], false, []⟩] } }
    yes (exec (.evReplyDelivery 0) (s [⟨.engine 1 4, 9, some (9, 1), [7], false, 0⟩])) (fun t =>
      t.io? (.engine 1 4) 9 == some ⟨.engine 1 4, 9, [0, 7], 0, 1, none⟩) = true ∧
    yes (exec (.evReplyDelivery 0) (s [⟨.engine 1 4, 9, none, [], false, 0⟩])) (fun t =>
      t.io? (.engine 1 4) 9 == some ⟨.engine 1 4, 9, [0, 0], 1, 0, none⟩) = true ∧
    yes (exec (.evReplyDelivery 0) (s [⟨.hub 0, 9, some (9, 1), [7], false, 0⟩])) (fun t =>
      t.io? (.hub 0) 9 == none && t.net.hostReads == [⟨9, 0, 0x3F, some [0, 7]⟩]) = true ∧
    stop (exec (.evReplyDelivery 0) bad) = some (0x0F, 0, 0x10000000000) ∧
    yes (exec (.evReplyDelivery 0) bad) (fun t => t.th.mq.iq.map MemOp.seq == [5]) = true := by decide +kernel
/-- An invalidation that has begun waits for the accesses translated before it, and ends after them (R344). -/
theorem test_invalidationEnds :
    let begun := fun (outs : List Outstanding) => upd (firmware [(2, 0), (6, 7)] id) fun c => { c with
      pend := [⟨3, c.pc, .inv [(c.cid, 5)], 1, [], false⟩], mq := { c.mq with outs := outs } }
    let owing := begun [⟨4, .cell 0, true, false⟩]
    (begun []).th.invOpen = some (3, [((begun []).th.cid, 5)]) ∧ (begun []).invOver [((begun []).th.cid, 5)] = true ∧
    owing.invOver [(owing.th.cid, 5)] = false ∧
    yes (exec (.tlbinv hd ⟨1, 2, 6, 1, 0⟩) owing) (fun t => decide (t.th.status = .parked .drain)) = true ∧
    yes (exec (.tlbinv hd ⟨1, 2, 6, 1, 0⟩) (begun [])) (fun t => t.th.pend.isEmpty && t.th.pc == 0x10C) = true := by decide +kernel
/-- `ctxsave` of a context inside a K block, `fret` of one whose join is still open (R38, R57, R253, R336). -/
theorem test_contextsWait :
    let s := fun (d : Ctx → Ctx) => firmware [(3, 0x100000), (4, 128)] d
    let j : State := { s (fun c => { c with region := some 0 }) with
      regions := [{ region false 0 with joined := [0], ctxs := [7, 2] }] }
    let j := { j with pool := j.pool ++ [{ Ctx.reset with cid := 2, place := .user 1, status := .running, region := some 0, sr := { SrBank.reset with lcell := 1 } }] }
    let inside := s fun c => { c with mrun := some ⟨⟨64, 64, 0, false⟩, true, none⟩ }
    (inside.ctx? 7).any (inside.unfinished) = true ∧
    yes (exec (.ctxsave hd ⟨1, g 0, g 3, false, 1⟩) inside) (fun t => decide (t.th.status = .parked .drain)) = true ∧
    (j.ctx? 7).map j.regionOf = some (j.region? (some 0)) ∧ (j.ctx? 7).map Ctx.logical = some 0 ∧
    (j.member? { region false 0 with ctxs := [7, 2] } 1).isSome = true ∧
    seven (exec (.fret hd ⟨1, g 0, 1⟩) j) (fun c => decide (c.status = .parked .barrier)) = true := by decide +kernel
/-- The sealed context with a contained fault and a restart point: it returns to the point (R43, R52). -/
noncomputable def restarting : State :=
  let c : Ctx := { Ctx.reset with cid := 0, status := .saved, fault := some ⟨0x23, 0, 0x200, 0, 0, true⟩ }
  { sealedState with
    pool := [c], points := [⟨{ c with fault := none, status := .ready, pc := 0x180 }, [], [], [], 1, true⟩] }
theorem test_restart : ∃ c p, restarting.ctx? 0 = some c ∧ (∃ f, c.fault = some f ∧ f.cause ≠ 0x10) ∧
    restarting.donePoint 0 = some p ∧ p.ctx.wait = none ∧ p.ctx.status ≠ .parked .barrier ∧ p.ctx.mq.iq = [] ∧ p.ctx.pc = 0x180 ∧
    restarting.loadHeld 0 c false true = true ∧ restarting.loadHeld 0 c false false = false :=
  ⟨_, _, rfl, ⟨_, rfl, by decide⟩, rfl, rfl, by decide, rfl, rfl, rfl, rfl⟩

/-! ### Witnesses of further clauses, of values -/

/-- A stochastic result of a 13-bit magnitude in FP16, one beyond its largest value, and one that it holds (R115, R116). -/
theorem test_stochastic :
    let q := fun (m : Nat) => max ((Nat.log2 m : Int) + 0 - FFmt.f16.fbits) (FFmt.f16.emin - FFmt.f16.fbits)
    q 4099 = 2 ∧ q 131072 = 7 ∧ (0 : Int) < 2 ∧
    ((Raw.ex ⟨false, 4099, 0, false⟩).round .f16 (.sr 0)).bits = 0x6C00 ∧
    ((Raw.ex ⟨false, 4099, 0, false⟩).round .f16 (.sr 0x40000000)).bits = 0x6C01 ∧
    (Raw.ex ⟨false, 131072, 0, false⟩).round .f16 (.sr 0) = ⟨0x7C00, 5⟩ := by decide +kernel
theorem test_stochasticRange : ((1024 : Nat) : ℚ) * 2 ^ (2 : Int) ≤ magn (FFmt.f16.value FFmt.f16.maxBits) ∧
    magn (FFmt.f16.value FFmt.f16.maxBits) < ((1024 : Nat) : ℚ) * 2 ^ (7 : Int) := by
  have : FFmt.f16.value FFmt.f16.maxBits = .fin false 2047 5 := by decide
  norm_num [this, magn, real]
/-- The values that the clauses on minima, maxima and conversions name (R113, R228). -/
theorem test_values :
    predOn hdOff (solo []).th.regs = false ∧ FFmt.f32.value 0x7F800001 = .nan true ∧ FFmt.f32.value 0x7FC00000 = .nan false ∧
    FFmt.f32.value 0x7F800000 = .inf false ∧ FFmt.f32.value 0xFF800000 = .inf true ∧ FFmt.f32.value 0x3F800000 = .fin false 8388608 (-23) ∧
    FFmt.f32.value 0 = .fin false 0 (-149) ∧ fminmax .f32 true 0x7F800001 0 = ⟨0x7FC00000, 16⟩ ∧
    fminmax .f32 false 0x80000000 0 = ⟨0x80000000, 0⟩ ∧ cvtPair .f32 .w = true ∧ cvtPair .f32 .e4m3 = true ∧
    FFmt.e4m3.form ≠ .ieee ∧ convert .f32 .e4m3 .rne 0x7F800000 = ⟨FFmt.e4m3.nanBits, 16⟩ ∧
    convert .f32 .sw .rne 0xCF000001 = ⟨0x80000000, 16⟩ ∧ FFmt.f16.value 0x3C00 = .fin false 1024 (-10) := by decide +kernel
theorem test_sameValue : real (FFmt.f16.value 0x3C00) = real (FFmt.f32.value 0x3F800000) := by
  have a : FFmt.f16.value 0x3C00 = .fin false 1024 (-10) := by decide
  have b : FFmt.f32.value 0x3F800000 = .fin false 8388608 (-23) := by decide
  norm_num [a, b, real]
/-- Blocks whose largest magnitude is 1, and 2 minus a little (R110, R111). -/
theorem test_blockPair : magn (.fin false 1 0) = 1 ∧ bfpPair false [.fin false 1 0] = (124, 127) ∧
    bfpPair false [.fin true 127 (-6)] = (125, 128) ∧ bfpPair true [.fin false 0 0] = (0, 0) := by
  refine ⟨by norm_num [magn, real], by decide +kernel, by decide +kernel, by decide +kernel⟩
/-- The exact value that an estimate of 1/3 is held to, and the nearest FP32 value keeps the bound; the nearest E4M3 value
does not (R227). -/
theorem test_estimateBound : (match rawFn .rcp estBits (.fin false 3 0) with
    | .ex v => v.m != 0 && estHolds true v (FFmt.f32.value (roundTo .f32 .rne v).bits) &&
        !estHolds true v (FFmt.e4m3.value (roundTo .e4m3 .rne v).bits)
    | _ => false) = true := by decide +kernel
/-- A of `mma` on a page of the format of its type, and on one of another (R247). -/
theorem test_pagedA :
    let s := fun (fmt : Word) (a : BitVec 56) => upd (paged [] fmt) fun c => { c with mat := { c.mat with abase := a, rs := 64, ks := 32 } }
    let blk := fun (fmt : Word) t => (s fmt 0x1000000000000).aBlock (s fmt 0x1000000000000).th ⟨64, 32, 0, true⟩ t 0 1
    (match (s 1 0x1000000000000).placeAt (s 1 0x1000000000000).th .read 0x1000000000040 32 with
      | .ok (x :: _) => ((s 1 0x1000000000000).seenEntry (s 1 0x1000000000000).th x).any fun e =>
          e.fmt == 1 && e.geom == 0 && e.cdelta != 0 && decide (e.slot < fmtSlots e.fmt)
      | _ => false) = true ∧
    (blockAt (blk 1 .bfp8)).map Prod.snd = [34, 66] ∧ (blk 2 .bfp8).toOption.isNone = true ∧
    ((s 1 0x1000000000000).tlbFind (s 1 0x1000000000000).th 0x1000000000000).isSome = true ∧
    (match (s 1 0x1000000000000).aStream (s 1 0x1000000000000).th 32 with
      | .ok a => a == ⟨64, 32, 0, true⟩ | .error _ => false) = true := by decide +kernel

/-! ### Witnesses of further clauses, of contexts -/

/-- A load onto a cell that failed its test; one whose domain is ending (R52, R333, R337). -/
theorem test_loadRefused :
    let c : Ctx := { Ctx.reset with cid := 0, status := .saved, region := some 0 }
    let s := upd (firmware [(3, 0x100000)] id) fun c => { c with cid := 9 }
    let bad := { s with cells := [{ CellRec.reset 0 with isFailed := true }] }
    let gone := { s with pool := [c], regions := [{ region true 0 with ending := true }] }
    g1 (exec (.ctxload hd ⟨1, g 0, g 3, false, false, 0⟩) bad) = 6 ∧ gone.ending c = true ∧ gone.th.region = none ∧
    gone.areaNum 0x100000 0 8 = 0 ∧ gone.ctx? 0 = some c ∧ occupant gone 0 0 = none ∧
    (gone.haltDomain 7).regions.all Region.ending = true := by decide +kernel
/-- A return of a context whose operations have no translation yet: they are placed, or the context stops again; one of a domain
that is ending does not return (R52, R103, R342). -/
theorem test_returnPlaces :
    let op := fun (va : Word) => (⟨1, .cell 0, 0, va, ⟨false, none⟩, .store [some 1], false, []⟩ : MemOp)
    let s := fun (va : Word) => firmware [] fun c => { c with unplaced := true, mq := { c.mq with iq := [op va] } }
    let gone := { firmware [] (fun c => { c with region := some 0 }) with regions := [{ region true 0 with ending := true }] }
    seven (exec (.fret hd ⟨1, g 0, 1⟩) (s 0x200)) (fun c => decide (c.status = .ready) && !c.unplaced && c.mq.iq.map MemOp.pa == [0x200]) =
      true ∧
    seven (exec (.fret hd ⟨1, g 0, 1⟩) (s 0xF000000000000000)) (fun c => decide (c.status = .parked .supervisor) && c.unplaced &&
      c.fault.any fun f => f.cause == 0x0C) = true ∧
    ((gone.ctx? 7).any gone.ending) = true ∧ g1 (exec (.fret hd ⟨1, g 0, 1⟩) gone) = 0 ∧
    seven (exec (.fret hd ⟨1, g 0, 1⟩) gone) (fun c => decide (c.status = .parked .supervisor)) = true := by decide +kernel
/-- Domain ends: a member without anything on its way is quiet, one with a write is not; a record waits for what is on its way
(R329, R356). -/
theorem test_quiet :
    let f : FaultRec := ⟨6, 7, 0x200, 0x300, 9, false⟩
    let s := fun os => upd (solo []) fun c => { c with fault := some f, mq := { c.mq with outs := os } }
    let w := s [⟨1, .cell 0, false, false⟩]
    (s []).quiet (s []).th = true ∧ w.quiet w.th = false ∧
    yes (exec (.evFaultRecordPost 1) w) (fun t => t.th.fault == some f) = true := by decide +kernel
/-- A cell under duty 8 with power as its reason counts half of its cycles, in MHz times sixteenths; a stopped one none (R372). -/
theorem test_gatedCycles :
    let c : CellRec := { CellRec.reset 0 with duty := 8, why := 1, dutyFrom := 8 }
    let s := solo []
    let still := { s with frames := [{ FrameRec.reset 0 with relock := some 600 }] }
    c.dutyAtTime s.now = 8 ∧ c.whyAtTime s.now = 1 ∧ (s.gateCell c).gated = [8 * 1800, 0, 0] ∧ still.gateCell c = c ∧
    (solo []).gateCell (CellRec.reset 0) = CellRec.reset 0 := by decide +kernel
/-- A late contribution: T_g has passed at a switch (R163). -/
theorem test_lateContribution (h : Config.inSwitch 0 = true) :
    let b : Binding := { bound with c := { sumOf2 with op := .max }, firstAt := some 0 }
    (swarming [member] [b] 10000).tooLate b = true ∧ (swarming [member] [b] 9999).tooLate b = false := by
  simp [State.tooLate, State.tgOf, swarming, State.group?, pairGroup, Binding.inSwitch, bound, sumOf2, h]
/-- A context that has completed stays, with its region, while its engine has work (R285). -/
theorem test_lingers :
    let s := withQueue 1 [entryOf 9 (.copy ⟨.raw, 0, 0, 4, 0, 0, false, none, none, none⟩) .begun]
      { upd (inRegion true []) (fun c => { c with ended := true, completed := true }) with
        regions := [{ region true 0 with phase := .done }] }
    s.lingers s.th = true ∧ s.enginesIdle s.th = false ∧ (s.dropLingering).th.region = some 0 ∧ (solo []).lingers (solo []).th = false := by
  decide +kernel
end Sys2Proof.Tests
end

section
/-!
Records kept in lists, the ring of power records, and what the steps of the power arbiter leave as it was.
-/
namespace Sys2Proof.Machine
open Sys2Proof.Claims

/-! ### Records in lists -/

theorem find?_upsert_same {α : Type} {p : α → Bool} {x : α} (h : p x = true) (l : List α) :
    (upsert p x l).find? p = some x := by
  induction l with
  | nil => simp [upsert, h]
  | cons y ys ih =>
    by_cases hy : p y = true
    · simp [upsert, hy, h]
    · simp [upsert, hy, ih]

/-- A search that finds neither the new entry nor the one it replaces does not see the change. -/
theorem find?_upsert_other {α : Type} {p q : α → Bool} {x : α} (hx : q x = false) (hpq : ∀ y, p y = true → q y = false)
    (l : List α) : (upsert p x l).find? q = l.find? q := by
  induction l with
  | nil => simp [upsert, hx]
  | cons y ys ih =>
    by_cases hy : p y = true
    · simp [upsert, hy, hx, hpq y hy]
    · simp [upsert, hy, List.find?_cons, ih]

theorem State.cellRec_id (s : State) (i : CellId) : (s.cellRec i).id = i := by
  unfold State.cellRec
  cases h : s.cells.find? fun x => x.id == i with
  | none => rfl
  | some x => simpa using List.find?_some h

theorem State.frameRec_id (s : State) (f : Nat) : (s.frameRec f).id = f := by
  unfold State.frameRec
  cases h : s.frames.find? fun x => x.id == f with
  | none => rfl
  | some x => simpa using List.find?_some h

theorem State.link_id (s : State) (l : Nat) : (s.link l).id = l := by
  unfold State.link
  cases h : s.hub.links.find? fun x => x.id == l with
  | none =>
    unfold Link.trained
    split
    · rfl
    · split <;> rfl
  | some x => simpa using List.find?_some h

theorem State.cellRec_of_cells {s t : State} (h : t.cells = s.cells) (i : CellId) : t.cellRec i = s.cellRec i := by
  simp only [State.cellRec, h]

theorem State.frameRec_of_frames {s t : State} (h : t.frames = s.frames) (f : Nat) : t.frameRec f = s.frameRec f := by
  simp only [State.frameRec, h]

theorem State.cellRec_setCell_same (s : State) {x : CellRec} {i : CellId} (h : x.id = i) : (s.setCell x).cellRec i = x := by
  subst h
  simp [State.cellRec, State.setCell, find?_upsert_same]

theorem State.cellRec_setCell_other (s : State) {x : CellRec} {i : CellId} (h : x.id ≠ i) :
    (s.setCell x).cellRec i = s.cellRec i := by
  unfold State.cellRec State.setCell
  rw [find?_upsert_other (by simpa using h) (fun y hy => by simp_all)]

theorem State.frameRec_setFrame_same (s : State) {x : FrameRec} {f : Nat} (h : x.id = f) : (s.setFrame x).frameRec f = x := by
  subst h
  simp [State.frameRec, State.setFrame, find?_upsert_same]

theorem State.frameRec_setFrame_other (s : State) {x : FrameRec} {f : Nat} (h : x.id ≠ f) :
    (s.setFrame x).frameRec f = s.frameRec f := by
  unfold State.frameRec State.setFrame
  rw [find?_upsert_other (by simpa using h) (fun y hy => by simp_all)]

theorem State.link_setLink_same (s : State) {x : Link} {l : Nat} (h : x.id = l) : (s.setLink x).link l = x := by
  subst h
  simp [State.link, State.setLink, find?_upsert_same]

/-! ### Bytes that a write at one instant leaves alone -/

theorem throughWq_append (m : Memory) (a b : List (Home × WEntry)) : throughWq m (a ++ b) = throughWq (throughWq m a) b :=
  List.foldl_append

/-- Closing a reduction does not change what it does to memory. -/
theorem State.byteAt_closeLine (s : State) (line a : Nat) : (s.closeLine line).byteAt a = s.byteAt a := by
  unfold State.byteAt State.closeLine throughWq
  rw [List.foldl_map]
  congr 3
  funext m e
  obtain ⟨h, w | r⟩ := e <;> rfl

theorem State.byteAt_writeAt_other (s : State) {pa a : Nat} {bs : List (Option Byte)} (h : a < pa ∨ pa + bs.length ≤ a) :
    (s.writeAt pa bs).byteAt a = s.byteAt a := by
  calc (s.writeAt pa bs).byteAt a
      = (throughWq s.mem ((s.closeLine (lineOf pa)).net.wq ++ [(homeOf pa, WEntry.write pa bs)])).get a := rfl
    _ = ((throughWq s.mem (s.closeLine (lineOf pa)).net.wq).writeMasked pa bs).get a := by rw [throughWq_append]; rfl
    _ = (s.closeLine (lineOf pa)).byteAt a := Memory.get_writeMasked_other bs h
    _ = s.byteAt a := s.byteAt_closeLine _ a

/-- A write over parts keeps what a write at one place keeps. -/
theorem State.writeParts_keeps {α : Type} {proj : State → α} (h : ∀ s pa bs, proj (State.writeAt s pa bs) = proj s)
    (ps : List Part) (bs : List Byte) (s : State) : proj (State.writeParts ps bs s) = proj s := by
  induction ps generalizing bs s with
  | nil => rfl
  | cons p ps ih => exact (ih _ _).trans (h _ _ _)

theorem State.byteAt_writeParts_other {a : Nat} (ps : List Part) (bs : List Byte) (s : State)
    (h : ∀ p ∈ ps, a < p.pa ∨ p.pa + p.len ≤ a) : (State.writeParts ps bs s).byteAt a = s.byteAt a := by
  induction ps generalizing bs s with
  | nil => rfl
  | cons p ps ih =>
    obtain ⟨hp, hps⟩ := List.forall_mem_cons.1 h
    refine (ih _ _ hps).trans (State.byteAt_writeAt_other _ ?_)
    simp only [List.length_map, List.length_take]
    omega

theorem splitLines_bounds {va len : Nat} {q : Nat × Nat} (h : q ∈ splitLines va len) : va ≤ q.1 ∧ q.1 + q.2 ≤ va + len := by
  simp only [splitLines, List.mem_map, List.mem_range] at h
  obtain ⟨i, hi, rfl⟩ := h
  dsimp only
  split <;> omega

theorem State.byteAt_writeRun_other (s : State) {pa a : Nat} {bs : List Byte} (h : a < pa ∨ pa + bs.length ≤ a) :
    (s.writeRun pa bs).byteAt a = s.byteAt a := by
  refine State.byteAt_writeParts_other _ _ _ fun p hp => ?_
  obtain ⟨q, hq, rfl⟩ := List.mem_map.1 hp
  have := splitLines_bounds hq
  dsimp only
  omega

theorem wordsBytes_length (ws : List Word) : (wordsBytes ws).length = 8 * ws.length := by
  induction ws with
  | nil => rfl
  | cons w ws ih =>
    have e : wordsBytes (w :: ws) = bytesOf 8 w.toNat ++ wordsBytes ws := rfl
    rw [e, List.length_append, ih, bytesOf_length, List.length_cons]
    omega

/-! ### Power records (R372) -/

/-- A record keeps what a write at one place and a count of records keep. -/
theorem State.powerRecord_keeps {α : Type} {proj : State → α} (hw : ∀ s pa bs, proj (State.writeAt s pa bs) = proj s)
    (hn : ∀ (s : State) n, proj { s with power := { s.power with recNext := n } } = proj s) (s : State) (ws : List Word) :
    proj (s.powerRecord ws) = proj s := by
  unfold State.powerRecord
  split
  · rfl
  · exact (hn _ _).trans (State.writeParts_keeps hw _ _ _)

/-- A record lies in its place of the ring. -/
theorem State.powerRecord_ringOnly (s : State) {ws : List Word} (h : ws.length ≤ 8) : ringOnly s (s.powerRecord ws) := by
  intro x hx
  unfold State.powerRecord
  split
  · rfl
  · next pa hpa =>
    have hring := hx pa hpa
    have hplace : s.power.recNext % 4096 < 4096 := Nat.mod_lt _ (by decide)
    refine State.byteAt_writeRun_other s ?_
    rw [wordsBytes_length]
    omega

theorem State.changeRecord_keeps {α : Type} {proj : State → α} (hw : ∀ s pa bs, proj (State.writeAt s pa bs) = proj s)
    (hn : ∀ (s : State) n, proj { s with power := { s.power with recNext := n } } = proj s) (s : State) (k f r o n : Nat) :
    proj (s.changeRecord k f r o n) = proj s := by
  unfold State.changeRecord
  split
  · rfl
  · exact State.powerRecord_keeps hw hn _ _

section
variable (s : State) (k f r o n : Nat)

@[simp] theorem State.changeRecord_th : (s.changeRecord k f r o n).th = s.th :=
  State.changeRecord_keeps State.writeAt_th (fun _ _ => rfl) ..
@[simp] theorem State.changeRecord_pool : (s.changeRecord k f r o n).pool = s.pool :=
  State.changeRecord_keeps State.writeAt_pool (fun _ _ => rfl) ..
@[simp] theorem State.changeRecord_regions : (s.changeRecord k f r o n).regions = s.regions :=
  State.changeRecord_keeps State.writeAt_regions (fun _ _ => rfl) ..
@[simp] theorem State.changeRecord_cells : (s.changeRecord k f r o n).cells = s.cells :=
  State.changeRecord_keeps State.writeAt_cells (fun _ _ => rfl) ..
@[simp] theorem State.changeRecord_frames : (s.changeRecord k f r o n).frames = s.frames :=
  State.changeRecord_keeps State.writeAt_frames (fun _ _ => rfl) ..
@[simp] theorem State.changeRecord_claims : (s.changeRecord k f r o n).claims = s.claims :=
  State.changeRecord_keeps State.writeAt_claims (fun _ _ => rfl) ..
@[simp] theorem State.changeRecord_ring : (s.changeRecord k f r o n).power.ring = s.power.ring :=
  State.changeRecord_keeps (proj := fun s => s.power.ring) (fun _ _ _ => rfl) (fun _ _ => rfl) ..

theorem State.changeRecord_ringOnly : ringOnly s (s.changeRecord k f r o n) := by
  unfold State.changeRecord
  split
  · exact fun _ _ => rfl
  · exact State.powerRecord_ringOnly s (by simp)

end

/-! ### The frame of the power arbiter -/

/-- No context and no region has changed, and of memory the ring of power records alone, which has stayed where it was. -/
structure PowerFrame (s t : State) : Prop where
  th : t.th = s.th
  pool : t.pool = s.pool
  regions : t.regions = s.regions
  ring : t.power.ring = s.power.ring
  memory : ringOnly s t

theorem PowerFrame.refl (s : State) : PowerFrame s s := ⟨rfl, rfl, rfl, rfl, fun _ _ => rfl⟩

theorem PowerFrame.trans {s t u : State} (h : PowerFrame s t) (h' : PowerFrame t u) : PowerFrame s u where
  th := h'.th.trans h.th
  pool := h'.pool.trans h.pool
  regions := h'.regions.trans h.regions
  ring := h'.ring.trans h.ring
  memory x hx := (h'.memory x fun pa hpa => hx pa (h.ring ▸ hpa)).trans (h.memory x hx)

theorem State.setFrame_powerFrame (s : State) (x : FrameRec) : PowerFrame s (s.setFrame x) :=
  ⟨rfl, rfl, rfl, rfl, fun _ _ => rfl⟩

theorem State.setCell_powerFrame (s : State) (x : CellRec) : PowerFrame s (s.setCell x) :=
  ⟨rfl, rfl, rfl, rfl, fun _ _ => rfl⟩

theorem State.changeRecord_powerFrame (s : State) (k f r o n : Nat) : PowerFrame s (s.changeRecord k f r o n) :=
  ⟨by simp, by simp, by simp, by simp, s.changeRecord_ringOnly k f r o n⟩

theorem State.linksResume_powerFrame (s : State) : PowerFrame s s.linksResume := by
  unfold State.linksResume
  split
  · exact .refl s
  · exact ⟨rfl, rfl, rfl, rfl, fun _ _ => rfl⟩

@[simp] theorem State.linksResume_cells (s : State) : s.linksResume.cells = s.cells := by
  unfold State.linksResume; split <;> rfl
@[simp] theorem State.linksResume_frames (s : State) : s.linksResume.frames = s.frames := by
  unfold State.linksResume; split <;> rfl

end Sys2Proof.Machine
end

section
/-!
Duties and frequency steps: the bounds of a duty (R368), what the cells of a frame take, and how its clocks stop and restart
(R370).
-/
namespace Sys2Proof.Machine
open Sys2Proof.Claims

/-! ### Cells take duties -/

/-- One cell takes its duty: a step of `State.setDuties`. -/
def State.setDuty (s : State) (d : CellId × Nat × Nat) : State :=
  if (s.cellRec d.1).duty = d.2.1 ∧ (s.cellRec d.1).why = d.2.2 then s
  else s.setCell { s.cellRec d.1 with
    duty := d.2.1, why := d.2.2, dutyFrom := (s.cellRec d.1).dutyAtTime s.now, dutyAt := s.now }

theorem State.setDuties_cons (s : State) (d : CellId × Nat × Nat) (ds : List (CellId × Nat × Nat)) :
    s.setDuties (d :: ds) = (s.setDuty d).setDuties ds := rfl

theorem State.setDuty_keeps {α : Type} {proj : State → α} (h : ∀ s x, proj (State.setCell s x) = proj s) (s : State)
    (d : CellId × Nat × Nat) : proj (s.setDuty d) = proj s := by
  unfold State.setDuty
  split
  · rfl
  · exact h _ _

theorem State.setDuties_keeps {α : Type} {proj : State → α} (h : ∀ s x, proj (State.setCell s x) = proj s) (s : State)
    (ds : List (CellId × Nat × Nat)) : proj (s.setDuties ds) = proj s := by
  induction ds generalizing s with
  | nil => rfl
  | cons d ds ih => rw [State.setDuties_cons, ih, State.setDuty_keeps h]

theorem State.setDuty_powerFrame (s : State) (d : CellId × Nat × Nat) : PowerFrame s (s.setDuty d) := by
  unfold State.setDuty
  split
  · exact .refl s
  · exact s.setCell_powerFrame _

theorem State.setDuties_powerFrame (s : State) (ds : List (CellId × Nat × Nat)) : PowerFrame s (s.setDuties ds) := by
  induction ds generalizing s with
  | nil => exact .refl s
  | cons d ds ih => exact (s.setDuty_powerFrame d).trans (ih _)

theorem State.duty_setDuty_same (s : State) (d : CellId × Nat × Nat) : ((s.setDuty d).cellRec d.1).duty = d.2.1 := by
  unfold State.setDuty
  split
  · next h => exact h.1
  · simp [State.cellRec_setCell_same, s.cellRec_id]

theorem State.cellRec_setDuty_other (s : State) {d : CellId × Nat × Nat} {i : CellId} (h : d.1 ≠ i) :
    (s.setDuty d).cellRec i = s.cellRec i := by
  unfold State.setDuty
  split
  · rfl
  · exact State.cellRec_setCell_other _ (by simpa [s.cellRec_id] using h)

theorem State.cellRec_setDuties_other {ds : List (CellId × Nat × Nat)} {i : CellId} (h : ∀ d ∈ ds, d.1 ≠ i) (s : State) :
    (s.setDuties ds).cellRec i = s.cellRec i := by
  induction ds generalizing s with
  | nil => rfl
  | cons d ds ih =>
    obtain ⟨hd, hds⟩ := List.forall_mem_cons.1 h
    rw [State.setDuties_cons, ih hds, State.cellRec_setDuty_other _ hd]

/-- A cell that a list of duties names has one of those that the list gives it: the last. -/
theorem State.exists_duty_setDuties {ds : List (CellId × Nat × Nat)} {i : CellId} (h : ∃ d ∈ ds, d.1 = i) (s : State) :
    ∃ d ∈ ds, d.1 = i ∧ ((s.setDuties ds).cellRec i).duty = d.2.1 := by
  induction ds generalizing s with
  | nil => simp at h
  | cons d ds ih =>
    rw [State.setDuties_cons]
    by_cases hds : ∃ d ∈ ds, d.1 = i
    · obtain ⟨e, he, hi, hduty⟩ := ih hds (s.setDuty d)
      exact ⟨e, List.mem_cons_of_mem _ he, hi, hduty⟩
    · have hd : d.1 = i := by
        obtain ⟨e, he, hi⟩ := h
        rcases List.mem_cons.1 he with rfl | he
        · exact hi
        · exact absurd ⟨e, he, hi⟩ hds
      refine ⟨d, List.mem_cons_self, hd, ?_⟩
      rw [State.cellRec_setDuties_other fun e he hi => hds ⟨e, he, hi⟩, ← hd, State.duty_setDuty_same]

/-- The duties of a frame take effect, and a record may tell of it (R372). -/
theorem State.takeDuties_cases (s : State) (f : Nat) (ds : List (CellId × Nat × Nat)) :
    s.takeDuties f ds = s.setDuties ds ∨
      ∃ kind why old new, s.takeDuties f ds = (s.setDuties ds).changeRecord kind f why old new := by
  unfold State.takeDuties
  dsimp only
  split
  · exact .inl rfl
  · exact .inr ⟨_, _, _, _, rfl⟩

theorem State.takeDuties_powerFrame (s : State) (f : Nat) (ds : List (CellId × Nat × Nat)) :
    PowerFrame s (s.takeDuties f ds) := by
  obtain h | ⟨kind, why, old, new, h⟩ := s.takeDuties_cases f ds
  · exact h ▸ s.setDuties_powerFrame ds
  · exact h ▸ (s.setDuties_powerFrame ds).trans (State.changeRecord_powerFrame ..)

@[simp] theorem State.takeDuties_cells (s : State) (f : Nat) (ds : List (CellId × Nat × Nat)) :
    (s.takeDuties f ds).cells = (s.setDuties ds).cells := by
  obtain h | ⟨kind, why, old, new, h⟩ := s.takeDuties_cases f ds <;> simp [h]

@[simp] theorem State.takeDuties_frames (s : State) (f : Nat) (ds : List (CellId × Nat × Nat)) :
    (s.takeDuties f ds).frames = s.frames := by
  have hset : (s.setDuties ds).frames = s.frames := State.setDuties_keeps State.setCell_frames s ds
  obtain h | ⟨kind, why, old, new, h⟩ := s.takeDuties_cases f ds <;> simp [h, hset]

/-- Where no cell is named twice, each takes the duty that the list gives it. -/
theorem State.duty_takeDuties {ds : List (CellId × Nat × Nat)} (hds : ds.Pairwise fun a b => a.1 ≠ b.1)
    {d : CellId × Nat × Nat} (hd : d ∈ ds) (s : State) (f : Nat) : ((s.takeDuties f ds).cellRec d.1).duty = d.2.1 := by
  obtain ⟨e, he, hi, hduty⟩ := State.exists_duty_setDuties ⟨d, hd, rfl⟩ s
  have hed : e = d := List.inj_on_of_nodup_map (List.pairwise_map.2 hds) he hd hi
  rw [State.cellRec_of_cells (s.takeDuties_cells f ds), hduty, hed]

/-! ### The bounds of a duty (R368, R369) -/

theorem State.leakage_nonneg (s : State) (k : CombId) (temp : Nat) : 0 ≤ s.leakage k temp := by
  unfold State.leakage
  have hv : (0 : Rat) ≤ (Config.millivolts k : Rat) / 750 := by positivity
  refine mul_nonneg (mul_nonneg (mul_nonneg ?_ hv) hv) hv
  have hat : ∀ i, (0 : Rat) ≤ (((s.combRec k).leakAt i).toNat : Rat) := fun i => Nat.cast_nonneg _
  split
  · exact hat 0
  · split
    · exact hat 15
    · have hr0 : (0 : Rat) ≤ ((temp - 20) % 6 : Nat) := Nat.cast_nonneg _
      have hr6 : (((temp - 20) % 6 : Nat) : Rat) ≤ 6 := by exact_mod_cast (Nat.mod_lt _ (by decide)).le
      have hlo := mul_nonneg (hat ((temp - 20) / 6)) (sub_nonneg.2 hr6)
      have hhi := mul_nonneg (hat ((temp - 20) / 6 + 1)) hr0
      linarith

theorem State.demand_nonneg (s : State) (inp : BudgetInput) (i : CellId) : 0 ≤ s.demand inp i :=
  add_nonneg (Nat.cast_nonneg _) (div_nonneg (s.leakage_nonneg _ _) (by norm_num))

/-- A duty: 1 to 16 sixteenths. -/
def dutyInRange (d : Nat) : Prop := 1 ≤ d ∧ d ≤ 16

theorem dutyOf_inRange {demand grant : Rat} (h : 0 ≤ demand) : dutyInRange (dutyOf demand grant) := by
  unfold dutyOf dutyInRange
  split
  · decide
  · next hlt =>
    have hratio : 16 * grant / demand ≤ 16 := div_le_of_le_mul₀ h (by norm_num) (by linarith)
    have hfloor : (16 * grant / demand).floor ≤ 16 := by exact_mod_cast (Int.floor_le (16 * grant / demand)).trans hratio
    omega

theorem thermalCap_inRange (temp : Nat) : dutyInRange (thermalCap temp) := by
  unfold thermalCap dutyInRange
  split
  · decide
  · split <;> decide

theorem dutyInRange.min {a b : Nat} (ha : dutyInRange a) (hb : dutyInRange b) : dutyInRange (min a b) :=
  ⟨le_min ha.1 hb.1, (min_le_left a b).trans ha.2⟩

theorem State.combDuties_inRange (s : State) (inp : BudgetInput) (k : CombId) (grant : Rat) :
    ∀ d ∈ s.combDuties inp k grant, dutyInRange d.2.1 := by
  intro d hd
  obtain ⟨x, -, rfl⟩ := List.mem_map.1 hd
  exact (dutyOf_inRange (s.demand_nonneg inp x.1)).min (thermalCap_inRange _)

theorem State.frameDuties_inRange (s : State) (inp : BudgetInput) (f : Nat) (grant : Rat) :
    ∀ d ∈ s.frameDuties inp f grant, dutyInRange d.2.1 := by
  intro d hd
  obtain ⟨x, -, hx⟩ := List.mem_flatMap.1 hd
  exact s.combDuties_inRange inp x.1 x.2 d hx

/-! ### The cells that an interval gives a duty -/

theorem split_length (g : Rat) (xs : List (Rat × Rat)) : (split g xs).length = xs.length := by
  simp [split]

theorem mem_combCells {k i : Nat} : i ∈ combCells k ↔ i / 128 = k := by
  simp only [combCells, List.mem_map, List.mem_range]
  constructor
  · rintro ⟨c, hc, rfl⟩
    omega
  · intro h
    exact ⟨i % 128, by omega, by omega⟩

theorem mem_frameCombs {f k : Nat} : k ∈ frameCombs f ↔ k / 64 = f := by
  simp only [frameCombs, List.mem_map, List.mem_range]
  constructor
  · rintro ⟨c, hc, rfl⟩
    omega
  · intro h
    exact ⟨k % 64, by omega, by omega⟩

/-- The first parts of what is divided among children. -/
theorem map_fst_zip_split {α : Type} (xs : List α) (g : Rat) (w : α → Rat × Rat) :
    (xs.zip (split g (xs.map w))).map Prod.fst = xs :=
  List.map_fst_zip (by simp [split_length])

theorem State.map_fst_combDuties (s : State) (inp : BudgetInput) (k : CombId) (grant : Rat) :
    (s.combDuties inp k grant).map Prod.fst = combCells k := by
  unfold State.combDuties
  simp only [List.map_map]
  exact map_fst_zip_split _ _ _

/-- The duties of a frame are those of its cells. -/
theorem State.exists_mem_frameDuties (s : State) (inp : BudgetInput) {f : Nat} {grant : Rat} {i : CellId} :
    (∃ d ∈ s.frameDuties inp f grant, d.1 = i) ↔ cellFrame i = f := by
  have hcomb : ∀ k g, (∃ d ∈ s.combDuties inp k g, d.1 = i) ↔ i / 128 = k := fun k g => by
    rw [← mem_combCells, ← s.map_fst_combDuties inp k g, List.mem_map]
  have hframe := map_fst_zip_split (frameCombs f) grant fun k => (s.combDemand inp k, s.combWeight k)
  have hdiv : i / 128 / 64 = cellFrame i := Nat.div_div_eq_div_mul i 128 64
  constructor
  · rintro ⟨d, hd, hi⟩
    obtain ⟨x, hx, hdx⟩ := List.mem_flatMap.1 hd
    have hk := (hcomb x.1 x.2).1 ⟨d, hdx, hi⟩
    have hmem : x.1 ∈ frameCombs f := hframe ▸ List.mem_map_of_mem hx
    rw [← hdiv, hk, mem_frameCombs.1 hmem]
  · intro h
    have hmem : i / 128 ∈ frameCombs f := mem_frameCombs.2 (hdiv.trans h)
    rw [← hframe, List.mem_map] at hmem
    obtain ⟨x, hx, hk⟩ := hmem
    obtain ⟨d, hd, hi⟩ := (hcomb x.1 x.2).2 hk.symm
    exact ⟨d, List.mem_flatMap.2 ⟨x, hx, hd⟩, hi⟩

/-! ### Frequency steps (R370) -/

theorem State.startStep_stopped {s : State} {frame : Nat} (h : (s.frameRec frame).relock.isSome = true) (mhz reason : Nat) :
    s.startStep frame mhz reason = s.setFrame { s.frameRec frame with laterStep := some (mhz, reason) } := by
  simp [State.startStep, h]

/-- The record of a frame whose clocks stop now for a step. -/
def FrameRec.stop (f : FrameRec) (mhz now : Nat) : FrameRec :=
  { f with relock := some mhz, relockAt := now, cycBase := f.cyc now, cycSince := now }

@[simp] theorem State.changeRecord_now (s : State) (k f r o n : Nat) : (s.changeRecord k f r o n).now = s.now :=
  State.changeRecord_keeps State.writeAt_now (fun _ _ => rfl) ..

theorem PowerFrame.ctx? {s t : State} (h : PowerFrame s t) (c : CtxId) : t.ctx? c = s.ctx? c := by
  simp only [State.ctx?, State.ctxs, h.th, h.pool]

theorem State.startStep_running {s : State} {frame : Nat} (h : (s.frameRec frame).relock = none) (mhz reason : Nat) :
    s.startStep frame mhz reason =
      { (s.changeRecord 1 frame reason (s.frameRec frame).mhz mhz).setFrame ((s.frameRec frame).stop mhz s.now) with
        claims := s.claims.map fun k => if (s.ctx? k.cid).any (fun c => combFrame c.comb == frame) then
          { k with cal := false } else k } := by
  have hctx : ∀ r x c, ((s.changeRecord 1 frame reason r mhz).setFrame x).ctx? c = s.ctx? c := fun r x =>
    ((s.changeRecord_powerFrame 1 frame reason r mhz).trans (State.setFrame_powerFrame _ x)).ctx?
  have hrun : (s.frameRec frame).relock.isSome = false := by simp [h]
  simp only [State.startStep, hrun, hctx, updateAll, State.setFrame_claims, State.changeRecord_claims, State.changeRecord_now,
    FrameRec.stop, Bool.false_eq_true, if_false]

/-- A frequency step changes the record of its frame, claims and the ring. -/
theorem State.startStep_cases (s : State) (frame mhz reason : Nat) :
    ∃ u cl f, PowerFrame s u ∧ u.cells = s.cells ∧ u.frames = s.frames ∧ f.id = frame ∧
      f.lateDuties = (s.frameRec frame).lateDuties ∧ s.startStep frame mhz reason = { u.setFrame f with claims := cl } := by
  cases h : (s.frameRec frame).relock with
  | some m =>
    exact ⟨s, s.claims, { s.frameRec frame with laterStep := some (mhz, reason) }, .refl s, rfl, rfl, s.frameRec_id frame, rfl,
      State.startStep_stopped (by simp [h]) mhz reason⟩
  | none =>
    exact ⟨_, _, (s.frameRec frame).stop mhz s.now, s.changeRecord_powerFrame .., State.changeRecord_cells ..,
      State.changeRecord_frames .., s.frameRec_id frame, rfl, State.startStep_running h mhz reason⟩

theorem State.startStep_powerFrame (s : State) (frame mhz reason : Nat) : PowerFrame s (s.startStep frame mhz reason) := by
  obtain ⟨u, cl, f, hu, -, -, -, -, h⟩ := s.startStep_cases frame mhz reason
  exact h ▸ hu.trans ⟨rfl, rfl, rfl, rfl, fun _ _ => rfl⟩

theorem State.startStep_cells (s : State) (frame mhz reason : Nat) : (s.startStep frame mhz reason).cells = s.cells := by
  obtain ⟨u, cl, f, -, hcells, -, -, -, h⟩ := s.startStep_cases frame mhz reason
  exact h ▸ hcells

theorem State.lateDuties_startStep (s : State) (frame mhz reason : Nat) :
    ((s.startStep frame mhz reason).frameRec frame).lateDuties = (s.frameRec frame).lateDuties := by
  obtain ⟨u, cl, f, -, -, -, hid, hlate, h⟩ := s.startStep_cases frame mhz reason
  rw [h, ← hlate]
  exact congrArg FrameRec.lateDuties (u.frameRec_setFrame_same hid)

theorem State.frameRec_startStep_other (s : State) {frame g : Nat} (hg : g ≠ frame) (mhz reason : Nat) :
    (s.startStep frame mhz reason).frameRec g = s.frameRec g := by
  obtain ⟨u, cl, f, -, -, hframes, hid, -, h⟩ := s.startStep_cases frame mhz reason
  rw [h, ← State.frameRec_of_frames hframes g]
  exact u.frameRec_setFrame_other (hid ▸ hg.symm)

end Sys2Proof.Machine
end

section
/-!
The budget tree (R367): a division gives away no more than it divides, and an interval gives every frame its duties once.
-/
namespace Sys2Proof.Machine
open Sys2Proof.Claims

/-! ### Division of a grant -/

/-- One pass of `split`: the part of a child with demand `d` and weight `w`. -/
def share (g total d w : Rat) : Rat := if total = 0 then 0 else min d (g * w / total)

theorem share_zero (g total : Rat) : share g total 0 0 = 0 := by
  simp [share]

/-- One pass over all children gives away at most what it divides. -/
theorem sum_share_le {g : Rat} (hg : 0 ≤ g) (xs : List (Rat × Rat)) :
    (xs.map fun x => share g (xs.map Prod.snd).sum x.1 x.2).sum ≤ g := by
  by_cases h : (xs.map Prod.snd).sum = 0
  · simpa [share, h] using hg
  · calc (xs.map fun x => share g (xs.map Prod.snd).sum x.1 x.2).sum
        ≤ (xs.map fun x => g / (xs.map Prod.snd).sum * x.2).sum := by
          refine List.sum_le_sum fun x _ => ?_
          rw [share, if_neg h, div_mul_eq_mul_div]
          exact min_le_right _ _
      _ = g / (xs.map Prod.snd).sum * (xs.map Prod.snd).sum := List.sum_map_mul_left ..
      _ = g := div_mul_cancel₀ g h

/-- What a child that is still short lacks, with its weight; nothing for the others. -/
def lacking (x : (Rat × Rat) × Rat) : Rat × Rat := if x.2 < x.1.1 then (x.1.1 - x.2, x.1.2) else (0, 0)

/-- The second pass adds to the first one. -/
theorem split_eq (g : Rat) (xs : List (Rat × Rat)) :
    let first := xs.map fun x => share g (xs.map Prod.snd).sum x.1 x.2
    let lacks := (xs.zip first).map lacking
    split g xs = (xs.zip first).map fun x =>
      x.2 + share (g - first.sum) (lacks.map Prod.snd).sum (lacking x).1 (lacking x).2 := by
  intro first lacks
  have htotal : (lacks.map Prod.snd).sum = ((xs.zip first).map fun x => if x.2 < x.1.1 then x.1.2 else 0).sum := by
    rw [List.map_map]
    congr 2
    funext x
    simp only [Function.comp_apply, lacking]
    split <;> rfl
  rw [htotal]
  refine List.map_congr_left fun x _ => ?_
  by_cases h : x.2 < x.1.1
  · rw [if_pos h, lacking, if_pos h]
    rfl
  · rw [if_neg h, lacking, if_neg h, share_zero, add_zero]

theorem split_sum_le {g : Rat} (hg : 0 ≤ g) (xs : List (Rat × Rat)) : (split g xs).sum ≤ g := by
  have hfirst := sum_share_le hg xs
  rw [split_eq]
  set first := xs.map fun x => share g (xs.map Prod.snd).sum x.1 x.2 with hdef
  have hsecond := sum_share_le (sub_nonneg.2 hfirst) ((xs.zip first).map lacking)
  have hsnd : (xs.zip first).map Prod.snd = first := List.map_snd_zip (by simp [hdef])
  rw [List.map_map] at hsecond
  rw [List.sum_map_add, hsnd]
  simp only [Function.comp_def] at hsecond
  linarith

/-! ### The grants of the frames -/

/-- Each live frame has one grant. -/
theorem State.map_fst_frameGrants (s : State) (inp : BudgetInput) : (s.frameGrants inp).map Prod.fst = maskFrames s.hub.live := by
  unfold State.frameGrants
  simp only [List.map_map]
  exact map_fst_zip_split _ _ _

theorem State.frameGrants_le (s : State) (inp : BudgetInput) : ∀ g ∈ s.frameGrants inp, g.2 ≤ 230000 := by
  intro g hg
  obtain ⟨x, -, rfl⟩ := List.mem_map.1 hg
  exact min_le_right _ _

/-- The frames are granted at most what the parts leave of the budget. -/
theorem State.sum_frameGrants_le (s : State) (inp : BudgetInput) :
    ((s.frameGrants inp).map Prod.snd).sum ≤ max 0 ((Config.form.budget : Rat) - s.measured inp) := by
  set b := max 0 ((Config.form.budget : Rat) - s.measured inp) with hb
  set gs := split b ((maskFrames s.hub.live).map fun f => (s.frameDemand inp f, 1)) with hgs
  have hcut : (s.frameGrants inp).map Prod.snd = ((maskFrames s.hub.live).zip gs).map fun x => min x.2 230000 := by
    simp [State.frameGrants, hgs, hb]
  have hsnd : ((maskFrames s.hub.live).zip gs).map Prod.snd = gs := List.map_snd_zip (by simp [hgs, split_length])
  calc ((s.frameGrants inp).map Prod.snd).sum
      ≤ (((maskFrames s.hub.live).zip gs).map Prod.snd).sum := by
        rw [hcut]
        exact List.sum_le_sum fun x _ => min_le_left _ _
    _ ≤ b := by
        rw [hsnd]
        exact split_sum_le (le_max_left _ _) _

theorem State.measured_eq (s : State) (inp : BudgetInput) : s.measured inp =
    ((partReadings inp).mapIdx fun k x => if k ∈ s.power.enforced then min x.1 x.2 else x.1).sum := by
  simp [State.measured]

theorem mem_partsOver (inp : BudgetInput) {k : Nat} {x : Nat × Nat} (h : (partReadings inp)[k]? = some x) :
    k ∈ partsOver inp ↔ x.2 < x.1 := by
  obtain ⟨hk, rfl⟩ := List.getElem?_eq_some_iff.1 h
  unfold partsOver
  simp only [List.mem_filterMap, List.mem_mapIdx, Option.ite_none_right_eq_some, Option.some.injEq]
  constructor
  · rintro ⟨y, ⟨i, hi, rfl⟩, hlt, rfl⟩
    exact hlt
  · intro hlt
    exact ⟨_, ⟨k, hk, rfl⟩, hlt, rfl⟩

/-! ### One frame of an interval -/

/-- A frame's duties take effect now, or wait while its clocks stand still (R381). -/
def State.placeDuties (s : State) (f : Nat) (r : FrameRec) (ds : List (CellId × Nat × Nat)) : State :=
  if r.relock.isSome then s.setFrame { r with lateDuties := ds } else (s.setFrame r).takeDuties f ds

/-- What one frame of an interval can do: its duties are placed, then it may begin a frequency step. -/
theorem State.frameInterval_cases (inp : BudgetInput) (s : State) (g : Nat × Rat) : ∃ low high,
    let placed := s.placeDuties g.1 { s.frameRec g.1 with lowRuns := low, highRuns := high } (s.frameDuties inp g.1 g.2)
    State.frameInterval inp s g = placed ∨
      ∃ mhz reason, State.frameInterval inp s g = placed.startStep g.1 mhz reason := by
  generalize ht : State.frameInterval inp s g = t
  unfold State.frameInterval at ht
  extract_lets f ds r low down high hot mhz r' placed at ht
  refine ⟨r'.lowRuns, r'.highRuns, ?_⟩
  have hplaced : placed = s.placeDuties f r' ds := rfl
  clear_value placed
  subst hplaced
  split at ht
  · exact .inl ht.symm
  · exact .inr ⟨_, _, ht.symm⟩

theorem State.placeDuties_stopped (s : State) {f : Nat} {r : FrameRec} (ds : List (CellId × Nat × Nat))
    (h : r.relock ≠ none) : s.placeDuties f r ds = s.setFrame { r with lateDuties := ds } :=
  if_pos (Option.isSome_iff_ne_none.2 h)

theorem State.placeDuties_running (s : State) {f : Nat} {r : FrameRec} (ds : List (CellId × Nat × Nat))
    (h : r.relock = none) : s.placeDuties f r ds = (s.setFrame r).takeDuties f ds :=
  if_neg (by simp [h])

theorem State.placeDuties_powerFrame (s : State) (f : Nat) (r : FrameRec) (ds : List (CellId × Nat × Nat)) :
    PowerFrame s (s.placeDuties f r ds) := by
  by_cases h : r.relock = none
  · rw [s.placeDuties_running ds h]
    exact (s.setFrame_powerFrame r).trans (State.takeDuties_powerFrame ..)
  · rw [s.placeDuties_stopped ds h]
    exact s.setFrame_powerFrame _

theorem State.frameInterval_powerFrame (inp : BudgetInput) (s : State) (g : Nat × Rat) :
    PowerFrame s (State.frameInterval inp s g) := by
  obtain ⟨low, high, h | ⟨mhz, reason, h⟩⟩ := State.frameInterval_cases inp s g
  · exact h ▸ s.placeDuties_powerFrame ..
  · exact h ▸ (s.placeDuties_powerFrame ..).trans (State.startStep_powerFrame ..)

/-- A frame and its cells stand as they did. -/
def sameFrame (f : Nat) (s t : State) : Prop :=
  t.frameRec f = s.frameRec f ∧ ∀ i, cellFrame i = f → t.cellRec i = s.cellRec i

theorem sameFrame.trans {f : Nat} {s t u : State} (h : sameFrame f s t) (h' : sameFrame f t u) : sameFrame f s u :=
  ⟨h'.1.trans h.1, fun i hi => (h'.2 i hi).trans (h.2 i hi)⟩

/-- A frame has duties in range: on its cells, or waiting for its restart if its clocks stand still. -/
def frameServed (f : Nat) (s t : State) : Prop :=
  ((s.frameRec f).relock = none → ∀ i, cellFrame i = f → dutyInRange (t.cellRec i).duty) ∧
  ((s.frameRec f).relock ≠ none → (∀ i, cellFrame i = f → t.cellRec i = s.cellRec i) ∧
    ∀ d ∈ (t.frameRec f).lateDuties, dutyInRange d.2.1)

theorem sameFrame.then_served {f : Nat} {s t u : State} (h : sameFrame f s t) (h' : frameServed f t u) :
    frameServed f s u := by
  obtain ⟨hframe, hcells⟩ := h
  obtain ⟨hrun, hstop⟩ := h'
  rw [hframe] at hrun hstop
  exact ⟨hrun, fun hr => ⟨fun i hi => ((hstop hr).1 i hi).trans (hcells i hi), (hstop hr).2⟩⟩

theorem frameServed.then_same {f : Nat} {s t u : State} (h : frameServed f s t) (h' : sameFrame f t u) :
    frameServed f s u := by
  obtain ⟨hrun, hstop⟩ := h
  obtain ⟨hframe, hcells⟩ := h'
  refine ⟨fun hr i hi => hcells i hi ▸ hrun hr i hi, fun hr => ⟨fun i hi => (hcells i hi).trans ((hstop hr).1 i hi), ?_⟩⟩
  exact hframe ▸ (hstop hr).2

theorem State.startStep_sameFrame (s : State) {f g : Nat} (h : f ≠ g) (mhz reason : Nat) :
    sameFrame f s (s.startStep g mhz reason) :=
  ⟨s.frameRec_startStep_other h mhz reason, fun i _ => State.cellRec_of_cells (s.startStep_cells g mhz reason) i⟩

/-- A step of a frame leaves its cells, and the duties that wait. -/
theorem frameServed.then_startStep {f : Nat} {s t : State} (h : frameServed f s t) (mhz reason : Nat) :
    frameServed f s (t.startStep f mhz reason) := by
  obtain ⟨hrun, hstop⟩ := h
  have hcell := State.cellRec_of_cells (t.startStep_cells f mhz reason)
  refine ⟨fun hr i hi => hcell i ▸ hrun hr i hi, fun hr => ⟨fun i hi => (hcell i).trans ((hstop hr).1 i hi), ?_⟩⟩
  rw [t.lateDuties_startStep]
  exact (hstop hr).2

theorem State.placeDuties_sameFrame (s : State) {f g : Nat} (h : f ≠ g) {r : FrameRec} (hr : r.id = g)
    {ds : List (CellId × Nat × Nat)} (hds : ∀ d ∈ ds, cellFrame d.1 = g) : sameFrame f s (s.placeDuties g r ds) := by
  have hrec : ∀ x : FrameRec, x.id = g → (s.setFrame x).frameRec f = s.frameRec f := fun x hx =>
    s.frameRec_setFrame_other (hx ▸ h.symm)
  by_cases hk : r.relock = none
  · rw [s.placeDuties_running ds hk]
    refine ⟨(State.frameRec_of_frames (State.takeDuties_frames ..) f).trans (hrec r hr), fun i hi => ?_⟩
    rw [State.cellRec_of_cells (State.takeDuties_cells ..)]
    exact State.cellRec_setDuties_other (fun d hd hdi => h (by rw [← hi, ← hdi, hds d hd])) _
  · rw [s.placeDuties_stopped ds hk]
    exact ⟨hrec _ hr, fun _ _ => rfl⟩

theorem State.placeDuties_served (s : State) {f : Nat} {r : FrameRec} (hr : r.id = f)
    (hrelock : r.relock = (s.frameRec f).relock) {ds : List (CellId × Nat × Nat)} (hrange : ∀ d ∈ ds, dutyInRange d.2.1)
    (hall : ∀ i, cellFrame i = f → ∃ d ∈ ds, d.1 = i) : frameServed f s (s.placeDuties f r ds) := by
  refine ⟨fun hk i hi => ?_, fun hk => ?_⟩
  · rw [s.placeDuties_running ds (hrelock.trans hk), State.cellRec_of_cells (State.takeDuties_cells ..)]
    obtain ⟨d, hd, -, hduty⟩ := State.exists_duty_setDuties (hall i hi) (s.setFrame r)
    exact hduty ▸ hrange d hd
  · rw [s.placeDuties_stopped ds (hrelock ▸ hk)]
    refine ⟨fun _ _ => rfl, ?_⟩
    rw [State.frameRec_setFrame_same s (f := f)]
    · exact hrange
    · exact hr

theorem State.frameInterval_sameFrame (inp : BudgetInput) (s : State) {f : Nat} {g : Nat × Rat} (h : f ≠ g.1) :
    sameFrame f s (State.frameInterval inp s g) := by
  have hplaced := fun low high => s.placeDuties_sameFrame h
    (r := { s.frameRec g.1 with lowRuns := low, highRuns := high }) (s.frameRec_id g.1)
    (ds := s.frameDuties inp g.1 g.2) fun d hd => (s.exists_mem_frameDuties inp).1 ⟨d, hd, rfl⟩
  obtain ⟨low, high, hi | ⟨mhz, reason, hi⟩⟩ := State.frameInterval_cases inp s g
  · exact hi ▸ hplaced low high
  · exact hi ▸ (hplaced low high).trans (State.startStep_sameFrame _ h mhz reason)

theorem State.frameInterval_served (inp : BudgetInput) (s : State) (g : Nat × Rat) :
    frameServed g.1 s (State.frameInterval inp s g) := by
  have hplaced := fun low high => s.placeDuties_served
    (r := { s.frameRec g.1 with lowRuns := low, highRuns := high }) (s.frameRec_id g.1) rfl
    (s.frameDuties_inRange inp g.1 g.2) fun _ hi => (s.exists_mem_frameDuties inp).2 hi
  obtain ⟨low, high, hi | ⟨mhz, reason, hi⟩⟩ := State.frameInterval_cases inp s g
  · exact hi ▸ hplaced low high
  · exact hi ▸ (hplaced low high).then_startStep mhz reason

/-! ### All frames of an interval -/

section
variable (inp : BudgetInput)

theorem foldl_frameInterval_powerFrame (gs : List (Nat × Rat)) (s : State) :
    PowerFrame s (gs.foldl (State.frameInterval inp) s) := by
  induction gs generalizing s with
  | nil => exact .refl s
  | cons g gs ih => exact (State.frameInterval_powerFrame inp s g).trans (ih _)

theorem foldl_frameInterval_sameFrame {f : Nat} {gs : List (Nat × Rat)} (h : f ∉ gs.map Prod.fst) (s : State) :
    sameFrame f s (gs.foldl (State.frameInterval inp) s) := by
  induction gs generalizing s with
  | nil => exact ⟨rfl, fun _ _ => rfl⟩
  | cons g gs ih =>
    obtain ⟨hg, hgs⟩ := not_or.1 (mt List.mem_cons.2 h)
    exact (State.frameInterval_sameFrame inp s hg).trans (ih hgs _)

/-- Each frame is served in its turn, and the turns of the others leave it. -/
theorem foldl_frameInterval_served {f : Nat} {gs : List (Nat × Rat)} (hnodup : (gs.map Prod.fst).Nodup)
    (hf : f ∈ gs.map Prod.fst) (s : State) : frameServed f s (gs.foldl (State.frameInterval inp) s) := by
  induction gs generalizing s with
  | nil => simp at hf
  | cons g gs ih =>
    obtain ⟨hg, hgs⟩ := List.nodup_cons.1 hnodup
    by_cases h : f = g.1
    · subst h
      exact (State.frameInterval_served inp s g).then_same (foldl_frameInterval_sameFrame inp hg _)
    · have hmem : f ∈ gs.map Prod.fst := (List.mem_cons.1 hf).resolve_left h
      exact (State.frameInterval_sameFrame inp s h).then_served (ih hgs hmem _)

end

theorem nodup_maskFrames (m : BitVec 8) : (maskFrames m).Nodup := List.nodup_range.filter _

theorem mem_maskFrames {m : BitVec 8} {f : Nat} : f ∈ maskFrames m ↔ f < 8 ∧ m.getLsbD f = true := by
  simp [maskFrames]

end Sys2Proof.Machine
end

section
/-!
Links, budget intervals, frequency steps, scrub and revocation (R352, R360 to R370, R378): what each step answers.
-/
namespace Sys2Proof.Machine
open Sys2Proof.Claims

/-! ### Links (R360 to R363) -/

theorem setLink_onlyLink (s : State) {x : Link} {l : Nat} (h : x.id = l) :
    s.setLink x = { s with hub := { s.hub with links := (s.setLink x).hub.links } } ∧ (s.setLink x).link l = x :=
  ⟨rfl, s.link_setLink_same h⟩

theorem evLinkFail_absent (s : State) {l : Nat} (h : 30 ≤ l) : exec (.evLinkFail l) s = .next s :=
  if_neg (Nat.not_lt.2 h)

theorem evLinkFail_goesTo (s : State) {l : Nat} (h : l < 30) : goesTo (exec (.evLinkFail l) s) fun t =>
    t = { s with hub := { s.hub with links := t.hub.links } } ∧ t.link l = { s.link l with up := false, pending := none } :=
  ⟨_, if_pos h, setLink_onlyLink s (x := { s.link l with up := false, pending := none }) (s.link_id l)⟩

theorem evLinkRateChange_goesTo (s : State) {l w x : Nat} (hok : linkOk l w x = true) (hup : (s.link l).up = true) :
    goesTo (exec (.evLinkRateChange l w x) s) fun t =>
      t = { s with hub := { s.hub with links := t.hub.links } } ∧
      t.link l = if w < (s.link l).width ∧ s.stepPending = true then { s.link l with pending := some (w, x) }
        else { s.link l with width := w, rate := x, pending := none } := by
  have hexec : exec (.evLinkRateChange l w x) s = execEvLinkRateChange l w x s := rfl
  have hskip : (!linkOk l w x || !(s.link l).up) = false := by simp [hok, hup]
  rw [hexec]
  simp only [execEvLinkRateChange, hskip, Bool.false_eq_true, if_false]
  by_cases hwait : w < (s.link l).width ∧ s.stepPending = true
  · rw [if_pos hwait, if_pos (by simpa using hwait)]
    exact ⟨_, rfl, setLink_onlyLink s (s.link_id l)⟩
  · rw [if_neg hwait, if_neg (by simpa using hwait)]
    exact ⟨_, rfl, setLink_onlyLink s (s.link_id l)⟩

/-! ### Budget intervals (R367, R368) -/

theorem budget_bounds : Config.form.budget ≤ 2600000 ∧ Config.form.budget ≤ Config.form.limit - Config.form.moduleOwn :=
  ⟨min_le_left _ _, min_le_right _ _⟩

theorem frameGrants_within (s : State) (inp : BudgetInput) (h : s.measured inp ≤ Config.form.budget) :
    ((s.frameGrants inp).map Prod.snd).sum + (s.measured inp : Rat) ≤ (Config.form.budget : Rat) := by
  have hleft : (0 : Rat) ≤ (Config.form.budget : Rat) - s.measured inp := sub_nonneg.2 (by exact_mod_cast h)
  have hsum := s.sum_frameGrants_le inp
  rw [max_eq_right hleft] at hsum
  linarith

theorem frameGrants_spent (s : State) (inp : BudgetInput) (h : Config.form.budget ≤ s.measured inp) :
    ((s.frameGrants inp).map Prod.snd).sum ≤ 0 := by
  have hleft : (Config.form.budget : Rat) - s.measured inp ≤ 0 := sub_nonpos.2 (by exact_mod_cast h)
  exact (s.sum_frameGrants_le inp).trans_eq (max_eq_left hleft)

theorem evBudgetInterval_early (s : State) (inp : BudgetInput) (h : s.now < s.power.nextInterval) :
    exec (.evBudgetInterval inp) s = .next s :=
  if_pos h

/-- The state after an interval that is due. -/
def State.afterInterval (s : State) (inp : BudgetInput) : State :=
  let t := (s.frameGrants inp).foldl (State.frameInterval inp) s
  { t with
    power := { t.power with nextInterval := (s.now / 10000 + 1) * 10000, enforced := partsOver inp },
    plane := { t.plane with cands := t.plane.cands ++ s.surplusCand.toList } }.bump

theorem evBudgetInterval_due (s : State) (inp : BudgetInput) (h : s.power.nextInterval ≤ s.now) :
    exec (.evBudgetInterval inp) s = .next (s.afterInterval inp) :=
  if_neg (Nat.not_lt.2 h)

theorem State.afterInterval_powerFrame (s : State) (inp : BudgetInput) : PowerFrame s (s.afterInterval inp) :=
  (foldl_frameInterval_powerFrame inp (s.frameGrants inp) s).trans ⟨rfl, rfl, rfl, rfl, fun _ _ => rfl⟩

/-- Every live frame is served in an interval. -/
theorem State.afterInterval_served (s : State) (inp : BudgetInput) {f : Nat} (hf : f < 8)
    (hlive : s.hub.live.getLsbD f = true) : frameServed f s (s.afterInterval inp) := by
  have hkeys := s.map_fst_frameGrants inp
  exact (foldl_frameInterval_served inp (hkeys ▸ nodup_maskFrames _) (hkeys ▸ mem_maskFrames.2 ⟨hf, hlive⟩) s).then_same
    ⟨rfl, fun _ _ => rfl⟩

theorem cellFrame_of_index (f : Nat) {k : Nat} (hk : k < 8192) : cellFrame (f * 8192 + k) = f := by
  unfold cellFrame
  omega

theorem evBudgetInterval_goesTo (s : State) (inp : BudgetInput) (h : s.power.nextInterval ≤ s.now) :
    goesTo (exec (.evBudgetInterval inp) s) fun t => ringOnly s t ∧ t.th = s.th ∧
      t.pool = s.pool ∧ t.regions = s.regions ∧ t.power.nextInterval = (s.now / 10000 + 1) * 10000 ∧
      (∀ (k : Nat) x, (partReadings inp)[k]? = some x → (k ∈ t.power.enforced ↔ x.2 < x.1)) ∧
      ∀ f < 8, s.hub.live.getLsbD f = true →
        ((s.frameRec f).relock = none → ∀ k < 8192, dutyInRange (t.cellRec (f * 8192 + k)).duty) ∧
        ((s.frameRec f).relock ≠ none → (∀ k < 8192, t.cellRec (f * 8192 + k) = s.cellRec (f * 8192 + k)) ∧
          ∀ d ∈ (t.frameRec f).lateDuties, dutyInRange d.2.1) := by
  have hframe := s.afterInterval_powerFrame inp
  refine ⟨_, evBudgetInterval_due s inp h, hframe.memory, hframe.th, hframe.pool, hframe.regions, rfl,
    fun k x hx => mem_partsOver inp hx, fun f hf hlive => ?_⟩
  obtain ⟨hrun, hstop⟩ := s.afterInterval_served inp hf hlive
  exact ⟨fun hr k hk => hrun hr _ (cellFrame_of_index f hk),
    fun hr => ⟨fun k hk => (hstop hr).1 _ (cellFrame_of_index f hk), (hstop hr).2⟩⟩

/-! ### Frequency steps and restarts (R370, R381) -/

theorem evFrequencyStep_eq (s : State) {frame mhz : Nat} (hlo : 600 ≤ mhz) (hhi : mhz ≤ 1800) (hstep : mhz % 100 = 0)
    (hlive : s.hub.live.getLsbD frame = true) :
    exec (.evFrequencyStep frame mhz) s = .next (s.startStep frame mhz 0) := by
  have hexec : exec (.evFrequencyStep frame mhz) s = execEvFrequencyStep frame mhz s := rfl
  rw [hexec]
  simp [execEvFrequencyStep, setpointOk, hlo, hhi, hstep, hlive]

theorem evFrequencyStep_goesTo (s : State) {frame mhz : Nat} (hlo : 600 ≤ mhz) (hhi : mhz ≤ 1800) (hstep : mhz % 100 = 0)
    (hlive : s.hub.live.getLsbD frame = true) :
    goesTo (exec (.evFrequencyStep frame mhz) s) fun t => ringOnly s t ∧ t.th = s.th ∧ t.pool = s.pool ∧
      if (s.frameRec frame).relock = none then (t.frameRec frame).relock = some mhz ∧ (t.frameRec frame).relockAt = s.now ∧
          t.claims = s.claims.map fun k => if (s.ctx? k.cid).any (fun c => combFrame c.comb == frame) then
            { k with cal := false } else k
        else t.frameRec frame = { s.frameRec frame with laterStep := some (mhz, 0) } := by
  have hframe := s.startStep_powerFrame frame mhz 0
  refine ⟨_, evFrequencyStep_eq s hlo hhi hstep hlive, hframe.memory, hframe.th, hframe.pool, ?_⟩
  by_cases h : (s.frameRec frame).relock = none
  · rw [if_pos h, State.startStep_running h]
    have hrec := State.frameRec_setFrame_same (s.changeRecord 1 frame 0 (s.frameRec frame).mhz mhz)
      (x := (s.frameRec frame).stop mhz s.now) (s.frameRec_id frame)
    exact ⟨congrArg FrameRec.relock hrec, congrArg FrameRec.relockAt hrec, rfl⟩
  · rw [if_neg h, State.startStep_stopped (Option.isSome_iff_ne_none.2 h)]
    exact State.frameRec_setFrame_same s (x := { s.frameRec frame with laterStep := some (mhz, 0) }) (s.frameRec_id frame)

theorem evRelockRestart_none (s : State) {frame : Nat} (h : (s.frameRec frame).relock = none) :
    exec (.evRelockRestart frame) s = .next s := by
  have hexec : exec (.evRelockRestart frame) s = execEvRelockRestart frame s := rfl
  rw [hexec]
  simp only [execEvRelockRestart, h]

/-- The record of a frame whose clocks restart at a setpoint. -/
def FrameRec.restart (f : FrameRec) (mhz now : Nat) : FrameRec :=
  { f with
    mhz := mhz, relock := none, laterStep := none, lateDuties := [], cycSince := now,
    fstep := BitVec.ofNat 64 (f.cycBase % 2 ^ 32 * 2 ^ 32 + now % 2 ^ 32) }

theorem evRelockRestart_eq (s : State) {frame mhz : Nat} (h : (s.frameRec frame).relock = some mhz)
    (hlater : (s.frameRec frame).laterStep = none) :
    let u := s.setFrame ((s.frameRec frame).restart mhz s.now)
    exec (.evRelockRestart frame) s = .next (if (s.frameRec frame).lateDuties.isEmpty then u else
      u.takeDuties frame (s.frameRec frame).lateDuties).linksResume := by
  intro u
  have hexec : exec (.evRelockRestart frame) s = execEvRelockRestart frame s := rfl
  rw [hexec]
  simp only [execEvRelockRestart, h, hlater]
  rfl

theorem evRelockRestart_goesTo (s : State) {frame mhz : Nat} (h : (s.frameRec frame).relock = some mhz)
    (hlater : (s.frameRec frame).laterStep = none) :
    goesTo (exec (.evRelockRestart frame) s) fun t => ringOnly s t ∧ t.th = s.th ∧
      t.frameRec frame = (s.frameRec frame).restart mhz s.now ∧
      ((s.frameRec frame).lateDuties.Pairwise (fun a b => a.1 ≠ b.1) →
        ∀ d ∈ (s.frameRec frame).lateDuties, (t.cellRec d.1).duty = d.2.1) := by
  set ds := (s.frameRec frame).lateDuties with hds
  set u := s.setFrame ((s.frameRec frame).restart mhz s.now) with hu
  have hrec : u.frameRec frame = (s.frameRec frame).restart mhz s.now := s.frameRec_setFrame_same (s.frameRec_id frame)
  have hframe : PowerFrame s u := s.setFrame_powerFrame _
  refine ⟨_, evRelockRestart_eq s h hlater, ?_⟩
  rw [← hds, ← hu]
  by_cases hempty : ds.isEmpty = true
  · rw [if_pos hempty]
    have hall := hframe.trans u.linksResume_powerFrame
    refine ⟨hall.memory, hall.th, (State.frameRec_of_frames u.linksResume_frames frame).trans hrec, fun _ d hd => ?_⟩
    rw [List.isEmpty_iff.1 hempty] at hd
    exact absurd hd List.not_mem_nil
  · rw [if_neg hempty]
    have hall := (hframe.trans (u.takeDuties_powerFrame frame ds)).trans (State.linksResume_powerFrame _)
    refine ⟨hall.memory, hall.th, ?_, fun hpair d hd => ?_⟩
    · rw [State.frameRec_of_frames (State.linksResume_frames _), State.frameRec_of_frames (u.takeDuties_frames frame ds), hrec]
    · rw [State.cellRec_of_cells (State.linksResume_cells _)]
      exact State.duty_takeDuties hpair hd u frame

/-! ### Scrub and revocation (R352, R378) -/

theorem evPatrolScrub_results (s : State) {frame x : Nat} (hlive : s.hub.live.getLsbD frame = true) (hx : x < 2 ^ 31) :
    exec (.evPatrolScrub frame x .clean) s = .next s ∧
    exec (.evPatrolScrub frame x .corrected) s = .next (s.countCorrection frame) ∧
    exec (.evPatrolScrub frame x .uncorrectable) s = .next (s.poisonSector (paHbm frame (32 * x) / 32)) := by
  have hskip : ¬ (!s.hub.live.getLsbD frame || decide (2 ^ 31 ≤ x)) = true := by
    rw [hlive, decide_eq_false (Nat.not_le.2 hx)]
    decide
  exact ⟨if_neg hskip, if_neg hskip, if_neg hskip⟩

/-- The corrections that the stack of a frame has counted. -/
def State.correctionsOf (s : State) (frame : Nat) : Nat :=
  ((s.power.corrections.find? fun y => y.1 == frame).map Prod.snd).getD 0

theorem State.correctionsOf_countCorrection (s : State) (frame : Nat) :
    (s.countCorrection frame).correctionsOf frame = s.correctionsOf frame + 1 := by
  have hfind := find?_upsert_same (p := fun y : Nat × Nat => y.1 == frame) (x := (frame, s.correctionsOf frame + 1))
    (by simp) s.power.corrections
  exact congrArg (fun o => (o.map Prod.snd).getD 0) hfind

/-- A marked sector reads as poisoned. -/
theorem State.poisoned_poisonSector (s : State) (pa : Nat) : (s.poisonSector (pa / 32)).poisoned pa 32 = true := by
  have hmem : pa / 32 ∈ (s.poisonSector (pa / 32)).power.poison := by
    unfold State.poisonSector
    split
    · next h => simpa using h
    · simp
  have hlast : pa / 32 ≤ (pa + 32 - 1) / 32 := by omega
  unfold State.poisoned
  rw [Bool.or_eq_true]
  exact .inl (List.any_eq_true.2 ⟨_, hmem, by simpa using hlast⟩)

theorem State.poisonSector_frame (s : State) (x : Nat) : memoryKept s (s.poisonSector x) ∧ (s.poisonSector x).th = s.th := by
  unfold State.poisonSector
  split <;> exact ⟨fun _ => rfl, rfl⟩

theorem evPatrolScrub_goesTo (s : State) {frame x : Nat} (hlive : s.hub.live.getLsbD frame = true) (hx : x < 2 ^ 31) :
    exec (.evPatrolScrub frame x .clean) s = .next s ∧
    (goesTo (exec (.evPatrolScrub frame x .corrected) s) fun t =>
      t = { s with power := { s.power with corrections := t.power.corrections } } ∧
      t.correctionsOf frame = s.correctionsOf frame + 1) ∧
    goesTo (exec (.evPatrolScrub frame x .uncorrectable) s) fun t => memoryKept s t ∧ t.th = s.th ∧
      t.poisoned (paHbm frame (32 * x)) 32 = true := by
  obtain ⟨hclean, hcorrected, hmarked⟩ := evPatrolScrub_results s hlive hx
  obtain ⟨hmem, hth⟩ := s.poisonSector_frame (paHbm frame (32 * x) / 32)
  exact ⟨hclean, ⟨_, hcorrected, rfl, s.correctionsOf_countCorrection frame⟩,
    ⟨_, hmarked, hmem, hth, s.poisoned_poisonSector _⟩⟩

theorem evExportRevocation_goesTo (s : State) (frame i : Nat) :
    goesTo (exec (.evExportRevocation frame i) s) fun t => memoryKept s t ∧ t.th = s.th ∧
      t.frameRec frame = { s.frameRec frame with imports := (s.frameRec frame).imports.map fun m =>
        if m.index == i then { m with revoked := true } else m } :=
  ⟨_, rfl, fun _ => rfl, rfl, s.frameRec_setFrame_same (s.frameRec_id frame)⟩

/-! ### The obligation -/

/-- Settles O58, clause by clause: an interval serves each live frame in its turn, and the turns of the others leave it; the ring
of power records is all of memory that duties and frequency steps write. -/
theorem linksAndPower : Obligations.LinksAndPower := by
  unfold Obligations.LinksAndPower
  intro s
  refine ⟨fun _ => rfl, fun l => ⟨evLinkFail_absent s, evLinkFail_goesTo s⟩,
    fun l w x hok hup => evLinkRateChange_goesTo s hok hup, fun inp => ?_,
    fun frame mhz hlo hhi hstep hlive => evFrequencyStep_goesTo s hlo hhi hstep hlive,
    fun frame => ⟨evRelockRestart_none s, fun mhz h hlater => evRelockRestart_goesTo s h hlater⟩,
    fun frame x hlive hx => evPatrolScrub_goesTo s hlive hx, evExportRevocation_goesTo s⟩
  exact ⟨s.measured_eq inp, budget_bounds, frameGrants_within s inp, frameGrants_spent s inp, s.frameGrants_le inp,
    evBudgetInterval_early s inp, evBudgetInterval_goesTo s inp⟩

end Sys2Proof.Machine
end

section
/-!
Time (R24, R131, R135 to R138, R150, R154, R370, R372): what stops it, and what a nanosecond does to claims and cells.
-/
namespace Sys2Proof.Machine
open Sys2Proof.Claims

/-! ### What time waits for -/

/-- A summer outputs less than it carries when that passes ±1.25, and only then (R137). -/
theorem levelClamp_ne_iff {m : Int} (hm : 0 ≤ m) (x : Int) : x ≠ levelClamp m x ↔ m < x ∨ x < -m := by
  unfold levelClamp
  omega

theorem natAbs_levelClamp_le (m : Nat) (x : Int) : (levelClamp m x).natAbs ≤ m := by
  unfold levelClamp
  omega

theorem Claim.passing_iff (s : State) (k : Claim) (n : Nat) : k.passing n = true ↔ passes s k n := by
  have hsummer : k.carried k.kept n ≠ k.summer k.kept n ↔
      satLevel < k.carried k.kept n ∨ k.carried k.kept n < -satLevel := levelClamp_ne_iff (by decide) _
  simp only [Claim.passing, passes, hsummer, Bool.or_eq_true, Bool.and_eq_true, decide_eq_true_eq, Bool.not_eq_true',
    List.contains_eq_mem, decide_eq_false_iff_not]

theorem Claim.mem_integrators {k : Claim} {n : Nat} : n ∈ k.integrators ↔ n < 64 * k.np := List.mem_range

/-- A saturation that has not been dealt with is due (R137). -/
theorem State.fabricDue_of_passes {s : State} (h : ∃ k ∈ s.claims, k.st = .run ∧ ∃ n < 64 * k.np, passes s k n) :
    s.fabricDue = true := by
  obtain ⟨k, hk, hrun, n, hn, hpass⟩ := h
  have hany : k.integrators.any k.passing = true :=
    List.any_eq_true.2 ⟨n, Claim.mem_integrators.2 hn, (Claim.passing_iff s k n).2 hpass⟩
  exact List.any_eq_true.2 ⟨k, hk, by simp [hrun, hany]⟩

/-- What time waits for, beside what the fabric dies have due. -/
theorem State.timeDue_iff (s : State) : s.timeDue = true ↔
    (∃ l < 16, ∃ d, s.dueContest l = some d) ∨ (∃ r ∈ s.plane.results, r.due + 400 ≤ s.now) ∨
      (∃ f ∈ s.frames, f.relock ≠ none ∧ f.relockAt + 600 ≤ s.now) ∨ s.power.nextInterval ≤ s.now ∨
      (∃ c p due, s.power.snapArmed = some (c, p, due) ∧ due ≤ s.now) ∨ s.fabricDue = true := by
  have hcontest : (List.range 16).any (fun l => (s.dueContest l).isSome) = true ↔ ∃ l < 16, ∃ d, s.dueContest l = some d := by
    simp only [List.any_eq_true, List.mem_range, Option.isSome_iff_exists]
  have hresult : s.plane.results.any (fun r => decide (r.due + 400 ≤ s.now)) = true ↔
      ∃ r ∈ s.plane.results, r.due + 400 ≤ s.now := by
    simp only [List.any_eq_true, decide_eq_true_eq]
  have hrelock : s.frames.any (fun f => f.relock.isSome && decide (f.relockAt + 600 ≤ s.now)) = true ↔
      ∃ f ∈ s.frames, f.relock ≠ none ∧ f.relockAt + 600 ≤ s.now := by
    simp only [List.any_eq_true, Bool.and_eq_true, decide_eq_true_eq, Option.isSome_iff_ne_none]
  have hsnap : s.power.snapArmed.any (fun x => decide (x.2.2 ≤ s.now)) = true ↔
      ∃ c p due, s.power.snapArmed = some (c, p, due) ∧ due ≤ s.now := by
    simp only [Option.any_eq_true, decide_eq_true_eq, Prod.exists]
  simp only [State.timeDue, Bool.or_eq_true, decide_eq_true_eq, hcontest, hresult, hrelock, hsnap, or_assoc]

theorem State.pass_due {s : State} (h : s.timeDue = true) (ns : Nat) : s.pass ns = s := by
  cases ns with
  | zero => rfl
  | succ n => exact if_pos h

theorem State.pass_one {s : State} (h : s.timeDue = false) : s.pass 1 = { s with
    now := s.now + 1, claims := s.fabricFlow.claims, cells := s.cells.map s.gateCell } :=
  if_neg (by simp [h])

/-! ### Gated cycles (R372) -/

theorem State.gateCell_ungated {s : State} {c : CellRec}
    (h : c.dutyAtTime s.now = 16 ∨ (s.frameRec (cellFrame c.id)).relock ≠ none) : s.gateCell c = c :=
  if_pos (h.imp_right Option.isSome_iff_ne_none.2)

theorem State.gateCell_gated {s : State} {c : CellRec} (hduty : c.dutyAtTime s.now ≠ 16)
    (hrun : (s.frameRec (cellFrame c.id)).relock = none) :
    s.gateCell c = { c with
      gated := c.gated.mapIdx fun k x =>
        if c.whyAtTime s.now = k + 1 then x + (16 - c.dutyAtTime s.now) * (s.frameRec (cellFrame c.id)).mhz else x } :=
  if_neg (not_or.2 ⟨hduty, by simp [hrun]⟩)

/-! ### Integrators (R131, R137) -/

theorem State.fabricFlow_claim {s : State} {i : Nat} {k : Claim} (h : s.claims[i]? = some k) :
    ∃ theta, s.fabricFlow.claims[i]? = some (k.flow s.now theta) := by
  refine ⟨(s.settleOf k.cid).map fun e => settleTheta e.2, ?_⟩
  simp only [State.fabricFlow, List.getElem?_map, h, Option.map_some]

theorem Claim.flow_stopped {k : Claim} (h : k.st ≠ .run) (now : Nat) (theta : Option Nat) : k.flow now theta = k :=
  if_pos h

/-- The state of an integrator one nanosecond on. -/
def Claim.nextXi (k : Claim) (now n : Nat) : Int :=
  if k.held.contains n then k.xiAt n
  else k.xiAt n + k.summer k.kept n * 10 ^ gainCode k.kept n / 10 ^ 6 +
    levelClamp (k.bendBound k.kept (gainCode k.kept n)) (Config.bend now (k.cid * 4096 + n))

theorem Claim.flow_running {k : Claim} (h : k.st = .run) (now : Nat) (theta : Option Nat) :
    ∃ calm, k.flow now theta = { k with xi := k.integrators.map (k.nextXi now), calm := calm } :=
  ⟨_, if_neg (not_not.2 h)⟩

theorem Claim.xiAt_flow {k : Claim} (h : k.st = .run) (now : Nat) (theta : Option Nat) {n : Nat} (hn : n < 64 * k.np) :
    (k.flow now theta).xiAt n = k.nextXi now n := by
  obtain ⟨calm, hflow⟩ := Claim.flow_running h now theta
  simp [hflow, Claim.xiAt, Claim.integrators, List.getD_eq_getElem?_getD, hn]

theorem Claim.nextXi_held {k : Claim} {n : Nat} (h : n ∈ k.held) (now : Nat) : k.nextXi now n = k.xiAt n :=
  if_pos (by simpa using h)

/-- The slope gives k × u, and the curve adds at most its bound (log 85). -/
theorem Claim.nextXi_within {k : Claim} {n : Nat} (h : n ∉ k.held) (now : Nat) :
    (k.nextXi now n - (k.xiAt n + k.summer k.kept n * 10 ^ gainCode k.kept n / 1000000)).natAbs ≤
      k.bendBound k.kept (gainCode k.kept n) := by
  have hnext : k.nextXi now n = k.xiAt n + k.summer k.kept n * 10 ^ gainCode k.kept n / 1000000 +
      levelClamp (k.bendBound k.kept (gainCode k.kept n)) (Config.bend now (k.cid * 4096 + n)) :=
    if_neg (by simpa using h)
  rw [hnext, add_sub_cancel_left]
  exact natAbs_levelClamp_le _ _

/-! ### The obligation -/

/-- Settles O60: each instant that time may not pass is one that `State.timeDue` sees, and a nanosecond flows claim by claim and
gates cell by cell. -/
theorem timePasses : Obligations.TimePasses := by
  unfold Obligations.TimePasses
  intro s
  refine ⟨fun h => congrArg Host.Outcome.next (State.pass_one h), fun h ns => ?_, fun c => ⟨State.gateCell_ungated, fun hduty hrun => ?_⟩,
    fun i k hk => ?_⟩
  · have hdue : s.timeDue = true := s.timeDue_iff.2
      (h.imp_right (.imp_right (.imp_right (.imp_right (.imp_right State.fabricDue_of_passes)))))
    exact congrArg Host.Outcome.next (State.pass_due hdue ns)
  · rw [State.gateCell_gated hduty hrun]
    exact ⟨rfl, fun _ => List.getElem?_mapIdx⟩
  · obtain ⟨theta, hflow⟩ := State.fabricFlow_claim hk
    refine ⟨_, hflow, fun h => Claim.flow_stopped h _ _, fun h => ⟨?_, fun n hn => ?_⟩⟩
    · obtain ⟨calm, heq⟩ := Claim.flow_running h s.now theta
      rw [heq]
    · rw [Claim.xiAt_flow h s.now theta hn]
      exact ⟨fun hheld => Claim.nextXi_held hheld _, fun hfree => Claim.nextXi_within hfree _⟩

end Sys2Proof.Machine
end

section
/-!
Snapshots and meters (R375, R376), the SPDM responder (R380), and package reset with bring-up (R366, R379).
-/
namespace Sys2Proof.Machine
open Sys2Proof.Claims

/-! ### Snapshots and meters -/

theorem evSnapshotTrigger_early {s : State} {cid p due : Nat} (h : s.power.snapArmed = some (cid, p, due)) (hdue : s.now < due) :
    exec .evSnapshotTrigger s = .next s := by
  have hexec : exec .evSnapshotTrigger s = execEvSnapshotTrigger s := rfl
  simp only [hexec, execEvSnapshotTrigger, h, hdue, if_true]

theorem evSnapshotTrigger_goesTo {s : State} {cid p due : Nat} (h : s.power.snapArmed = some (cid, p, due)) (hdue : due ≤ s.now) :
    goesTo (exec .evSnapshotTrigger s) fun t => memoryKept s t ∧ t.power.snapArmed = none ∧
      t.power.snapSeq = s.power.snapSeq + 1 ∧ t.power.snapHeld = true := by
  have hexec : exec .evSnapshotTrigger s = execEvSnapshotTrigger s := rfl
  simp only [hexec, execEvSnapshotTrigger, h, Nat.not_lt.2 hdue, if_false]
  exact ⟨_, rfl, fun _ => rfl, rfl, rfl, rfl⟩

theorem evMeterRead_eq {s : State} {cid : CtxId} {ws : List Word} (h : s.blockOf cid = some ws) :
    exec (.evMeterRead cid) s = .next { s with power := { s.power with
      mctp := s.power.mctp ++ [ws ++ List.replicate (31 - ws.length) 0 ++ [Config.meterSeal cid ws]],
      ended := s.power.ended.filter fun x => x.1 != cid } } := by
  have hexec : exec (.evMeterRead cid) s = execEvMeterRead cid s := rfl
  simp only [hexec, execEvMeterRead, h]
  rfl

/-! ### Attestation -/

/-- A request is answered with a code, and the responder then stands where the flags say; memory and contexts stay as they were
(R380). -/
def answersWith (s : State) (i : Instr) (code : Nat) (v c a : Bool) : Prop := goesTo (exec i s) fun t =>
  (memoryKept s t ∧ t.th = s.th ∧ t.pool = s.pool ∧
    ∃ about, t.sec.replies = s.sec.replies ++ [(code, Config.spdmBytes code about)]) ∧
  t.sec.versioned = v ∧ t.sec.capable = c ∧ t.sec.algorithms = a

/-- The state after a reply, at a place of the exchange and a count of free values. -/
def State.answered (s : State) (code : Nat) (about : List Nat) (v c a : Bool) (tick : Nat) : State :=
  { s with sec := { s.sec with versioned := v, capable := c, algorithms := a }, tick := tick }.spdm code about

theorem answersWith_of_eq {s : State} {i : Instr} {code tick : Nat} {about : List Nat} {v c a : Bool}
    (h : exec i s = .next (s.answered code about v c a tick)) : answersWith s i code v c a :=
  ⟨_, h, ⟨fun _ => rfl, rfl, rfl, _, rfl⟩, rfl, rfl, rfl⟩

/-- The shape of the responder: out of order a request gets the ERROR response, and the exchange stays where it is. -/
theorem answersWith_of_ite {s : State} {i : Instr} {b : Bool} {code tick : Nat} {about : List Nat} {v c a : Bool}
    (h : exec i s = .next (if b then s.answered code about v c a tick else s.spdmError)) :
    answersWith s i (if b then code else 0x7F) (if b then v else s.sec.versioned) (if b then c else s.sec.capable)
      (if b then a else s.sec.algorithms) := by
  cases b with
  | true => exact answersWith_of_eq h
  | false => exact answersWith_of_eq (tick := s.tick) h

/-- A request that moves nothing on: the flags stay either way. -/
theorem answersWith_of_ite_same {s : State} {i : Instr} {b : Bool} {code tick : Nat} {about : List Nat}
    (h : exec i s = .next (if b then s.answered code about s.sec.versioned s.sec.capable s.sec.algorithms tick else s.spdmError)) :
    answersWith s i (if b then code else 0x7F) s.sec.versioned s.sec.capable s.sec.algorithms := by
  simpa only [ite_self] using answersWith_of_ite h

theorem evGetVersion_answers (s : State) : answersWith s .evGetVersion 0x04 true false false :=
  answersWith_of_eq (about := []) (tick := s.tick) rfl

theorem evGetCapabilities_answers (s : State) : answersWith s .evGetCapabilities (if s.sec.versioned then 0x61 else 0x7F)
    s.sec.versioned (if s.sec.versioned then true else s.sec.capable) s.sec.algorithms := by
  have h := answersWith_of_ite (s := s) (i := .evGetCapabilities) (b := s.sec.versioned) (code := 0x61) (about := [])
    (v := s.sec.versioned) (c := true) (a := s.sec.algorithms) (tick := s.tick) (apply_ite Host.Outcome.next _ _ _).symm
  simpa only [ite_self] using h

theorem evNegotiateAlgorithms_answers (s : State) (ed sha : Bool) : answersWith s (.evNegotiateAlgorithms ed sha)
    (if s.sec.capable && ed && sha then 0x63 else 0x7F) s.sec.versioned s.sec.capable
    (if s.sec.capable && ed && sha then true else s.sec.algorithms) := by
  have h := answersWith_of_ite (s := s) (i := .evNegotiateAlgorithms ed sha) (b := s.sec.capable && ed && sha) (code := 0x63)
    (about := []) (v := s.sec.versioned) (c := s.sec.capable) (a := true) (tick := s.tick)
    (apply_ite Host.Outcome.next _ _ _).symm
  simpa only [ite_self] using h

theorem evGetDigests_answers (s : State) : answersWith s .evGetDigests (if s.sec.algorithms then 0x01 else 0x7F)
    s.sec.versioned s.sec.capable s.sec.algorithms :=
  answersWith_of_ite_same (about := []) (tick := s.tick) rfl

theorem evGetCertificate_answers (s : State) (n : Nat) : answersWith s (.evGetCertificate n)
    (if s.sec.algorithms && decide (n < 8) then 0x02 else 0x7F) s.sec.versioned s.sec.capable s.sec.algorithms :=
  answersWith_of_ite_same (about := [n]) (tick := s.tick) rfl

theorem evChallenge_answers (s : State) (n : Nat) : answersWith s (.evChallenge n) (if s.sec.algorithms then 0x03 else 0x7F)
    s.sec.versioned s.sec.capable s.sec.algorithms :=
  answersWith_of_ite_same (about := [n, s.tick]) (tick := s.tick + 1) rfl

theorem evGetMeasurements_answers (s : State) (n : Nat) : answersWith s (.evGetMeasurements n)
    (if s.sec.algorithms && (decide (n ≤ 4) || n == 255) then 0x60 else 0x7F) s.sec.versioned s.sec.capable s.sec.algorithms :=
  answersWith_of_ite_same (about := n :: if n = 255 then [1, 2, 3, 4].flatMap s.measurement else s.measurement n)
    (tick := s.tick) rfl

theorem evGetCertificate_replies {s : State} {n : Nat} (ha : s.sec.algorithms = true) (hn : n < 8) :
    goesTo (exec (.evGetCertificate n) s) fun t =>
      t.sec.replies = s.sec.replies ++ [(0x02, Config.spdmBytes 0x02 [s.sec.identity, n])] :=
  ⟨_, congrArg Host.Outcome.next (if_pos (by simp [ha, hn])), rfl⟩

/-- Measurement 3 reports the fuse map and the live frames. -/
theorem evGetMeasurements_fuses {s : State} (ha : s.sec.algorithms = true) :
    goesTo (exec (.evGetMeasurements 3) s) fun t => t.sec.replies = s.sec.replies ++
      [(0x60, Config.spdmBytes 0x60 [s.sec.identity, 3, Config.fuseMap.toNat, s.hub.live.toNat])] :=
  ⟨_, congrArg Host.Outcome.next (if_pos (by simp [ha])), rfl⟩

/-! ### Firmware images (R379; log 79) -/

/-- An image that a machine of these fuses runs. -/
def soundImage (i : Image) : Prop := i.keyHash = Config.rootKeyHash ∧
  Config.signatureOk i.keyHash (Nat.pair i.body i.version) i.signature = true ∧ Config.securityVersion ≤ i.version

/-- A bring-up that meets sound images and nothing else. -/
def bringUpReady (up : BringUp) : Prop := ∃ pkg comb, up = .images pkg comb ∧ soundImage pkg ∧ soundImage comb

theorem SecState.accepts_reset_iff (i : Image) : SecState.reset.accepts i = true ↔ soundImage i := by
  simp only [SecState.accepts, Bool.and_eq_true, beq_iff_eq, decide_eq_true_eq, and_assoc]
  exact Iff.rfl

theorem bringUpReached_ready {up : BringUp} (h : bringUpReady up) : bringUpReached .reset up = (6, 0) := by
  obtain ⟨pkg, comb, rfl, hpkg, hcomb⟩ := h
  exact if_pos (by simp [(SecState.accepts_reset_iff _).2 hpkg, (SecState.accepts_reset_iff _).2 hcomb])

/-- The stage at which a bring-up without sound images stops, and its error. -/
def bringUpFailure : BringUp → BitVec 4 × BitVec 4
  | .fuse => (2, 1)
  | .link => (3, 2)
  | .fabric => (4, 3)
  | .images _ _ => (5, 4)

theorem bringUpReached_failed {up : BringUp} (h : ¬bringUpReady up) : bringUpReached .reset up = bringUpFailure up := by
  cases up with
  | images pkg comb =>
    refine if_neg fun hacc => h ⟨pkg, comb, rfl, ?_⟩
    simpa only [Bool.and_eq_true, SecState.accepts_reset_iff] using hacc
  | _ => rfl

/-- A bring-up ends at stage 2 when the fuses fail, and beyond stage 3 when neither the fuses nor the links do. -/
theorem bringUpReached_stage (x : SecState) (up : BringUp) : ((bringUpReached x up).1 = 2 ↔ up = .fuse) ∧
    (3 < (bringUpReached x up).1.toNat ↔ up ≠ .fuse ∧ up ≠ .link) := by
  cases up with
  | images pkg comb =>
    simp only [bringUpReached]
    split <;> simp
  | _ => simp [bringUpReached]

/-! ### Memory through a reset -/

/-- Cells of memory that are dropped by their address read as unlisted, and the others as before. -/
theorem Memory.get_filter (p : Nat → Bool) (m : Memory) (a : Nat) :
    Memory.get (m.filter fun x => p x.1) a = if p a then m.get a else unlistedByte a := by
  induction m with
  | nil => exact (ite_self _).symm
  | cons x m ih =>
    obtain ⟨k, v⟩ := x
    by_cases hk : k = a
    · subst hk
      cases hp : p k with
      | true => simp [hp, Memory.get]
      | false => simpa [hp, Memory.get] using ih
    · cases hp : p k <;> simpa [hp, Memory.get, hk] using ih

theorem Memory.get_withImages_service (m : Memory) {a : Nat} (hlo : serviceBase ≤ a) (hhi : a < serviceEnd) :
    m.withImages.get a = unlistedByte a :=
  (Memory.get_filter (fun x => decide (x < serviceBase ∨ serviceEnd ≤ x)) m a).trans (if_neg (by simp [hlo, hhi]))

theorem Memory.get_withImages_other (m : Memory) {a : Nat} (h : a < serviceBase ∨ serviceEnd ≤ a) :
    m.withImages.get a = m.get a :=
  (Memory.get_filter (fun x => decide (x < serviceBase ∨ serviceEnd ≤ x)) m a).trans (if_pos (by simp [h]))

/-! ### Package reset (R366) -/

/-- The hub as a bring-up leaves it. -/
def bringUpHub (up : BringUp) : Hub :=
  let r := bringUpReached .reset up
  { Hub.reset with
    live := if r.1 = 2 then 0 else Config.liveFrames
    links := (List.range 30).map fun l => { Link.trained l with up := decide (3 < r.1.toNat) }
    stage := r.1, err := r.2 }

/-- The state after reset and a bring-up that has not started firmware. -/
def State.resetBy (s : State) (up : BringUp) : State :=
  s.afterReset (bringUpHub up) (if (bringUpReached .reset up).1 = 2 then [] else bringUpCombs)

theorem evPackageReset_ready (s : State) {up : BringUp} (h : bringUpReady up) : exec (.evPackageReset up) s =
    .next { s.resetBy up with sec := { SecState.reset with booted := bringUpBooted up } }.startFirmware :=
  congrArg Host.Outcome.next (if_pos (congrArg Prod.fst (bringUpReached_ready h)))

theorem evPackageReset_failed (s : State) {up : BringUp} (h : ¬bringUpReady up) :
    exec (.evPackageReset up) s = .next (s.resetBy up) := by
  have hstage : (bringUpReached .reset up).1 ≠ 6 := by
    rw [bringUpReached_failed h]
    cases up <;> simp [bringUpFailure]
  exact congrArg Host.Outcome.next (if_neg hstage)

theorem bringUpHub_live (up : BringUp) : (bringUpHub up).live = if up = .fuse then 0 else Config.liveFrames :=
  if_congr (bringUpReached_stage .reset up).1 rfl rfl

theorem Link.trained_id (l : Nat) : (Link.trained l).id = l := by
  unfold Link.trained
  split
  · rfl
  · split <;> rfl

/-- Every link has a record after a bring-up, and they are all up or all down. -/
theorem link_up_of_bringUp {up : BringUp} {t : State} (ht : t.hub = bringUpHub up) {l : Nat} (hl : l < 30) :
    (t.link l).up = decide (up ≠ .fuse ∧ up ≠ .link) := by
  have hmem : ({ Link.trained l with up := decide (3 < (bringUpReached .reset up).1.toNat) } : Link) ∈ t.hub.links :=
    ht ▸ List.mem_map.2 ⟨l, List.mem_range.2 hl, rfl⟩
  have hup : ∀ x ∈ t.hub.links, x.up = decide (up ≠ .fuse ∧ up ≠ .link) := by
    rw [ht]
    rintro x hx
    obtain ⟨_, -, rfl⟩ := List.mem_map.1 hx
    exact decide_eq_decide.2 (bringUpReached_stage .reset up).2
  cases hfind : t.hub.links.find? fun x => x.id == l with
  | none => exact absurd (Link.trained_id l) (by simpa using List.find?_eq_none.1 hfind _ hmem)
  | some x =>
    have hlink : t.link l = x := congrArg (Option.getD · _) hfind
    exact hlink ▸ hup x (List.mem_of_find?_eq_some hfind)

theorem mem_serviceCtxs {f k : Nat} (hf : f < 8) (hlive : Config.liveFrames.getLsbD f = true) (hk : k / 64 = f) :
    serviceCtx (2 * k + 2) (.supervisor k) .comb ∈ serviceCtxs ∧ serviceCtx (2 * k + 3) (.translator k) .comb ∈ serviceCtxs := by
  have hcomb : k ∈ (maskFrames Config.liveFrames).flatMap frameCombs :=
    List.mem_flatMap.2 ⟨f, mem_maskFrames.2 ⟨hf, hlive⟩, mem_frameCombs.2 hk⟩
  constructor
  · exact List.mem_cons_of_mem _ (List.mem_flatMap.2 ⟨k, hcomb, by simp⟩)
  · exact List.mem_cons_of_mem _ (List.mem_flatMap.2 ⟨k, hcomb, by simp⟩)

/-- Firmware of its level runs from the first byte of each cell's memory, on both service cells of every comb of the live frames. -/
def firmwareRuns (cs : List Ctx) : Prop :=
  ∀ f < 8, Config.liveFrames.getLsbD f = true → ∀ k : Nat, k < 64 → ∃ c ∈ cs, ∃ d ∈ cs,
    c.place = .supervisor (f * 64 + k) ∧ d.place = .translator (f * 64 + k) ∧ c.level = .comb ∧ d.level = .comb ∧
    c.status = .running ∧ d.status = .running ∧ c.pc = 0 ∧ d.pc = 0

theorem firmwareRuns_serviceCtxs : firmwareRuns serviceCtxs := by
  intro f hf hlive k hk
  obtain ⟨hsup, htrans⟩ := mem_serviceCtxs hf hlive (k := f * 64 + k) (by omega)
  exact ⟨_, hsup, _, htrans, rfl, rfl, rfl, rfl, rfl, rfl, rfl, rfl⟩

/-- What a package reset does, whatever its bring-up meets: the clauses of R366 and R379. -/
def resetsTo (s : State) (up : BringUp) (t : State) : Prop :=
  (bringUpReady up → ∀ x, serviceBase ≤ x → x < serviceEnd → t.byteAt x = State.reset.byteAt x) ∧
  (∀ x, ¬bringUpReady up ∨ x < serviceBase ∨ serviceEnd ≤ x → t.byteAt x = s.byteAt x) ∧
  t = { State.reset with
    mem := t.mem, tick := t.tick, agenda := s.agenda, hub := t.hub, combs := t.combs, pool := t.pool, sec := t.sec } ∧
  (¬bringUpReady up → t.pool = [] ∧ t.sec = State.reset.sec) ∧
  (bringUpReady up → (∃ booted, t.sec = { State.reset.sec with booted := booted }) ∧ firmwareRuns t.pool) ∧
  t.hub.live = (if up = .fuse then 0 else Config.liveFrames) ∧
  (∀ l < 30, (t.link l).up = decide (up ≠ .fuse ∧ up ≠ .link)) ∧ t.hub.queues = [] ∧
  (bringUpReady up → (t.hub.stage, t.hub.err) = ((6 : BitVec 4), (0 : BitVec 4))) ∧
  (¬bringUpReady up → (t.hub.stage, t.hub.err) = bringUpFailure up)

theorem evPackageReset_goesTo_ready (s : State) {up : BringUp} (h : bringUpReady up) :
    goesTo (exec (.evPackageReset up) s) (resetsTo s up) := by
  refine ⟨_, evPackageReset_ready s h, fun _ x hlo hhi => Memory.get_withImages_service _ hlo hhi, fun x hx => ?_, rfl,
    fun hn => absurd h hn, fun _ => ⟨⟨_, rfl⟩, firmwareRuns_serviceCtxs⟩, bringUpHub_live up, fun l hl => link_up_of_bringUp rfl hl, rfl,
    fun _ => bringUpReached_ready h, fun hn => absurd h hn⟩
  exact Memory.get_withImages_other _ (hx.resolve_left (not_not.2 h))

theorem evPackageReset_goesTo_failed (s : State) {up : BringUp} (h : ¬bringUpReady up) :
    goesTo (exec (.evPackageReset up) s) (resetsTo s up) :=
  ⟨_, evPackageReset_failed s h, fun hr => absurd hr h, fun _ _ => rfl, rfl, fun _ => ⟨rfl, rfl⟩, fun hr => absurd hr h,
    bringUpHub_live up, fun _ hl => link_up_of_bringUp rfl hl, rfl, fun hr => absurd hr h, fun _ => bringUpReached_failed h⟩

theorem evPackageReset_goesTo (s : State) (up : BringUp) : goesTo (exec (.evPackageReset up) s) (resetsTo s up) := by
  by_cases h : bringUpReady up
  · exact evPackageReset_goesTo_ready s h
  · exact evPackageReset_goesTo_failed s h

/-! ### The obligation -/

/-- Settles O59, step by step: each request of the exchange has its reply or the ERROR response, and a package reset ends in one
of two ways, as its images are sound or not. -/
theorem management : Obligations.Management := by
  unfold Obligations.Management
  intro s
  refine ⟨fun cid p due h => ⟨evSnapshotTrigger_early h, evSnapshotTrigger_goesTo h⟩, rfl, rfl, fun cid ws => evMeterRead_eq,
    evGetVersion_answers s, evGetCapabilities_answers s, evNegotiateAlgorithms_answers s, evGetDigests_answers s,
    evGetCertificate_answers s, fun n => evGetCertificate_replies, evGetMeasurements_fuses, evChallenge_answers s,
    evGetMeasurements_answers s, fun up => ?_⟩
  obtain ⟨t, hexec, himages, hmemory, hframe, hstopped, hfirmware, hlive, hlinks, hqueues, hready, hfailed⟩ :=
    evPackageReset_goesTo s up
  refine ⟨t, hexec, himages, hmemory, hframe, hstopped, hfirmware, hlive, hlinks, hqueues, hready, fun hn => ?_⟩
  exact (hfailed hn).trans (by cases up <;> rfl)

end Sys2Proof.Machine
end

section
/-!
Outcomes that instructions share: a fault, a wait, a completion; and what the checks in front of a form make of it.
-/
namespace Sys2Proof.Machine
open Sys2Proof.Claims

/-! ### Faults (R328) -/

theorem gangRole_setRole (c : Ctx) {r : Nat} (h : r < 4) : gangRole (c.setRole r) = r := by
  have hlow : (c.sr.gang.toNat &&& 0xFFFFFFFFFFFFFFFC) % 2 ^ 2 = 0 := by
    rw [Nat.and_mod_two_pow]
    exact Nat.and_zero _
  have hr : BitVec.toNat (BitVec.ofNat 64 (r % 4)) % 2 ^ 2 = r := by
    rw [BitVec.toNat_ofNat]
    omega
  calc gangRole (c.setRole r)
      = ((c.sr.gang.toNat &&& 0xFFFFFFFFFFFFFFFC) ||| BitVec.toNat (BitVec.ofNat 64 (r % 4))) % 2 ^ 2 := rfl
    _ = r := by rw [Nat.or_mod_two_pow, hlow, hr, Nat.zero_or]

theorem Ctx.detach_follower {c : Ctx} (h : gangRole c = 2) :
    c.detach = { c.setRole 3 with gang := { c.gang with trace := [], joined := false } } := if_pos h
theorem Ctx.detach_other {c : Ctx} (h : gangRole c ≠ 2) : c.detach = c := if_neg h

theorem Ctx.gangRole_detach_ne (c : Ctx) : gangRole c.detach ≠ 2 := by
  by_cases h : gangRole c = 2
  · rw [Ctx.detach_follower h]
    have h3 : gangRole (c.setRole 3) = 3 := gangRole_setRole c (by decide)
    exact fun e => absurd (h3.symm.trans e) (by decide)
  · rwa [Ctx.detach_other h]

theorem Ctx.abandon_parts (c : Ctx) : c.abandon = { c with sig := none, sigPred := (match c.sig with
      | none => c.sigPred
      | some g => if c.pc = g.block then c.sigPred else some g.id) } :=
  match c with
  | { sig := none, .. } => rfl
  | { sig := some _, .. } => rfl

theorem Ctx.gangRole_fault_ne (c : Ctx) (t : Trap) (now : Nat) : gangRole (c.fault' t now) ≠ 2 :=
  c.abandon.gangRole_detach_ne

theorem Ctx.stoppedCtx_fault (c : Ctx) {t : Trap} (now : Nat) (hc : t.cause < 65536) (hd : t.detail < 65536) :
    stoppedCtx c (c.fault' t now) now t.cause t.detail t.addr := by
  have hrole : gangRole c.abandon = gangRole c := by rw [Ctx.abandon_parts]; rfl
  have hcode : t.detail % 2 ^ 16 * 2 ^ 16 + t.cause % 2 ^ 16 = t.detail * 65536 + t.cause := by omega
  unfold Ctx.fault' Ctx.stopOn stoppedCtx
  rw [hcode]
  by_cases h : gangRole c = 2
  · rw [Ctx.detach_follower (hrole.trans h), Ctx.abandon_parts]
    refine ⟨rfl, rfl, fun hn => absurd h hn, fun _ => ⟨gangRole_setRole _ (by decide), rfl⟩⟩
  · rw [Ctx.detach_other (hrole ▸ h), Ctx.abandon_parts]
    refine ⟨rfl, rfl, fun _ => ⟨rfl, rfl⟩, fun he => absurd he h⟩

theorem State.trap_th (s : State) (t : Trap) : (s.trap t).th = s.th.fault' t s.now := by
  have h : (s.th.fault' t s.now).detach = s.th.fault' t s.now := Ctx.detach_other (Ctx.gangRole_fault_ne _ _ _)
  simp only [State.trap, State.detachFollowers, h, ite_self]

theorem stopsOn_trap (s : State) {t : Trap} (hc : t.cause < 65536) (hd : t.detail < 65536) :
    stopsOn s (s.trap t) t.cause t.detail t.addr := by
  refine ⟨s.trap_th t ▸ s.th.stoppedCtx_fault s.now hc hd, fun _ => rfl, rfl, ?_⟩
  refine List.map_congr_left fun c _ => ?_
  by_cases hl : c.gang.leader = some s.th.cid
  · by_cases hr : gangRole c = 2
    · simp [hl, hr]
    · simp [hl, hr, Ctx.detach_other]
  · simp [hl]

/-- A fault of the table of causes stops the context as R328 says. -/
theorem faultOut_faults (s : State) {cause detail : Nat} (addr : Word) (hc : cause < 65536) (hd : detail < 65536) :
    faults s (faultOut s ⟨cause, detail, addr⟩) cause detail addr := ⟨_, rfl, stopsOn_trap s hc hd⟩

theorem faults_of_eq {s : State} {o : Out} {cause : Nat} {addr : Word} (h : o = faultOut s ⟨cause, 0, addr⟩)
    (hc : cause < 65536 := by decide) : faults s o cause 0 addr := h ▸ faultOut_faults s addr hc (by decide)

theorem parkOut_waits (s : State) (why : Park) : waits s (parkOut s why) why := rfl

/-! ### Retiring -/

/-- Retiring looks at the program counter, the group and the loop stack only. -/
theorem Ctx.retire_congr {c d : Ctx} (hpc : d.pc = c.pc) (hgrp : d.grp = c.grp) (hloops : d.loops = c.loops) :
    d.retire = { d with pc := c.retire.pc, grp := c.retire.grp, loops := c.retire.loops } := by
  have hparts : d.retire.pc = c.retire.pc ∧ d.retire.grp = c.retire.grp ∧ d.retire.loops = c.retire.loops := by
    unfold Ctx.retire
    rw [hpc, hgrp, hloops]
    split
    · split <;> exact ⟨rfl, rfl, rfl⟩
    · exact ⟨rfl, rfl, rfl⟩
  obtain ⟨h1, h2, h3⟩ := hparts
  rw [d.retire_parts, h1, h2, h3]

/-- A context that completes runs. -/
theorem Ctx.retire_run (c : Ctx) : c.run.retire = { c.retire with status := .running } := by
  rw [Ctx.retire_congr (c := c) (d := c.run) rfl rfl rfl, c.retire_parts]
  rfl

theorem advances_retire {s t : State} {d : Ctx} (ht : t.th = d.retire) (hpc : d.pc = s.th.pc) (hgrp : d.grp = s.th.grp)
    (hloops : d.loops = s.th.loops) : advances s t := by
  rw [advances, ht, Ctx.retire_congr hpc hgrp hloops]
  exact ⟨rfl, rfl, rfl⟩

/-- An instruction that completes changes its context only as its effect says. -/
theorem completes_mapTh {s : State} {f : Ctx → Ctx} (hpc : (f s.th).pc = s.th.pc) (hgrp : (f s.th).grp = s.th.grp)
    (hloops : (f s.th).loops = s.th.loops) : completes s (.next (s.mapTh fun c => (f c).retire)) f := by
  refine ⟨_, rfl, rfl, fun _ => rfl, advances_retire rfl hpc hgrp hloops, ?_⟩
  dsimp only [State.mapTh]
  rw [Ctx.retire_congr hpc hgrp hloops]

/-! ### Checks in front of a form (R126, R262) -/

theorem onDet_fault {level : Nat} {applies : State → Bool} {s : State} (ha : applies s = true) (hl : level ≤ detLevel s.th)
    (f : State → Out) : onDet level applies f s = faultOut s ⟨cDeterminism, 0, 0⟩ := by
  simp [onDet, detFault, ha, hl]

theorem onDet_pass {level : Nat} {applies : State → Bool} {s : State} (h : (applies s && decide (level ≤ detLevel s.th)) = false)
    (f : State → Out) : onDet level applies f s = f s := by
  simp [onDet, detFault, h]

theorem onFree_free {s : State} (h : s.isFree s.th = true) (f : State → Out) : onFree f s = f s := if_pos h
theorem onFree_fault {s : State} (h : s.isFree s.th = false) (f : State → Out) : onFree f s = faultOut s ⟨cMode, 0, 0⟩ :=
  if_neg (by simp [h])

theorem onRegion_some {s : State} {r : Region} (h : s.regionOf s.th = some r) (f : Region → State → Out) :
    onRegion f s = f r s := by
  simp only [onRegion, h]

theorem scopeFault_ok {c : Ctx} {f : BitVec 6} (h : scopeOk (scopeValue c f) = true) : scopeFault c f = none := if_pos h
theorem scopeFault_bad {c : Ctx} {f : BitVec 6} (h : scopeOk (scopeValue c f) = false) :
    scopeFault c f = some ⟨cScope, 0, scopeValue c f⟩ := if_neg (by simp [h])

theorem alignFault_ok {ea : Word} {n : Nat} (h : ea.toNat % n = 0) : alignFault ea n = none := if_pos h
theorem alignFault_bad {ea : Word} {n : Nat} (h : ea.toNat % n ≠ 0) : alignFault ea n = some ⟨cMisaligned, 0, ea⟩ := if_neg h

theorem atomicHome_eq (ea : Word) (ps : List Part) :
    atomicHome ea ps = if noHost ps then none else some ⟨cAtomicHome, 0, ea⟩ := by
  have hneg : noHost ps = !ps.any fun p => match p.home with | .host _ => true | _ => false := by
    rw [noHost, List.not_any_eq_all_not]
    congr 1
    funext p
    cases p.home <;> rfl
  rw [hneg, atomicHome]
  cases ps.any fun p => match p.home with | .host _ => true | _ => false <;> rfl

end Sys2Proof.Machine
end

section
/-!
Barriers (R34 to R39, R278): what closing one leaves as it was, and what it does to a context that stands at none.
-/
namespace Sys2Proof.Machine
open Sys2Proof.Claims

/-! ### Frames -/

/-- What a fold leaves alone when each of its steps does. -/
theorem foldl_keeps {α β γ : Type} {f : α → β → α} {proj : α → γ} (h : ∀ s x, proj (f s x) = proj s) (xs : List β)
    (s : α) : proj (xs.foldl f s) = proj s := by
  induction xs generalizing s with
  | nil => rfl
  | cons x xs ih => exact (ih _).trans (h s x)

/-- A property that each step of a fold keeps. -/
theorem foldl_invariant {α β : Type} {f : α → β → α} {P : α → Prop} (h : ∀ s x, P s → P (f s x)) (xs : List β)
    {s : α} (hs : P s) : P (xs.foldl f s) := by
  induction xs generalizing s with
  | nil => exact hs
  | cons x xs ih => exact ih (h s x hs)

/-- A state without what barriers change: contexts, regions and restart points. -/
def State.besides (s : State) : State := { s with th := .reset, pool := [], regions := [], points := [] }

theorem memoryKept_of_besides {s t : State} (h : t.besides = s.besides) : memoryKept s t := by
  intro a
  have hmem : t.besides.mem = s.besides.mem := congrArg State.mem h
  have hnet : t.besides.net = s.besides.net := congrArg State.net h
  show (throughWq t.besides.mem t.besides.net.wq).get _ = (throughWq s.besides.mem s.besides.net.wq).get _
  rw [hmem, hnet]

theorem State.notePoints_keeps {α : Type} {proj : State → α} (h : ∀ s c, proj (State.notePoint s c) = proj s) (s : State)
    (id : RegionId) : proj (s.notePoints id) = proj s := foldl_keeps (f := State.notePoint) h _ s

theorem State.notePoints_besides (s : State) (id : RegionId) : (s.notePoints id).besides = s.besides :=
  s.notePoints_keeps (fun _ _ => rfl) id
theorem State.notePoints_th (s : State) (id : RegionId) : (s.notePoints id).th = s.th := s.notePoints_keeps (fun _ _ => rfl) id
theorem State.notePoints_pool (s : State) (id : RegionId) : (s.notePoints id).pool = s.pool :=
  s.notePoints_keeps (fun _ _ => rfl) id
theorem State.notePoints_regions (s : State) (id : RegionId) : (s.notePoints id).regions = s.regions :=
  s.notePoints_keeps (fun _ _ => rfl) id

/-- A member of a region at the start of a compute phase. -/
def Ctx.beginPhase (id : RegionId) (c : Ctx) : Ctx :=
  if c.region == some id && !c.ended && !c.completed then
    { c.wakeFrom .barrier with sr := { c.sr with ssnum := c.sr.ssnum + 1 } }
  else c

theorem State.computeBegin_eq (s : State) (r : Region) : s.computeBegin r =
    ({ s with th := s.th.beginPhase r.id, pool := s.pool.map (Ctx.beginPhase r.id) }.updRegion r.id fun r =>
      { r with joined := [], closed := none, xpos := 0, xmove := .idle }).notePoints r.id := rfl

theorem State.computeBegin_besides (s : State) (r : Region) : (s.computeBegin r).besides = s.besides :=
  State.notePoints_besides _ _
theorem State.computeBegin_th (s : State) (r : Region) : (s.computeBegin r).th = s.th.beginPhase r.id := State.notePoints_th _ _

/-- What a barrier that is looked at does: nothing, the start of a phase, or the note of when it closed. -/
theorem State.closeBarrier_cases (s : State) (id : RegionId) : s.closeBarrier id = s ∨
    (∃ r, s.region? (some id) = some r ∧ s.closeBarrier id = s.computeBegin r) ∨
    s.closeBarrier id = s.updRegion id fun r => { r with closed := some s.now, xpos := 0 } := by
  unfold State.closeBarrier
  cases hr : s.region? (some id) with
  | none => exact .inl rfl
  | some r =>
    dsimp only
    split
    · exact .inl rfl
    · split
      · exact .inr (.inl ⟨r, rfl, rfl⟩)
      · split
        · exact .inl rfl
        · exact .inr (.inr rfl)

theorem State.closeBarrier_besides (s : State) (id : RegionId) : (s.closeBarrier id).besides = s.besides := by
  obtain h | ⟨r, -, h⟩ | h := s.closeBarrier_cases id
  · rw [h]
  · rw [h, State.computeBegin_besides]
  · rw [h]
    rfl

theorem Ctx.beginPhase_ended {c : Ctx} (h : c.ended = true) (id : RegionId) : c.beginPhase id = c := if_neg (by simp [h])

theorem State.closeBarrier_th_ended {s : State} (h : s.th.ended = true) (id : RegionId) : (s.closeBarrier id).th = s.th := by
  obtain h' | ⟨r, -, h'⟩ | h' := s.closeBarrier_cases id
  · rw [h']
  · rw [h', State.computeBegin_th, Ctx.beginPhase_ended h]
  · rw [h', State.updRegion_th]

/-! ### Scoped barriers -/

/-- A joiner of a scoped barrier gets its count and goes on. -/
def Ctx.passBar (id n now : Nat) (c : Ctx) : Ctx := (c.fulfil id (BitVec.ofNat 64 n) now).wakeFrom .barrier

/-- One joiner of a completed barrier: a step of `State.closeBar`. -/
def State.passJoiner (r : Region) (n : Nat) (s : State) (j : Nat × Nat) : State :=
  match r.ctxs[j.1]? with
  | none => s
  | some c => s.updCtx c (Ctx.passBar j.2 n s.now)

theorem State.passJoiner_besides (r : Region) (n : Nat) (s : State) (j : Nat × Nat) :
    (s.passJoiner r n j).besides = s.besides := by
  unfold State.passJoiner
  split <;> rfl

theorem State.passJoiner_th {P : Ctx → Prop} {r : Region} {n : Nat} (hP : ∀ c id now, P c → P (c.passBar id n now))
    (s : State) (j : Nat × Nat) (h : P s.th) : P (s.passJoiner r n j).th := by
  unfold State.passJoiner
  split
  · exact h
  · dsimp only [State.updCtx]
    split
    · exact hP _ _ _ h
    · exact h

/-- The scoped barrier of a region, complete: it counts, and its joiners go on. -/
def State.completeBar (s : State) (id : RegionId) (r : Region) (b : ScopedBar) : State :=
  (b.joined.foldl (State.passJoiner r (b.count + 1)) s).updRegion id fun r =>
    let same := fun (y : ScopedBar) => y.id == b.id && y.members == b.members
    { r with bars := updateAll same (fun y => { y with joined := [], count := b.count + 1 }) r.bars }

/-- Has every member of a scoped barrier joined, and does it wait, or has it ended. -/
def State.barFull (s : State) (r : Region) (b : ScopedBar) : Bool :=
  b.members.all fun k => ((b.joined.any fun j => j.1 == k) && s.joinHere r k) || s.memberEnded r k

theorem State.closeBar_eq {s : State} {id : RegionId} {r : Region} (h : s.region? (some id) = some r) (b : ScopedBar) :
    s.closeBar id b = if b.joined.isEmpty then s else if s.barFull r b then s.completeBar id r b else s := by
  unfold State.closeBar
  rw [h]
  rfl

theorem State.closeBar_none {s : State} {id : RegionId} (h : s.region? (some id) = none) (b : ScopedBar) :
    s.closeBar id b = s := by
  unfold State.closeBar
  rw [h]

/-- What looking at a scoped barrier keeps, when the passing of its joiners does. -/
theorem State.closeBar_keeps {P : State → Prop} {s : State} (hs : P s) (id : RegionId) (b : ScopedBar)
    (hP : ∀ r, s.region? (some id) = some r → P (s.completeBar id r b)) : P (s.closeBar id b) := by
  cases hr : s.region? (some id) with
  | none => rwa [State.closeBar_none hr]
  | some r =>
    rw [State.closeBar_eq hr]
    split
    · exact hs
    · split
      · exact hP r hr
      · exact hs

theorem State.closeBar_besides (s : State) (id : RegionId) (b : ScopedBar) : (s.closeBar id b).besides = s.besides :=
  State.closeBar_keeps (P := fun t => t.besides = s.besides) rfl id b fun r _ =>
    foldl_keeps (proj := State.besides) (State.passJoiner_besides r _) _ _

theorem State.closeBar_th {P : Ctx → Prop} (hP : ∀ c id n now, P c → P (c.passBar id n now)) (s : State) (id : RegionId)
    (b : ScopedBar) (h : P s.th) : P (s.closeBar id b).th :=
  State.closeBar_keeps (P := fun t => P t.th) h id b fun _ _ =>
    foldl_invariant (P := fun t : State => P t.th) (State.passJoiner_th fun c i now => hP c i _ now) _ h

theorem State.closeBars_besides (s : State) (id : RegionId) : (s.closeBars id).besides = s.besides := by
  unfold State.closeBars
  split
  · rfl
  · exact (foldl_keeps (proj := State.besides) (fun s b => s.closeBar_besides id b) _ _).trans (s.closeBarrier_besides id)

theorem State.leaveBarriers_besides (s : State) (c : Ctx) : (s.leaveBarriers c).besides = s.besides := by
  unfold State.leaveBarriers
  split
  · rfl
  · exact s.closeBars_besides _

/-- What the passing of scoped barriers keeps of a context that has ended, leaving its barriers keeps. -/
theorem State.leaveBarriers_th_ended {P : Ctx → Prop} (hP : ∀ c id n now, P c → P (c.passBar id n now)) {s : State}
    (he : s.th.ended = true) (h : P s.th) (c : Ctx) : P (s.leaveBarriers c).th := by
  unfold State.leaveBarriers State.closeBars
  split
  · exact h
  · split
    · exact h
    · exact foldl_invariant (P := fun t : State => P t.th) (fun s b => State.closeBar_th hP s _ b) _
        ((State.closeBarrier_th_ended he _).symm ▸ h)

end Sys2Proof.Machine
end

section
/-!
`halt`, gang instructions and predicates that are off (R48 to R50, R174, R213, R216).
-/
namespace Sys2Proof.Machine
open Sys2Proof.Claims

/-! ### Results that arrive -/

/-- What a result keeps of its context: it changes registers and windows, an `mma` in progress, state registers, and what an FP
trap changes. -/
structure KeptByResults (P : Ctx → Prop) : Prop where
  sr : ∀ c sr, P c → P { c with sr := sr }
  result : ∀ c q lat x, P c → P (Ctx.result c q lat x)
  mrun : ∀ c m, P c → P { c with mrun := m }
  trap : ∀ (c : Ctx) sr pc t now, P c → P ({ c with sr := sr, pc := pc }.fault' t now)
  pend : ∀ c ps, P c → P { c with pend := ps }
  goesOn : ∀ c st, P c → P { c.retire with status := st }

theorem KeptByResults.landFp {P : Ctx → Prop} (hP : KeptByResults P) {f : Ctx → Ctx} (hf : ∀ c, P c → P (f c)) {c : Ctx}
    (h : P c) (p : Pend) (now : Nat) (fs : List FFlags) : P (c.landFp p now fs f) := by
  unfold Ctx.landFp
  dsimp only
  split
  · exact hf _ (hP.sr _ _ h)
  · split
    · exact h
    · split
      · exact hP.trap _ _ _ _ _ h
      · exact hf _ (hP.sr _ _ h)

theorem KeptByResults.land {P : Ctx → Prop} (hP : KeptByResults P) {c : Ctx} (h : P c) (p : Pend) (now : Nat) :
    P (c.land p now) := by
  unfold Ctx.land
  split
  case h_4 | h_5 => exact hP.landFp (fun c => hP.result c _ _ _) h _ _ _
  case h_8 => exact hP.mrun _ _ h
  case h_9 | h_10 => exact h
  all_goals exact hP.result _ _ _ _ h

theorem KeptByResults.deliver {P : Ctx → Prop} (hP : KeptByResults P) {c : Ctx} (h : P c) (id off : Nat) (bytes : List Byte)
    (now : Nat) : P (c.deliver id off bytes now) := by
  unfold Ctx.deliver
  split
  · exact h
  · dsimp only
    split
    · split
      · exact hP.goesOn _ _ (hP.land (hP.pend _ _ h) _ _)
      · exact hP.land (hP.pend _ _ h) _ _
    · exact hP.pend _ _ h

theorem KeptByResults.fulfil {P : Ctx → Prop} (hP : KeptByResults P) {c : Ctx} (h : P c) (id : Nat) (x : Word) (now : Nat) :
    P (c.fulfil id x now) := hP.deliver (hP.pend _ _ h) ..

theorem Ctx.deliver_absent {c : Ctx} {id : Nat} (h : ∀ p ∈ c.pend, p.id ≠ id) (off : Nat) (bytes : List Byte) (now : Nat) :
    c.deliver id off bytes now = c := by
  have hfind : c.pend.find? (fun p => p.id == id) = none := List.find?_eq_none.2 fun p hp => by simpa using h p hp
  rw [Ctx.deliver, hfind]

theorem updateAll_none {α : Type} {p : α → Bool} {xs : List α} (h : ∀ x ∈ xs, p x = false) (f : α → α) :
    updateAll p f xs = xs :=
  (List.map_congr_left fun x hx => if_neg (by simp [h x hx])).trans (List.map_id' xs)

/-- A number for a result that nothing waits for is dropped. -/
theorem Ctx.fulfil_absent {c : Ctx} {id : Nat} (h : ∀ p ∈ c.pend, p.id ≠ id) (x : Word) (now : Nat) :
    c.fulfil id x now = c := by
  unfold Ctx.fulfil
  rw [updateAll_none fun p hp => by simpa using h p hp]
  exact Ctx.deliver_absent h ..

/-! ### halt (R216) -/

/-- A context whose program has ended. -/
structure Ctx.Halted (c : Ctx) : Prop where
  ended : c.ended = true
  loops : c.loops = []
  grp : c.grp = none

theorem Ctx.Halted.retire {c : Ctx} (h : c.Halted) (st : Status) : Ctx.Halted { c.retire with status := st } := by
  refine ⟨c.retire_ended.trans h.ended, ?_, ?_⟩
  · simp [Ctx.retire, h.grp, h.loops, endTest]
  · simp [Ctx.retire, h.grp]

theorem Ctx.Halted.kept : KeptByResults Ctx.Halted where
  sr _ _ h := ⟨h.ended, h.loops, h.grp⟩
  result c q lat x h := ⟨(c.result_ended q lat x).trans h.ended, (c.result_loops q lat x).trans h.loops,
    (c.result_grp q lat x).trans h.grp⟩
  mrun _ _ h := ⟨h.ended, h.loops, h.grp⟩
  trap _ _ _ t now h := ⟨(Ctx.fault_ended _ t now).trans h.ended, (Ctx.fault_loops _ t now).trans h.loops, rfl⟩
  pend _ _ h := ⟨h.ended, h.loops, h.grp⟩
  goesOn _ st h := h.retire st

theorem Ctx.Halted.passBar {c : Ctx} (h : c.Halted) (id n now : Nat) : (c.passBar id n now).Halted := by
  have hdone := Ctx.Halted.kept.fulfil h id (BitVec.ofNat 64 n) now
  unfold Ctx.passBar Ctx.wakeFrom
  split
  · exact ⟨hdone.ended, hdone.loops, hdone.grp⟩
  · exact hdone

/-- Nothing is on its way to a context. -/
structure Ctx.Idle (R : Regs) (c : Ctx) : Prop where
  pend : c.pend = []
  regs : c.regs = R

theorem Ctx.Idle.passBar {R : Regs} {c : Ctx} (h : c.Idle R) (id n now : Nat) : (c.passBar id n now).Idle R := by
  unfold Ctx.passBar Ctx.wakeFrom
  rw [Ctx.fulfil_absent (by simp [h.pend])]
  split
  · exact ⟨h.pend, h.regs⟩
  · exact h

/-- What detaching keeps: it changes the gang of its context. -/
theorem Ctx.detach_keeps {P : Ctx → Prop} (hP : ∀ c sr g, P c → P { c with sr := sr, gang := g }) {c : Ctx} (h : P c) :
    P c.detach := by
  unfold Ctx.detach
  split
  · exact hP c (c.setRole 3).sr _ h
  · exact h

theorem State.detachFollowers_th {P : Ctx → Prop} (hP : ∀ c sr g, P c → P { c with sr := sr, gang := g }) {s : State}
    (h : P s.th) (l : CtxId) : P (s.detachFollowers l).th := by
  dsimp only [State.detachFollowers]
  split
  · exact Ctx.detach_keeps hP h
  · exact h

/-- The state in which a program has ended, before the barriers of its region are looked at. -/
def State.halted (s : State) : State :=
  (s.mapTh fun c => { ({ c with loops := [] } : Ctx).detach with status := .parked .drain, ended := true, grp := none
    }).detachFollowers s.th.cid

theorem execHalt_drained {h : Hdr} {s : State} (hp : predOn h s.th.regs = true) (hd : s.th.drained = true) :
    exec (.halt h) s = .next (s.halted.leaveBarriers s.halted.th) := by
  have hexec : exec (.halt h) s = execHalt h s := rfl
  rw [hexec, execHalt, if_pos hp]
  exact if_pos hd

theorem execHalt_undrained {h : Hdr} {s : State} (hp : predOn h s.th.regs = true) (hd : s.th.drained = false) :
    exec (.halt h) s = parkOut (s.mapTh fun c => { c with loops := [] }) .drain := by
  have hexec : exec (.halt h) s = execHalt h s := rfl
  rw [hexec, execHalt, if_pos hp]
  exact if_neg fun e => Bool.false_ne_true (hd.symm.trans e)

theorem State.halted_th (s : State) : s.halted.th.Halted := by
  refine State.detachFollowers_th (fun _ _ _ h => ⟨h.ended, h.loops, h.grp⟩) ⟨rfl, ?_, rfl⟩ _
  exact Ctx.detach_keeps (P := fun c => c.loops = []) (fun _ _ _ h => h) rfl

theorem State.halted_idle {s : State} (h : s.th.pend = []) : s.halted.th.Idle s.th.regs := by
  have hd := Ctx.detach_keeps (P := Ctx.Idle s.th.regs) (fun _ _ _ h => ⟨h.pend, h.regs⟩) (c := { s.th with loops := [] })
    ⟨h, rfl⟩
  exact State.detachFollowers_th (fun _ _ _ h => ⟨h.pend, h.regs⟩) ⟨hd.pend, hd.regs⟩ _

theorem State.memoryKept_halted (s : State) : memoryKept s s.halted := fun _ => rfl

theorem haltEnds : HaltEnds := by
  intro h s hp
  cases hd : s.th.drained with
  | false =>
    exact ⟨_, execHalt_undrained hp hd, rfl, fun _ => rfl, fun _ => rfl, fun e => absurd e Bool.false_ne_true, fun _ => rfl⟩
  | true =>
    have hth := State.leaveBarriers_th_ended (P := Ctx.Halted) (fun _ id n now h => h.passBar id n now) s.halted_th.ended
      s.halted_th s.halted.th
    refine ⟨_, execHalt_drained hp hd, hth.loops, fun hpend => ?_, ?_, fun _ => ⟨hth.ended, hth.grp⟩,
      fun e => absurd e.symm Bool.false_ne_true⟩
    · exact (State.leaveBarriers_th_ended (P := Ctx.Idle s.th.regs) (fun _ id n now h => h.passBar id n now)
        s.halted_th.ended (State.halted_idle hpend) s.halted.th).regs
    · exact memoryKept_of_besides (s := s) (State.leaveBarriers_besides s.halted s.halted.th)

/-! ### Gangs (R48 to R50, R213) -/

theorem gdet_detaches (h : Hdr) (s : State) : exec (.gdet h) s = .next (s.mapTh Ctx.detach).retire := rfl

theorem gjoin_apart {s : State} (h : Hdr) (hr : gangRole s.th = 0 ∨ gangRole s.th = 2) :
    exec (.gjoin h) s = .next s.retire := by
  have hexec : exec (.gjoin h) s = execGjoin h s := rfl
  rw [hexec, execGjoin]
  obtain hr | hr := hr <;> (rw [hr]; rfl)

theorem gjoin_leader {s : State} (h : Hdr) (hr : gangRole s.th = 1) : exec (.gjoin h) s =
    if !s.lagging s.th.cid && (s.looseFollowers s.th.cid).all fun c => c.gang.joined then
      .next { (s.mapTh Ctx.run).retire with
        pool := updateAll (fun c => (s.looseFollowers s.th.cid).any fun f => f.cid == c.cid)
          (Ctx.rejoin s.th.nextGroup) s.pool }
    else parkOut s .gang := by
  have hexec : exec (.gjoin h) s = execGjoin h s := rfl
  rw [hexec, execGjoin, hr]
  rfl

theorem gjoin_detached {s : State} (h : Hdr) (hr : gangRole s.th = 3) : exec (.gjoin h) s =
    if (s.th.gang.leader.bind s.ctx?).any fun l => !l.ended && !l.completed then
      parkOut (s.mapTh fun c => { c with gang := { c.gang with joined := true } }) .gang
    else .next (s.mapTh Ctx.run).retire := by
  have hexec : exec (.gjoin h) s = execGjoin h s := rfl
  rw [hexec, execGjoin, hr]
  rfl

theorem Ctx.rejoin_pc (next : Word) (c : Ctx) : (c.rejoin next).pc = (endTest c.loops next).2 := by
  unfold Ctx.rejoin Ctx.wakeFrom
  dsimp only
  split <;> rfl

theorem Ctx.gangRole_rejoin (next : Word) (c : Ctx) : gangRole (c.rejoin next) = 2 := by
  have hrole : gangRole (c.setRole 2) = 2 := gangRole_setRole c (by decide)
  unfold Ctx.rejoin Ctx.wakeFrom
  dsimp only
  split <;> exact hrole

theorem updateAll_getElem? {α : Type} {p : α → Bool} {f : α → α} {xs : List α} {i : Nat} {x : α} (hx : xs[i]? = some x)
    (hp : p x = true) : (updateAll p f xs)[i]? = some (f x) := by
  simp [updateAll, hx, hp]

theorem updateAll_length {α : Type} (p : α → Bool) (f : α → α) (xs : List α) : (updateAll p f xs).length = xs.length :=
  List.length_map _

theorem gangs : Gangs := by
  intro h s
  refine ⟨⟨_, gdet_detaches h s, fun hr => ?_, fun hr => ?_⟩, gjoin_apart h, fun hr hl hf => ?_, fun hr hw => ?_,
    fun hr hl => ?_, fun hr hl => ?_⟩
  · simp [State.mapTh, Ctx.detach_other hr]
  · have hth : (s.mapTh Ctx.detach).retire.th = s.th.detach.retire := rfl
    have hrole : gangRole s.th.detach = 3 := by rw [Ctx.detach_follower hr]; exact gangRole_setRole _ (by decide)
    rw [hth]
    constructor
    · rw [gangRole, Ctx.retire_sr]
      exact hrole
    · rw [Ctx.retire_gang, Ctx.detach_follower hr]
  · refine ⟨_, (gjoin_leader h hr).trans (if_pos (by simp [hl, hf])), s.th.retire_run, updateAll_length _ _ _,
      fun i c hi hc => ⟨_, updateAll_getElem? hi ?_, Ctx.gangRole_rejoin _ _, Ctx.rejoin_pc _ _⟩⟩
    exact List.any_eq_true.2 ⟨c, hc, beq_self_eq_true _⟩
  · refine (gjoin_leader h hr).trans (if_neg ?_)
    obtain hl | hf := hw
    · simp [hl]
    · simp [hf]
  · obtain ⟨l, hlead, hended, hcompleted⟩ := hl
    exact ⟨_, (gjoin_detached h hr).trans (if_pos (by simp [hlead, hended, hcompleted])), rfl⟩
  · refine ⟨_, (gjoin_detached h hr).trans (if_neg ?_), ?_⟩
    · cases hlead : s.th.gang.leader.bind s.ctx? with
      | none => simp
      | some l =>
        obtain he | hc := hl l hlead
        · simp [he]
        · simp [hc]
    · simp only [State.retire, State.mapTh, Ctx.retire_run]

/-! ### Predicates that are off (R174) -/

theorem twoSource_off {h : Hdr} {s : State} (hp : predOn h s.th.regs = false) :
    ∀ p ∈ twoSource, ∀ o, goesOn s (exec (p.1 h o) s) := by
  simp only [twoSource, List.forall_mem_cons, List.not_mem_nil, false_implies, implies_true, and_true]
  refine ⟨?_, ?_, ?_, ?_, ?_, ?_, ?_, ?_, ?_, ?_, ?_, ?_, ?_, ?_, ?_, ?_, ?_, ?_, ?_, ?_⟩ <;> exact fun _ => whole_off hp

theorem immediate_off {h : Hdr} {s : State} (hp : predOn h s.th.regs = false) :
    ∀ p ∈ immediate, ∀ o, goesOn s (exec (p.1 h o) s) := by
  simp only [immediate, List.forall_mem_cons, List.not_mem_nil, false_implies, implies_true, and_true]
  refine ⟨?_, ?_, ?_, ?_, ?_, ?_, ?_, ?_, ?_, ?_, ?_, ?_, ?_, ?_, ?_⟩ <;> exact fun _ => whole_off hp

theorem oneSource_off {h : Hdr} {s : State} (hp : predOn h s.th.regs = false) :
    ∀ p ∈ oneSource, ∀ o, goesOn s (exec (p.1 h o) s) := by
  simp only [oneSource, List.forall_mem_cons, List.not_mem_nil, false_implies, implies_true, and_true]
  refine ⟨?_, ?_, ?_, ?_, ?_, ?_, ?_, ?_⟩ <;> exact fun _ => whole_off hp

theorem threeSource_off {h : Hdr} {s : State} (hp : predOn h s.th.regs = false) :
    ∀ p ∈ threeSource, ∀ o, goesOn s (exec (p.1 h o) s) := by
  simp only [threeSource, List.forall_mem_cons, List.not_mem_nil, false_implies, implies_true, and_true]
  refine ⟨?_, ?_, ?_, ?_, ?_, ?_⟩ <;> exact fun _ => whole_off hp

theorem predicateOff : PredicateOff := by
  intro h s hp
  have hif : ∀ {a b : Out}, (if predOn h s.th.regs then a else b) = b := if_neg (by simp [hp])
  have hbranch : ∀ {x : Bool} {a b : Out}, (if predOn h s.th.regs && x then a else b) = b := if_neg (by simp [hp])
  have hmat : ∀ f, inlineMat h f s = .next s.retire := fun _ => if_pos (by simp [hp])
  refine ⟨hif, fun _ => hif, hif, fun _ => hif, fun _ => hif, fun _ => hif, hbranch, fun _ => hbranch, fun _ => hif,
    fun _ => hif, fun _ => hif, twoSource_off hp, immediate_off hp, oneSource_off hp, threeSource_off hp,
    fun _ => hmat _, fun _ => hmat _, fun _ => hif, fun _ => hif, fun _ => hif, hif, hif, fun _ => hif⟩

/-- Settles O16: what looking at the barriers of its region does leaves a program ended; gang instructions by the role of their
context. -/
theorem haltsGangsAndPredicates : Obligations.HaltsGangsAndPredicates := ⟨haltEnds, gangs, predicateOff⟩

end Sys2Proof.Machine
end

section
/-!
`waitaddr`, `evsig` and `evwait` (R262, R273 to R275).
-/
namespace Sys2Proof.Machine
open Sys2Proof.Claims

/-! ### The TLBs that an access touches -/

/-- Touching the entries of an access changes the TLBs of the cell and of its comb only. -/
theorem State.tlbTouch_mapTh (s : State) (f : Ctx → Ctx) (c : Ctx) (ps : List Part) :
    ∃ cells combs, (s.mapTh f).tlbTouch c ps = { s with th := f s.th, cells := cells, combs := combs } := by
  unfold State.tlbTouch
  split
  · exact ⟨s.cells, s.combs, rfl⟩
  · dsimp only
    split
    · exact ⟨s.cells, s.combs, rfl⟩
    · exact ⟨_, _, rfl⟩

/-! ### Starting a wait -/

/-- A context that charges an access and starts a wait. -/
theorem Ctx.startWait_eq (c : Ctx) (d t : BitVec 6) (now : Nat) (f : Nat → Nat → MemOp) (ps : List Part) :
    (c.charge ps).startWait d t now f = { c with
      pend := c.pend ++ [⟨c.mq.next, c.pc, .status d, 1, List.replicate 8 0, false⟩],
      mq := { c.mq with next := c.mq.next + 2, iq := c.mq.iq ++ [f c.mq.next (c.mq.next + 1)] },
      wait := some ⟨c.mq.next, d, waitDeadline c t now, none, false⟩, status := .running,
      meters := (c.charge ps).meters } := by
  unfold Ctx.startWait Ctx.run Ctx.push Ctx.expect Ctx.fresh Ctx.charge
  rfl

theorem settleAccess_read (s : State) (ps : List Part) (u : State) : settleAccess s .read ps u =
    if s.badParts ps then parkOut (u.mapTh Ctx.holdLast) .drain else .next (u.mapTh Ctx.retire) := rfl

/-- A wait goes on, or stays for uncorrectable data that its read has met (R70). -/
theorem startsWait_settled {s : State} {d tm : BitVec 6} {ps : List Part} (f : Nat → Nat → MemOp) (op : Nat → MemOp)
    (hop : op s.th.mq.next = f s.th.mq.next (s.th.mq.next + 1)) :
    goesTo (settleAccess s .read ps ((s.mapTh fun c => (c.charge ps).startWait d tm s.now f).tlbTouch s.th ps)) fun t =>
      startsWait s t d tm ps (s.badParts ps) op := by
  obtain ⟨cells, combs, hu⟩ := s.tlbTouch_mapTh (fun c => (c.charge ps).startWait d tm s.now f) s.th ps
  rw [hu, Ctx.startWait_eq, ← hop, settleAccess_read]
  cases s.badParts ps with
  | true => exact ⟨_, rfl, fun _ => rfl, rfl, ⟨rfl, rfl, rfl⟩, rfl⟩
  | false =>
    exact ⟨_, rfl, fun _ => rfl, rfl, advances_retire rfl rfl rfl rfl, Ctx.retire_parts _⟩

/-! ### waitaddr (R274) -/

/-- The address of a wait meets the checks of R262, in their order. -/
theorem waitOnAddress : WaitOnAddress := by
  refine ⟨fun h o s hf hl => faults_of_eq (onDet_fault (applies := fun s => s.isFree s.th) hf hl _), fun h o s hp hd => ?_⟩
  have hrun : exec (.waitaddr h o) s = _ := (onDet_pass (applies := fun s => s.isFree s.th) hd _).trans (onPred_on hp)
  rw [hrun]
  intro ea
  have hea : effAddr s.th o.a o.disp = ea := rfl
  have hsp : isSp o.a.r = (o.a.r == 62) := rfl
  dsimp only
  rw [hea, hsp]
  refine ⟨fun t ha hplace => ?_, fun ps ha hplace hhost => ?_, fun ha => ?_, fun ha p ps hplace hhost habsent => ?_⟩
  · rw [alignFault_ok ha, hplace]
    rfl
  · rw [alignFault_ok ha, hplace]
    dsimp only
    rw [atomicHome_eq, if_neg (by simp [hhost])]
    exact faultOut_faults s ea (by decide) (by decide)
  · rw [alignFault_bad ha]
    exact faultOut_faults s ea (by decide) (by decide)
  · rw [alignFault_ok ha, hplace]
    dsimp only
    rw [atomicHome_eq, hhost]
    rw [if_pos rfl, habsent]
    dsimp only
    refine ⟨fun hw => ?_, fun hw => ?_⟩
    · rw [if_pos hw]
      exact parkOut_waits s _
    · rw [if_neg (by simp [hw])]
      exact startsWait_settled _ _ rfl

/-! ### Event counters (R275) -/

theorem evwait_free {h : Hdr} {s : State} {r : Region} (hp : predOn h s.th.regs = true) (hr : s.regionOf s.th = some r)
    (hf : s.isFree s.th = true) (hd : detLevel s.th < 2) (o : EvWait) : exec (.evwait h o) s =
      if s.th.wait.isSome then parkOut s .drain
      else .next { s with th := ((s.th.charge []).startWait o.d o.t s.now fun pend =>
        plainOp r.eventHome .plain (.evwait r.id o.n ((s.th.regs.gs o.b).extractLsb' 0 32) pend)).retire } := by
  have hdet : (s.isFree s.th && decide (2 ≤ detLevel s.th)) = false := by simp [Nat.not_le.2 hd]
  exact (onDet_pass (applies := fun s => s.isFree s.th) hdet _).trans
    ((onPred_on hp).trans ((onFree_free hf _).trans (onRegion_some hr _)))

theorem eventCounters : EventCounters := by
  refine ⟨fun h o s hf hl => faults_of_eq (onDet_fault (applies := fun s => s.isFree s.th) hf hl _),
    fun h s hp => ⟨fun hf => ⟨fun o => ?_, fun o => ?_⟩, fun r hr hf => ⟨fun o => ?_, fun o hd => ⟨fun hw => ?_, fun hw => ?_⟩⟩⟩⟩
  · exact faults_of_eq ((onPred_on hp).trans (onFree_fault hf _))
  · have hdet : (s.isFree s.th && decide (2 ≤ detLevel s.th)) = false := by simp [hf]
    exact faults_of_eq ((onDet_pass (applies := fun s => s.isFree s.th) hdet _).trans
      ((onPred_on hp).trans (onFree_fault hf _)))
  · have hrun : exec (.evsig h o) s = _ := (onPred_on hp).trans ((onFree_free hf _).trans (onRegion_some hr _))
    rw [hrun]
    exact completes_mapTh rfl rfl rfl
  · rw [evwait_free hp hr hf hd, if_pos hw]
    exact parkOut_waits s _
  · rw [evwait_free hp hr hf hd, if_neg (by simp [hw]), Ctx.startWait_eq]
    exact ⟨_, rfl, rfl, fun _ => rfl, rfl, advances_retire rfl rfl rfl rfl, Ctx.retire_parts _⟩

/-- Settles O33: each wait after its checks, in their order. -/
theorem waits_hold : Obligations.Waits := ⟨waitOnAddress, eventCounters⟩

end Sys2Proof.Machine
end

section
/-!
Sends and receives (R40, R45, R47, R276, R277).
-/
namespace Sys2Proof.Machine
open Sys2Proof.Claims

/-! ### Bytes of lanes -/

theorem bytesOf_zero (x : Nat) : bytesOf 0 x = [] := rfl
theorem bytesOf_succ (n x : Nat) : bytesOf (n + 1) x = BitVec.ofNat 8 x :: bytesOf n (x / 256) := rfl

theorem bytesOf_mod (n x : Nat) : bytesOf n (x % 256 ^ n) = bytesOf n x := by
  induction n generalizing x with
  | zero => rfl
  | succ n ih =>
    have hlow : BitVec.ofNat 8 (x % 256 ^ (n + 1)) = BitVec.ofNat 8 x :=
      BitVec.eq_of_toNat_eq (by simp)
    have hhigh : x % 256 ^ (n + 1) / 256 = x / 256 % 256 ^ n := by
      rw [Nat.pow_succ', Nat.mod_mul_right_div_self]
    rw [bytesOf_succ, bytesOf_succ, hlow, hhigh, ih]

theorem take_bytesOf (n k x : Nat) : (bytesOf (n + k) x).take n = bytesOf n x := by
  induction n generalizing x with
  | zero => rfl
  | succ n ih => rw [Nat.succ_add, bytesOf_succ, bytesOf_succ, List.take_succ_cons, ih]

theorem drop_bytesOf (n k x : Nat) : (bytesOf (k + n) x).drop k = bytesOf n (x / 256 ^ k) := by
  induction k generalizing x with
  | zero => simp
  | succ k ih => rw [Nat.succ_add, bytesOf_succ, List.drop_succ_cons, ih, Nat.div_div_eq_div_mul, Nat.pow_succ']

/-- The bytes of a 64-bit lane stand at its place among those of the register. -/
theorem vBytes_lane (v : VWord) {j : Nat} (hj : j < 4) : ((vBytes v).drop (8 * j)).take 8 = bytesOf 8 (laneOf 64 v j) := by
  have hsplit : 8 * j + (8 + (24 - 8 * j)) = 32 := by omega
  have hlane : laneOf 64 v j = v.toNat / 256 ^ (8 * j) % 256 ^ 8 := by
    have hpow : 256 ^ (8 * j) = 2 ^ (64 * j) := by rw [show 64 * j = 8 * (8 * j) by omega, Nat.pow_mul 2]
    rw [laneOf, bitsAt, Nat.shiftRight_eq_div_pow, hpow]
    rfl
  rw [vBytes, ← hsplit, drop_bytesOf, take_bytesOf, hlane, bytesOf_mod]

/-- The bytes of an active lane of a vector message are those of the lane; a message has 32 bytes (log 83). -/
theorem sendLanes_spec (h : Hdr) (x : VReg) (s : State) : (sendLanes h x s.th).length = 32 ∧ ∀ j < 4,
    isActive h s .d j = true →
    ((sendLanes h x s.th).drop (8 * j)).take 8 = bytesOf 8 (lane s .d (.reg x) j) := by
  refine ⟨bytesOf_length _ _, fun j hj ha => ?_⟩
  have hact : (activeLanes h s.th.regs .d).getD j false = true := by
    have hlanes : j < Ty.lanes .d := hj
    simpa [activeLanes, List.getD_eq_getElem?_getD, hlanes, laneActive, isActive] using ha
  have hlanes : j < 256 / 64 := hj
  have hlane : (s.th.regs.vrLanes 64 x)[j]? = some (laneOf 64 (s.th.regs.rv x.r) (VMod.lane x.m j)) := by
    simp [Regs.vrLanes, hlanes]
  have hsrc : lane s .d (.reg x) j = laneOf 64 (s.th.regs.rv x.r) (VMod.lane x.m j) := by
    show (s.th.regs.vrLanes 64 x).getD j 0 = _
    rw [List.getD_eq_getElem?_getD, hlane]
    rfl
  unfold sendLanes
  rw [vBytes_lane _ hj, laneOf_ofLanes _ (lane_fits hlanes), hsrc]
  simp only [List.getD_eq_getElem?_getD, List.getElem?_mapIdx, hlane, Option.map_some, Option.getD_some] at hact ⊢
  rw [if_pos hact, Nat.mod_eq_of_lt (laneOf_lt _ _ _)]

/-! ### Forms of lanes -/

theorem activeLanes_any (h : Hdr) (s : State) (t : Ty) : (activeLanes h s.th.regs t).any id = anyLane h s t := by
  simp only [activeLanes, List.any_map]
  rfl

theorem onLanes_on {h : Hdr} {s : State} {t : Ty} (ha : anyLane h s t = true) (f : State → Out) : onLanes h t f s = f s :=
  if_pos ((activeLanes_any h s t).trans ha)
theorem onLanes_off {h : Hdr} {s : State} {t : Ty} (ha : anyLane h s t = false) (f : State → Out) :
    onLanes h t f s = .next s.retire := if_neg (by simp [activeLanes_any, ha])

/-! ### Sends (R276) -/

theorem exec_send (h : Hdr) (o : Send) (s : State) : exec (.send h o) s =
    sendOp (onPred h) o.r o.tag (fun c => bytesOf 8 (c.regs.gs o.b).toNat) none s := rfl
theorem exec_sendv (h : Hdr) (o : SendV) (s : State) : exec (.sendv h o) s =
    sendOp (onLanes h .d) o.r o.tag (sendLanes h o.b) none s := rfl
theorem exec_sendRel (h : Hdr) (o : SendRel) (s : State) : exec (.sendRel h o) s =
    sendOp (onPred h) o.r o.tag (fun c => bytesOf 8 (c.regs.gs o.b).toNat) (some o.s) s := rfl

section
variable {on : (State → Out) → State → Out} {s : State}

theorem sendOp_det (hf : s.isFree s.th = true) (hl : 2 ≤ detLevel s.th) (a : GReg) (tag : BitVec 14) (bytes : Ctx → List Byte)
    (sc : Option (BitVec 6)) : faults s (sendOp on a tag bytes sc s) 0x07 0 0 :=
  faults_of_eq (onDet_fault (applies := fun s => s.isFree s.th) hf hl _)

theorem sendOp_mode (hon : ∀ f, on f s = f s) (hf : s.isFree s.th = false) (a : GReg) (tag : BitVec 14)
    (bytes : Ctx → List Byte) (sc : Option (BitVec 6)) : faults s (sendOp on a tag bytes sc s) 0x08 0 0 :=
  faults_of_eq ((onDet_pass (applies := fun s => s.isFree s.th) (by simp [hf]) _).trans ((hon _).trans (onFree_fault hf _)))

theorem sendOp_off (hoff : ∀ f, on f s = .next s.retire) (hl : detLevel s.th < 2) (a : GReg) (tag : BitVec 14)
    (bytes : Ctx → List Byte) (sc : Option (BitVec 6)) : goesOn s (sendOp on a tag bytes sc s) :=
  (onDet_pass (applies := fun s => s.isFree s.th) (by simp [Nat.not_le.2 hl]) _).trans (hoff _)

variable {r : Region} (hon : ∀ f, on f s = f s) (hf : s.isFree s.th = true) (hl : detLevel s.th < 2)
  (hr : s.regionOf s.th = some r) (a : GReg) (tag : BitVec 14) (bytes : Ctx → List Byte) (sc : Option (BitVec 6))
include hon hf hl hr

/-- A send after its determinism and mode checks: the channel, the scope and the receiver number (R262). -/
theorem sendOp_checked : sendOp on a tag bytes sc s =
    let dst := (s.th.regs.gr a).toNat % 65536
    if !r.channelOk s.th.logical dst then faultOut s ⟨cChannel, 0, BitVec.ofNat 64 dst⟩
    else
      match sc.bind (scopeFault s.th) with
      | some t => faultOut s t
      | none =>
        if r.map.length ≤ dst then faultOut s ⟨cBound, 0, BitVec.ofNat 64 dst⟩
        else .next (s.mapTh fun c => ((c.post r dst tag (.data (bytes s.th)) ⟨false, sc.map (scopeValue s.th)⟩).chargeSend
          (bytes s.th).length).retire) :=
  (onDet_pass (applies := fun s => s.isFree s.th) (by simp [Nat.not_le.2 hl]) _).trans
    ((hon _).trans ((onFree_free hf _).trans (onRegion_some hr _)))

theorem sendOp_channel (hc : r.channelOk s.th.logical ((s.th.regs.gr a).toNat % 65536) = false) :
    faults s (sendOp on a tag bytes sc s) 0x09 0 (BitVec.ofNat 64 ((s.th.regs.gr a).toNat % 65536)) :=
  faults_of_eq ((sendOp_checked hon hf hl hr a tag bytes sc).trans (if_pos (by simp [hc])))

theorem sendOp_scope (hc : r.channelOk s.th.logical ((s.th.regs.gr a).toNat % 65536) = true) {t : Trap}
    (hsc : sc.bind (scopeFault s.th) = some t) : sendOp on a tag bytes sc s = faultOut s t := by
  rw [sendOp_checked hon hf hl hr]
  simp only [hc, hsc, Bool.not_true, Bool.false_eq_true, if_false]

theorem sendOp_bound (hc : r.channelOk s.th.logical ((s.th.regs.gr a).toNat % 65536) = true)
    (hsc : sc.bind (scopeFault s.th) = none) (hb : r.map.length ≤ (s.th.regs.gr a).toNat % 65536) :
    faults s (sendOp on a tag bytes sc s) 0x0B 0 (BitVec.ofNat 64 ((s.th.regs.gr a).toNat % 65536)) := by
  refine faults_of_eq ((sendOp_checked hon hf hl hr a tag bytes sc).trans ?_)
  simp only [hc, hsc, hb, Bool.not_true, Bool.false_eq_true, if_false, if_true]
  rfl

theorem sendOp_sends (hc : r.channelOk s.th.logical ((s.th.regs.gr a).toNat % 65536) = true)
    (hsc : sc.bind (scopeFault s.th) = none) (hb : (s.th.regs.gr a).toNat % 65536 < r.map.length) :
    sends s (sendOp on a tag bytes sc s) r ((s.th.regs.gr a).toNat % 65536) tag (bytes s.th)
      ⟨false, sc.map (scopeValue s.th)⟩ := by
  rw [sendOp_checked hon hf hl hr]
  simp only [hc, hsc, Nat.not_le.2 hb, Bool.not_true, Bool.false_eq_true, if_false]
  exact completes_mapTh rfl rfl rfl

end

theorem sends_hold : Sends := by
  refine ⟨fun h s hf hl => ?_, fun h s hf => ?_, fun h s r hf hl hr => ?_⟩
  all_goals simp only [exec_send, exec_sendv, exec_sendRel]
  · exact ⟨fun o => sendOp_det hf hl .., fun o => sendOp_det hf hl .., fun o => sendOp_det hf hl ..⟩
  · exact ⟨fun hp => ⟨fun o => sendOp_mode (fun _ => onPred_on hp) hf .., fun o => sendOp_mode (fun _ => onPred_on hp) hf ..⟩,
      fun ha o => sendOp_mode (onLanes_on ha) hf ..⟩
  · refine ⟨fun hp => ?_, fun ha o => sendOp_off (onLanes_off ha) hl .., fun ha o => ⟨⟨fun hc => ?_, fun hc hb => ?_⟩,
      fun hm => ?_⟩⟩
    · have hon : ∀ f, onPred h f s = f s := fun _ => onPred_on hp
      refine ⟨fun o => ⟨fun hm => ?_, fun hc => ?_, fun hc hb => ?_⟩,
        fun o => ⟨fun hm hsc => ?_, fun hm hsc => ?_, fun hsc => ⟨fun hc => ?_, fun hc hb => ?_⟩⟩⟩
      · exact sendOp_sends hon hf hl hr _ _ _ none hm.1 rfl hm.2
      · exact sendOp_channel hon hf hl hr _ _ _ none hc
      · exact sendOp_bound hon hf hl hr _ _ _ none hc rfl hb
      · exact sendOp_sends hon hf hl hr _ _ _ (some o.s) hm.1 (scopeFault_ok hsc) hm.2
      · exact faults_of_eq (sendOp_scope hon hf hl hr _ _ _ (some o.s) hm.1 (scopeFault_bad hsc))
      · exact sendOp_channel hon hf hl hr _ _ _ (some o.s) hc
      · exact sendOp_bound hon hf hl hr _ _ _ (some o.s) hc (scopeFault_ok hsc) hb
    · exact sendOp_channel (onLanes_on ha) hf hl hr _ _ _ none hc
    · exact sendOp_bound (onLanes_on ha) hf hl hr _ _ _ none hc rfl hb
    · obtain ⟨hlen, hlane⟩ := sendLanes_spec h o.b s
      exact ⟨sendLanes h o.b s.th, hlen, hlane, sendOp_sends (onLanes_on ha) hf hl hr _ _ _ none hm.1 rfl hm.2⟩

/-! ### Receives (R277) -/

/-- A receive of `n` bytes from a source, or from any, after its checks: the outcomes that R277 lists. -/
def receives (s : State) (o : Out) (r : Region) (n : Nat) (src : Option Nat) (m : BitVec 6) (data : List Byte → Ctx → Ctx) :
    Prop :=
  let hit := fun (x : Mail) => decide (src.all fun k => x.sender.toNat = k)
  let status := fun (w : Word) => goesTo o fun t => onlyContext s t ∧ memoryKept s t ∧
    t.th = (({ s.th with status := .running, told := false }).resG m 0 w).retire
  (s.th.told = true → status 0x8000000000000000) ∧
  (s.th.told = false → s.caughtUp s.th = false → waits s o .drain) ∧
  (s.th.told = false → s.caughtUp s.th = true →
    (∀ x bs, s.th.mail.box.find? hit = some x → x.body = .data bs → bs.length = n →
      goesTo o fun t => onlyContext s t ∧ memoryKept s t ∧
        t.th = ((data bs { s.th with
          status := .running, mail := { s.th.mail with box := dropFirst hit s.th.mail.box } }).resG m 0
          (BitVec.ofNat 64 (x.tag.toNat * 65536 + x.sender.toNat))).retire) ∧
    (∀ x bs, s.th.mail.box.find? hit = some x → x.body = .data bs → bs.length ≠ n →
      faults s o 0x21 0 (BitVec.ofNat 64 bs.length)) ∧
    (s.th.mail.box.find? hit = none → s.recvNothing r src = none → waits s o .mailbox) ∧
    (∀ w, s.th.mail.box.find? hit = none → s.recvNothing r src = some w → status w))

/-- Is a message one that a receive wants. -/
def wanted (src : Option Nat) (x : Mail) : Bool := decide (src.all fun k => x.sender.toNat = k)

/-- The same, as `recvOp` puts it. -/
def senderIs (src : Option Nat) (x : Mail) : Bool :=
  match src with
  | none => true
  | some k => x.sender.toNat == k

theorem senderIs_eq_wanted (src : Option Nat) : senderIs src = wanted src := by
  funext x
  cases src with
  | none => rfl
  | some k =>
    simp only [senderIs, wanted, Option.all_some, decide_eq_true_eq]
    rfl

/-- A receive after its checks, for the messages that `hit` picks. -/
def recvRun (n : Nat) (src : Option Nat) (m : BitVec 6) (put : Ctx → List Byte → Ctx) (r : Region) (hit : Mail → Bool)
    (s : State) : Out :=
  if s.th.told then .next (s.mapTh fun c => c.recvStatus m 0x8000000000000000)
  else if !s.caughtUp s.th then parkOut s .drain
  else
    match s.th.mail.box.find? hit with
    | none =>
      match s.recvNothing r src with
      | some w => .next (s.mapTh fun c => c.recvStatus m w)
      | none => parkOut s .mailbox
    | some x =>
      match x.body with
      | .handle _ _ | .marker _ => parkOut s .mailbox
      | .data bs =>
        if bs.length ≠ n then faultOut s ⟨cMailSize, 0, BitVec.ofNat 64 bs.length⟩
        else
          .next (s.mapTh fun c =>
            let c := { c.run with mail := { c.mail with box := dropFirst hit c.mail.box } }
            ((put c bs).resG m 0 (BitVec.ofNat 64 (x.tag.toNat * 2 ^ 16 + x.sender.toNat))).retire)

theorem recvRun_receives (n : Nat) (src : Option Nat) (m : BitVec 6) (put : Ctx → List Byte → Ctx) (r : Region) (s : State) :
    receives s (recvRun n src m put r (wanted src) s) r n src m fun bs c => put c bs := by
  have hstatus : ∀ w, onlyContext s (s.mapTh fun c => c.recvStatus m w) ∧ memoryKept s (s.mapTh fun c => c.recvStatus m w) ∧
      (s.mapTh fun c => c.recvStatus m w).th = (({ s.th with status := .running, told := false }).resG m 0 w).retire :=
    fun _ => ⟨rfl, fun _ => rfl, rfl⟩
  refine ⟨fun ht => ⟨_, if_pos ht, hstatus _⟩, fun ht hc => ?_, fun ht hc => ?_⟩
  · exact (if_neg (by simp [ht])).trans (if_pos (by simp [hc]))
  · have hbox : recvRun n src m put r (wanted src) s = _ := (if_neg (by simp [ht])).trans (if_neg (by simp [hc]))
    rw [hbox]
    refine ⟨fun x bs hx hb hn => ?_, fun x bs hx hb hn => ?_, fun hx hw => ?_, fun w hx hw => ?_⟩
    all_goals replace hx : s.th.mail.box.find? (wanted src) = _ := hx
    · rw [hx]
      dsimp only
      rw [hb]
      exact ⟨_, if_neg (not_not.2 hn), rfl, fun _ => rfl, rfl⟩
    · rw [hx]
      dsimp only
      rw [hb]
      exact faults_of_eq (if_pos hn)
    · rw [hx]
      dsimp only
      rw [hw]
      exact parkOut_waits s _
    · rw [hx]
      dsimp only
      rw [hw]
      exact ⟨_, rfl, hstatus w⟩

section
variable {on : (State → Out) → State → Out} {s : State} {src : Regs → Option Nat}

theorem recvOp_det (hf : (src s.th.regs).isSome = true → s.isFree s.th = true)
    (hl : (if (src s.th.regs).isNone then 1 else 2) ≤ detLevel s.th) (n : Nat) (m : BitVec 6) (put : Ctx → List Byte → Ctx) :
    faults s (recvOp on n src m put s) 0x07 0 0 := by
  refine faults_of_eq (onDet_fault (applies := fun t => (src s.th.regs).isNone || t.isFree t.th) ?_ hl _)
  cases hs : src s.th.regs with
  | none => rfl
  | some k => exact hf (by rw [hs]; rfl)

variable (hl : detLevel s.th < if (src s.th.regs).isNone then 1 else 2)
include hl

theorem recvOp_passes (n : Nat) (m : BitVec 6) (put : Ctx → List Byte → Ctx) : recvOp on n src m put s =
    on (onFree (onRegion fun r t => recvRun n (src t.th.regs) m put r (senderIs (src t.th.regs)) t)) s :=
  onDet_pass (applies := fun t => (src s.th.regs).isNone || t.isFree t.th) 
    (by rw [decide_eq_false (Nat.not_le.2 hl), Bool.and_false]) _

theorem recvOp_off (hoff : ∀ f, on f s = .next s.retire) (n : Nat) (m : BitVec 6) (put : Ctx → List Byte → Ctx) :
    goesOn s (recvOp on n src m put s) := (recvOp_passes hl n m put).trans (hoff _)

theorem recvOp_receives (hon : ∀ f, on f s = f s) (hf : s.isFree s.th = true) {r : Region} (hr : s.regionOf s.th = some r)
    (n : Nat) (m : BitVec 6) (put : Ctx → List Byte → Ctx) :
    receives s (recvOp on n src m put s) r n (src s.th.regs) m fun bs c => put c bs := by
  rw [recvOp_passes hl, hon, onFree_free hf, onRegion_some hr, senderIs_eq_wanted]
  exact recvRun_receives n _ m put r s

end

theorem exec_recv (h : Hdr) (o : Recv) (s : State) : exec (.recv h o) s =
    recvOp (onPred h) 8 (recvFrom o.src) o.m (putG o.d) s := rfl
theorem exec_recvv (h : Hdr) (o : RecvV) (s : State) : exec (.recvv h o) s =
    recvOp (onLanes h .d) 32 (recvFrom o.src) o.m (putV h o.d) s := rfl
theorem exec_recvAny (h : Hdr) (o : RecvAny) (s : State) : exec (.recvAny h o) s =
    recvOp (onPred h) 8 (fun _ => none) o.m (putG o.d) s := rfl
theorem exec_recvvAny (h : Hdr) (o : RecvVAny) (s : State) : exec (.recvvAny h o) s =
    recvOp (onLanes h .d) 32 (fun _ => none) o.m (putV h o.d) s := rfl

/-- A message of the right size reaches the registers that the receive names. -/
theorem receives.of_data {s : State} {o : Out} {r : Region} {n : Nat} {src : Option Nat} {m : BitVec 6}
    {data data' : List Byte → Ctx → Ctx} (h : receives s o r n src m data)
    (hdata : ∀ bs c, bs.length = n → c.regs = s.th.regs → data bs c = data' bs c) : receives s o r n src m data' := by
  obtain ⟨htold, hwait, hrun⟩ := h
  refine ⟨htold, hwait, fun ht hc => ?_⟩
  obtain ⟨hhit, hrest⟩ := hrun ht hc
  refine ⟨fun x bs hx hb hn => ?_, hrest⟩
  obtain ⟨t, ht, honly, hmem, hth⟩ := hhit x bs hx hb hn
  refine ⟨t, ht, honly, hmem, hth.trans ?_⟩
  rw [hdata]
  · exact hn
  · rfl

theorem putG_eq {bs : List Byte} (h : bs.length = 8) (d : BitVec 6) (c : Ctx) :
    putG d c bs = c.resG d 0 (BitVec.ofNat 64 (ofBytes bs)) := by
  rw [putG, bytesAt, List.drop_zero, List.take_of_length_le h.le]

theorem imp_and_and {p a b c : Prop} (h : p → a ∧ b ∧ c) : (p → a) ∧ (p → b) ∧ (p → c) :=
  ⟨fun hp => (h hp).1, fun hp => (h hp).2.1, fun hp => (h hp).2.2⟩

/-- The receives of R277: the predicate or the lanes, then what the mailbox holds. -/
theorem receives_hold : Receives := by
  refine ⟨fun h s hf hl => ?_, fun h s hl => ?_, fun h s r hf hr => ?_⟩
  all_goals simp only [exec_recv, exec_recvv, exec_recvAny, exec_recvvAny]
  · exact ⟨fun o => recvOp_det (on := onPred h) (src := recvFrom o.src) (fun _ => hf) hl ..,
      fun o => recvOp_det (on := onLanes h .d) (src := recvFrom o.src) (fun _ => hf) hl ..⟩
  · exact ⟨fun o => recvOp_det (on := onPred h) (src := fun _ => none) (absurd · Bool.false_ne_true) hl ..,
      fun o => recvOp_det (on := onLanes h .d) (src := fun _ => none) (absurd · Bool.false_ne_true) hl ..⟩
  · have hput : ∀ (d : BitVec 5) (bs : List Byte) (c : Ctx), bs.length = 32 → c.regs = s.th.regs → putV h d c bs =
        c.resV d 0 (mergeLanes 64 (predMask h s.th.regs) (s.th.regs.rv d) (BitVec.ofNat 256 (ofBytes bs))) := by
      intro d bs c _ hc
      rw [putV, hc]
      rfl
    refine ⟨fun hl => ⟨fun o => ⟨fun hoff => ?_, imp_and_and fun hp => ?_⟩, fun o => ⟨fun hoff => ?_, imp_and_and fun ha => ?_⟩⟩,
      fun hl => ?_⟩
    · exact recvOp_off (src := recvFrom o.src) hl (fun _ => onPred_off hoff) ..
    · exact (recvOp_receives (src := recvFrom o.src) hl (fun _ => onPred_on hp) hf hr ..).of_data fun bs c hn _ => putG_eq hn _ _
    · exact recvOp_off (src := recvFrom o.src) hl (onLanes_off hoff) ..
    · exact (recvOp_receives (src := recvFrom o.src) hl (onLanes_on ha) hf hr ..).of_data fun bs c => hput _ bs c
    · have hl' : detLevel s.th < 1 := by rw [hl]; exact Nat.one_pos
      refine ⟨fun o => ⟨fun hoff => ?_, imp_and_and fun hp => ?_⟩, fun o => ⟨fun hoff => ?_, imp_and_and fun ha => ?_⟩⟩
      · exact recvOp_off (src := fun _ => none) hl' (fun _ => onPred_off hoff) ..
      · exact (recvOp_receives (src := fun _ => none) hl' (fun _ => onPred_on hp) hf hr ..).of_data fun bs c hn _ => putG_eq hn _ _
      · exact recvOp_off (src := fun _ => none) hl' (onLanes_off hoff) ..
      · exact (recvOp_receives (src := fun _ => none) hl' (onLanes_on ha) hf hr ..).of_data fun bs c => hput _ bs c

/-- Settles O34: a send and a receive, each for its predicate or lanes and after the checks in front of it. -/
theorem messages : Obligations.Messages := ⟨sends_hold, receives_hold⟩

end Sys2Proof.Machine
end

section
/-!
`sstep` and `bar` (R34, R38, R106, R278): what a join changes for the members of its region, and what closes a barrier.
-/
namespace Sys2Proof.Machine
open Sys2Proof.Claims

/-! ### Regions and members -/

/-- The first entry with a property, after a change to the entries with it that keeps it. -/
theorem find?_updateAll {α : Type} {p : α → Bool} {f : α → α} (hp : ∀ x, p x = true → p (f x) = true) (xs : List α) :
    (updateAll p f xs).find? p = (xs.find? p).map f := by
  induction xs with
  | nil => rfl
  | cons x xs ih =>
    rw [updateAll, List.map_cons]
    cases hx : p x with
    | true => simp [hx, hp x hx]
    | false => simpa [hx, updateAll] using ih

theorem State.region?_updRegion {s : State} {id : RegionId} {r : Region} (hr : s.region? (some id) = some r)
    {f : Region → Region} (hf : ∀ x, (f x).id = x.id) : (s.updRegion id f).region? (some id) = some (f r) := by
  have hfind : s.regions.find? (fun x => x.id == id) = some r := hr
  exact (find?_updateAll (fun x hx => by rwa [hf x]) s.regions).trans (by rw [hfind]; rfl)

theorem State.region?_id {s : State} {id : RegionId} {r : Region} (hr : s.region? (some id) = some r) : r.id = id :=
  beq_iff_eq.1 (List.find?_some (p := fun x : Region => x.id == id) hr)

theorem State.region?_congr {s t : State} (h : t.regions = s.regions) (id : Option RegionId) : t.region? id = s.region? id := by
  unfold State.region?
  rw [h]

/-- A context of a region names it. -/
theorem State.regionOf_id {s : State} {c : Ctx} {r : Region} (hr : s.regionOf c = some r) : c.region = some r.id := by
  unfold State.regionOf at hr
  cases hc : c.region with
  | none =>
    rw [hc] at hr
    exact nomatch hr
  | some id =>
    rw [hc] at hr
    rw [State.region?_id hr]

/-- A state in which the context in turn may have gone on: what members see of each other beside their status stays. -/
structure GoesOn (s t : State) : Prop where
  pool : t.pool = s.pool
  cid : t.th.cid = s.th.cid
  ended : t.th.ended = s.th.ended
  completed : t.th.completed = s.th.completed
  ssnum : t.th.sr.ssnum = s.th.sr.ssnum

theorem State.ctx?_th (s : State) : s.ctx? s.th.cid = some s.th := by
  exact List.find?_cons_of_pos (p := fun x : Ctx => x.cid == s.th.cid) (beq_self_eq_true _)

theorem State.ctx?_pool {s : State} {c : CtxId} (h : s.th.cid ≠ c) : s.ctx? c = s.pool.find? fun x => x.cid == c := by
  rw [State.ctx?, State.ctxs, List.find?_cons_of_neg (by simpa using h)]

namespace GoesOn
variable {s t : State} (h : GoesOn s t) {r q : Region} (hq : q.ctxs = r.ctxs)
include h hq

/-- A member is as it was, or is the context in turn. -/
theorem member? (k : Nat) : t.member? q k = s.member? r k ∨
    r.ctxs[k]? = some s.th.cid ∧ s.member? r k = some s.th ∧ t.member? q k = some t.th := by
  unfold State.member?
  rw [hq]
  cases hk : r.ctxs[k]? with
  | none => exact .inl rfl
  | some c =>
    by_cases hc : s.th.cid = c
    · subst hc
      exact .inr ⟨rfl, s.ctx?_th, h.cid ▸ t.ctx?_th⟩
    · refine .inl ?_
      dsimp only
      rw [State.ctx?_pool hc, State.ctx?_pool (h.cid ▸ hc), h.pool]

theorem memberEnded (k : Nat) : t.memberEnded q k = s.memberEnded r k := by
  unfold State.memberEnded
  obtain hk | ⟨-, hs, ht⟩ := h.member? hq k
  · rw [hk]
  · rw [hs, ht]
    dsimp only
    rw [h.ended, h.completed]

theorem superstepOf : t.superstepOf q = s.superstepOf r := by
  have hended : (fun k => !t.memberEnded q k) = fun k => !s.memberEnded r k := by
    funext k
    rw [h.memberEnded hq]
  unfold State.superstepOf
  rw [hq, hended]
  cases (List.range r.ctxs.length).find? fun k => !s.memberEnded r k with
  | none => rfl
  | some k =>
    dsimp only
    obtain hk | ⟨-, hs, ht⟩ := h.member? hq k
    · rw [hk]
    · rw [hs, ht, Option.map_some, Option.map_some, h.ssnum]

variable (hb : t.th.status = .parked .barrier)
include hb

theorem joinHere {k : Nat} (hj : s.joinHere r k = true) : t.joinHere q k = true := by
  unfold State.joinHere at hj ⊢
  obtain hk | ⟨-, -, ht⟩ := h.member? hq k
  · rwa [hk]
  · rw [ht]
    simp [hb]

theorem joinHere_own {k : Nat} (hk : r.ctxs[k]? = some s.th.cid) : t.joinHere q k = true := by
  have hown : t.member? q k = some t.th := by
    rw [State.member?, hq, hk, ← h.cid]
    exact t.ctx?_th
  rw [State.joinHere, hown]
  simp [hb]

end GoesOn

/-! ### The barrier of a region -/

/-- Has every member of a region joined its barrier and does it wait in its cell, or has it ended. -/
def State.allJoined (s : State) (r : Region) : Bool :=
  (List.range r.map.length).all fun k => (r.joined.contains k && s.joinHere r k) || s.memberEnded r k

theorem State.closeBarrier_eq {s : State} {id : RegionId} {r : Region} (h : s.region? (some id) = some r) : s.closeBarrier id =
    if r.a.free || r.joined.isEmpty || !s.allJoined r then s
    else if decide ((r.exchange (s.superstepOf r)).length ≤ r.xpos) then s.computeBegin r
    else if r.closed.isSome then s
    else s.updRegion id fun r => { r with closed := some s.now, xpos := 0 } := by
  unfold State.closeBarrier
  rw [h]
  rfl

theorem State.closeBarrier_open {s : State} {id : RegionId} {r : Region} (h : s.region? (some id) = some r) {k : Nat}
    (hk : k < r.map.length) (hj : k ∉ r.joined) (he : s.memberEnded r k = false) : s.closeBarrier id = s := by
  have hall : s.allJoined r = false :=
    List.all_eq_false.2 ⟨k, List.mem_range.2 hk, by simp [hj, he]⟩
  rw [State.closeBarrier_eq h, if_pos (by simp [hall])]

theorem State.closeBarrier_begins {s : State} {id : RegionId} {r : Region} (h : s.region? (some id) = some r)
    (hf : r.a.free = false) (hj : r.joined ≠ []) (hall : s.allJoined r = true) (hx : r.exchange (s.superstepOf r) = []) :
    s.closeBarrier id = s.computeBegin r := by
  rw [State.closeBarrier_eq h, if_neg (by simp [hf, hj, hall]), if_pos (by simp [hx])]

theorem Ctx.beginPhase_member {c : Ctx} {id : RegionId} (hr : c.region = some id) (he : c.ended = false)
    (hc : c.completed = false) :
    c.beginPhase id = { c.wakeFrom .barrier with sr := { c.sr with ssnum := c.sr.ssnum + 1 } } :=
  if_pos (by simp [hr, he, hc])

/-- A context that waits for nothing but its barrier is ready when it wakes. -/
theorem Ctx.wakeFrom_ready {c : Ctx} {why : Park} (hs : c.status = .parked why) (hw : c.wait = none) :
    c.wakeFrom why = { c with status := .ready } := by
  rw [Ctx.wakeFrom, if_pos hs, Ctx.onward, hw]

theorem State.computeBegin_region? {s : State} {r : Region} (h : s.region? (some r.id) = some r) :
    ∃ q, (s.computeBegin r).region? (some r.id) = some q ∧ q.joined = [] ∧ q.closed = none := by
  refine ⟨{ r with joined := [], closed := none, xpos := 0, xmove := .idle }, ?_, rfl, rfl⟩
  rw [State.computeBegin_eq, State.region?_congr (State.notePoints_regions _ _)]
  exact State.region?_updRegion (s := { s with th := s.th.beginPhase r.id, pool := s.pool.map (Ctx.beginPhase r.id) }) h
    fun _ => rfl

/-! ### sstep -/

/-- The state after a join of the region barrier, before the barrier is looked at. -/
def State.joined (s : State) (r : Region) : State :=
  { s with th := { s.th.retire with status := .parked .barrier } }.updRegion r.id
    fun r => { r with joined := r.joined ++ [s.th.logical] }

/-- `sstep` with its predicate on. -/
def sstepRun (s : State) : Out :=
  if s.isFree s.th then faultOut s ⟨cMode, 0, 0⟩
  else onRegion (fun r s => if !s.th.mayJoin then parkOut s .drain else .next ((s.joined r).closeBarrier r.id)) s

theorem exec_sstep {h : Hdr} {s : State} (hp : predOn h s.th.regs = true) : exec (.sstep h) s = sstepRun s :=
  have hrun : exec (.sstep h) s = onPred h sstepRun s := rfl
  hrun.trans (onPred_on hp)

theorem exec_sstep_joins {h : Hdr} {s : State} {r : Region} (hp : predOn h s.th.regs = true) (hr : s.regionOf s.th = some r)
    (hf : s.isFree s.th = false) (hj : s.th.mayJoin = true) :
    exec (.sstep h) s = .next ((s.joined r).closeBarrier r.id) := by
  rw [exec_sstep hp, sstepRun, if_neg (by simp [hf]), onRegion_some hr, if_neg (by simp [hj])]

theorem goesOn_joined (s : State) (r : Region) : GoesOn s (s.joined r) where
  pool := rfl
  cid := s.th.retire_cid
  ended := s.th.retire_ended
  completed := s.th.retire_completed
  ssnum := congrArg _ s.th.retire_sr

theorem isFree_of_region {s : State} {c : Ctx} {r : Region} (hr : s.regionOf c = some r) : s.isFree c = r.a.free := by
  rw [State.isFree, hr]
  rfl

section
variable {s : State} {r : Region} (hr : s.region? (some r.id) = some r)
include hr

theorem joined_region? : (s.joined r).region? (some r.id) = some { r with joined := r.joined ++ [s.th.logical] } :=
  State.region?_updRegion (s := { s with th := { s.th.retire with status := .parked .barrier } }) hr fun _ => rfl

/-- A join before the last one leaves the barrier open. -/
theorem joined_open {k : Nat} (hk : k < r.map.length) (hj : k ∉ r.joined) (hn : k ≠ s.th.logical)
    (he : s.memberEnded r k = false) : (s.joined r).closeBarrier r.id = s.joined r :=
  State.closeBarrier_open (joined_region? hr) hk (by simp [hj, hn]) (((goesOn_joined s r).memberEnded rfl k).trans he)

/-- The last join begins the next superstep of a region whose exchange is empty. -/
theorem joined_closes (hf : r.a.free = false) (hown : r.ctxs[s.th.logical]? = some s.th.cid)
    (hx : r.exchange (s.superstepOf r) = []) (hall : ∀ k < r.map.length, k ≠ s.th.logical →
      k ∈ r.joined ∧ s.joinHere r k = true ∨ s.memberEnded r k = true) :
    (s.joined r).closeBarrier r.id = (s.joined r).computeBegin { r with joined := r.joined ++ [s.th.logical] } := by
  have hgo := goesOn_joined s r
  refine State.closeBarrier_begins (joined_region? hr) hf (by simp) ?_ ?_
  · refine List.all_eq_true.2 fun k hk => ?_
    rw [hgo.memberEnded rfl, Bool.or_eq_true, Bool.and_eq_true]
    by_cases hn : k = s.th.logical
    · exact .inl ⟨by simp [hn], hgo.joinHere_own rfl rfl (hn ▸ hown)⟩
    · refine (hall k (List.mem_range.1 hk) hn).imp_left fun ⟨hj, hh⟩ => ⟨by simp [hj], hgo.joinHere rfl rfl hh⟩
  · exact (congrArg r.exchange (hgo.superstepOf rfl)).trans hx

end

/-- The state after a join of a scoped barrier with members `ms`, before the barrier is looked at. -/
def State.barJoined (s : State) (r : Region) (o : BarOp) (ms : List Nat) : State :=
  { s with th := { (s.th.expect (.g o.d .d) 1 8).2.retire with status := .parked .barrier } }.updRegion r.id
    fun r => r.join o.id ms (s.th.logical, s.th.mq.next)

/-- A join of a scoped barrier, after its checks. -/
def barRun (o : BarOp) (v : Word) (r : Region) (s : State) : Out :=
  if !s.th.mayJoin then parkOut s .drain
  else
    let ms := barMembers r s.th.comb? v
    let t := s.barJoined r o ms
    .next (((t.region? (some r.id)).bind fun r => r.bars.find? fun b => b.id == o.id && b.members == ms).elim t
      fun b => t.closeBar r.id b)

/-- `bar` with its predicate on. -/
def barChecked (o : BarOp) : State → Out :=
  onFree fun s =>
    match firstFault [scopeFault s.th o.s,
        if barOutside s.th (scopeValue s.th o.s) then some ⟨cScope, 0, scopeValue s.th o.s⟩ else none] with
    | some t => faultOut s t
    | none => onRegion (barRun o (scopeValue s.th o.s)) s

theorem exec_bar {h : Hdr} {s : State} (hp : predOn h s.th.regs = true) (o : BarOp) : exec (.bar h o) s = barChecked o s :=
  have hrun : exec (.bar h o) s = onPred h (barChecked o) s := rfl
  hrun.trans (onPred_on hp)

theorem exec_bar_checked {h : Hdr} {s : State} {r : Region} {o : BarOp} (hp : predOn h s.th.regs = true)
    (hf : s.isFree s.th = true) (hreg : s.regionOf s.th = some r) (hs : scopeOk (scopeValue s.th o.s) = true)
    (hout : barOutside s.th (scopeValue s.th o.s) = false) :
    exec (.bar h o) s = barRun o (scopeValue s.th o.s) r s := by
  rw [exec_bar hp, barChecked, onFree_free hf]
  simp only [scopeFault_ok hs, hout, if_false, Bool.false_eq_true, firstFault]
  exact onRegion_some hreg _

/-! ### The number of a scoped barrier -/

/-- The last bytes of a result that no instruction waits for arrive: it lands. -/
theorem Ctx.deliver_last {c : Ctx} {id : Nat} {p : Pend} (h : c.pend.find? (fun p => p.id == id) = some p) (hl : p.left = 1)
    (hh : p.held = false) (off : Nat) (bytes : List Byte) (now : Nat) : c.deliver id off bytes now =
      { c with pend := c.pend.filter fun q => q.id != id }.land { p with left := 0, buf := putBytes p.buf off bytes } now := by
  have hheld : c.heldBy p = false := by rw [Ctx.heldBy, hh, Bool.false_and, Bool.false_and]
  rw [Ctx.deliver, h]
  dsimp only
  rw [hl, if_pos rfl, hheld, Bool.false_and, if_neg Bool.false_ne_true]

theorem loadValue_word (x : Word) : loadValue .d (putBytes (List.replicate 8 0) 0 (bytesOf 8 x.toNat)) = x := by
  have hput : putBytes (List.replicate 8 0) 0 (bytesOf 8 x.toNat) = bytesOf 8 x.toNat := by
    simp [putBytes, List.take_of_length_le, List.drop_eq_nil_of_le, bytesOf_length]
  have hbytes : bytesAt (bytesOf 8 x.toNat) 0 8 = x.toNat := by
    rw [bytesAt, List.drop_zero, List.take_of_length_le (bytesOf_length _ _).le, ofBytes_bytesOf]
    exact Nat.mod_eq_of_lt x.isLt
  rw [hput]
  show zext64 64 (bytesAt (bytesOf 8 x.toNat) 0 8) = x
  rw [hbytes, zext64]
  apply BitVec.eq_of_toNat_eq
  rw [BitVec.toNat_ofNat]
  omega

/-- A number of eight bytes reaches the register that waits for it. -/
theorem Ctx.fulfil_word {c : Ctx} {id : Nat} {pc : Word} {d : BitVec 6}
    (h : c.pend.find? (fun p => p.id == id) = some ⟨id, pc, .g d .d, 1, List.replicate 8 0, false⟩) (x : Word) (now : Nat) :
    ∃ ps, c.fulfil id x now = Ctx.resG { c with pend := ps } d 0 x := by
  have hfind := find?_updateAll (p := fun q : Pend => q.id == id) (f := fun q => { q with left := 1 }) (fun _ hq => hq) c.pend
  rw [h] at hfind
  rw [Ctx.fulfil, Ctx.deliver_last hfind rfl rfl]
  exact ⟨_, congrArg (Ctx.resG _ d 0) (loadValue_word x)⟩

theorem lands_congr {c c' d : Ctx} (hr : c'.regs = c.regs) (hw : c'.openW = c.openW) {q : BitVec 8} {lat : Nat} {x : VWord}
    (h : lands c' d q lat x) : lands c d q lat x := by
  unfold lands at h ⊢
  rwa [hr, hw] at h

/-- A joiner that waits at its barrier gets the count and is ready. -/
theorem Ctx.passBar_waiting {c : Ctx} {id : Nat} {pc : Word} {d : BitVec 6} (hs : c.status = .parked .barrier)
    (hw : c.wait = none)
    (h : c.pend.find? (fun p => p.id == id) = some ⟨id, pc, .g d .d, 1, List.replicate 8 0, false⟩) (n now : Nat) :
    (c.passBar id n now).status = .ready ∧ lands c (c.passBar id n now) (Machine.specG d) 0
      ((BitVec.ofNat 64 n).zeroExtend 256) := by
  obtain ⟨ps, hps⟩ := Ctx.fulfil_word h (BitVec.ofNat 64 n) now
  have hpass : c.passBar id n now = { (Ctx.resG { c with pend := ps } d 0 (BitVec.ofNat 64 n)) with status := .ready } := by
    rw [Ctx.passBar, hps, Ctx.wakeFrom_ready (why := .barrier)]
    · exact (Ctx.result_status ..).trans hs
    · exact (Ctx.result_wait ..).trans hw
  rw [hpass]
  exact ⟨rfl, Ctx.resG_lands { c with pend := ps } d 0 _⟩

section
variable {r : Region} {n : Nat} {s : State}

theorem State.passJoiner_own {j : Nat × Nat} (h : r.ctxs[j.1]? = some s.th.cid) :
    (s.passJoiner r n j).th = s.th.passBar j.2 n s.now := by
  rw [State.passJoiner, h]
  exact if_pos rfl

theorem State.passJoiner_other {j : Nat × Nat} (h : r.ctxs[j.1]? ≠ some s.th.cid) : (s.passJoiner r n j).th = s.th := by
  unfold State.passJoiner
  cases hc : r.ctxs[j.1]? with
  | none => rfl
  | some c => exact if_neg fun e => h (hc.trans (congrArg some e.symm))

theorem State.passJoiners_other {js : List (Nat × Nat)} (h : ∀ j ∈ js, r.ctxs[j.1]? ≠ some s.th.cid) :
    (js.foldl (State.passJoiner r n) s).th = s.th := by
  induction js generalizing s with
  | nil => rfl
  | cons j js ih =>
    have hj := State.passJoiner_other (n := n) (h j (by simp))
    rw [List.foldl_cons, ih (by rw [hj]; exact fun i hi => h i (by simp [hi])), hj]

end

/-! ### bar -/

/-- A scoped barrier with one more joiner. -/
def ScopedBar.with (b : ScopedBar) (j : Nat × Nat) : ScopedBar := { b with joined := b.joined ++ [j] }

/-- The scoped barrier with an id and members that a join finds, or the new one. -/
def Region.barOf (r : Region) (id : BitVec 4) (ms : List Nat) : ScopedBar :=
  (r.bars.find? fun b => b.id == id && b.members == ms).getD ⟨id, ms, [], 0⟩

theorem Region.barOf_names (r : Region) (id : BitVec 4) (ms : List Nat) :
    (r.barOf id ms).id = id ∧ (r.barOf id ms).members = ms := by
  unfold Region.barOf
  cases h : r.bars.find? fun b => b.id == id && b.members == ms with
  | none => exact ⟨rfl, rfl⟩
  | some b => simpa using List.find?_some h

theorem Region.barOf_with_members (r : Region) (id : BitVec 4) (ms : List Nat) (j : Nat × Nat) :
    ((r.barOf id ms).with j).members = ms := (r.barOf_names id ms).2

/-- The members of a new barrier have not joined it; those of a barrier of the region have joined that. -/
theorem Region.barOf_joined {r : Region} {id : BitVec 4} {ms : List Nat} {j : Nat × Nat} (h : j ∈ (r.barOf id ms).joined) :
    ∃ b ∈ r.bars, j ∈ b.joined := by
  unfold Region.barOf at h
  cases hb : r.bars.find? fun b => b.id == id && b.members == ms with
  | none => simp [hb] at h
  | some b => exact ⟨b, List.mem_of_find?_eq_some hb, by simpa [hb] using h⟩

theorem Region.join_bar (r : Region) (id : BitVec 4) (ms : List Nat) (j : Nat × Nat) :
    (r.join id ms j).bars.find? (fun b => b.id == id && b.members == ms) = some ((r.barOf id ms).with j) := by
  obtain ⟨hid, hms⟩ := r.barOf_names id ms
  refine find?_upsert_same ?_ _
  show ((r.barOf id ms).id == id && (r.barOf id ms).members == ms) = true
  simp [hid, hms]

section
variable {s : State} {r : Region} (o : BarOp) (ms : List Nat)

theorem barJoined_th : (s.barJoined r o ms).th = { s.th.retire with
    status := .parked .barrier, mq := { s.th.mq with next := s.th.mq.next + 1 }
    pend := s.th.pend ++ [⟨s.th.mq.next, s.th.pc, .g o.d .d, 1, List.replicate 8 0, false⟩] } := by
  show { (s.th.expect (.g o.d .d) 1 8).2.retire with status := Status.parked .barrier } = _
  rw [Ctx.retire_congr (c := s.th) (d := (s.th.expect (.g o.d .d) 1 8).2) rfl rfl rfl, s.th.retire_parts]
  rfl

theorem goesOn_barJoined : GoesOn s (s.barJoined r o ms) := by
  constructor
  · rfl
  all_goals rw [barJoined_th]
  · exact s.th.retire_cid
  · exact s.th.retire_ended
  · exact s.th.retire_completed
  · exact congrArg _ s.th.retire_sr

variable (hr : s.region? (some r.id) = some r)
include hr

theorem barJoined_region? : (s.barJoined r o ms).region? (some r.id) = some (r.join o.id ms (s.th.logical, s.th.mq.next)) :=
  State.region?_updRegion (s := { s with th := { (s.th.expect (.g o.d .d) 1 8).2.retire with status := .parked .barrier } })
    hr fun _ => rfl

theorem exec_bar_joins {h : Hdr} (hp : predOn h s.th.regs = true) (hf : s.isFree s.th = true)
    (hreg : s.regionOf s.th = some r) (hs : scopeOk (scopeValue s.th o.s) = true)
    (hout : barOutside s.th (scopeValue s.th o.s) = false) (hj : s.th.mayJoin = true) : exec (.bar h o) s =
      let ms := barMembers r s.th.comb? (scopeValue s.th o.s)
      .next ((s.barJoined r o ms).closeBar r.id ((r.barOf o.id ms).with (s.th.logical, s.th.mq.next))) := by
  rw [exec_bar_checked hp hf hreg hs hout, barRun, if_neg (by simp [hj])]
  dsimp only
  rw [barJoined_region? o _ hr, Option.bind_some, Region.join_bar]
  rfl

end

section
variable {s : State} {r : Region} (hr : s.region? (some r.id) = some r) (o : BarOp) (ms : List Nat)
include hr

/-- A join before the last one leaves the scoped barrier open. -/
theorem barJoined_open {k : Nat} (hk : k ∈ ms) (hn : k ≠ s.th.logical) (he : s.memberEnded r k = false)
    (hj : ∀ b ∈ r.bars, ∀ j ∈ b.joined, j.1 ≠ k) :
    (s.barJoined r o ms).closeBar r.id ((r.barOf o.id ms).with (s.th.logical, s.th.mq.next)) = s.barJoined r o ms := by
  have hnone : ((r.barOf o.id ms).with (s.th.logical, s.th.mq.next)).joined.any (fun j => j.1 == k) = false := by
    refine List.any_eq_false.2 fun j hmem => ?_
    obtain hold | hnew := List.mem_append.1 hmem
    · obtain ⟨b, hb, hjb⟩ := Region.barOf_joined hold
      simpa using hj b hb j hjb
    · rw [List.mem_singleton.1 hnew]
      simpa using Ne.symm hn
  have hended : (s.barJoined r o ms).memberEnded (r.join o.id ms (s.th.logical, s.th.mq.next)) k = false :=
    ((goesOn_barJoined (r := r) o ms).memberEnded rfl k).trans he
  have hfull : (s.barJoined r o ms).barFull (r.join o.id ms (s.th.logical, s.th.mq.next))
      ((r.barOf o.id ms).with (s.th.logical, s.th.mq.next)) = false := by
    refine List.all_eq_false.2 ⟨k, (r.barOf_with_members o.id ms _).symm ▸ hk, ?_⟩
    rw [hnone, hended]
    simp
  rw [State.closeBar_eq (barJoined_region? o ms hr), hfull]
  simp

/-- The last join completes the scoped barrier. -/
theorem barJoined_full (hown : r.ctxs[s.th.logical]? = some s.th.cid)
    (hall : ∀ k ∈ ms, k ≠ s.th.logical →
      (∃ j ∈ (r.barOf o.id ms).joined, j.1 = k) ∧ s.joinHere r k = true ∨ s.memberEnded r k = true) :
    let b := (r.barOf o.id ms).with (s.th.logical, s.th.mq.next)
    (s.barJoined r o ms).closeBar r.id b =
      (s.barJoined r o ms).completeBar r.id (r.join o.id ms (s.th.logical, s.th.mq.next)) b := by
  have hgo := goesOn_barJoined (s := s) (r := r) o ms
  have hb : (s.barJoined r o ms).th.status = .parked .barrier := congrArg Ctx.status (barJoined_th o ms)
  have hfull : (s.barJoined r o ms).barFull (r.join o.id ms (s.th.logical, s.th.mq.next))
      ((r.barOf o.id ms).with (s.th.logical, s.th.mq.next)) = true := by
    refine List.all_eq_true.2 fun k hk => ?_
    rw [Bool.or_eq_true, Bool.and_eq_true, List.any_eq_true]
    by_cases hn : k = s.th.logical
    · exact .inl ⟨⟨_, List.mem_append_right _ (List.mem_singleton.2 rfl), by simp [hn]⟩,
        hgo.joinHere_own (r := r) rfl hb (hn ▸ hown)⟩
    · refine (hall k (r.barOf_with_members o.id ms _ ▸ hk) hn).imp ?_ fun he => (hgo.memberEnded (r := r) rfl k).trans he
      rintro ⟨⟨j, hj, hjk⟩, hh⟩
      exact ⟨⟨j, List.mem_append_left _ hj, by simp [hjk]⟩, hgo.joinHere (r := r) rfl hb hh⟩
  dsimp only
  rw [State.closeBar_eq (barJoined_region? o ms hr), hfull, if_pos rfl, if_neg]
  simp [ScopedBar.with]

/-- What the joiner that completes a scoped barrier gets. -/
theorem barJoined_count (hw : s.th.wait = none) (hown : r.ctxs[s.th.logical]? = some s.th.cid)
    (hothers : ∀ j ∈ (r.barOf o.id ms).joined, r.ctxs[j.1]? ≠ some s.th.cid) (hfresh : ∀ p ∈ s.th.pend, p.id ≠ s.th.mq.next)
    (hall : ∀ k ∈ ms, k ≠ s.th.logical →
      (∃ j ∈ (r.barOf o.id ms).joined, j.1 = k) ∧ s.joinHere r k = true ∨ s.memberEnded r k = true) :
    let t := (s.barJoined r o ms).closeBar r.id ((r.barOf o.id ms).with (s.th.logical, s.th.mq.next))
    t.th.status = .ready ∧ lands s.th t.th (Machine.specG o.d) 0
      ((BitVec.ofNat 64 ((r.barOf o.id ms).count + 1)).zeroExtend 256) := by
  have hcid : (s.barJoined r o ms).th.cid = s.th.cid := (goesOn_barJoined (r := r) o ms).cid
  have hskip := State.passJoiners_other (s := s.barJoined r o ms) (n := (r.barOf o.id ms).count + 1)
    (r := r.join o.id ms (s.th.logical, s.th.mq.next)) (js := (r.barOf o.id ms).joined) (by rwa [hcid])
  obtain ⟨now, hth⟩ : ∃ now, ((s.barJoined r o ms).closeBar r.id ((r.barOf o.id ms).with (s.th.logical, s.th.mq.next))).th =
      (s.barJoined r o ms).th.passBar s.th.mq.next ((r.barOf o.id ms).count + 1) now := by
    rw [barJoined_full hr o ms hown hall, State.completeBar, State.updRegion_th]
    simp only [ScopedBar.with]
    rw [List.foldl_append, List.foldl_cons, List.foldl_nil, State.passJoiner_own (by rw [hskip, hcid]; exact hown), hskip]
    exact ⟨_, rfl⟩
  have hnone : s.th.pend.find? (fun p => p.id == s.th.mq.next) = none :=
    List.find?_eq_none.2 fun p hp => by simpa using hfresh p hp
  have hj := barJoined_th (s := s) (r := r) o ms
  have hpass := Ctx.passBar_waiting (id := s.th.mq.next) (pc := s.th.pc) (d := o.d) (congrArg Ctx.status hj)
    ((congrArg Ctx.wait hj).trans (s.th.retire_wait.trans hw)) (by
      rw [hj]
      dsimp only
      rw [List.find?_append, hnone, Option.none_or]
      exact List.find?_cons_of_pos (p := fun p : Pend => p.id == s.th.mq.next) (beq_self_eq_true _))
    ((r.barOf o.id ms).count + 1) now
  dsimp only
  rw [hth]
  exact hpass.imp_right (lands_congr ((congrArg Ctx.regs hj).trans s.th.retire_regs)
    ((congrArg Ctx.openW hj).trans s.th.retire_openW))

end

theorem barJoined_besides (s : State) (r : Region) (o : BarOp) (ms : List Nat) : (s.barJoined r o ms).besides = s.besides := rfl

/-- Settles O35: what a join waits for, and how the joins of a region and of a scope close their barriers. -/
theorem barrierJoins : Obligations.BarrierJoins := by
  intro h s r hp hreg hr
  have hfree := isFree_of_region hreg
  refine ⟨fun hf => ?_, fun hf o => ?_, fun hf hj => ?_, fun hf hj hopen => ?_, fun hf hj he hc hown hx hw hall => ?_,
    fun hf o => ⟨fun hs => ?_, fun hs hout hj => ?_, fun hs hout hj => ?_⟩⟩
  · exact faults_of_eq ((exec_sstep hp).trans (if_pos hf))
  · exact faults_of_eq ((exec_bar hp o).trans (onFree_fault hf _))
  · rw [exec_sstep hp, sstepRun, if_neg (by simp [hf]), onRegion_some hreg, if_pos (by simp [hj])]
    exact parkOut_waits s _
  · obtain ⟨k, hk, hn, hne, he⟩ := hopen
    rw [exec_sstep_joins hp hreg hf hj, joined_open hr hk hn hne he]
    rfl
  · refine ⟨_, exec_sstep_joins hp hreg hf hj, ?_⟩
    rw [joined_closes hr (hfree ▸ hf) hown hx hall]
    have hphase := Ctx.beginPhase_member (c := (s.joined r).th) (s.th.retire_region.trans (State.regionOf_id hreg))
      (s.th.retire_ended.trans he) (s.th.retire_completed.trans hc)
    rw [Ctx.wakeFrom_ready (c := (s.joined r).th) rfl (s.th.retire_wait.trans hw)] at hphase
    have hth := (State.computeBegin_th (s.joined r) { r with joined := r.joined ++ [s.th.logical] }).trans hphase
    refine ⟨memoryKept_of_besides (State.computeBegin_besides _ _), ?_, ?_, ?_,
      State.computeBegin_region? (joined_region? hr)⟩
    · rw [hth]
    · rw [hth]
      exact congrArg (fun sr => sr.ssnum + 1) s.th.retire_sr
    · rw [hth]
      exact s.th.retire_regs
  · rw [exec_bar hp, barChecked, onFree_free hf]
    exact faults_of_eq (by rw [scopeFault_bad hs]; rfl)
  · rw [exec_bar_checked hp hf hreg hs hout]
    exact if_pos (by simp [hj])
  · refine ⟨_, exec_bar_joins o hr hp hf hreg hs hout hj,
      memoryKept_of_besides ((State.closeBar_besides ..).trans (barJoined_besides ..)), fun hopen => ?_,
      fun _ _ hw hown hothers hfresh hall => barJoined_count hr o _ hw hown hothers hfresh hall⟩
    obtain ⟨k, hk, hn, he, hj⟩ := hopen
    rw [barJoined_open hr o _ hk hn he hj]
    exact barJoined_th o _

end Sys2Proof.Machine
end

section
/-!
Handles (R54, R55, R140, R281 to R286): reading and passing them, cancelling what they hold, and `fork`.
-/
namespace Sys2Proof.Machine
open Sys2Proof.Claims

/-! ### Lists of checks -/

theorem firstFault_none {α : Type} {f : α → Option Trap} {xs : List α} (h : ∀ x ∈ xs, f x = none) :
    firstFault (xs.map f) = none := by
  induction xs with
  | nil => rfl
  | cons x xs ih =>
    rw [List.map_cons, h x (by simp)]
    exact ih fun y hy => h y (by simp [hy])

/-- The fault of the first member of an ascending list that has one. -/
theorem firstFault_first {α : Type} [LT α] {f : α → Option Trap} {xs : List α} (hs : xs.Pairwise (· < ·)) {x : α} (hx : x ∈ xs)
    {t : Trap} (ht : f x = some t) (hlow : ∀ y ∈ xs, y < x → f y = none) : firstFault (xs.map f) = some t := by
  induction hs with
  | nil => simp at hx
  | @cons y ys hy _ ih =>
    rw [List.map_cons]
    obtain rfl | hmem := List.mem_cons.1 hx
    · rw [ht]
      rfl
    · rw [hlow y (by simp) (hy x hmem)]
      exact ih hmem fun z hz => hlow z (by simp [hz])

/-! ### Reads (R54, R55, R140) -/

theorem Ctx.retire_handle (c : Ctx) (i : BitVec 4) : c.retire.handle i = c.handle i := by
  rw [Ctx.retire_parts]
  rfl

theorem Ctx.handle_setHandle_same (c : Ctx) (i : BitVec 4) (x : Handle) : (c.setHandle i x).handle i = x :=
  get_set_same c.h i.isLt x i.toFin rfl
theorem Ctx.handle_setHandle_other (c : Ctx) {i j : BitVec 4} (h : j ≠ i) (x : Handle) :
    (c.setHandle i x).handle j = c.handle j :=
  get_set_other c.h i.isLt x j.toFin (toNat_ne h)

theorem Ctx.h_set_handle (c : Ctx) (i : BitVec 4) : c.h.set i.toNat (c.handle i) i.isLt = c.h :=
  Vector.set_getElem_self i.isLt

theorem Handle.resolved_eq (x : Handle) : x.resolved = isResolved x := by
  unfold Handle.resolved isResolved
  cases x.st <;> rfl

theorem emptyFault_empty {c : Ctx} {i : BitVec 4} (h : (c.handle i).st = .empty) :
    emptyFault c i = some ⟨cEmptyHandle, 0, i.zeroExtend 64⟩ := if_pos h
theorem emptyFault_held {c : Ctx} {i : BitVec 4} (h : (c.handle i).st ≠ .empty) : emptyFault c i = none := if_neg h
theorem busyFault_pending {c : Ctx} {i : BitVec 4} (h : (c.handle i).st = .pending) :
    busyFault c i = some ⟨cHandleBusy, 0, i.zeroExtend 64⟩ := if_pos h
theorem busyFault_free {c : Ctx} {i : BitVec 4} (h : (c.handle i).st ≠ .pending) : busyFault c i = none := if_neg h

theorem resolved_held {x : Handle} (h : isResolved x = true) : x.st ≠ .empty := (of_decide_eq_true h).1

/-- What a read of a handle changes: the mark that it has been read, and the digits of sr.afstat. -/
theorem Ctx.seeHandle_parts (c : Ctx) (i : BitVec 4) : c.seeHandle i = { c with
    h := if isResolved (c.handle i) then c.h.set i.toNat { c.handle i with seen := true } i.isLt else c.h
    sr := if isResolved (c.handle i) && !(c.handle i).seen && decide ((c.handle i).st = .done) then
      { c.sr with afstat := (c.handle i).res &&& 0xF } else c.sr } := by
  unfold Ctx.seeHandle
  dsimp only
  rw [Handle.resolved_eq]
  cases hr : isResolved (c.handle i) with
  | false => simp
  | true =>
    cases hs : (c.handle i).seen with
    | true =>
      have hx : { c.handle i with seen := true } = c.handle i := by rw [← hs]
      simp [hx, Ctx.h_set_handle]
    | false =>
      by_cases hd : (c.handle i).st = .done <;> simp [hd, Ctx.setHandle]

@[simp] theorem Ctx.seeHandle_regs (c : Ctx) (i : BitVec 4) : (c.seeHandle i).regs = c.regs := by rw [Ctx.seeHandle_parts]
@[simp] theorem Ctx.seeHandle_openW (c : Ctx) (i : BitVec 4) : (c.seeHandle i).openW = c.openW := by rw [Ctx.seeHandle_parts]
@[simp] theorem Ctx.seeHandle_pc (c : Ctx) (i : BitVec 4) : (c.seeHandle i).pc = c.pc := by rw [Ctx.seeHandle_parts]
@[simp] theorem Ctx.seeHandle_grp (c : Ctx) (i : BitVec 4) : (c.seeHandle i).grp = c.grp := by rw [Ctx.seeHandle_parts]
@[simp] theorem Ctx.seeHandle_loops (c : Ctx) (i : BitVec 4) : (c.seeHandle i).loops = c.loops := by rw [Ctx.seeHandle_parts]

theorem Ctx.handle_seeHandle {c : Ctx} {i : BitVec 4} (h : isResolved (c.handle i) = true) (j : BitVec 4) :
    (c.seeHandle i).handle j = { c.handle j with seen := (c.handle j).seen || decide (j = i) } := by
  rw [Ctx.seeHandle_parts, if_pos h]
  by_cases hj : j = i
  · subst hj
    rw [decide_eq_true rfl, Bool.or_true]
    exact c.handle_setHandle_same j _
  · rw [decide_eq_false hj, Bool.or_false]
    exact c.handle_setHandle_other hj _

/-- A read gives its word, and marks a resolved handle as read. -/
theorem readsHandle_see (s : State) (i : BitVec 4) (d : BitVec 6) (x : Word) :
    readsHandle s (.next (s.mapTh fun c => ((c.seeHandle i).resG d 0 x).retire)) i d x := by
  have hsee := s.th.seeHandle_parts i
  obtain ⟨R, W, hres⟩ : ∃ R W, (s.th.seeHandle i).resG d 0 x = { s.th.seeHandle i with regs := R, openW := W } :=
    ⟨_, _, Ctx.result_only ..⟩
  obtain ⟨t, ht, honly, hmem, hadv, hth⟩ := completes_mapTh (s := s) (f := fun c => (c.seeHandle i).resG d 0 x)
    (by simp) (by simp) (by simp)
  refine ⟨t, ht, honly, hmem, hadv, ?_, ?_⟩
  · rw [hth]
    exact lands_congr (Ctx.seeHandle_regs ..) (Ctx.seeHandle_openW ..) (Ctx.resG_lands (s.th.seeHandle i) d 0 x)
  · dsimp only at hth
    rw [hres, hsee] at hth
    have hregs : t.th.regs = R := by rw [hth]
    have hopen : t.th.openW = W := by rw [hth]
    rw [hregs, hopen]
    exact hth

/-! ### rdv (R284) -/

theorem mem_maskHandles {m : BitVec 16} {i : BitVec 4} : i ∈ maskHandles m ↔ m.getLsbD i.toNat = true := by
  have hi : i.toNat < 16 := i.isLt
  unfold maskHandles
  simp only [List.mem_map, List.mem_filter, List.mem_range]
  refine ⟨?_, fun h => ⟨i.toNat, ⟨hi, h⟩, by simp⟩⟩
  rintro ⟨n, ⟨hn, hm⟩, rfl⟩
  rwa [BitVec.toNat_ofNat, Nat.mod_eq_of_lt hn]

theorem maskHandles_ascending (m : BitVec 16) : (maskHandles m).Pairwise (· < ·) := by
  unfold maskHandles
  rw [List.pairwise_map]
  refine (List.pairwise_lt_range.filter _).imp_of_mem fun {a b} ha hb hab => ?_
  have ha' := List.mem_range.1 (List.mem_filter.1 ha).1
  have hb' := List.mem_range.1 (List.mem_filter.1 hb).1
  rw [BitVec.lt_def, BitVec.toNat_ofNat, BitVec.toNat_ofNat]
  omega

/-- Reading resolved handles marks each of them. -/
theorem Ctx.handle_foldl_see {c : Ctx} {is : List (BitVec 4)} (h : ∀ i ∈ is, isResolved (c.handle i) = true) (j : BitVec 4) :
    (is.foldl Ctx.seeHandle c).handle j = { c.handle j with seen := (c.handle j).seen || decide (j ∈ is) } := by
  induction is generalizing c with
  | nil => simp
  | cons i is ih =>
    have hi := Ctx.handle_seeHandle (h i (by simp))
    have hrest : ∀ k ∈ is, isResolved ((c.seeHandle i).handle k) = true := by
      intro k hk
      rw [hi]
      exact h k (by simp [hk])
    rw [List.foldl_cons, ih hrest, hi]
    simp [Bool.or_assoc]

/-- `rdv` with its predicate on. -/
def rdvRun (o : Rdv) (s : State) : Out :=
  let hs := maskHandles o.mask
  match firstFault (hs.map (emptyFault s.th)) with
  | some t => faultOut s t
  | none =>
    if hs.all fun i => (s.th.handle i).resolved then .next (s.mapTh fun c => (hs.foldl Ctx.seeHandle c.run).retire)
    else parkOut s .handle

theorem exec_rdv {h : Hdr} {s : State} (hp : predOn h s.th.regs = true) (o : Rdv) : exec (.rdv h o) s = rdvRun o s :=
  have hrun : exec (.rdv h o) s = onPred h (rdvRun o) s := rfl
  hrun.trans (onPred_on hp)

theorem rdvRun_held {o : Rdv} {s : State} (h : ∀ i, o.mask.getLsbD i.toNat = true → (hand s i).st ≠ .empty) : rdvRun o s =
    if (maskHandles o.mask).all fun i => (s.th.handle i).resolved then
      .next (s.mapTh fun c => ((maskHandles o.mask).foldl Ctx.seeHandle c.run).retire)
    else parkOut s .handle := by
  rw [rdvRun, firstFault_none fun i hi => emptyFault_held (h i (mem_maskHandles.1 hi))]

theorem rdv_reads {o : Rdv} {s : State} (hall : ∀ i, o.mask.getLsbD i.toNat = true → isResolved (hand s i) = true) :
    goesTo (rdvRun o s) fun t => onlyContext s t ∧ memoryKept s t ∧ advances s t ∧ t.th.regs = s.th.regs ∧
      t.th.openW = s.th.openW ∧ ∀ i, hand t i = { hand s i with seen := (hand s i).seen || o.mask.getLsbD i.toNat } := by
  have hdone : (maskHandles o.mask).all (fun i => (s.th.handle i).resolved) = true :=
    List.all_eq_true.2 fun i hi => (Handle.resolved_eq _).trans (hall i (mem_maskHandles.1 hi))
  rw [rdvRun_held fun i hi => resolved_held (hall i hi), if_pos hdone]
  have hkeep {α : Type} {proj : Ctx → α} (h : ∀ c i, proj (Ctx.seeHandle c i) = proj c) :
      proj ((maskHandles o.mask).foldl Ctx.seeHandle s.th.run) = proj s.th.run := foldl_keeps h _ _
  refine ⟨_, rfl, rfl, fun _ => rfl, advances_retire rfl (hkeep Ctx.seeHandle_pc) (hkeep Ctx.seeHandle_grp)
    (hkeep Ctx.seeHandle_loops), (Ctx.retire_regs _).trans (hkeep Ctx.seeHandle_regs),
    (Ctx.retire_openW _).trans (hkeep Ctx.seeHandle_openW), fun i => ?_⟩
  refine (Ctx.retire_handle _ i).trans
    ((Ctx.handle_foldl_see (c := s.th.run) (fun j hj => hall j (mem_maskHandles.1 hj)) i).trans ?_)
  have hmem : decide (i ∈ maskHandles o.mask) = o.mask.getLsbD i.toNat := by
    rw [Bool.eq_iff_iff, decide_eq_true_iff]
    exact mem_maskHandles
  rw [hmem]
  rfl

theorem rdv_waits {o : Rdv} {s : State} (hheld : ∀ i, o.mask.getLsbD i.toNat = true → (hand s i).st ≠ .empty)
    (hpend : ∃ i : BitVec 4, o.mask.getLsbD i.toNat = true ∧ (hand s i).st = .pending) : waits s (rdvRun o s) .handle := by
  obtain ⟨i, hi, hp⟩ := hpend
  have hnot : (maskHandles o.mask).all (fun i => (s.th.handle i).resolved) = false := by
    refine List.all_eq_false.2 ⟨i, mem_maskHandles.2 hi, ?_⟩
    have hst : (s.th.handle i).st = .pending := hp
    simp [Handle.resolved, hst]
  rw [rdvRun_held hheld, hnot]
  exact parkOut_waits s _

theorem rdv_faults {o : Rdv} {s : State} {i : BitVec 4} (hi : o.mask.getLsbD i.toNat = true) (he : (hand s i).st = .empty)
    (hlow : ∀ j < i, o.mask.getLsbD j.toNat = true → (hand s j).st ≠ .empty) :
    faults s (rdvRun o s) 0x19 0 (i.zeroExtend 64) := by
  refine faults_of_eq ?_
  rw [rdvRun, firstFault_first (maskHandles_ascending _) (mem_maskHandles.2 hi) (emptyFault_empty he) fun j hj hlt =>
    emptyFault_held (hlow j hlt (mem_maskHandles.1 hj))]
  rfl

/-! ### Reading one word (R55, R281, R282) -/

/-- A read of a word of a handle, its predicate on. -/
def handleReadRun (o : HRd) (word : Handle → Word) (s : State) : Out :=
  match emptyFault s.th o.hs with
  | some t => faultOut s t
  | none =>
    let x := s.th.handle o.hs
    if x.resolved then .next (s.mapTh fun c => ((c.run.seeHandle o.hs).resG o.d 0 (word x)).retire)
    else parkOut s .handle

theorem handleRead_eq {h : Hdr} {s : State} (hp : predOn h s.th.regs = true) (o : HRd) (word : Handle → Word) :
    handleRead h o word s = handleReadRun o word s :=
  have hrun : handleRead h o word s = onPred h (handleReadRun o word) s := rfl
  hrun.trans (onPred_on hp)

theorem State.mapTh_congr {s : State} {f g : Ctx → Ctx} (h : f s.th = g s.th) : s.mapTh f = s.mapTh g := by
  rw [State.mapTh, h]
  rfl

/-- A running context that runs on is the same context. -/
theorem State.mapTh_run {s : State} (h : s.th.status = .running) (f : Ctx → Ctx) :
    s.mapTh (fun c => f c.run) = s.mapTh f := by
  have hrun : s.th.run = s.th := by rw [Ctx.run, ← h]
  show { s with th := f s.th.run } = s.mapTh f
  rw [hrun]
  rfl

theorem handleReadRun_reads {s : State} (hrun : s.th.status = .running) (o : HRd) (word : Handle → Word) :
    ((hand s o.hs).st = .empty → faults s (handleReadRun o word s) 0x19 0 (o.hs.zeroExtend 64)) ∧
    ((hand s o.hs).st = .pending → waits s (handleReadRun o word s) .handle) ∧
    (isResolved (hand s o.hs) = true → readsHandle s (handleReadRun o word s) o.hs o.d (word (hand s o.hs))) := by
  refine ⟨fun he => ?_, fun hp => ?_, fun hr => ?_⟩
  · refine faults_of_eq ?_
    rw [handleReadRun, emptyFault_empty he]
    rfl
  · have hheld : (s.th.handle o.hs).st = .pending := hp
    rw [handleReadRun, emptyFault_held (by rw [hheld]; decide)]
    refine if_neg ?_
    simp [Handle.resolved, hheld]
  · have hdone : (s.th.handle o.hs).resolved = true := (Handle.resolved_eq _).trans hr
    rw [handleReadRun, emptyFault_held (resolved_held hr)]
    dsimp only
    rw [if_pos hdone, State.mapTh_run hrun fun c => ((c.seeHandle o.hs).resG o.d 0 _).retire]
    exact readsHandle_see ..

/-! ### Queues and cancelling (R97, R286) -/

theorem Ctx.queue_mapQ (c : Ctx) (p : Nat) (f : List Entry → List Entry) {q : Nat} (hq : q < 8) :
    (c.mapQ p f).queue q = if q = p then f (c.queue q) else c.queue q := by
  simp [Ctx.queue, Ctx.mapQ, hq]

/-- A change to each queue in turn reaches every queue once. -/
theorem Ctx.queue_mapQs (c : Ctx) (f : List Entry → List Entry) (n : Nat) {q : Nat} (hq : q < 8) :
    ((List.range n).foldl (fun c p => c.mapQ p f) c).queue q = if q < n then f (c.queue q) else c.queue q := by
  induction n with
  | zero => rfl
  | succ n ih =>
    rw [List.range_succ, List.foldl_append, List.foldl_cons, List.foldl_nil, Ctx.queue_mapQ _ _ _ hq, ih]
    by_cases hn : q = n
    · simp [hn]
    · have hlt : q < n + 1 ↔ q < n := by omega
      simp [hn, hlt]

theorem Ctx.retire_queue (c : Ctx) (q : Nat) : c.retire.queue q = c.queue q := by
  rw [Ctx.retire_parts]
  rfl

theorem State.withdraw_th (s : State) (op : Nat) : (s.withdraw op).th = s.th := by
  unfold State.withdraw
  split <;> rfl
theorem State.withdraw_mem (s : State) (op : Nat) : (s.withdraw op).mem = s.mem := by
  unfold State.withdraw
  split <;> rfl
theorem State.withdraw_net (s : State) (op : Nat) : (s.withdraw op).net = s.net := by
  unfold State.withdraw
  split <;> rfl

/-- The cancellation of an operation of the context in turn, without what the plane and the swarms note. -/
theorem State.cancelOp_own {s : State} {op : Nat} (h : op % 2 ^ 32 = s.th.cid) :
    (s.cancelOp op).th = (List.range 8).foldl (fun c q => c.mapQ q (updateAll (fun e => e.op == op) (Entry.cancelled s))) s.th ∧
      (s.cancelOp op).mem = s.mem ∧ (s.cancelOp op).net = s.net := by
  unfold State.cancelOp
  dsimp only
  rw [h, s.ctx?_th]
  refine ⟨?_, s.withdraw_mem op, s.withdraw_net op⟩
  dsimp only [State.updCtx]
  rw [State.withdraw_th, if_pos rfl]

/-- The cancellation of a copy that waits: its entry resolves. -/
theorem cancelOp_copy {s : State} {op q : Nat} {e : Entry} (hcid : op % 2 ^ 32 = s.th.cid) (hq : q < 8)
    (hqueue : s.th.queue q = [e]) (hop : e.op = op) (hw : e.course = .waiting) (hc : ∃ c, e.work = .copy c) :
    (s.cancelOp op).retire.th.queue q = [{ e with course := .done .cancelled 0 0 }] ∧ memoryKept s (s.cancelOp op).retire := by
  obtain ⟨hth, hmem, hnet⟩ := State.cancelOp_own hcid
  obtain ⟨c, hc⟩ := hc
  have hdrop : Entry.cancelled s e = { e with course := .done .cancelled 0 0 } := by
    rw [Entry.cancelled, hw, hc]
  refine ⟨?_, fun a => ?_⟩
  · show (s.cancelOp op).th.retire.queue q = _
    rw [Ctx.retire_queue, hth, Ctx.queue_mapQs _ _ _ hq, if_pos hq, hqueue]
    simp [updateAll, hop, hdrop]
  · show (throughWq (s.cancelOp op).mem (s.cancelOp op).net.wq).get _ = _
    rw [hmem, hnet]
    rfl

theorem exec_hcancel {h : Hdr} {s : State} (hp : predOn h s.th.regs = true) (o : HOp) : exec (.hcancel h o) s =
    if (hand s o.h).st = .pending then .next (s.cancelOp (hand s o.h).op).retire else .next s.retire := by
  have hrun : exec (.hcancel h o) s = onPred h (fun s =>
    if (s.th.handle o.h).st = .pending then .next (s.cancelOp (s.th.handle o.h).op).retire else .next s.retire) s := rfl
  rw [hrun, onPred_on hp]
  rfl

/-! ### fork (R282, R283) -/

/-- `fork` with its predicate on. -/
def forkRun (o : ForkOp) (s : State) : Out :=
  let R := s.th.regs
  match firstFault [o.gm.bind fun _ => busyFault s.th o.hm, o.gc.bind fun _ => busyFault s.th o.hc,
      o.gm.bind fun g => alignFault (R.gr g) 64, o.gc.bind fun g => alignFault (R.gr g) 64] with
  | some t => faultOut s t
  | none =>
    if !s.th.pend.isEmpty then parkOut s .drain
    else .next (s.mapTh fun c => ((c.run.forkOne true R o.gm o.hm s.now).forkOne false R o.gc o.hc s.now).retire)

theorem exec_fork {h : Hdr} {s : State} (hp : predOn h s.th.regs = true) (o : ForkOp) : exec (.fork h o) s = forkRun o s :=
  have hrun : exec (.fork h o) s = onPred h (forkRun o) s := rfl
  hrun.trans (onPred_on hp)

/-- The context with an entry added to an engine queue, its handle PENDING, in the words of R97. -/
theorem Ctx.enqueue_eq (c : Ctx) (q : Nat) (i : BitVec 4) (w : Work) (now : Nat) : c.enqueue q (some i) w now = { c with
    eq := Vector.ofFn fun k : Fin 8 => if k.val = q then
      c.eq.get k ++ [⟨c.nextOp * 4294967296 + c.cid, c.mq.next, w, .waiting, false, now, none, false⟩] else c.eq.get k
    h := c.h.set i.toNat ⟨.pending, 0, 0, c.nextOp * 4294967296 + c.cid, true⟩ i.isLt
    nextOp := c.nextOp + 1
    mq := { c.mq with next := c.mq.next + 1 } } := rfl

theorem Ctx.queue_enqueue (c : Ctx) (p : Nat) (i : BitVec 4) (w : Work) (now : Nat) {q : Nat} (hq : q < 8) :
    (c.enqueue p (some i) w now).queue q = if q = p then
      c.queue q ++ [⟨c.nextOp * 4294967296 + c.cid, c.mq.next, w, .waiting, false, now, none, false⟩] else c.queue q := by
  have hmap := c.queue_mapQ p (· ++ [⟨c.nextOp * 4294967296 + c.cid, c.mq.next, w, .waiting, false, now, none, false⟩]) hq
  rw [Ctx.enqueue_eq]
  unfold Ctx.queue at hmap ⊢
  exact hmap

theorem Ctx.enqueue_pending (c : Ctx) (p : Nat) (i : BitVec 4) (w : Work) (now : Nat) :
    ((c.enqueue p (some i) w now).handle i).st = .pending := by
  have h := c.handle_setHandle_same i ⟨.pending, 0, 0, c.nextOp * 4294967296 + c.cid, true⟩
  rw [Ctx.enqueue_eq]
  exact congrArg Handle.st h

theorem Ctx.enqueue_keeps_pending {c : Ctx} {j : BitVec 4} (hj : (c.handle j).st = .pending) (p : Nat) (i : BitVec 4) (w : Work)
    (now : Nat) : ((c.enqueue p (some i) w now).handle j).st = .pending := by
  by_cases hi : j = i
  · rw [hi]
    exact c.enqueue_pending ..
  · have h := c.handle_setHandle_other hi ⟨.pending, 0, 0, c.nextOp * 4294967296 + c.cid, true⟩
    rw [Ctx.enqueue_eq]
    exact (congrArg Handle.st h).trans hj

/-- An entry that joins its queue. -/
theorem enqueues_mapTh {s : State} (hrun : s.th.status = .running) (q : Nat) (i : BitVec 4) (w : Work) :
    enqueues s (.next (s.mapTh fun c => (c.run.enqueue q (some i) w s.now).retire)) id q (some i) w .waiting := by
  rw [State.mapTh_run hrun fun c => (c.enqueue q (some i) w s.now).retire]
  have hdone := completes_mapTh (s := s) (f := fun c => c.enqueue q (some i) w s.now) (by rw [Ctx.enqueue_eq])
    (by rw [Ctx.enqueue_eq]) (by rw [Ctx.enqueue_eq])
  simp only [Ctx.enqueue_eq] at hdone ⊢
  exact hdone

/-! ### hpass (R285) -/

/-- `hpass` to logical cell `k`, which its sender may send to. -/
def passTo (o : HPass) (r : Region) (k : Nat) (s : State) : Out :=
  if k = s.th.logical then
    if o.hd = o.hs then .next s.retire
    else
      match busyFault s.th o.hd with
      | some t => faultOut s t
      | none => .next (s.mapTh fun c => (c.moveHandle o.hs o.hd).retire)
  else .next (s.mapTh fun c => ((c.post r k 0 (.handle (c.handle o.hs) o.hd) .plain).setHandle o.hs .reset).retire)

/-- `hpass` after its check on determinism, its predicate on. -/
def hpassRun (o : HPass) : State → Out :=
  onFree fun s =>
    match emptyFault s.th o.hs with
    | some t => faultOut s t
    | none => onRegion (fun r s =>
      let k := (s.th.regs.gr o.r).toNat % 65536
      if r.map.length ≤ k then faultOut s ⟨cBound, 0, BitVec.ofNat 64 k⟩
      else if !r.channelOk s.th.logical k then faultOut s ⟨cChannel, 0, BitVec.ofNat 64 k⟩
      else passTo o r k s) s

theorem exec_hpass {h : Hdr} {s : State} (hp : predOn h s.th.regs = true) (o : HPass)
    (hd : detLevel s.th < 2 ∨ (s.th.regs.gr o.r).toNat % 65536 = s.th.logical) : exec (.hpass h o) s = hpassRun o s := by
  have hrun : exec (.hpass h o) s =
      onDet 2 (fun s => s.isFree s.th && (s.th.regs.gr o.r).toNat % 2 ^ 16 != s.th.logical) (onPred h (hpassRun o)) s := rfl
  rw [hrun, onDet_pass, onPred_on hp]
  obtain hd | hd := hd
  · simp [hd]
  · simp [hd]

theorem hpassRun_empty {o : HPass} {s : State} (hf : s.isFree s.th = true) (he : (hand s o.hs).st = .empty) :
    faults s (hpassRun o s) 0x19 0 (o.hs.zeroExtend 64) := by
  refine faults_of_eq ?_
  rw [hpassRun, onFree_free hf, emptyFault_empty he]
  rfl

/-- `hpass` to a cell of the region that its sender may send to. -/
theorem hpassRun_allowed {o : HPass} {s : State} {r : Region} (hf : s.isFree s.th = true) (hr : s.regionOf s.th = some r)
    (he : (hand s o.hs).st ≠ .empty) (hk : (s.th.regs.gr o.r).toNat % 65536 < r.map.length)
    (hch : r.channelOk s.th.logical ((s.th.regs.gr o.r).toNat % 65536) = true) :
    hpassRun o s = passTo o r ((s.th.regs.gr o.r).toNat % 65536) s := by
  rw [hpassRun, onFree_free hf, emptyFault_held he]
  dsimp only
  rw [onRegion_some hr, if_neg (Nat.not_le.2 hk), hch]
  rfl

theorem passTo_moves {o : HPass} {r : Region} {k : Nat} {s : State} (hk : k = s.th.logical) (hne : o.hd ≠ o.hs)
    (hb : (hand s o.hd).st ≠ .pending) : completes s (passTo o r k s) fun c => { c with
      h := (c.h.set o.hd.toNat (hand s o.hs) o.hd.isLt).set o.hs.toNat .reset o.hs.isLt } := by
  have hmove (c : Ctx) : c.moveHandle o.hs o.hd = { c with
      h := (c.h.set o.hd.toNat (c.handle o.hs) o.hd.isLt).set o.hs.toNat .reset o.hs.isLt } := if_neg (Ne.symm hne)
  rw [passTo, if_pos hk, if_neg hne, busyFault_free hb]
  simp only [hmove]
  exact completes_mapTh (s := s) (f := fun c => { c with
    h := (c.h.set o.hd.toNat (c.handle o.hs) o.hd.isLt).set o.hs.toNat .reset o.hs.isLt }) rfl rfl rfl

theorem passTo_sends {o : HPass} {r : Region} {k : Nat} {s : State} (hk : k ≠ s.th.logical) :
    completes s (passTo o r k s) fun c => { c with
      mq := { c.mq with next := c.mq.next + 1, iq := c.mq.iq ++ [⟨c.mq.next, .cell (r.map.getD k 0), 0, 0,
        ⟨false, none⟩, .mail (r.ctxs.getD k 0) ⟨BitVec.ofNat 16 c.logical, 0, .handle (hand s o.hs) o.hd, c.mq.next⟩, false, []⟩] }
      mail := { c.mail with sent := c.mail.sent + 1, flag := true }
      h := c.h.set o.hs.toNat .reset o.hs.isLt } := by
  rw [passTo, if_neg hk]
  exact completes_mapTh (s := s) (f := fun c => (c.post r k 0 (.handle (c.handle o.hs) o.hd) .plain).setHandle o.hs .reset)
    rfl rfl rfl

/-! ### The obligation -/

theorem forks {s : State} (hrun : s.th.status = .running) (o : ForkOp) :
    let R := s.th.regs
    (∀ g, o.gm = some g → busy s (forkRun o s) o.hm) ∧
    (∀ g, o.gm = none → o.gc = some g → busy s (forkRun o s) o.hc) ∧
    (∀ g, o.gm = some g → o.gc = none → (hand s o.hm).st ≠ .pending →
      ((R.gr g).toNat % 64 ≠ 0 → faults s (forkRun o s) 0x14 0 (R.gr g)) ∧
      ((R.gr g).toNat % 64 = 0 → s.th.pend ≠ [] → waits s (forkRun o s) .drain) ∧
      ((R.gr g).toNat % 64 = 0 → s.th.pend = [] →
        enqueues s (forkRun o s) id 4 (some o.hm) (.prog true ⟨R, R.gr g, 0, none, none, none⟩) .waiting)) ∧
    (∀ g, o.gm = none → o.gc = some g → (hand s o.hc).st ≠ .pending → (R.gr g).toNat % 64 = 0 → s.th.pend = [] →
      enqueues s (forkRun o s) id 5 (some o.hc) (.prog false ⟨R, R.gr g, 0, none, none, none⟩) .waiting) ∧
    ∀ g g', o.gm = some g → o.gc = some g' → (hand s o.hm).st ≠ .pending → (hand s o.hc).st ≠ .pending →
      (R.gr g).toNat % 64 = 0 → (R.gr g').toNat % 64 = 0 → s.th.pend = [] → goesTo (forkRun o s) fun t =>
        onlyContext s t ∧ memoryKept s t ∧ advances s t ∧ t.th.regs = R ∧ t.th.queue 4 = s.th.queue 4 ++
          [⟨s.th.nextOp * 4294967296 + s.th.cid, s.th.mq.next, .prog true ⟨R, R.gr g, 0, none, none, none⟩, .waiting,
            false, s.now, none, false⟩] ∧
        t.th.queue 5 = s.th.queue 5 ++ [⟨(s.th.nextOp + 1) * 4294967296 + s.th.cid, s.th.mq.next + 1,
          .prog false ⟨R, R.gr g', 0, none, none, none⟩, .waiting, false, s.now, none, false⟩] ∧
        (hand t o.hc).st = .pending ∧ (hand t o.hm).st = .pending := by
  intro R
  refine ⟨fun g hm hb => faults_of_eq ?_, fun g hm hc hb => faults_of_eq ?_, fun g hm hc hb => ⟨fun ha => faults_of_eq ?_,
    fun ha hpend => ?_, fun ha hpend => ?_⟩, fun g hm hc hb ha hpend => ?_, fun g g' hm hc hb hb' ha ha' hpend => ?_⟩
  all_goals unfold forkRun; simp only [*, Option.bind_some, Option.bind_none]
  · rw [busyFault_pending hb]
    rfl
  · rw [busyFault_pending hb]
    rfl
  · rw [busyFault_free hb, alignFault_bad ha]
    rfl
  · rw [busyFault_free hb, alignFault_ok ha]
    exact if_pos (by simp [hpend])
  · rw [busyFault_free hb, alignFault_ok ha]
    exact enqueues_mapTh hrun 4 o.hm _
  · rw [busyFault_free hb, alignFault_ok ha]
    exact enqueues_mapTh hrun 5 o.hc _
  · rw [busyFault_free hb, busyFault_free hb', alignFault_ok ha, alignFault_ok ha']
    dsimp only [firstFault]
    rw [List.isEmpty_nil, Bool.not_true, if_neg Bool.false_ne_true, State.mapTh_run hrun fun c =>
      ((c.forkOne true s.th.regs (some g) o.hm s.now).forkOne false s.th.regs (some g') o.hc s.now).retire]
    obtain ⟨c, hc⟩ : ∃ c, c = s.th.enqueue 4 (some o.hm) (forkWork true R (R.gr g)) s.now := ⟨_, rfl⟩
    obtain ⟨d, hd⟩ : ∃ d, d = c.enqueue 5 (some o.hc) (forkWork false R (R.gr g')) s.now := ⟨_, rfl⟩
    have hc' := hc.trans (Ctx.enqueue_eq ..)
    have hd' := hd.trans (Ctx.enqueue_eq ..)
    have hdth : (s.th.forkOne true s.th.regs (some g) o.hm s.now).forkOne false s.th.regs (some g') o.hc s.now = d := by
      rw [hd, hc]
      rfl
    rw [State.mapTh, hdth]
    have hm4 := s.th.queue_enqueue 4 o.hm (forkWork true R (R.gr g)) s.now (q := 4) (by decide)
    have hm5 := s.th.queue_enqueue 4 o.hm (forkWork true R (R.gr g)) s.now (q := 5) (by decide)
    have hc4 := c.queue_enqueue 5 o.hc (forkWork false R (R.gr g')) s.now (q := 4) (by decide)
    have hc5 := c.queue_enqueue 5 o.hc (forkWork false R (R.gr g')) s.now (q := 5) (by decide)
    refine ⟨_, rfl, rfl, fun _ => rfl, advances_retire rfl ?_ ?_ ?_, ?_, ?_, ?_, ?_, ?_⟩
    · rw [hd', hc']
    · rw [hd', hc']
    · rw [hd', hc']
    · refine d.retire_regs.trans ?_
      rw [hd', hc']
    · refine (d.retire_queue 4).trans ?_
      rw [hd, hc4, if_neg (by decide), hc, hm4]
      rfl
    · refine (d.retire_queue 5).trans ?_
      rw [hd, hc5, if_pos rfl, hc', ← hc', hc, hm5]
      rfl
    · refine (congrArg Handle.st (d.retire_handle o.hc)).trans ?_
      rw [hd]
      exact Ctx.enqueue_pending ..
    · refine (congrArg Handle.st (d.retire_handle o.hm)).trans ?_
      rw [hd, hc]
      exact Ctx.enqueue_keeps_pending (Ctx.enqueue_pending ..) ..

/-- Settles O43: what each form does with the handle that it names, its predicate on. -/
theorem handles : Obligations.Handles := by
  intro h s hp hrun
  refine ⟨fun o => ?_, fun p hmem o => ?_, fun o => ⟨fun hall => ?_, fun hheld hpend => ?_, fun i hi he hlow => ?_⟩,
    fun o hn => ?_, fun o hpend => ?_, fun o q e hpend _ hcid hq hqueue hop hw hc => ?_, fun o => ?_, fun r hr hf o =>
    ⟨fun hl he => ?_, fun he hk hch hown => ⟨fun hsame => ?_, fun hne hb => ?_, fun hne hb => ?_⟩, fun hl he hk hch hother => ?_⟩⟩
  · have htest : exec (.htest h o) s = onPred h (fun s => .next (s.mapTh fun c =>
      ((c.seeHandle o.hs).resG o.d 0 (BitVec.ofNat 64 (c.handle o.hs).st.code)).retire)) s := rfl
    rw [htest, onPred_on hp]
    have hsee := readsHandle_see s o.hs o.d (BitVec.ofNat 64 (s.th.handle o.hs).st.code)
    rw [State.mapTh_congr (g := fun c =>
      ((c.seeHandle o.hs).resG o.d 0 (BitVec.ofNat 64 (s.th.handle o.hs).st.code)).retire) rfl]
    convert hsee using 1
    show _ = BitVec.ofNat 64 (hand s o.hs).st.code
    cases (hand s o.hs).st <;> rfl
  · have hread : exec (p.1 h o) s = handleReadRun o p.2 s := by
      simp only [List.mem_cons, List.not_mem_nil, or_false] at hmem
      obtain rfl | rfl := hmem
      · exact handleRead_eq hp o Handle.res
      · exact handleRead_eq hp o Handle.det
    rw [hread]
    exact handleReadRun_reads hrun o p.2
  · exact exec_rdv hp o ▸ rdv_reads hall
  · exact exec_rdv hp o ▸ rdv_waits hheld hpend
  · exact exec_rdv hp o ▸ rdv_faults hi he hlow
  · exact (exec_hcancel hp o).trans (if_neg hn)
  · exact (exec_hcancel hp o).trans (if_pos hpend)
  · rw [exec_hcancel hp, if_pos hpend]
    exact ⟨_, rfl, cancelOp_copy hcid hq hqueue hop hw hc⟩
  · rw [exec_fork hp]
    exact forks hrun o
  · rw [exec_hpass hp o (.inl hl)]
    exact hpassRun_empty hf he
  · rw [exec_hpass hp o (.inr hown), hpassRun_allowed hf hr he hk hch]
    exact (if_pos hown).trans (if_pos hsame)
  · rw [exec_hpass hp o (.inr hown), hpassRun_allowed hf hr he hk hch]
    exact faults_of_eq ((if_pos hown).trans ((if_neg hne).trans (by rw [busyFault_pending hb]; rfl)))
  · rw [exec_hpass hp o (.inr hown), hpassRun_allowed hf hr he hk hch]
    exact passTo_moves hown hne hb
  · rw [exec_hpass hp o (.inl hl), hpassRun_allowed hf hr he hk hch]
    exact passTo_sends hother

end Sys2Proof.Machine
end

section
/-!
A step and the instruction that it decodes (R175 to R180, R188): a group of one slot begins, or its next slot runs.
-/
namespace Sys2Proof.Machine
open Sys2Proof.Claims

/-! ### The slot of a program counter (R173, R175) -/

theorem slotOf_lt {pc : Word} (h : slotOf pc < 5) :
    pc.toNat % 64 % 12 = 0 ∧ pc.toNat % 64 < 60 ∧ slotOf pc = pc.toNat % 64 / 12 := by
  unfold slotOf at h ⊢
  split at h
  · next hslot => exact ⟨hslot.1, hslot.2, if_pos hslot⟩
  · omega

/-- A slot address is the address of its line and its slot number. -/
theorem slotAddr_lineAddr {pc : Word} (h : slotOf pc < 5) : slotAddr (lineAddr pc) (slotOf pc) = pc := by
  obtain ⟨hdvd, hlt, hslot⟩ := slotOf_lt h
  have hpc := pc.isLt
  rw [slotAddr, lineAddr, hslot]
  apply BitVec.eq_of_toNat_eq
  rw [BitVec.toNat_add, BitVec.toNat_ofNat, BitVec.toNat_ofNat]
  omega

theorem majorOf_slot (w : Nat) : (majorOf (BitVec.ofNat 96 w)).toNat = slotMajor w := by
  show (BitVec.extractLsb' 88 8 (BitVec.ofNat 96 w)).toNat = bitsAt w 88 8
  rw [BitVec.extractLsb'_toNat, BitVec.toNat_ofNat]
  exact bitsAt_mod (by decide)

theorem privilegedWord_none {lv : Level} {w : Nat}
    (h : ¬ (lv = .user ∧ (majorOf (BitVec.ofNat 96 w) = 0xA2 ∨ majorOf (BitVec.ofNat 96 w) = 0xA3))) :
    privilegedWord lv w = none := by
  refine if_neg fun ⟨hu, hw⟩ => h ⟨hu, hw.imp (fun e => ?_) fun e => ?_⟩
  all_goals exact BitVec.eq_of_toNat_eq ((majorOf_slot w).trans e)

theorem decodeSlot_ok {lv : Level} {pc : Word} {w : Nat} {i : Instr}
    (hp : ¬ (lv = .user ∧ (majorOf (BitVec.ofNat 96 w) = 0xA2 ∨ majorOf (BitVec.ofNat 96 w) = 0xA3)))
    (hd : decode (BitVec.ofNat 96 w) = .ok i) : decodeSlot lv pc w = .ok ⟨pc, BitVec.ofNat 96 w, i⟩ := by
  rw [decodeSlot, privilegedWord_none hp]
  dsimp only
  rw [hd]

/-! ### Groups of one slot -/

/-- The slot that stands alone in the group at a program counter. -/
def aloneSlot (pc : Word) (line : List Byte) (i : Instr) : SlotInstr :=
  ⟨pc, BitVec.ofNat 96 (slotWord line (slotOf pc)), i⟩

section
variable {pc : Word} {line : List Byte} (hk : slotOf pc < 5) (hlast : groupLast (lineStops (lineWord line)) (slotOf pc) = slotOf pc)
include hlast

theorem lineSlots_alone : lineSlots (lineAddr pc) line (slotOf pc) =
    [(slotAddr (lineAddr pc) (slotOf pc), slotWord line (slotOf pc))] := by
  rw [lineSlots, hlast, Nat.add_sub_cancel_left]
  simp

theorem lineParity_alone (hl : lineParityBad (lineWord line) = false) (hs : slotParityBad line (slotOf pc) = false) :
    lineParity pc line = none := by
  rw [lineParity, if_neg (by simp [hl]), hlast, Nat.add_sub_cancel_left]
  simp [hs]

include hk

theorem readableSlots_alone {i : Instr} (hd : decode (BitVec.ofNat 96 (slotWord line (slotOf pc))) = .ok i) :
    readableSlots (lineSlots (lineAddr pc) line (slotOf pc)) = [aloneSlot pc line i] := by
  rw [lineSlots_alone hlast, slotAddr_lineAddr hk]
  simp [readableSlots, hd, aloneSlot]

theorem decodeSlots_alone {lv : Level} {i : Instr}
    (hp : ¬ (lv = .user ∧ (majorOf (BitVec.ofNat 96 (slotWord line (slotOf pc))) = 0xA2 ∨
      majorOf (BitVec.ofNat 96 (slotWord line (slotOf pc))) = 0xA3)))
    (hd : decode (BitVec.ofNat 96 (slotWord line (slotOf pc))) = .ok i) :
    decodeSlots lv (lineSlots (lineAddr pc) line (slotOf pc)) = .ok [aloneSlot pc line i] := by
  rw [lineSlots_alone hlast, slotAddr_lineAddr hk, decodeSlots, decodeSlot_ok hp hd]
  rfl

end

theorem stallFault_off {c : Ctx} (h : c.sr.ctl = 0) (is : List SlotInstr) : stallFault c is = none := by
  rw [stallFault, h]
  rfl

theorem sigArrive_off {s : State} {c : Ctx} (hctl : c.sr.ctl = 0) (hsig : c.sig = none) (taken : Bool) :
    s.sigArrive c taken = .ok c := by
  have htable : s.sigTable c = [] := by
    rw [State.sigTable, hctl]
    rfl
  rw [State.sigArrive, htable]
  show Except.ok { c with sig := none } = _
  rw [← hsig]

theorem Ctx.sigWords_off {c : Ctx} (hsig : c.sig = none) (is : List SlotInstr) : c.sigWords is = c := by
  have hnone : c.sig.map (fun g => is.foldl (fun g i => g.word i.word) g) = c.sig := by
    rw [hsig]
    rfl
  rw [Ctx.sigWords, hnone]

theorem sigHalt_off {s : State} (hsig : s.th.sig = none) (i : Instr) : s.sigHalt i = none := by
  have hclose : sigClose (s.sigTable s.th) s.th = .ok s.th := by rw [sigClose, hsig]
  unfold State.sigHalt
  split
  · rw [hclose]
    simp
  · rfl

/-- The slot of a context that nothing on its way holds back. -/
theorem runSlot_exec {s : State} {i : SlotInstr} (hi : s.th.interlocked i.i = false) (hsig : s.th.sig = none) :
    s.runSlot i = some (exec i.i s) := by
  rw [State.runSlot, if_neg (by simp [hi]), sigHalt_off hsig]

theorem fetchTouch_th (s : State) (c : Ctx) (pc : Word) : (s.fetchTouch c pc).th = s.th := by
  unfold State.fetchTouch
  split
  · rfl
  · obtain ⟨cells, combs, h⟩ := s.tlbTouch_mapTh id c ‹_›
    exact (congrArg State.th h :)

/-! ### The step -/

theorem step_issues {s : State} {o : Out} (ha : s.agenda = []) (hi : s.issues s.th = true) (ho : s.issueStep = some o) :
    step s = o := by
  unfold step
  rw [ha]
  simp [hi, ho]

/-- Inside a group the next slot runs. -/
theorem stepRunsNextSlot_holds : StepRunsNextSlot := by
  intro s g x xs ha hi hg hrest hsig hx
  refine step_issues ha hi ?_
  rw [State.issueStep, hg]
  dsimp only
  rw [hrest]
  exact runSlot_exec hx hsig

/-- The target of a slot that stands alone is illegal. -/
theorem badTarget_illegal {s : State} {line : List Byte} {i : Instr} {t : Word} (hc : Machine.Instr.checks i s.th = some t)
    (ht : s.targetOk s.th t = false) :
    s.badTarget s.th [aloneSlot s.th.pc line i] = some (s.th.pc, ⟨cTarget, 0, t⟩) := by
  have hc' : (aloneSlot s.th.pc line i).checks s.th = some t := hc
  rw [State.badTarget, List.findSome?_singleton, hc']
  exact if_neg (by simp [ht])

theorem badTarget_legal {s : State} {line : List Byte} {i : Instr}
    (ht : ∀ t, Machine.Instr.checks i s.th = some t → s.targetOk s.th t = true) :
    s.badTarget s.th [aloneSlot s.th.pc line i] = none := by
  have hc' : (aloneSlot s.th.pc line i).checks s.th = Machine.Instr.checks i s.th := rfl
  rw [State.badTarget, List.findSome?_singleton, hc']
  cases hc : Machine.Instr.checks i s.th with
  | none => rfl
  | some t => exact if_pos (ht t hc)

/-- What a context needs to begin a group of one slot: the checks that precede its targets. -/
structure BeginsAlone (s : State) (line : List Byte) (i : Instr) : Prop where
  grp : s.th.grp = none
  role : gangRole s.th ≠ 2
  ctl : s.th.sr.ctl = 0
  sig : s.th.sig = none
  present : s.fetchAbsent s.th = none
  slot : slotOf s.th.pc < 5
  fetch : s.fetchLine s.th s.th.pc = .ok line
  last : groupLast (lineStops (lineWord line)) (slotOf s.th.pc) = slotOf s.th.pc
  lineEven : lineParityBad (lineWord line) = false
  slotEven : slotParityBad line (slotOf s.th.pc) = false
  decodes : decode (BitVec.ofNat 96 (slotWord line (slotOf s.th.pc))) = .ok i
  free : s.th.interlocked i = false

namespace BeginsAlone
variable {s : State} {line : List Byte} {i : Instr} (h : BeginsAlone s line i)
include h

theorem behind : s.th.behind = false := by
  rw [Ctx.behind, beq_eq_false_iff_ne.2 h.role, Bool.false_and]

theorem targetHeld : s.targetHeld s.th = false := by
  rw [State.targetHeld, h.fetch]
  dsimp only
  rw [readableSlots_alone h.slot h.last h.decodes]
  simp [aloneSlot, h.free]

/-- Nothing holds the fetch of its group back. -/
theorem issueStep {o : Out} (ho : (match s.groupAt s.th with
    | .error e => some (faultBefore s e)
    | .ok g => some ((s.fetchTouch s.th s.th.pc).startGroup g)) = some o) : s.issueStep = some o := by
  rw [State.issueStep, h.grp]
  dsimp only
  rw [h.behind, if_neg Bool.false_ne_true, State.beginGroup, if_neg h.role]
  dsimp only
  rw [Ctx.fetchHeld, Bool.false_and, if_neg Bool.false_ne_true, h.present]
  dsimp only
  rw [h.targetHeld, if_neg Bool.false_ne_true, sigArrive_off h.ctl h.sig]
  exact ho

theorem issueStep_stops {e : Word × Trap} (he : s.groupAt s.th = .error e) : s.issueStep = some (faultBefore s e) :=
  h.issueStep (by rw [he])

theorem issueStep_starts {g : GroupIssue} (hg : s.groupAt s.th = .ok g) :
    s.issueStep = some ((s.fetchTouch s.th s.th.pc).startGroup g) :=
  h.issueStep (by rw [hg])

/-- An illegal target comes before the other faults of the group. -/
theorem groupAt_illegal {e : Word × Trap} (he : s.badTarget s.th [aloneSlot s.th.pc line i] = some e) :
    s.groupAt s.th = .error e := by
  rw [State.groupAt, if_neg h.slot.ne, h.fetch]
  dsimp only
  rw [lineParity_alone h.last h.lineEven h.slotEven, readableSlots_alone h.slot h.last h.decodes, he]

/-- The group of one slot. -/
theorem groupAt_legal (ht : s.badTarget s.th [aloneSlot s.th.pc line i] = none) (hr : lineReason (lineWord line) = none)
    (hp : ¬ (s.th.level = .user ∧ (majorOf (BitVec.ofNat 96 (slotWord line (slotOf s.th.pc))) = 0xA2 ∨
      majorOf (BitVec.ofNat 96 (slotWord line (slotOf s.th.pc))) = 0xA3))) (hg : groupFault [i] = none) :
    s.groupAt s.th = .ok ⟨s.th.pc, [aloneSlot s.th.pc line i], [aloneSlot s.th.pc line i], nextSlot s.th.pc,
      groupStall line (slotOf s.th.pc), false, Machine.Instr.checks i s.th, false⟩ := by
  have hchecks : [aloneSlot s.th.pc line i].findSome? (fun i => i.checks s.th) = Machine.Instr.checks i s.th := by
    rw [List.findSome?_singleton]
    rfl
  have hfault : groupFault ([aloneSlot s.th.pc line i].map SlotInstr.i) = none := hg
  rw [State.groupAt, if_neg h.slot.ne, h.fetch]
  dsimp only
  rw [lineParity_alone h.last h.lineEven h.slotEven, readableSlots_alone h.slot h.last h.decodes, ht, hr,
    decodeSlots_alone h.slot h.last hp h.decodes]
  dsimp only
  rw [hfault, stallFault_off h.ctl, hchecks, h.last, slotAddr_lineAddr h.slot]

end BeginsAlone

/-- A group of one slot executes its slot. -/
theorem startGroup_alone {s : State} {g : GroupIssue} {x : SlotInstr} (hg : g.rest = [x]) (hx : s.th.interlocked x.i = false)
    (hsig : s.th.sig = none) : s.startGroup g = exec x.i (s.mapTh fun c =>
      { c with meters := { c.meters with issued := satAdd c.meters.issued 1 }, grp := some g }) := by
  have hwords := Ctx.sigWords_off
    (c := { s.th with grp := some g, meters := { s.th.meters with issued := satAdd s.th.meters.issued 1 } }) hsig g.rest
  rw [State.startGroup, State.mapTh_congr (g := fun c =>
    { c with meters := { c.meters with issued := satAdd c.meters.issued 1 }, grp := some g }) hwords]
  dsimp only
  rw [hg]
  dsimp only
  exact congrArg (fun o : Option Out => o.getD _) (runSlot_exec (s := s.mapTh fun c =>
    { c with meters := { c.meters with issued := satAdd c.meters.issued 1 }, grp := some g }) hx hsig)

theorem beginningStepRunsDecoded_holds : BeginningStepRunsDecoded := by
  intro s line i k w ha hi hgrp hrole hctl hsig habs hk hfetch hlast hline hslot hreason hpriv hd hgroup hfree htarget
  have h : BeginsAlone s line i := ⟨hgrp, hrole, hctl, hsig, habs, hk, hfetch, hlast, hline, hslot, hd, hfree⟩
  have hg := h.groupAt_legal (badTarget_legal htarget) hreason hpriv hgroup
  have hth := fetchTouch_th s s.th s.th.pc
  refine (step_issues ha hi (h.issueStep_starts hg)).trans ?_
  exact startGroup_alone (x := aloneSlot s.th.pc line i) rfl (by rw [hth]; exact hfree) (by rw [hth, hsig])

theorem faultBefore_pc (s : State) (t : Trap) : faultBefore s (s.th.pc, t) = faultOut s t := rfl

theorem illegalTargetStopsGroup_holds : IllegalTargetStopsGroup := by
  intro s line i t k ha hi hgrp hrole hctl hsig habs hk hfetch hlast hline hslot hd hfree hchecks htarget
  have h : BeginsAlone s line i := ⟨hgrp, hrole, hctl, hsig, habs, hk, hfetch, hlast, hline, hslot, hd, hfree⟩
  have hstep := step_issues ha hi (h.issueStep_stops (h.groupAt_illegal (badTarget_illegal hchecks htarget)))
  rw [faultBefore_pc] at hstep
  exact faults_of_eq hstep

/-- Settles O4: a step executes what the word at the program counter decodes to. -/
theorem stepRunsDecoded : Obligations.StepRunsDecoded :=
  ⟨beginningStepRunsDecoded_holds, stepRunsNextSlot_holds, illegalTargetStopsGroup_holds⟩

end Sys2Proof.Machine
end

section
/-!
Contexts found by their number: a change to one of them, and what stays of it when contexts that are over leave the package.
-/
namespace Sys2Proof.Machine
open Sys2Proof.Claims

/-! ### Changing a context -/

theorem State.ctx?_cid {s : State} {cid : CtxId} {c : Ctx} (h : s.ctx? cid = some c) : c.cid = cid :=
  beq_iff_eq.1 (List.find?_some (p := fun x : Ctx => x.cid == cid) h)

theorem State.ctxs_updCtx (s : State) (cid : CtxId) (f : Ctx → Ctx) :
    (s.updCtx cid f).ctxs = updateAll (fun x => x.cid == cid) f s.ctxs := by
  simp [State.ctxs, State.updCtx, updateAll]

theorem State.ctx?_updCtx {s : State} {cid : CtxId} {c : Ctx} (h : s.ctx? cid = some c) {f : Ctx → Ctx}
    (hf : ∀ x, (f x).cid = x.cid) : (s.updCtx cid f).ctx? cid = some (f c) := by
  have hfind : s.ctxs.find? (fun x => x.cid == cid) = some c := h
  rw [State.ctx?, State.ctxs_updCtx, find?_updateAll fun x hx => by rwa [hf], hfind]
  rfl

/-- A change to a context that its memory does not see. -/
theorem memoryKept_updCtx (s : State) (cid : CtxId) (f : Ctx → Ctx) : memoryKept s (s.updCtx cid f) := fun _ => rfl

theorem ctxIs_updCtx {s : State} {cid : CtxId} {c : Ctx} (h : s.ctx? cid = some c) {f : Ctx → Ctx}
    (hf : ∀ x, (f x).cid = x.cid) {P : Ctx → Prop} (hP : P (f c)) : ctxIs (s.updCtx cid f) cid P :=
  ⟨f c, State.ctx?_updCtx h hf, hP⟩

/-- The first context with a number, when some of the others leave. -/
theorem find?_filter_kept {α : Type} {p q : α → Bool} {xs : List α} {x : α} (hx : xs.find? q = some x) (hp : p x = true) :
    (xs.filter p).find? q = some x := by
  induction xs with
  | nil => exact nomatch hx
  | cons y ys ih =>
    cases hq : q y with
    | true =>
      have hyx : y = x := by simpa [hq] using hx
      rw [List.filter_cons_of_pos (hyx ▸ hp), List.find?_cons_of_pos hq, hyx]
    | false =>
      rw [List.find?_cons_of_neg (by simp [hq])] at hx
      cases hpy : p y with
      | true => rw [List.filter_cons_of_pos hpy, List.find?_cons_of_neg (by simp [hq]), ih hx]
      | false => rw [List.filter_cons_of_neg (by simp [hpy]), ih hx]

/-! ### Contexts that leave (R33, R285) -/

/-- The contexts and the regions of a state. -/
def State.people (s : State) : Ctx × List Ctx × List Region := (s.th, s.pool, s.regions)

theorem State.unwait_people (s : State) (c : CtxId) : (s.unwait c).people = s.people := rfl
theorem State.net_people (s : State) (n : Net) : ({ s with net := n } : State).people = s.people := rfl
theorem State.setCell_people (s : State) (x : CellRec) : (s.setCell x).people = s.people := rfl

theorem State.release_people (s : State) (c : Ctx) : (s.release c).people = s.people := by
  unfold State.release
  dsimp only
  split
  · exact (State.net_people ..).trans (s.unwait_people _)
  · split
    · exact (State.setCell_people ..).trans ((State.net_people ..).trans (s.unwait_people _))
    · exact (State.net_people ..).trans (s.unwait_people _)

theorem State.dropThose_parts (s : State) (gone? : Ctx → Bool) :
    (s.dropThose gone?).th = (if gone? s.th then .reset else s.th) ∧
      (s.dropThose gone?).pool = s.pool.filter (fun c => !gone? c) ∧ (s.dropThose gone?).regions = s.regions := by
  have hkeep : ((s.ctxs.filter gone?).foldl State.release s).people = s.people := foldl_keeps State.release_people _ _
  unfold State.dropThose
  dsimp only
  generalize (s.ctxs.filter gone?).foldl State.release s = u at hkeep
  obtain ⟨hth, hrest⟩ := Prod.ext_iff.1 hkeep
  obtain ⟨hpool, hregions⟩ := Prod.ext_iff.1 hrest
  refine ⟨?_, ?_, hregions⟩
  · exact congrArg (fun c => if gone? c then Ctx.reset else c) hth
  · exact congrArg (List.filter fun c => !gone? c) hpool

/-- A context that does not leave is found as before. -/
theorem State.ctx?_dropThose {s : State} {gone? : Ctx → Bool} {cid : CtxId} {c : Ctx} (hth : gone? s.th = false)
    (hc : gone? c = false) (h : s.ctx? cid = some c) : (s.dropThose gone?).ctx? cid = some c := by
  obtain ⟨hth', hpool, -⟩ := s.dropThose_parts gone?
  have hall : (s.dropThose gone?).ctxs = s.ctxs.filter fun c => !gone? c := by
    rw [State.ctxs, hth', hpool, State.ctxs, List.filter_cons_of_pos (by simp [hth]), hth]
    rfl
  rw [State.ctx?, hall]
  exact find?_filter_kept h (by simp [hc])

theorem State.lingers_congr {s t : State} (hr : t.regions = s.regions) {c d : Ctx} (hd : d.completed = c.completed)
    (hreg : d.region = c.region) : t.lingers d = s.lingers c := by
  unfold State.lingers State.regionOf
  rw [hd, hreg, State.region?_congr hr]

/-- A context that does not linger stays when contexts leave. -/
theorem State.ctx?_dropLingering {s : State} {cid : CtxId} {c : Ctx} (hth : s.lingers s.th = false) (hc : s.lingers c = false)
    (h : s.ctx? cid = some c) : s.dropLingering.ctx? cid = some c :=
  State.ctx?_dropThose (by rw [hth, Bool.false_and]) (by rw [hc, Bool.false_and]) h

/-! ### Writes and people -/

theorem State.writeRun_people (s : State) (pa : Nat) (bs : List Byte) : (s.writeRun pa bs).people = s.people :=
  State.writeParts_keeps (fun _ _ _ => rfl) _ _ _

theorem State.settleSaved_people (op : Nat) (st : HState) (res det : Word) (s : State) (c : Ctx) :
    (s.settleSaved op st res det c).people = s.people := by
  unfold State.settleSaved
  split
  · rfl
  · refine foldl_keeps (proj := State.people) (fun s i => ?_) _ _
    dsimp only
    split
    · exact State.writeRun_people ..
    · rfl

theorem State.resolveOp_parts (s : State) (op : Nat) (st : HState) (res det : Word) (seen : Bool) :
    (s.resolveOp op st res det seen).ctxs = s.ctxs.map (Ctx.settle op st res det seen) ∧
      (s.resolveOp op st res det seen).th = s.th.settle op st res det seen ∧
      (s.resolveOp op st res det seen).regions = s.regions := by
  have hkeep : ((s.ctxs.filter fun c => c.status == .saved).foldl (fun s c => s.settleSaved op st res det c) s).people =
      s.people := foldl_keeps (State.settleSaved_people op st res det) _ _
  obtain ⟨hth, hrest⟩ := Prod.ext_iff.1 hkeep
  obtain ⟨hpool, hregions⟩ := Prod.ext_iff.1 hrest
  refine ⟨?_, congrArg (Ctx.settle op st res det seen) hth, hregions⟩
  rw [State.ctxs, State.ctxs, List.map_cons]
  exact congrArg₂ List.cons (congrArg (Ctx.settle op st res det seen) hth) (congrArg (List.map _) hpool)

theorem State.ctx?_resolveOp {s : State} {cid : CtxId} {c : Ctx} (h : s.ctx? cid = some c) (op : Nat) (st : HState)
    (res det : Word) (seen : Bool) :
    (s.resolveOp op st res det seen).ctx? cid = some (c.settle op st res det seen) := by
  rw [State.ctx?, (s.resolveOp_parts op st res det seen).1, List.find?_map]
  exact congrArg (Option.map _) h

end Sys2Proof.Machine
end

section
/-!
Engine entries and claims advance (R54, R97 to R99, R136 to R138, R153).
-/
namespace Sys2Proof.Machine
open Sys2Proof.Claims

/-! ### Entries begin (R97, R98) -/

theorem Ctx.queue_lt {c : Ctx} {q : Nat} {e : Entry} {es : List Entry} (h : c.queue q = e :: es) : q < 8 := by
  by_contra hq
  rw [Ctx.queue, dif_neg hq] at h
  exact nomatch h

theorem execEvEngineEntryBegin_eq {s : State} {cid : CtxId} {c : Ctx} {q : Nat} {e : Entry} {es : List Entry}
    (hc : s.ctx? cid = some c) (hq : c.queue q = e :: es) (hr : c.resident = true) (hw : e.course = .waiting) :
    exec (.evEngineEntryBegin cid q) s = .next ((s.beginEntry c q e).getD s) := by
  show execEvEngineEntryBegin cid q s = _
  have hskip : ¬ (!c.resident || e.course != .waiting) = true := by simp [hr, hw]
  rw [execEvEngineEntryBegin, hc]
  dsimp only
  rw [hq, List.head?_cons]
  dsimp only
  rw [if_neg hskip]
  cases s.beginEntry c q e <;> rfl

theorem beginEntry_plain {s : State} {c : Ctx} {q : Nat} {e : Entry} (hf : ∀ id m, e.work ≠ .fence id m)
    (hc : ∀ o, e.work ≠ .coll o) (ha : ∀ o, e.work ≠ .fabric o) : s.beginEntry c q e =
      if c.ackedBelow e.seq then some (s.updCtx c.cid fun c => c.setEntry q e.op fun e => { e with course := .begun })
      else none := by
  unfold State.beginEntry
  split
  · next id m h => exact absurd h (hf id m)
  · next o h => exact absurd h (hc o)
  · next o h => exact absurd h (ha o)
  · rfl

theorem beginEntry_fence {s : State} {c : Ctx} {q : Nat} {e : Entry} {id : Nat} {m : BitVec 8} (h : e.work = .fence id m) :
    s.beginEntry c q e = if c.fenceOver id m then some (s.updCtx c.cid fun c => c.dropFence id) else none := by
  rw [State.beginEntry, h]

theorem Ctx.queue_setEntry (c : Ctx) (op : Nat) (k : Course) {q : Nat} (hq : q < 8) :
    (c.setEntry q op fun e => { e with course := k }).queue q = courseOf (c.queue q) op k :=
  (c.queue_mapQ q _ hq).trans (if_pos rfl)

/-- What dropping a fence keeps. -/
theorem Ctx.dropFence_keeps {α : Type} {proj : Ctx → α} (h : ∀ c q f, proj (Ctx.mapQ c q f) = proj c) (c : Ctx) (id : Nat) :
    proj (c.dropFence id) = proj c := foldl_keeps (fun c _ => h c _ _) _ _

/-! ### Handles resolve (R54, R99) -/

theorem Ctx.settle_h (op : Nat) (st : HState) (res det : Word) (seen : Bool) (c : Ctx) (i : BitVec 4) :
    (c.settle op st res det seen).h.get i.toFin = (c.h.get i.toFin).settle op st res det seen := Vector.getElem_map _ _

theorem Handle.settle_eq (op : Nat) (st : HState) (res det : Word) (seen : Bool) (x : Handle) :
    x.settle op st res det seen = if x.st = .pending ∧ x.op = op then ⟨st, res, det, op, seen⟩ else x := by
  unfold Handle.settle
  split
  · next h => rw [← h.2]
  · rfl

theorem State.updCtx_th_keeps {α : Type} {proj : Ctx → α} {f : Ctx → Ctx} (h : ∀ c, proj (f c) = proj c) (s : State) (cid : CtxId) :
    proj (s.updCtx cid f).th = proj s.th := by
  dsimp only [State.updCtx]
  split
  · exact h _
  · rfl

/-- The end of an entry: it leaves its queue, and the handle that holds its operation resolves. -/
theorem handleResolves {s : State} {cid : CtxId} {c : Ctx} {q : Nat} {e : Entry} {st : HState} {res det : Word}
    (hc : s.ctx? cid = some c) (hq : q < 8) (hl : s.lingers c = false) (hth : s.lingers s.th = false)
    (hd : c.doneEntry q = some e) (hk : e.course = .done st res det) :
    goesTo (exec (.evHandleResolve cid q) s) fun t => ctxIs t cid fun d =>
      d.queue q = (c.queue q).filter (fun x => x.op != e.op) ∧ d.regs = c.regs ∧
      ∀ i : BitVec 4, d.h.get i.toFin = if (c.h.get i.toFin).st = .pending ∧ (c.h.get i.toFin).op = e.op then
        ⟨st, res, det, e.op, !e.isSample⟩ else c.h.get i.toFin := by
  have hrun : exec (.evHandleResolve cid q) s = .next ((s.updCtx cid fun c =>
      c.mapQ q fun es => es.filter fun y => y.op != e.op).resolveOp e.op st res det !e.isSample).dropLingering := by
    show execEvHandleResolve cid q s = _
    rw [execEvHandleResolve, hc]
    dsimp only
    rw [hd, Option.bind_some, Entry.outcome, hk]
    rfl
  have hupd := State.ctx?_updCtx hc (f := fun c => c.mapQ q fun es => es.filter fun y => y.op != e.op) fun _ => rfl
  have hres := State.ctx?_resolveOp hupd e.op st res det !e.isSample
  obtain ⟨-, hthr, hregions⟩ := (s.updCtx cid fun c => c.mapQ q fun es => es.filter fun y => y.op != e.op).resolveOp_parts
    e.op st res det !e.isSample
  refine ⟨_, hrun, _, State.ctx?_dropLingering ?_ ?_ hres, ?_, rfl, fun i => ?_⟩
  · refine (State.lingers_congr hregions ?_ ?_).trans hth
    · exact (congrArg Ctx.completed hthr).trans (State.updCtx_th_keeps (proj := Ctx.completed) (fun _ => by rfl) s cid)
    · exact (congrArg Ctx.region hthr).trans (State.updCtx_th_keeps (proj := Ctx.region) (fun _ => by rfl) s cid)
  · exact (State.lingers_congr hregions rfl rfl).trans hl
  · exact (c.queue_mapQ q _ hq).trans (if_pos rfl)
  · exact (Ctx.settle_h ..).trans (Handle.settle_eq ..)

/-! ### Claims (R136 to R138) -/

/-- The end of a fabric entry, the claims and the count of free values as they may be. -/
theorem fabricEnds_over (s : State) (cid : CtxId) (e : Entry) (st : HState) (res : Word) (cl : List Claim) (n : Nat) :
    fabricEnds s ({ s with claims := cl, tick := n }.fabricOver cid e st res 0) cid e.op st res cl := by
  refine ⟨fun _ => rfl, rfl, State.updCtx_th_keeps (proj := Ctx.regs) (fun _ => by rfl) _ cid, fun c hc => ?_⟩
  have hc' : ({ s with claims := cl, tick := n } : State).ctx? cid = some c := hc
  exact ctxIs_updCtx hc' (fun _ => by rfl) ⟨(c.queue_mapQ 7 _ (by decide)).trans (if_pos rfl), rfl, rfl⟩

theorem fabricEntry_begun {s : State} {cid : CtxId} {c : Ctx} {e : Entry} {es : List Entry} (hc : s.ctx? cid = some c)
    (hq : c.queue 7 = e :: es) (hb : e.course = .begun) : s.fabricEntry cid = some e := by
  rw [State.fabricEntry, hc, Option.bind_some, hq, List.head?_cons]
  exact Option.filter_eq_some_iff.2 ⟨rfl, by simp [hb]⟩

theorem settleOf_settling {s : State} {cid : CtxId} {e : Entry} {p : Word} (he : s.fabricEntry cid = some e)
    (hw : e.work = .fabric (.settle p)) : s.settleOf cid = some (e, p) := by
  rw [State.settleOf, he, Option.bind_some, Entry.settling, hw]
  rfl

theorem settleOf_empty {s : State} {cid : CtxId} {c : Ctx} (hc : s.ctx? cid = some c) (hq : c.queue 7 = []) :
    s.settleOf cid = none := by
  rw [State.settleOf, State.fabricEntry, hc, Option.bind_some, hq]
  rfl

theorem calibrates {s : State} {cid : CtxId} {e : Entry} {k : Claim} (he : s.fabricEntry cid = some e)
    (hk : s.claimOf cid = some k) (hw : e.work = .fabric .cal) : goesTo (exec (.evAfcalComplete cid) s) fun t =>
      fabricEnds s t cid e.op .done 0 (claimsWith s { k with
        cal := true, calib := s.tick, xi := (List.range (64 * k.np)).map (Config.looseState s.tick) }) := by
  have hrun : exec (.evAfcalComplete cid) s = .next (((s.fabricOver cid e .done 0 0).setClaim { k with
      cal := true, calib := s.tick, xi := k.integrators.map (Config.looseState s.tick) }).bump) := by
    show execEvAfcalComplete cid s = _
    rw [execEvAfcalComplete, he, hk]
    exact if_pos hw
  exact ⟨_, hrun, fabricEnds_over s cid e .done 0 _ (s.tick + 1)⟩

theorem settles {s : State} {cid : CtxId} {e : Entry} {k : Claim} {p : Word} (hs : s.settleOf cid = some (e, p))
    (hk : s.claimOf cid = some k) (hrun : k.st = .run) (hsat : k.sat = false) (hcalm : settleHold p * 10 ≤ k.calm)
    (hnow : s.now ≤ e.since + settleT p * 1000) : goesTo (exec (.evFabricSettleDone cid) s) fun t =>
      fabricEnds s t cid e.op .done (BitVec.ofNat 64 s.now) s.claims := by
  have hcalmFor : s.calmFor cid p = true := by
    rw [State.calmFor, hk]
    simp [hrun, hsat, hcalm]
  have hgo : exec (.evFabricSettleDone cid) s = .next (s.fabricOver cid e .done (BitVec.ofNat 64 s.now) 0) := by
    show execEvFabricSettleDone cid s = _
    rw [execEvFabricSettleDone, hs]
    exact if_pos (by simp [hcalmFor, hnow])
  exact ⟨_, hgo, fabricEnds_over s cid e .done _ s.claims s.tick⟩

theorem timesOut {s : State} {cid : CtxId} {e : Entry} {p : Word} (hs : s.settleOf cid = some (e, p))
    (hnow : e.since + settleT p * 1000 ≤ s.now) : goesTo (exec (.evFabricSettleTimeout cid) s) fun t =>
      fabricEnds s t cid e.op .failed (BitVec.ofNat 64 (8 * 2 ^ 48)) s.claims := by
  have hgo : exec (.evFabricSettleTimeout cid) s = .next (s.fabricOver cid e .failed (BitVec.ofNat 64 (8 * 2 ^ 48)) 0) := by
    show execEvFabricSettleTimeout cid s = _
    rw [execEvFabricSettleTimeout, hs]
    exact if_pos hnow
  exact ⟨_, hgo, fabricEnds_over s cid e .failed _ s.claims s.tick⟩

/-- A summer is limited at ±1.25 when what its inputs carry lies beyond. -/
theorem passes_iff (s : State) (k : Claim) (n : Nat) : passes s k n ↔ k.passing n = true := by
  have hlimit : k.carried k.kept n ≠ k.summer k.kept n ↔
      satLevel < k.carried k.kept n ∨ k.carried k.kept n < -satLevel := by
    have hpos : (0 : Int) < satLevel := by decide
    rw [Claim.summer, levelClamp]
    omega
  rw [passes, Claim.passing, Bool.or_eq_true, Bool.and_eq_true, Bool.and_eq_true, decide_eq_true_iff, decide_eq_true_iff,
    hlimit]
  simp

/-- What a saturation does to the claim; a settle that is under way fails. -/
theorem saturation_run {s : State} {cid : CtxId} {k : Claim} {n : Nat} (hk : s.claimOf cid = some k) (hst : k.st = .run)
    (hn : n < 64 * k.np) (hp : passes s k n) : exec (.evFabricSaturation cid n) s =
      let t := { s with claims := claimsWith s (saturated k n) }
      match s.settleOf cid with
      | some e => .next (t.fabricOver cid e.1 .failed
          (BitVec.ofNat 64 (9 * 2 ^ 48 + if k.sat then min k.sint.toNat n else n)) 0)
      | none => .next t := by
  show execEvFabricSaturation cid n s = _
  rw [execEvFabricSaturation, hk]
  exact if_pos ⟨hst, hn, (passes_iff s k n).1 hp⟩

theorem saturation_idle {s : State} {cid : CtxId} {k : Claim} {n : Nat} (hk : s.claimOf cid = some k) (hp : ¬ passes s k n) :
    exec (.evFabricSaturation cid n) s = .next s := by
  show execEvFabricSaturation cid n s = _
  rw [execEvFabricSaturation, hk]
  exact if_neg fun h => hp ((passes_iff s k n).2 h.2.2)

theorem claimOf_cid {s : State} {cid : CtxId} {k : Claim} (h : s.claimOf cid = some k) : k.cid = cid :=
  beq_iff_eq.1 (List.find?_some (p := fun x : Claim => x.cid == cid) h)

/-! ### Candidates register (R153) -/

theorem registers {s : State} {cid : CtxId} {c : Ctx} {e : Entry} {es : List Entry} {key : Word} {lane : BitVec 4} {id : BitVec 8}
    (hc : s.ctx? cid = some c) (hq : c.queue 6 = e :: es) (hb : e.course = .begun) (hw : e.work = .contend key lane id)
    (hnew : ∀ x ∈ s.plane.cands, x.op ≠ e.op) :
    ((s.regionOf c).bind Region.slot = none → exec (.evContendRegister cid) s = .next s) ∧
    ∀ slot, (s.regionOf c).bind Region.slot = some slot → exec (.evContendRegister cid) s = .next { s with
      plane := { s.plane with cands := s.plane.cands ++ [⟨lane.toNat, slot * 256 + id.toNat, key, combFrame c.comb,
        c.logical, cid, e.op, s.now, false, 0⟩] } } := by
  have hany : s.plane.cands.any (fun x => x.op == e.op) = false := by simpa using hnew
  refine ⟨fun hslot => ?_, fun slot hslot => ?_⟩
  all_goals
    show execEvContendRegister cid s = _
    rw [execEvContendRegister, hc]
    dsimp only
    rw [hq, List.head?_cons]
    dsimp only
    rw [hw, hb]
    dsimp only
    rw [hany, if_neg Bool.false_ne_true, hslot]

/-- Settles O50: what each step of an engine entry or a claim does to the context that it names. -/
theorem engineEvents : Obligations.EngineEvents := by
  intro s cid c hc
  have hcid := State.ctx?_cid hc
  refine ⟨fun q e es hq hr hw => ⟨fun hf hcoll hfab => ⟨fun ha => ?_, fun ha => ?_⟩, fun id m hwork hover => ?_⟩,
    fun q e st res det hq hl hth hd hk => handleResolves hc hq hl hth hd hk,
    fun e es k hq hb hk => ?_, fun k n hq hk hst hn => ?_, fun e es key lane id hq hb hw hnew => registers hc hq hb hw hnew⟩
  · refine ⟨_, execEvEngineEntryBegin_eq hc hq hr hw, ?_⟩
    rw [beginEntry_plain hf hcoll hfab, if_pos ha, Option.getD_some, hcid]
    exact ⟨fun _ => rfl, ctxIs_updCtx hc (fun _ => by rfl) ⟨c.queue_setEntry _ _ (Ctx.queue_lt hq), rfl, rfl⟩⟩
  · rw [execEvEngineEntryBegin_eq hc hq hr hw, beginEntry_plain hf hcoll hfab, ha]
    rfl
  · refine ⟨_, execEvEngineEntryBegin_eq hc hq hr hw, ?_⟩
    rw [beginEntry_fence hwork, if_pos hover, Option.getD_some, hcid]
    refine ⟨fun _ => rfl, ctxIs_updCtx hc (Ctx.dropFence_keeps (fun _ _ _ => rfl) · id) ?_⟩
    exact (c.queue_mapQs _ 8 (Ctx.queue_lt hq)).trans (if_pos (Ctx.queue_lt hq))
  · have he := fabricEntry_begun hc hq hb
    refine ⟨calibrates he hk, fun p hw hst hsat hcalm hnow => ?_, fun p hw hnow => ?_, fun p n hw hst hn hp => ?_⟩
    · exact settles (settleOf_settling he hw) hk hst hsat hcalm hnow
    · exact timesOut (settleOf_settling he hw) hnow
    · have hrun := saturation_run hk hst hn hp
      rw [settleOf_settling he hw] at hrun
      exact ⟨_, hrun, fabricEnds_over s cid e .failed _ _ s.tick⟩
  · refine ⟨fun hp => ?_, saturation_idle hk⟩
    have hrun := saturation_run hk hst hn hp
    rwa [settleOf_empty hc hq] at hrun

end Sys2Proof.Machine
end

section
/-!
Statements that fail for one reason: a word that is written is read back from a memory in its canonical form alone (log 6), and
they speak of every state, also of one whose memory is not. Each refutation gives such a state, for which every hypothesis of
the clause holds; the memory's addresses fall, so that a byte 0 written below its first address is lost.
-/
namespace Sys2Proof.Machine
open Sys2Proof.Claims

/-- A memory that is not in its canonical form: its addresses fall. -/
def fallingMemory (pa : Nat) : Memory := [(pa + 1, 1), (pa, 1)]

theorem fallingMemory_not_wf (pa : Nat) : (fallingMemory pa).wf = false := by
  have h : ¬ pa + 1 < pa := by omega
  simp [fallingMemory, Memory.wf, Memory.wfFrom, h]

/-! ### Work queues (R355) -/

/-- A fence of queue 0 that has been taken up, with nothing before it. -/
def lastFence : QEntry := ⟨0, 0, 0, 2, 0, 0, .accepted, .ok, true, none, []⟩

/-- The reset state with that fence, over a memory whose addresses fall at its completion record. -/
def fenceState : State :=
  { State.reset with mem := fallingMemory (paHost 0 0), hub := { State.reset.hub with entries := [lastFence] } }

/-- The word at an address after a step that answers a state. -/
def wordAfter (o : Out) (pa : Nat) : Nat :=
  match o with
  | .next t => wordAt t pa
  | _ => 0

theorem wordAfter_next {o : Out} {t : State} (h : o = .next t) (pa : Nat) : wordAfter o pa = wordAt t pa := by rw [h, wordAfter]

/-- Its tag is 0, and reads otherwise. -/
theorem fenceState_tag : wordAfter (exec (.evQueueFenceComplete 0) fenceState) (paHost 0 0) ≠ 0 := by decide

/-- Refutes O57: the tag of a completed fence, 0, is not read back from a memory that is not in its canonical form. -/
theorem not_workQueues : ¬ Obligations.WorkQueues := by
  intro h
  obtain ⟨-, -, hfence, -⟩ := h fenceState 0
  obtain ⟨t, ht, -, -, -, htag, -⟩ := (hfence lastFence rfl rfl rfl).2 (by decide)
  exact fenceState_tag ((wordAfter_next ht _).trans htag)

/-! ### Fault records (R330) -/

/-- A fault whose record has not been posted. -/
def openFault : FaultRec := ⟨0, 0, 0, 0, 0, false⟩

/-- A context of cell 0 that stopped on it, with nothing on its way. -/
def faultedCtx : Ctx := { Ctx.reset with fault := some openFault }

/-- The reset state with that context, over a memory whose addresses fall at the record's place in the ring. -/
def recordState : State := { State.reset with th := faultedCtx, mem := fallingMemory (paHbm 0 0) }

/-- The first word of the record, all of whose fields are 0, reads otherwise. -/
theorem recordState_word : wordAfter (exec (.evFaultRecordPost 0) recordState) (paHbm 0 0) ≠ 0 := by decide

/-- Refutes O54: the first word of a fault record, 0, is not read back from a memory that is not in its canonical form. -/
theorem not_supervision : ¬ Obligations.Supervision := by
  intro h
  obtain ⟨-, -, hrecord, -⟩ := h recordState
  obtain ⟨t, ht, -, -, -, hword, -⟩ := (hrecord 0 faultedCtx openFault rfl rfl).2 rfl ⟨rfl, rfl, .inl rfl⟩ (by decide)
  exact recordState_word ((wordAfter_next ht _).trans hword)

/-! ### Save areas (R332) -/

/-- The supervisor of comb 0, as it issues. -/
def savingCtx : Ctx := { Ctx.reset with cid := 1, place := .supervisor 0, level := .comb, status := .running }

/-- A context of cell 0 that waits on its supervisor, with nothing on its way. -/
def stoppedUser : Ctx := { Ctx.reset with status := .parked .supervisor }

/-- The reset state with both, over a memory whose addresses fall at the save area. -/
def saveState : State := { State.reset with th := savingCtx, pool := [stoppedUser], mem := fallingMemory (paHbm 0 0) }

/-- Slot 0 of cell 0, to address 0. -/
def saveOp : CtxSave := ⟨0, ⟨0, ⟨.none, .none, 0⟩⟩, ⟨0, ⟨.none, .none, 0⟩⟩, false, 0⟩

/-- The state once the context has stopped, and the context. -/
def saveReady : State := saveState.stopCtx stoppedUser
def savedUser : Ctx := (saveReady.ctx? 0).getD .reset

theorem saveState_saves : exec (.ctxsave ⟨0, false, 0⟩ saveOp) saveState =
    .next ((saveReady.saveCtx savedUser 0 false).mapTh fun c => (c.run.resG 0 0 0).retire) := by
  rfl

/-- The first byte of a run that is written, as the memory underneath keeps it. -/
theorem byteAt_writeRun_first (s : State) (pa : Nat) (b : Byte) (bs : List Byte) :
    (s.writeRun pa (b :: bs)).byteAt pa = ((throughWq s.mem (s.closeLine (lineOf pa)).net.wq).set pa b).get pa := by
  obtain ⟨n, hn⟩ : ∃ n, (pa % 64 + (b :: bs).length + 63) / 64 = n + 1 :=
    Nat.exists_eq_succ_of_ne_zero (by simp only [List.length_cons]; omega)
  obtain ⟨len, hlen⟩ : ∃ len, min (pa + (b :: bs).length) (pa / 64 * 64 + 64) - pa = len + 1 :=
    Nat.exists_eq_succ_of_ne_zero (by simp only [List.length_cons]; omega)
  have hfirst (t : State) : (t.writeAt pa (((b :: bs).take (len + 1)).map some)).byteAt pa =
      ((throughWq t.mem (t.closeLine (lineOf pa)).net.wq).set pa b).get pa := by
    calc (t.writeAt pa (((b :: bs).take (len + 1)).map some)).byteAt pa
        = (throughWq t.mem ((t.closeLine (lineOf pa)).net.wq ++ [(homeOf pa, WEntry.write pa _)])).get pa := rfl
      _ = (((throughWq t.mem (t.closeLine (lineOf pa)).net.wq).set pa b).writeMasked (pa + 1) ((bs.take len).map some)).get pa := by
        rw [throughWq_append]
        rfl
      _ = _ := Memory.get_writeMasked_other _ (.inl (Nat.lt_succ_self pa))
  rw [State.writeRun, fixedParts, splitLines, hn, List.range_succ_eq_map, List.map_cons, List.map_cons]
  simp only [if_pos, Nat.mul_zero, Nat.zero_add, Nat.mul_one, hlen, Nat.sub_self, Nat.add_zero]
  rw [State.writeParts, State.byteAt_writeParts_other]
  · exact hfirst s
  · simp only [List.map_map, List.mem_map, List.mem_range]
    rintro p ⟨i, -, rfl⟩
    left
    dsimp only [Function.comp_apply]
    rw [if_neg (Nat.succ_ne_zero i)]
    omega

/-! The first byte of a save area -/

theorem putBytes_head {bs new : List Byte} {off : Nat} (h : 0 < off) : (putBytes bs off new)[0]? = bs[0]? := by
  cases bs with
  | nil => simp [putBytes]
  | cons b bs =>
    obtain ⟨n, rfl⟩ := Nat.exists_eq_succ_of_ne_zero (Nat.ne_of_gt h)
    rfl

theorem putBytes_start {bs : List Byte} (h : bs.length ≠ 0) (b : Byte) (new : List Byte) :
    (putBytes bs 0 (b :: new))[0]? = some b := by
  obtain ⟨n, hn⟩ := Nat.exists_eq_succ_of_ne_zero h
  rw [putBytes, Nat.sub_zero, hn]
  rfl

theorem foldl_putBytes_head {ps : List (Nat × List Byte)} (h : ∀ p ∈ ps, 0 < p.1) (bs : List Byte) :
    (ps.foldl (fun bs p => putBytes bs p.1 p.2) bs)[0]? = bs[0]? := by
  induction ps generalizing bs with
  | nil => rfl
  | cons p ps ih =>
    obtain ⟨hp, hps⟩ := List.forall_mem_cons.1 h
    exact (ih hps _).trans (putBytes_head hp)

theorem wordsBytes_start (w : Word) (ws : List Word) :
    wordsBytes (w :: ws) = BitVec.ofNat 8 w.toNat :: (bytesOf 7 (w.toNat / 256) ++ wordsBytes ws) := by
  have h : wordsBytes (w :: ws) = bytesOf 8 w.toNat ++ wordsBytes ws := rfl
  rw [h, bytesOf_succ, List.cons_append]

/-- The pieces of a save area: the words that begin with the identifier, and others behind them. -/
theorem savePieces_first (s : State) (c : Ctx) : ∃ ws ps,
    s.savePieces c = (0, wordsBytes (BitVec.ofNat 64 c.cid :: ws)) :: ps ∧ ∀ p ∈ ps, 0 < p.1 := by
  refine ⟨_, _, rfl, ?_⟩
  simp

theorem pieces_head {bs : List Byte} (h : bs.length ≠ 0) (w : Word) (ws : List Word) {ps : List (Nat × List Byte)}
    (hps : ∀ p ∈ ps, 0 < p.1) : (((0, wordsBytes (w :: ws)) :: ps).foldl (fun bs p => putBytes bs p.1 p.2) bs)[0]? =
      some (BitVec.ofNat 8 w.toNat) := by
  rw [List.foldl_cons, foldl_putBytes_head hps, wordsBytes_start, putBytes_start h]

/-- A save area begins with the low byte of the identifier. -/
theorem saveImage_head (s : State) (c : Ctx) : (s.saveImage c)[0]? = some (BitVec.ofNat 8 (BitVec.ofNat 64 c.cid).toNat) := by
  obtain ⟨ws, ps, hp, hps⟩ := savePieces_first s c
  have hpieces (bs : List Byte) (hbs : bs.length ≠ 0) : ((s.savePieces c).foldl (fun bs p => putBytes bs p.1 p.2) bs)[0]? =
      some (BitVec.ofNat 8 (BitVec.ofNat 64 c.cid).toNat) := by
    rw [hp]
    exact pieces_head hbs _ ws hps
  have hlen : (List.replicate 0x4000 (0 : Byte)).length ≠ 0 := (List.length_replicate ..).trans_ne (by decide)
  exact hpieces _ hlen

/-- A save by a cell that does not own its local memory writes the image of the save area alone. -/
theorem byteAt_saveCtx {s : State} {c : Ctx} (ho : (s.cellRec c.cell).owner = none) (hk : s.claimOf c.cid = none) (va : Word)
    (full : Bool) (a : Nat) :
    (s.saveCtx c va full).byteAt a = (s.writeRun (saveAt s.th va 0) (s.saveImage c)).byteAt a := by
  have hclaims : (s.writeRun (saveAt s.th va 0) (s.saveImage c)).claims = s.claims :=
    State.writeParts_keeps (fun _ _ _ => rfl) _ _ _
  have hkeep (t : State) (ht : t.claims = s.claims) (f : Ctx → Ctx) :
      ((t.bump.chargePatches c.cid).updCtx c.cid f).byteAt a = t.byteAt a := by
    have hnone : t.bump.claimOf c.cid = none := by
      rw [← hk]
      exact congrArg (List.find? _) ht
    rw [State.chargePatches, hnone]
    rfl
  have howner : ((none : Option CtxId) == some c.cid) = false := rfl
  unfold State.saveCtx
  dsimp only
  rw [ho, howner]
  simp only [Bool.false_and, if_neg Bool.false_ne_true]
  exact hkeep _ hclaims _

/-- The identifier of the context that was saved is 0, and its low byte reads 1. -/
theorem saveState_byte : (saveReady.saveCtx savedUser 0 false).byteAt (paHbm 0 0) = 1 := by
  obtain ⟨bs, hbs⟩ : ∃ bs, saveReady.saveImage savedUser = 0 :: bs := by
    have hhead := saveImage_head saveReady savedUser
    cases himage : saveReady.saveImage savedUser with
    | nil => rw [himage] at hhead; exact nomatch hhead
    | cons b bs =>
      rw [himage] at hhead
      exact ⟨bs, congrArg (· :: bs) (Option.some.inj hhead)⟩
  have hat : saveAt saveReady.th 0 0 = paHbm 0 0 := rfl
  rw [byteAt_saveCtx rfl rfl, hat, hbs, byteAt_writeRun_first]
  rfl

theorem wordAt_mapTh (s : State) (f : Ctx → Ctx) (pa : Nat) : wordAt (s.mapTh f) pa = wordAt s pa := rfl

theorem wordAt_byte (s : State) (pa : Nat) : wordAt s pa % 256 = (s.byteAt pa).toNat := by
  have hcons : wordAt s pa = (s.byteAt pa).toNat + 256 * ofBytes ((List.range 7).map fun k => s.byteAt (pa + (k + 1))) := rfl
  have hbyte := (s.byteAt pa).isLt
  omega

/-- Refutes O47: the identifier in a save area, 0, is not read back from a memory that is not in its canonical form. -/
theorem not_contextsMove : ¬ Obligations.ContextsMove := by
  intro h
  obtain ⟨hsave, -⟩ := h ⟨0, false, 0⟩ saveState rfl rfl rfl
  obtain ⟨t, ht, -, -, -, hword, -⟩ := ((hsave saveOp).2 0 stoppedUser (by decide) rfl rfl (by decide) (by decide) rfl).2
    rfl rfl rfl rfl rfl (.inl rfl) (by simp [stoppedUser, Ctx.reset]) rfl (by simp [saveState, State.reset])
  obtain rfl := Host.Outcome.next.inj (saveState_saves.symm.trans ht)
  have hlow : wordAt (saveReady.saveCtx savedUser 0 false) (paHbm 0 0) = 0 := (wordAt_mapTh ..).symm.trans hword
  have hbyte := wordAt_byte (saveReady.saveCtx savedUser 0 false) (paHbm 0 0)
  rw [hlow, saveState_byte] at hbyte
  exact absurd hbyte (by decide)

end Sys2Proof.Machine
end

section
/-!
Cells that complete, children and time slices (R29 to R33, R53): which contexts a region's end leaves, what a launch puts in
place, and the three steps.
-/
namespace Sys2Proof.Machine
open Sys2Proof.Claims

/-! ### Contexts that stay -/

/-- Each context of the second state was one of the first, in the same region. -/
def stayedFrom (s t : State) : Prop := ∀ d ∈ t.ctxs, ∃ x ∈ s.ctxs, x.cid = d.cid ∧ x.region = d.region

theorem stayedFrom.trans {s t u : State} (h : stayedFrom s t) (h' : stayedFrom t u) : stayedFrom s u := fun d hd => by
  obtain ⟨y, hy, hyc, hyr⟩ := h' d hd
  obtain ⟨x, hx, hxc, hxr⟩ := h y hy
  exact ⟨x, hx, hxc.trans hyc, hxr.trans hyr⟩

theorem stayedFrom.of_ctxs {s t : State} (h : t.ctxs = s.ctxs) : stayedFrom s t := fun d hd => ⟨d, h ▸ hd, rfl, rfl⟩

theorem stayedFrom.of_people {s t : State} (h : t.people = s.people) : stayedFrom s t := by
  obtain ⟨hth, hrest⟩ := Prod.ext_iff.1 h
  obtain ⟨hpool, -⟩ := Prod.ext_iff.1 hrest
  exact .of_ctxs (congrArg₂ List.cons hth hpool)

theorem stayedFrom_updCtx (s : State) (cid : CtxId) {f : Ctx → Ctx} (hc : ∀ x, (f x).cid = x.cid)
    (hr : ∀ x, (f x).region = x.region) : stayedFrom s (s.updCtx cid f) := by
  intro d hd
  rw [State.ctxs_updCtx, updateAll, List.mem_map] at hd
  obtain ⟨x, hx, rfl⟩ := hd
  refine ⟨x, hx, ?_⟩
  split
  · exact ⟨(hc x).symm, (hr x).symm⟩
  · exact ⟨rfl, rfl⟩

theorem stayedFrom_foldl {α : Type} {f : State → α → State} (h : ∀ s x, stayedFrom s (f s x)) (xs : List α) (s : State) :
    stayedFrom s (xs.foldl f s) :=
  foldl_invariant (P := stayedFrom s) (fun t x ht => ht.trans (h t x)) xs (.of_ctxs rfl)

theorem stayedFrom_endClaim (s : State) (c : CtxId) : stayedFrom s (s.endClaim c) := by
  have hpatch (n : Nat) : stayedFrom s (s.addPatch c n) := stayedFrom_updCtx _ _ (fun _ => rfl) fun _ => rfl
  unfold State.endClaim
  dsimp only
  split
  · exact hpatch _
  · exact (hpatch _).trans (.of_ctxs rfl)

theorem stayedFrom_endClaimOps (s : State) (c : CtxId) : stayedFrom s (s.endClaimOps c) :=
  (stayedFrom_endClaim s c).trans (stayedFrom_updCtx _ _ (fun _ => rfl) fun _ => rfl)

theorem stayedFrom_endClaims (s : State) (r : Region) : stayedFrom s (s.endClaims r) :=
  stayedFrom_foldl stayedFrom_endClaimOps _ _

theorem stayedFrom_writeRun (s : State) (pa : Nat) (bs : List Byte) : stayedFrom s (s.writeRun pa bs) :=
  .of_people (s.writeRun_people pa bs)

theorem stayedFrom_writeStatus (s : State) (home rcb : Nat) (st : CStatus) : stayedFrom s (s.writeStatus home rcb st) :=
  stayedFrom_writeRun s _ _

theorem State.updRegion_ctxs (s : State) (id : RegionId) (f : Region → Region) : (s.updRegion id f).ctxs = s.ctxs := rfl

theorem stayedFrom_updRegion (s : State) (id : RegionId) (f : Region → Region) : stayedFrom s (s.updRegion id f) :=
  .of_ctxs (s.updRegion_ctxs id f)

theorem stayedFrom_kernelRecord (s : State) (r : Region) : stayedFrom s (s.kernelRecord r) := by
  unfold State.kernelRecord
  split
  · split
    · exact .of_people (State.powerRecord_keeps (proj := State.people) (fun _ _ _ => rfl) (fun _ _ => rfl) _ _)
    · exact .of_ctxs rfl
  · exact .of_ctxs rfl

theorem State.hub_people (s : State) (h : Hub) : ({ s with hub := h } : State).people = s.people := rfl

theorem stayedFrom_completeEntry (s : State) (e : QEntry) (st : CStatus) : stayedFrom s (s.completeEntry e st) := by
  refine .of_people ?_
  unfold State.completeEntry State.journal
  dsimp only
  rw [State.hub_people, State.hub_people, State.writeRun_people]

theorem stayedFrom_finishRegion (n : Nat) (id : RegionId) (s : State) : stayedFrom s (State.finishRegion n id s) := by
  induction n generalizing id s with
  | zero => exact .of_ctxs rfl
  | succ n ih =>
    rw [State.finishRegion]
    split
    · exact .of_ctxs rfl
    · next r _ =>
      split
      · exact .of_ctxs rfl
      · have hend : stayedFrom s (((s.endClaims r).writeStatus r.home r.rcb.toNat r.status).updRegion id
            fun r => { r with phase := .done }) :=
          ((stayedFrom_endClaims s r).trans (stayedFrom_writeStatus _ _ _ _)).trans (stayedFrom_updRegion _ _ _)
        dsimp only
        split
        · exact (hend.trans (stayedFrom_updRegion _ _ _)).trans (ih _ _)
        · split
          · exact (hend.trans (stayedFrom_kernelRecord _ _)).trans (stayedFrom_completeEntry _ _ _)
          · exact hend.trans (stayedFrom_kernelRecord _ _)

theorem stayedFrom_finish (s : State) (id : RegionId) : stayedFrom s (s.finish id) := stayedFrom_finishRegion _ id s

theorem State.mem_dropDone {s : State} {id : RegionId} {d : Ctx} (hd : d ∈ (s.dropDone id).ctxs) (hr : d.region = some id) :
    d ∈ s.ctxs ∧ s.enginesIdle d = false := by
  obtain ⟨hth, hpool, -⟩ := s.dropThose_parts fun c => c.region == some id && s.enginesIdle c
  rw [State.ctxs, List.mem_cons, State.dropDone, hth, hpool] at hd
  obtain rfl | hd := hd
  · split at hr
    · exact nomatch hr
    · next h =>
      rw [if_neg h]
      simp only [hr, beq_self_eq_true, Bool.true_and, Bool.not_eq_true] at h
      exact ⟨List.mem_cons_self, h⟩
  · obtain ⟨hmem, hkept⟩ := List.mem_filter.1 hd
    exact ⟨List.mem_cons_of_mem _ hmem, by simpa [hr] using hkept⟩

/-! ### Completion of a cell (R33) -/

/-- A cell is marked complete. -/
def State.complete (s : State) (cid : CtxId) : State := s.updCtx cid fun c => { c with completed := true }

theorem Ctx.noPending_iff (c : Ctx) : c.noPending = true ↔ ∀ i : BitVec 4, (c.h.get i.toFin).st ≠ .pending := by
  rw [Ctx.noPending, List.all_eq_true]
  constructor
  · intro h i
    have hmem : c.h.get i.toFin ∈ c.h.toList := by simp [Vector.get]
    simpa using h _ hmem
  · intro h x hx
    obtain ⟨n, hn, rfl⟩ := List.mem_iff_getElem.1 hx
    have hn' : n < 16 := by simpa using hn
    simpa [Vector.get] using h (BitVec.ofFin ⟨n, hn'⟩)

section
variable {s : State} {cid : CtxId} {c : Ctx} (hc : s.ctx? cid = some c)
include hc

theorem cellComplete_waits (h : (∃ i : BitVec 4, (c.h.get i.toFin).st = .pending) ∨ c.drained = false ∨ c.mq.eps ≠ []) :
    exec (.evCellComplete cid) s = .next s := by
  show execEvCellComplete cid s = _
  rw [execEvCellComplete, hc]
  refine if_pos ?_
  obtain ⟨i, hi⟩ | hd | he := h
  · have hp : c.noPending = false := by
      rw [← Bool.not_eq_true, Ctx.noPending_iff]
      exact fun hall => hall i hi
    simp [hp]
  · simp [hd]
  · simp [he]

variable (hended : c.ended = true) (hopen : c.completed = false)
  (hp : ∀ i : BitVec 4, (c.h.get i.toFin).st ≠ .pending) (hd : c.drained = true) (he : c.mq.eps = [])
include hended hopen hp hd he

theorem cellComplete_eq : exec (.evCellComplete cid) s = match c.region with
    | none => .next (s.complete cid)
    | some r => .next ((s.complete cid).cellDone r c.logical (if c.restarts = 0 then .ok else .restarted)) := by
  have hpend : c.noPending = true := c.noPending_iff.2 hp
  show execEvCellComplete cid s = _
  rw [execEvCellComplete, hc]
  exact if_neg (by simp [hended, hopen, hpend, hd, he])

end

/-- A region with one more cell complete. -/
def Region.cellDone (r : Region) (k : Nat) (st : CStatus) : Region :=
  { r with doneCells := r.doneCells ++ [k], status := r.status.worst st }.report

theorem State.cellDone_eq {s : State} {id : RegionId} {r : Region} (h : s.region? (some id) = some r) (k : Nat) (st : CStatus) :
    (s.updRegion id fun r => r.cellDone k st).region? (some id) = some (r.cellDone k st) ∧
    s.cellDone id k st = if (r.cellDone k st).allReported then
      (((s.updRegion id fun r => r.cellDone k st).dropDone id).updRegion id fun r => { r with phase := .children }).finish id
    else s.updRegion id fun r => r.cellDone k st := by
  have hq : (s.updRegion id fun r => r.cellDone k st).region? (some id) = some (r.cellDone k st) :=
    State.region?_updRegion h fun _ => rfl
  refine ⟨hq, ?_⟩
  show (match (s.updRegion id fun r => r.cellDone k st).region? (some id) with
    | none => _
    | some r => _) = _
  rw [hq]
  rfl

/-- Once every frame has reported, only contexts whose engines have work stay in the region. -/
theorem cellDone_left {s : State} {id : RegionId} {r : Region} {k : Nat} {st : CStatus} (h : s.region? (some id) = some r)
    (hall : (r.cellDone k st).allReported = true) {d : Ctx} (hd : d ∈ (s.cellDone id k st).ctxs) (hr : d.region = some id) :
    ∃ x ∈ s.ctxs, x.cid = d.cid ∧ s.enginesIdle x = false := by
  rw [(State.cellDone_eq h k st).2, if_pos hall] at hd
  obtain ⟨x, hx, hxc, hxr⟩ := (stayedFrom_updRegion _ _ _).trans (stayedFrom_finish _ _) d hd
  obtain ⟨hmem, hidle⟩ := State.mem_dropDone hx (hxr.trans hr)
  exact ⟨x, hmem, hxc, hidle⟩

theorem enginesIdle_complete {s : State} {cid : CtxId} {d : Ctx} (hd : d ∈ (s.complete cid).ctxs)
    (hidle : (s.complete cid).enginesIdle d = false) : ∃ x ∈ s.ctxs, x.cid = d.cid ∧ s.enginesIdle x = false := by
  rw [State.complete, State.ctxs_updCtx, updateAll, List.mem_map] at hd
  obtain ⟨x, hx, rfl⟩ := hd
  refine ⟨x, hx, ?_⟩
  split at hidle
  · next h => exact ⟨by rw [if_pos h], hidle⟩
  · next h => exact ⟨by rw [if_neg h], hidle⟩

/-! ### Children (R29, R30) -/

theorem bitsAt_one (x lo : Nat) : bitsAt x lo 1 = x / 2 ^ lo % 2 := by rw [bitsAt, Nat.shiftRight_eq_div_pow, pow_one]

section
variable {s : State} {rid : RegionId} {cells : List CellId} {r : Region} (hr : s.region? (some rid) = some r)
  (hph : r.phase = .children) (hk : r.nextKid < r.kids)

/-- The word of the next child in the list of its parent. -/
def State.kidWord (s : State) (r : Region) : Nat :=
  s.launchNum r.home ((s.readRcb r.home r.rcb.toNat).fld 8 0 56 + 8 * r.nextKid) 8

/-- The plan of the next child. -/
def State.kidPlan (s : State) (r : Region) : Plan := s.plan r.home (s.kidWord r % 2 ^ 56) r.a false

/-- The next child of a region is counted. -/
def State.countKid (s : State) (id : RegionId) : State := s.updRegion id fun x => { x with nextKid := x.nextKid + 1 }

/-- The next child is launched on its cells. -/
def State.launchKid (s : State) (r : Region) (cells : List CellId) : State :=
  (s.countKid r.id).launch (s.kidPlan r) r.home
    (BitVec.ofNat 64 (s.kidWord r % 2 ^ 56)) r.asid none (some r) r.slot cells

include hr hph hk

theorem childLaunch_eq : exec (.evChildLaunch rid cells) s =
    if bitsAt (s.kidWord r) 63 1 = 0 && !(s.childrenOf rid).isEmpty then .next s
    else if !(s.kidPlan r).ok then .next (s.childOver r (s.kidWord r % 2 ^ 56) .failed)
    else if (s.kidPlan r).childOver r then .next (s.childOver r (s.kidWord r % 2 ^ 56) .budget)
    else if (s.kidPlan r).own = 0 && (s.kidPlan r).rcb.kids = 0 then .next (s.childOver r (s.kidWord r % 2 ^ 56) .ok)
    else if !(s.kidPlan r).fits (s.freeOf r).contains cells || s.vaultFree r < (s.kidPlan r).a.vault then .next s
    else .next (s.launchKid r cells) := by
  show execEvChildLaunch rid cells s = _
  obtain rfl := State.region?_id hr
  rw [execEvChildLaunch, hr]
  exact if_neg (by simp [hph, hk])

theorem childLaunch_waits (hseq : s.kidWord r / 2 ^ 63 % 2 = 0) (hrun : s.childrenOf rid ≠ []) :
    exec (.evChildLaunch rid cells) s = .next s := by
  rw [childLaunch_eq hr hph hk]
  refine if_pos ?_
  rw [bitsAt_one, hseq]
  simp [hrun]

variable (hgo : s.kidWord r / 2 ^ 63 % 2 = 1 ∨ s.childrenOf rid = [])
include hgo

theorem childLaunch_planned : exec (.evChildLaunch rid cells) s =
    if !(s.kidPlan r).ok then .next (s.childOver r (s.kidWord r % 2 ^ 56) .failed)
    else if (s.kidPlan r).childOver r then .next (s.childOver r (s.kidWord r % 2 ^ 56) .budget)
    else if (s.kidPlan r).own = 0 && (s.kidPlan r).rcb.kids = 0 then .next (s.childOver r (s.kidWord r % 2 ^ 56) .ok)
    else if !(s.kidPlan r).fits (s.freeOf r).contains cells || s.vaultFree r < (s.kidPlan r).a.vault then .next s
    else .next (s.launchKid r cells) := by
  rw [childLaunch_eq hr hph hk]
  refine if_neg ?_
  obtain h | h := hgo
  · rw [bitsAt_one, h]
    simp
  · simp [h]

theorem childLaunch_launches (hok : (s.kidPlan r).ok = true) (hin : (s.kidPlan r).childOver r = false)
    (hown : (s.kidPlan r).own ≠ 0) (hfit : (s.kidPlan r).fits (s.freeOf r).contains cells = true)
    (hv : (s.kidPlan r).a.vault ≤ s.vaultFree r) : exec (.evChildLaunch rid cells) s = .next (s.launchKid r cells) := by
  rw [childLaunch_planned hr hph hk hgo, if_neg (by simp [hok]), if_neg (by simp [hin]), if_neg (by simp [hown]),
    if_neg (by simp [hfit, hv])]

end

/-! ### What a launch puts in place (R31, R334) -/

theorem State.own_keeps {α : Type} {proj : State → α} (h : ∀ s x, proj (State.setCell s x) = proj s) (s : State) (cs : List Ctx) :
    proj (s.own cs) = proj s := foldl_keeps (fun s _ => h s _) cs s

theorem State.owner_setCell {s : State} {x : CellRec} {i : CellId} (hx : x.owner.isSome = true)
    (h : x.id = i ∨ (s.cellRec i).owner.isSome = true) : ((s.setCell x).cellRec i).owner.isSome = true := by
  by_cases hi : x.id = i
  · rwa [State.cellRec_setCell_same s hi]
  · rw [State.cellRec_setCell_other s hi]
    exact h.resolve_left hi

/-- A cell on which a context starts has an owner. -/
theorem State.owner_own {cs : List Ctx} {d : Ctx} (hd : d ∈ cs) (s : State) :
    ((s.own cs).cellRec d.cell).owner.isSome = true := by
  induction cs generalizing s with
  | nil => exact nomatch hd
  | cons c cs ih =>
    obtain rfl | hd := List.mem_cons.1 hd
    · exact foldl_invariant (P := fun t : State => (t.cellRec d.cell).owner.isSome = true)
        (fun t x ht => State.owner_setCell rfl (.inr ht)) cs (State.owner_setCell rfl (.inl (s.cellRec_id _)))
    · exact ih hd _

section
variable (s : State) (p : Plan) (home : Nat) (rcb : Word) (asid : BitVec 16) (queue : Option (Nat × Nat × Word))
  (parent : Option Region) (slot : Option Nat) (cells : List CellId)

/-- The contexts that a launch starts. -/
def State.started : List Ctx := s.launchCtxs p s.freshRegion asid (cmapAt s.tick) cells

/-- The region of a launch, its contexts and their cells, before restart points are noted. -/
theorem State.launch_eq : ∃ q : Region, s.launch p home rcb asid queue parent slot cells =
      (if p.a.free then id else fun t : State => t.notePoints s.freshRegion)
        (({ s.bump with regions := s.regions ++ [q], pool := s.pool ++ s.started p asid cells } : State).own
          (s.started p asid cells)) ∧
    q.parent = parent.map Region.id ∧ q.map = cells ∧
    q.phase = (if (s.started p asid cells).isEmpty then .children else .own) ∧
    q.a = { p.a with domain := p.domain s.freshRegion parent } := by
  unfold State.launch
  cases p.a.free with
  | true => exact ⟨_, rfl, rfl, rfl, rfl, rfl⟩
  | false => exact ⟨_, rfl, rfl, rfl, rfl, rfl⟩

theorem State.noted_keeps {α : Type} {proj : State → α} (h : ∀ s c, proj (State.notePoint s c) = proj s) (b : Bool)
    (id' : RegionId) (t : State) : proj ((if b then id else fun t : State => t.notePoints id') t) = proj t := by
  cases b with
  | true => rfl
  | false => exact State.notePoints_keeps h t id'

/-- A launch adds its contexts and its region at the end; each of its cells has an owner. -/
theorem State.launch_places : memoryKept s (s.launch p home rcb asid queue parent slot cells) ∧
    (s.launch p home rcb asid queue parent slot cells).th = s.th ∧
    (s.launch p home rcb asid queue parent slot cells).pool = s.pool ++ s.started p asid cells ∧
    (∃ q : Region, (s.launch p home rcb asid queue parent slot cells).regions = s.regions ++ [q] ∧
      q.parent = parent.map Region.id ∧ q.map = cells ∧
      q.phase = (if (s.started p asid cells).isEmpty then .children else .own) ∧
      q.a = { p.a with domain := p.domain s.freshRegion parent }) ∧
    ∀ d ∈ s.started p asid cells, ((s.launch p home rcb asid queue parent slot cells).cellRec d.cell).owner.isSome = true := by
  obtain ⟨q, hlaunch, hq⟩ := s.launch_eq p home rcb asid queue parent slot cells
  have hkeep {α : Type} {proj : State → α} (hcell : ∀ s x, proj (State.setCell s x) = proj s)
      (hpoint : ∀ s c, proj (State.notePoint s c) = proj s) : proj (s.launch p home rcb asid queue parent slot cells) =
        proj { s.bump with regions := s.regions ++ [q], pool := s.pool ++ s.started p asid cells } := by
    rw [hlaunch]
    exact (State.noted_keeps hpoint _ _ _).trans (State.own_keeps hcell _ _)
  refine ⟨fun a => hkeep (proj := fun s => s.byteAt a) (fun _ _ => rfl) fun _ _ => rfl,
    hkeep (proj := State.th) (fun _ _ => rfl) fun _ _ => rfl, hkeep (proj := State.pool) (fun _ _ => rfl) fun _ _ => rfl,
    ⟨q, hkeep (proj := State.regions) (fun _ _ => rfl) fun _ _ => rfl, hq⟩, fun d hd => ?_⟩
  rw [hlaunch, State.cellRec_of_cells (State.noted_keeps (proj := State.cells) (fun _ _ => rfl) _ _ _)]
  exact State.owner_own hd _

end

theorem State.started_eq {s : State} {p : Plan} (h : p.own ≠ 0) (asid : BitVec 16) (cells : List CellId) :
    s.started p asid cells = cells.mapIdx fun k i =>
      p.ctx s.freshRegion asid s.freshCid (cmapAt s.tick) s.now ((s.freeSlot i).getD 0) k i
        (leaderOf p.gangs cells s.freshCid k) := if_neg h

theorem rm_launchRegs (sp : Nat) : (launchRegs sp).rm 1 = 0xFFFFFFFF := rfl

/-- What the context of logical cell `k` of a child starts with. -/
def kidStarts (r : Region) (p : Plan) (k : Nat) (i : CellId) (d : Ctx) : Prop :=
  d.place = .user i ∧ d.status = .ready ∧ d.level = .user ∧ d.pc = BitVec.ofNat 64 p.rcb.entry ∧ d.asid = r.asid ∧
    d.sr.lcell = BitVec.ofNat 64 ((p.a.cells - 1) * 65536 + k) ∧ d.regs.rm 1 = 0xFFFFFFFF ∧ d.cell = i

theorem State.started_getElem? {s : State} {p : Plan} (h : p.own ≠ 0) (r : Region) {cells : List CellId} {k : Nat} {i : CellId}
    (hk : cells[k]? = some i) : ∃ d, (s.started p r.asid cells)[k]? = some d ∧ kidStarts r p k i d := by
  rw [State.started_eq h, List.getElem?_mapIdx, hk]
  exact ⟨_, rfl, rfl, rfl, rfl, rfl, rfl, rfl, rfl, rfl⟩

/-! ### Time slices (R53) -/

theorem timeslice_eq {s : State} {i : CellId} {a b : Ctx} (ha : (s.onCell i).find? (fun c => c.status == .running) = some a)
    (hb : (s.onCell i).find? (fun c => c.status == .ready && !c.ended && !s.heldBack c) = some b) :
    exec (.evContextTimeslice i) s =
      if s.stopped (cellFrame i) || s.cyclesIn (cellFrame i) (s.now - a.since) < 65536 then .next s
      else .next ((s.updCtx a.cid fun c => { c with status := .ready }).updCtx b.cid fun c =>
        { c with status := .running, since := s.now }) := by
  show execEvContextTimeslice i s = _
  unfold execEvContextTimeslice
  dsimp only
  rw [ha, hb]
  rfl

/-! ### The three steps -/

/-- Completion of a cell, as the obligation says it. -/
theorem cellCompletes {s : State} {cid : CtxId} {c : Ctx} {id : RegionId} {r : Region} (hc : s.ctx? cid = some c)
    (hr : s.region? (some id) = some r) (st : CStatus) {o : Out}
    (ho : o = .next ((s.complete cid).cellDone id c.logical st)) :
    ((r.cellDone c.logical st).allReported = false → goesTo o fun t => memoryKept s t ∧
      regionIs t id (fun x => x = r.cellDone c.logical st) ∧ ctxIs t cid fun d => d = { c with completed := true }) ∧
    ((r.cellDone c.logical st).allReported = true → goesTo o fun t => ∀ d ∈ t.ctxs, d.region = some id →
      ∃ x ∈ s.ctxs, x.cid = d.cid ∧ s.enginesIdle x = false) := by
  have hr' : (s.complete cid).region? (some id) = some r := hr
  obtain ⟨hq, hdone⟩ := State.cellDone_eq hr' c.logical st
  refine ⟨fun hall => ⟨_, ho, ?_⟩, fun hall => ⟨_, ho, fun d hd hdr => ?_⟩⟩
  · rw [hdone, if_neg (by simp [hall])]
    exact ⟨fun _ => rfl, ⟨_, hq, rfl⟩, _, State.ctx?_updCtx (f := fun c => { c with completed := true }) hc fun _ => rfl, rfl⟩
  · obtain ⟨y, hy, hyc, hidle⟩ := cellDone_left hr' hall hd hdr
    obtain ⟨x, hx, hxc, hxi⟩ := enginesIdle_complete hy hidle
    exact ⟨x, hx, hxc.trans hyc, hxi⟩

theorem State.countKid_pool (s : State) (id : RegionId) : (s.countKid id).pool = s.pool := rfl
theorem State.countKid_regions (s : State) (id : RegionId) : (s.countKid id).regions.length = s.regions.length :=
  updateAll_length _ _ _

/-- What the launch of a child leaves. -/
theorem launchKid_places (s : State) {rid : RegionId} {r : Region} (hid : r.id = rid) (hown : (s.kidPlan r).own ≠ 0)
    (cells : List CellId) {t : State} (ht : t = s.launchKid r cells) : memoryKept s t ∧ t.th = s.th ∧
      t.pool.take s.pool.length = s.pool ∧ (∃ x, t.regions[s.regions.length]? = some x ∧ x.parent = some rid ∧
        x.map = cells ∧ x.phase = (if cells = [] then .children else .own) ∧
        x.a = { (s.kidPlan r).a with domain := x.a.domain } ∧ ((s.kidPlan r).a.nested = false → x.a.domain = r.a.domain)) ∧
      t.pool.length = s.pool.length + cells.length ∧ ∀ (k : Nat) i, cells[k]? = some i →
        ∃ d, t.pool[s.pool.length + k]? = some d ∧ d.place = .user i ∧ d.status = .ready ∧ d.level = .user ∧
          d.pc = BitVec.ofNat 64 (s.kidPlan r).rcb.entry ∧ d.asid = r.asid ∧
          d.sr.lcell = BitVec.ofNat 64 (((s.kidPlan r).a.cells - 1) * 65536 + k) ∧ d.regs.rm 1 = 0xFFFFFFFF ∧
          (t.cellRec i).owner.isSome = true := by
  subst ht
  obtain ⟨hmem, hth, hpool, ⟨q, hregions, hparent, hmap, hphase, hattrs⟩, howner⟩ :=
    (s.countKid r.id).launch_places (s.kidPlan r) r.home
      (BitVec.ofNat 64 (s.kidWord r % 2 ^ 56)) r.asid none (some r) r.slot cells
  have hempty : ((s.countKid r.id).started (s.kidPlan r) r.asid cells).isEmpty = decide (cells = []) := by
    rw [State.started_eq hown]
    cases cells <;> simp
  have hlen : ((s.countKid r.id).started (s.kidPlan r) r.asid cells).length = cells.length := by
    rw [State.started_eq hown, List.length_mapIdx]
  unfold State.launchKid
  refine ⟨hmem, hth, ?_, ⟨q, ?_, hparent.trans (congrArg some hid), hmap, ?_, ?_, fun hn => ?_⟩, ?_, fun k i hk => ?_⟩
  · rw [hpool, State.countKid_pool, List.take_left]
  · rw [hregions, ← s.countKid_regions r.id]
    simp
  · rw [hphase, hempty]
    simp
  · rw [hattrs]
  · rw [hattrs]
    simp [Plan.domain, hn]
  · rw [hpool, State.countKid_pool, List.length_append, hlen]
  · obtain ⟨d, hd, hplace, hstatus, hlevel, hpc, hasid, hlcell, hrm, hcell⟩ := State.started_getElem? hown r hk
    refine ⟨d, ?_, hplace, hstatus, hlevel, hpc, hasid, hlcell, hrm, hcell ▸ howner d (List.mem_of_getElem? hd)⟩
    rw [hpool, State.countKid_pool, List.getElem?_append_right (Nat.le_add_right _ _), Nat.add_sub_cancel_left, hd]

/-- Settles O52: a cell completes, a child launches or ends, and a time slice passes. -/
theorem cellsAndChildren : Obligations.CellsAndChildren := by
  intro s
  refine ⟨fun cid c hc hended hopen => ⟨cellComplete_waits hc, fun hp hd he => ?_⟩,
    fun rid cells r hr hph hk => ⟨childLaunch_waits hr hph hk, fun hgo => ?_⟩, fun i a b ha hb => ?_⟩
  · have heq := cellComplete_eq hc hended hopen hp hd he
    refine ⟨fun hnone => heq.trans (by rw [hnone]; rfl), fun id r hreg hr => ?_⟩
    rw [hreg] at heq
    exact cellCompletes hc hr _ heq
  · have heq := childLaunch_planned (cells := cells) hr hph hk hgo
    refine ⟨fun (hok : (s.kidPlan r).ok = false) => heq.trans (if_pos (by simp [hok])),
      fun (hok : (s.kidPlan r).ok = true) hover => heq.trans ?_,
      fun (hok : (s.kidPlan r).ok = true) (hin : (s.kidPlan r).childOver r = false) =>
        ⟨fun (hown : (s.kidPlan r).own = 0) (hkids : (s.kidPlan r).rcb.kids = 0) => heq.trans ?_,
          fun hown hfit hv => ⟨_, childLaunch_launches hr hph hk hgo hok hin hown hfit hv, ?_⟩⟩⟩
    · rw [if_neg (by simp [hok])]
      exact if_pos hover
    · rw [if_neg (by simp [hok]), if_neg (by simp [hin])]
      exact if_pos (by simp [hown, hkids])
    · exact launchKid_places s (State.region?_id hr) hown cells rfl
  · rw [timeslice_eq ha hb]
    refine ⟨fun h => if_pos ?_, fun h64 hstop => if_neg ?_⟩
    · obtain h | h := h <;> simp [h]
    · simp [h64, hstop]

end Sys2Proof.Machine
end

section
/-!
Exchanges, rounds and the forager token (R34 to R47): a transfer's messages, the edge of a round, and a visit of the token.
-/
namespace Sys2Proof.Machine
open Sys2Proof.Claims

/-! ### Accesses of an engine -/

theorem State.io?_ioPut (s : State) {x : Io} {src : Source} {id : Nat} (hs : x.src = src) (hi : x.id = id) :
    (s.ioPut x).io? src id = some x := by
  subst hs hi
  exact find?_upsert_same (by simp) _

theorem State.io?_congr {s t : State} (h : t.net.ios = s.net.ios) (src : Source) (id : Nat) : t.io? src id = s.io? src id := by
  unfold State.io?
  rw [h]

/-- A part of fixed memory was placed through no entry. -/
theorem dirt_fixedParts {va pa len : Nat} {l : MLevel} {p : Part} (h : p ∈ fixedParts va pa len l) : p.dirt = [] := by
  obtain ⟨q, -, rfl⟩ := List.mem_map.1 h
  rfl

theorem dirt_xferParts {r : Region} {k : Nat} {vault : Bool} {off len : Nat} {p : Part × Nat}
    (h : p ∈ xferParts r k vault off len) : p.1.dirt = [] := by
  obtain ⟨q, hq, rfl⟩ := List.mem_map.1 h
  exact dirt_fixedParts hq

theorem Part.op_clean {p : Part} (h : p.dirt = []) (a : Act) (seq : Nat) :
    p.op .plain a seq = ⟨seq, p.home, p.pa, BitVec.ofNat 64 p.va, ⟨false, none⟩, a, false, []⟩ := by
  rw [Part.op, h]
  rfl

theorem State.ioSendReads_ch (s : State) (src : Source) (id len : Nat) (ps : List (Part × Nat)) :
    (s.ioSendReads src id len ps).net.ch =
      s.net.ch ++ ps.map fun p => ⟨src, p.1.op .plain (.load id p.2 p.1.len []) id⟩ :=
  congrArg (s.net.ch ++ ·) List.map_map

theorem State.ioSendReads_io? {s : State} {src : Source} {id : Nat} (h : s.io? src id = none) (len : Nat)
    (ps : List (Part × Nat)) :
    (s.ioSendReads src id len ps).io? src id = some ⟨src, id, List.replicate len 0, ps.length, 0, none⟩ := by
  unfold State.ioSendReads
  rw [h]
  exact State.io?_ioPut s rfl rfl

theorem State.ioSendWrites_ch (s : State) (c : CtxId) (q id : Nat) (ps : List (Part × List (Option Byte))) :
    (s.ioSendWrites (.engine c q) id ps).net.ch =
      s.net.ch ++ ps.map fun p => ⟨.engine c q, p.1.op .plain (.store p.2) id⟩ :=
  congrArg (s.net.ch ++ ·) List.map_map

theorem State.ioSendWrites_regs (s : State) (c : CtxId) (q id : Nat) (ps : List (Part × List (Option Byte))) :
    (s.ioSendWrites (.engine c q) id ps).th.regs = s.th.regs :=
  State.updCtx_th_keeps (proj := Ctx.regs)
    (f := fun c => { c with mq := ps.foldl (fun q p => q.useEp p.1.home) c.mq }) (fun _ => rfl) _ c

theorem State.chargeCell_regs (s : State) (r : Region) (k : Nat) (ps : List (Part × Nat)) :
    (s.chargeCell r k ps).th.regs = s.th.regs :=
  State.updCtx_th_keeps (proj := Ctx.regs) (f := fun c => c.charge (ps.map Prod.fst)) (fun _ => rfl) _ _

/-! ### Transfers (R36, R37) -/

section
variable {s : State} {rid : RegionId} {r : Region} {x : Xfer} {t0 : Nat} (hr : s.region? (some rid) = some r)
  (hclosed : r.closed = some t0) (hx : (r.exchange (s.superstepOf r))[r.xpos]? = some x)
include hr hclosed hx

theorem exchange_eq : exec (.evExchangeTransfer rid) s =
    if s.now < t0 + 32 * x.slot then .next s else .next (s.transfer r x) := by
  show execEvExchangeTransfer rid s = _
  unfold execEvExchangeTransfer
  rw [hr]
  dsimp only
  rw [hclosed, hx]

end

theorem transfer_waits {s : State} {r : Region} {x : Xfer} (hm : r.xmove = .idle)
    (hready : (s.dataReady r x.srcCell x.srcVault && s.dataReady r x.dstCell x.dstVault) = false) : s.transfer r x = s := by
  unfold State.transfer
  rw [hm]
  exact if_pos (by rwa [← Bool.not_and, Bool.not_eq_true'])

/-- The messages of the reads of a transfer. -/
theorem transfer_reads {s : State} {r : Region} {x : Xfer} (hm : r.xmove = .idle)
    (hready : (s.dataReady r x.srcCell x.srcVault && s.dataReady r x.dstCell x.dstVault) = true) : s.transfer r x =
    ((s.chargeCell r x.srcCell (xferParts r x.srcCell x.srcVault x.srcOff x.len)).ioSendReads (r.mover x) 0 x.len
      (xferParts r x.srcCell x.srcVault x.srcOff x.len)).updRegion r.id fun r => { r with xmove := .reading } := by
  unfold State.transfer
  rw [hm]
  exact if_neg (by rw [← Bool.not_and, hready]; decide)

theorem transfer_writes {s : State} {r : Region} {x : Xfer} {w : Io} (hm : r.xmove = .reading)
    (hw : s.io? (r.mover x) 0 = some w) (hz : w.reads = 0) : s.transfer r x =
    ((s.chargeCell r x.dstCell (xferParts r x.dstCell x.dstVault x.dstOff x.len)).ioSendWrites (r.mover x) 0
      (partData w.buf (xferParts r x.dstCell x.dstVault x.dstOff x.len))).updRegion r.id fun r => { r with xmove := .writing } := by
  have hread : s.ioRead? (r.mover x) 0 = true := by
    rw [State.ioRead?, hw]
    simp [hz]
  have hbuf : s.ioBytes (r.mover x) 0 = w.buf := by
    rw [State.ioBytes, hw]
    rfl
  unfold State.transfer
  rw [hm]
  dsimp only
  rw [if_neg (by simp [hread]), hbuf]

/-- A region whose present transfer is over. -/
def Region.xferOver (r : Region) : Region := { r with xmove := .idle, xpos := r.xpos + 1 }

/-- A transfer that is over. -/
def State.transferred (s : State) (r : Region) (x : Xfer) : State :=
  (s.ioDrop (r.mover x) 0).updRegion r.id Region.xferOver

theorem transfer_over {s : State} {r : Region} {x : Xfer} (hm : r.xmove = .writing) (ho : s.ioOver (r.mover x) 0 = true) :
    s.transfer r x = (s.transferred r x).closeBarrier r.id := by
  unfold State.transfer
  rw [hm]
  exact if_neg (by simp [ho])

theorem goesOn_transferred (s : State) (r : Region) (x : Xfer) : GoesOn s (s.transferred r x) := ⟨rfl, rfl, rfl, rfl, rfl⟩

theorem transferred_exchange (s : State) (r : Region) (x : Xfer) :
    r.xferOver.exchange ((s.transferred r x).superstepOf r.xferOver) =
    r.exchange (s.superstepOf r) :=
  congrArg r.exchange ((goesOn_transferred s r x).superstepOf rfl)

section
variable {s : State} {r : Region} (hr : s.region? (some r.id) = some r) (x : Xfer)
include hr

theorem transferred_region? : (s.transferred r x).region? (some r.id) = some r.xferOver :=
  State.region?_updRegion (s := s.ioDrop (r.mover x) 0) hr fun _ => rfl

/-- After a transfer that is not the last one, the barrier stays closed for the next. -/
theorem transferred_next {t0 : Nat} (hclosed : r.closed = some t0)
    (hmore : r.xpos + 1 < (r.exchange (s.superstepOf r)).length) :
    (s.transferred r x).closeBarrier r.id = s.transferred r x := by
  have hmoved : decide ((r.exchange (s.superstepOf r)).length ≤ r.xferOver.xpos) = false :=
    decide_eq_false (Nat.not_le.2 hmore)
  have hshut : r.xferOver.closed.isSome = true := congrArg Option.isSome hclosed
  rw [State.closeBarrier_eq (transferred_region? hr x), transferred_exchange, hmoved, if_neg Bool.false_ne_true, if_pos hshut,
    ite_self]

/-- After the last transfer the next compute phase begins, when every member waits for it. -/
theorem transferred_last (hf : r.a.free = false) (hj : r.joined ≠ []) (hlast : r.xpos + 1 = (r.exchange (s.superstepOf r)).length)
    (hall : ∀ k < r.map.length, k ∈ r.joined ∧ s.joinHere r k = true) :
    (s.transferred r x).closeBarrier r.id = (s.transferred r x).computeBegin r.xferOver := by
  have hhere (k : Nat) : (s.transferred r x).joinHere r.xferOver k = s.joinHere r k := rfl
  have hjoined : (s.transferred r x).allJoined r.xferOver = true := by
    refine List.all_eq_true.2 fun k hk => ?_
    obtain ⟨hmem, hin⟩ := hall k (List.mem_range.1 hk)
    have hmem' : r.xferOver.joined.contains k = true := List.contains_iff_mem.2 hmem
    rw [hhere, hin, hmem']
    rfl
  have hopen : (r.xferOver.a.free || r.xferOver.joined.isEmpty) = false := by
    have : r.xferOver.joined.isEmpty = false := by simpa [Region.xferOver] using hj
    rw [this]
    exact (Bool.or_false _).trans hf
  have hmoved : decide ((r.exchange (s.superstepOf r)).length ≤ r.xferOver.xpos) = true := decide_eq_true hlast.ge
  rw [State.closeBarrier_eq (transferred_region? hr x), transferred_exchange, hmoved, hopen, hjoined]
  rfl

end

theorem State.computeBegin_regionIs {s : State} {r : Region} (h : s.region? (some r.id) = some r) :
    (s.computeBegin r).region? (some r.id) = some { r with joined := [], closed := none, xpos := 0, xmove := .idle } := by
  rw [State.computeBegin_eq, State.region?_congr (State.notePoints_regions _ _)]
  exact State.region?_updRegion (s := { s with th := s.th.beginPhase r.id, pool := s.pool.map (Ctx.beginPhase r.id) }) h
    fun _ => rfl

/-! ### Transfers as the obligation says them -/

section
variable {s : State} {rid : RegionId} {r : Region} {x : Xfer} {o : Out} (hr : s.region? (some rid) = some r)
  (ho : o = .next (s.transfer r x))
include hr ho

theorem transfer_begins (hm : r.xmove = .idle)
    (hready : (s.dataReady r x.srcCell x.srcVault && s.dataReady r x.dstCell x.dstVault) = true)
    (hio : s.io? (r.mover x) 0 = none) : goesTo o fun t =>
      memoryKept s t ∧ t.th.regs = s.th.regs ∧ regionIs t rid (fun y => y = { r with xmove := .reading }) ∧
      t.io? (r.mover x) 0 = some ⟨r.mover x, 0, List.replicate x.len 0,
        (xferParts r x.srcCell x.srcVault x.srcOff x.len).length, 0, none⟩ ∧
      t.net.ch = s.net.ch ++ (xferParts r x.srcCell x.srcVault x.srcOff x.len).map fun p =>
        ⟨r.mover x, ⟨0, p.1.home, p.1.pa, BitVec.ofNat 64 p.1.va, ⟨false, none⟩, .load 0 p.2 p.1.len [], false, []⟩⟩ := by
  obtain rfl := State.region?_id hr
  rw [transfer_reads hm hready] at ho
  refine ⟨_, ho, fun _ => rfl, ?_, ⟨_, State.region?_updRegion hr fun _ => rfl, rfl⟩, ?_, ?_⟩
  · rw [State.updRegion_th, State.ioSendReads_th, State.chargeCell_regs]
  · exact State.ioSendReads_io? hio _ _
  · refine (State.ioSendReads_ch ..).trans (congrArg (s.net.ch ++ ·) (List.map_congr_left fun p hp => ?_))
    rw [Part.op_clean (dirt_xferParts hp)]

theorem transfer_goesOn {w : Io} (hm : r.xmove = .reading) (hw : s.io? (r.mover x) 0 = some w) (hz : w.reads = 0) :
    goesTo o fun t =>
      memoryKept s t ∧ t.th.regs = s.th.regs ∧ regionIs t rid (fun y => y = { r with xmove := .writing }) ∧
      t.net.ch = s.net.ch ++ (xferParts r x.dstCell x.dstVault x.dstOff x.len).map fun p =>
        ⟨r.mover x, ⟨0, p.1.home, p.1.pa, BitVec.ofNat 64 p.1.va, ⟨false, none⟩,
          .store (((w.buf.drop p.2).take p.1.len).map some), false, []⟩⟩ := by
  obtain rfl := State.region?_id hr
  rw [transfer_writes hm hw hz] at ho
  refine ⟨_, ho, fun _ => rfl, ?_, ⟨_, State.region?_updRegion hr fun _ => rfl, rfl⟩, ?_⟩
  · rw [State.updRegion_th, Region.mover, State.ioSendWrites_regs, State.chargeCell_regs]
  · refine (State.ioSendWrites_ch ..).trans (congrArg (s.net.ch ++ ·) ?_)
    rw [partData, List.map_map]
    refine List.map_congr_left fun p hp => ?_
    dsimp only [Function.comp]
    rw [Part.op_clean (dirt_xferParts hp)]
    rfl

/-- The end of a transfer: the next one, or the next compute phase. -/
theorem transfer_ends {t0 : Nat} (hm : r.xmove = .writing) (hover : s.ioOver (r.mover x) 0 = true) (hf : r.a.free = false)
    (hj : r.joined ≠ []) (hclosed : r.closed = some t0) :
    (r.xpos + 1 < (r.exchange (s.superstepOf r)).length → goesTo o fun t => memoryKept s t ∧ t.th = s.th ∧
      regionIs t rid fun y => y = { r with xmove := .idle, xpos := r.xpos + 1 }) ∧
    (r.xpos + 1 = (r.exchange (s.superstepOf r)).length → (∀ k < r.map.length, k ∈ r.joined ∧ s.joinHere r k = true) →
      goesTo o fun t => memoryKept s t ∧
        regionIs t rid fun y => y = { r with joined := [], closed := none, xpos := 0, xmove := .idle }) := by
  obtain rfl := State.region?_id hr
  rw [transfer_over hm hover] at ho
  have hq := transferred_region? hr x
  constructor
  · intro hmore
    rw [transferred_next hr x hclosed hmore] at ho
    exact ⟨_, ho, fun _ => rfl, rfl, _, hq, rfl⟩
  · intro hlast hall
    rw [transferred_last hr x hf hj hlast hall] at ho
    exact ⟨_, ho, fun a => memoryKept_of_besides ((s.transferred r x).computeBegin_besides _) a, _,
      State.computeBegin_regionIs hq, rfl⟩

end

/-! ### Edges of rounds (R42) -/

theorem Ctx.pushAll_iq (c : Ctx) (fs : List (Nat → MemOp)) : (c.pushAll fs).mq.iq.length = c.mq.iq.length + fs.length := by
  induction fs generalizing c with
  | nil => rfl
  | cons f fs ih =>
    refine (ih (c.push f)).trans ?_
    simp [Ctx.push]
    omega

theorem Ctx.pushAll_keeps {α : Type} {proj : Ctx → α} (h : ∀ c f, proj (Ctx.push c f) = proj c) (c : Ctx)
    (fs : List (Nat → MemOp)) : proj (c.pushAll fs) = proj c := foldl_keeps h fs c

theorem Ctx.sendMarkers_iq (c : Ctx) (r : Region) (n : Nat) :
    (c.sendMarkers r n).mq.iq.length = c.mq.iq.length + (r.outputs c.logical).length :=
  (c.pushAll_iq _).trans (by rw [List.length_map])

theorem Ctx.sendMarkers_keeps {α : Type} {proj : Ctx → α} (h : ∀ c f, proj (Ctx.push c f) = proj c) (c : Ctx) (r : Region)
    (n : Nat) : proj (c.sendMarkers r n) = proj c := Ctx.pushAll_keeps h c _

/-- The restart point with which an edge starts. -/
def State.edgePoint (s : State) (c : Ctx) : RestartPoint := ⟨c, s.carveOut c, [], [], c.sr.round.toNat + 1, false⟩

/-- An edge that waits for the markers of its inputs. -/
def State.openEdge (s : State) (r : Region) (c : Ctx) : State :=
  ({ s with points := s.points ++ [s.edgePoint c] } : State).updCtx c.cid fun x => x.sendMarkers r (c.sr.round.toNat + 1)

theorem startEdge_eq (s : State) (r : Region) (c : Ctx) : s.startEdge r c =
    if (r.inputs c.logical).isEmpty then (s.openEdge r c).enterRound c.cid else s.openEdge r c := rfl

theorem openEdge_edge? {s : State} {r : Region} {c : Ctx} (h : s.edge? c.cid = none) :
    (s.openEdge r c).edge? c.cid = some (s.edgePoint c) := by
  unfold State.edge? at h
  show (s.points ++ [s.edgePoint c]).find? _ = _
  rw [List.find?_append, h]
  simp [State.edgePoint]

/-- The restart point of a completed edge. -/
def RestartPoint.entered (p : RestartPoint) : RestartPoint :=
  { p with ctx := { p.ctx with sr := { p.ctx.sr with round := BitVec.ofNat 64 p.round } }, done := true }

theorem enterRound_eq {s : State} {cid : CtxId} {p : RestartPoint} (h : s.edge? cid = some p) : s.enterRound cid =
    ({ s with points := (s.points.filter fun x => x.ctx.cid != cid) ++ [p.entered] } : State).updCtx cid fun x =>
      { x with sr := { x.sr with round := BitVec.ofNat 64 p.round }, roundAt := s.now } := by
  unfold State.enterRound
  rw [h]
  rfl

end Sys2Proof.Machine
end

section
/-!
The steps of round edges and of the forager token (R42, R46, R47).
-/
namespace Sys2Proof.Machine
open Sys2Proof.Claims

/-! ### The round timer (R42) -/

theorem Ctx.not_recordable {c : Ctx} (h : c.resident = false ∨ c.fault ≠ none ∨ c.drained = false) : c.recordable = false := by
  unfold Ctx.recordable
  obtain h | h | h := h
  · simp [h]
  · simp [h]
  · simp [h]

section
variable {s : State} {cid : CtxId} {c : Ctx} {r : Region} (hc : s.ctx? cid = some c) (hreg : s.regionOf c = some r)
include hc hreg

theorem roundTimer_eq (hrounds : r.a.rounds = true) (hopen : c.completed = false) (hedge : s.edge? cid = none) :
    exec (.evRoundTimerExpiry cid) s = if c.recordable && s.roundOver r c then .next (s.startEdge r c) else .next s := by
  show execEvRoundTimerExpiry cid s = _
  rw [execEvRoundTimerExpiry, hc]
  dsimp only
  rw [hreg]
  dsimp only
  rw [hrounds, hopen, hedge]
  cases c.recordable <;> cases s.roundOver r c <;> rfl

end

theorem openEdge_ctx? {s : State} {r : Region} {c : Ctx} (hc : s.ctx? c.cid = some c) :
    (s.openEdge r c).ctx? c.cid = some (c.sendMarkers r (c.sr.round.toNat + 1)) :=
  State.ctx?_updCtx (s := { s with points := s.points ++ [s.edgePoint c] })
    (f := fun x => x.sendMarkers r (c.sr.round.toNat + 1)) hc
    fun x => Ctx.sendMarkers_keeps (proj := Ctx.cid) (fun _ _ => rfl) x r _

/-- The start of an edge: the restart point that it leaves, and what its context goes on with. -/
theorem startEdge_records {s : State} {r : Region} {c : Ctx} (hc : s.ctx? c.cid = some c) (hedge : s.edge? c.cid = none) :
    memoryKept s (s.startEdge r c) ∧
    (∃ p, (s.startEdge r c).points.getLast? = some p ∧ p.ctx = (if r.inputs c.logical = [] then
        { c with sr := { c.sr with round := BitVec.ofNat 64 (c.sr.round.toNat + 1) } } else c) ∧ p.carve = s.carveOut c ∧
      p.round = c.sr.round.toNat + 1 ∧ p.done = (r.inputs c.logical).isEmpty) ∧
    ctxIs (s.startEdge r c) c.cid fun d => d.regs = c.regs ∧
      d.mq.iq.length = c.mq.iq.length + (r.outputs c.logical).length ∧
      d.sr.round = if r.inputs c.logical = [] then BitVec.ofNat 64 (c.sr.round.toNat + 1) else c.sr.round := by
  have hregs : (c.sendMarkers r (c.sr.round.toNat + 1)).regs = c.regs :=
    Ctx.sendMarkers_keeps (fun _ _ => rfl) c r _
  have hsr : (c.sendMarkers r (c.sr.round.toNat + 1)).sr = c.sr := Ctx.sendMarkers_keeps (fun _ _ => rfl) c r _
  have hiq := c.sendMarkers_iq r (c.sr.round.toNat + 1)
  have hopened := openEdge_ctx? (r := r) hc
  rw [startEdge_eq]
  by_cases hin : r.inputs c.logical = []
  · rw [hin, List.isEmpty_nil, if_pos rfl, enterRound_eq (openEdge_edge? hedge)]
    refine ⟨fun _ => rfl, ⟨_, List.getLast?_concat .., rfl, rfl, rfl, rfl⟩, ?_⟩
    exact ctxIs_updCtx (f := fun x => { x with
      sr := { x.sr with round := BitVec.ofNat 64 (s.edgePoint c).round }, roundAt := (s.openEdge r c).now }) hopened
      (fun _ => rfl) ⟨hregs, hiq, rfl⟩
  · have hsome : (r.inputs c.logical).isEmpty = false := by simpa using hin
    rw [hsome, if_neg Bool.false_ne_true, if_neg hin, if_neg hin]
    exact ⟨fun _ => rfl, ⟨s.edgePoint c, List.getLast?_concat .., rfl, rfl, rfl, rfl⟩, _, hopened, hregs, hiq,
      congrArg SrBank.round hsr⟩

/-! ### Markers (R42) -/

theorem length_dropFirst {α : Type} {p : α → Bool} {xs : List α} {x : α} (hx : x ∈ xs) (hp : p x = true) :
    (dropFirst p xs).length + 1 = xs.length := by
  induction xs with
  | nil => exact nomatch hx
  | cons y ys ih =>
    rw [dropFirst]
    split
    · rfl
    · next hy =>
      have hys : x ∈ ys := (List.mem_cons.1 hx).resolve_left fun e => hy (e ▸ hp)
      rw [List.length_cons, List.length_cons, ih hys]

theorem State.markerAt_mem {s : State} {dst : CtxId} {src : Nat} {f : Flight} {n : Nat} (h : s.markerAt dst src = some (f, n)) :
    f ∈ s.net.aq := by
  unfold State.markerAt at h
  dsimp only at h
  split at h
  · exact nomatch h
  · next g hg =>
    split at h
    · obtain ⟨rfl, -⟩ := Prod.mk.inj (Option.some.inj h)
      exact List.mem_of_find?_eq_some hg
    · exact nomatch h

/-- A marker leaves the network and is answered. -/
def State.takeMarker (s : State) (f : Flight) : State :=
  ({ s with net := { s.net with aq := dropFirst (fun g => g.src == f.src && g.op.seq == f.op.seq) s.net.aq } }).reply
    (f.answer none [] false)

/-- What the arrival of a marker does to memory and to the network. -/
theorem markerLeaves {s t : State} {f : Flight} (hf : f ∈ s.net.aq) (hmem : t.mem = s.mem) (hnet : t.net = (s.takeMarker f).net) :
    memoryKept s t ∧ t.net.aq.length + 1 = s.net.aq.length ∧ t.net.replies.length = s.net.replies.length + 1 := by
  have hwq : t.net.wq = s.net.wq := by rw [hnet]; rfl
  refine ⟨fun a => ?_, ?_, ?_⟩
  · unfold State.byteAt
    rw [hmem, hwq]
  · rw [hnet]
    exact length_dropFirst hf (by simp)
  · rw [hnet]
    exact List.length_append

/-- Is a restart point the open edge of a cell. -/
def opensEdge (cid : CtxId) (p : RestartPoint) : Bool := p.ctx.cid == cid && !p.done

/-- A marker joins the open edge of a cell. -/
def State.mark (s : State) (cid : CtxId) (src : Nat) : State :=
  { s with points := updateAll (opensEdge cid) (fun p => { p with marked := p.marked ++ [src] }) s.points }

theorem State.mark_edge? {s : State} {cid : CtxId} {p : RestartPoint} (h : s.edge? cid = some p) (src : Nat) :
    (s.mark cid src).edge? cid = some { p with marked := p.marked ++ [src] } := by
  have hfind : s.points.find? (opensEdge cid) = some p := h
  exact (find?_updateAll (p := opensEdge cid) (f := fun p : RestartPoint => { p with marked := p.marked ++ [src] })
    (fun _ hx => hx) _).trans (by rw [hfind]; rfl)

/-- The edge of a cell is complete once every input has sent its marker. -/
def State.closeEdge (s : State) (cid : CtxId) (inputs : List Nat) : State :=
  if inputs.all fun k => ((s.edge? cid).map fun p => p.marked.contains k).getD true then s.enterRound cid else s

/-- The edge that a marker of a new round joins. -/
def State.edgeFor (s : State) (r : Region) (c : Ctx) (cid : CtxId) : State :=
  if (s.edge? cid).isSome then s else s.startEdge r c

/-- A marker closes the edge that it joins once it was the last. -/
theorem closeEdge_point {s : State} {cid : CtxId} {p : RestartPoint} (h : s.edge? cid = some p) (inputs : List Nat) :
    ∃ q ∈ (s.closeEdge cid inputs).points, q.ctx.cid = cid ∧ q.marked = p.marked ∧
      (q.done = true ↔ ∀ k ∈ inputs, k ∈ p.marked) := by
  obtain ⟨hcid, hopen⟩ : p.ctx.cid = cid ∧ p.done = false := by
    simpa using List.find?_some (p := fun p : RestartPoint => p.ctx.cid == cid && !p.done) h
  unfold State.closeEdge
  rw [h]
  dsimp only [Option.map_some, Option.getD_some]
  split
  · next hall =>
    rw [enterRound_eq h]
    refine ⟨p.entered, List.mem_append_right _ (List.mem_singleton_self _), hcid, rfl, fun _ => ?_, fun _ => rfl⟩
    simpa using hall
  · next hall =>
    refine ⟨p, List.mem_of_find?_eq_some h, hcid, rfl, ?_⟩
    rw [hopen]
    simpa using hall

theorem State.enterRound_mem (s : State) (cid : CtxId) : (s.enterRound cid).mem = s.mem := by
  unfold State.enterRound
  split <;> rfl
theorem State.enterRound_net (s : State) (cid : CtxId) : (s.enterRound cid).net = s.net := by
  unfold State.enterRound
  split <;> rfl

theorem State.closeEdge_mem (s : State) (cid : CtxId) (inputs : List Nat) : (s.closeEdge cid inputs).mem = s.mem := by
  unfold State.closeEdge
  split
  · exact s.enterRound_mem cid
  · rfl
theorem State.closeEdge_net (s : State) (cid : CtxId) (inputs : List Nat) : (s.closeEdge cid inputs).net = s.net := by
  unfold State.closeEdge
  split
  · exact s.enterRound_net cid
  · rfl

/-- A cell with inputs waits for their markers on the edge that the first of them starts. -/
theorem edgeFor_opens {s : State} {r : Region} {c : Ctx} {src : Nat} (hsrc : src ∈ r.inputs c.logical) :
    (∃ p, (s.edgeFor r c c.cid).edge? c.cid = some p) ∧ (s.edgeFor r c c.cid).mem = s.mem ∧
      (s.edgeFor r c c.cid).net = s.net := by
  have hsome : (r.inputs c.logical).isEmpty = false := by
    rw [List.isEmpty_eq_false_iff]
    exact List.ne_nil_of_mem hsrc
  unfold State.edgeFor
  cases hedge : s.edge? c.cid with
  | some p => exact ⟨⟨p, hedge⟩, rfl, rfl⟩
  | none =>
    rw [Option.isSome_none, if_neg Bool.false_ne_true, startEdge_eq, hsome, if_neg Bool.false_ne_true]
    exact ⟨⟨_, openEdge_edge? hedge⟩, rfl, rfl⟩

section
variable {s : State} {cid : CtxId} {c : Ctx} {r : Region} {src n : Nat} {f : Flight} (hc : s.ctx? cid = some c)
  (hm : s.markerAt cid src = some (f, n)) (hreg : s.regionOf c = some r) (hin : c.resident = true) (hopen : c.completed = false)
include hc hm hreg hin hopen

theorem roundMarker_old (hn : n ≤ c.sr.round.toNat) : exec (.evRoundMarkerArrival cid src) s = .next (s.takeMarker f) := by
  have hfresh : decide (c.sr.round.toNat < n) = false := decide_eq_false (Nat.not_lt.2 hn)
  show execEvRoundMarkerArrival cid src s = _
  rw [execEvRoundMarkerArrival, hc, hm]
  dsimp only
  rw [hreg]
  dsimp only
  rw [hin, hopen, hfresh]
  rfl

variable (hn : c.sr.round.toNat + 1 = n)
include hn

theorem roundMarker_new : exec (.evRoundMarkerArrival cid src) s =
    if (s.edge? cid).isSome || c.recordable then
      .next ((((s.takeMarker f).edgeFor r c cid).mark cid src).closeEdge cid (r.inputs c.logical))
    else .next s := by
  have hfresh : decide (c.sr.round.toNat < n) = true := decide_eq_true (by omega)
  show execEvRoundMarkerArrival cid src s = _
  rw [execEvRoundMarkerArrival, hc, hm]
  dsimp only
  rw [hreg]
  dsimp only
  rw [hin, hopen, hfresh, hn, bne_self_eq_false]
  cases hb : (s.edge? cid).isSome || c.recordable with
  | false => rfl
  | true =>
    refine (if_neg (by decide)).trans ((if_neg (by decide)).trans ?_)
    rw [State.closeEdge, apply_ite Host.Outcome.next]
    rfl

/-- A marker of the next round starts or joins the edge, and completes it once it was the last. -/
theorem roundMarker_joins (hsrc : src ∈ r.inputs c.logical) (hgo : s.edge? cid ≠ none ∨ c.recordable = true) :
    goesTo (exec (.evRoundMarkerArrival cid src) s) fun t =>
      (memoryKept s t ∧ t.net.aq.length + 1 = s.net.aq.length ∧ t.net.replies.length = s.net.replies.length + 1) ∧
      ∃ p ∈ t.points, p.ctx.cid = cid ∧ src ∈ p.marked ∧ (p.done = true ↔ ∀ k ∈ r.inputs c.logical, k ∈ p.marked) := by
  obtain rfl := State.ctx?_cid hc
  have hgo' : ((s.edge? c.cid).isSome || c.recordable) = true := by
    rw [Bool.or_eq_true]
    exact hgo.imp_left Option.isSome_iff_ne_none.2
  refine ⟨_, (roundMarker_new hc hm hreg hin hopen hn).trans (if_pos hgo'), ?_, ?_⟩
  · obtain ⟨-, hmem, hnet⟩ := edgeFor_opens (s := s.takeMarker f) (r := r) (c := c) hsrc
    exact markerLeaves (State.markerAt_mem hm) ((State.closeEdge_mem ..).trans hmem) ((State.closeEdge_net ..).trans hnet)
  · obtain ⟨⟨p, hp⟩, -⟩ := edgeFor_opens (s := s.takeMarker f) (r := r) (c := c) hsrc
    obtain ⟨q, hq, hcid, hmarked, hdone⟩ := closeEdge_point (State.mark_edge? hp src) (r.inputs c.logical)
    refine ⟨q, hq, hcid, ?_, ?_⟩
    · rw [hmarked]
      simp
    · rw [hmarked]
      exact hdone

end

/-! ### The forager token (R46, R47) -/

/-- The mark and the balance of the token after a visit to a cell whose context is `c` (R47). -/
def Token.marked (k : Token) (c : Ctx) : Bool := k.mark || c.mail.flag
def Token.sum (k : Token) (c : Ctx) : Int := (BitVec.ofInt 64 (k.balance + (c.mail.sent - c.mail.received).toInt)).toInt

/-- The flag of a visited cell clears. -/
def State.clearFlag (s : State) (c : Ctx) : State := s.updCtx c.cid fun c => { c with mail := { c.mail with flag := false } }

theorem State.visit_eq {s : State} {r : Region} {k : Nat} {c : Ctx} (h : s.member? r k = some c) :
    s.visit r k = ((c.mail.sent - c.mail.received).toInt, c.mail.flag, s.clearFlag c) := by
  rw [State.visit, h]
  rfl

section
variable {s : State} {rid : RegionId} {r : Region} (hr : s.region? (some rid) = some r) (hfree : r.a.free = true)
  (hown : r.phase = .own) (hrun : r.terminated = false) (hctxs : r.ctxs ≠ [])
include hr

theorem tokenPass_waits (hp : s.passive r r.token.pos = false) : exec (.evTokenPass rid) s = .next s := by
  show execEvTokenPass rid s = _
  rw [execEvTokenPass, hr]
  exact if_pos (by simp [hp])

include hfree hown hrun hctxs
variable (hp : s.passive r r.token.pos = true)
include hp

theorem tokenPass_starts (hs : r.token.started = false) : exec (.evTokenPass rid) s = .next (s.updRegion rid fun x =>
    { x with token := ⟨1 % r.ctxs.length, false, 0, r.token.pass + 1, true⟩ }) := by
  show execEvTokenPass rid s = _
  rw [execEvTokenPass, hr]
  dsimp only
  rw [if_neg (by simp [hfree, hown, hrun, hctxs, hp]), if_pos (by simp [hs])]

variable (hs : r.token.started = true) {c : Ctx} (hc : s.member? r r.token.pos = some c)
include hs hc

theorem tokenPass_visits : exec (.evTokenPass rid) s =
    if r.token.pos ≠ 0 then .next ((s.clearFlag c).updRegion rid fun x => { x with
      token := { r.token with pos := (r.token.pos + 1) % r.ctxs.length, mark := r.token.marked c, balance := r.token.sum c } })
    else if !r.token.marked c ∧ r.token.sum c = 0 then
      .next (((s.clearFlag c).updRegion rid fun x => { x with
        token := ⟨0, r.token.marked c, r.token.sum c, r.token.pass, false⟩ }).terminate r)
    else .next ((s.clearFlag c).updRegion rid fun x => { x with
        token := ⟨0, r.token.marked c, r.token.sum c, r.token.pass, false⟩ }) := by
  show execEvTokenPass rid s = _
  rw [execEvTokenPass, hr]
  dsimp only
  rw [if_neg (by simp [hfree, hown, hrun, hctxs, hp]), if_neg (by simp [hs]), State.visit_eq hc]
  rfl

end

theorem State.terminate_keeps {α : Type} {proj : State → α} (hctx : ∀ s c f, proj (State.updCtx s c f) = proj s)
    (hnet : ∀ (s : State) w, proj { s with net := { s.net with evwait := w } } = proj s) (s : State) (r : Region) :
    proj (s.terminate r) = proj (s.updRegion r.id fun r => { r with terminated := true }) := by
  unfold State.terminate
  dsimp only
  exact (foldl_keeps (fun s c => hctx s c _) _ _).trans ((foldl_keeps (fun s _ => hctx s _ _) _ _).trans (hnet _ _))

theorem State.terminate_memoryKept (s : State) (r : Region) : memoryKept s (s.terminate r) := fun a =>
  State.terminate_keeps (proj := fun s => s.byteAt a) (fun _ _ _ => rfl) (fun _ _ => rfl) s r

theorem State.terminate_region? {s : State} {id : RegionId} {r q : Region} (hid : r.id = id) (h : s.region? (some id) = some q) :
    (s.terminate r).region? (some id) = some { q with terminated := true } := by
  subst hid
  rw [State.region?_congr (State.terminate_keeps (proj := State.regions) (fun _ _ _ => rfl) (fun _ _ => rfl) s r)]
  exact State.region?_updRegion h fun _ => rfl

/-- A visit of the token. -/
theorem tokenPass_counts {s : State} {rid : RegionId} {r : Region} {c : Ctx} (hr : s.region? (some rid) = some r)
    (hfree : r.a.free = true) (hown : r.phase = .own) (hrun : r.terminated = false) (hctxs : r.ctxs ≠ [])
    (hp : s.passive r r.token.pos = true) (hs : r.token.started = true) (hc : s.member? r r.token.pos = some c) :
    goesTo (exec (.evTokenPass rid) s) fun t => memoryKept s t ∧ regionIs t rid fun y =>
      (r.token.pos ≠ 0 → y = { r with token := { r.token with
          pos := (r.token.pos + 1) % r.ctxs.length, mark := r.token.marked c, balance := r.token.sum c } }) ∧
      (r.token.pos = 0 → y.token = ⟨0, r.token.marked c, r.token.sum c, r.token.pass, false⟩ ∧
        y.terminated = decide (r.token.marked c = false ∧ r.token.sum c = 0)) := by
  have hvisit := tokenPass_visits hr hfree hown hrun hctxs hp hs hc
  have hr' : (s.clearFlag c).region? (some rid) = some r := hr
  have hround : ((s.clearFlag c).updRegion rid fun x => { x with
      token := ⟨0, r.token.marked c, r.token.sum c, r.token.pass, false⟩ }).region? (some rid) =
        some { r with token := ⟨0, r.token.marked c, r.token.sum c, r.token.pass, false⟩ } :=
    State.region?_updRegion hr' fun _ => rfl
  by_cases hpos : r.token.pos = 0
  · rw [if_neg (not_not.2 hpos)] at hvisit
    by_cases hclean : r.token.marked c = false ∧ r.token.sum c = 0
    · rw [if_pos (by simpa using hclean)] at hvisit
      exact ⟨_, hvisit, State.terminate_memoryKept _ r, _, State.terminate_region? (State.region?_id hr) hround,
        fun h => absurd hpos h, fun _ => ⟨rfl, (decide_eq_true hclean).symm⟩⟩
    · rw [if_neg (by simpa using hclean)] at hvisit
      exact ⟨_, hvisit, fun _ => rfl, _, hround, fun h => absurd hpos h,
        fun _ => ⟨rfl, hrun.trans (decide_eq_false hclean).symm⟩⟩
  · rw [if_pos hpos] at hvisit
    exact ⟨_, hvisit, fun _ => rfl, _, State.region?_updRegion hr' fun _ => rfl, fun _ => rfl, fun h => absurd h hpos⟩

/-- Settles O53: transfers, round edges, markers and the token, a lemma for each of their outcomes. -/
theorem exchangesRoundsAndToken : Obligations.ExchangesRoundsAndToken := by
  intro s rid r hr
  refine ⟨fun t0 x => ?_, fun cid c hc hreg hrounds hopen hedge => ?_,
    fun cid src c f n hc hm hreg hin hopen hsrc => ⟨fun hn => ?_, fun hn hedge hrec => ?_, fun hn hgo => ?_⟩,
    fun hfree hown hrun hctxs => ⟨tokenPass_waits hr, fun hp hs => ?_,
      fun c hp hs hc => tokenPass_counts hr hfree hown hrun hctxs hp hs hc⟩⟩
  · intro xs m srcs dsts ready moves hclosed hx
    have heq := exchange_eq hr hclosed hx
    refine ⟨fun hearly => heq.trans (if_pos hearly), fun hdue => ?_⟩
    have ho := heq.trans (if_neg (Nat.not_lt.2 hdue))
    exact ⟨fun hm hready => ho.trans (congrArg _ (transfer_waits hm hready)),
      fun hm hready hio => transfer_begins hr ho hm hready hio, fun w hm hw hz => transfer_goesOn hr ho hm hw hz,
      fun hm hover hf hj => transfer_ends hr ho hm hover hf hj hclosed⟩
  · obtain rfl := State.ctx?_cid hc
    have heq := roundTimer_eq hc hreg hrounds hopen hedge
    refine ⟨fun h => heq.trans (if_neg ?_), fun hdue hrec => ⟨_, heq.trans (if_pos ?_), startEdge_records hc hedge⟩⟩
    · obtain h | h := h
      · simp [State.roundOver, h]
      · simp [Ctx.not_recordable h]
    · simp [State.roundOver, hdue, hrec]
  · exact ⟨_, roundMarker_old hc hm hreg hin hopen hn, markerLeaves (State.markerAt_mem hm) rfl rfl, rfl, rfl, rfl⟩
  · refine (roundMarker_new hc hm hreg hin hopen hn).trans (if_neg ?_)
    simp [hedge, hrec]
  · exact roundMarker_joins hc hm hreg hin hopen hn hsrc hgo
  · exact ⟨_, tokenPass_starts hr hfree hown hrun hctxs hp hs, fun _ => rfl, rfl, rfl, _,
      State.region?_updRegion hr fun _ => rfl, rfl⟩

end Sys2Proof.Machine
end

section
/-!
Where accesses of a user cell lead (R59, R61, R62).
-/
namespace Sys2Proof.Machine
open Sys2Proof.Claims

/-! ### Windows of a user cell -/

theorem State.placeAt_user {c : Ctx} {i : CellId} (hc : c.place = .user i) (s : State) (use : Use) (va : Word) (len : Nat) :
    s.placeAt c use va len = s.userPlace c i use va len := by
  have hcell : c.cell? = some i := by rw [Ctx.cell?, hc]
  rw [State.placeAt, hcell]

/-- The parts of an access to local memory lie where their own addresses say. -/
theorem fixedParts_local (i : CellId) (a len : Nat) : fixedParts a (paLocal i a) len .local_ =
    (splitLines a len).map fun p => ⟨p.1, paLocal i p.1, p.2, none, .local_⟩ := by
  refine List.map_congr_left fun p hp => ?_
  have hpa : paLocal i a + (p.1 - a) = paLocal i p.1 := by
    rw [paLocal, Nat.add_assoc, Nat.add_sub_cancel' (splitLines_bounds hp).1]
    rfl
  rw [hpa]

section
variable (s : State) (c : Ctx) (i : CellId) (use : Use) {va : Word} {len : Nat}

/-- Below the system area an access leads to the cell's own local memory (R61). -/
theorem State.userPlace_local (hlow : va.toNat < 2 ^ 16) (hend : va.toNat + len ≤ 0xF800) :
    s.userPlace c i use va len = .ok (fixedParts va.toNat (paLocal i va.toNat) len .local_) :=
  (if_pos hlow).trans (if_neg (Nat.not_lt.2 hend))

/-- An access that begins in local memory and touches the system area is out of bounds (R61). -/
theorem State.userPlace_systemArea (hlow : va.toNat < 2 ^ 16) (hend : 0xF800 < va.toNat + len) :
    s.userPlace c i use va len = .error ⟨cBound, 0, va⟩ :=
  (if_pos hlow).trans (if_pos hend)

/-- An address in none of the windows of R59 is unassigned. -/
theorem State.userPlace_unassigned (len : Nat) (hlocal : ¬va.toNat < 2 ^ 16)
    (hcells : ¬(2 ^ 32 ≤ va.toNat ∧ va.toNat < 2 ^ 32 + 2 ^ 29)) (hvault : ¬(2 ^ 33 ≤ va.toNat ∧ va.toNat < 2 ^ 33 + 2 ^ 30))
    (hpeer : ¬(2 ^ 40 ≤ va.toNat ∧ va.toNat < 2 ^ 41)) (hpaged : ¬(2 ^ 48 ≤ va.toNat ∧ va.toNat < 2 ^ 56)) :
    s.userPlace c i use va len = .error ⟨cUnassigned, 0, va⟩ :=
  (if_neg hlocal).trans ((if_neg hcells).trans ((if_neg hvault).trans ((if_neg hpeer).trans (if_neg hpaged))))

end

/-- Settles O28: the window that holds the first byte of an access decides. -/
theorem addressWindows : Obligations.AddressWindows := by
  intro s c use i va len hc hlen
  rw [State.placeAt_user hc]
  refine ⟨fun hend => ?_, fun hlow hend => s.userPlace_systemArea c i use hlow hend,
    fun hhigh => s.userPlace_unassigned c i use len (Nat.not_lt.2 hhigh)⟩
  have hlow : va.toNat < 2 ^ 16 := by omega
  rw [s.userPlace_local c i use hlow hend, fixedParts_local]

end Sys2Proof.Machine
end

section
/-!
Loads whose parts enter the queue of their context (R84, R85, R262).
-/
namespace Sys2Proof.Machine
open Sys2Proof.Claims

/-! ### Numbered operations -/

theorem numbered_cons {α : Type} (n : Nat) (x : α) (xs : List α) (f : Nat → α → MemOp) :
    numbered n (x :: xs) f = f n x :: numbered (n + 1) xs f := by
  simp only [numbered, List.length_cons, List.range_succ_eq_map, List.zipWith_cons_cons, List.zipWith_map_left]
  simp only [Nat.succ_eq_add_one, Nat.add_zero, Nat.add_right_comm n]
  rfl

/-- Operations that enter IQ(c) one after another take the next numbers in program order. -/
theorem Ctx.pushAll_map {α : Type} (c : Ctx) (xs : List α) (g : α → Nat → MemOp) : c.pushAll (xs.map g) =
    { c with mq := { c.mq with
      next := c.mq.next + xs.length, iq := c.mq.iq ++ numbered c.mq.next xs fun k x => g x k } } := by
  induction xs generalizing c with
  | nil => simp [Ctx.pushAll, numbered]
  | cons x xs ih =>
    refine (ih (c.push (g x))).trans ?_
    simp only [Ctx.push, numbered_cons, List.append_assoc, List.singleton_append, List.length_cons]
    rw [Nat.add_right_comm, Nat.add_assoc]

/-! ### Placing a load -/

/-- A context that runs on with a load whose parts have entered its queue and its meters. -/
def Ctx.withLoad (c : Ctx) (dest : Dest) (len : Nat) (ps : List (Part × Nat)) (o : Order) (live : Nat → Bool) : Ctx :=
  ((c.pushLoad dest len ps o).charge (metered live ps)).run

theorem Ctx.withLoad_eq (c : Ctx) (dest : Dest) (len : Nat) (ps : List (Part × Nat)) (o : Order) (live : Nat → Bool) :
    c.withLoad dest len ps o live = { c with
      pend := c.pend ++ [⟨c.mq.next, c.pc, dest, ps.length, List.replicate len 0, false⟩]
      mq := { c.mq with
        next := c.mq.next + 1 + ps.length
        iq := c.mq.iq ++ numbered (c.mq.next + 1) ps fun k p =>
          p.1.op o (.load c.mq.next p.2 p.1.len []) k }
      status := .running
      meters := (c.charge (metered live ps)).meters } := by
  unfold Ctx.withLoad Ctx.pushLoad
  dsimp only
  rw [Ctx.pushAll_map]
  rfl

/-- A load with its parts in place. -/
def State.withLoad (s : State) (dest : Dest) (len : Nat) (ps : List (Part × Nat)) (o : Order) (live : Nat → Bool) : State :=
  (s.mapTh fun c => c.withLoad dest len ps o live).tlbTouch s.th (ps.map Prod.fst)

/-- The instruction of a placed load goes on, or stays where it stands until its value has come (R70, R123). -/
theorem placesLoad_settled (s : State) (dest : Dest) (len : Nat) (ps : List (Part × Nat)) (o : Order) (live : Nat → Bool)
    (held : Bool) :
    goesTo (if held then parkOut ((s.withLoad dest len ps o live).mapTh Ctx.holdLast) .drain
      else .next ((s.withLoad dest len ps o live).mapTh Ctx.retire)) fun t => placesLoad s t ps dest len o live held := by
  obtain ⟨cells, combs, hu⟩ := s.tlbTouch_mapTh (fun c => c.withLoad dest len ps o live) s.th (ps.map Prod.fst)
  rw [State.withLoad, hu, Ctx.withLoad_eq]
  cases held with
  | true => exact ⟨_, rfl, fun _ => rfl, rfl, ⟨rfl, rfl, rfl⟩, rfl⟩
  | false => exact ⟨_, rfl, fun _ => rfl, rfl, advances_retire rfl rfl rfl rfl, Ctx.retire_parts _⟩

/-- A load that names no absent frame and whose checks have passed. -/
theorem placesLoad_placed {s : State} {ps : List (Part × Nat)} (habs : s.absentPart (ps.map Prod.fst) = none) (dest : Dest)
    (len : Nat) (o : Order) (live : Nat → Bool) :
    goesTo (placed s .read ps live fun c => c.pushLoad dest len ps o) fun t =>
      placesLoad s t ps dest len o live (s.badParts (ps.map Prod.fst)) := by
  have hplaced : (placed s .read ps live fun c => c.pushLoad dest len ps o) =
      settleAccess s .read (ps.map Prod.fst) (s.withLoad dest len ps o live) := by
    dsimp only [placed]
    rw [habs]
    rfl
  rw [hplaced, settleAccess_read]
  exact placesLoad_settled s dest len ps o live _

end Sys2Proof.Machine
end

section
/-!
Decoding loads and prefetches (R76 to R78, R123, R264, R268).
-/
namespace Sys2Proof.Machine
open Sys2Proof.Claims

/-! ### Pages and their elements -/

/-- A page that allows decoding is the one that its part goes through. -/
theorem State.decodeEntry_seen {s : State} {c : Ctx} {va : Word} {p : Part} {e : TlbEntry}
    (h : s.decodeEntry c va p = .ok e) : s.seenEntry c p = some e := by
  unfold State.decodeEntry at h
  split at h
  · cases h
  · next hs =>
    split at h
    · cases h
    · split at h
      · cases h
      · rw [hs, Except.ok.inj h]

theorem ldfOffset_zero (fmt : Nat) : ldfOffset fmt 0 = 0 := by rw [ldfOffset, Nat.zero_mul, Nat.zero_div]

theorem ldfOffset_mono (fmt : Nat) {j k : Nat} (h : j ≤ k) : ldfOffset fmt j ≤ ldfOffset fmt k :=
  Nat.div_le_div_right (Nat.mul_le_mul_right _ h)

/-- Every byte that a scalar decoding load reads is one of its element or of its companion. -/
theorem ldfLive_scalar (fmt : Nat) : ldfLive fmt (ldfBytes fmt) [0] = every := by
  funext k
  simp only [ldfLive, every, List.any_cons, List.any_nil, ldfOffset_zero, Bool.or_false, Nat.zero_add, Nat.zero_le,
    decide_true, Bool.true_and]
  by_cases hk : ldfBytes fmt ≤ k
  · simp [hk]
  · simp [Nat.not_le.1 hk]

/-- Elements of a width that the form reads, aligned to it, that lie in their page. -/
theorem ldfFormat_none {ea : Word} {va j : Nat} {lanes : List Nat} {hi : Bool} {e : TlbEntry}
    (hhi : hi = true → fmtEbits e.fmt = 4) (heven : fmtEbits e.fmt = 16 → ea.toNat % 2 = 0)
    (hfit : ∀ k ∈ lanes, va + ldfOffset e.fmt k + ldfBytes e.fmt ≤ e.base + e.bytes) :
    ldfFormat ea va j lanes hi e = none := by
  have hwidth : ¬((hi && fmtEbits e.fmt != 4) || (fmtEbits e.fmt == 16 && ea.toNat % 2 != 0)) = true := by
    simp only [Bool.or_eq_true, Bool.and_eq_true, bne_iff_ne, beq_iff_eq]
    rintro (⟨h, h4⟩ | ⟨h, h2⟩)
    · exact h4 (hhi h)
    · exact h2 (heven h)
  have hnone : lanes.find? (fun k => decide (e.base + e.bytes < va + ldfOffset e.fmt k + ldfBytes e.fmt)) = none :=
    List.find?_eq_none.2 fun k hk => by simpa using hfit k hk
  rw [ldfFormat, if_neg hwidth, hnone]
  rfl

/-! ### The checks of a decoding load (R262) -/

section
variable {s : State} {stack : Bool} {ea : Word} {lanes : List Nat}

theorem loadDecoded_pageFault {t : Trap} (h : s.ldfPage stack ea (lanes.headD 0) = .error t) (hi : Bool) (at0 : Nat → Nat)
    (dest : Nat → Nat → Dest) : loadDecoded stack ea lanes hi at0 dest s = faultOut s t := by
  dsimp only [loadDecoded]
  rw [h]

variable {q : Part} (hpage : s.ldfPage stack ea (lanes.headD 0) = .ok q)

include hpage in
theorem loadDecoded_placeFault {fmt : Nat} {t : Trap} (hfmt : ((s.seenEntry s.th q).map fun e => e.fmt).getD 0 = fmt)
    (h : s.placeAll s.th .read stack (ldfLive fmt 64 lanes) [ldfAccess fmt ea lanes] = .error t) (hi : Bool)
    (at0 : Nat → Nat) (dest : Nat → Nat → Dest) : loadDecoded stack ea lanes hi at0 dest s = faultOut s t := by
  dsimp only [loadDecoded]
  rw [hpage]
  dsimp only
  rw [hfmt, h]

include hpage in
theorem loadDecoded_entryFault {fmt : Nat} {ps : List (Part × Nat)} {t : Trap}
    (hfmt : ((s.seenEntry s.th q).map fun e => e.fmt).getD 0 = fmt)
    (hplace : s.placeAll s.th .read stack (ldfLive fmt 64 lanes) [ldfAccess fmt ea lanes] = .ok ps)
    (h : s.decodeEntry s.th (ea + BitVec.ofNat 64 (ldfOffset fmt (lanes.headD 0))) q = .error t) (hi : Bool)
    (at0 : Nat → Nat) (dest : Nat → Nat → Dest) : loadDecoded stack ea lanes hi at0 dest s = faultOut s t := by
  dsimp only [loadDecoded]
  rw [hpage]
  dsimp only
  rw [hfmt, hplace]
  dsimp only
  rw [h]

/-- The first lane of the second block that a decoding load reads: `va` is the address of lane 0 (R78). -/
def ldfCut (e : TlbEntry) (va : Nat) : Nat := 32 - ((va : Int) - e.base).toNat * 8 / fmtEbits e.fmt % 32

/-- How many blocks lie between the first and the last lane. -/
def ldfBlocks (cut : Nat) (lanes : List Nat) : Nat := ldfvBlock cut (lanes.getLastD 0) - ldfvBlock cut (lanes.headD 0) + 1

include hpage in
/-- A decoding load whose checks pass reads its elements and their companion bytes; with FP traps enabled it holds its
context (R123). -/
theorem loadDecoded_places {e : TlbEntry} {va : Nat} {ps : List (Part × Nat)} {qs : List Part} {hi : Bool}
    (hentry : s.decodeEntry s.th (ea + BitVec.ofNat 64 (ldfOffset e.fmt (lanes.headD 0))) q = .ok e)
    (hplace : s.placeAll s.th .read stack (ldfLive e.fmt 64 lanes) [ldfAccess e.fmt ea lanes] = .ok ps)
    (hva : q.va - ldfOffset e.fmt (lanes.headD 0) = va)
    (hcomp : s.companionRun s.th e (BitVec.ofNat 64 q.va) (ldfBlocks (ldfCut e va) lanes) = .ok qs)
    (hformat : ldfFormat ea va (lanes.headD 0) lanes hi e = none) (at0 : Nat → Nat) (dest : Nat → Nat → Dest) :
    let all := ps ++ withOffsets ((qs.head?.map fun p => p.va).getD 0) (at0 e.fmt) qs
    s.absentPart (all.map Prod.fst) = none →
    goesTo (loadDecoded stack ea lanes hi at0 dest s) fun t =>
      placesLoad s t all (dest e.fmt (ldfCut e va)) (at0 e.fmt + 4) .plain (ldfLive e.fmt (at0 e.fmt) lanes)
        (decide (fpEnables s.th.sr ≠ 0) || s.badParts (all.map Prod.fst)) := by
  intro all habs
  have hsettled := placesLoad_settled s (dest e.fmt (ldfCut e va)) (at0 e.fmt + 4) all .plain
    (ldfLive e.fmt (at0 e.fmt) lanes) (decide (fpEnables s.th.sr ≠ 0) || s.badParts (all.map Prod.fst))
  unfold ldfBlocks ldfCut at hcomp
  dsimp only [loadDecoded]
  rw [hpage]
  dsimp only
  rw [State.decodeEntry_seen hentry, Option.map_some, Option.getD_some, hplace]
  dsimp only
  rw [hentry]
  dsimp only
  rw [hva, hcomp, hformat]
  dsimp only
  rw [habs]
  dsimp only
  by_cases hfp : fpEnables s.th.sr = 0
  · have hheld : decide (fpEnables s.th.sr ≠ 0) = false := by simp [hfp]
    rw [hheld, Bool.false_or] at hsettled ⊢
    rw [if_pos hfp, settleAccess_read]
    exact hsettled
  · have hheld : decide (fpEnables s.th.sr ≠ 0) = true := decide_eq_true hfp
    rw [hheld, Bool.true_or, if_pos rfl] at hsettled
    rw [hheld, Bool.true_or, if_neg hfp]
    exact hsettled

end

/-! ### Scalar forms -/

theorem effAddr_th (s : State) (a : GReg) (disp : BitVec 14) : effAddr s.th a disp = addr s a disp := rfl

theorem exec_ldf (h : Hdr) (o : MemLd) (s : State) : exec (.ldf h o) s = loadElement h o false s := rfl
theorem exec_ldfh (h : Hdr) (o : MemLd) (s : State) : exec (.ldfh h o) s = loadElement h o true s := rfl
theorem exec_ldrx (h : Hdr) (o : MemLd) (s : State) : exec (.ldrx h o) s = execLdrx h o s := rfl

theorem ldfAccess_scalar (fmt : Nat) (ea : Word) : ldfAccess fmt ea [0] = ⟨ea, ldfBytes fmt, 0⟩ := by
  simp [ldfAccess, ldfOffset_zero]

/-- A scalar load reads the companion bytes of one block. -/
theorem ldfBlocks_scalar (cut : Nat) : ldfBlocks cut [0] = 1 := congrArg (· + 1) (Nat.sub_self (ldfvBlock cut 0))

theorem addr_lane_zero (ea : Word) (fmt : Nat) : ea + BitVec.ofNat 64 (ldfOffset fmt 0) = ea := by
  rw [ldfOffset_zero]
  exact BitVec.add_zero ea

section
variable {h : Hdr} {s : State} (hp : predOn h s.th.regs = true)
include hp

theorem loadElement_on (o : MemLd) (hi : Bool) : loadElement h o hi s =
    loadDecoded (o.a.r == 62) (addr s o.a o.disp) [0] hi ldfBytes (fun fmt _ => .ldf o.d fmt hi) s := onPred_on hp

/-- A scalar decoding load in the words of R76 and R264. -/
theorem loadElement_places (o : MemLd) {hi : Bool} {q : Part} {e : TlbEntry} {ps : List (Part × Nat)} {qs : List Part}
    (hpage : s.ldfPage (o.a.r == 62) (addr s o.a o.disp) 0 = .ok q)
    (hentry : s.decodeEntry s.th (addr s o.a o.disp) q = .ok e) (hhi : hi = true → fmtEbits e.fmt = 4)
    (heven : fmtEbits e.fmt = 16 → (addr s o.a o.disp).toNat % 2 = 0) (hfit : q.va + ldfBytes e.fmt ≤ e.base + e.bytes)
    (hplace : s.placeAll s.th .read (o.a.r == 62) (ldfLive e.fmt 64 [0]) [⟨addr s o.a o.disp, ldfBytes e.fmt, 0⟩] = .ok ps)
    (hcomp : s.companionRun s.th e (BitVec.ofNat 64 q.va) 1 = .ok qs) :
    let all := ps ++ withOffsets ((qs.head?.map fun p => p.va).getD 0) (ldfBytes e.fmt) qs
    s.absentPart (all.map Prod.fst) = none →
    goesTo (loadElement h o hi s) fun t => placesLoad s t all (.ldf o.d e.fmt hi) (ldfBytes e.fmt + 4) ⟨false, none⟩ every
      (decide (fpEnables s.th.sr ≠ 0) || s.badParts (all.map Prod.fst)) := by
  rw [loadElement_on hp, ← ldfLive_scalar e.fmt]
  have hformat : ldfFormat (addr s o.a o.disp) q.va 0 [0] hi e = none := by
    refine ldfFormat_none hhi heven (List.forall_mem_singleton.2 ?_)
    rwa [ldfOffset_zero, Nat.add_zero]
  refine loadDecoded_places (lanes := [0]) hpage ?_ ?_ ?_ ?_ hformat ldfBytes _
  · rw [List.headD_cons, addr_lane_zero]
    exact hentry
  · rw [ldfAccess_scalar]
    exact hplace
  · rw [List.headD_cons, ldfOffset_zero, Nat.sub_zero]
  · rw [ldfBlocks_scalar]
    exact hcomp

/-- The checks of a scalar decoding load, in their order (R76, R262). -/
theorem loadElement_checks (o : MemLd) (hi : Bool) : let ea := addr s o.a o.disp
    (∀ t, s.ldfPage (o.a.r == 62) ea 0 = .error t → loadElement h o hi s = .next (s.trap t)) ∧
    ∀ q t, let fmt := ((s.seenEntry s.th q).map fun e => e.fmt).getD 0
      s.ldfPage (o.a.r == 62) ea 0 = .ok q →
      (s.placeAll s.th .read (o.a.r == 62) (ldfLive fmt 64 [0]) [⟨ea, ldfBytes fmt, 0⟩] = .error t →
        loadElement h o hi s = .next (s.trap t)) ∧
      ∀ ps, s.placeAll s.th .read (o.a.r == 62) (ldfLive fmt 64 [0]) [⟨ea, ldfBytes fmt, 0⟩] = .ok ps →
        s.decodeEntry s.th ea q = .error t → loadElement h o hi s = .next (s.trap t) := by
  rw [loadElement_on hp]
  refine ⟨fun t ht => loadDecoded_pageFault (lanes := [0]) ht _ _ _, fun q t hq => ⟨fun ht => ?_, fun ps hps ht => ?_⟩⟩
  · rw [← ldfAccess_scalar] at ht
    exact loadDecoded_placeFault (lanes := [0]) hq rfl ht _ _ _
  · rw [← ldfAccess_scalar] at hps
    refine loadDecoded_entryFault (lanes := [0]) hq rfl hps ?_ _ _ _
    rw [List.headD_cons, addr_lane_zero]
    exact ht

/-- `ldrx` reads the companion bytes of the element at its address, and nothing else. -/
theorem ldrx_places (o : MemLd) {q : Part} {e : TlbEntry} {ps : List Part}
    (hq : s.ldfElement (o.a.r == 62) (addr s o.a o.disp) 0 8 = .ok q)
    (hentry : s.decodeEntry s.th (addr s o.a o.disp) q = .ok e) (hblocks : fmtCb e.fmt ≠ 0)
    (hcomp : s.companion s.th e (BitVec.ofNat 64 q.va) = .ok ps) :
    let all := withOffsets ((ps.head?.map fun p => p.va).getD 0) 0 ps
    s.absentPart (all.map Prod.fst) = none →
    goesTo (exec (.ldrx h o) s) fun t => placesLoad s t all (.g o.d (if fmtCb e.fmt = 2 then .h else .b)) (fmtCb e.fmt)
      ⟨false, none⟩ every (s.badParts (all.map Prod.fst)) := by
  intro all habs
  have hrun : exec (.ldrx h o) s = placed s .read all every fun c =>
      c.pushLoad (.g o.d (if fmtCb e.fmt = 2 then .h else .b)) (fmtCb e.fmt) all .plain := by
    rw [exec_ldrx, execLdrx, onPred_on hp]
    dsimp only
    rw [effAddr_th, isSp, hq]
    dsimp only
    rw [hentry]
    dsimp only
    rw [if_neg hblocks, hcomp]
    rfl
  rw [hrun]
  exact placesLoad_placed habs _ _ _ _

end

theorem scalarDecodingLoads : ScalarDecodingLoads := by
  intro h s hp
  refine ⟨?_, ?_, fun o q e ps => ldrx_places hp o⟩
  · refine List.forall_mem_cons.2 ⟨?_, List.forall_mem_singleton.2 ?_⟩ <;>
      exact fun o q e ps qs hpage hentry hhi heven hfit hplace hcomp =>
        loadElement_places hp o hpage hentry hhi heven hfit hplace hcomp
  · exact List.forall_mem_cons.2 ⟨fun o => loadElement_checks hp o false,
      List.forall_mem_singleton.2 fun o => loadElement_checks hp o true⟩

/-! ### The vector form -/

/-- The active lanes of `ldfv`, as its result records them. -/
def ldfvMask (h : Hdr) (R : Regs) : BitVec 8 :=
  BitVec.ofNat 8 (packLanes 1 ((activeLanes h R .f32).map fun b => if b then 1 else 0))

theorem activeLanes_getD {h : Hdr} {s : State} {t : Ty} {j : Nat} (hj : j < t.lanes) :
    (activeLanes h s.th.regs t).getD j false = isActive h s t j := by
  simp [activeLanes, List.getD_eq_getElem?_getD, hj, laneActive, isActive]

theorem ldfvMask_getLsbD (h : Hdr) (s : State) {j : Nat} (hj : j < 8) :
    (ldfvMask h s.th.regs).getLsbD j = isActive h s .f32 j := by
  have hj' : j < Ty.lanes .f32 := hj
  have hlane := packLanes_lane 1 ((activeLanes h s.th.regs .f32).map fun b => if b then 1 else 0) j
  have hget : ((activeLanes h s.th.regs .f32).map fun b => if b then 1 else 0).getD j 0 =
      if isActive h s .f32 j then 1 else 0 := by
    rw [← activeLanes_getD hj']
    simp [activeLanes, List.getD_eq_getElem?_getD, hj']
  rw [hget, Nat.one_mul, bitsAt, Nat.pow_one] at hlane
  rw [ldfvMask, BitVec.getLsbD_ofNat, decide_eq_true hj, Bool.true_and, Nat.testBit_eq_decide_div_mod_eq,
    ← Nat.shiftRight_eq_div_pow, hlane]
  cases isActive h s .f32 j <;> rfl

theorem exec_ldfv (h : Hdr) (o : MemLdV) (s : State) : exec (.ldfv h o) s = execLdfv h o s := rfl

theorem exec_ldfv_lanes {h : Hdr} {s : State} {j : Nat} {js : List Nat}
    (hlanes : (List.range 8).filter (fun j => isActive h s .f32 j) = j :: js) (o : MemLdV) : exec (.ldfv h o) s =
    loadDecoded (o.a.r == 62) (addr s o.a o.disp) (j :: js) false (fun _ => 16)
      (fun fmt cut => .ldfv o.d fmt (ldfvMask h s.th.regs) cut (s.th.regs.rv o.d)) s := by
  have hany : anyLane h s .f32 = true := by
    obtain ⟨hj, ha⟩ := List.mem_filter.1 (hlanes ▸ List.mem_cons_self)
    exact List.any_eq_true.2 ⟨j, hj, ha⟩
  have hact : (List.range 8).filter (fun j => (activeLanes h s.th.regs .f32).getD j false) = j :: js :=
    (List.filter_congr fun k hk => activeLanes_getD (t := .f32) (List.mem_range.1 hk)).trans hlanes
  rw [exec_ldfv, execLdfv, onLanes_on hany]
  dsimp only
  rw [hact]
  rfl

/-- The last active lane is the highest. -/
theorem le_last_lane {p : Nat → Bool} {n j k : Nat} {js : List Nat} (h : (List.range n).filter p = j :: js)
    (hk : k ∈ j :: js) : k ≤ js.getLastD j := by
  have hsorted : (j :: js).Pairwise (· ≤ ·) := h ▸ List.pairwise_le_range.filter p
  rw [← List.getLast_eq_getLastD (h := List.cons_ne_nil j js)]
  exact hsorted.rel_getLast hk

theorem vectorDecodingLoad : VectorDecodingLoad := by
  intro h s o q e ps qs j js ea lanes last n at_ cut block hlanes hpage hentry hfirst heven hfit hplace hcomp all habs
  have hlast : (j :: js).getLastD 0 = last := List.getLastD_cons ..
  have hcut : ldfCut e (q.va - at_ j) = cut := by
    rw [ldfCut, Nat.cast_sub hfirst]
  have hformat : ldfFormat ea (q.va - at_ j) j (j :: js) false e = none := by
    refine ldfFormat_none (fun hf => absurd hf Bool.false_ne_true) heven fun k hk => ?_
    have hle : ldfOffset e.fmt k ≤ at_ last := ldfOffset_mono e.fmt (le_last_lane hlanes hk)
    show q.va - at_ j + ldfOffset e.fmt k + n ≤ e.base + e.bytes
    omega
  rw [exec_ldfv_lanes hlanes]
  have hload := loadDecoded_places (stack := o.a.r == 62) (ea := ea) (lanes := j :: js) (hi := false) hpage hentry
    (ps := ps) (qs := qs) (va := q.va - at_ j) ?_ rfl ?_ hformat (fun _ => 16)
    (fun fmt cut => .ldfv o.d fmt (ldfvMask h s.th.regs) cut (s.th.regs.rv o.d)) habs
  · obtain ⟨t, ht, hplaces⟩ := hload
    refine ⟨t, ht, ldfvMask h s.th.regs, fun j hj => ldfvMask_getLsbD h s hj, ?_⟩
    rw [hcut, ← hlanes] at hplaces
    exact hplaces
  · have haccess : ldfAccess e.fmt ea (j :: js) = ⟨ea + BitVec.ofNat 64 (at_ j), at_ last + n - at_ j, at_ j⟩ := by
      rw [ldfAccess, hlast]
      rfl
    rw [haccess, ← hlanes]
    exact hplace
  · rw [hcut, ldfBlocks, hlast]
    exact hcomp

/-! ### Prefetches (R268) -/

theorem exec_pft (h : Hdr) (o : Prefetch) (s : State) : exec (.pft h o) s = execPft h o s := rfl
theorem exec_pfh (h : Hdr) (o : Prefetch) (s : State) : exec (.pfh h o) s = execPfh h o s := rfl

theorem State.combRec_id (s : State) (k : CombId) : (s.combRec k).id = k := by
  unfold State.combRec
  cases h : s.combs.find? fun x => x.id == k with
  | none => rfl
  | some x => simpa using List.find?_some h

theorem State.combRec_setComb {r : CombRec} {k : CombId} (hr : r.id = k) (s : State) : (s.setComb r).combRec k = r := by
  subst hr
  have hfind := find?_upsert_same (p := fun y => y.id == r.id) (x := r) (beq_self_eq_true _) s.combs
  exact congrArg (·.getD (.reset r.id)) hfind

theorem State.askPage_frame (s : State) (c : Ctx) (va : Nat) : ∃ combs, s.askPage c va = { s with combs := combs } := by
  unfold State.askPage
  split
  · exact ⟨_, rfl⟩
  · dsimp only
    split
    · exact ⟨_, rfl⟩
    · exact ⟨_, rfl⟩

/-- The comb holds the request for a page (log 82). -/
theorem State.askPage_asks {c : Ctx} {k : CombId} (hk : c.comb? = some k) (s : State) (va : Nat) :
    (c.asid.toNat, va / 2 ^ 16) ∈ ((s.askPage c va).combRec k).asks := by
  rw [State.askPage, hk]
  dsimp only
  split
  · next hc => exact List.contains_iff_mem.1 hc
  · have hset := State.combRec_setComb
      (r := { s.combRec k with asks := (s.combRec k).asks ++ [(c.asid.toNat, va / 2 ^ 16)] }) (s.combRec_id k) s
    rw [hset]
    exact List.mem_append_right _ List.mem_cons_self

/-- An instruction that moved only entries and requests of TLBs, and went on. -/
theorem retire_tlbs {s u : State} (hu : u = { s with cells := u.cells, combs := u.combs }) :
    memoryKept s u.retire ∧ advances s u.retire ∧
      u.retire = { s with th := s.th.retire, cells := u.retire.cells, combs := u.retire.combs } := by
  rw [hu]
  exact ⟨fun _ => rfl, ⟨rfl, rfl, rfl⟩, rfl⟩

section
variable {h : Hdr} {o : Prefetch} {s : State} (hp : predOn h s.th.regs = true)
include hp

theorem pft_fault {t : Trap} (ht : s.place s.th .read (o.a.r == 62) (addr s o.a o.disp) 1 = .error t) :
    exec (.pft h o) s = .next (if t.cause = cTranslation then s.askPage s.th t.addr.toNat else s).retire := by
  rw [exec_pft, execPft, onPred_on hp, effAddr_th, isSp, ht]

theorem pft_placed {ps : List Part} (hps : s.place s.th .read (o.a.r == 62) (addr s o.a o.disp) 1 = .ok ps) :
    exec (.pft h o) s = .next (s.tlbTouch s.th ps).retire := by
  rw [exec_pft, execPft, onPred_on hp, effAddr_th, isSp, hps]

theorem pft_leaves : goesTo (exec (.pft h o) s) fun t => memoryKept s t ∧ advances s t ∧
    t = { s with th := s.th.retire, cells := t.cells, combs := t.combs } ∧
    ∀ f, s.place s.th .read (o.a.r == 62) (addr s o.a o.disp) 1 = .error f → f.cause = 0x10 →
      ∀ k, s.th.comb? = some k → (s.th.asid.toNat, f.addr.toNat / 65536) ∈ (t.combRec k).asks := by
  cases hplace : s.place s.th .read (o.a.r == 62) (addr s o.a o.disp) 1 with
  | error t =>
    refine ⟨_, pft_fault hp hplace, ?_⟩
    by_cases hmiss : t.cause = cTranslation
    · rw [if_pos hmiss]
      obtain ⟨combs, hask⟩ := s.askPage_frame s.th t.addr.toNat
      obtain ⟨hmem, hadv, hframe⟩ := retire_tlbs (s := s) (u := s.askPage s.th t.addr.toNat) (by rw [hask])
      refine ⟨hmem, hadv, hframe, fun f hf _ k hk => ?_⟩
      obtain rfl := Except.error.inj hf
      exact s.askPage_asks hk _
    · rw [if_neg hmiss]
      obtain ⟨hmem, hadv, hframe⟩ := retire_tlbs (s := s) (u := s) rfl
      refine ⟨hmem, hadv, hframe, fun f hf hcause => absurd ?_ hmiss⟩
      rwa [Except.error.inj hf]
  | ok ps =>
    refine ⟨_, pft_placed hp hplace, ?_⟩
    obtain ⟨cells, combs, htouch⟩ := s.tlbTouch_mapTh id s.th ps
    have hu : s.tlbTouch s.th ps = { s with cells := cells, combs := combs } := htouch
    obtain ⟨hmem, hadv, hframe⟩ := retire_tlbs (s := s) (u := s.tlbTouch s.th ps) (by rw [hu])
    exact ⟨hmem, hadv, hframe, fun f hf => nomatch hf⟩

/-- A prefetch towards an address where a read would fault is dropped. -/
theorem pfh_dropped {t : Trap} (ht : s.place s.th .read (o.a.r == 62) (addr s o.a o.disp) 1 = .error t) :
    exec (.pfh h o) s = .next s.retire := by
  rw [exec_pfh, execPfh, onPred_on hp]
  dsimp only
  rw [effAddr_th, isSp, ht]

/-- A prefetch of a page places one message, without a result to wait for. -/
theorem pfh_sends {p : Part} {ps : List Part}
    (hps : s.place s.th .read (o.a.r == 62) (addr s o.a o.disp) 1 = .ok (p :: ps)) (habs : s.absentPart [p] = none) :
    exec (.pfh h o) s = .next (s.mapTh fun c =>
      ((c.push (p.op .plain .prefetch)).charge [{ p with len := 64 }]).retire) := by
  rw [exec_pfh, execPfh, onPred_on hp]
  dsimp only
  rw [effAddr_th, isSp, hps]
  exact if_pos habs

end

theorem prefetches : Prefetches := by
  intro h o s
  refine ⟨fun hp => ⟨(exec_pft h o s).trans (onPred_off hp), (exec_pfh h o s).trans (onPred_off hp)⟩,
    fun hp => ⟨pft_leaves hp, fun t ht => pfh_dropped hp ht, fun p ps hps habs => ?_⟩⟩
  rw [pfh_sends hp hps habs]
  exact completes_mapTh rfl rfl rfl

/-- Settles O30: the scalar forms, the vector form and the prefetches, each from what its checks let through. -/
theorem decodingLoads : Obligations.DecodingLoads := ⟨scalarDecodingLoads, vectorDecodingLoad, prefetches⟩

end Sys2Proof.Machine
end

section
/-!
Taking a fault, the fences and the forager probe, and the statement about homes, which fails on a memory that is not in its
canonical form.
-/
namespace Sys2Proof.Machine
open Sys2Proof.Claims

/-! ### Fault entry (R103, R216, R328) -/

/-- A trap whose predicate is on. -/
theorem exec_trap_on {h : Hdr} {s : State} (hp : predOn h s.th.regs = true) (o : TrapOp) :
    exec (.trap h o) s = faultOut s ⟨cUserTrap, 0, o.code.zeroExtend 64⟩ := if_pos hp

/-- Settles O6: both halves are the entry of a fault. -/
theorem faultEntry : Obligations.FaultEntry :=
  ⟨fun s _ _ addr hc hd => faultOut_faults s addr hc hd, fun _ o _ hp => faults_of_eq (exec_trap_on hp o)⟩

/-! ### Fences and the forager probe (R272, R278) -/

section
variable {h : Hdr} {s : State} (hp : predOn h s.th.regs = true)
include hp

theorem exec_fenceAcq_on : exec (.fenceAcq h) s = .next (s.mapTh fun c => (c.fence .acq 0).retire) :=
  (onPred_on hp : execFenceAcq h s = _)

theorem fenceOp_ok {k : FenceKind} {o : FenceS} (hsc : scopeOk (scopeValue s.th o.s) = true) :
    fenceOp k h o s = .next (s.mapTh fun c => (c.fence k (scopeValue c o.s)).retire) := by
  rw [fenceOp, onPred_on hp, scopeFault_ok hsc]

theorem fenceOp_bad {k : FenceKind} {o : FenceS} (hsc : scopeOk (scopeValue s.th o.s) = false) :
    fenceOp k h o s = faultOut s ⟨cScope, 0, scopeValue s.th o.s⟩ := by
  rw [fenceOp, onPred_on hp, scopeFault_bad hsc]

/-- A result of an instruction that does nothing else lands. -/
theorem givesG_mapTh (d : BitVec 6) (lat : Nat) (x : Word) :
    givesG s (.next (s.mapTh fun c => (c.resG d lat x).retire)) d lat x := by
  have hrun : whole h (fun c => c.resG d lat x) s = .next (s.mapTh fun c => (c.resG d lat x).retire) := by
    simp only [whole, State.mapTh, hp, if_true]
  exact hrun ▸ whole_resG (f := fun _ => x) hp

end

theorem fences : Fences := by
  intro h s hp
  refine ⟨exec_fenceAcq_on hp ▸ completes_mapTh rfl rfl rfl, fun p hmem o => ?_⟩
  have hrun : exec (p.1 h o) s = fenceOp p.2 h o s := by
    obtain rfl | rfl := by simpa using hmem
    · rfl
    · rfl
  rw [hrun]
  exact ⟨fun hsc => fenceOp_ok hp hsc ▸ completes_mapTh rfl rfl rfl, fun hsc => faults_of_eq (fenceOp_bad hp hsc)⟩

theorem foragerProbe : ForagerProbe := by
  intro h s o hp
  have hrun : execFprobe h o s = _ := onPred_on hp
  show givesG s (execFprobe h o s) _ _ _
  rw [hrun]
  cases s.regionOf s.th with
  | none => exact givesG_mapTh hp o.d 0 0
  | some r => exact givesG_mapTh hp o.d 0 _

/-- Settles O36: a fence leaves its marker, and the probe's word lands. -/
theorem fencesAndProbe : Obligations.FencesAndProbe := ⟨fences, foragerProbe⟩

/-! ### Atomics at their home (R94) -/

/-- A swap of the doubleword at the first byte of HBM stack 0 with 0. -/
def swapFlight : Flight :=
  ⟨.hub 0, ⟨0, .hbm 0 0, paHbm 0 0, 0, ⟨false, none⟩, .amo .swap .d 0 0 0, false, []⟩⟩

/-- The reset state over a memory whose addresses fall there. -/
def swapState : State := { State.reset with mem := fallingMemory (paHbm 0 0) }

/-- The doubleword at an address as a load would read it, after a home has performed a message. -/
def wordPerformed (o : Option State) (pa : Nat) : Nat := o.elim 0 fun t => ofBytes ((List.range 8).map fun k => t.byteAt (pa + k))

/-- The doubleword that the swap left is not 0. -/
theorem swapState_word : wordPerformed (swapState.perform swapFlight) (paHbm 0 0) ≠ 0 := by decide

/-- Refutes O37: a swap with 0 does not leave 0 in a memory that is not in its canonical form. -/
theorem not_operationsPerform : ¬ Obligations.OperationsPerform := by
  rintro ⟨-, hamo, -, -⟩
  obtain ⟨t, ht, -, -, hword⟩ := hamo swapState swapFlight .swap .d 0 0 0 rfl (by decide) (by decide) rfl
  refine swapState_word ?_
  rw [ht]
  exact hword

end Sys2Proof.Machine
end

section
/-!
What the helpers of the steps leave of memory: all of it. Memory itself changes where a page is marked in the dirty log, where a
write queue is applied and where the package resets; everything else writes through the write queues.
-/
namespace Sys2Proof.Machine
open Sys2Proof.Claims

/-! ### Helpers of the steps -/

@[simp] theorem State.tlbTouch_mem (s : State) (c : Ctx) (ps : List Part) : (s.tlbTouch c ps).mem = s.mem := by
  unfold State.tlbTouch
  dsimp only
  (repeat' split) <;> simp
@[simp] theorem State.askPage_mem (s : State) (c : Ctx) (va : Nat) : (s.askPage c va).mem = s.mem := by
  unfold State.askPage
  dsimp only
  (repeat' split) <;> simp
@[simp] theorem State.notePoints_mem (s : State) (id : RegionId) : (s.notePoints id).mem = s.mem :=
  s.notePoints_keeps (fun _ _ => rfl) id
@[simp] theorem State.computeBegin_mem (s : State) (r : Region) : (s.computeBegin r).mem = s.mem := by
  simp [State.computeBegin]
@[simp] theorem State.closeBarrier_mem (s : State) (id : RegionId) : (s.closeBarrier id).mem = s.mem := by
  unfold State.closeBarrier
  dsimp only
  (repeat' split) <;> simp
@[simp] theorem State.closeBar_mem (s : State) (id : RegionId) (b : ScopedBar) : (s.closeBar id b).mem = s.mem :=
  (congrArg State.mem (s.closeBar_besides id b) :)
@[simp] theorem State.closeBars_mem (s : State) (id : RegionId) : (s.closeBars id).mem = s.mem :=
  (congrArg State.mem (s.closeBars_besides id) :)
@[simp] theorem State.leaveBarriers_mem (s : State) (c : Ctx) : (s.leaveBarriers c).mem = s.mem := by
  unfold State.leaveBarriers
  split <;> simp
@[simp] theorem State.srStore_mem (s : State) (n : BitVec 12) (x : Word) : (s.srStore n x).mem = s.mem := by
  unfold State.srStore
  (repeat' split) <;> simp
@[simp] theorem State.writeNum_mem (s : State) (pa n x : Nat) : (s.writeNum pa n x).mem = s.mem := rfl
@[simp] theorem State.reduceAt_mem (s : State) (pa : Nat) (op : RmwOp) (ty : Ty) (elems : List (Nat × Word)) :
    (s.reduceAt pa op ty elems).mem = s.mem := by
  unfold State.reduceAt
  dsimp only
  (repeat' split) <;> simp
@[simp] theorem State.ioReply_mem (s : State) (r : Reply) (t : Trap) : (s.ioReply r t).mem = s.mem := by
  unfold State.ioReply
  (repeat' split) <;> simp
@[simp] theorem State.setQueue_mem (s : State) (q : Nat) (r : QueueRegs) : (s.setQueue q r).mem = s.mem := rfl
@[simp] theorem State.setLink_mem (s : State) (x : Link) : (s.setLink x).mem = s.mem := rfl
@[simp] theorem State.writeRun_mem (s : State) (pa : Nat) (bs : List Byte) : (s.writeRun pa bs).mem = s.mem :=
  State.writeParts_keeps (fun _ _ _ => rfl) _ _ _
theorem State.postRecord_mem {s t : State} {k : CombId} {trans : Bool} {ws : List Word} (h : s.postRecord k trans ws = some t) :
    t.mem = s.mem := by
  unfold State.postRecord at h
  generalize (if trans then (s.combRec k).trans else (s.combRec k).sup) = r at h
  by_cases hr : 256 ≤ r.fqcount
  · simp [hr] at h
  · simp only [if_neg hr, Option.some.injEq] at h
    rw [← h, State.setService_mem, State.writeRun_mem]
@[simp] theorem State.cutLane_mem (s : State) : s.cutLane.mem = s.mem := rfl
@[simp] theorem State.cancelOp_mem (s : State) (op : Nat) : (s.cancelOp op).mem = s.mem := by
  unfold State.cancelOp
  dsimp only; split <;> simp [State.withdraw_mem]
@[simp] theorem State.holdEntry_mem (s : State) (cid : CtxId) (q : Nat) (e : Entry) (held : Bool) :
    (s.holdEntry cid q e held).mem = s.mem :=
  rfl
@[simp] theorem State.addPatch_mem (s : State) (c : CtxId) (n : Nat) : (s.addPatch c n).mem = s.mem := rfl
@[simp] theorem State.chargePatches_mem (s : State) (c : CtxId) : (s.chargePatches c).mem = s.mem := by
  unfold State.chargePatches
  split <;> rfl
@[simp] theorem State.endClaim_mem (s : State) (c : CtxId) : (s.endClaim c).mem = s.mem := by
  unfold State.endClaim
  dsimp only
  (repeat' split) <;> simp
@[simp] theorem issueBegun_mem (e : Entry) (o : AfOp) (s : State) : (issueBegun e o s).mem = s.mem := rfl
@[simp] theorem issueDone_mem (e : Entry) (st : HState) (res : Word) (s : State) : (issueDone e st res s).mem = s.mem := rfl
@[simp] theorem State.fabricOver_mem (s : State) (c : CtxId) (e : Entry) (st : HState) (res det : Word) :
    (s.fabricOver c e st res det).mem = s.mem :=
  rfl
@[simp] theorem State.fabricFlow_mem (s : State) : s.fabricFlow.mem = s.mem := rfl
@[simp] theorem State.putSpill_mem (s : State) (c : Ctx) (m : Mail) : (s.putSpill c m).mem = s.mem := by
  rw [State.putSpill, State.updCtx_mem, State.writeRun_mem]
@[simp] theorem State.recordCut_mem (s : State) (dst : CtxId) (m : Mail) : (s.recordCut dst m).mem = s.mem := rfl
@[simp] theorem State.evict_mem (s : State) (h : Home) : (s.evict h).mem = s.mem := by
  unfold State.evict
  dsimp only
  (repeat' split) <;> simp
@[simp] theorem State.enterWait_mem (s : State) (c : CtxId) (counter : Option (BitVec 4 × BitVec 32)) :
    (s.enterWait c counter).mem = s.mem :=
  rfl
@[simp] theorem State.performWait_mem (s : State) (f : Flight) (c : CtxId) (ty : Ty) (x : Word) (pend : Nat) :
    (s.performWait f c ty x pend).mem = s.mem := by
  unfold State.performWait
  dsimp only [State.readAt]
  split_ifs <;> simp
@[simp] theorem State.performSignal_mem (s : State) (rid : RegionId) (n : BitVec 4) (v : BitVec 32) :
    (s.performSignal rid n v).mem = s.mem := by
  unfold State.performSignal
  split <;> rfl
@[simp] theorem State.performEvWait_mem (s : State) (f : Flight) (c : CtxId) (rid : RegionId) (n : BitVec 4)
    (thr : BitVec 32) (pend : Nat) :
    (s.performEvWait f c rid n thr pend).mem = s.mem := by
  unfold State.performEvWait
  dsimp only
  (repeat' split) <;> simp
@[simp] theorem State.finishPair_mem (s : State) (f : Flight) (op : RmwOp) (dcas move : Bool) (ty : Ty)
    (a b oldA oldB : Nat) (opA opB cmpA cmpB : Word) (pend : Nat) :
    (s.finishPair f op dcas move ty a b oldA oldB opA opB cmpA cmpB pend).mem = s.mem := by
  unfold State.finishPair
  split <;> rfl
@[simp] theorem State.unlock_mem (s : State) (c : CtxId) : (s.unlock c).mem = s.mem := rfl
@[simp] theorem State.hostDone_mem (s : State) (ep id : Nat) : (s.hostDone ep id).mem = s.mem := by
  unfold State.hostDone
  split <;> rfl
@[simp] theorem State.pointReply_mem (s : State) (cid : CtxId) (r : Reply) : (s.pointReply cid r).mem = s.mem := rfl
@[simp] theorem State.unwait_mem (s : State) (c : CtxId) : (s.unwait c).mem = s.mem := rfl
@[simp] theorem State.ctxReply_mem (s : State) (cid : CtxId) (r : Reply) : (s.ctxReply cid r).mem = s.mem := by
  unfold State.ctxReply
  dsimp only
  (repeat' split) <;> simp
@[simp] theorem State.own_mem (s : State) (cs : List Ctx) : (s.own cs).mem = s.mem :=
  foldl_keeps (proj := State.mem) (fun s _ => State.setCell_mem s _) cs s
@[simp] theorem State.launch_mem (s : State) (p : Plan) (home : Nat) (rcb : Word) (asid : BitVec 16)
    (queue : Option (Nat × Nat × Word)) (parent : Option Region) (slot : Option Nat) (cells : List CellId) :
    (s.launch p home rcb asid queue parent slot cells).mem = s.mem := by
  unfold State.launch
  split <;> simp
@[simp] theorem State.journal_mem (s : State) (seq : Nat) (st : EntryState) (status : CStatus) :
    (s.journal seq st status).mem = s.mem :=
  rfl
@[simp] theorem State.completeEntry_mem (s : State) (e : QEntry) (st : CStatus) : (s.completeEntry e st).mem = s.mem := by
  simp -implicitDefEqProofs [State.completeEntry]
@[simp] theorem State.writeStatus_mem (s : State) (home : Nat) (rcb : Nat) (st : CStatus) :
    (s.writeStatus home rcb st).mem = s.mem := by
  simp -implicitDefEqProofs [State.writeStatus]
@[simp] theorem State.powerRecord_mem (s : State) (ws : List Word) : (s.powerRecord ws).mem = s.mem := by
  unfold State.powerRecord
  split <;> simp -implicitDefEqProofs
@[simp] theorem State.kernelRecord_mem (s : State) (r : Region) : (s.kernelRecord r).mem = s.mem := by
  unfold State.kernelRecord
  (repeat' split) <;> simp
@[simp] theorem State.endClaimOps_mem (s : State) (c : CtxId) : (s.endClaimOps c).mem = s.mem := by simp [State.endClaimOps]
@[simp] theorem State.endClaims_mem (s : State) (r : Region) : (s.endClaims r).mem = s.mem :=
  foldl_keeps State.endClaimOps_mem _ s
@[simp] theorem State.release_mem (s : State) (c : Ctx) : (s.release c).mem = s.mem := by
  unfold State.release
  dsimp only
  (repeat' split) <;> simp
theorem State.keepMeters_mem (s : State) (cs : List Ctx) : (s.keepMeters cs).mem = s.mem := by
  unfold State.keepMeters
  rfl
@[simp] theorem State.dropThose_mem (s : State) (gone? : Ctx → Bool) : (s.dropThose gone?).mem = s.mem := by
  unfold State.dropThose
  dsimp only
  rw [State.keepMeters_mem, foldl_keeps (proj := State.mem) State.release_mem]
@[simp] theorem State.dropCtxs_mem (s : State) (id : RegionId) : (s.dropCtxs id).mem = s.mem := by simp [State.dropCtxs]
@[simp] theorem State.dropDone_mem (s : State) (id : RegionId) : (s.dropDone id).mem = s.mem := by simp [State.dropDone]
@[simp] theorem State.dropLingering_mem (s : State) : s.dropLingering.mem = s.mem := by simp [State.dropLingering]
theorem State.finishRegion_mem (n : Nat) (id : RegionId) (s : State) : (State.finishRegion n id s).mem = s.mem := by
  induction n generalizing id s with
  | zero => rfl
  | succ n ih => unfold State.finishRegion; dsimp only; (repeat' split) <;> simp -implicitDefEqProofs [ih]
@[simp] theorem State.finish_mem (s : State) (id : RegionId) : (s.finish id).mem = s.mem := State.finishRegion_mem _ id s
@[simp] theorem State.cellDone_mem (s : State) (id : RegionId) (k : Nat) (st : CStatus) :
    (s.cellDone id k st).mem = s.mem := by
  unfold State.cellDone
  dsimp only
  (repeat' split) <;> simp -implicitDefEqProofs
@[simp] theorem State.noteFp_mem (s : State) (c : Ctx) (f : FaultRec) : (s.noteFp c f).mem = s.mem := by
  unfold State.noteFp
  (repeat' split) <;> simp
@[simp] theorem State.haltCtx_mem (s : State) (c : Ctx) : (s.haltCtx c).mem = s.mem := by
  unfold State.haltCtx
  (repeat' split) <;> simp
@[simp] theorem State.haltDomain_mem (s : State) (dom : Nat) : (s.haltDomain dom).mem = s.mem :=
  foldl_keeps State.haltCtx_mem _ s
@[simp] theorem State.failRegion_mem (s : State) (id : RegionId) : (s.failRegion id).mem = s.mem := by
  unfold State.failRegion
  (repeat' split) <;> simp -implicitDefEqProofs
@[simp] theorem State.endDomain_mem (s : State) (dom : Nat) : (s.endDomain dom).mem = s.mem := by
  unfold State.endDomain
  split
  · rfl
  · exact foldl_keeps State.failRegion_mem _ s
@[simp] theorem State.fetchTouch_mem (s : State) (c : Ctx) (pc : Word) : (s.fetchTouch c pc).mem = s.mem := by
  unfold State.fetchTouch
  split <;> simp
@[simp] theorem State.tellGang_mem (s : State) (g : GroupIssue) : (s.tellGang g).mem = s.mem := by
  unfold State.tellGang
  split <;> rfl
@[simp] theorem State.compare_mem (s : State) (g : GroupIssue) : (s.compare g).mem = s.mem := by
  unfold State.compare
  split <;> simp
@[simp] theorem State.endGroup_mem (s : State) (g : GroupIssue) : (s.endGroup g).mem = s.mem := rfl
@[simp] theorem State.focus_mem (s : State) (c : CtxId) : (s.focus c).mem = s.mem := by
  unfold State.focus
  (repeat' split) <;> simp
@[simp] theorem State.childOver_mem (s : State) (r : Region) (rcb : Nat) (st : CStatus) :
    (s.childOver r rcb st).mem = s.mem := by
  simp -implicitDefEqProofs [State.childOver]
@[simp] theorem State.chargeCell_mem (s : State) (r : Region) (k : Nat) (ps : List (Part × Nat)) :
    (s.chargeCell r k ps).mem = s.mem :=
  rfl
@[simp] theorem State.transfer_mem (s : State) (r : Region) (x : Xfer) : (s.transfer r x).mem = s.mem := by
  unfold State.transfer
  dsimp only
  (repeat' split) <;> simp
@[simp] theorem State.startEdge_mem (s : State) (r : Region) (c : Ctx) : (s.startEdge r c).mem = s.mem := by
  unfold State.startEdge
  dsimp only; split <;> simp [State.enterRound_mem]
@[simp] theorem State.terminate_mem (s : State) (r : Region) : (s.terminate r).mem = s.mem := by
  unfold State.terminate
  refine (foldl_keeps (proj := State.mem) (fun s c => s.updCtx_mem c Ctx.tell) _ _).trans ?_
  exact foldl_keeps (proj := State.mem) (fun s w => s.updCtx_mem _ _) _ _
@[simp] theorem State.stopCtx_mem (s : State) (c : Ctx) : (s.stopCtx c).mem = s.mem := by
  unfold State.stopCtx
  split <;> rfl
@[simp] theorem State.sealCell_mem (s : State) (i : CellId) : (s.sealCell i).mem = s.mem := by
  unfold State.sealCell
  split <;> rfl
@[simp] theorem State.logFp_mem (s : State) (rid : RegionId) (e : FpEvent) : (s.logFp rid e).mem = s.mem := by
  unfold State.logFp
  dsimp only
  (repeat' split) <;> simp -implicitDefEqProofs
@[simp] theorem State.saveCtx_mem (s : State) (c : Ctx) (va : Word) (full : Bool) : (s.saveCtx c va full).mem = s.mem := by
  unfold State.saveCtx
  dsimp only
  (repeat' split) <;> simp -implicitDefEqProofs
@[simp] theorem State.leaveJoins_mem (s : State) (c : Ctx) : (s.leaveJoins c).mem = s.mem := by
  unfold State.leaveJoins
  split <;> rfl
@[simp] theorem State.loadLocal_mem (s : State) (i : CellId) (va : Word) (c : Ctx) (data : Bool) :
    (s.loadLocal i va c data).mem = s.mem := by
  unfold State.loadLocal
  split <;> simp -implicitDefEqProofs
@[simp] theorem State.respill_mem (s : State) (cid : CtxId) : (s.respill cid).mem = s.mem := by
  unfold State.respill
  split
  · rfl
  · refine foldl_keeps (fun s m => ?_) _ _
    cases s.ctx? cid <;> simp
@[simp] theorem State.loadCtx_mem (s : State) (va : Word) (i : CellId) (slot : Nat) (c : Ctx) (own data : Bool) :
    (s.loadCtx va i slot c own data).mem = s.mem := by
  unfold State.loadCtx
  dsimp only
  (repeat' split) <;> simp -implicitDefEqProofs
@[simp] theorem State.markReady_mem (s : State) (c : Ctx) : (s.markReady c).mem = s.mem := by
  unfold State.markReady
  dsimp only
  (repeat' split) <;> simp
@[simp] theorem State.settleSaved_mem (s : State) (op : Nat) (st : HState) (res det : Word) (c : Ctx) :
    (s.settleSaved op st res det c).mem = s.mem := by
  unfold State.settleSaved
  split
  · rfl
  · refine foldl_keeps (fun s i => ?_) _ _
    dsimp only
    split <;> simp
@[simp] theorem State.resolveOp_mem (s : State) (op : Nat) (st : HState) (res det : Word) (seen : Bool) :
    (s.resolveOp op st res det seen).mem = s.mem :=
  foldl_keeps (fun s c => s.settleSaved_mem op st res det c) _ s
@[simp] theorem State.contestDone_mem (s : State) (r : ContestResult) (x : Cand) : (s.contestDone r x).mem = s.mem := by
  unfold State.contestDone
  (repeat' split) <;> simp
@[simp] theorem State.grantClaim_mem (s : State) (x : Cand) : (s.grantClaim x).mem = s.mem := by
  unfold State.grantClaim
  (repeat' split) <;> simp
@[simp] theorem State.setBinding_mem (s : State) (b : Binding) : (s.setBinding b).mem = s.mem := rfl
@[simp] theorem State.setReg_mem (s : State) (r : Registration) : (s.setReg r).mem = s.mem := rfl
@[simp] theorem State.register_mem (s : State) (c : Ctx) (e : Entry) (o : CollOpnd) (g : Group) (rank : Nat)
    (w : Nat → Nat) :
    (s.register c e o g rank w).mem = s.mem :=
  rfl
@[simp] theorem State.dropCollEntry_mem (s : State) (r : Registration) : (s.dropCollEntry r).mem = s.mem := rfl
@[simp] theorem State.mismatched_mem (s : State) (b : Binding) (bad : Bool) : (s.mismatched b bad).mem = s.mem := by
  unfold State.mismatched
  split <;> rfl
@[simp] theorem State.holdBinding_mem (s : State) (b : Binding) (rank : Nat) : (s.holdBinding b rank).mem = s.mem := by
  unfold State.holdBinding
  split <;> simp
@[simp] theorem State.beginColl_mem (s : State) (c : Ctx) (e : Entry) (o : CollOpnd) : (s.beginColl c e o).mem = s.mem := by
  unfold State.beginColl
  split <;> simp
@[simp] theorem State.lateReg_mem (s : State) (b : Binding) (rank : Nat) : (s.lateReg b rank).mem = s.mem := by
  unfold State.lateReg
  split <;> rfl
@[simp] theorem State.retireBound_mem (s : State) (b : Binding) : (s.retireBound b).mem = s.mem := by
  unfold State.retireBound
  split <;> rfl
@[simp] theorem State.registerColl_mem (s : State) (c : Ctx) (e : Entry) (o : CollOpnd) :
    (s.registerColl c e o).mem = s.mem := by
  unfold State.registerColl
  dsimp only
  (repeat' split) <;> simp
@[simp] theorem State.sourceFault_mem (s : State) (b : Binding) (r : Registration) (rank : Nat) (t : Trap) :
    (s.sourceFault b r rank t).mem = s.mem :=
  rfl
@[simp] theorem State.arrive_mem (s : State) (b : Binding) (rank : Nat) (bs : List Byte) :
    (s.arrive b rank bs).mem = s.mem :=
  rfl
@[simp] theorem State.endColl_mem (s : State) (r : Registration) (x : HState × Word × Word) :
    (s.endColl r x).mem = s.mem := by
  simp [State.endColl]
@[simp] theorem State.accept_mem (s : State) (q : Nat) : (s.accept q).mem = s.mem := by
  unfold State.accept
  dsimp only
  (repeat' split) <;> simp
@[simp] theorem State.acceptMany_mem (n q : Nat) (s : State) : (State.acceptMany n q s).mem = s.mem := by
  induction n generalizing s with
  | zero => rfl
  | succ n ih => exact (ih _).trans (s.accept_mem q)
@[simp] theorem State.acceptAll_mem (s : State) (q : Nat) : (s.acceptAll q).mem = s.mem := by
  unfold State.acceptAll
  dsimp only; split <;> simp
@[simp] theorem State.setEntry_mem (s : State) (e : QEntry) : (s.setEntry e).mem = s.mem := rfl
@[simp] theorem State.unhold_mem (s : State) (seq : Nat) : (s.unhold seq).mem = s.mem := rfl
@[simp] theorem State.rootOverWith_mem (s : State) (e : QEntry) (st : CStatus) : (s.rootOverWith e st).mem = s.mem := by
  unfold State.rootOverWith
  split <;> simp -implicitDefEqProofs
@[simp] theorem State.hold_mem (s : State) (frame seq : Nat) : (s.hold frame seq).mem = s.mem := rfl
@[simp] theorem State.launchRoot_mem (s : State) (p : Plan) (e : QEntry) (slot : Option Nat) :
    (s.launchRoot p e slot).mem = s.mem := by
  simp [State.launchRoot]
@[simp] theorem State.assign_mem (s : State) (p : Plan) (e : QEntry) (frame : Nat) (cells : List CellId)
    (slot : Option Nat) :
    (s.assign p e frame cells slot).mem = s.mem := by
  unfold State.assign
  dsimp only
  (repeat' split) <;> simp
@[simp] theorem State.releaseHolds_mem (s : State) (q : Nat) : (s.releaseHolds q).mem = s.mem :=
  foldl_keeps (proj := State.mem) (fun s (e : QEntry) => s.unhold_mem e.seq) _ s
@[simp] theorem State.linksResume_mem (s : State) : s.linksResume.mem = s.mem := by
  unfold State.linksResume
  split <;> rfl
@[simp] theorem State.changeRecord_mem (s : State) (kind frame reason old new : Nat) :
    (s.changeRecord kind frame reason old new).mem = s.mem := by
  unfold State.changeRecord
  split <;> simp -implicitDefEqProofs
@[simp] theorem State.startStep_mem (s : State) (frame mhz reason : Nat) : (s.startStep frame mhz reason).mem = s.mem := by
  unfold State.startStep
  dsimp only
  (repeat' split) <;> simp
@[simp] theorem State.setDuties_mem (s : State) (ds : List (CellId × Nat × Nat)) : (s.setDuties ds).mem = s.mem := by
  refine foldl_keeps (fun s d => ?_) ds s
  dsimp only
  split <;> simp
@[simp] theorem State.takeDuties_mem (s : State) (f : Nat) (ds : List (CellId × Nat × Nat)) :
    (s.takeDuties f ds).mem = s.mem := by
  unfold State.takeDuties
  dsimp only
  (repeat' split) <;> simp
@[simp] theorem State.frameInterval_mem (inp : BudgetInput) (s : State) (g : Nat × Rat) :
    (State.frameInterval inp s g).mem = s.mem := by
  unfold State.frameInterval
  dsimp only
  (repeat' split) <;> simp
@[simp] theorem State.respond_mem (s : State) (ws : List Word) : (s.respond ws).mem = s.mem := rfl
@[simp] theorem State.countCorrection_mem (s : State) (frame : Nat) : (s.countCorrection frame).mem = s.mem := rfl
@[simp] theorem State.poisonSector_mem (s : State) (x : Nat) : (s.poisonSector x).mem = s.mem := by
  unfold State.poisonSector
  split <;> rfl
@[simp] theorem State.spdm_mem (s : State) (code : Nat) (about : List Nat) : (s.spdm code about).mem = s.mem := rfl
@[simp] theorem State.spdmError_mem (s : State) : s.spdmError.mem = s.mem := rfl
@[simp] theorem State.setWork_mem (s : State) (cid : CtxId) (q : Nat) (e : Entry) (w : Work) :
    (s.setWork cid q e w).mem = s.mem :=
  rfl
@[simp] theorem State.workDone_mem (s : State) (cid : CtxId) (q : Nat) (e : Entry) (x : HState × Word × Word) :
    (s.workDone cid q e x).mem = s.mem :=
  rfl
@[simp] theorem State.matrixUpdate_mem (s : State) (c : Ctx) : (s.matrixUpdate c).mem = s.mem := rfl
@[simp] theorem State.fitQueues_mem (s : State) (f : Nat) (p : Partition) : (s.fitQueues f p).mem = s.mem := by
  refine foldl_keeps (fun s q => ?_) _ s
  dsimp only
  split <;> simp
@[simp] theorem State.definePartition_mem (s : State) (p : Partition) : (s.definePartition p).mem = s.mem := by
  unfold State.definePartition
  dsimp only
  split
  · rfl
  · exact foldl_keeps (fun s f => s.fitQueues_mem f p) _ _
@[simp] theorem State.moveFrame_mem (s : State) (f p : Nat) : (s.moveFrame f p).mem = s.mem := by
  unfold State.moveFrame
  (repeat' split) <;> simp
@[simp] theorem State.setQueueFirmware_mem (s : State) (q : Nat) (asid : BitVec 16) (pcap : Nat) :
    (s.setQueueFirmware q asid pcap).mem = s.mem := by
  unfold State.setQueueFirmware
  split <;> rfl
@[simp] theorem State.writeImport_mem (s : State) (f : Nat) (m : Import) : (s.writeImport f m).mem = s.mem := by
  unfold State.writeImport
  split <;> rfl
@[simp] theorem State.spoil_mem (s : State) (pa : Nat) : (s.spoil pa).mem = s.mem := by
  unfold State.spoil
  (repeat' split) <;> simp
@[simp] theorem State.failTest_mem (s : State) (i : CellId) : (s.failTest i).mem = s.mem := by
  unfold State.failTest
  dsimp only
  (repeat' split) <;> simp
@[simp] theorem State.forward_mem (s : State) (cid : CtxId) : (s.forward cid).mem = s.mem := by
  unfold State.forward
  split
  · rfl
  · split
    · rfl
    · split
      · rfl
      · dsimp only
        split
        · rfl
        · next h => simp [State.postRecord_mem h]

end Sys2Proof.Machine
end

section
/-!
What the instructions leave of memory: all of it, for every form that a program can hold.
-/
namespace Sys2Proof.Machine
open Sys2Proof.Claims

/-! ### Outcomes that leave the memory as it was -/

/-- A next state of an outcome has memory `m`. -/
def keepsMem (m : Memory) (o : Out) : Prop := keeps o fun t => t.mem = m

@[simp] theorem keepsMem_next {m : Memory} {t : State} : keepsMem m (.next t) ↔ t.mem = m :=
  ⟨fun h => h t rfl, fun h _ ht => by rw [← Host.Outcome.next.inj ht]; exact h⟩

@[simp] theorem keepsMem_fault {m : Memory} {e : Fault} : keepsMem m (.fault e) := fun _ h => nomatch h

@[simp] theorem keepsMem_refused {m : Memory} {e : Refusal} : keepsMem m (.refused e) := fun _ h => nomatch h

@[simp] theorem keepsMem_faultOut {m : Memory} {s : State} {t : Trap} : keepsMem m (faultOut s t) ↔ s.mem = m := by
  simp [faultOut]

@[simp] theorem keepsMem_parkOut {m : Memory} {s : State} {why : Park} : keepsMem m (parkOut s why) ↔ s.mem = m := by
  simp [parkOut]

@[simp] theorem keepsMem_statusOut {m : Memory} {s : State} {d : BitVec 6} {x : Nat} :
    keepsMem m (statusOut d x s) ↔ s.mem = m := by
  simp [statusOut]

section
variable (s : State)

@[simp] theorem whole_keepsMem (h : Hdr) (f : Ctx → Ctx) : keepsMem s.mem (whole h f s) := by simp [whole]

@[simp] theorem lanewise_keepsMem (f : Ctx → Ctx) : keepsMem s.mem (lanewise f s) := by simp [lanewise]

@[simp] theorem vlanes_keepsMem (h : Hdr) (t : Ty) (d : BitVec 5) (lat : Nat) (f : Ctx → List Nat) :
    keepsMem s.mem (vlanes h t d lat f s) := lanewise_keepsMem s _

@[simp] theorem fpFinish_keepsMem (fs : List FFlags) (after : Ctx → Ctx) : keepsMem s.mem (fpFinish s fs after) := by
  unfold fpFinish
  dsimp only
  split <;> simp

@[simp] theorem vfloat_keepsMem (h : Hdr) (t : Ty) (d : BitVec 5) (lat : Nat) (rm : Rnd) (n : Nat) (f : Ctx → Nat → FRes) :
    keepsMem s.mem (vfloat h t d lat rm n f s) := by simp [vfloat]

@[simp] theorem vreduce_keepsMem (h : Hdr) (o : VRed) (i n : Nat) (op : Ctx → Nat → Nat → Nat → FRes) :
    keepsMem s.mem (vreduce h o i n op s) := by simp [vreduce]

@[simp] theorem fwhole_keepsMem (h : Hdr) (rm : Rnd) (n : Nat) (f : Ctx → RMode → FRes) (put : Ctx → Nat → Ctx) :
    keepsMem s.mem (fwhole h rm n f put s) := by
  unfold fwhole
  dsimp only
  split <;> simp

@[simp] theorem transfer_keepsMem (t : Word) (f : Ctx → Ctx) : keepsMem s.mem (transfer s t f) := by
  unfold transfer
  split <;> simp

@[simp] theorem branch_keepsMem (h : Hdr) (taken : Ctx → Bool) (target : Ctx → Word) :
    keepsMem s.mem (branch h taken target s) := by
  unfold branch
  split <;> simp

@[simp] theorem srPut_keepsMem (h : Hdr) (n : BitVec 12) (hi : Word) (x : Ctx → Word) :
    keepsMem s.mem (srPut h n hi x s) := by
  unfold srPut
  (repeat' split) <;> simp

@[simp] theorem fenceOp_keepsMem (k : FenceKind) (h : Hdr) (o : FenceS) : keepsMem s.mem (fenceOp k h o s) := by
  unfold fenceOp onPred
  dsimp only
  (repeat' split) <;> simp

/-! ### Accesses -/

@[simp] theorem settleAccess_keepsMem {m : Memory} (use : Use) (ps : List Part) {after : State} (hs : s.mem = m)
    (h : after.mem = m) : keepsMem m (settleAccess s use ps after) := by
  unfold settleAccess
  (repeat' split) <;> simp [hs, h]

@[simp] theorem placed_keepsMem (use : Use) (ps : List (Part × Nat)) (live : Nat → Bool) (f : Ctx → Ctx) :
    keepsMem s.mem (placed s use ps live f) := by
  unfold placed
  dsimp only
  split <;> simp

@[simp] theorem loadAccesses_keepsMem (stack : Bool) (as : List Access) (live : Nat → Bool) (dest : Dest) (len : Nat)
    (o : Order) : keepsMem s.mem (loadAccesses s stack as live dest len o) := by
  unfold loadAccesses
  split <;> simp

@[simp] theorem storeAccesses_keepsMem (stack : Bool) (as : List Access) (live : Nat → Bool) (data : List Byte) (o : Order)
    (stream : Bool) : keepsMem s.mem (storeAccesses s stack as live data o stream) := by
  unfold storeAccesses
  split <;> simp

@[simp] theorem loadDecoded_keepsMem (stack : Bool) (ea : Word) (lanes : List Nat) (hi : Bool) (at0 : Nat → Nat)
    (dest : Nat → Nat → Dest) : keepsMem s.mem (loadDecoded stack ea lanes hi at0 dest s) := by
  unfold loadDecoded
  dsimp only
  (repeat' split) <;> simp

@[simp] theorem reduceOp_keepsMem (op : RmwOp) (ty : Ty) (a : GReg) (disp : BitVec 14) (n : Nat) (live : Nat → Bool)
    (elems : Nat → List (Nat × Word)) : keepsMem s.mem (reduceOp op ty a disp n live elems s) := by
  unfold reduceOp
  dsimp only
  (repeat' split) <;> simp

end

/-! ### Forms with checks in front -/

section
variable {f : State → Out} (hf : ∀ s, keepsMem s.mem (f s)) (s : State)
include hf

theorem onPred_keepsMem (h : Hdr) : keepsMem s.mem (onPred h f s) := by
  unfold onPred
  split <;> simp [hf]

theorem onLanes_keepsMem (h : Hdr) (t : Ty) : keepsMem s.mem (onLanes h t f s) := by
  unfold onLanes
  split <;> simp [hf]

theorem onDet_keepsMem (level : Nat) (applies : State → Bool) : keepsMem s.mem (onDet level applies f s) := by
  unfold onDet
  split <;> simp [hf]

theorem onFree_keepsMem : keepsMem s.mem (onFree f s) := by
  unfold onFree
  split <;> simp [hf]

theorem privOp_keepsMem (code : Nat) (ok : Level → Bool) (h : Hdr) : keepsMem s.mem (privOp code ok h f s) := by
  unfold privOp
  split
  · exact onPred_keepsMem hf s h
  · simp

end

theorem onRegion_keepsMem {f : Region → State → Out} (hf : ∀ r s, keepsMem s.mem (f r s)) (s : State) :
    keepsMem s.mem (onRegion f s) := by
  unfold onRegion
  split <;> simp [hf]

theorem loadV_keepsMem (h : Hdr) (o : MemLdV) (s : State) : keepsMem s.mem (loadV h o s) :=
  onLanes_keepsMem (fun s => loadAccesses_keepsMem s _ _ _ _ _ _) s _ _

theorem storeV_keepsMem (h : Hdr) (o : MemStV) (stream : Bool) (s : State) : keepsMem s.mem (storeV h o stream s) :=
  onLanes_keepsMem (fun s => storeAccesses_keepsMem s _ _ _ _ _ _) s _ _

theorem loadElement_keepsMem (h : Hdr) (o : MemLd) (hi : Bool) (s : State) : keepsMem s.mem (loadElement h o hi s) :=
  onPred_keepsMem (fun s => loadDecoded_keepsMem s _ _ _ _ _ _) s h

theorem atomicOp_keepsMem (op : RmwOp) (h : Hdr) (o : Amo) (s : State) : keepsMem s.mem (atomicOp op h o s) := by
  refine onDet_keepsMem (fun s => onPred_keepsMem (fun s => ?_) s h) s _ _
  dsimp only
  (repeat' split) <;> simp

theorem reduction_keepsMem (op : RmwOp) (h : Hdr) (o : Red) (s : State) : keepsMem s.mem (reduction op h o s) := by
  refine onDet_keepsMem (fun s => ?_) s _ _
  split
  · exact onPred_keepsMem (fun s => reduceOp_keepsMem s _ _ _ _ _ _ _) s h
  · exact onLanes_keepsMem (fun s => reduceOp_keepsMem s _ _ _ _ _ _ _) s h _

theorem pairOp_keepsMem (h : Hdr) (ty : Ty) (a : GReg) (a2 sc : BitVec 6) (dest : Dest) (len : Nat)
    (act : Nat → Nat → Word → Nat → Act) (s : State) : keepsMem s.mem (pairOp h ty a a2 sc dest len act s) := by
  refine onDet_keepsMem (fun s => onPred_keepsMem (fun s => ?_) s h) s _ _
  dsimp only
  (repeat' split) <;> simp

/-- A condition under which a form runs, as `onPred` and `onLanes` are: it hands the state on, or leaves the memory. -/
def gatesMem (on : (State → Out) → State → Out) : Prop :=
  ∀ f, (∀ s, keepsMem s.mem (f s)) → ∀ s, keepsMem s.mem (on f s)

theorem sendOp_keepsMem {on : (State → Out) → State → Out} (hon : gatesMem on) (ra : GReg) (tag : BitVec 14)
    (bytes : Ctx → List Byte) (sc : Option (BitVec 6)) (s : State) : keepsMem s.mem (sendOp on ra tag bytes sc s) := by
  refine onDet_keepsMem (hon _ (onFree_keepsMem (onRegion_keepsMem fun r s => ?_))) s _ _
  dsimp only
  (repeat' split) <;> simp

theorem recvOp_keepsMem {on : (State → Out) → State → Out} (hon : gatesMem on) (n : Nat) (src : Regs → Option Nat)
    (m : BitVec 6) (put : Ctx → List Byte → Ctx) (s : State) : keepsMem s.mem (recvOp on n src m put s) := by
  unfold recvOp
  refine onDet_keepsMem (hon _ (onFree_keepsMem (onRegion_keepsMem fun r s => ?_))) s _ _
  dsimp only
  (repeat' split) <;> simp

theorem handleRead_keepsMem (h : Hdr) (o : HRd) (word : Handle → Word) (s : State) :
    keepsMem s.mem (handleRead h o word s) := by
  refine onPred_keepsMem (fun s => ?_) s h
  dsimp only
  (repeat' split) <;> simp

@[simp] theorem issueCopy_keepsMem (q : Nat) (hd : BitVec 4) (o : CopyOp) (s : State) :
    keepsMem s.mem (issueCopy q hd o s) := by
  unfold issueCopy
  split <;> simp

theorem copyRange_keepsMem (kind : CopyKind) (h : Hdr) (o : Cpy) (s : State) : keepsMem s.mem (copyRange kind h o s) := by
  refine onPred_keepsMem (fun s => ?_) s h
  dsimp only
  split <;> simp

/-! ### Fabric forms -/

@[simp] theorem keepsMem_fabricFault {m : Memory} {e : Entry} {t : Trap} {s : State} :
    keepsMem m (fabricFault e t s) ↔ s.mem = m := by
  simp [fabricFault]

section
variable {body : Entry → State → Out} (hb : ∀ e s, keepsMem s.mem (body e s))
include hb

theorem atFabricHead_keepsMem (e : Entry) (s : State) : keepsMem s.mem (atFabricHead body e s) := by
  unfold atFabricHead
  split <;> simp [hb]

theorem onFabric_keepsMem (h : Hdr) (hd : Option (BitVec 4)) (table : State → Option Word) (o : State → AfOp) (s : State) :
    keepsMem s.mem (onFabric h hd table o body s) := by
  refine onPred_keepsMem (fun s => ?_) s h
  dsimp only
  split
  · exact atFabricHead_keepsMem hb _ s
  · split
    · simp
    · split
      · exact atFabricHead_keepsMem hb _ (s.mapTh fun c => c.placeFabric hd (o s) s.now)
      · simp

end

theorem withClaim_keepsMem {f : Claim → Entry → State → Out} (hf : ∀ k e s, keepsMem s.mem (f k e s)) (e : Entry) (s : State) :
    keepsMem s.mem (withClaim f e s) := by
  unfold withClaim
  split <;> simp [hf]

theorem fabricRead_keepsMem (a : Word) (len : Nat) {k : List Byte → State → Out} (hk : ∀ bs s, keepsMem s.mem (k bs s))
    (e : Entry) (s : State) : keepsMem s.mem (fabricRead a len k e s) := by
  have hdrop := hk (s.ioBytes (.engine s.th.cid 7) e.op) (s.ioDrop (.engine s.th.cid 7) e.op)
  rw [State.ioDrop_mem] at hdrop
  unfold fabricRead
  dsimp only
  (repeat' split) <;> simp [hdrop]

@[simp] theorem loadTable_keepsMem (k : Claim) (e : Entry) (s : State) : keepsMem s.mem (loadTable k e s) := by
  unfold loadTable
  dsimp only
  split <;> simp

@[simp] theorem State.setRing_mem (s : State) (pa : Nat) : (s.setRing pa).mem = s.mem := by
  unfold State.setRing
  (repeat' split) <;> rfl

@[simp] theorem State.invalidate_mem (s : State) (reach : BitVec 2) (hit : TlbEntry → Bool) :
    (s.invalidate reach hit).mem = s.mem := by
  unfold State.invalidate
  generalize List.range 512 = ks
  exact foldl_keeps (proj := State.mem) (fun s k => s.setComb_mem _) (ks.filter _) s

/-! ### Instructions -/

theorem onPred_gates (h : Hdr) : gatesMem (onPred h) := fun _ hf s => onPred_keepsMem hf s h

theorem onLanes_gates (h : Hdr) (t : Ty) : gatesMem (onLanes h t) := fun _ hf s => onLanes_keepsMem hf s h t

/-- Halting the domain of a context that may be in none. -/
theorem haltOptional_mem (s : State) (r : Option Region) (f : Region → RegionId) :
    (r.elim s (s.haltDomain ∘ f)).mem = s.mem := by
  cases r <;> simp

theorem execLd_keepsMem (h : Hdr) (o : MemLd) (s : State) : keepsMem s.mem (execLd h o s) :=
  onPred_keepsMem (fun s => loadAccesses_keepsMem s _ _ _ _ _ _) s h

theorem execLdr_keepsMem (h : Hdr) (o : MemLd) (s : State) : keepsMem s.mem (execLdr h o s) :=
  onPred_keepsMem (fun s => loadAccesses_keepsMem s _ _ _ _ _ _) s h

theorem execSt_keepsMem (h : Hdr) (o : MemSt) (s : State) : keepsMem s.mem (execSt h o s) :=
  onPred_keepsMem (fun s => storeAccesses_keepsMem s _ _ _ _ _ _) s h

theorem execSts_keepsMem (h : Hdr) (o : MemSt) (s : State) : keepsMem s.mem (execSts h o s) :=
  onPred_keepsMem (fun s => storeAccesses_keepsMem s _ _ _ _ _ _) s h

theorem execLdvb_keepsMem (h : Hdr) (o : MemLdV) (s : State) : keepsMem s.mem (execLdvb h o s) :=
  onLanes_keepsMem (fun s => loadAccesses_keepsMem s _ _ _ _ _ _) s h _

theorem execVgather_keepsMem (h : Hdr) (o : Gather) (s : State) : keepsMem s.mem (execVgather h o s) :=
  onLanes_keepsMem (fun s => loadAccesses_keepsMem s _ _ _ _ _ _) s h _

theorem execLdfv_keepsMem (h : Hdr) (o : MemLdV) (s : State) : keepsMem s.mem (execLdfv h o s) :=
  onLanes_keepsMem (fun s => loadDecoded_keepsMem s _ _ _ _ _ _) s h _

theorem execVscatter_keepsMem (h : Hdr) (o : Scatter) (s : State) : keepsMem s.mem (execVscatter h o s) :=
  onLanes_keepsMem (fun s => storeAccesses_keepsMem s _ _ _ _ _ _) s h _

theorem execLdrx_keepsMem (h : Hdr) (o : MemLd) (s : State) : keepsMem s.mem (execLdrx h o s) := by
  refine onPred_keepsMem (fun s => ?_) s h
  dsimp only
  (repeat' split) <;> simp

theorem execPft_keepsMem (h : Hdr) (o : Prefetch) (s : State) : keepsMem s.mem (execPft h o s) := by
  refine onPred_keepsMem (fun s => ?_) s h
  (repeat' split) <;> simp

theorem execPfh_keepsMem (h : Hdr) (o : Prefetch) (s : State) : keepsMem s.mem (execPfh h o s) := by
  refine onPred_keepsMem (fun s => ?_) s h
  dsimp only
  (repeat' split) <;> simp

theorem execFork_keepsMem (h : Hdr) (o : ForkOp) (s : State) : keepsMem s.mem (execFork h o s) := by
  refine onPred_keepsMem (fun s => ?_) s h
  dsimp only
  (repeat' split) <;> simp

theorem execRdv_keepsMem (h : Hdr) (o : Rdv) (s : State) : keepsMem s.mem (execRdv h o s) := by
  refine onPred_keepsMem (fun s => ?_) s h
  dsimp only
  (repeat' split) <;> simp

theorem execHtest_keepsMem (h : Hdr) (o : HRd) (s : State) : keepsMem s.mem (execHtest h o s) := by
  refine onPred_keepsMem (fun s => ?_) s h
  simp

theorem execHcancel_keepsMem (h : Hdr) (o : HOp) (s : State) : keepsMem s.mem (execHcancel h o s) := by
  refine onPred_keepsMem (fun s => ?_) s h
  dsimp only
  (repeat' split) <;> simp

theorem execCpyb_keepsMem (h : Hdr) (o : CpyB) (s : State) : keepsMem s.mem (execCpyb h o s) := by
  refine onPred_keepsMem (fun s => ?_) s h
  dsimp only
  (repeat' split) <;> simp

theorem execQfence_keepsMem (h : Hdr) (o : QFence) (s : State) : keepsMem s.mem (execQfence h o s) := by
  refine onPred_keepsMem (fun s => ?_) s h
  (repeat' split) <;> simp

theorem execFprobe_keepsMem (h : Hdr) (o : DstG) (s : State) : keepsMem s.mem (execFprobe h o s) := by
  refine onPred_keepsMem (fun s => ?_) s h
  dsimp only
  (repeat' split) <;> simp

theorem execFenceAcq_keepsMem (h : Hdr) (s : State) : keepsMem s.mem (execFenceAcq h s) := by
  refine onPred_keepsMem (fun s => ?_) s h
  simp

theorem execLdAcq_keepsMem (h : Hdr) (o : MemLdS) (s : State) : keepsMem s.mem (execLdAcq h o s) := by
  refine onPred_keepsMem (fun s => ?_) s h
  dsimp only
  split <;> simp [loadG]

theorem execStRel_keepsMem (h : Hdr) (o : MemStS) (s : State) : keepsMem s.mem (execStRel h o s) := by
  refine onPred_keepsMem (fun s => ?_) s h
  dsimp only
  split <;> simp [storeG]

theorem execCall_keepsMem (h : Hdr) (o : BRel) (s : State) : keepsMem s.mem (execCall h o s) := by
  unfold execCall
  (repeat' split) <;> simp

theorem execCallr_keepsMem (h : Hdr) (o : BReg) (s : State) : keepsMem s.mem (execCallr h o s) := by
  unfold execCallr
  (repeat' split) <;> simp

theorem execLoop_keepsMem (h : Hdr) (o : BLoop) (s : State) : keepsMem s.mem (execLoop h o s) := by
  unfold execLoop
  dsimp only
  (repeat' split) <;> simp

theorem execLbrk_keepsMem (h : Hdr) (s : State) : keepsMem s.mem (execLbrk h s) := by
  unfold execLbrk
  (repeat' split) <;> simp

theorem execGjoin_keepsMem (h : Hdr) (s : State) : keepsMem s.mem (execGjoin h s) := by
  unfold execGjoin
  dsimp only
  (repeat' split) <;> simp

theorem execSrrd_keepsMem (h : Hdr) (o : SrRd) (s : State) : keepsMem s.mem (execSrrd h o s) := by
  unfold execSrrd
  (repeat' split) <;> simp

theorem execTrap_keepsMem (h : Hdr) (o : TrapOp) (s : State) : keepsMem s.mem (execTrap h o s) := by
  unfold execTrap
  (repeat' split) <;> simp

theorem execHalt_keepsMem (h : Hdr) (s : State) : keepsMem s.mem (execHalt h s) := by
  unfold execHalt
  dsimp only
  (repeat' split) <;> simp

theorem execGdet_keepsMem (h : Hdr) (s : State) : keepsMem s.mem (execGdet h s) := by
  simp [execGdet]

theorem execNop_keepsMem (h : Hdr) (s : State) : keepsMem s.mem (execNop h s) := by
  simp [execNop]

theorem execUnlisted_keepsMem (x : Unlisted) (s : State) : keepsMem s.mem (execUnlisted x s) := by
  unfold execUnlisted
  (repeat' split) <;> simp

theorem execWaitaddr_keepsMem (h : Hdr) (o : WaitAddr) (s : State) : keepsMem s.mem (execWaitaddr h o s) := by
  refine onDet_keepsMem (onPred_keepsMem (fun s => ?_) (h := h)) s _ _
  dsimp only
  (repeat' split) <;> simp

theorem execColl_keepsMem (h : Hdr) (o : Coll) (s : State) : keepsMem s.mem (execColl h o s) := by
  refine onDet_keepsMem (onPred_keepsMem (fun s => ?_) (h := h)) s _ _
  dsimp only
  (repeat' split) <;> simp

theorem execContend_keepsMem (h : Hdr) (o : Contend) (s : State) : keepsMem s.mem (execContend h o s) := by
  refine onDet_keepsMem (onPred_keepsMem (fun s => ?_) (h := h)) s _ _
  (repeat' split) <;> simp

theorem execEvsig_keepsMem (h : Hdr) (o : EvSig) (s : State) : keepsMem s.mem (execEvsig h o s) := by
  refine onPred_keepsMem (onFree_keepsMem (onRegion_keepsMem fun r s => ?_)) s h
  simp

theorem execEvwait_keepsMem (h : Hdr) (o : EvWait) (s : State) : keepsMem s.mem (execEvwait h o s) := by
  refine onDet_keepsMem (fun s => onPred_keepsMem (onFree_keepsMem (onRegion_keepsMem fun r s => ?_)) s h) s _ _
  (repeat' split) <;> simp

theorem execSend_keepsMem (h : Hdr) (o : Send) (s : State) : keepsMem s.mem (execSend h o s) :=
  sendOp_keepsMem (onPred_gates h) _ _ _ _ s

theorem execSendRel_keepsMem (h : Hdr) (o : SendRel) (s : State) : keepsMem s.mem (execSendRel h o s) :=
  sendOp_keepsMem (onPred_gates h) _ _ _ _ s

theorem execSendv_keepsMem (h : Hdr) (o : SendV) (s : State) : keepsMem s.mem (execSendv h o s) :=
  sendOp_keepsMem (onLanes_gates h .d) _ _ _ _ s

theorem execRecv_keepsMem (h : Hdr) (o : Recv) (s : State) : keepsMem s.mem (execRecv h o s) :=
  recvOp_keepsMem (onPred_gates h) _ _ _ _ s

theorem execRecvAny_keepsMem (h : Hdr) (o : RecvAny) (s : State) : keepsMem s.mem (execRecvAny h o s) :=
  recvOp_keepsMem (onPred_gates h) _ _ _ _ s

theorem execRecvv_keepsMem (h : Hdr) (o : RecvV) (s : State) : keepsMem s.mem (execRecvv h o s) :=
  recvOp_keepsMem (onLanes_gates h .d) _ _ _ _ s

theorem execRecvvAny_keepsMem (h : Hdr) (o : RecvVAny) (s : State) : keepsMem s.mem (execRecvvAny h o s) :=
  recvOp_keepsMem (onLanes_gates h .d) _ _ _ _ s

theorem execSstep_keepsMem (h : Hdr) (s : State) : keepsMem s.mem (execSstep h s) := by
  refine onPred_keepsMem (fun s => ?_) s h
  split
  · simp
  · exact onRegion_keepsMem (fun r s => by dsimp only; split <;> simp) s

theorem execBar_keepsMem (h : Hdr) (o : BarOp) (s : State) : keepsMem s.mem (execBar h o s) := by
  refine onPred_keepsMem (onFree_keepsMem fun s => ?_) s h
  dsimp only
  split
  · simp
  · refine onRegion_keepsMem (fun r s => ?_) s
    split
    · simp
    · simp only [keepsMem_next, Option.elim]
      split <;> simp

theorem execHpass_keepsMem (h : Hdr) (o : HPass) (s : State) : keepsMem s.mem (execHpass h o s) := by
  unfold execHpass
  refine onDet_keepsMem (fun s => onPred_keepsMem (onFree_keepsMem fun s => ?_) s h) s _ _
  split
  · simp
  · refine onRegion_keepsMem (fun r s => ?_) s
    dsimp only
    (repeat' split) <;> simp

theorem execCtxsave_keepsMem (h : Hdr) (o : CtxSave) (s : State) : keepsMem s.mem (execCtxsave h o s) := by
  refine privOp_keepsMem (fun s => ?_) s _ _ h
  dsimp only
  (repeat' split) <;> simp

theorem execCtxload_keepsMem (h : Hdr) (o : CtxLoad) (s : State) : keepsMem s.mem (execCtxload h o s) := by
  refine privOp_keepsMem (fun s => ?_) s _ _ h
  dsimp only
  (repeat' split) <;> simp [haltOptional_mem]

theorem execMint_keepsMem (h : Hdr) (o : GReg2) (s : State) : keepsMem s.mem (execMint h o s) := by
  refine privOp_keepsMem (fun s => ?_) s _ _ h
  dsimp only
  (repeat' split) <;> simp

theorem execFret_keepsMem (h : Hdr) (o : Fret) (s : State) : keepsMem s.mem (execFret h o s) := by
  refine privOp_keepsMem (fun s => ?_) s _ _ h
  dsimp only
  (repeat' split) <;> simp

theorem execTlbwr_keepsMem (h : Hdr) (o : TlbWr) (s : State) : keepsMem s.mem (execTlbwr h o s) := by
  refine privOp_keepsMem (fun s => ?_) s _ _ h
  dsimp only
  (repeat' split) <;> simp

theorem execTlbinv_keepsMem (h : Hdr) (o : TlbInv) (s : State) : keepsMem s.mem (execTlbinv h o s) := by
  refine privOp_keepsMem (fun s => ?_) s _ _ h
  dsimp only
  (repeat' split) <;> simp

theorem execSnap_keepsMem (h : Hdr) (o : DstG) (s : State) : keepsMem s.mem (execSnap h o s) := by
  refine privOp_keepsMem (fun s => ?_) s _ _ h
  dsimp only
  (repeat' split) <;> simp

theorem execMseal_keepsMem (h : Hdr) (o : Mseal) (s : State) : keepsMem s.mem (execMseal h o s) := by
  refine privOp_keepsMem (fun s => ?_) s _ _ h
  dsimp only
  (repeat' split) <;> simp

theorem execAfclaim_keepsMem (h : Hdr) (o : AfClaim) (s : State) : keepsMem s.mem (execAfclaim h o s) := by
  refine onFabric_keepsMem (fun e s => ?_) h _ _ _ s
  dsimp only
  (repeat' split) <;> simp

theorem execAfcal_keepsMem (h : Hdr) (o : HOp) (s : State) : keepsMem s.mem (execAfcal h o s) := by
  refine onFabric_keepsMem (withClaim_keepsMem fun k e s => ?_) h _ _ _ s
  (repeat' split) <;> simp

theorem execAfscale_keepsMem (h : Hdr) (o : AfScale) (s : State) : keepsMem s.mem (execAfscale h o s) := by
  refine onFabric_keepsMem (withClaim_keepsMem fun k e s => ?_) h _ _ _ s
  dsimp only
  (repeat' split) <;> simp

theorem execAfrun_keepsMem (h : Hdr) (o : HOp) (s : State) : keepsMem s.mem (execAfrun h o s) := by
  refine onFabric_keepsMem (withClaim_keepsMem fun k e s => ?_) h _ _ _ s
  (repeat' split) <;> simp

theorem execAfstop_keepsMem (h : Hdr) (o : HOp) (s : State) : keepsMem s.mem (execAfstop h o s) := by
  refine onFabric_keepsMem (withClaim_keepsMem fun k e s => ?_) h _ _ _ s
  (repeat' split) <;> simp

theorem execAfrel_keepsMem (h : Hdr) (o : HOp) (s : State) : keepsMem s.mem (execAfrel h o s) := by
  refine onFabric_keepsMem (withClaim_keepsMem fun k e s => ?_) h _ _ _ s
  simp

theorem execAfsettle_keepsMem (h : Hdr) (o : AfA) (s : State) : keepsMem s.mem (execAfsettle h o s) := by
  refine onFabric_keepsMem (withClaim_keepsMem fun k e s => ?_) h _ _ _ s
  dsimp only
  (repeat' split) <;> simp

theorem execAfcfg_keepsMem (h : Hdr) (o : AfA) (s : State) : keepsMem s.mem (execAfcfg h o s) := by
  refine onFabric_keepsMem (withClaim_keepsMem fun k e s => ?_) h _ _ _ s
  split
  · simp
  split
  · simp
  · exact fabricRead_keepsMem _ _ (fun bs s => by simp) e s

theorem execAfsample_keepsMem (h : Hdr) (o : AfSample) (s : State) : keepsMem s.mem (execAfsample h o s) := by
  refine onDet_keepsMem (onFabric_keepsMem (withClaim_keepsMem fun k e s => ?_) h _ _ _) s _ _
  dsimp only
  split
  · simp
  · refine fabricRead_keepsMem _ _ (fun bs s => ?_) e s
    (repeat' split) <;> simp

theorem execVcvt_keepsMem (h : Hdr) (o : VCvt) (s : State) : keepsMem s.mem (execVcvt h o s) := by
  unfold execVcvt
  simp

theorem execVrsum_keepsMem (h : Hdr) (o : VRed) (s : State) : keepsMem s.mem (execVrsum h o s) := by
  unfold execVrsum
  dsimp only
  (repeat' split) <;> simp

end Sys2Proof.Machine
end

section
/-!
The engines: what they leave of memory, and that the dirty log keeps its form.
-/
namespace Sys2Proof.Machine
open Sys2Proof.Claims

/-! ### Matrix instructions -/

/-- Every state that an engine instruction hands on has memory `m`. -/
def EngOut.keepsMem (m : Memory) : EngOut → Prop
  | .done s _ | .trap s _ _ | .busy s _ => s.mem = m
  | .wait _ | .absent _ => True

theorem matMma_keepsMem (o : MmaOp) (c : Ctx) (s : State) : (matMma o c s).keepsMem s.mem := by
  unfold matMma
  split <;> simp [EngOut.keepsMem]

theorem matDrain_keepsMem (o : MdrainOp) (c : Ctx) (s : State) : (matDrain o c s).keepsMem s.mem := by
  unfold matDrain
  dsimp only
  (repeat' split) <;> simp [EngOut.keepsMem]

theorem inlineMat_keepsMem {f : Ctx → State → EngOut} (hf : ∀ c s, (f c s).keepsMem s.mem) (h : Hdr) (s : State) :
    keepsMem s.mem (inlineMat h f s) := by
  have hout := hf s.th s
  unfold inlineMat
  split
  · simp
  · split
    · simp
    · revert hout
      cases f s.th s <;> simp [EngOut.keepsMem]

/-- The matrix instructions of a forked program that touch no memory. -/
theorem matrixEffect_keepsMem {i : Instr} {h : Hdr} {f : Ctx → State → EngOut} (hi : matrixEffect i = some (h, f)) (c : Ctx)
    (s : State) : (f c s).keepsMem s.mem := by
  unfold matrixEffect at hi
  split at hi <;> cases hi <;> rfl

/-! ### Copies -/

/-- Every state that a step of a copy hands on has memory `m`. -/
def CopyOut.keepsMem (m : Memory) : CopyOut → Prop
  | .more s _ | .done s _ _ _ => s.mem = m
  | .wait | .held | .absent _ => True

section
variable (o : CopyOp) (s : State) (c : Ctx)

@[simp] theorem CopyOp.end_keepsMem (st : HState) (res det : Word) : (o.end_ s st res det).keepsMem s.mem := rfl

@[simp] theorem CopyOp.fail_keepsMem (t : Trap) (n : Nat) : (o.fail s c t n).keepsMem s.mem := by
  unfold CopyOp.fail CopyOp.end_ CopyOut.keepsMem
  dsimp only
  split <;> simp

@[simp] theorem CopyOp.format_keepsMem : (o.format s).keepsMem s.mem := rfl
@[simp] theorem CopyOp.overlap_keepsMem : (o.overlap s).keepsMem s.mem := rfl
@[simp] theorem CopyOp.ok_keepsMem (n : Nat) : (o.ok s n).keepsMem s.mem := rfl

@[simp] theorem CopyOp.readPiece_keepsMem (p : Port) (src : List (Part × Nat)) (x : Piece) :
    (o.readPiece p c s src x).keepsMem s.mem := by
  unfold CopyOp.readPiece
  dsimp only
  split <;> simp [CopyOut.keepsMem]

@[simp] theorem CopyOp.after_keepsMem (total : Nat) (x : Piece) : (o.after c s total x).keepsMem s.mem := by
  unfold CopyOp.after
  split
  · simp
  · split
    · simp
    · rfl

theorem copyStart_keepsMem {k : CopyOut} (hk : k.keepsMem s.mem) : (copyStart o c s k).keepsMem s.mem := by
  unfold copyStart
  (repeat' split) <;> simp [hk]

@[simp] theorem CopyOp.linePiece_keepsMem (p : Port) (m : Nat) (f : Option Trap) : (o.linePiece p c s m f).keepsMem s.mem := by
  unfold CopyOp.linePiece
  split <;> simp

end

section
variable (p : Port) (o : CopyOp) (c : Ctx) (g : CopyPage) (s : State)

@[simp] theorem copyLine_keepsMem : (copyLine p o c s).keepsMem s.mem := by simp [copyLine]

@[simp] theorem copyBlocks_keepsMem : (copyBlocks p o c g s).keepsMem s.mem := by simp [copyBlocks]

@[simp] theorem copyCompanionPiece_keepsMem (x : Piece) : (copyCompanionPiece p o c g s x).keepsMem s.mem := by
  unfold copyCompanionPiece
  dsimp only
  split <;> simp

@[simp] theorem copyPanel_keepsMem : (copyPanel p o c g s).keepsMem s.mem := by
  unfold copyPanel
  (repeat' split) <;> simp

@[simp] theorem CopyOp.fitted_keepsMem (f : Fit) : (o.fitted c s f).keepsMem s.mem := by
  cases f with
  | missing t =>
    unfold CopyOp.fitted
    dsimp only
    split <;> simp
  | unfit => rfl
  | fits g => rfl

theorem CopyOp.nextPiece_keepsMem : (o.nextPiece p c s).keepsMem s.mem := by
  unfold CopyOp.nextPiece
  split
  · exact copyStart_keepsMem o s c (copyLine_keepsMem p o c s)
  · exact copyStart_keepsMem o s c (copyBlocks_keepsMem p o c _ s)
  · exact copyStart_keepsMem o s c (CopyOp.fitted_keepsMem o c s _)
  · exact copyPanel_keepsMem p o c _ s
  · exact CopyOp.fitted_keepsMem o c s _

end

/-! ### What changes memory keeps its form: the dirty log (R349) -/

/-- A next state of an outcome has its memory in canonical form. -/
def keepsForm (o : Out) : Prop := keeps o State.Canonical

@[simp] theorem keepsForm_next {t : State} : keepsForm (.next t) ↔ t.mem.wf = true :=
  ⟨fun h => h t rfl, fun h _ ht => by rw [← Host.Outcome.next.inj ht]; exact h⟩

@[simp] theorem keepsForm_fault {e : Fault} : keepsForm (.fault e) := fun _ h => nomatch h

/-- An outcome that leaves a memory in canonical form as it was. -/
theorem keepsMem.form {m : Memory} {o : Out} (h : keepsMem m o) (hm : m.wf = true) : keepsForm o := by
  intro t ht
  have hmem : t.mem = m := h t ht
  rw [State.Canonical, hmem, hm]

section
variable {s t : State} (hs : s.mem.wf = true)
include hs

theorem State.logDirty_wf {c : Ctx} {i : CellId} {e : TlbEntry} (h : s.logDirty c i e = some t) : t.mem.wf = true := by
  have hwf : ∀ m : Memory, m.wf = true → ∀ a n x b l y, ((m.setNum a n x).setNum b l y).wf = true :=
    fun m hm a n x b l y => Memory.wf_setNum (Memory.wf_setNum hm a n x) b l y
  unfold State.logDirty at h
  dsimp only at h
  split at h
  · exact nomatch h
  · split at h
    · rw [State.postRecord_mem h, State.setComb_mem, State.setCell_mem]
      exact hwf _ hs _ _ _ _ _ _
    · rw [← Option.some.inj h, State.setComb_mem, State.setCell_mem]
      exact hwf _ hs _ _ _ _ _ _

theorem State.dirty_wf {c : Ctx} {es : List TlbEntry} (h : State.dirty c es s = some t) : t.mem.wf = true := by
  induction es generalizing s with
  | nil => exact Option.some.inj h ▸ hs
  | cons e es ih =>
    unfold State.dirty at h
    split at h
    · exact Option.some.inj h ▸ hs
    · split at h
      · contradiction
      · next u hu =>
        refine ih ?_ h
        split at hu
        · exact State.logDirty_wf hs hu
        · exact Option.some.inj hu ▸ hs

theorem State.dirtyOp_wf {c : Ctx} {o : MemOp} (h : s.dirtyOp c o = some t) : t.mem.wf = true := by
  unfold State.dirtyOp at h
  split at h
  · exact State.dirty_wf hs h
  · exact Option.some.inj h ▸ hs

theorem State.writePiece_wf {p : Port} {c : Ctx} {x : Piece} (h : s.writePiece p c x = some t) : t.mem.wf = true := by
  obtain ⟨u, hu, rfl⟩ := Option.map_eq_some_iff.1 h
  simpa using State.dirty_wf hs hu

theorem State.engineWrite_wf (c : Ctx) (q : Nat) (e : Entry) (src : Source) (ps : List (Part × List (Option Byte))) :
    (s.engineWrite c q e src ps).1.mem.wf = true := by
  unfold State.engineWrite
  dsimp only
  split
  · simpa using hs
  · next u hu => simpa using State.dirty_wf (s := s.tlbTouch c (ps.map Prod.fst)) (by simpa using hs) hu

/-! ### Collectives -/

theorem State.collWrites_wf (b : Binding) (r : Registration) (c : Ctx) (ps : List (Part × Nat)) (bs : List Byte) :
    (s.collWrites b r c ps bs).mem.wf = true := by
  unfold State.collWrites
  dsimp only
  split
  · simpa using hs
  · next u hu => simpa using State.dirty_wf (s := s.tlbTouch c (ps.map Prod.fst)) (by simpa using hs) hu

theorem State.writeBitmap_wf {c : Ctx} {r : Registration} {b : Binding} {m : Nat} (h : s.writeBitmap c r b m = some t) :
    t.mem.wf = true := by
  unfold State.writeBitmap at h
  dsimp only at h
  split at h
  · simpa [← Option.some.inj h] using hs
  · split at h
    · simpa [← Option.some.inj h] using hs
    · split at h
      · simpa [← Option.some.inj h] using hs
      · exact Option.some.inj h ▸ State.collWrites_wf hs _ _ _ _ _

theorem State.deliverColl_wf {g : Group} {b : Binding} {r : Registration} {c : Ctx} (h : s.deliverColl g b r c = some t) :
    t.mem.wf = true := by
  unfold State.deliverColl at h
  dsimp only at h
  split at h
  · simpa [← Option.some.inj h] using hs
  · split at h
    · contradiction
    · exact Option.some.inj h ▸ State.collWrites_wf hs _ _ _ _ _

theorem State.collOver_wf {b : Binding} {r : Registration} (h : s.collOver b r = some t) : t.mem.wf = true := by
  unfold State.collOver at h
  dsimp only at h
  split at h
  · contradiction
  · simpa [← Option.some.inj h] using hs

theorem State.resolveColl_wf {r : Registration} (h : s.resolveColl r = some t) : t.mem.wf = true := by
  have hend : ∀ x, (s.endColl r x).mem.wf = true := fun x => by simpa using hs
  unfold State.resolveColl at h
  split at h
  · exact Option.some.inj h ▸ hend _
  · split at h
    · split at h
      · contradiction
      split at h
      · exact State.collOver_wf hs h
      split at h
      · exact Option.some.inj h ▸ hend _
      split at h
      · exact State.writeBitmap_wf hs h
      split at h
      · split at h
        · exact Option.some.inj h ▸ hend _
        · contradiction
      · split at h
        · exact State.deliverColl_wf hs h
        · contradiction
    · contradiction

/-! ### Engines -/

theorem copyStep_wf (p : Port) (o : CopyOp) (c : Ctx) :
    ∃ m, m.wf = true ∧ (copyStep p o c s).keepsMem m := by
  unfold copyStep
  split
  · refine ⟨s.mem, hs, ?_⟩
    split
    · trivial
    · split <;> simp [CopyOut.keepsMem]
  · split
    · exact ⟨s.mem, hs, trivial⟩
    · split
      · exact ⟨s.mem, hs, CopyOp.fail_keepsMem o s c _ _⟩
      · split
        · exact ⟨s.mem, hs, CopyOp.nextPiece_keepsMem p o c s⟩
        · split
          · exact ⟨s.mem, hs, trivial⟩
          · next u hu =>
            refine ⟨u.mem, State.writePiece_wf hs hu, ?_⟩
            split <;> simp

theorem State.engineCopy_form {c : Ctx} {q : Nat} {e : Entry} {o : CopyOp} {more : State → CopyOp → State}
    {fin : State → HState × Word × Word → State} (hmore : ∀ s o, (more s o).mem = s.mem) (hfin : ∀ s x, (fin s x).mem = s.mem) :
    keepsForm (s.engineCopy c q e o more fin) := by
  obtain ⟨m, hm, hout⟩ := copyStep_wf hs (portOf c q e) o c
  unfold State.engineCopy
  revert hout
  cases copyStep (portOf c q e) o c s with
  | more u o => rintro rfl; simpa [hmore] using hm
  | done u st res det => rintro rfl; simpa [hfin] using hm
  | held => intro; simpa using hs
  | wait => intro; simpa using hs
  | absent f => intro; simp

theorem State.forkedDrain_form (c : Ctx) (e : Entry) (p : Prog) (o : MdrainOp) : keepsForm (s.forkedDrain c e p o) := by
  have hw := fun ps => State.engineWrite_wf hs c 4 e (portOf c 4 e).src ps
  unfold State.forkedDrain
  dsimp only
  split
  · next ps d _ =>
    rw [keepsForm_next]
    split
    · simpa using hw ps
    · exact hw ps
  · simpa using hs
  · simp

end

theorem State.progOver_keepsMem (s : State) (c : Ctx) (q : Nat) (e : Entry) (p : Prog) (x : HState × Word × Word) :
    keepsMem s.mem (s.progOver c q e p x) := by
  unfold State.progOver
  dsimp only
  split <;> simp

theorem State.forkedMma_keepsMem (s : State) (c : Ctx) (e : Entry) (p : Prog) (o : MmaOp) :
    keepsMem s.mem (s.forkedMma c e p o) := by
  unfold State.forkedMma
  dsimp only
  (repeat' split) <;> simp

theorem State.forkedPlain_keepsMem (s : State) (c : Ctx) (e : Entry) (p : Prog) (i : SlotInstr) :
    keepsMem s.mem (s.forkedPlain c e p i) := by
  unfold State.forkedPlain
  dsimp only
  split
  · simp
  · next h f hi =>
    split
    · simp
    · have hout := matrixEffect_keepsMem hi { c with regs := p.regs } s
      revert hout
      cases f { c with regs := p.regs } s <;> simp [EngOut.keepsMem]

theorem State.copierNext_keepsMem (s : State) (c : Ctx) (e : Entry) (p : Prog) : keepsMem s.mem (s.copierNext c e p) := by
  unfold State.copierNext
  dsimp only
  (repeat' split) <;> simp

section
variable {s : State} (hs : s.mem.wf = true)
include hs

theorem State.matrixStep_form (c : Ctx) (e : Entry) (p : Prog) : keepsForm (s.matrixStep c e p) := by
  have htouch : (s.fetchTouch c p.pc).mem.wf = true := by simpa using hs
  unfold State.matrixStep
  dsimp only
  split
  · exact (s.progOver_keepsMem c 4 e p _).form hs
  · split
    · simpa using hs
    · split
      · simpa using hs
      · split
        · exact (State.forkedMma_keepsMem _ c e p _).form htouch
        · simpa using hs
      · split
        · exact State.forkedDrain_form htouch c e p _
        · simpa using hs
      · exact (State.forkedPlain_keepsMem _ c e p _).form htouch

theorem State.copierStep_form (c : Ctx) (e : Entry) (p : Prog) : keepsForm (s.copierStep c e p) := by
  unfold State.copierStep
  split
  · exact State.engineCopy_form hs (by simp) (by simp)
  · exact (s.progOver_keepsMem c 5 e p _).form hs
  · exact (s.copierNext_keepsMem c e p).form hs

theorem State.takeSample_form (c : Ctx) (e : Entry) (d : Word) (ns : List Nat) (codes : List (BitVec 14)) (digits at_ : Nat) :
    keepsForm (s.takeSample c e d ns codes digits at_) := by
  unfold State.takeSample
  dsimp only
  split
  · simpa using hs
  · split
    · split
      · simpa using hs
      · split <;> simpa using hs
    · split
      · simpa using hs
      · split
        · simp
        · exact keepsForm_next.2 (State.engineWrite_wf hs _ _ _ _ _)

theorem engineStep_form (cid : CtxId) (q : Nat) : keepsForm (engineStep cid q s) := by
  have hstay : keepsForm (.next s) := keepsForm_next.2 hs
  unfold engineStep
  split
  · exact hstay
  · split
    · exact hstay
    · split
      · exact State.takeSample_form hs _ _ _ _ _ _ _
      · split
        · exact hstay
        · split
          · exact State.engineCopy_form hs (by simp) (by simp)
          · split
            · exact hstay
            · split
              · exact State.matrixStep_form hs _ _ _
              · exact State.copierStep_form hs _ _ _
          · simpa using hs
          · exact hstay

end

end Sys2Proof.Machine
end

section
/-!
Every event, instruction and step keeps memory in its canonical form (R82, R87).
-/
namespace Sys2Proof.Machine
open Sys2Proof.Claims

/-! ### Events that leave memory -/

theorem State.visit_mem (s : State) (r : Region) (k : Nat) : (s.visit r k).2.2.mem = s.mem := by
  unfold State.visit
  split <;> simp

theorem State.startReads_keepsMem (s : State) (b : Binding) (r : Registration) (c : Ctx) (rank n : Nat) :
    keepsMem s.mem (s.startReads b r c rank n) := by
  unfold State.startReads
  dsimp only
  (repeat' split) <;> simp

theorem execEvAfcalComplete_keepsMem (c : CtxId) (s : State) : keepsMem s.mem (execEvAfcalComplete c s) := by
  unfold execEvAfcalComplete
  (repeat' split) <;> simp

theorem execEvFabricSaturation_keepsMem (c : CtxId) (n : Nat) (s : State) :
    keepsMem s.mem (execEvFabricSaturation c n s) := by
  unfold execEvFabricSaturation
  dsimp only
  (repeat' split) <;> simp

theorem execEvFabricSettleDone_keepsMem (c : CtxId) (s : State) : keepsMem s.mem (execEvFabricSettleDone c s) := by
  unfold execEvFabricSettleDone
  (repeat' split) <;> simp

theorem execEvFabricSettleTimeout_keepsMem (c : CtxId) (s : State) : keepsMem s.mem (execEvFabricSettleTimeout c s) := by
  unfold execEvFabricSettleTimeout
  (repeat' split) <;> simp

theorem execEvArrival_keepsMem (src : Source) (h : Home) (s : State) : keepsMem s.mem (execEvArrival src h s) := by
  unfold execEvArrival
  dsimp only
  (repeat' split) <;> simp

theorem execEvMailboxDeliver_keepsMem (cid : CtxId) (n : Nat) (s : State) :
    keepsMem s.mem (execEvMailboxDeliver cid n s) := by
  unfold execEvMailboxDeliver
  dsimp only
  (repeat' split) <;> simp

theorem execEvReplyDelivery_keepsMem (n : Nat) (s : State) : keepsMem s.mem (execEvReplyDelivery n s) := by
  unfold execEvReplyDelivery
  dsimp only
  (repeat' split) <;> simp

theorem execEvWakeDelivery_keepsMem (n : Nat) (s : State) : keepsMem s.mem (execEvWakeDelivery n s) := by
  unfold execEvWakeDelivery
  dsimp only
  (repeat' split) <;> simp

theorem execEvWaitTimeout_keepsMem (cid : CtxId) (s : State) : keepsMem s.mem (execEvWaitTimeout cid s) := by
  unfold execEvWaitTimeout
  (repeat' split) <;> simp

theorem execEvHostInboundWrite_keepsMem (ep addr : Nat) (data : List Byte) (s : State) :
    keepsMem s.mem (execEvHostInboundWrite ep addr data s) := by
  unfold execEvHostInboundWrite
  dsimp only
  (repeat' split) <;> simp

theorem execEvHostInboundRead_keepsMem (ep addr len : Nat) (s : State) :
    keepsMem s.mem (execEvHostInboundRead ep addr len s) := by
  unfold execEvHostInboundRead
  dsimp only
  (repeat' split) <;> simp

theorem execEvHostFlushRead_keepsMem (ep : Nat) (cid : CtxId) (s : State) :
    keepsMem s.mem (execEvHostFlushRead ep cid s) := by
  unfold execEvHostFlushRead
  dsimp only
  (repeat' split) <;> simp

theorem execEvCellComplete_keepsMem (cid : CtxId) (s : State) : keepsMem s.mem (execEvCellComplete cid s) := by
  unfold execEvCellComplete
  dsimp only
  (repeat' split) <;> simp

theorem execEvChildLaunch_keepsMem (rid : RegionId) (cells : List CellId) (s : State) :
    keepsMem s.mem (execEvChildLaunch rid cells s) := by
  unfold execEvChildLaunch
  dsimp only
  (repeat' split) <;> simp

theorem execEvExchangeTransfer_keepsMem (rid : RegionId) (s : State) : keepsMem s.mem (execEvExchangeTransfer rid s) := by
  unfold execEvExchangeTransfer
  dsimp only
  (repeat' split) <;> simp

theorem execEvRoundTimerExpiry_keepsMem (cid : CtxId) (s : State) : keepsMem s.mem (execEvRoundTimerExpiry cid s) := by
  unfold execEvRoundTimerExpiry
  (repeat' split) <;> simp

theorem execEvRoundMarkerArrival_keepsMem (cid : CtxId) (src : Nat) (s : State) :
    keepsMem s.mem (execEvRoundMarkerArrival cid src s) := by
  unfold execEvRoundMarkerArrival
  dsimp only
  (repeat' split) <;> simp [State.enterRound_mem]

theorem execEvTokenPass_keepsMem (rid : RegionId) (s : State) : keepsMem s.mem (execEvTokenPass rid s) := by
  unfold execEvTokenPass
  dsimp only
  (repeat' split) <;> simp [State.visit_mem]

theorem execEvContextTimeslice_keepsMem (i : CellId) (s : State) : keepsMem s.mem (execEvContextTimeslice i s) := by
  unfold execEvContextTimeslice
  dsimp only
  (repeat' split) <;> simp

theorem execEvMintArrival_keepsMem (n : Nat) (s : State) : keepsMem s.mem (execEvMintArrival n s) := by
  have hstop : ∀ (u : State) (cs : List Ctx), (cs.foldl State.stopCtx u).mem = u.mem := fun u cs =>
    foldl_keeps (proj := State.mem) State.stopCtx_mem cs u
  unfold execEvMintArrival
  dsimp only
  (repeat' split) <;> simp [hstop]

theorem execEvCellError_keepsMem (cid : CtxId) (s : State) : keepsMem s.mem (execEvCellError cid s) := by
  unfold execEvCellError
  dsimp only
  (repeat' split) <;> simp

theorem execEvFaultRecordPost_keepsMem (cid : CtxId) (s : State) : keepsMem s.mem (execEvFaultRecordPost cid s) := by
  unfold execEvFaultRecordPost
  dsimp only
  split
  · simp
  · split
    · simp
    · split
      · simp
      · split
        · simp
        · next hpost => split <;> simp [State.postRecord_mem hpost]

theorem execEvFqtailWrite_keepsMem (k : CombId) (trans : Bool) (v : Word) (s : State) :
    keepsMem s.mem (execEvFqtailWrite k trans v s) := by
  unfold execEvFqtailWrite
  simp

theorem execEvFpWindowClose_keepsMem (rid : RegionId) (s : State) : keepsMem s.mem (execEvFpWindowClose rid s) := by
  have hlog : ∀ (u : State) (xs : List FpEvent), (xs.foldl (fun s x => State.logFp s rid x) u).mem = u.mem := fun u xs =>
    foldl_keeps (proj := State.mem) (fun s x => s.logFp_mem rid x) xs u
  unfold execEvFpWindowClose
  dsimp only
  (repeat' split) <;> simp [hlog]

theorem execEvFaultDomainEnd_keepsMem (dom : Nat) (s : State) : keepsMem s.mem (execEvFaultDomainEnd dom s) := by
  unfold execEvFaultDomainEnd
  (repeat' split) <;> simp

theorem execEvContendRegister_keepsMem (cid : CtxId) (s : State) : keepsMem s.mem (execEvContendRegister cid s) := by
  unfold execEvContendRegister
  dsimp only
  (repeat' split) <;> simp

theorem execEvWaggleContest_keepsMem (l : Nat) (s : State) : keepsMem s.mem (execEvWaggleContest l s) := by
  unfold execEvWaggleContest
  dsimp only
  (repeat' split) <;> simp

theorem execEvContestResult_keepsMem (l : Nat) (s : State) : keepsMem s.mem (execEvContestResult l s) := by
  have hgrant : ∀ (u : State) (xs : List Cand), (xs.foldl (fun s x => State.grantClaim s x) u).mem = u.mem := fun u xs =>
    foldl_keeps (proj := State.mem) (fun s x => s.grantClaim_mem x) xs u
  have hdone : ∀ (u : State) (r : ContestResult) (xs : List Cand),
      (xs.foldl (fun s x => State.contestDone s r x) u).mem = u.mem := fun u r xs =>
    foldl_keeps (proj := State.mem) (fun s x => s.contestDone_mem r x) xs u
  unfold execEvContestResult
  dsimp only
  (repeat' split) <;> simp [hgrant, hdone]

theorem execEvSequencerBind_keepsMem (gid : Nat) (s : State) : keepsMem s.mem (execEvSequencerBind gid s) := by
  unfold execEvSequencerBind
  dsimp only
  (repeat' split) <;> simp

theorem execEvBindingReceive_keepsMem (num rank : Nat) (s : State) : keepsMem s.mem (execEvBindingReceive num rank s) := by
  unfold execEvBindingReceive
  dsimp only
  (repeat' split) <;> simp

theorem execEvRegistrationRetry_keepsMem (cid : CtxId) (s : State) : keepsMem s.mem (execEvRegistrationRetry cid s) := by
  unfold execEvRegistrationRetry
  dsimp only
  simp

theorem execEvCollectiveStart_keepsMem (num rank : Nat) (s : State) :
    keepsMem s.mem (execEvCollectiveStart num rank s) := by
  unfold execEvCollectiveStart
  (repeat' split) <;> simp [State.startReads_keepsMem]

theorem execEvContributionArrival_keepsMem (num rank : Nat) (s : State) :
    keepsMem s.mem (execEvContributionArrival num rank s) := by
  unfold execEvContributionArrival
  dsimp only
  (repeat' split) <;> simp

theorem execEvTgTimeout_keepsMem (num : Nat) (s : State) : keepsMem s.mem (execEvTgTimeout num s) := by
  unfold execEvTgTimeout
  dsimp only
  (repeat' split) <;> simp

theorem execEvCancelRecord_keepsMem (num rank : Nat) (s : State) : keepsMem s.mem (execEvCancelRecord num rank s) := by
  unfold execEvCancelRecord
  dsimp only
  (repeat' split) <;> simp

theorem execEvSwitchFailure_keepsMem (num bitmap : Nat) (s : State) :
    keepsMem s.mem (execEvSwitchFailure num bitmap s) := by
  unfold execEvSwitchFailure
  (repeat' split) <;> simp

theorem execEvSequencerHeartbeat_keepsMem (s : State) : keepsMem s.mem (execEvSequencerHeartbeat s) := by
  unfold execEvSequencerHeartbeat
  dsimp only
  (repeat' split) <;> simp

theorem execEvSequencerFailover_keepsMem (n : Nat) (s : State) : keepsMem s.mem (execEvSequencerFailover n s) := by
  unfold execEvSequencerFailover
  dsimp only
  split
  · simp
  · exact keepsMem_next.2 rfl

theorem execEvStandbyReplacement_keepsMem (n : Nat) (s : State) : keepsMem s.mem (execEvStandbyReplacement n s) := by
  unfold execEvStandbyReplacement
  dsimp only
  (repeat' split) <;> simp

theorem execEvGroupCreate_keepsMem (d : GroupDef) (s : State) : keepsMem s.mem (execEvGroupCreate d s) := by
  unfold execEvGroupCreate
  dsimp only
  (repeat' split) <;> simp

theorem execEvQueueDoorbell_keepsMem (q tail : Nat) (s : State) : keepsMem s.mem (execEvQueueDoorbell q tail s) := by
  unfold execEvQueueDoorbell
  dsimp only
  (repeat' split) <;> simp

theorem execEvQueueLaunch_keepsMem (q : Nat) (s : State) : keepsMem s.mem (execEvQueueLaunch q s) := by
  unfold execEvQueueLaunch
  (repeat' split) <;> simp

theorem execEvQueueFence_keepsMem (q : Nat) (s : State) : keepsMem s.mem (execEvQueueFence q s) := by
  unfold execEvQueueFence
  (repeat' split) <;> simp

theorem execEvQueueFenceComplete_keepsMem (q : Nat) (s : State) : keepsMem s.mem (execEvQueueFenceComplete q s) := by
  unfold execEvQueueFenceComplete
  (repeat' split) <;> simp

theorem execEvQueueCancel_keepsMem (q : Nat) (s : State) : keepsMem s.mem (execEvQueueCancel q s) := by
  have hcancel : ∀ (u : State) (es : List QEntry),
      (es.foldl (fun (s : State) e => (s.unhold e.seq).completeEntry e .cancelled) u).mem = u.mem := fun u es =>
    foldl_keeps (proj := State.mem) (fun s e => by simp) es u
  unfold execEvQueueCancel
  dsimp only
  split <;> simp [hcancel]

theorem execEvLaunchSelect_keepsMem (frame : Nat) (cells : List CellId) (s : State) :
    keepsMem s.mem (execEvLaunchSelect frame cells s) := by
  unfold execEvLaunchSelect
  dsimp only
  (repeat' split) <;> simp

theorem execEvQueueEnable_keepsMem (q : Nat) (en : Bool) (size : Nat) (s : State) :
    keepsMem s.mem (execEvQueueEnable q en size s) := by
  unfold execEvQueueEnable
  dsimp only
  (repeat' split) <;> simp

theorem execEvRegisterWrite_keepsMem (addr : Nat) (v : Word) (s : State) :
    keepsMem s.mem (execEvRegisterWrite addr v s) := by
  unfold execEvRegisterWrite
  dsimp only
  (repeat' split) <;> simp

theorem execEvLinkRetry_keepsMem (l : Nat) (s : State) : keepsMem s.mem (execEvLinkRetry l s) := by
  unfold execEvLinkRetry
  simp

theorem execEvLinkFail_keepsMem (l : Nat) (s : State) : keepsMem s.mem (execEvLinkFail l s) := by
  unfold execEvLinkFail
  dsimp only
  (repeat' split) <;> simp

theorem execEvLinkRateChange_keepsMem (l width rate : Nat) (s : State) :
    keepsMem s.mem (execEvLinkRateChange l width rate s) := by
  unfold execEvLinkRateChange
  dsimp only
  (repeat' split) <;> simp

theorem execEvFrequencyStep_keepsMem (frame mhz : Nat) (s : State) : keepsMem s.mem (execEvFrequencyStep frame mhz s) := by
  unfold execEvFrequencyStep
  (repeat' split) <;> simp

theorem execEvRelockRestart_keepsMem (frame : Nat) (s : State) : keepsMem s.mem (execEvRelockRestart frame s) := by
  unfold execEvRelockRestart
  dsimp only
  (repeat' split) <;> simp

theorem execEvBudgetInterval_keepsMem (inp : BudgetInput) (s : State) : keepsMem s.mem (execEvBudgetInterval inp s) := by
  have hframe : ∀ xs : List (Nat × ℚ), (xs.foldl (State.frameInterval inp) s).mem = s.mem := fun xs =>
    foldl_keeps (proj := State.mem) (fun s x => s.frameInterval_mem inp x) xs s
  unfold execEvBudgetInterval
  dsimp only
  split <;> simp [hframe]

theorem execEvSnapshotTrigger_keepsMem (s : State) : keepsMem s.mem (execEvSnapshotTrigger s) := by
  unfold execEvSnapshotTrigger
  dsimp only
  (repeat' split) <;> simp

theorem execEvSnapshotRelease_keepsMem (s : State) : keepsMem s.mem (execEvSnapshotRelease s) := by
  unfold execEvSnapshotRelease
  dsimp only
  simp

theorem execEvMeterList_keepsMem (s : State) : keepsMem s.mem (execEvMeterList s) := by
  unfold execEvMeterList
  dsimp only
  simp

theorem execEvMeterRead_keepsMem (cid : CtxId) (s : State) : keepsMem s.mem (execEvMeterRead cid s) := by
  unfold execEvMeterRead
  dsimp only
  (repeat' split) <;> simp

theorem execEvPatrolScrub_keepsMem (frame sector : Nat) (res : ScrubResult) (s : State) :
    keepsMem s.mem (execEvPatrolScrub frame sector res s) := by
  unfold execEvPatrolScrub
  (repeat' split) <;> simp

theorem execEvGetVersion_keepsMem (s : State) : keepsMem s.mem (execEvGetVersion s) := by
  unfold execEvGetVersion
  dsimp only
  simp

theorem execEvGetCapabilities_keepsMem (s : State) : keepsMem s.mem (execEvGetCapabilities s) := by
  unfold execEvGetCapabilities
  dsimp only
  (repeat' split) <;> simp

theorem execEvNegotiateAlgorithms_keepsMem (ed sha : Bool) (s : State) :
    keepsMem s.mem (execEvNegotiateAlgorithms ed sha s) := by
  unfold execEvNegotiateAlgorithms
  dsimp only
  (repeat' split) <;> simp

theorem execEvGetDigests_keepsMem (s : State) : keepsMem s.mem (execEvGetDigests s) := by
  unfold execEvGetDigests
  (repeat' split) <;> simp

theorem execEvGetCertificate_keepsMem (slot : Nat) (s : State) : keepsMem s.mem (execEvGetCertificate slot s) := by
  unfold execEvGetCertificate
  (repeat' split) <;> simp

theorem execEvChallenge_keepsMem (nonce : Nat) (s : State) : keepsMem s.mem (execEvChallenge nonce s) := by
  unfold execEvChallenge
  (repeat' split) <;> simp

theorem execEvGetMeasurements_keepsMem (index : Nat) (s : State) : keepsMem s.mem (execEvGetMeasurements index s) := by
  unfold execEvGetMeasurements
  dsimp only
  (repeat' split) <;> simp

theorem execEvExportRevocation_keepsMem (frame index : Nat) (s : State) :
    keepsMem s.mem (execEvExportRevocation frame index s) := by
  unfold execEvExportRevocation
  dsimp only
  simp

/-! ### Homes -/

section
variable {s t : State}

theorem State.loadAt_mem (s : State) (f : Flight) (len : Nat) (b : List (Option Byte)) : (s.loadAt f len b).2.mem = s.mem := by
  unfold State.loadAt State.readAt
  dsimp only
  (repeat' split) <;> simp

theorem State.spillMail_mem {c : Ctx} {m : Mail} (h : s.spillMail c m = some t) : t.mem = s.mem := by
  unfold State.spillMail at h
  split at h
  · simp [← Option.some.inj h]
  · exact nomatch h

theorem State.performMail_mem {d : CtxId} {m : Mail} (h : s.performMail d m = some t) : t.mem = s.mem := by
  have hspill : ∀ c, (s.recordCut d m).spillMail c m = some t → t.mem = s.mem := fun c hc => by
    rw [State.spillMail_mem hc, State.recordCut_mem]
  unfold State.performMail at h
  dsimp only at h
  split at h
  · simp [← Option.some.inj h]
  split at h
  · simp [← Option.some.inj h]
  split at h
  · split at h <;> simp [← Option.some.inj h]
  split at h
  · exact hspill _ h
  split at h
  · simp [← Option.some.inj h]
  · exact hspill _ h

theorem State.perform_mem {f : Flight} (h : s.perform f = some t) : t.mem = s.mem := by
  unfold State.perform at h
  dsimp only at h
  split at h
  · simp [← Option.some.inj h]
  split at h
  case h_5 =>
    split at h
    · exact nomatch h
    · split at h <;> simp [← Option.some.inj h, State.readAt]
  case h_6 => split at h <;> simp [← Option.some.inj h]
  case h_8 => split at h <;> simp [← Option.some.inj h]
  case h_9 =>
    split at h
    · exact nomatch h
    · obtain ⟨u, hu, rfl⟩ := Option.map_eq_some_iff.1 h
      simp [State.performMail_mem hu]
  all_goals simp [← Option.some.inj h, State.loadAt_mem, State.readAt]

theorem State.tryPerform_mem {h : Home} {i : Nat} (ht : s.tryPerform h i = some t) : t.mem = s.mem := by
  unfold State.tryPerform at ht
  split at ht
  · exact nomatch ht
  · split at ht
    · exact nomatch ht
    · rw [State.perform_mem ht]

theorem State.trySecond_mem {h : Home} {i : Nat} (ht : s.trySecond h i = some t) : t.mem = s.mem := by
  unfold State.trySecond at ht
  dsimp only at ht
  split at ht
  · exact nomatch ht
  split at ht
  · exact nomatch ht
  split at ht
  · split at ht <;> simp [← Option.some.inj ht, State.readAt]
  · exact nomatch ht

theorem State.beginEntry_mem {c : Ctx} {q : Nat} {e : Entry} (h : s.beginEntry c q e = some t) : t.mem = s.mem := by
  unfold State.beginEntry at h
  split at h
  · split at h
    · simp [← Option.some.inj h]
    · exact nomatch h
  · split at h
    · simp [← Option.some.inj h]
    · exact nomatch h
  · exact nomatch h
  · split at h
    · simp [← Option.some.inj h]
    · exact nomatch h

end

/-- The first message of a home that can be taken: nothing else of the memory than what taking it leaves. -/
theorem firstTaken_keepsMem {s : State} {try_ : Nat → Option State} (htry : ∀ i t, try_ i = some t → t.mem = s.mem)
    (stopped : Bool) (n : Nat) : keepsMem s.mem
      (match if stopped then none else (List.range n).findSome? try_ with
        | none => .next s
        | some s => .next s) := by
  split
  · simp
  · next t ht =>
    split at ht
    · exact nomatch ht
    · obtain ⟨i, -, hi⟩ := List.exists_of_findSome?_eq_some ht
      exact keepsMem_next.2 (htry i t hi)

theorem execEvPerform_keepsMem (h : Home) (s : State) : keepsMem s.mem (execEvPerform h s) :=
  firstTaken_keepsMem (fun _ _ ht => State.tryPerform_mem ht) (s.homeStopped h) _

theorem execEvPairSecondHome_keepsMem (h : Home) (s : State) : keepsMem s.mem (execEvPairSecondHome h s) :=
  firstTaken_keepsMem (fun _ _ ht => State.trySecond_mem ht) (s.homeStopped h) _

theorem execEvEngineEntryBegin_keepsMem (cid : CtxId) (q : Nat) (s : State) :
    keepsMem s.mem (execEvEngineEntryBegin cid q s) := by
  unfold execEvEngineEntryBegin
  split
  · simp
  split
  · simp
  split
  · simp
  split
  · simp
  · next hb => simp [State.beginEntry_mem hb]

/-! ### Events that change memory -/

section
variable {s : State} (hs : s.mem.wf = true)
include hs

theorem execEvIssue_form (cid : CtxId) : keepsForm (execEvIssue cid s) := by
  have hstay : keepsForm (.next s) := keepsForm_next.2 hs
  unfold execEvIssue
  dsimp only
  split
  · exact hstay
  split
  · exact hstay
  split
  · exact hstay
  split
  · simpa using hs
  · split
    · exact hstay
    · next hd => simpa using State.dirtyOp_wf hs hd

theorem execEvWcbFlush_form (cid : CtxId) (line : Nat) : keepsForm (execEvWcbFlush cid line s) := by
  have hstay : keepsForm (.next s) := keepsForm_next.2 hs
  unfold execEvWcbFlush
  dsimp only
  split
  · exact hstay
  split
  · exact hstay
  split
  · exact hstay
  · next hd =>
    split at hd
    · exact nomatch hd
    · simpa using State.dirty_wf hs hd

theorem execEvApply_form (h : Home) : keepsForm (execEvApply h s) := by
  unfold execEvApply
  split
  · exact keepsForm_next.2 hs
  · next e _ => exact keepsForm_next.2 (WEntry.wf_apply hs e.2)

theorem execEvHandleResolve_form (cid : CtxId) (q : Nat) : keepsForm (execEvHandleResolve cid q s) := by
  have hstay : keepsForm (.next s) := keepsForm_next.2 hs
  unfold execEvHandleResolve
  dsimp only
  split
  · exact hstay
  split
  · simpa using hs
  · split
    · exact hstay
    · split
      · exact hstay
      · next hr =>
        obtain ⟨r, -, hr⟩ := List.exists_of_findSome?_eq_some hr
        simpa using State.resolveColl_wf hs hr

theorem execEvPackageReset_form (up : BringUp) : keepsForm (execEvPackageReset up s) := by
  unfold execEvPackageReset
  dsimp only
  rw [keepsForm_next]
  have hreset := wf_throughWq hs s.net.wq
  split
  · exact Memory.wf_withImages hreset
  · exact hreset

end

/-! ### Instructions of a family -/

theorem vbin_keepsMem (f : Ty → Nat → Nat → Int) (h : Hdr) (o : VBin) (s : State) :
    keepsMem s.mem (vbin f h o s) := by simp [vbin]

theorem vun_keepsMem (f : Ty → Nat → Int) (h : Hdr) (o : VUn) (s : State) :
    keepsMem s.mem (vun f h o s) := by simp [vun]

theorem vsat_keepsMem (f : Ty → Nat → Nat → Int) (h : Hdr) (o : VBin) (s : State) :
    keepsMem s.mem (vsat f h o s) := by simp [vsat]

theorem vsign_keepsMem (f : FFmt → Nat → Nat) (h : Hdr) (o : VFUn) (s : State) :
    keepsMem s.mem (vsign f h o s) := by simp [vsign]

theorem vfun_keepsMem (f : FFmt → RMode → Nat → FRes) (h : Hdr) (o : VFUn) (s : State) :
    keepsMem s.mem (vfun f h o s) := by simp [vfun]

theorem vest_keepsMem (f : Fn) (h : Hdr) (o : VFUn) (s : State) :
    keepsMem s.mem (vest f h o s) := by
  unfold vest
  dsimp only
  split <;> simp

theorem vffma_keepsMem (negP negC : Bool) (h : Hdr) (o : VFTri) (s : State) :
    keepsMem s.mem (vffma negP negC h o s) := by simp [vffma]

theorem vfbin_keepsMem (f : FFmt → RMode → FVal → FVal → Raw) (lat : Nat) (h : Hdr) (o : VFBin) (s : State) :
    keepsMem s.mem (vfbin f lat h o s) := by simp [vfbin]

theorem vfminmax_keepsMem (isMax : Bool) (h : Hdr) (o : VFBin) (s : State) :
    keepsMem s.mem (vfminmax isMax h o s) := by simp [vfminmax]

theorem vrminmax_keepsMem (isMax : Bool) (h : Hdr) (o : VRed) (s : State) :
    keepsMem s.mem (vrminmax isMax h o s) := by simp [vrminmax]

theorem fbin_keepsMem (f : FFmt → RMode → FVal → FVal → Raw) (lat : Nat) (h : Hdr) (o : FBin) (s : State) :
    keepsMem s.mem (fbin f lat h o s) := by simp [fbin]

theorem fmm_keepsMem (isMax : Bool) (h : Hdr) (o : FBin) (s : State) :
    keepsMem s.mem (fmm isMax h o s) := by simp [fmm]

theorem fsign_keepsMem (f : FFmt → Nat → Nat) (h : Hdr) (o : FUn) (s : State) :
    keepsMem s.mem (fsign f h o s) := by simp [fsign]

theorem ffused_keepsMem (negP negC : Bool) (h : Hdr) (o : FTri) (s : State) :
    keepsMem s.mem (ffused negP negC h o s) := by simp [ffused]

theorem funary_keepsMem (f : FFmt → RMode → Nat → FRes) (h : Hdr) (o : FUn) (s : State) :
    keepsMem s.mem (funary f h o s) := by simp [funary]

theorem fcmpInto_keepsMem (r : Rel) (h : Hdr) (o : FCmp) (s : State) :
    keepsMem s.mem (fcmpInto r h o s) := by simp [fcmpInto]

theorem vcmp_keepsMem (r : Rel) (h : Hdr) (o : VCmp) (s : State) :
    keepsMem s.mem (vcmp r h o s) := by simp [vcmp]

theorem vbfpe_keepsMem (hi : Bool) (o : Vbfpe) (s : State) :
    keepsMem s.mem (vbfpe hi o s) := by simp [vbfpe]

theorem execBr_keepsMem (h : Hdr) (o : BRel) (s : State) : keepsMem s.mem (execBr h o s) := by
  simp [execBr]

theorem execBz_keepsMem (h : Hdr) (o : BCond) (s : State) : keepsMem s.mem (execBz h o s) := by
  simp [execBz]

theorem execBnz_keepsMem (h : Hdr) (o : BCond) (s : State) : keepsMem s.mem (execBnz h o s) := by
  simp [execBnz]

theorem execBlz_keepsMem (h : Hdr) (o : BCond) (s : State) : keepsMem s.mem (execBlz h o s) := by
  simp [execBlz]

theorem execBgez_keepsMem (h : Hdr) (o : BCond) (s : State) : keepsMem s.mem (execBgez h o s) := by
  simp [execBgez]

theorem execJr_keepsMem (h : Hdr) (o : BReg) (s : State) : keepsMem s.mem (execJr h o s) := by
  simp [execJr]

theorem execRet_keepsMem (h : Hdr) (s : State) : keepsMem s.mem (execRet h s) := by
  simp [execRet]

theorem execSrwr_keepsMem (h : Hdr) (o : SrWr) (s : State) : keepsMem s.mem (execSrwr h o s) := by
  simp [execSrwr]

theorem execSrwri_keepsMem (h : Hdr) (o : SrWrI) (s : State) : keepsMem s.mem (execSrwri h o s) := by
  simp [execSrwri]

theorem execVmad_keepsMem (h : Hdr) (o : VTri) (s : State) : keepsMem s.mem (execVmad h o s) := by
  simp [execVmad]

theorem execVsel_keepsMem (h : Hdr) (o : VSel) (s : State) : keepsMem s.mem (execVsel h o s) := by
  simp [execVsel]

theorem execVbcsti_keepsMem (h : Hdr) (o : VBcstI) (s : State) : keepsMem s.mem (execVbcsti h o s) := by
  simp [execVbcsti]

theorem execVbcst_keepsMem (h : Hdr) (o : VBcst) (s : State) : keepsMem s.mem (execVbcst h o s) := by
  simp [execVbcst]

theorem execVbfpd_keepsMem (h : Hdr) (o : Vbfpd) (s : State) : keepsMem s.mem (execVbfpd h o s) := by
  simp [execVbfpd]

theorem execVperm2_keepsMem (h : Hdr) (o : VTri) (s : State) : keepsMem s.mem (execVperm2 h o s) := by
  simp [execVperm2]

theorem execVslide_keepsMem (h : Hdr) (o : VSlide) (s : State) : keepsMem s.mem (execVslide h o s) := by
  simp [execVslide]

theorem execVrng_keepsMem (h : Hdr) (o : VRngOp) (s : State) : keepsMem s.mem (execVrng h o s) := by
  simp [execVrng]

theorem execVmov_keepsMem (h : Hdr) (o : VUn) (s : State) : keepsMem s.mem (execVmov h o s) := by
  simp [execVmov]

theorem execVrand_keepsMem (h : Hdr) (o : VRed) (s : State) : keepsMem s.mem (execVrand h o s) := by
  simp [execVrand]

theorem execVror_keepsMem (h : Hdr) (o : VRed) (s : State) : keepsMem s.mem (execVror h o s) := by
  simp [execVror]

theorem execFcvt_keepsMem (h : Hdr) (o : FCvt) (s : State) : keepsMem s.mem (execFcvt h o s) := by
  simp [execFcvt]

theorem execVperm_keepsMem (h : Hdr) (o : VBin) (s : State) : keepsMem s.mem (execVperm h o s) := by
  simp [execVperm, vperm]

theorem execVzipl_keepsMem (h : Hdr) (o : VBin) (s : State) : keepsMem s.mem (execVzipl h o s) := by
  simp [execVzipl, vperm]

theorem execVziph_keepsMem (h : Hdr) (o : VBin) (s : State) : keepsMem s.mem (execVziph h o s) := by
  simp [execVziph, vperm]

theorem execVuzpe_keepsMem (h : Hdr) (o : VBin) (s : State) : keepsMem s.mem (execVuzpe h o s) := by
  simp [execVuzpe, vperm]

theorem execVuzpo_keepsMem (h : Hdr) (o : VBin) (s : State) : keepsMem s.mem (execVuzpo h o s) := by
  simp [execVuzpo, vperm]

theorem pairWords_keepsMem (op : RmwOp) (dcas : Bool) (h : Hdr) (o : Amo2) (s : State) :
    keepsMem s.mem (pairWords op dcas h o s) := by
  unfold pairWords
  exact pairOp_keepsMem h _ _ _ _ _ _ _ s

theorem execAmove_keepsMem (h : Hdr) (o : Amove) (s : State) : keepsMem s.mem (execAmove h o s) := by
  unfold execAmove
  exact pairOp_keepsMem h _ _ _ _ _ _ _ s

/-! ### Every instruction and event -/

theorem exec_form {s : State} (hs : s.mem.wf = true) (i : Instr) : keepsForm (exec i s) := by
  cases i with
  | add h o | sub h o | and h o | or h o | xor h o | andn h o | orn h o | xnor h o | shl h o | shr h o | sar h o
  | rol h o | ror h o | mul h o | mulh h o | div h o | rem h o | bext h o | min h o | max h o | neg h o | abs h o
  | not h o | popc h o | clz h o | ctz h o | brev h o | bswap h o | adds h o | subs h o | add3 h o | mad h o
  | selz h o | bins h o | clamp h o | lea h o | ceq h o | cne h o | clt h o | cle h o | cgt h o | cge h o | ctst h o
  | ctstz h o | sel h o | lcell h o | lslice h o | mnot h o | mfromg h o | vbfpx h o | rng h o | vins h o | vext h o
  | addImm h o | subImm h o | rsub h o | andImm h o | orImm h o | xorImm h o | andnImm h o | ornImm h o | xnorImm h o
  | shlImm h o | shrImm h o | sarImm h o | rolImm h o | rorImm h o | leai h o | addsImm h o | subsImm h o | ceqImm h o
  | cneImm h o | cltImm h o | cleImm h o | cgtImm h o | cgeImm h o | ctstImm h o | ctstzImm h o | movi h o | movzi h o
  | movhi h o | leapc h o | mand h o | mor h o | mxor h o | mandn h o | mpopc h o | mfirst h o | mtog h o =>
    exact (whole_keepsMem s h _).form hs
  | br h o => exact (execBr_keepsMem h o s).form hs
  | bz h o => exact (execBz_keepsMem h o s).form hs
  | bnz h o => exact (execBnz_keepsMem h o s).form hs
  | blz h o => exact (execBlz_keepsMem h o s).form hs
  | bgez h o => exact (execBgez_keepsMem h o s).form hs
  | jr h o => exact (execJr_keepsMem h o s).form hs
  | ret h => exact (execRet_keepsMem h s).form hs
  | srwr h o => exact (execSrwr_keepsMem h o s).form hs
  | srwri h o => exact (execSrwri_keepsMem h o s).form hs
  | vaddInt h o | vsubInt h o | vmulInt h o | vmulh h o | vminInt h o | vmaxInt h o | vand h o | vor h o | vxor h o
  | vandn h o | vshl h o | vshr h o | vsar h o => exact (vbin_keepsMem _ h o s).form hs
  | vnegInt h o | vabsInt h o | vnot h o => exact (vun_keepsMem _ h o s).form hs
  | vadds h o | vsubs h o => exact (vsat_keepsMem _ h o s).form hs
  | vmad h o => exact (execVmad_keepsMem h o s).form hs
  | vsel h o => exact (execVsel_keepsMem h o s).form hs
  | vbcsti h o => exact (execVbcsti_keepsMem h o s).form hs
  | vbcst h o => exact (execVbcst_keepsMem h o s).form hs
  | vbfpd h o => exact (execVbfpd_keepsMem h o s).form hs
  | vperm2 h o => exact (execVperm2_keepsMem h o s).form hs
  | vslide h o => exact (execVslide_keepsMem h o s).form hs
  | vrng h o => exact (execVrng_keepsMem h o s).form hs
  | vmov h o => exact (execVmov_keepsMem h o s).form hs
  | vceq h o | vcne h o | vclt h o | vcle h o | vcgt h o | vcge h o => exact (vcmp_keepsMem _ h o s).form hs
  | vaddFp h o | vsubFp h o | vmulFp h o | vdiv h o => exact (vfbin_keepsMem _ _ h o s).form hs
  | vminFp h o | vmaxFp h o => exact (vfminmax_keepsMem _ h o s).form hs
  | vabsFp h o | vnegFp h o => exact (vsign_keepsMem _ h o s).form hs
  | vfma h o | vfms h o | vfnma h o | vfnms h o => exact (vffma_keepsMem _ _ h o s).form hs
  | vsqrt h o | vexp h o | vlog h o | vexp2 h o | vlog2 h o | vtanh h o => exact (vfun_keepsMem _ h o s).form hs
  | vrcpe h o | vrsqrte h o | vexpe h o | vloge h o | vtanhe h o | vsigme h o => exact (vest_keepsMem _ h o s).form hs
  | vbfpe h o | vbfpeHi h o => exact (vbfpe_keepsMem _ o s).form hs
  | vperm h o => exact (execVperm_keepsMem h o s).form hs
  | vzipl h o => exact (execVzipl_keepsMem h o s).form hs
  | vziph h o => exact (execVziph_keepsMem h o s).form hs
  | vuzpe h o => exact (execVuzpe_keepsMem h o s).form hs
  | vuzpo h o => exact (execVuzpo_keepsMem h o s).form hs
  | vrmin h o | vrmax h o => exact (vrminmax_keepsMem _ h o s).form hs
  | vrand h o => exact (execVrand_keepsMem h o s).form hs
  | vror h o => exact (execVror_keepsMem h o s).form hs
  | fadd h o | fsub h o | fmul h o | fdiv h o => exact (fbin_keepsMem _ _ h o s).form hs
  | fmin h o | fmax h o => exact (fmm_keepsMem _ h o s).form hs
  | fabs h o | fneg h o => exact (fsign_keepsMem _ h o s).form hs
  | ffma h o | ffms h o | ffnma h o | ffnms h o => exact (ffused_keepsMem _ _ h o s).form hs
  | fsqrt h o | fexp h o | flog h o | fexp2 h o | flog2 h o => exact (funary_keepsMem _ h o s).form hs
  | fceq h o | fcne h o | fclt h o | fcle h o | fcgt h o | fcge h o => exact (fcmpInto_keepsMem _ h o s).form hs
  | fcvt h o => exact (execFcvt_keepsMem h o s).form hs
  | mzero h o => exact (inlineMat_keepsMem (f := matZero o) (fun _ _ => rfl) h s).form hs
  | mrdrow h o => exact (inlineMat_keepsMem (f := matRdRow o) (fun _ _ => rfl) h s).form hs
  | mwrrow h o => exact (inlineMat_keepsMem (f := matWrRow o) (fun _ _ => rfl) h s).form hs
  | mmov h o => exact (inlineMat_keepsMem (f := matMov o) (fun _ _ => rfl) h s).form hs
  | masel h o => exact (inlineMat_keepsMem (f := matSelA o) (fun _ _ => rfl) h s).form hs
  | masx h o => exact (inlineMat_keepsMem (f := matSelX o) (fun _ _ => rfl) h s).form hs
  | mbsel h o => exact (inlineMat_keepsMem (f := matSelB o) (fun _ _ => rfl) h s).form hs
  | mma h o => exact (inlineMat_keepsMem (matMma_keepsMem _) h s).form hs
  | mdrain h o => exact (inlineMat_keepsMem (matDrain_keepsMem _) h s).form hs
  | ldv h o | ldrv h o => exact (loadV_keepsMem h o s).form hs
  | stv h o | stsv h o => exact (storeV_keepsMem h o _ s).form hs
  | ldf h o | ldfh h o => exact (loadElement_keepsMem h o _ s).form hs
  | amoSwap h o | amoAdd h o | amoAnd h o | amoOr h o | amoXor h o | amoMin h o | amoMax h o | cas h o =>
    exact (atomicOp_keepsMem _ h o s).form hs
  | redAdd h o | redAnd h o | redOr h o | redXor h o | redMin h o | redMax h o =>
    exact (reduction_keepsMem _ h o s).form hs
  | amo2Swap h o | amo2Add h o | amo2And h o | amo2Or h o | amo2Xor h o | dcas h o =>
    exact (pairWords_keepsMem _ _ h o s).form hs
  | amove h o => exact (execAmove_keepsMem h o s).form hs
  | fenceRel h o | fenceFull h o => exact (fenceOp_keepsMem s _ h o).form hs
  | hwait h o | hdet h o => exact (handleRead_keepsMem h o _ s).form hs
  | cpy h o | cpyf h o => exact (copyRange_keepsMem _ h o s).form hs
  | nop h => exact (execNop_keepsMem h s).form hs
  | call h o => exact (execCall_keepsMem h o s).form hs
  | callr h o => exact (execCallr_keepsMem h o s).form hs
  | loop h o => exact (execLoop_keepsMem h o s).form hs
  | lbrk h => exact (execLbrk_keepsMem h s).form hs
  | gdet h => exact (execGdet_keepsMem h s).form hs
  | gjoin h => exact (execGjoin_keepsMem h s).form hs
  | srrd h o => exact (execSrrd_keepsMem h o s).form hs
  | trap h o => exact (execTrap_keepsMem h o s).form hs
  | halt h => exact (execHalt_keepsMem h s).form hs
  | vcvt h o => exact (execVcvt_keepsMem h o s).form hs
  | vrsum h o => exact (execVrsum_keepsMem h o s).form hs
  | ld h o => exact (execLd_keepsMem h o s).form hs
  | ldvb h o => exact (execLdvb_keepsMem h o s).form hs
  | st h o => exact (execSt_keepsMem h o s).form hs
  | ldfv h o => exact (execLdfv_keepsMem h o s).form hs
  | ldr h o => exact (execLdr_keepsMem h o s).form hs
  | ldrx h o => exact (execLdrx_keepsMem h o s).form hs
  | ldAcq h o => exact (execLdAcq_keepsMem h o s).form hs
  | stRel h o => exact (execStRel_keepsMem h o s).form hs
  | sts h o => exact (execSts_keepsMem h o s).form hs
  | vgather h o => exact (execVgather_keepsMem h o s).form hs
  | vscatter h o => exact (execVscatter_keepsMem h o s).form hs
  | pft h o => exact (execPft_keepsMem h o s).form hs
  | pfh h o => exact (execPfh_keepsMem h o s).form hs
  | fenceAcq h => exact (execFenceAcq_keepsMem h s).form hs
  | waitaddr h o => exact (execWaitaddr_keepsMem h o s).form hs
  | evsig h o => exact (execEvsig_keepsMem h o s).form hs
  | evwait h o => exact (execEvwait_keepsMem h o s).form hs
  | send h o => exact (execSend_keepsMem h o s).form hs
  | sendv h o => exact (execSendv_keepsMem h o s).form hs
  | sendRel h o => exact (execSendRel_keepsMem h o s).form hs
  | recv h o => exact (execRecv_keepsMem h o s).form hs
  | recvv h o => exact (execRecvv_keepsMem h o s).form hs
  | recvAny h o => exact (execRecvAny_keepsMem h o s).form hs
  | recvvAny h o => exact (execRecvvAny_keepsMem h o s).form hs
  | sstep h => exact (execSstep_keepsMem h s).form hs
  | bar h o => exact (execBar_keepsMem h o s).form hs
  | fprobe h o => exact (execFprobe_keepsMem h o s).form hs
  | fork h o => exact (execFork_keepsMem h o s).form hs
  | rdv h o => exact (execRdv_keepsMem h o s).form hs
  | htest h o => exact (execHtest_keepsMem h o s).form hs
  | hpass h o => exact (execHpass_keepsMem h o s).form hs
  | hcancel h o => exact (execHcancel_keepsMem h o s).form hs
  | cpyb h o => exact (execCpyb_keepsMem h o s).form hs
  | qfence h o => exact (execQfence_keepsMem h o s).form hs
  | coll h o => exact (execColl_keepsMem h o s).form hs
  | contend h o => exact (execContend_keepsMem h o s).form hs
  | afclaim h o => exact (execAfclaim_keepsMem h o s).form hs
  | afcal h o => exact (execAfcal_keepsMem h o s).form hs
  | afcfg h o => exact (execAfcfg_keepsMem h o s).form hs
  | afscale h o => exact (execAfscale_keepsMem h o s).form hs
  | afrun h o => exact (execAfrun_keepsMem h o s).form hs
  | afsettle h o => exact (execAfsettle_keepsMem h o s).form hs
  | afsample h o => exact (execAfsample_keepsMem h o s).form hs
  | afstop h o => exact (execAfstop_keepsMem h o s).form hs
  | afrel h o => exact (execAfrel_keepsMem h o s).form hs
  | ctxsave h o => exact (execCtxsave_keepsMem h o s).form hs
  | ctxload h o => exact (execCtxload_keepsMem h o s).form hs
  | mint h o => exact (execMint_keepsMem h o s).form hs
  | fret h o => exact (execFret_keepsMem h o s).form hs
  | tlbwr h o => exact (execTlbwr_keepsMem h o s).form hs
  | tlbinv h o => exact (execTlbinv_keepsMem h o s).form hs
  | snap h o => exact (execSnap_keepsMem h o s).form hs
  | mseal h o => exact (execMseal_keepsMem h o s).form hs
  | evIssue c => exact execEvIssue_form hs c
  | evArrival src h => exact (execEvArrival_keepsMem src h s).form hs
  | evPerform h => exact (execEvPerform_keepsMem h s).form hs
  | evApply h => exact execEvApply_form hs h
  | evPairSecondHome h => exact (execEvPairSecondHome_keepsMem h s).form hs
  | evReplyDelivery n => exact (execEvReplyDelivery_keepsMem n s).form hs
  | evWcbFlush c line => exact execEvWcbFlush_form hs c line
  | evEngineEntryBegin c q => exact (execEvEngineEntryBegin_keepsMem c q s).form hs
  | evHandleResolve c q => exact execEvHandleResolve_form hs c q
  | evWakeDelivery n => exact (execEvWakeDelivery_keepsMem n s).form hs
  | evWaitTimeout c => exact (execEvWaitTimeout_keepsMem c s).form hs
  | evHostInboundWrite ep addr data => exact (execEvHostInboundWrite_keepsMem ep addr data s).form hs
  | evHostInboundRead ep addr len => exact (execEvHostInboundRead_keepsMem ep addr len s).form hs
  | evHostFlushRead ep c => exact (execEvHostFlushRead_keepsMem ep c s).form hs
  | evMailboxDeliver c n => exact (execEvMailboxDeliver_keepsMem c n s).form hs
  | evContextTimeslice cell => exact (execEvContextTimeslice_keepsMem cell s).form hs
  | evMintArrival n => exact (execEvMintArrival_keepsMem n s).form hs
  | evFaultRecordPost c => exact (execEvFaultRecordPost_keepsMem c s).form hs
  | evFqtailWrite k tc v => exact (execEvFqtailWrite_keepsMem k tc v s).form hs
  | evFaultDomainEnd dom => exact (execEvFaultDomainEnd_keepsMem dom s).form hs
  | evFpWindowClose r => exact (execEvFpWindowClose_keepsMem r s).form hs
  | evCellComplete c => exact (execEvCellComplete_keepsMem c s).form hs
  | evChildLaunch r cells => exact (execEvChildLaunch_keepsMem r cells s).form hs
  | evLaunchSelect frame cells => exact (execEvLaunchSelect_keepsMem frame cells s).form hs
  | evExchangeTransfer r => exact (execEvExchangeTransfer_keepsMem r s).form hs
  | evRoundTimerExpiry c => exact (execEvRoundTimerExpiry_keepsMem c s).form hs
  | evRoundMarkerArrival c src => exact (execEvRoundMarkerArrival_keepsMem c src s).form hs
  | evTokenPass r => exact (execEvTokenPass_keepsMem r s).form hs
  | evContendRegister c => exact (execEvContendRegister_keepsMem c s).form hs
  | evWaggleContest lane => exact (execEvWaggleContest_keepsMem lane s).form hs
  | evContestResult lane => exact (execEvContestResult_keepsMem lane s).form hs
  | evSequencerBind g => exact (execEvSequencerBind_keepsMem g s).form hs
  | evBindingReceive num rank => exact (execEvBindingReceive_keepsMem num rank s).form hs
  | evCollectiveStart num rank => exact (execEvCollectiveStart_keepsMem num rank s).form hs
  | evContributionArrival num rank => exact (execEvContributionArrival_keepsMem num rank s).form hs
  | evTgTimeout num => exact (execEvTgTimeout_keepsMem num s).form hs
  | evCancelRecord num rank => exact (execEvCancelRecord_keepsMem num rank s).form hs
  | evSwitchFailure num bitmap => exact (execEvSwitchFailure_keepsMem num bitmap s).form hs
  | evSequencerHeartbeat => exact (execEvSequencerHeartbeat_keepsMem s).form hs
  | evSequencerFailover n => exact (execEvSequencerFailover_keepsMem n s).form hs
  | evRegistrationRetry c => exact (execEvRegistrationRetry_keepsMem c s).form hs
  | evAfcalComplete c => exact (execEvAfcalComplete_keepsMem c s).form hs
  | evFabricSaturation c n => exact (execEvFabricSaturation_keepsMem c n s).form hs
  | evFabricSettleDone c => exact (execEvFabricSettleDone_keepsMem c s).form hs
  | evFabricSettleTimeout c => exact (execEvFabricSettleTimeout_keepsMem c s).form hs
  | evQueueDoorbell q tail => exact (execEvQueueDoorbell_keepsMem q tail s).form hs
  | evQueueLaunch q => exact (execEvQueueLaunch_keepsMem q s).form hs
  | evQueueFence q => exact (execEvQueueFence_keepsMem q s).form hs
  | evQueueFenceComplete q => exact (execEvQueueFenceComplete_keepsMem q s).form hs
  | evQueueCancel q => exact (execEvQueueCancel_keepsMem q s).form hs
  | evRegisterWrite addr v => exact (execEvRegisterWrite_keepsMem addr v s).form hs
  | evLinkRetry l => exact (execEvLinkRetry_keepsMem l s).form hs
  | evLinkFail l => exact (execEvLinkFail_keepsMem l s).form hs
  | evLinkRateChange l width rate => exact (execEvLinkRateChange_keepsMem l width rate s).form hs
  | evBudgetInterval inp => exact (execEvBudgetInterval_keepsMem inp s).form hs
  | evFrequencyStep frame mhz => exact (execEvFrequencyStep_keepsMem frame mhz s).form hs
  | evRelockRestart frame => exact (execEvRelockRestart_keepsMem frame s).form hs
  | evSnapshotTrigger => exact (execEvSnapshotTrigger_keepsMem s).form hs
  | evMeterList => exact (execEvMeterList_keepsMem s).form hs
  | evMeterRead c => exact (execEvMeterRead_keepsMem c s).form hs
  | evGetVersion => exact (execEvGetVersion_keepsMem s).form hs
  | evGetCapabilities => exact (execEvGetCapabilities_keepsMem s).form hs
  | evNegotiateAlgorithms ed25519 sha512 => exact (execEvNegotiateAlgorithms_keepsMem ed25519 sha512 s).form hs
  | evGetDigests => exact (execEvGetDigests_keepsMem s).form hs
  | evGetCertificate slot => exact (execEvGetCertificate_keepsMem slot s).form hs
  | evChallenge nonce => exact (execEvChallenge_keepsMem nonce s).form hs
  | evGetMeasurements index => exact (execEvGetMeasurements_keepsMem index s).form hs
  | evPackageReset up => exact execEvPackageReset_form hs up
  | evPatrolScrub frame sector res => exact (execEvPatrolScrub_keepsMem frame sector res s).form hs
  | evCellError c => exact (execEvCellError_keepsMem c s).form hs
  | evQueueEnable q en size => exact (execEvQueueEnable_keepsMem q en size s).form hs
  | evGroupCreate g => exact (execEvGroupCreate_keepsMem g s).form hs
  | evStandbyReplacement n => exact (execEvStandbyReplacement_keepsMem n s).form hs
  | evExportRevocation frame index => exact (execEvExportRevocation_keepsMem frame index s).form hs
  | evSnapshotRelease => exact (execEvSnapshotRelease_keepsMem s).form hs

/-! ### Every step (R82, R87) -/

theorem getD_form {o : Option Out} {d : Out} (ho : ∀ x, o = some x → keepsForm x) (hd : keepsForm d) : keepsForm (o.getD d) := by
  cases o with
  | none => exact hd
  | some x => exact ho x rfl

theorem State.pass_mem (n : Nat) (s : State) : (s.pass n).mem = s.mem := by
  induction n generalizing s with
  | zero => rfl
  | succ n ih =>
    unfold State.pass
    split
    · rfl
    · rw [ih]
      simp

section
variable {s : State} (hs : s.mem.wf = true)
include hs

theorem State.runSlot_form {i : SlotInstr} {o : Out} (h : s.runSlot i = some o) : keepsForm o := by
  unfold State.runSlot at h
  split at h
  · exact nomatch h
  · split at h
    · exact Option.some.inj h ▸ (keepsMem_faultOut.2 rfl).form hs
    · exact Option.some.inj h ▸ exec_form hs i.i

theorem State.startGroup_form (g : GroupIssue) : keepsForm (s.startGroup g) := by
  unfold State.startGroup
  dsimp only
  split
  · exact keepsForm_next.2 hs
  · exact getD_form (fun o ho => State.runSlot_form (by exact hs) ho) (keepsForm_next.2 hs)

theorem faultBefore_form (e : Word × Trap) : keepsForm (faultBefore s e) := (keepsMem_faultOut.2 rfl).form hs

theorem State.beginGroup_form {taken : Bool} {o : Out} (h : s.beginGroup taken = some o) : keepsForm o := by
  unfold State.beginGroup at h
  dsimp only at h
  split at h
  · split at h
    · exact nomatch h
    split at h
    · exact Option.some.inj h ▸ (keepsMem_faultOut.2 rfl).form hs
    split at h
    · exact Option.some.inj h ▸ faultBefore_form (by exact hs) _
    · exact Option.some.inj h ▸ State.startGroup_form (by exact hs) _
  · split at h
    · exact nomatch h
    split at h
    · exact Option.some.inj h ▸ fun _ h => nomatch h
    split at h
    · exact nomatch h
    split at h
    · exact Option.some.inj h ▸ (keepsMem_faultOut.2 rfl).form hs
    split at h
    · exact Option.some.inj h ▸ faultBefore_form (by exact hs) _
    · exact Option.some.inj h ▸ State.startGroup_form (by simpa using hs) _

theorem State.issueStep_form {o : Out} (h : s.issueStep = some o) : keepsForm o := by
  unfold State.issueStep at h
  dsimp only at h
  split at h
  · split at h
    · exact State.runSlot_form hs h
    · split at h
      · exact nomatch h
      · split at h
        · rw [← Option.some.inj h]
          simpa using hs
        · exact State.beginGroup_form (by simpa using hs) h
  · split at h
    · exact nomatch h
    · exact State.beginGroup_form hs h

theorem State.tryAgain_form {o : Out} (h : s.tryAgain = some o) : keepsForm o := by
  unfold State.tryAgain at h
  split at h
  · exact nomatch h
  · next i _ =>
    have hexec := exec_form hs i.i
    split at h
    · next t ht =>
      rw [ht] at hexec
      split at h
      · exact nomatch h
      · split at h
        · exact Option.some.inj h ▸ hexec
        · exact Option.some.inj h ▸ keepsForm_next.2 hs
    · exact Option.some.inj h ▸ hexec

theorem State.turnOf_form {c : CtxId} {o : Out} (h : s.turnOf c = some o) : keepsForm o := by
  have hf : (s.focus c).mem.wf = true := by simpa using hs
  unfold State.turnOf at h
  dsimp only at h
  split at h
  · exact nomatch h
  split at h
  · split at h
    · exact Option.some.inj h ▸ keepsForm_next.2 hf
    · exact State.issueStep_form hf h
  · split at h
    · exact Option.some.inj h ▸ keepsForm_next.2 hf
    · exact nomatch h
  · split at h
    · exact State.tryAgain_form hf h
    · exact nomatch h
  · exact nomatch h
  · exact nomatch h

theorem State.takeEvent_form (i : Instr) : keepsForm (s.takeEvent i) := by
  unfold State.takeEvent
  split
  · exact exec_form hs i
  · exact keepsForm_next.2 hs

theorem State.makeMove_form (m : Move) : keepsForm (s.makeMove m) := by
  cases m with
  | issue c => exact getD_form (fun _ => State.turnOf_form hs) (keepsForm_next.2 hs)
  | engine c q => exact engineStep_form hs c q
  | event i => exact State.takeEvent_form hs i
  | unlisted x => exact (execUnlisted_keepsMem x s).form hs
  | time ns => exact keepsForm_next.2 (s.pass_mem ns ▸ hs)

theorem State.effective_form {m : Move} {o : Out} (h : s.effective m = some o) : keepsForm o := by
  have hmove := State.makeMove_form hs m
  unfold State.effective at h
  split at h
  · next t ht =>
    split at h
    · exact nomatch h
    · exact Option.some.inj h ▸ ht ▸ hmove
  · exact Option.some.inj h ▸ hmove

theorem State.idle_form : keepsForm s.idle := by
  refine getD_form (fun o ho => ?_) (keepsForm_next.2 (s.pass_mem 1 ▸ hs))
  obtain ⟨m, -, hm⟩ := List.exists_of_findSome?_eq_some ho
  exact State.effective_form hs hm

theorem step_form : keepsForm (step s) := by
  unfold step
  split
  · exact State.makeMove_form (by exact hs) _
  · split
    · exact getD_form (fun _ => State.issueStep_form hs) (State.idle_form hs)
    · exact State.idle_form hs

end

/-- Settles O10: every move of the package keeps the form, as only the dirty log, the write queue and a reset write memory. -/
theorem stepKeepsCanonical : Obligations.StepKeepsCanonical := fun _ hs => step_form hs

end Sys2Proof.Machine
end

section
/-!
Copies, queue fences, collectives and contests (R149, R280, R287, R290 to R296): after their checks they only join their
queues.
-/
namespace Sys2Proof.Machine
open Sys2Proof.Claims

/-! ### Joining queues -/

/-- An instruction that only adds its entry to a queue. -/
theorem enqueues_retire (s : State) (q : Nat) (i : BitVec 4) (w : Work) :
    enqueues s (.next (s.mapTh fun c => (c.enqueue q (some i) w s.now).retire)) id q (some i) w .waiting := by
  have hdone := completes_mapTh (s := s) (f := fun c => c.enqueue q (some i) w s.now) (by rw [Ctx.enqueue_eq])
    (by rw [Ctx.enqueue_eq]) (by rw [Ctx.enqueue_eq])
  simp only [Ctx.enqueue_eq] at hdone ⊢
  exact hdone

/-- One change of several queues. -/
theorem Ctx.foldl_mapQ (f : List Entry → List Entry) {qs : List Nat} (hqs : qs.Nodup) (c : Ctx) :
    qs.foldl (fun c q => c.mapQ q f) c =
      { c with eq := Vector.ofFn fun i : Fin 8 => if i.val ∈ qs then f (c.eq.get i) else c.eq.get i } := by
  induction qs generalizing c with
  | nil =>
    have heq : (Vector.ofFn fun i : Fin 8 => c.eq.get i) = c.eq := by
      refine Vector.ext fun i hi => ?_
      rw [Vector.getElem_ofFn]
      rfl
    simp [heq]
  | cons q qs ih =>
    obtain ⟨hq, hqs⟩ := List.nodup_cons.1 hqs
    rw [List.foldl_cons, ih hqs]
    simp only [Ctx.mapQ]
    congr 1
    ext i hi
    simp only [Vector.getElem_ofFn, Vector.get_ofFn, List.mem_cons]
    by_cases hiq : i = q
    · subst hiq
      simp [hq]
    · simp [hiq]

/-- The entries of a queue fence, one on each queue that its mask names (R98). -/
theorem Ctx.placeFence_eq (c : Ctx) (mask : BitVec 8) (now : Nat) : c.placeFence mask now =
    let op := c.nextOp * 4294967296 + c.cid
    { c with
      eq := Vector.ofFn fun i : Fin 8 => if mask.getLsbD i.val then
        c.eq.get i ++ [⟨op, c.mq.next, .fence op mask, .waiting, false, now, none, false⟩] else c.eq.get i
      nextOp := c.nextOp + 1, mq := { c.mq with next := c.mq.next + 1 } } := by
  have hqs : ((List.range 8).filter fun q => mask.getLsbD q).Nodup := List.nodup_range.filter _
  have hmem (i : Fin 8) : i.val ∈ (List.range 8).filter (fun q => mask.getLsbD q) ↔ mask.getLsbD i.val = true := by
    simp [i.isLt]
  unfold Ctx.placeFence
  dsimp only
  rw [Ctx.foldl_mapQ _ hqs]
  simp only [hmem]
  rfl

/-! ### Copies (R287, R290) -/

/-- Outside superstep mode a copy may name any memory. -/
theorem copyForeign_outside {s : State} (hsup : s.superstep s.th = false) (rs : List (Word × Nat)) :
    s.copyForeign s.th rs = none := if_pos (by rw [hsup]; rfl)

/-- The number of K blocks in the selector of a panel copy. -/
theorem bitsAt_blocks (w : Word) : bitsAt w.toNat 32 16 = w.toNat / 2 ^ 32 % 65536 := by
  have h16 : 2 ^ 16 = 65536 := by norm_num
  rw [bitsAt, Nat.shiftRight_eq_div_pow, h16]

theorem issueCopy_zero {s : State} {o : CopyOp} (hn : o.len = 0) (q : Nat) (i : BitVec 4) :
    completes s (issueCopy q i o s) fun c => { c with h := c.h.set i.toNat ⟨.done, 0, 0, 0, true⟩ i.isLt } := by
  rw [issueCopy, if_pos hn]
  exact completes_mapTh (s := s) (f := fun c => c.setHandle i ⟨.done, 0, 0, 0, true⟩) rfl rfl rfl

theorem issueCopy_queued {s : State} {o : CopyOp} (hn : o.len ≠ 0) (q : Nat) (i : BitVec 4) :
    enqueues s (issueCopy q i o s) id q (some i) (.copy o) .waiting := by
  rw [issueCopy, if_neg hn]
  exact enqueues_retire s q i (.copy o)

section
variable {h : Hdr} {s : State} (hp : predOn h s.th.regs = true)
include hp

theorem copyRange_busy (kind : CopyKind) {o : Cpy}
    (hf : s.copyForeign s.th [(s.th.regs.gr o.dst, (s.th.regs.rg o.len).toNat % 2 ^ 32),
      (s.th.regs.gr o.src, (s.th.regs.rg o.len).toNat % 2 ^ 32)] = none) : busy s (copyRange kind h o s) o.h := by
  intro hb
  refine faults_of_eq ?_
  rw [copyRange, onPred_on hp]
  dsimp only
  rw [hf, busyFault_pending hb]
  rfl

theorem copyRange_free (kind : CopyKind) {o : Cpy}
    (hf : s.copyForeign s.th [(s.th.regs.gr o.dst, (s.th.regs.rg o.len).toNat % 2 ^ 32),
      (s.th.regs.gr o.src, (s.th.regs.rg o.len).toNat % 2 ^ 32)] = none) (hb : (hand s o.h).st ≠ .pending) :
    copyRange kind h o s = issueCopy o.q.toNat o.h
      (.start kind (s.th.regs.gr o.dst) (s.th.regs.gr o.src) ((s.th.regs.rg o.len).toNat % 2 ^ 32) 0) s := by
  rw [copyRange, onPred_on hp]
  dsimp only
  rw [hf, busyFault_free hb]
  rfl

section
variable {o : CpyB} (hsup : s.superstep s.th = false)
include hsup

theorem exec_cpyb_fault {t : Trap} (ht : firstFault [busyFault s.th o.h, s.panelFault s.th (s.th.regs.gr o.src) (s.th.regs.gr o.b),
    s.sliceFault s.th] = some t) : exec (.cpyb h o) s = faultOut s t := by
  have hrun : exec (.cpyb h o) s = execCpyb h o s := rfl
  rw [hrun, execCpyb, onPred_on hp]
  dsimp only
  rw [copyForeign_outside hsup, firstFault, ht]

theorem exec_cpyb_next (ht : firstFault [busyFault s.th o.h, s.panelFault s.th (s.th.regs.gr o.src) (s.th.regs.gr o.b),
    s.sliceFault s.th] = none) : exec (.cpyb h o) s = .next (s.mapTh fun c => (c.enqueue o.q.toNat (some o.h)
      (.copy (.start .panel 0 (s.th.regs.gr o.src) ((s.th.regs.gr o.b).toNat / 2 ^ 32 % 65536) (s.th.regs.gr o.b))) s.now).retire) := by
  have hrun : exec (.cpyb h o) s = execCpyb h o s := rfl
  rw [hrun, execCpyb, onPred_on hp]
  dsimp only
  rw [copyForeign_outside hsup, firstFault, ht, bitsAt_blocks]

end

theorem exec_qfence (o : QFence) : exec (.qfence h o) s =
    if o.mask = 0 then .next s.retire else .next (s.mapTh fun c => (c.placeFence o.mask s.now).retire) := by
  have hrun : exec (.qfence h o) s = execQfence h o s := rfl
  rw [hrun, execQfence, onPred_on hp]

section
variable {o : Coll} (hd : ((floatSum o && o.order != .canonical) && decide (collLevel o ≤ detLevel s.th)) = false)
include hd

theorem exec_coll_fault {t : Trap} (ht : firstFault [busyFault s.th o.h, alignFault (s.th.regs.gr o.a) 64] = some t) :
    exec (.coll h o) s = faultOut s t := by
  have hrun : exec (.coll h o) s = execColl h o s := rfl
  rw [hrun, execColl, onDet_pass hd, onPred_on hp]
  dsimp only
  rw [ht]

theorem exec_coll_next (ht : firstFault [busyFault s.th o.h, alignFault (s.th.regs.gr o.a) 64] = none) :
    exec (.coll h o) s = .next (s.mapTh fun c =>
      (c.enqueue 6 (some o.h) (.coll ⟨o.kind, o.op, o.ty, o.order, s.th.regs.gr o.a⟩) s.now).retire) := by
  have hrun : exec (.coll h o) s = execColl h o s := rfl
  rw [hrun, execColl, onDet_pass hd, onPred_on hp]
  dsimp only
  rw [ht]

end

section
variable {o : Contend} (hd : detLevel s.th = 0)
include hd

theorem exec_contend_fault {t : Trap} (ht : s.contestFault o = some t) : exec (.contend h o) s = faultOut s t := by
  have hrun : exec (.contend h o) s = execContend h o s := rfl
  rw [hrun, execContend, onDet_pass (by simp [hd]), onPred_on hp, ht]
  rfl

/-- A contest that its lane admits: the operand is read as the entry is placed. -/
theorem exec_contend_next (hc : s.contestFault o = none) (hb : (hand s o.h).st ≠ .pending) : exec (.contend h o) s =
    .next (s.mapTh fun c => (c.enqueue 6 (some o.h) (.contend (s.th.regs.gs o.a) o.lane o.id) s.now).retire) := by
  have hrun : exec (.contend h o) s = execContend h o s := rfl
  rw [hrun, execContend, onDet_pass (by simp [hd]), onPred_on hp, hc, busyFault_free hb]
  rfl

end

theorem copies (kind : CopyKind) (o : Cpy) : let R := s.th.regs
    let n := (R.rg o.len).toNat % 2 ^ 32
    s.copyForeign s.th [(R.gr o.dst, n), (R.gr o.src, n)] = none →
    busy s (copyRange kind h o s) o.h ∧
    ((hand s o.h).st ≠ .pending → n = 0 → completes s (copyRange kind h o s) fun c =>
      { c with h := c.h.set o.h.toNat ⟨.done, 0, 0, 0, true⟩ o.h.isLt }) ∧
    ((hand s o.h).st ≠ .pending → n ≠ 0 → enqueues s (copyRange kind h o s) id o.q.toNat (some o.h)
      (.copy ⟨kind, R.gr o.dst, R.gr o.src, n, 0, 0, false, none, none, none⟩) .waiting) := by
  intro R n hf
  refine ⟨copyRange_busy hp kind hf, fun hb hn => ?_, fun hb hn => ?_⟩
  · rw [copyRange_free hp kind hf hb]
    exact issueCopy_zero hn _ _
  · rw [copyRange_free hp kind hf hb]
    exact issueCopy_queued hn _ _

theorem panelCopy (o : CpyB) : let src := s.th.regs.gr o.src
    let gb := s.th.regs.gr o.b
    let n := gb.toNat / 2 ^ 32 % 65536
    (s.superstep s.th = false → busy s (exec (.cpyb h o) s) o.h) ∧
    (s.superstep s.th = false → (hand s o.h).st ≠ .pending → (n = 0 ∨ 1024 < n) →
      faults s (exec (.cpyb h o) s) 0x1A 0 (BitVec.ofNat 64 n)) ∧
    (s.superstep s.th = false → (hand s o.h).st ≠ .pending → s.panelFault s.th src gb = none →
      s.sliceFault s.th = none → enqueues s (exec (.cpyb h o) s) id o.q.toNat (some o.h)
        (.copy ⟨.panel, 0, src, n, gb, 0, false, none, none, none⟩) .waiting) := by
  intro src gb n
  refine ⟨fun hsup hb => faults_of_eq (exec_cpyb_fault hp hsup ?_), fun hsup hb hn => faults_of_eq (exec_cpyb_fault hp hsup ?_),
    fun hsup hb hpanel hslice => ?_⟩
  · rw [busyFault_pending hb]
    rfl
  · have hpanel : s.panelFault s.th src gb = some ⟨cMatrix, 0, BitVec.ofNat 64 n⟩ := by
      unfold State.panelFault
      rw [bitsAt_blocks]
      exact if_pos hn
    rw [busyFault_free hb, hpanel]
    rfl
  · rw [exec_cpyb_next hp hsup (by rw [busyFault_free hb, hpanel, hslice]; rfl)]
    exact enqueues_retire s _ _ _

/-! ### Queue fences, collectives and contests (R98, R149, R291 to R296) -/

theorem queueFence (o : QFence) : (o.mask = 0 → goesOn s (exec (.qfence h o) s)) ∧
    (o.mask ≠ 0 → completes s (exec (.qfence h o) s) fun c =>
      let op := c.nextOp * 4294967296 + c.cid
      { c with
        eq := Vector.ofFn fun i : Fin 8 => if o.mask.getLsbD i.val then
          c.eq.get i ++ [⟨op, c.mq.next, .fence op o.mask, .waiting, false, s.now, none, false⟩] else c.eq.get i
        nextOp := c.nextOp + 1, mq := { c.mq with next := c.mq.next + 1 } }) := by
  refine ⟨fun hm => (exec_qfence hp o).trans (if_pos hm), fun hm => ?_⟩
  have hdone := completes_mapTh (s := s) (f := fun c => c.placeFence o.mask s.now) (by rw [Ctx.placeFence_eq])
    (by rw [Ctx.placeFence_eq]) (by rw [Ctx.placeFence_eq])
  rw [exec_qfence hp, if_neg hm]
  simp only [Ctx.placeFence_eq] at hdone ⊢
  exact hdone

theorem collective (o : Coll) : let d := s.th.regs.gr o.a
    let late := decide (o.op = .sum ∧ (o.kind = .allreduce ∨ o.kind = .reduce ∨ o.kind = .redscat) ∧
      (o.ty.isFloat = true ∨ o.ty.isBfp = true) ∧ o.order ≠ .canonical ∧
      (if o.order = .any then 1 else 2) ≤ detLevel s.th)
    (late = true → faults s (exec (.coll h o) s) 0x07 0 0) ∧
    (late = false → busy s (exec (.coll h o) s) o.h ∧
      ((hand s o.h).st ≠ .pending → d.toNat % 64 ≠ 0 → faults s (exec (.coll h o) s) 0x14 0 d) ∧
      ((hand s o.h).st ≠ .pending → d.toNat % 64 = 0 → enqueues s (exec (.coll h o) s) id 6 (some o.h)
        (.coll ⟨o.kind, o.op, o.ty, o.order, d⟩) .waiting)) := by
  intro d late
  have hlate : ((floatSum o && o.order != .canonical) && decide (collLevel o ≤ detLevel s.th)) = late := by
    rw [Bool.eq_iff_iff]
    simp only [late, floatSum, Bool.and_eq_true, Bool.or_eq_true, beq_iff_eq, bne_iff_ne, decide_eq_true_eq, and_assoc, or_assoc]
    rfl
  refine ⟨fun hl => faults_of_eq ?_, fun hl => ?_⟩
  · obtain ⟨hsum, hlev⟩ := Bool.and_eq_true_iff.1 (hlate.trans hl)
    have hrun : exec (.coll h o) s = execColl h o s := rfl
    rw [hrun, execColl, onDet_fault hsum (of_decide_eq_true hlev)]
    rfl
  · have hd := hlate.trans hl
    refine ⟨fun hb => faults_of_eq (exec_coll_fault hp hd ?_), fun hb ha => faults_of_eq (exec_coll_fault hp hd ?_), fun hb ha => ?_⟩
    · rw [busyFault_pending hb]
      rfl
    · rw [busyFault_free hb, alignFault_bad ha]
      rfl
    · rw [exec_coll_next hp hd (by rw [busyFault_free hb, alignFault_ok ha]; rfl)]
      exact enqueues_retire s _ _ _

theorem contest (o : Contend) : (1 ≤ detLevel s.th → faults s (exec (.contend h o) s) 0x07 0 0) ∧
    (detLevel s.th = 0 → (o.lane = 15 ∨ o.id = 0 ∨ (s.regionOf s.th).bind Region.slot = none) →
      faults s (exec (.contend h o) s) 0x1D 0 (BitVec.ofNat 64 (o.lane.toNat * 256 + o.id.toNat))) ∧
    (∀ r k, detLevel s.th = 0 → o.lane ≠ 15 → o.id ≠ 0 → s.regionOf s.th = some r → r.slot = some k →
      (hand s o.h).st ≠ .pending → enqueues s (exec (.contend h o) s) id 6 (some o.h)
        (.contend (s.th.regs.gs o.a) o.lane o.id) .waiting) := by
  refine ⟨fun hd => faults_of_eq ?_, fun hd hbad => faults_of_eq ?_, fun r k hd hlane hid hr hk hb => ?_⟩
  · have hrun : exec (.contend h o) s = execContend h o s := rfl
    rw [hrun, execContend, onDet_fault rfl hd]
    rfl
  · refine exec_contend_fault hp hd ?_
    unfold State.contestFault
    refine if_pos ?_
    simpa only [Bool.or_eq_true, decide_eq_true_eq, Option.isNone_iff_eq_none, or_assoc] using hbad
  · have hfault : s.contestFault o = none := by
      unfold State.contestFault
      refine if_neg ?_
      simp only [Bool.or_eq_true, decide_eq_true_eq, hr, Option.bind_some, hk, Option.isNone_some]
      simpa using ⟨hlane, hid⟩
    rw [exec_contend_next hp hd hfault hb]
    exact enqueues_retire s 6 o.h _

end

/-- Settles O44, form by form. -/
theorem engineQueues : Obligations.EngineQueues := by
  intro h s hp
  refine ⟨fun p hmem o => ?_, panelCopy hp, queueFence hp, collective hp, contest hp⟩
  have hrun : exec (p.1 h o) s = copyRange p.2 h o s := by
    obtain rfl | rfl := by simpa using hmem
    · rfl
    · rfl
  dsimp only
  rw [hrun]
  exact copies hp p.2 o

end Sys2Proof.Machine
end

section
/-!
Plain loads and stores (R84, R85, R260 to R267): the accesses of lane forms, and what the checks of R262 let through.
-/
namespace Sys2Proof.Machine
open Sys2Proof.Claims

/-! ### Blocks of bytes -/

theorem div_block {b k : Nat} (hk : k < b) (j : Nat) : (j * b + k) / b = j := by
  rw [Nat.add_comm, Nat.add_mul_div_right _ _ (Nat.zero_lt_of_lt hk), Nat.div_eq_of_lt hk, Nat.zero_add]

/-- A list over bytes that depends on their lane alone, lane by lane. -/
theorem map_range_blocks {α : Type} (f : Nat → α) (b n : Nat) :
    (List.range (n * b)).map (fun k => f (k / b)) = (List.range n).flatMap fun j => List.replicate b (f j) := by
  induction n with
  | zero => simp
  | succ n ih =>
    have hlast : (List.range b).map (fun k => f ((n * b + k) / b)) = List.replicate b (f n) := by
      refine List.eq_replicate_iff.2 ⟨by simp, fun x hx => ?_⟩
      obtain ⟨k, hk, rfl⟩ := List.mem_map.1 hx
      rw [div_block (List.mem_range.1 hk)]
    rw [Nat.succ_mul, List.range_add, List.map_append, ih, List.map_map, List.range_succ, List.flatMap_append,
      List.flatMap_singleton, ← hlast]
    rfl

/-- The bytes of the lanes that a condition picks, lane by lane. -/
theorem filter_range_blocks (p : Nat → Bool) (b n : Nat) : (List.range (n * b)).filter (fun k => p (k / b)) =
    ((List.range n).filter p).flatMap fun j => (List.range b).map (j * b + ·) := by
  induction n with
  | zero => simp
  | succ n ih =>
    have hlast : ((List.range b).map (n * b + ·)).filter (fun k => p (k / b)) =
        if p n then (List.range b).map (n * b + ·) else [] := by
      have hlane : ∀ k ∈ (List.range b).map (n * b + ·), p (k / b) = p n := by
        intro k hk
        obtain ⟨i, hi, rfl⟩ := List.mem_map.1 hk
        rw [div_block (List.mem_range.1 hi)]
      rw [List.filter_congr hlane]
      cases p n <;> simp
    rw [Nat.succ_mul, List.range_add, List.filter_append, ih, hlast, List.range_succ, List.filter_append,
      List.flatMap_append]
    cases hp : p n <;> simp [hp]

theorem findSome?_some {α β : Type} (f : α → β) (xs : List α) : xs.findSome? (fun x => some (f x)) = xs.head?.map f := by
  cases xs <;> rfl

/-- The first and the last byte of whole blocks. -/
theorem head?_blocks {b : Nat} (hb : 0 < b) (js : List Nat) :
    (js.flatMap fun j => (List.range b).map (j * b + ·)).head? = js.head?.map (· * b) := by
  have hblock (j : Nat) : ((List.range b).map (j * b + ·)).head? = some (j * b) := by
    rw [List.head?_map, List.head?_range, if_neg (by omega)]
    simp
  simp only [List.head?_flatMap, hblock, findSome?_some]

theorem getLast?_blocks {b : Nat} (hb : 0 < b) (js : List Nat) :
    (js.flatMap fun j => (List.range b).map (j * b + ·)).getLast? = js.getLast?.map fun j => j * b + (b - 1) := by
  have hblock (j : Nat) : ((List.range b).map (j * b + ·)).getLast? = some (j * b + (b - 1)) := by
    rw [List.getLast?_map, List.getLast?_range, if_neg (by omega)]
    simp
  simp only [List.getLast?_flatMap, hblock, findSome?_some, List.head?_reverse]

/-- The bytes of lanes, one after another, are those of the number that they make. -/
theorem bytesOf_packLanes (b : Nat) (xs : List Nat) :
    bytesOf (xs.length * b) (packLanes (8 * b) xs) = xs.flatMap (bytesOf b) := by
  have hpow : 2 ^ (8 * b) = 256 ^ b := by rw [Nat.pow_mul]
  induction xs with
  | nil => simp [bytesOf_zero]
  | cons x xs ih =>
    have hlow : bytesOf b (x % 256 ^ b + 256 ^ b * packLanes (8 * b) xs) = bytesOf b x := by
      rw [← bytesOf_mod, Nat.add_mul_mod_self_left, Nat.mod_mod, bytesOf_mod]
    have hhigh : (x % 256 ^ b + 256 ^ b * packLanes (8 * b) xs) / 256 ^ b = packLanes (8 * b) xs := by
      rw [Nat.add_mul_div_left _ _ (by positivity), Nat.div_eq_of_lt (Nat.mod_lt _ (by positivity)), Nat.zero_add]
    have hlen : (x :: xs).length * b = b + xs.length * b := by
      rw [List.length_cons, Nat.succ_mul, Nat.add_comm]
    rw [packLanes, hpow, hlen, ← List.take_append_drop b (bytesOf _ _), take_bytesOf, drop_bytesOf, hlow, hhigh, ih,
      List.flatMap_cons]

/-! ### Active lanes in bytes (R217, R263) -/

theorem Ty.bytes_pos (t : Ty) : 0 < t.bytes := by cases t <;> decide
theorem Ty.lanes_bytes (t : Ty) : t.lanes * t.bytes = 32 := by cases t <;> decide

section
variable (h : Hdr) (s : State) (t : Ty)

theorem activeLanes_filter : (List.range t.lanes).filter (fun j => (activeLanes h s.th.regs t).getD j false) =
    (List.range t.lanes).filter fun j => isActive h s t j :=
  List.filter_congr fun _ hj => activeLanes_getD (List.mem_range.1 hj)

/-- A byte past the last lane belongs to no active lane. -/
theorem isActive_past {j : Nat} (hj : t.lanes ≤ j) : isActive h s t j = false := by
  have hpast : 32 ≤ j * t.bytes := Ty.lanes_bytes t ▸ Nat.mul_le_mul_right _ hj
  exact BitVec.getLsbD_of_ge _ _ hpast

theorem liveLane_eq : liveLane h s.th.regs t = inLane h s t := by
  funext k
  unfold liveLane inLane
  by_cases hk : k / t.bytes < t.lanes
  · exact activeLanes_getD hk
  · rw [isActive_past h s t (Nat.not_lt.1 hk)]
    simp [activeLanes, hk]

theorem activeBytes_eq : activeBytes t (activeLanes h s.th.regs t) = (List.range 32).map (inLane h s t) := by
  rw [← Ty.lanes_bytes t, activeBytes, activeLanes, List.flatMap_map]
  exact (map_range_blocks (isActive h s t) t.bytes t.lanes).symm

/-- The access of the active lanes of a vector. -/
theorem laneAccesses_eq (ea : Word) : laneAccesses t ea (activeLanes h s.th.regs t) = runs h s t ea := by
  have hon : (List.range 32).filter (fun k => (activeBytes t (activeLanes h s.th.regs t)).getD k false) =
      ((List.range t.lanes).filter fun j => isActive h s t j).flatMap fun j => (List.range t.bytes).map (j * t.bytes + ·) := by
    rw [← filter_range_blocks, Ty.lanes_bytes t]
    refine List.filter_congr fun k hk => ?_
    rw [activeBytes_eq]
    simp [List.mem_range.1 hk, inLane]
  have hlen : (activeBytes t (activeLanes h s.th.regs t)).length = 32 := by simp [activeBytes_eq]
  unfold laneAccesses hullAccess runs
  dsimp only
  rw [hlen, hon, head?_blocks (Ty.bytes_pos t), getLast?_blocks (Ty.bytes_pos t)]
  cases (List.range t.lanes).filter fun j => isActive h s t j with
  | nil => rfl
  | cons j js =>
    have hlast : (j :: js).getLast? = some (js.getLastD j) := by
      rw [List.getLast?_cons, List.getLastD_eq_getLast?]
    have hend : js.getLastD j * t.bytes + (t.bytes - 1) + 1 = (js.getLastD j + 1) * t.bytes := by
      have := Ty.bytes_pos t
      rw [Nat.add_mul]
      omega
    rw [hlast]
    simp only [List.head?_cons, Option.map_some]
    rw [hend, Nat.sub_mul]

theorem gatherAccesses_eq (ea : Word) (idx : VReg) :
    gatherAccesses s.th.regs t ea idx (activeLanes h s.th.regs t) = elements h s t ea idx := by
  unfold gatherAccesses elements
  dsimp only
  rw [activeLanes_filter]
  rfl

theorem vBytes_lanes (x : VReg) : vBytes (ofLanes t.bits (s.th.regs.vrLanes t.bits x)) = laneBytes s t (.reg x) := by
  have hlen : (s.th.regs.vrLanes t.bits x).length = t.lanes := by simp [Regs.vrLanes, Ty.lanes_eq t]
  have hbits : t.bits = 8 * t.bytes := rfl
  have hnum : (ofLanes t.bits (s.th.regs.vrLanes t.bits x)).toNat =
      packLanes t.bits (s.th.regs.vrLanes t.bits x) % 256 ^ 32 := by
    rw [ofLanes, BitVec.toNat_ofNat]
    norm_num
  have hget : s.th.regs.vrLanes t.bits x = (List.range t.lanes).map (lane s t (.reg x)) := by
    refine List.ext_getElem (by simp [hlen]) fun j hj _ => ?_
    rw [List.getElem_map, List.getElem_range]
    exact (List.getD_eq_getElem _ _ hj).symm
  rw [vBytes, hnum, bytesOf_mod, laneBytes, ← Ty.lanes_bytes t, ← hlen, hbits, bytesOf_packLanes, ← hbits]
  conv_lhs => rw [hget]
  rw [List.flatMap_map, hlen]

end

/-! ### The checks of a form (R262) -/

section
variable {s : State} {ps : List (Part × Nat)}

theorem placed_absent {k : Nat} (habs : s.absentPart (ps.map Prod.fst) = some k) (use : Use) (live : Nat → Bool)
    (f : Ctx → Ctx) : placed s use ps live f = .fault (.absentStack k) := by
  dsimp only [placed]
  rw [habs]

/-- The context of a store whose parts have entered its queue and its meters. -/
def Ctx.withStore (c : Ctx) (ps : List (Part × Nat)) (data : List Byte) (o : Order) (stream : Bool) (live : Nat → Bool) : Ctx :=
  ((c.pushStore (partBytes data live ps) o stream).charge (metered live ps)).run

theorem Ctx.withStore_eq (c : Ctx) (ps : List (Part × Nat)) (data : List Byte) (o : Order) (stream : Bool)
    (live : Nat → Bool) : c.withStore ps data o stream live = { c with
      mq := { c.mq with
        next := c.mq.next + ps.length
        iq := c.mq.iq ++ numbered c.mq.next ps fun k p => { p.1.op o
          (.store (((data.drop p.2).take p.1.len).mapIdx fun k b => if live (p.2 + k) then some b else none)) k with
          stream := stream } }
      status := .running
      meters := (c.charge (metered live ps)).meters } := by
  unfold Ctx.withStore Ctx.pushStore partBytes
  rw [List.map_map, Ctx.pushAll_map]
  rfl

variable (habs : s.absentPart (ps.map Prod.fst) = none)
include habs

/-- A write of a sealed cell faults as it executes; its bytes have been counted (R337, log 24). -/
theorem storePlaced_sealed {t : Trap} (hseal : s.sealedPart (ps.map Prod.fst) = some t) (data : List Byte) (o : Order)
    (stream : Bool) (live : Nat → Bool) :
    (placed s .write ps live fun c => c.pushStore (partBytes data live ps) o stream) = .next
      (State.trap { s with th := { s.th with meters := (s.th.charge (metered live ps)).meters } } t) := by
  obtain ⟨cells, combs, hu⟩ := s.tlbTouch_mapTh (fun c => c.withStore ps data o stream live) s.th (ps.map Prod.fst)
  have hplaced : (placed s .write ps live fun c => c.pushStore (partBytes data live ps) o stream) =
      settleAccess s .write (ps.map Prod.fst)
        ((s.mapTh fun c => c.withStore ps data o stream live).tlbTouch s.th (ps.map Prod.fst)) := by
    dsimp only [placed]
    rw [habs]
    rfl
  rw [hplaced, hu, settleAccess, if_pos rfl, hseal, Ctx.withStore_eq]
  rfl

theorem storePlaced_places (hseal : s.sealedPart (ps.map Prod.fst) = none) (data : List Byte) (o : Order) (stream : Bool)
    (live : Nat → Bool) :
    goesTo (placed s .write ps live fun c => c.pushStore (partBytes data live ps) o stream) fun t =>
      placesStore s t ps data o stream live := by
  obtain ⟨cells, combs, hu⟩ := s.tlbTouch_mapTh (fun c => c.withStore ps data o stream live) s.th (ps.map Prod.fst)
  have hplaced : (placed s .write ps live fun c => c.pushStore (partBytes data live ps) o stream) =
      settleAccess s .write (ps.map Prod.fst)
        ((s.mapTh fun c => c.withStore ps data o stream live).tlbTouch s.th (ps.map Prod.fst)) := by
    dsimp only [placed]
    rw [habs]
    rfl
  rw [hplaced, hu, settleAccess, if_pos rfl, hseal, Ctx.withStore_eq]
  refine ⟨_, rfl, fun _ => rfl, rfl, advances_retire rfl rfl rfl rfl, ?_⟩
  refine (Ctx.retire_parts _).trans ?_
  simp only [Bool.false_eq_true, if_false, List.append_nil]
  rfl

end

/-- An instruction is the form that its checks guard: it goes on when it does not execute, takes the first fault of its
checks, and otherwise does as `f` says. -/
structure Guarded (s : State) (i : Instr) (f : MemForm) (run : Out) : Prop where
  off : f.on = false → exec i s = .next s.retire
  fault : ∀ t, f.on = true → firstFault f.checks = some t → exec i s = faultOut s t
  run : f.on = true → firstFault f.checks = none → exec i s = run

theorem Guarded.checked_load {s : State} {i : Instr} {f : MemForm} {dest : Dest} {len : Nat} {o : Order}
    (hg : Guarded s i f (loadAccesses s f.stack f.accs f.live dest len o)) :
    checked s i f .read fun ps held t => placesLoad s t ps dest len o f.live held := by
  refine ⟨hg.off, hg.fault, fun t hon hchk hplace => ?_, fun ps hon hchk hplace => ?_⟩
  · rw [hg.run hon hchk, loadAccesses, hplace]
    rfl
  · have hrun : exec i s = placed s .read ps f.live fun c => c.pushLoad dest len ps o := by
      rw [hg.run hon hchk, loadAccesses, hplace]
    refine ⟨fun k habs => hrun.trans (placed_absent habs _ _ _), fun habs => ⟨fun t h => (nomatch h), fun _ => ?_⟩⟩
    rw [hrun]
    simpa using placesLoad_placed habs dest len o f.live

theorem Guarded.checked_store {s : State} {i : Instr} {f : MemForm} {data : List Byte} {o : Order} {stream : Bool}
    (hg : Guarded s i f (storeAccesses s f.stack f.accs f.live data o stream)) :
    checked s i f .write fun ps _ t => placesStore s t ps data o stream f.live := by
  refine ⟨hg.off, hg.fault, fun t hon hchk hplace => ?_, fun ps hon hchk hplace => ?_⟩
  · rw [hg.run hon hchk, storeAccesses, hplace]
    rfl
  · have hrun : exec i s = placed s .write ps f.live fun c => c.pushStore (partBytes data f.live ps) o stream := by
      rw [hg.run hon hchk, storeAccesses, hplace]
    refine ⟨fun k habs => hrun.trans (placed_absent habs _ _ _), fun habs => ⟨fun t _ hseal => ?_, fun hseal => ?_⟩⟩
    · exact hrun.trans (storePlaced_sealed habs hseal data o stream f.live)
    · rw [hrun]
      exact storePlaced_places habs (hseal rfl) data o stream f.live

/-! ### Forms -/

section
variable {s : State} {i : Instr} {h : Hdr} {run : State → Out} {stack : Bool} {accs : List Access} {live : Nat → Bool}

/-- A form that its predicate guards whole. -/
theorem guarded_onPred {checks : List (Option Trap)} {o : Out} (hi : exec i s = onPred h run s)
    (hfault : ∀ t, firstFault checks = some t → run s = faultOut s t) (hrun : firstFault checks = none → run s = o) :
    Guarded s i ⟨predOn h s.th.regs, checks, stack, accs, live⟩ o where
  off hp := hi.trans (onPred_off hp)
  fault t hp ht := (hi.trans (onPred_on hp)).trans (hfault t ht)
  run hp ht := (hi.trans (onPred_on hp)).trans (hrun ht)

/-- A lane form, which checks nothing before its addresses. -/
theorem guarded_onLanes {ty : Ty} {o : Out} (hi : exec i s = onLanes h ty run s) (hrun : run s = o) :
    Guarded s i ⟨anyLane h s ty, [], stack, accs, live⟩ o where
  off ha := hi.trans (onLanes_off ha run)
  fault _ _ ht := nomatch ht
  run ha _ := (hi.trans (onLanes_on ha run)).trans hrun

end

/-- The checks of a synchronising form are those of its scope and its alignment. -/
theorem scopeFault_eq (s : State) (f : BitVec 6) : scopeFault s.th f = badScope s f := rfl
theorem alignFault_eq (ea : Word) (n : Nat) : alignFault ea n = misaligned ea n := rfl

theorem exec_ld (h : Hdr) (o : MemLd) (s : State) :
    exec (.ld h o) s = onPred h (fun s => loadG o.ty o.d o.a (addr s o.a o.disp) .plain s) s := rfl
theorem exec_ldr (h : Hdr) (o : MemLd) (s : State) :
    exec (.ldr h o) s = onPred h (fun s => loadG o.ty o.d o.a (addr s o.a o.disp) .plain s) s := rfl
theorem exec_ldAcq (h : Hdr) (o : MemLdS) (s : State) : exec (.ldAcq h o) s = execLdAcq h o s := rfl
theorem exec_ldv (h : Hdr) (o : MemLdV) (s : State) : exec (.ldv h o) s = loadV h o s := rfl
theorem exec_ldrv (h : Hdr) (o : MemLdV) (s : State) : exec (.ldrv h o) s = loadV h o s := rfl

theorem exec_ldvb (h : Hdr) (o : MemLdV) (s : State) : exec (.ldvb h o) s = onLanes h o.ty (fun s =>
    loadAccesses s (isSp o.a.r) [⟨addr s o.a o.disp, o.ty.bytes, 0⟩] allLive
      (.vb o.d o.ty (predMask h s.th.regs) (s.th.regs.rv o.d)) o.ty.bytes .plain) s := rfl
theorem exec_vgather (h : Hdr) (o : Gather) (s : State) : exec (.vgather h o) s = onLanes h o.ty (fun s =>
    loadAccesses s (isSp o.a.r)
      (gatherAccesses s.th.regs o.ty (addr s o.a o.disp) o.idx (activeLanes h s.th.regs o.ty))
      allLive (.v o.d o.ty (predMask h s.th.regs) (s.th.regs.rv o.d)) 32 .plain) s := rfl

theorem exec_st (h : Hdr) (o : MemSt) (s : State) :
    exec (.st h o) s = onPred h (fun s => storeG o.ty o.a (addr s o.a o.disp) o.b .plain false s) s := rfl
theorem exec_sts (h : Hdr) (o : MemSt) (s : State) :
    exec (.sts h o) s = onPred h (fun s => storeG o.ty o.a (addr s o.a o.disp) o.b .plain true s) s := rfl
theorem exec_stRel (h : Hdr) (o : MemStS) (s : State) : exec (.stRel h o) s = execStRel h o s := rfl
theorem exec_stv (h : Hdr) (o : MemStV) (s : State) : exec (.stv h o) s = storeV h o false s := rfl
theorem exec_stsv (h : Hdr) (o : MemStV) (s : State) : exec (.stsv h o) s = storeV h o true s := rfl
theorem exec_vscatter (h : Hdr) (o : Scatter) (s : State) : exec (.vscatter h o) s = onLanes h o.ty (fun s =>
    storeAccesses s (isSp o.a.r)
      (gatherAccesses s.th.regs o.ty (addr s o.a o.disp) o.idx (activeLanes h s.th.regs o.ty))
      allLive (vBytes (s.th.regs.rv o.data)) .plain false) s := rfl

/-- The load forms, each with the checks that guard it. -/
theorem loadForm_guarded {s : State} {i : Instr} {f : MemForm × Dest × Nat × Order} (hf : loadForm s i = some f) :
    Guarded s i f.1 (loadAccesses s f.1.stack f.1.accs f.1.live f.2.1 f.2.2.1 f.2.2.2) := by
  unfold loadForm at hf
  split at hf
  · obtain rfl := Option.some.inj hf
    refine guarded_onPred (exec_ld _ _ s) (fun _ ht => nomatch ht) fun _ => rfl
  · obtain rfl := Option.some.inj hf
    exact guarded_onPred (exec_ldr _ _ s) (fun _ ht => nomatch ht) fun _ => rfl
  · obtain rfl := Option.some.inj hf
    refine guarded_onPred (exec_ldAcq _ _ s) (fun t ht => ?_) fun ht => ?_
    · dsimp only
      rw [scopeFault_eq, effAddr_th, alignFault_eq, ht]
    · dsimp only
      rw [scopeFault_eq, effAddr_th, alignFault_eq, ht]
      rfl
  · obtain rfl := Option.some.inj hf
    refine guarded_onLanes (exec_ldv _ _ s) ?_
    dsimp only
    rw [laneAccesses_eq, liveLane_eq]
    rfl
  · obtain rfl := Option.some.inj hf
    refine guarded_onLanes (exec_ldrv _ _ s) ?_
    dsimp only
    rw [laneAccesses_eq, liveLane_eq]
    rfl
  · obtain rfl := Option.some.inj hf
    exact guarded_onLanes (exec_ldvb _ _ s) rfl
  · obtain rfl := Option.some.inj hf
    refine guarded_onLanes (exec_vgather _ _ s) ?_
    dsimp only
    rw [gatherAccesses_eq]
    rfl
  · exact nomatch hf

/-- The store forms, each with the checks that guard it. -/
theorem storeForm_guarded {s : State} {i : Instr} {f : MemForm × List Byte × Order × Bool} (hf : storeForm s i = some f) :
    Guarded s i f.1 (storeAccesses s f.1.stack f.1.accs f.1.live f.2.1 f.2.2.1 f.2.2.2) := by
  unfold storeForm at hf
  split at hf
  · obtain rfl := Option.some.inj hf
    exact guarded_onPred (exec_st _ _ s) (fun _ ht => nomatch ht) fun _ => rfl
  · obtain rfl := Option.some.inj hf
    exact guarded_onPred (exec_sts _ _ s) (fun _ ht => nomatch ht) fun _ => rfl
  · obtain rfl := Option.some.inj hf
    refine guarded_onPred (exec_stRel _ _ s) (fun t ht => ?_) fun ht => ?_
    · dsimp only
      rw [scopeFault_eq, effAddr_th, alignFault_eq, ht]
    · dsimp only
      rw [scopeFault_eq, effAddr_th, alignFault_eq, ht]
      rfl
  · obtain rfl := Option.some.inj hf
    refine guarded_onLanes (exec_stv _ _ s) ?_
    dsimp only
    rw [laneAccesses_eq, liveLane_eq, vBytes_lanes]
    rfl
  · obtain rfl := Option.some.inj hf
    refine guarded_onLanes (exec_stsv _ _ s) ?_
    dsimp only
    rw [laneAccesses_eq, liveLane_eq, vBytes_lanes]
    rfl
  · obtain rfl := Option.some.inj hf
    refine guarded_onLanes (exec_vscatter _ _ s) ?_
    dsimp only
    rw [gatherAccesses_eq]
    rfl
  · exact nomatch hf

/-- Settles O29: every form is guarded by its checks, and what passes them is placed. -/
theorem loadsAndStores : Obligations.LoadsAndStores :=
  ⟨fun _ _ _ _ hf => (loadForm_guarded hf).checked_load, fun _ _ _ _ hf => (storeForm_guarded hf).checked_store⟩

end Sys2Proof.Machine
end

section
/-!
Two-address operations (R96, R262, R271): their checks, and the one message that they send.
-/
namespace Sys2Proof.Machine
open Sys2Proof.Claims

/-! ### Words that overlap -/

theorem overlaps_apart {n a b : Nat} (h : apart n a b) : overlaps n a b = false :=
  decide_eq_false fun ⟨hab, hba⟩ => by obtain h | h := h <;> omega

theorem overlaps_not_apart {n a b : Nat} (h : ¬ apart n a b) : overlaps n a b = true := by
  obtain ⟨hab, hba⟩ := not_or.1 h
  exact decide_eq_true ⟨by omega, by omega⟩

/-- Parts that do not lie at a host port are allowed an atomic (R262). -/
theorem pairHome_none {x y : Word} {p q : Part} (h : noHost [p, q] = true) : pairHome x y p q = none := by
  obtain ⟨hp, hq⟩ : noHost [p] = true ∧ noHost [q] = true := by simpa [noHost] using h
  unfold pairHome
  rw [atomicHome_eq, atomicHome_eq, hp, hq]
  split <;> rfl

/-! ### Placing operations -/

/-- A context whose operations have entered its queue and its meters goes on, or stays where it stands until what it has asked
for has come (R70). -/
theorem places_settled {s : State} {f : Ctx → Ctx} {pend : List Pend} {ops : List MemOp} {next : Nat} {ps : List Part}
    (hf : f s.th = { s.th with
      pend := s.th.pend ++ pend, mq := { s.th.mq with next := next, iq := s.th.mq.iq ++ ops }, status := .running,
      meters := (s.th.charge ps).meters }) (parts : List Part) (held : Bool) :
    goesTo (if held then parkOut (((s.mapTh f).tlbTouch s.th parts).mapTh Ctx.holdLast) .drain
      else .next (((s.mapTh f).tlbTouch s.th parts).mapTh Ctx.retire)) fun t => places s t pend ops next ps held := by
  obtain ⟨cells, combs, hu⟩ := s.tlbTouch_mapTh f s.th parts
  rw [hu, hf]
  cases held with
  | true => exact ⟨_, rfl, fun _ => rfl, rfl, ⟨rfl, rfl, rfl⟩, rfl⟩
  | false => exact ⟨_, rfl, fun _ => rfl, rfl, advances_retire rfl rfl rfl rfl, Ctx.retire_parts _⟩

/-- A context that runs on with one operation on its way, whose result it expects. -/
def Ctx.withAsked (dest : Dest) (len : Nat) (ps : List Part) (g : Nat → Nat → MemOp) (c : Ctx) : Ctx :=
  (((c.expect dest 1 len).2.push (g (c.expect dest 1 len).1)).charge ps).run

theorem Ctx.withAsked_eq (dest : Dest) (len : Nat) (ps : List Part) (g : Nat → Nat → MemOp) (c : Ctx) :
    c.withAsked dest len ps g = { c with
      pend := c.pend ++ [⟨c.mq.next, c.pc, dest, 1, List.replicate len 0, false⟩]
      mq := { c.mq with next := c.mq.next + 2, iq := c.mq.iq ++ [g c.mq.next (c.mq.next + 1)] }
      status := .running
      meters := (c.charge ps).meters } := by
  unfold Ctx.withAsked Ctx.run Ctx.push Ctx.expect Ctx.fresh Ctx.charge
  rfl

/-- Every byte of a scalar access is counted. -/
theorem meterPart_every (p : Part × Nat) : meterPart allLive p = p.1 := by
  have hlen : ((List.range p.1.len).filter fun k => allLive (p.2 + k)).length = p.1.len := by simp [allLive]
  rw [meterPart, hlen]

/-! ### Two-address operations (R96, R262, R271) -/

/-- The part of the lower physical address, whose home the message goes to first, and the other one. -/
def lowPart (p q : Part) : Part := if p.pa < q.pa then p else q
def highPart (p q : Part) : Part := if p.pa < q.pa then q else p

/-- The message of a two-address operation, with its acquire and release order. -/
def pairMessage (c : Ctx) (sc : BitVec 6) (act : Nat → Nat → Word → Nat → Act) (p q : Part) (n seq : Nat) : MemOp :=
  { (lowPart p q).op ⟨true, some (scopeValue c sc)⟩ (act p.pa q.pa (BitVec.ofNat 64 (highPart p q).va) n) seq with
    dirt := (lowPart p q).dirt ++ (highPart p q).dirt }

section
variable {h : Hdr} {s : State} (hp : predOn h s.th.regs = true)
  (hd : (s.isFree s.th && decide (1 ≤ detLevel s.th)) = false) {t : Ty} {a : GReg} {a2 sc : BitVec 6} (dest : Dest) (len : Nat)
  (act : Nat → Nat → Word → Nat → Act)
include hp hd

theorem pairOp_fault {f : Trap} (hf : firstFault [scopeFault s.th sc, alignFault (s.th.regs.gr a) t.bytes,
      alignFault (s.th.regs.rg a2) t.bytes, if overlaps t.bytes (s.th.regs.gr a).toNat (s.th.regs.rg a2).toNat then
        some ⟨cPairOverlap, 0, s.th.regs.gr a⟩ else none] = some f) :
    pairOp h t a a2 sc dest len act s = faultOut s f := by
  rw [pairOp, onDet_pass hd, onPred_on hp]
  dsimp only
  rw [hf]

theorem pairOp_places (hsc : scopeOk (scopeValue s.th sc) = true) (hx : (s.th.regs.gr a).toNat % t.bytes = 0)
    (hy : (s.th.regs.rg a2).toNat % t.bytes = 0) (hxy : apart t.bytes (s.th.regs.gr a).toNat (s.th.regs.rg a2).toNat)
    {p q : Part} (hplace : s.placePair t.bytes (s.th.regs.gr a) (s.th.regs.rg a2) (a.r == 62) (a2 == 62) = .ok (p, q))
    (hpq : apart t.bytes p.pa q.pa) (hhost : noHost [p, q] = true) (habs : s.absentPart [p, q] = none) :
    goesTo (pairOp h t a a2 sc dest len act s) fun u =>
      places s u [⟨s.th.mq.next, s.th.pc, dest, 1, List.replicate len 0, false⟩]
        [⟨s.th.mq.next + 1, (lowPart p q).home, (lowPart p q).pa, BitVec.ofNat 64 (lowPart p q).va,
          ⟨true, some (scopeValue s.th sc)⟩, act p.pa q.pa (BitVec.ofNat 64 (highPart p q).va) s.th.mq.next, false,
          cleanEntry (lowPart p q) ++ cleanEntry (highPart p q)⟩] (s.th.mq.next + 2) [p, q] (s.badParts [p, q]) := by
  have hmeter : [(p, 0), (q, 0)].map (meterPart allLive) = [p, q] := by simp only [List.map, meterPart_every]
  rw [pairOp, onDet_pass hd, onPred_on hp]
  dsimp only
  rw [scopeFault_ok hsc, alignFault_ok hx, alignFault_ok hy, overlaps_apart hxy]
  simp only [firstFault, isSp, hplace, overlaps_apart hpq, pairHome_none hhost, Bool.false_eq_true, if_false]
  dsimp only [placed]
  rw [hmeter]
  simp only [List.map, habs]
  rw [settleAccess_read]
  exact places_settled (Ctx.withAsked_eq dest len [p, q] (pairMessage s.th sc act p q) s.th) [p, q] _

end

/-- The checks of a two-address operation, and the message that passes them. -/
theorem pairOp_checked {h : Hdr} {s : State} (hp : predOn h s.th.regs = true)
    (hd : (s.isFree s.th && decide (1 ≤ detLevel s.th)) = false) {i : Instr} {t : Ty} {a : GReg} {a2 sc : BitVec 6} {dest : Dest}
    {len : Nat} {act : Nat → Nat → Word → Nat → Act} (hi : exec i s = pairOp h t a a2 sc dest len act s) :
    let x := s.th.regs.gr a
    let y := s.th.regs.rg a2
    (scopeOk (scopeValue s.th sc) = false → faults s (exec i s) 0x16 0 (scopeValue s.th sc)) ∧
    (scopeOk (scopeValue s.th sc) = true → x.toNat % t.bytes ≠ 0 → faults s (exec i s) 0x14 0 x) ∧
    (scopeOk (scopeValue s.th sc) = true → x.toNat % t.bytes = 0 → y.toNat % t.bytes ≠ 0 →
      faults s (exec i s) 0x14 0 y) ∧
    (scopeOk (scopeValue s.th sc) = true → x.toNat % t.bytes = 0 → y.toNat % t.bytes = 0 →
      (¬ apart t.bytes x.toNat y.toNat → faults s (exec i s) 0x17 0 x) ∧
      (apart t.bytes x.toNat y.toNat → ∀ p q, s.placePair t.bytes x y (a.r == 62) (a2 == 62) = .ok (p, q) →
        apart t.bytes p.pa q.pa → noHost [p, q] = true → s.absentPart [p, q] = none →
        goesTo (exec i s) fun u =>
          let n := s.th.mq.next
          let low := if p.pa < q.pa then p else q
          let high := if p.pa < q.pa then q else p
          places s u [⟨n, s.th.pc, dest, 1, List.replicate len 0, false⟩]
            [⟨n + 1, low.home, low.pa, BitVec.ofNat 64 low.va, ⟨true, some (scopeValue s.th sc)⟩,
              act p.pa q.pa (BitVec.ofNat 64 high.va) n, false, cleanEntry low ++ cleanEntry high⟩] (n + 2) [p, q]
            (s.badParts [p, q]))) := by
  intro x y
  rw [hi]
  refine ⟨fun hsc => faults_of_eq (pairOp_fault hp hd dest len act ?_), fun hsc hx => faults_of_eq (pairOp_fault hp hd dest len act ?_),
    fun hsc hx hy => faults_of_eq (pairOp_fault hp hd dest len act ?_), fun hsc hx hy =>
    ⟨fun hxy => faults_of_eq (pairOp_fault hp hd dest len act ?_), fun hxy p q hplace hpq hhost habs =>
      pairOp_places hp hd dest len act hsc hx hy hxy hplace hpq hhost habs⟩⟩
  · rw [scopeFault_bad hsc]
    rfl
  · rw [scopeFault_ok hsc, alignFault_bad hx]
    rfl
  · rw [scopeFault_ok hsc, alignFault_ok hx, alignFault_bad hy]
    rfl
  · rw [scopeFault_ok hsc, alignFault_ok hx, alignFault_ok hy, overlaps_not_apart hxy]
    rfl

theorem low_word (x : Word) : x &&& 0xFFFFFFFF = (x.extractLsb' 0 32).zeroExtend 64 := by
  refine BitVec.eq_of_toNat_eq ?_
  have hand : x.toNat &&& 4294967295 = x.toNat % 4294967296 := Nat.and_two_pow_sub_one_eq_mod x.toNat 32
  simp [hand]
  omega

theorem high_word (x : Word) : x >>> 32 = (x.extractLsb' 32 32).zeroExtend 64 := by
  refine BitVec.eq_of_toNat_eq ?_
  have hx := x.isLt
  simp [Nat.shiftRight_eq_div_pow]
  omega

/-- The words of A are the low ones (R271). -/
theorem pairWords_eq (op : RmwOp) (dcas : Bool) (h : Hdr) (o : Amo2) (s : State) : pairWords op dcas h o s =
    pairOp h o.ty o.a o.a2 o.s (.pair o.d) 8 (fun pa qa va n => .pair op dcas false o.ty pa qa va
      (((s.th.regs.gs o.b).extractLsb' 0 32).zeroExtend 64) (((s.th.regs.gs o.b).extractLsb' 32 32).zeroExtend 64)
      (((s.th.regs.rg o.d).extractLsb' 0 32).zeroExtend 64) (((s.th.regs.rg o.d).extractLsb' 32 32).zeroExtend 64)
      false 0 n) s := by
  unfold pairWords
  dsimp only
  simp only [low_word, high_word]

theorem exec_pairs {p : (Hdr → Amo2 → Instr) × RmwOp × Bool} (hp : p ∈ pairs) (h : Hdr) (o : Amo2) (s : State) :
    exec (p.1 h o) s = pairWords p.2.1 p.2.2 h o s := by
  simp only [pairs, List.mem_cons, List.not_mem_nil, or_false] at hp
  obtain rfl | rfl | rfl | rfl | rfl | rfl := hp
  all_goals rfl

/-- `amove` takes B and leaves 0 there. -/
theorem exec_amove (h : Hdr) (o : Amove) (s : State) : exec (.amove h o) s =
    pairOp h o.ty o.a o.a2 o.s (.g o.d o.ty) o.ty.bytes
      (fun pa qa va n => .pair .swap false true o.ty pa qa va 0 0 0 0 false 0 n) s := rfl

/-- Settles O32: the forms differ in their words and their result alone. -/
theorem pairOperations : Obligations.PairOperations := by
  intro h s hp hd run
  refine ⟨fun p hmem o _ => ?_, fun o _ => pairOp_checked hp hd (exec_amove h o s)⟩
  exact pairOp_checked hp hd ((exec_pairs hmem h o s).trans (pairWords_eq _ _ h o s))

end Sys2Proof.Machine
end

section
/-!
Operations under way (R85, R86, R93): issue, arrival and the flush of a write-combining line.
-/
namespace Sys2Proof.Machine
open Sys2Proof.Claims

/-! ### The dirty log leaves the executing context (R348) -/

theorem State.postRecord_th {s t : State} {k : CombId} {trans : Bool} {ws : List Word} (h : s.postRecord k trans ws = some t) :
    t.th = s.th := by
  unfold State.postRecord at h
  generalize (if trans then (s.combRec k).trans else (s.combRec k).sup) = r at h
  by_cases hr : 256 ≤ r.fqcount
  · simp [hr] at h
  · simp only [if_neg hr, Option.some.injEq] at h
    have hrun : ∀ pa bs, (s.writeRun pa bs).th = s.th := fun pa bs => State.writeParts_keeps (fun _ _ _ => rfl) _ _ _
    rw [← h, State.setService_th, hrun]

theorem State.logDirty_th {s t : State} {c : Ctx} {i : CellId} {e : TlbEntry} (h : s.logDirty c i e = some t) : t.th = s.th := by
  unfold State.logDirty at h
  dsimp only at h
  split at h
  · exact nomatch h
  · split at h
    · exact (State.postRecord_th h).trans rfl
    · rw [← Option.some.inj h]
      rfl

theorem State.dirty_th {t : State} {c : Ctx} {es : List TlbEntry} {s : State} (h : State.dirty c es s = some t) : t.th = s.th := by
  induction es generalizing s with
  | nil => exact Option.some.inj h ▸ rfl
  | cons e es ih =>
    unfold State.dirty at h
    split at h
    · exact Option.some.inj h ▸ rfl
    · split at h
      · contradiction
      · next u hu =>
        refine (ih h).trans ?_
        split at hu
        · exact State.logDirty_th hu
        · exact Option.some.inj hu ▸ rfl

/-! ### Queues of the network -/

/-- The first message of a list that a condition picks. -/
theorem find?_first {α : Type} {p : α → Bool} {before after : List α} {x : α} (hx : p x = true)
    (hb : ∀ y ∈ before, p y = false) : (before ++ x :: after).find? p = some x := by
  rw [List.find?_append, List.find?_eq_none.2 fun y hy => by simp [hb y hy]]
  simp [hx]

theorem dropFirst_first {α : Type} {p : α → Bool} {before after : List α} {x : α} (hx : p x = true)
    (hb : ∀ y ∈ before, p y = false) : dropFirst p (before ++ x :: after) = before ++ after := by
  induction before with
  | nil => simp [dropFirst, hx]
  | cons y ys ih =>
    have hy : p y = false := hb y (by simp)
    simp [dropFirst, hy, ih fun z hz => hb z (by simp [hz])]

theorem exec_evArrival (src : Source) (h : Home) (s : State) : exec (.evArrival src h) s = execEvArrival src h s := rfl

/-- The oldest message on a path arrives. -/
theorem arrivalStep : ArrivalStep := by
  intro s src h f before after hch hf hb hstop hroute
  have hfind : s.net.ch.find? (goesFrom src h) = some f := hch ▸ find?_first hf hb
  have hdrop : dropFirst (goesFrom src h) s.net.ch = before ++ after := hch ▸ dropFirst_first hf hb
  unfold goesFrom at hfind hdrop
  rw [exec_evArrival, execEvArrival]
  dsimp only
  rw [hstop, hroute]
  simp only [Bool.not_true, Bool.or_self, Bool.false_eq_true, if_false, hfind, hdrop]

/-! ### Issue (R85, R93, R348) -/

theorem exec_evIssue (cid : CtxId) (s : State) : exec (.evIssue cid) s = execEvIssue cid s := rfl

section
variable {s : State} {cid : CtxId} {c : Ctx} {o : MemOp} {rest : List MemOp} (hc : s.ctx? cid = some c)
  (hiq : c.mq.iq = o :: rest) (hready : (!c.resident || c.unplaced || s.ctxStopped cid || !c.mayIssue o) = false)
include hc hiq hready

/-- An operation that is no streaming store travels, once its pages are dirtied. -/
theorem issue_travels {u : State} (hstream : o.stream = false) (hu : s.dirtyOp c o = some u) :
    exec (.evIssue cid) s = .next
      (let v := u.updCtx cid fun c => c.issued o
       { v with net := { v.net with ch := v.net.ch ++ [⟨.ctx cid, { o with act := c.carry o }⟩] } }) := by
  rw [exec_evIssue, execEvIssue, hc]
  dsimp only
  rw [hiq]
  dsimp only
  rw [hready, hstream, hu]
  rfl

/-- A streaming store joins its write-combining line. -/
theorem issue_combines {bytes : List (Option Byte)} (hstream : o.stream = true) (hact : o.act = .store bytes) :
    exec (.evIssue cid) s = .next
      (s.updCtx cid fun c => { c.combine o bytes with mq := { (c.combine o bytes).mq with iq := c.mq.iq.drop 1 } }) := by
  rw [exec_evIssue, execEvIssue, hc]
  dsimp only
  rw [hiq]
  dsimp only
  rw [hready, hstream, hact]
  rfl

end

theorem issueStep : IssueStep := by
  intro s cid c o rest hc hiq hres hmay hplaced hstop
  have hready : (!c.resident || c.unplaced || s.ctxStopped cid || !c.mayIssue o) = false := by
    simp [hres, hmay, hplaced, hstop]
  exact ⟨fun hstream u hu => issue_travels hc hiq hready hstream hu,
    fun bytes hstream hact => ⟨_, issue_combines hc hiq hready hstream hact, memoryKept_updCtx s cid _, rfl⟩⟩

/-! ### Flush (R93, R101) -/

theorem exec_evWcbFlush (cid : CtxId) (line : Nat) (s : State) : exec (.evWcbFlush cid line) s = execEvWcbFlush cid line s := rfl

@[simp] theorem MemQ.useEp_wcb (q : MemQ) (h : Home) : (q.useEp h).wcb = q.wcb := by
  unfold MemQ.useEp
  split <;> simp [apply_ite MemQ.wcb]

@[simp] theorem MemQ.useEp_outs (q : MemQ) (h : Home) : (q.useEp h).outs = q.outs := by
  unfold MemQ.useEp
  split <;> simp [apply_ite MemQ.outs]

/-- The context after a line has left its write-combining buffer. -/
def Ctx.flushed (l : WcbLine) (c : Ctx) : Ctx :=
  let q : MemQ := { c.mq with
    wcb := c.mq.wcb.filter (fun x => x.line != l.line), outs := c.mq.outs ++ [⟨l.seq, l.home, false, false⟩] }
  { c with mq := q.useEp l.home }

theorem flush_travels {s u : State} {cid : CtxId} {c : Ctx} {l : WcbLine} (hc : s.ctx? cid = some c)
    (hl : c.mq.wcb.find? (fun x => x.line == l.line) = some l) (hstop : s.ctxStopped cid = false)
    (hu : State.dirty c l.dirt s = some u) :
    exec (.evWcbFlush cid l.line) s = .next
      (let v := u.updCtx cid (Ctx.flushed l)
       { v with net := { v.net with
           ch := v.net.ch ++ [⟨.wcb cid, ⟨l.seq, l.home, l.line * 64, l.va, ⟨false, none⟩, .store l.bytes, false, []⟩⟩] } }) := by
  rw [exec_evWcbFlush, execEvWcbFlush, hc]
  dsimp only
  rw [hl]
  dsimp only
  rw [hstop, if_neg Bool.false_ne_true, hu]
  rfl

theorem flushStep : FlushStep := by
  intro s cid c l u hc hl hstop hu
  refine ⟨_, flush_travels hc hl hstop hu, rfl, fun hth => ?_⟩
  have hth' : u.th.cid = cid := State.dirty_th hu ▸ hth
  have hone : (u.updCtx cid (Ctx.flushed l)).th = Ctx.flushed l u.th := if_pos hth'
  dsimp only
  rw [hone]
  exact ⟨by simp [Ctx.flushed], by simp [Ctx.flushed], rfl⟩

/-- Settles O39: each step's enabling conditions select the branch of the model that the claim states; a flush leaves the
executing context as the dirty log left it, which is unchanged. -/
theorem operationsTravel : Obligations.OperationsTravel := ⟨issueStep, arrivalStep, flushStep⟩

end Sys2Proof.Machine
end

section
/-!
Host agents and mailboxes (R100, R101, R276): inbound requests of an endpoint, and the messages that a spill ring holds.
-/
namespace Sys2Proof.Machine
open Sys2Proof.Claims

/-! ### Pieces of an inbound range (R84) -/

theorem length_fixedParts (va pa len : Nat) (l : MLevel) : (fixedParts va pa len l).length = (splitLines va len).length :=
  List.length_map ..

theorem splitLines_length_pos {va len : Nat} (h : 0 < len) : 0 < (splitLines va len).length := by
  simp only [splitLines, List.length_map, List.length_range]
  omega

/-- A piece of a range starts in it. -/
theorem le_of_mem_splitLines {va len : Nat} {p : Nat × Nat} (h : p ∈ splitLines va len) : va ≤ p.1 := by
  obtain ⟨i, -, rfl⟩ := List.mem_map.1 h
  dsimp only
  split <;> omega

/-! ### Reads under a number -/

theorem State.io?_source {s : State} {src : Source} {id : Nat} {x : Io} (h : s.io? src id = some x) : x.src = src ∧ x.id = id := by
  have hx := List.find?_some (p := fun y : Io => y.src == src && y.id == id) h
  simpa using hx

theorem State.io?_ioDrop (s : State) (src : Source) (id : Nat) : (s.ioDrop src id).io? src id = none := by
  refine List.find?_eq_none.2 fun y hy => ?_
  have hother := (List.mem_filter.1 hy).2
  simp only [Bool.not_eq_true'] at hother
  simp [hother]

/-- The accesses under a number to which reads are added: none, when nothing stands under it. -/
def State.ioBase (s : State) (src : Source) (id : Nat) : Io := (s.io? src id).getD ⟨src, id, [], 0, 0, none⟩

theorem State.ioBase_source (s : State) (src : Source) (id : Nat) : (s.ioBase src id).src = src ∧ (s.ioBase src id).id = id := by
  unfold State.ioBase
  cases h : s.io? src id with
  | none => exact ⟨rfl, rfl⟩
  | some x => exact State.io?_source h

theorem State.io?_ioSendReads (s : State) (src : Source) (id len : Nat) (ps : List (Part × Nat)) :
    (s.ioSendReads src id len ps).io? src id =
      some { s.ioBase src id with buf := List.replicate len 0, reads := ps.length } :=
  State.io?_ioPut s (s.ioBase_source src id).1 (s.ioBase_source src id).2

/-- Reads that are sent wait for their answers, whatever stood under the number. -/
theorem State.ioRead?_ioSendReads (s : State) (src : Source) (id len : Nat) {ps : List (Part × Nat)} (h : 0 < ps.length) :
    (s.ioSendReads src id len ps).ioRead? src id = false := by
  unfold State.ioRead?
  rw [State.io?_ioSendReads]
  simpa using Nat.pos_iff_ne_zero.1 h

/-- The bytes of an inbound read are not complete while an answer is missing. -/
theorem State.hostDone_waits {s : State} {ep id : Nat} (h : s.ioRead? (.hub ep) id = false) : s.hostDone ep id = s := by
  unfold State.hostDone
  rw [h, Bool.and_false, if_neg Bool.false_ne_true]

/-- The bytes of an inbound read go to the host with its last answer. -/
theorem State.hostDone_completes {s : State} {ep id : Nat} {x : Io} (hx : s.io? (.hub ep) id = some x) (hreads : x.reads = 0)
    (hbad : x.bad = none) :
    s.hostDone ep id = ({ s with net := { s.net with
      hostReads := updateAll (fun r => r.id == id) (fun r => { r with bytes := some x.buf }) s.net.hostReads } }).ioDrop
        (.hub ep) id := by
  unfold State.hostDone State.ioRead? State.ioBad State.ioBytes
  rw [hx]
  simp [hreads, hbad]

/-- A good answer with bytes to a source that is no context. -/
theorem State.ioReply_bytes {s : State} {r : Reply} {t : Trap} {x : Io} {p : Nat × Nat} (hx : s.io? r.src r.seq = some x)
    (hbad : r.bad = false) (hp : r.pend = some p) :
    s.ioReply r t = s.ioPut { x with buf := putBytes x.buf p.2 r.bytes, reads := x.reads - 1 } := by
  unfold State.ioReply
  rw [hx]
  dsimp only
  rw [hp, hbad]
  rfl

/-! ### Inbound requests (R100) -/

theorem exec_evHostInboundWrite (ep addr : Nat) (data : List Byte) (s : State) :
    exec (.evHostInboundWrite ep addr data) s = execEvHostInboundWrite ep addr data s := rfl

theorem exec_evHostInboundRead (ep addr len : Nat) (s : State) :
    exec (.evHostInboundRead ep addr len) s = execEvHostInboundRead ep addr len s := rfl

/-- A request to an address that no ring holds is dropped. -/
theorem inbound_dropped {s : State} {ep a len : Nat} (h : s.inboundOk a len = false) :
    exec (.evHostInboundRead ep a len) s = .next s ∧
      ∀ data : List Byte, data.length = len → exec (.evHostInboundWrite ep a data) s = .next s := by
  refine ⟨?_, ?_⟩
  · rw [exec_evHostInboundRead, execEvHostInboundRead, h, Bool.not_false, Bool.or_true, if_pos rfl]
  · rintro data rfl
    rw [exec_evHostInboundWrite, execEvHostInboundWrite, h, Bool.not_false, Bool.or_true, if_pos rfl]

/-- The messages of an inbound write, one for each of its lines. -/
def hostWrites (s : State) (ep a : Nat) (data : List Byte) : List Flight :=
  (fixedParts a a data.length .hbm).mapIdx fun k p =>
    ⟨.hub ep, p.op .plain (.store (((data.drop (p.va - a)).take p.len).map some)) (s.net.hostNext + k)⟩

theorem length_hostWrites (s : State) (ep a : Nat) (data : List Byte) :
    (hostWrites s ep a data).length = (splitLines a data.length).length := by
  rw [hostWrites, List.length_mapIdx, length_fixedParts]

theorem src_of_mem_hostWrites {s : State} {ep a : Nat} {data : List Byte} {f : Flight} (h : f ∈ hostWrites s ep a data) :
    f.src = .hub ep := by
  obtain ⟨k, hk, rfl⟩ := List.mem_mapIdx.1 h
  rfl

theorem inbound_write {s : State} {ep a : Nat} {data : List Byte} (hroute : s.routeUp (.host ep) = true)
    (hquiet : s.hostQuiet ep = true) (hdata : data ≠ []) (hok : s.inboundOk a data.length = true)
    (habsent : s.absentRange a data.length = none) :
    exec (.evHostInboundWrite ep a data) s = .next { s with net := { s.net with
      ch := s.net.ch ++ hostWrites s ep a data,
      hostNext := s.net.hostNext + (fixedParts a a data.length .hbm).length } } := by
  have hgoes : (!s.routeUp (.host ep) || !s.hostQuiet ep || data.isEmpty || !s.inboundOk a data.length) = false := by
    simp [hroute, hquiet, hdata, hok]
  rw [exec_evHostInboundWrite, execEvHostInboundWrite, hgoes, if_neg Bool.false_ne_true, habsent]
  rfl

/-- The messages of an inbound read, one for each of its lines. -/
def hostLoads (s : State) (ep a len : Nat) : List Flight :=
  (splitLines a len).map fun p => ⟨.hub ep, ⟨s.net.hostNext, homeOf p.1, p.1, BitVec.ofNat 64 p.1, ⟨false, none⟩,
    .load s.net.hostNext (p.1 - a) p.2 [], false, []⟩⟩

/-- The messages of the parts of a flat range, each at its own address. -/
theorem map_loads_fixedParts (s : State) (ep a len : Nat) :
    ((withOffsets a 0 (fixedParts a a len .hbm)).map fun p =>
      (⟨.hub ep, p.1.op .plain (.load s.net.hostNext p.2 p.1.len []) s.net.hostNext⟩ : Flight)) = hostLoads s ep a len := by
  unfold withOffsets fixedParts hostLoads
  rw [List.map_map, List.map_map]
  refine List.map_congr_left fun p hp => ?_
  have hat : a + (p.1 - a) = p.1 := Nat.add_sub_cancel' (le_of_mem_splitLines hp)
  simp [Part.op, Part.home, Part.dirt, Order.plain, hat]

/-- The state in which an inbound read is noted. -/
def State.noteRead (s : State) (ep a : Nat) : State :=
  { s with net := { s.net with
      hostNext := s.net.hostNext + 1, hostReads := s.net.hostReads ++ [⟨s.net.hostNext, ep, a, none⟩] } }

theorem inbound_read {s : State} {ep a len : Nat} (hroute : s.routeUp (.host ep) = true) (hquiet : s.hostQuiet ep = true)
    (hok : s.inboundOk a len = true) (habsent : s.absentRange a len = none) (hlen : 0 < len) :
    exec (.evHostInboundRead ep a len) s = .next
      ((s.noteRead ep a).ioSendReads (.hub ep) s.net.hostNext len (withOffsets a 0 (fixedParts a a len .hbm))) := by
  have hgoes : (!s.routeUp (.host ep) || !s.hostQuiet ep || !s.inboundOk a len) = false := by simp [hroute, hquiet, hok]
  have hsome : 0 < (withOffsets a 0 (fixedParts a a len .hbm)).length := by
    rw [withOffsets, List.length_map, length_fixedParts]
    exact splitLines_length_pos hlen
  rw [exec_evHostInboundRead, execEvHostInboundRead, hgoes, if_neg Bool.false_ne_true, habsent]
  exact congrArg Host.Outcome.next (State.hostDone_waits (State.ioRead?_ioSendReads _ _ _ _ hsome))

/-! ### Answers to inbound reads (R100) -/

theorem exec_evReplyDelivery (n : Nat) (s : State) : exec (.evReplyDelivery n) s = execEvReplyDelivery n s := rfl

/-- The state in which a reply has left the network. -/
def State.takeReply (s : State) (n : Nat) : State := { s with net := { s.net with replies := dropAt n s.net.replies } }

theorem delivered_reply {s : State} {n : Nat} {r : Reply} (hr : s.net.replies[n]? = some r)
    (hstop : s.sourceStopped r.src = false) : (s.net.replies[n]?.filter fun r => !s.sourceStopped r.src) = some r := by
  rw [hr]
  simp [hstop]

theorem reply_hub {s : State} {n ep : Nat} {r : Reply} (hr : s.net.replies[n]? = some r)
    (hstop : s.sourceStopped r.src = false) (hsrc : r.src = .hub ep) :
    exec (.evReplyDelivery n) s = .next (((s.takeReply n).ioReply r r.trap).hostDone ep r.seq) := by
  rw [exec_evReplyDelivery, execEvReplyDelivery, delivered_reply hr hstop]
  dsimp only
  rw [hsrc]
  rfl

/-- The last answer to an inbound read gives the host its bytes. -/
theorem inbound_read_returns {s : State} {n ep : Nat} {r : Reply} {p : Nat × Nat} {x : Io} (hr : s.net.replies[n]? = some r)
    (hstop : s.sourceStopped r.src = false) (hsrc : r.src = .hub ep) (hbad : r.bad = false) (hp : r.pend = some p)
    (hx : s.io? (.hub ep) r.seq = some x) (hreads : x.reads = 1) (hxbad : x.bad = none) :
    goesTo (exec (.evReplyDelivery n) s) fun t => onlyNet s t ∧ memoryKept s t ∧ t.io? (.hub ep) r.seq = none ∧
      t.net.hostReads = s.net.hostReads.map fun h =>
        if h.id == r.seq then { h with bytes := some (putBytes x.buf p.2 r.bytes) } else h := by
  obtain ⟨hxsrc, hxid⟩ := State.io?_source hx
  have hfound : (s.takeReply n).io? r.src r.seq = some x := by rw [hsrc]; exact hx
  have hlast : ∀ y : Io, y.src = .hub ep → y.id = r.seq → ((s.takeReply n).ioPut y).io? (.hub ep) r.seq = some y :=
    fun y hs hi => State.io?_ioPut _ hs hi
  refine ⟨_, reply_hub hr hstop hsrc, ?_⟩
  have hdone := State.hostDone_completes (x := { x with buf := putBytes x.buf p.2 r.bytes, reads := x.reads - 1 })
    (hlast _ hxsrc hxid) (by simp [hreads]) hxbad
  rw [State.ioReply_bytes hfound hbad hp, hdone]
  exact ⟨rfl, fun _ => rfl, State.io?_ioDrop _ _ _, rfl⟩

/-! ### Flush reads (R101) -/

theorem exec_evHostFlushRead (ep : Nat) (cid : CtxId) (s : State) : exec (.evHostFlushRead ep cid) s = execEvHostFlushRead ep cid s :=
  rfl

theorem flush_read {s : State} {ep : Nat} {cid : CtxId} {c : Ctx} (hc : s.ctx? cid = some c)
    (houts : (c.mq.outs.any fun o => o.home == .host ep) = false)
    (hunder : ∀ f ∈ s.net.ch ++ s.net.aq, f.for? = some cid → f.op.home = .host ep → f.op.act.isStore = false) :
    exec (.evHostFlushRead ep cid) s = .next
      (s.updCtx cid fun c => { c with mq := { c.mq with eps := c.mq.eps.filter fun e => e != ep } }) := by
  have hnone : ((s.net.ch ++ s.net.aq).any fun f => f.for? == some cid && f.op.home == .host ep && f.op.act.isStore) = false := by
    refine List.any_eq_false.2 fun f hf => ?_
    have hact := hunder f hf
    simp only [Bool.and_eq_true, beq_iff_eq, not_and, Bool.not_eq_true, and_imp]
    exact hact
  rw [exec_evHostFlushRead, execEvHostFlushRead, hc]
  dsimp only
  rw [houts, hnone]
  rfl

/-! ### Mailbox delivery (R276) -/

theorem exec_evMailboxDeliver (cid : CtxId) (n : Nat) (s : State) : exec (.evMailboxDeliver cid n) s = execEvMailboxDeliver cid n s :=
  rfl

/-- A data message enters a mailbox with room and wakes a context that waits for one. -/
theorem Ctx.takeMail_data {c : Ctx} {m : Mail} {bs : List Byte} (hm : m.body = .data bs) (hroom : c.mail.box.length < 32) :
    c.takeMail m = some ({ c with mail := { c.mail with
      box := c.mail.box ++ [m], received := c.mail.received + 1 } }.wakeFrom .mailbox) := by
  unfold Ctx.takeMail
  rw [hm]
  exact if_pos hroom

theorem Ctx.wakeFrom_parts (c : Ctx) (why : Park) : c.wakeFrom why = { c with status := (c.wakeFrom why).status } := by
  unfold Ctx.wakeFrom
  split <;> rfl

theorem mailbox_delivery {s : State} {cid : CtxId} {c : Ctx} {n : Nat} {m : Mail} {bs : List Byte} (hc : s.ctx? cid = some c)
    (hres : c.resident = true) (hstop : s.ctxStopped cid = false) (hn : c.mail.spill[n]? = some m) (hm : m.body = .data bs)
    (hfirst : ∀ x ∈ c.mail.spill.take n, x.sender ≠ m.sender) (hroom : c.mail.box.length < 32) :
    goesTo (exec (.evMailboxDeliver cid n) s) fun t => s.th.cid = cid →
      t.th.mail = ⟨c.mail.box ++ [m], dropAt n c.mail.spill, c.mail.spilled, c.mail.sent, c.mail.received + 1, c.mail.flag⟩ ∧
      t.th.regs = s.th.regs ∧ memoryKept s t := by
  have hgoes : (!c.resident || s.ctxStopped cid || (c.mail.spill.take n).any fun x => x.sender == m.sender) = false := by
    simpa [hres, hstop] using hfirst
  rw [exec_evMailboxDeliver, execEvMailboxDeliver, hc]
  dsimp only
  rw [hn]
  dsimp only
  rw [hgoes, if_neg Bool.false_ne_true, Ctx.takeMail_data hm hroom, Ctx.wakeFrom_parts]
  refine ⟨_, rfl, fun hth => ?_⟩
  obtain rfl : c = s.th := Option.some.inj (hc.symm.trans (hth ▸ State.ctx?_th s))
  have hone : ∀ f, (s.updCtx cid f).th = f s.th := fun f => if_pos hth
  rw [hone]
  exact ⟨rfl, rfl, memoryKept_updCtx s cid _⟩

/-- Settles O40: each clause's conditions enable its step; the parts of an inbound range are the pieces of `splitLines`, and
an inbound read returns when no answer under its number is missing. -/
theorem hostAgentsAndMailboxes : Obligations.HostAgentsAndMailboxes := by
  intro s
  refine ⟨fun ep a len h => inbound_dropped h, fun ep a data hroute hquiet hdata hok habsent => ?_,
    fun ep a len hroute hquiet hok habsent hlen => ?_,
    fun n r ep p x hr hstop hsrc hbad hp hx hreads hxbad => inbound_read_returns hr hstop hsrc hbad hp hx hreads hxbad,
    fun ep cid c hc houts hunder => flush_read hc houts hunder,
    fun cid c n m bs hc hres hstop hn hm hfirst hroom => mailbox_delivery hc hres hstop hn hm hfirst hroom⟩
  · refine ⟨_, inbound_write hroute hquiet hdata hok habsent, rfl, fun _ => rfl, ?_, ?_, fun f hf => ?_⟩
    · exact List.length_append.trans (congrArg _ (length_hostWrites s ep a data))
    · exact List.take_left
    · exact src_of_mem_hostWrites (List.drop_left (l₁ := s.net.ch) ▸ hf)
  · refine ⟨_, inbound_read hroute hquiet hok habsent hlen, rfl, fun _ => rfl, rfl, ?_⟩
    exact (State.ioSendReads_ch ..).trans (congrArg (s.net.ch ++ ·) (map_loads_fixedParts s ep a len))

end Sys2Proof.Machine
end

section
/-!
Results that arrive (R87, R193, R262, R273, R274): loaded values, replies, error answers, wakes and timeouts.
-/
namespace Sys2Proof.Machine
open Sys2Proof.Claims

/-! ### Loaded values (R193, R263) -/

theorem ofBytes_lt (bs : List Byte) : ofBytes bs < 2 ^ (8 * bs.length) := by
  induction bs with
  | nil => exact Nat.one_pos
  | cons b bs ih =>
    have hb : b.toNat < 256 := b.isLt
    have hpow : 2 ^ (8 * (bs.length + 1)) = 256 * 2 ^ (8 * bs.length) := by rw [Nat.mul_add, Nat.pow_add, Nat.mul_comm]
    rw [ofBytes, List.length_cons, hpow]
    omega

theorem bytesAt_whole (bs : List Byte) : bytesAt bs 0 bs.length = ofBytes bs := by
  rw [bytesAt, List.drop_zero, List.take_length]

theorem putBytes_whole {old new : List Byte} (h : old.length = new.length) : putBytes old 0 new = new := by
  simp [putBytes, h]

/-- A loaded value is its bytes as a number, extended by type. -/
theorem loadValue_bytes (t : Ty) {bytes : List Byte} (h : bytes.length = t.bytes) :
    loadValue t bytes = if t.signed then extByType t (ofBytes bytes) else BitVec.ofNat 64 (ofBytes bytes) := by
  have hlt : ofBytes bytes < 2 ^ t.bits := by
    rw [Ty.bits, ← h]
    exact ofBytes_lt bytes
  have hwrap : wrapNat t.bits (ofBytes bytes : Int) = ofBytes bytes := by
    rw [wrapNat, ← Int.natCast_emod, Int.toNat_natCast, Nat.mod_eq_of_lt hlt]
  have hzext : zext64 t.bits (ofBytes bytes) = BitVec.ofNat 64 (ofBytes bytes) := by rw [zext64, Nat.mod_eq_of_lt hlt]
  unfold loadValue extByType
  dsimp only
  rw [hwrap, ← h, bytesAt_whole, hzext]
  split <;> rfl

/-- A result in a g register changes registers and windows. -/
theorem Ctx.resG_parts (c : Ctx) (r : BitVec 6) (lat : Nat) (x : Word) :
    c.resG r lat x = { c with regs := (c.resG r lat x).regs, openW := (c.resG r lat x).openW } := by
  unfold Ctx.resG Ctx.result
  split
  · rfl
  · split <;> rfl

theorem Ctx.heldBy_iff (c : Ctx) (p : Pend) : c.heldBy p = true ↔ p.held = true ∧ c.status = .parked .drain ∧ c.pc = p.pc := by
  simp [Ctx.heldBy, and_assoc]

/-- A context goes on after an instruction that it waited for. -/
def Ctx.goOn (c : Ctx) : Ctx := { c.retire with status := c.onward }

/-- The last bytes of a result arrive: it lands, and an instruction that waits for it where it stands goes on. -/
theorem Ctx.deliver_whole {c : Ctx} {p : Pend} (hp : c.pend.find? (fun q => q.id == p.id) = some p) (hl : p.left = 1)
    (off : Nat) (bytes : List Byte) (now : Nat) : c.deliver p.id off bytes now =
      let d := { c with pend := c.pend.filter fun q => q.id != p.id }.land
        { p with left := 0, buf := putBytes p.buf off bytes } now
      if c.heldBy p && d.status == .parked .drain then d.goOn else d := by
  rw [Ctx.deliver, hp]
  dsimp only
  rw [hl, if_pos rfl]
  rfl

theorem Ctx.goOn_parts (c : Ctx) : c.goOn.regs = c.regs ∧ c.goOn.openW = c.openW := by
  unfold Ctx.goOn
  rw [Ctx.retire_parts]
  exact ⟨rfl, rfl⟩

/-- A loaded value lands in its register when its last byte arrives. -/
theorem loadedValueLands : LoadedValueLands := by
  intro c p now hp hl r t hdest hbuf bytes hbytes d e
  let v := loadValue t bytes
  let c' : Ctx := { c with pend := c.pend.filter fun q => q.id != p.id }
  have hd : d = if p.held = true ∧ c.status = .parked .drain ∧ c.pc = p.pc then (c'.resG r 0 v).goOn else c'.resG r 0 v := by
    have hland : c'.land { p with left := 0, buf := putBytes p.buf 0 bytes } now = c'.resG r 0 v := by
      rw [putBytes_whole (hbuf.trans hbytes.symm), Ctx.land, hdest]
    have hstatus : (c'.resG r 0 v).status = c.status := by rw [Ctx.resG_parts]
    have hheld : (c.heldBy p && (c'.resG r 0 v).status == .parked .drain) = c.heldBy p := by
      rw [hstatus, Ctx.heldBy]
      cases p.held <;> cases c.status == .parked .drain <;> simp
    refine (Ctx.deliver_whole hp hl 0 bytes now).trans ?_
    dsimp only
    rw [hland, hheld]
    simp only [Ctx.heldBy_iff]
  have he : e = c'.resG r 0 v := by
    have hparts : d.regs = (c'.resG r 0 v).regs ∧ d.openW = (c'.resG r 0 v).openW := by
      rw [hd]
      split
      · exact Ctx.goOn_parts _
      · exact ⟨rfl, rfl⟩
    rw [Ctx.resG_parts c', ← hparts.1, ← hparts.2]
  have hlands : lands c (c'.resG r 0 v) (specG r) 0 (v.zeroExtend 256) := Ctx.resG_lands c' r 0 v
  refine ⟨?_, ?_⟩
  · rw [← loadValue_bytes t hbytes]
    rw [hd]
    split
    · exact lands_retire hlands
    · exact hlands
  · rw [he]
    exact hd

/-! ### Replies to a context (R87, R42) -/

/-- A reply acknowledges its operation. -/
def Ctx.acked (r : Reply) (c : Ctx) : Ctx := { c with mq := { c.mq with outs := c.mq.outs.filter fun o => o.seq != r.seq } }

theorem keptByResults_cid (k : CtxId) : KeptByResults fun c => c.cid = k where
  sr _ _ h := h
  result c q lat x h := by
    unfold Ctx.result
    split
    · exact h
    · split <;> exact h
  mrun _ _ h := h
  trap c _ _ _ _ h := (Ctx.fault_cid _ _ _).trans h
  pend _ _ h := h
  goesOn c _ h := by rwa [Ctx.retire_parts]

theorem Ctx.endWait_cid (c : Ctx) (pend : Nat) : (c.endWait pend).cid = c.cid := by
  have hwake : ∀ (x : Ctx) why, (x.wakeFrom why).cid = x.cid := fun x why => by rw [Ctx.wakeFrom_parts]
  unfold Ctx.endWait
  split
  · split
    · rw [hwake, hwake]
    · rfl
  · rfl

theorem Ctx.deliverEnd_cid (c : Ctx) (r : Reply) (now : Nat) : (c.deliverEnd r now).cid = c.cid := by
  unfold Ctx.deliverEnd
  split
  · rfl
  · exact (Ctx.endWait_cid _ _).trans ((keptByResults_cid c.cid).deliver rfl _ _ _ _)

theorem State.ctx?_updCtx_none {s : State} {cid : CtxId} (h : s.ctx? cid = none) {f : Ctx → Ctx}
    (hf : ∀ x, (f x).cid = x.cid) : (s.updCtx cid f).ctx? cid = none := by
  have hfind : s.ctxs.find? (fun x => x.cid == cid) = none := h
  rw [State.ctx?, State.ctxs_updCtx, find?_updateAll fun x hx => by rwa [hf], hfind]
  rfl

/-- A good answer that stops no context: the operation is acknowledged, and its bytes reach their result. -/
theorem State.ctxReply_good {s : State} {cid : CtxId} {r : Reply} (hbad : r.bad = false)
    (hgoes : ∀ c, s.ctx? cid = some c → ((c.acked r).deliverEnd r s.now).fault = none) :
    s.ctxReply cid r = (s.pointReply cid r).updCtx cid fun c => (c.acked r).deliverEnd r s.now := by
  have hstands : (((s.pointReply cid r).updCtx cid fun c => (c.acked r).deliverEnd r s.now).ctx? cid).bind
      (fun c => c.fault) = none := by
    have hkeeps : ∀ c : Ctx, ((c.acked r).deliverEnd r s.now).cid = c.cid := fun c => Ctx.deliverEnd_cid _ _ _
    cases hc : s.ctx? cid with
    | none => rw [State.ctx?_updCtx_none (s := s.pointReply cid r) hc hkeeps, Option.bind_none]
    | some c => rw [State.ctx?_updCtx (s := s.pointReply cid r) hc hkeeps, Option.bind_some, hgoes c hc]
  unfold State.ctxReply
  simp only [hbad, Bool.false_eq_true, if_false, Bool.and_false, Option.any_false]
  exact if_neg fun h => Bool.false_ne_true ((congrArg Option.isSome hstands).symm.trans h)

theorem reply_ctx {s : State} {n : Nat} {r : Reply} {cid : CtxId} (hr : s.net.replies[n]? = some r)
    (hstop : s.sourceStopped r.src = false) (hsrc : r.src = .ctx cid ∨ r.src = .wcb cid) :
    exec (.evReplyDelivery n) s = .next ((s.takeReply n).ctxReply cid r) := by
  rw [exec_evReplyDelivery, execEvReplyDelivery, delivered_reply hr hstop]
  dsimp only
  rcases hsrc with h | h <;> (rw [h]; rfl)

/-! ### Error answers (R70, R103, R262, R337, R352) -/

/-- A context has stopped on the fault of an error answer: no register has changed, and no later operation issues. -/
def StoppedOn (r : Reply) (c d : Ctx) : Prop :=
  d.regs = c.regs ∧ d.status = .parked .supervisor ∧ d.sr.taddr = r.va ∧ (∀ o ∈ d.mq.iq, o.seq ≤ r.seq) ∧
    ∃ f, d.fault = some f ∧ f.addr = r.va ∧ f.posted = false ∧
      f.cause = if 2 ^ 40 ≤ r.va.toNat ∧ r.va.toNat < 2 ^ 41 then 0x0F else 0x13

theorem Reply.trap_cause (r : Reply) :
    BitVec.ofNat 16 r.trap.cause = if 2 ^ 40 ≤ r.va.toNat ∧ r.va.toNat < 2 ^ 41 then 0x0F else 0x13 := by
  unfold Reply.trap
  by_cases h : 2 ^ 40 ≤ r.va.toNat ∧ r.va.toNat < 2 ^ 41
  · rw [if_pos h]
    have hpeer : (decide (2 ^ 40 ≤ r.va.toNat) && decide (r.va.toNat < 2 ^ 41)) = true := by simpa using h
    simp only [hpeer]
    rfl
  · rw [if_neg h]
    have helse : (decide (2 ^ 40 ≤ r.va.toNat) && decide (r.va.toNat < 2 ^ 41)) = false := by simpa using h
    simp only [helse]
    rfl

theorem Ctx.errorReply_stops {c : Ctx} {r : Reply} (hpark : c.status ≠ .parked .supervisor) (hended : c.ended = false)
    (now : Nat) : StoppedOn r c (c.errorReply r now) := by
  have hon : ¬(c.status = .parked .supervisor ∨ c.ended = true) := by simp [hpark, hended]
  unfold Ctx.errorReply
  rw [if_neg hon]
  dsimp only
  refine ⟨Ctx.fault_regs _ _ _, rfl, rfl, fun o ho => ?_, _, rfl, rfl, rfl, Reply.trap_cause r⟩
  rw [Ctx.fault_mq] at ho
  exact of_decide_eq_true (List.mem_filter.1 ho).2

theorem StoppedOn.detach {r : Reply} {c d : Ctx} (h : StoppedOn r c d) : StoppedOn r c d.detach := by
  unfold Ctx.detach
  split
  · exact h
  · exact h

theorem State.ctx?_detachFollowers {s : State} {cid : CtxId} {c : Ctx} (h : s.ctx? cid = some c) (l : CtxId) :
    (s.detachFollowers l).ctx? cid = some (if c.gang.leader = some l then c.detach else c) := by
  have hcid : ∀ x : Ctx, (if x.gang.leader = some l then x.detach else x).cid = x.cid := fun x => by
    split
    · exact Ctx.detach_keeps (P := fun y => y.cid = x.cid) (fun _ _ _ h => h) rfl
    · rfl
  have hctxs : (s.detachFollowers l).ctxs = s.ctxs.map fun x => if x.gang.leader = some l then x.detach else x := rfl
  have hfind : s.ctxs.find? (fun x => x.cid == cid) = some c := h
  rw [State.ctx?, hctxs, List.find?_map]
  have hsame : ((fun x : Ctx => x.cid == cid) ∘ fun x => if x.gang.leader = some l then x.detach else x) =
      fun x => x.cid == cid := funext fun x => congrArg (· == cid) (hcid x)
  rw [hsame, hfind]
  rfl

theorem Ctx.errorReply_cid (c : Ctx) (r : Reply) (now : Nat) : (c.errorReply r now).cid = c.cid := by
  unfold Ctx.errorReply
  split
  · rfl
  · exact Ctx.fault_cid _ _ _

/-- The state in which a context has met an error answer; a wait that it has lost with later operations leaves its table. -/
def State.errorMet (s : State) (cid : CtxId) (r : Reply) : State :=
  let u := s.updCtx cid fun c => (c.acked r).errorReply r s.now
  if (u.ctx? cid).any fun c => c.wait.isNone then u.unwait cid else u

theorem State.ctxReply_error {s : State} {cid : CtxId} {r : Reply} (hbad : r.bad = true) :
    s.ctxReply cid r = if (((s.errorMet cid r).ctx? cid).bind fun c => c.fault).isSome then
      (s.errorMet cid r).detachFollowers cid else s.errorMet cid r := by
  unfold State.ctxReply State.errorMet
  simp only [hbad, if_true, Bool.and_true]
  rfl

theorem State.errorMet_parts {s : State} {cid : CtxId} {r : Reply} {c : Ctx} (hc : s.ctx? cid = some c) :
    (s.errorMet cid r).ctx? cid = some ((c.acked r).errorReply r s.now) ∧ memoryKept s (s.errorMet cid r) := by
  have hmet : (s.updCtx cid fun c => (c.acked r).errorReply r s.now).ctx? cid = some ((c.acked r).errorReply r s.now) :=
    State.ctx?_updCtx hc fun x => Ctx.errorReply_cid _ _ _
  unfold State.errorMet
  dsimp only
  split
  · exact ⟨hmet, fun _ => rfl⟩
  · exact ⟨hmet, fun _ => rfl⟩

/-- An error answer stops the context of its operation. -/
theorem State.ctxReply_stops {s : State} {cid : CtxId} {r : Reply} {c : Ctx} (hbad : r.bad = true) (hc : s.ctx? cid = some c)
    (hpark : c.status ≠ .parked .supervisor) (hended : c.ended = false) :
    memoryKept s (s.ctxReply cid r) ∧ ∃ d, (s.ctxReply cid r).ctx? cid = some d ∧ StoppedOn r c d := by
  have hd : StoppedOn r c ((c.acked r).errorReply r s.now) := Ctx.errorReply_stops (c := c.acked r) hpark hended s.now
  obtain ⟨hmet, hmem⟩ := State.errorMet_parts (r := r) hc
  have hfault : (((s.errorMet cid r).ctx? cid).bind fun c => c.fault).isSome = true := by
    obtain ⟨-, -, -, -, f, hf, -⟩ := hd
    rw [hmet, Option.bind_some, hf]
    rfl
  rw [State.ctxReply_error hbad, if_pos hfault]
  refine ⟨hmem, _, State.ctx?_detachFollowers hmet cid, ?_⟩
  split
  · exact hd.detach
  · exact hd

/-! ### Replies to other sources (R87) -/

theorem reply_io {s : State} {n : Nat} {r : Reply} (hr : s.net.replies[n]? = some r)
    (hstop : s.sourceStopped r.src = false) (hctx : ∀ cid, r.src ≠ .ctx cid ∧ r.src ≠ .wcb cid)
    (hhub : ∀ ep, r.src ≠ .hub ep) : exec (.evReplyDelivery n) s = .next ((s.takeReply n).ioReply r r.trap) := by
  rw [exec_evReplyDelivery, execEvReplyDelivery, delivered_reply hr hstop]
  dsimp only
  split
  next cid h => exact absurd h (hctx cid).1
  next cid h => exact absurd h (hctx cid).2
  next ep h => exact absurd h (hhub ep)
  next => rfl

/-- A good answer without bytes to a source that is no context. -/
theorem State.ioReply_ack {s : State} {r : Reply} {t : Trap} {x : Io} (hx : s.io? r.src r.seq = some x) (hbad : r.bad = false)
    (hp : r.pend = none) : s.ioReply r t = s.ioPut { x with acks := x.acks - 1 } := by
  unfold State.ioReply
  rw [hx]
  dsimp only
  rw [hp, hbad]
  rfl

/-- A good answer is counted at its source, and its bytes fill their place. -/
theorem reply_counted {s : State} {n : Nat} {r : Reply} {x : Io} (hr : s.net.replies[n]? = some r)
    (hstop : s.sourceStopped r.src = false) (hctx : ∀ cid, r.src ≠ .ctx cid ∧ r.src ≠ .wcb cid)
    (hhub : ∀ ep, r.src ≠ .hub ep) (hbad : r.bad = false) (hx : s.io? r.src r.seq = some x) :
    goesTo (exec (.evReplyDelivery n) s) fun t => onlyNet s t ∧ memoryKept s t ∧ t.io? r.src r.seq = some (match r.pend with
      | some p => { x with buf := putBytes x.buf p.2 r.bytes, reads := x.reads - 1 }
      | none => { x with acks := x.acks - 1 }) := by
  have hfound : (s.takeReply n).io? r.src r.seq = some x := hx
  obtain ⟨hsrc, hid⟩ := State.io?_source hx
  refine ⟨_, reply_io hr hstop hctx hhub, ?_⟩
  cases hp : r.pend with
  | none =>
    rw [State.ioReply_ack hfound hbad hp]
    exact ⟨rfl, fun _ => rfl, State.io?_ioPut _ hsrc hid⟩
  | some p =>
    rw [State.ioReply_bytes hfound hbad hp]
    exact ⟨rfl, fun _ => rfl, State.io?_ioPut _ hsrc hid⟩

/-! ### Wakes and timeouts (R105, R274, R275) -/

theorem exec_evWakeDelivery (n : Nat) (s : State) : exec (.evWakeDelivery n) s = execEvWakeDelivery n s := rfl

theorem exec_evWaitTimeout (cid : CtxId) (s : State) : exec (.evWaitTimeout cid) s = execEvWaitTimeout cid s := rfl

theorem wake_ends_wait {s : State} {n : Nat} {w : Wake} (hw : s.net.wakes[n]? = some w) (hstop : s.ctxStopped w.cid = false)
    (hwait : s.waiting w.cid w.pend = true) :
    exec (.evWakeDelivery n) s = .next ({ s with net := { s.net with wakes := dropAt n s.net.wakes } }.updCtx w.cid
      fun c => c.finishWait w.code w.counter s.now) := by
  have hnext : (s.net.wakes[n]?.filter fun w => !s.ctxStopped w.cid) = some w := by
    rw [hw]
    simp [hstop]
  rw [exec_evWakeDelivery, execEvWakeDelivery, hnext]
  exact if_pos hwait

theorem deadline_ends_wait {s : State} {cid : CtxId} {c : Ctx} {w : WaitState} {t : Nat} (hc : s.ctx? cid = some c)
    (hw : c.wait = some w) (hdeadline : w.deadline = some t) (hentered : w.entered = true) (hnow : t ≤ s.now) :
    exec (.evWaitTimeout cid) s = .next ((s.unwait cid).updCtx cid fun c => c.finishWait 4 none s.now) := by
  rw [exec_evWaitTimeout, execEvWaitTimeout, hc, Option.bind_some, hw]
  dsimp only
  rw [hdeadline]
  exact if_pos ⟨hentered, hnow⟩

theorem repliesAndWakes : RepliesAndWakes := by
  intro s n
  refine ⟨fun r cid hr hstop hsrc hbad hgoes => ?_, fun r cid c hr hstop hsrc hbad hc hpark hended => ?_,
    fun r x hr hstop hctx hhub hbad hx => reply_counted hr hstop hctx hhub hbad hx,
    fun w hw hstop hwait => wake_ends_wait hw hstop hwait,
    fun cid c w t hc hw hdeadline hentered hnow => deadline_ends_wait hc hw hdeadline hentered hnow⟩
  · rw [reply_ctx hr hstop hsrc, State.ctxReply_good (s := s.takeReply n) hbad hgoes]
    rfl
  · exact ⟨_, reply_ctx hr hstop hsrc, State.ctxReply_stops (s := s.takeReply n) hbad hc hpark hended⟩

/-- Settles O38: the last byte lands its value, a good answer is acknowledged and delivered where its context stands, an error
answer stops it, and wakes and deadlines end the wait that stands. -/
theorem resultsArrive : Obligations.ResultsArrive := ⟨loadedValueLands, repliesAndWakes⟩

end Sys2Proof.Machine
end

section
/-!
What a floating instruction makes of the flags of its elements (R121, R123): it completes with its result in a register, or it
stops on the FP trap.
-/
namespace Sys2Proof.Machine
open Sys2Proof.Claims

/-! ### Flags of elements -/

@[simp] theorem orFlags_nil : orFlags [] = 0 := rfl
@[simp] theorem orFlags_cons (f : FFlags) (fs : List FFlags) : orFlags (f :: fs) = f ||| orFlags fs := rfl

/-- The element that an FP trap names is the first that raised an enabled exception. -/
theorem fpLane_first {en : FFlags} {fs : List FFlags} (h : orFlags fs &&& en ≠ 0) (i : Nat) :
    ∃ k < fs.length, fpLane en fs i = i + k ∧ fs.getD k 0 &&& en ≠ 0 ∧ ∀ j < k, fs.getD j 0 &&& en = 0 := by
  induction fs generalizing i with
  | nil => simp at h
  | cons f fs ih =>
    by_cases hf : f &&& en = 0
    · have hrest : orFlags fs &&& en ≠ 0 := by
        rw [orFlags_cons] at h
        intro h0
        refine h (BitVec.eq_of_getLsbD_eq fun j hj => ?_)
        have h1 := congrArg (·.getLsbD j) hf
        have h2 := congrArg (·.getLsbD j) h0
        simp only [BitVec.getLsbD_and, BitVec.getLsbD_or] at h1 h2 ⊢
        rw [Bool.and_or_distrib_right, h1, h2, Bool.or_self]
      obtain ⟨k, hk, hlane, hraised, hbefore⟩ := ih hrest (i + 1)
      refine ⟨k + 1, by simpa using hk, ?_, by simpa using hraised, fun j hj => ?_⟩
      · rw [fpLane, if_neg (by simp [hf]), hlane]
        omega
      · cases j with
        | zero => simpa using hf
        | succ j => simpa using hbefore j (by omega)
    · exact ⟨0, by simp, by rw [fpLane, if_pos (bne_iff_ne.2 hf)]; rfl, by simpa using hf, fun j hj => absurd hj (by omega)⟩

/-! ### The state registers -/

/-- Using no counter value, in a mode that is not stochastic. -/
@[simp] theorem SrBank.consume_rne (c : SrBank) (n : Nat) : c.consume .rne n = c := rfl

theorem SrBank.consume_eq (c : SrBank) (rm : Rnd) (n : Nat) : c.consume rm n =
    { c with srctr := if resolveRnd c.fpctl rm = .sr then c.srctr + BitVec.ofNat 64 n else c.srctr } := by
  unfold SrBank.consume
  by_cases h : resolveRnd c.fpctl rm = .sr
  · simp [h]
  · simp [h]

/-- sr.fpstat as an FP trap leaves it: the sticky flags, the lane, and the enabled exceptions (R121). -/
def trapStat (old : Word) (all en : FFlags) (k : Nat) : Word :=
  ((old ||| all.zeroExtend 64) &&& 0xFFFFFFFFFFC0E0FF) ||| (BitVec.ofNat 64 (k % 64) <<< 16) ||| (en.zeroExtend 64 <<< 8)

theorem SrBank.fpDone_quiet {c : SrBank} {fs : List FFlags} (h : orFlags fs &&& fpEnables c = 0) :
    c.fpDone fs = (c.raise (orFlags fs), false) := by
  rw [SrBank.fpDone]
  exact if_pos h

theorem SrBank.fpDone_trap {c : SrBank} {fs : List FFlags} (h : orFlags fs &&& fpEnables c ≠ 0) : c.fpDone fs =
    ({ c with fpstat := trapStat c.fpstat (orFlags fs) (orFlags fs &&& fpEnables c) (fpLane (fpEnables c) fs 0) }, true) := by
  have hlane (k : Nat) : (BitVec.ofNat 6 k).zeroExtend 64 = BitVec.ofNat 64 (k % 64) := by
    refine BitVec.eq_of_toNat_eq ?_
    simp
  rw [SrBank.fpDone]
  refine (if_neg h).trans ?_
  dsimp only
  rw [hlane]
  rfl

/-! ### Results -/

/-- A result reaches its register whatever the state registers hold. -/
theorem Ctx.result_withSr (c : Ctx) (S : SrBank) (q : BitVec 8) (lat : Nat) (x : VWord) :
    ({ c with sr := S } : Ctx).result q lat x = { c.result q lat x with sr := S } := by
  unfold Ctx.result
  split
  · rfl
  · split <;> rfl

/-- A context whose floating instruction has a result, with the counter values that it consumes. -/
def Ctx.fpResult (c : Ctx) (q : BitVec 8) (lat : Nat) (x : VWord) (rm : Rnd) (n : Nat) : Ctx :=
  { c.result q lat x with sr := (c.result q lat x).sr.consume rm n }

theorem Ctx.fpResult_eq (c : Ctx) (S : SrBank) (q : BitVec 8) (lat : Nat) (x : VWord) (rm : Rnd) (n : Nat) :
    ({ c with sr := S } : Ctx).fpResult q lat x rm n =
      { c with regs := (c.result q lat x).regs, openW := (c.result q lat x).openW, sr := S.consume rm n } := by
  unfold Ctx.fpResult
  rw [Ctx.result_withSr]
  dsimp only
  conv_lhs => rw [Ctx.result_only]

/-! ### The end of a floating instruction (R123) -/

/-- A context that stopped keeps its registers, windows, accumulators and queues. -/
theorem stoppedCtx_keeps {c d : Ctx} {now cause detail : Nat} {addr : Word} (h : stoppedCtx c d now cause detail addr) :
    d.regs = c.regs ∧ d.openW = c.openW ∧ d.mat = c.mat ∧ d.mq = c.mq ∧ d.sr.fpstat = c.sr.fpstat ∧
      d.sr.srctr = c.sr.srctr := by
  obtain ⟨heq, -⟩ := h
  rw [heq]
  exact ⟨rfl, rfl, rfl, rfl, rfl, rfl⟩

/-- The state with another sr.fpstat. -/
def State.withStat (s : State) (x : Word) : State := { s with th := { s.th with sr := { s.th.sr with fpstat := x } } }

/-- An FP trap keeps sr.fpstat as the floating instruction has set it. -/
theorem stopsOn_fpTrap (s : State) (x : Word) (a : Word) : ((s.withStat x).trap ⟨cFp, 0, a⟩).th.sr.fpstat = x ∧
    stopsOn (s.withStat x) ((s.withStat x).trap ⟨cFp, 0, a⟩) 0x1B 0 a := by
  have hstop : stopsOn (s.withStat x) ((s.withStat x).trap ⟨cFp, 0, a⟩) 0x1B 0 a :=
    stopsOn_trap (s.withStat x) (t := ⟨cFp, 0, a⟩) (show cFp < 65536 by decide) (Nat.zero_lt_succ _)
  obtain ⟨-, -, -, -, hstat, -⟩ := stoppedCtx_keeps hstop.1
  exact ⟨hstat, hstop⟩

section
variable {s : State} {fs : List FFlags} {after : Ctx → Ctx}

theorem fpFinish_noTrap (h : orFlags fs &&& fpEnables s.th.sr = 0) :
    fpFinish s fs after = .next { s with th := (after { s.th with sr := s.th.sr.raise (orFlags fs) }).retire } := by
  unfold fpFinish
  rw [SrBank.fpDone_quiet h]
  rfl

theorem fpFinish_trap (h : orFlags fs &&& fpEnables s.th.sr ≠ 0) : fpFinish s fs after = faultOut (s.withStat
    (trapStat s.th.sr.fpstat (orFlags fs) (orFlags fs &&& fpEnables s.th.sr) (fpLane (fpEnables s.th.sr) fs 0)))
      (fpTrap s.th.pc s.now) := by
  unfold fpFinish
  rw [SrBank.fpDone_trap h]
  rfl

/-- A floating instruction whose result lands as `P` says does with its flags what R121 and R123 say. -/
theorem fpFinish_outcome {q : BitVec 8} {lat n : Nat} {x : VWord} {rm : Rnd} {P : Ctx → Prop}
    (hafter : ∀ S, after { s.th with sr := S } = ({ s.th with sr := S } : Ctx).fpResult q lat x rm n)
    (hlands : lands s.th (s.th.result q lat x) q lat x) (hP : ∀ d, lands s.th d q lat x → P d) :
    fpOutcome s (fpFinish s fs after) fs rm n P := by
  refine ⟨fun hquiet => ?_, fun htrap => ?_⟩
  · rw [fpFinish_noTrap hquiet, hafter, Ctx.fpResult_eq, Ctx.retire_with, SrBank.consume_eq]
    exact ⟨_, rfl, ⟨rfl, fun _ => rfl, ⟨rfl, rfl, rfl⟩, rfl⟩, hP _ hlands, rfl, rfl⟩
  · obtain ⟨k, hk, hlane, hraised, hbefore⟩ := fpLane_first htrap 0
    rw [Nat.zero_add] at hlane
    rw [fpFinish_trap htrap, hlane]
    obtain ⟨hstat, hstop⟩ := stopsOn_fpTrap s (trapStat s.th.sr.fpstat (orFlags fs) (orFlags fs &&& fpEnables s.th.sr) k)
      (Config.openAddr cFp s.th.pc.toNat s.now)
    obtain ⟨hregs, hopen, -, -, -, hctr⟩ := stoppedCtx_keeps hstop.1
    exact ⟨_, rfl, hregs, hopen, hctr, ⟨k, hk, hraised, hbefore, hstat⟩, _, by rw [fpTrap, hstat]; exact hstop⟩

/-- A floating instruction that changes no state register but by its flags. -/
theorem fpFinish_outcome_rne {q : BitVec 8} {lat : Nat} {x : VWord} {P : Ctx → Prop}
    (hafter : ∀ S, after { s.th with sr := S } = ({ s.th with sr := S } : Ctx).result q lat x)
    (hlands : lands s.th (s.th.result q lat x) q lat x) (hP : ∀ d, lands s.th d q lat x → P d) :
    fpOutcome s (fpFinish s fs after) fs .rne 0 P :=
  fpFinish_outcome hafter hlands hP

end

/-! ### Floating lanes (R218) -/

/-- The lanes of a merged register, for the context that issues. -/
theorem laneOf_mergeV (s : State) (h : Hdr) (t : Ty) (d : BitVec 5) (xs : List Nat) {j : Nat} (hj : j < t.lanes) :
    laneOf t.bits (s.th.mergeV (predMask h s.th.regs) t d xs) j =
      if isActive h s t j then xs.getD j 0 % 2 ^ t.bits else laneR s t d j := by
  have hj' : j < 256 / t.bits := by rwa [Ty.lanes_eq]
  rw [Ctx.mergeV, laneOf_mergeLanes _ _ _ hj', Ty.bits_div, laneOf_ofLanes _ (lane_fits hj')]
  rfl

theorem getD_map_range {α : Type} (f : Nat → α) (d : α) {n j : Nat} (hj : j < n) : ((List.range n).map f).getD j d = f j := by
  simp [List.getD_eq_getElem?_getD, hj]

/-- The results of the active lanes. -/
def laneFRes (h : Hdr) (s : State) (t : Ty) (f : Nat → FRes) : List FRes :=
  (List.range t.lanes).map fun j => if isActive h s t j then f j else ⟨0, 0⟩

theorem laneFRes_flags (h : Hdr) (s : State) (t : Ty) (f : Nat → FRes) :
    (laneFRes h s t f).map FRes.flags = laneResults s h t f := by
  rw [laneFRes, laneResults, List.map_map]
  exact List.map_congr_left fun j _ => apply_ite FRes.flags (isActive h s t j = true) _ _

theorem laneFRes_bits {h : Hdr} {s : State} {t : Ty} (f : Nat → FRes) {j : Nat} (hj : j < t.lanes)
    (ha : isActive h s t j = true) : ((laneFRes h s t f).map FRes.bits).getD j 0 = (f j).bits := by
  rw [laneFRes, List.map_map, getD_map_range _ _ hj]
  exact congrArg FRes.bits (if_pos ha)

theorem laneFRes_congr {h : Hdr} {s : State} {t : Ty} {f g : Nat → FRes} (hfg : ∀ j < t.lanes, f j = g j) :
    laneFRes h s t f = laneFRes h s t g :=
  List.map_congr_left fun j hj => by rw [hfg j (List.mem_range.1 hj)]

theorem vfloat_eq (h : Hdr) (t : Ty) (d : BitVec 5) (lat : Nat) (rm : Rnd) (n : Nat) (f : Ctx → Nat → FRes) (s : State) :
    vfloat h t d lat rm n f s = fpFinish s ((laneFRes h s t (f s.th)).map FRes.flags) fun c =>
      c.fpResult (specV d) lat (c.mergeV (predMask h c.regs) t d ((laneFRes h s t (f s.th)).map FRes.bits)) rm n := rfl

/-- A form of floating lanes rounds every active lane once. -/
theorem vfloat_outcome {h : Hdr} {t : Ty} {d : BitVec 5} {lat : Nat} {rm : Rnd} {n : Nat} {f : Ctx → Nat → FRes} {s : State}
    {r : Nat → FRes} (hr : ∀ j < t.lanes, f s.th j = r j) :
    fpOutcome s (vfloat h t d lat rm n f s) (laneResults s h t r) rm n (lanesAre s h t d lat fun j => (r j).bits) := by
  rw [vfloat_eq, laneFRes_congr hr, laneFRes_flags]
  refine fpFinish_outcome (q := specV d) (lat := lat)
    (x := s.th.mergeV (predMask h s.th.regs) t d ((laneFRes h s t r).map FRes.bits)) (fun _ => rfl)
    (Ctx.resV_lands s.th d lat _) fun c hc => ⟨_, hc, fun j hj => ?_⟩
  rw [laneOf_mergeV s h t d _ hj]
  by_cases ha : isActive h s t j = true
  · rw [if_pos ha, if_pos ha, laneFRes_bits _ hj ha]
  · rw [if_neg ha, if_neg ha]

/-! ### The FP64 unit (R236) -/

section
variable {h : Hdr} {s : State} {rm : Rnd} {n : Nat} {f : Ctx → RMode → FRes} {put : Ctx → Nat → Ctx}

theorem fwhole_on (hp : predOn h s.th.regs = true) : fwhole h rm n f put s =
    fpFinish s [(f s.th (modeAt s.th.sr rm 0)).flags] fun c =>
      { put c (f s.th (modeAt s.th.sr rm 0)).bits with
        sr := (put c (f s.th (modeAt s.th.sr rm 0)).bits).sr.consume rm n } := if_pos hp

/-- A form of the FP64 unit whose predicate is off uses the counter alone. -/
theorem fwhole_off (hp : predOn h s.th.regs = false) : fwhole h rm n f put s =
    .next (State.retire { s with th := { s.th with sr := { s.th.sr with
      srctr := if resolveRnd s.th.sr.fpctl rm = .sr then s.th.sr.srctr + BitVec.ofNat 64 n else s.th.sr.srctr } } }) := by
  rw [← SrBank.consume_eq]
  exact if_neg (by simp [hp])

theorem fwhole_outcome (hp : predOn h s.th.regs = true) {q : BitVec 8} {lat : Nat} {val : Nat → VWord} {P : Ctx → Prop}
    (hput : ∀ c x, put c x = c.result q lat (val x))
    (hlands : ∀ x, lands s.th (s.th.result q lat (val x)) q lat (val x))
    (hP : ∀ d, lands s.th d q lat (val (f s.th (modeAt s.th.sr rm 0)).bits) → P d) :
    fpOutcome s (fwhole h rm n f put s) [(f s.th (modeAt s.th.sr rm 0)).flags] rm n P := by
  rw [fwhole_on hp]
  refine fpFinish_outcome (fun S => ?_) (hlands _) hP
  rw [hput]
  rfl

/-- A form of the FP64 unit whose result goes to a g register. -/
theorem fwhole_putF {d : BitVec 6} {lat : Nat} (hp : predOn h s.th.regs = true) :
    fpOutcome s (fwhole h rm n f (putF d lat) s) [(f s.th (modeAt s.th.sr rm 0)).flags] rm n fun c =>
      lands s.th c (specG d) lat ((BitVec.ofNat 64 (f s.th (modeAt s.th.sr rm 0)).bits).zeroExtend 256) :=
  fwhole_outcome (val := fun x => (BitVec.ofNat 64 x).zeroExtend 256) hp (fun _ _ => rfl) (fun _ => Ctx.resG_lands _ _ _ _)
    fun _ hd => hd

end

end Sys2Proof.Machine
end

section
/-!
The state after reset, and floating arithmetic of lanes and of the FP64 unit: every form is one rounding of the exact operation
(R224 to R226, R236 to R239).
-/
namespace Sys2Proof.Machine
open Sys2Proof.Claims

/-- Settles O9: the fields of the state after reset, which evaluate. -/
theorem resetState : Obligations.ResetState :=
  ⟨rfl, rfl, rfl, rfl, fun _ => rfl, fun _ => ⟨rfl, rfl, rfl⟩, fun _ => ⟨rfl, rfl, rfl⟩, rfl, rfl, rfl, rfl⟩

/-! ### Lanes -/

theorem isRdn_eq (m : RMode) : isRdn m = down m := by cases m <;> rfl

/-- The lanes of a register without modifier. -/
theorem vl_getD (s : State) (t : Ty) (r : BitVec 5) {j : Nat} (hj : j < t.lanes) :
    (s.th.regs.vl t r).getD j 0 = laneR s t r j := lanesOf_getD _ (by rwa [Ty.lanes_eq])

/-! ### Two sources -/

/-- The exact operations that the instructions name are those of the table. -/
theorem faddRaw_eq : faddRaw = fun _ m a b => rawAdd (down m) a b := by
  funext f m a b
  rw [faddRaw, isRdn_eq]
theorem fsubRaw_eq : fsubRaw = fun _ m a b => rawAdd (down m) a (b.flip true) := by
  funext f m a b
  rw [fsubRaw, isRdn_eq]

/-- What the two-source forms execute: one shape for the lanes, one for the FP64 unit. -/
theorem exec_floatBinary : ∀ p ∈ floatBinary, ∀ h s, (∀ o, exec (p.1 h o) s = vfbin p.2.2.2.2 p.2.1 h o s) ∧
    ∀ o, exec (p.2.2.1 h o) s = fbin p.2.2.2.2 p.2.2.2.1 h o s := by
  simp only [floatBinary, List.forall_mem_cons, List.not_mem_nil, false_implies, implies_true, and_true, ← faddRaw_eq, ← fsubRaw_eq]
  exact ⟨fun _ _ => ⟨fun _ => rfl, fun _ => rfl⟩, fun _ _ => ⟨fun _ => rfl, fun _ => rfl⟩,
    fun _ _ => ⟨fun _ => rfl, fun _ => rfl⟩, fun _ _ => ⟨fun _ => rfl, fun _ => rfl⟩⟩

theorem floatTwoSource : FloatTwoSource := by
  intro p hp h s
  obtain ⟨hlanes, hunit⟩ := exec_floatBinary p hp h s
  refine ⟨fun o _ => ?_, fun o hon => ?_⟩
  · intro r
    rw [hlanes, vfbin]
    exact vfloat_outcome (r := r) fun _ _ => rfl
  · intro r
    rw [hunit, fbin]
    exact fwhole_putF hon

/-! ### Fused forms -/

theorem exec_floatFused : ∀ p ∈ floatFused, ∀ h s, (∀ o, exec (p.1 h o) s = vffma p.2.2.1 p.2.2.2 h o s) ∧
    ∀ o, exec (p.2.1 h o) s = ffused p.2.2.1 p.2.2.2 h o s := by
  simp only [floatFused, List.forall_mem_cons, List.not_mem_nil, false_implies, implies_true, and_true]
  exact ⟨fun _ _ => ⟨fun _ => rfl, fun _ => rfl⟩, fun _ _ => ⟨fun _ => rfl, fun _ => rfl⟩,
    fun _ _ => ⟨fun _ => rfl, fun _ => rfl⟩, fun _ _ => ⟨fun _ => rfl, fun _ => rfl⟩⟩

theorem floatFused_holds : FloatFused := by
  intro p hp h s
  obtain ⟨hlanes, hunit⟩ := exec_floatFused p hp h s
  refine ⟨fun o _ => ?_, fun o hon => ?_⟩
  · intro r
    rw [hlanes, vffma]
    refine vfloat_outcome (r := r) fun j hj => ?_
    dsimp only [r]
    rw [laneVal, laneVal, laneVal, vl_getD s o.ty o.c hj, isRdn_eq]
    rfl
  · rw [hunit, ffused, ← isRdn_eq]
    exact fwhole_putF hon

/-! ### Functions -/

theorem exec_floatFunctions : ∀ p ∈ floatFunctions, ∀ h s o, exec (p.1 h o) s = vfun p.2 h o s := by
  simp only [floatFunctions, List.forall_mem_cons, List.not_mem_nil, false_implies, implies_true, and_true]
  exact ⟨fun _ _ _ => rfl, fun _ _ _ => rfl, fun _ _ _ => rfl, fun _ _ _ => rfl, fun _ _ _ => rfl, fun _ _ _ => rfl⟩

theorem exec_floatFunctions64 : ∀ p ∈ floatFunctions64, ∀ h s o, exec (p.1 h o) s = funary p.2 h o s := by
  simp only [floatFunctions64, List.forall_mem_cons, List.not_mem_nil, false_implies, implies_true, and_true]
  exact ⟨fun _ _ _ => rfl, fun _ _ _ => rfl, fun _ _ _ => rfl, fun _ _ _ => rfl, fun _ _ _ => rfl⟩

theorem roundedFunctions : RoundedFunctions := by
  refine ⟨fun p hp h o s _ => ?_, fun p hp h o s hon => ?_⟩
  · intro r
    rw [exec_floatFunctions p hp, vfun]
    exact vfloat_outcome (r := r) fun _ _ => rfl
  · intro r
    rw [exec_floatFunctions64 p hp, funary]
    exact fwhole_putF hon

/-! ### Minima, maxima, sign forms and compares of the FP64 unit -/

theorem exec_floatMinMax : ∀ p ∈ floatMinMax, ∀ h s, (∀ o, exec (p.1 h o) s = vfminmax p.2.2 h o s) ∧
    ∀ o, exec (p.2.1 h o) s = fmm p.2.2 h o s := by
  simp only [floatMinMax, List.forall_mem_cons, List.not_mem_nil, false_implies, implies_true, and_true]
  exact ⟨fun _ _ => ⟨fun _ => rfl, fun _ => rfl⟩, fun _ _ => ⟨fun _ => rfl, fun _ => rfl⟩⟩

theorem exec_laneRelations64 : ∀ p ∈ laneRelations, ∀ h s o, exec (p.2.1 h o) s = fcmpInto p.2.2.1 h o s := by
  simp only [laneRelations, List.forall_mem_cons, List.not_mem_nil, false_implies, implies_true, and_true]
  exact ⟨fun _ _ _ => rfl, fun _ _ _ => rfl, fun _ _ _ => rfl, fun _ _ _ => rfl, fun _ _ _ => rfl, fun _ _ _ => rfl⟩

/-! ### The FP64 unit with its predicate off (R236) -/

/-- A form that consumes no counter value goes on. -/
theorem fwhole_off_goesOn {h : Hdr} {s : State} {f : Ctx → RMode → FRes} {put : Ctx → Nat → Ctx}
    (hp : predOn h s.th.regs = false) : goesOn s (fwhole h .rne 0 f put s) := fwhole_off hp

theorem exec_floatSign64 (h : Hdr) (o : FUn) (s : State) :
    exec (.fabs h o) s = fsign signClear h o s ∧ exec (.fneg h o) s = fsign signFlip h o s := ⟨rfl, rfl⟩

theorem exec_fcvt (h : Hdr) (o : FCvt) (s : State) : exec (.fcvt h o) s = fwhole h o.rm 1
    (fun c m => convert o.src o.ty m (c.regs.cvtBits o.src o.a))
    (fun c x => c.resG o.d 6 (if o.ty.isInt then extByType o.ty (x : Int) else zext64 o.ty.bits x)) s := rfl

theorem floatSign_off {h : Hdr} {s : State} (hp : predOn h s.th.regs = false) :
    ∀ p ∈ floatSign, ∀ o, goesOn s (exec (p.2.1 h o) s) := by
  simp only [floatSign, List.forall_mem_cons, List.not_mem_nil, false_implies, implies_true, and_true]
  refine ⟨fun o => ?_, fun o => ?_⟩
  · rw [(exec_floatSign64 h o s).1]
    exact fwhole_off_goesOn hp
  · rw [(exec_floatSign64 h o s).2]
    exact fwhole_off_goesOn hp

theorem fwhole_off_one {h : Hdr} {s : State} {rm : Rnd} {f : Ctx → RMode → FRes} {put : Ctx → Nat → Ctx}
    (hp : predOn h s.th.regs = false) : fwhole h rm 1 f put s =
      .next (State.retire { s with th := { s.th with sr := { s.th.sr with
        srctr := if resolveRnd s.th.sr.fpctl rm = .sr then s.th.sr.srctr + 1 else s.th.sr.srctr } } }) :=
  fwhole_off hp

theorem fp64PredicateOff : Fp64PredicateOff := by
  intro h s hp
  refine ⟨fun p hm o => ?_, fun p hm o => ?_, fun p hm o => ?_, fun o => ?_, fun p hm o => ?_, floatSign_off hp, fun p hm o => ?_⟩
  · exact ((exec_floatBinary p hm h s).2 o).trans (fwhole_off_one hp)
  · exact ((exec_floatFused p hm h s).2 o).trans (fwhole_off_one hp)
  · exact (exec_floatFunctions64 p hm h s o).trans (fwhole_off_one hp)
  · exact (exec_fcvt h o s).trans (fwhole_off_one hp)
  · rw [(exec_floatMinMax p hm h s).2]
    exact fwhole_off_goesOn hp
  · rw [exec_laneRelations64 p hm]
    exact fwhole_off_goesOn hp

/-- Settles O22: every form is one of the shapes of floating lanes and of the FP64 unit, whose outcome is that of its flags. -/
theorem floatArithmetic : Obligations.FloatArithmetic := ⟨floatTwoSource, floatFused_holds, fp64PredicateOff⟩

end Sys2Proof.Machine
end

section
/-!
Encodings of floating values and their rounding (R108, R114 to R116): the code of a magnitude `k * 2 ^ q` follows its size, and
rounding a value that a format holds gives its code.
-/
namespace Sys2Proof.Machine
open Sys2Proof.Claims

/-! ### Fields of an encoding -/

/-- A format with an exponent and a fraction. -/
def FFmt.Proper (f : FFmt) : Prop := 1 ≤ f.ebits ∧ 1 ≤ f.fbits

theorem proper_of_mem {f : FFmt} (hf : f ∈ [FFmt.f64, FFmt.f32, FFmt.f16, FFmt.bf16, FFmt.e5m2, FFmt.e4m3, FFmt.e2m1]) :
    f.Proper := by
  simp only [List.mem_cons, List.not_mem_nil, or_false] at hf
  rcases hf with rfl | rfl | rfl | rfl | rfl | rfl | rfl <;> exact ⟨by decide, by decide⟩

theorem Ty.fmt_proper (t : Ty) : (Ty.fmt t).Proper := by cases t <;> exact ⟨by decide, by decide⟩

/-- The encoding with the given fields. -/
def FFmt.pack (f : FFmt) (neg : Bool) (ex fr : Nat) : Nat := (if neg then f.signBit else 0) + (ex * 2 ^ f.fbits + fr)

section
variable {f : FFmt} {neg : Bool} {ex fr : Nat}

theorem fields_lt (hex : ex < 2 ^ f.ebits) (hfr : fr < 2 ^ f.fbits) : ex * 2 ^ f.fbits + fr < f.signBit := by
  have h : (ex + 1) * 2 ^ f.fbits ≤ 2 ^ f.ebits * 2 ^ f.fbits := Nat.mul_le_mul_right _ hex
  rw [FFmt.signBit, pow_add]
  linarith

theorem bitsAt_sign (hex : ex < 2 ^ f.ebits) (hfr : fr < 2 ^ f.fbits) :
    (bitsAt (f.pack neg ex fr) (f.ebits + f.fbits) 1 == 1) = neg := by
  have hlt := fields_lt (f := f) hex hfr
  have hpos : 0 < 2 ^ (f.ebits + f.fbits) := Nat.two_pow_pos _
  rw [bitsAt_one, FFmt.pack, FFmt.signBit] at *
  cases neg
  · simp [Nat.div_eq_of_lt hlt]
  · simp [Nat.add_div_left _ hpos, Nat.div_eq_of_lt hlt]

theorem bitsAt_exponent (hex : ex < 2 ^ f.ebits) (hfr : fr < 2 ^ f.fbits) :
    bitsAt (f.pack neg ex fr) f.fbits f.ebits = ex := by
  have hpos : 0 < 2 ^ f.fbits := Nat.two_pow_pos _
  rw [bitsAt, Nat.shiftRight_eq_div_pow, FFmt.pack, FFmt.signBit, pow_add]
  cases neg
  · rw [if_neg (by simp), Nat.zero_add, Nat.add_comm, Nat.add_mul_div_right _ _ hpos, Nat.div_eq_of_lt hfr, Nat.zero_add,
      Nat.mod_eq_of_lt hex]
  · rw [if_pos rfl, ← Nat.add_assoc, ← Nat.add_mul, Nat.add_comm, Nat.add_mul_div_right _ _ hpos, Nat.div_eq_of_lt hfr,
      Nat.zero_add, Nat.add_mod_left, Nat.mod_eq_of_lt hex]

theorem bitsAt_fraction (hfr : fr < 2 ^ f.fbits) : bitsAt (f.pack neg ex fr) 0 f.fbits = fr := by
  rw [bitsAt, Nat.shiftRight_zero, FFmt.pack, FFmt.signBit, pow_add]
  cases neg
  · rw [if_neg (by simp), Nat.zero_add, Nat.add_comm, Nat.add_mul_mod_self_right, Nat.mod_eq_of_lt hfr]
  · rw [if_pos rfl, ← Nat.add_assoc, ← Nat.add_mul, Nat.add_comm, Nat.add_mul_mod_self_right, Nat.mod_eq_of_lt hfr]

end

/-- Every encoding of a format has its fields. -/
theorem exists_pack {f : FFmt} {x : Nat} (hx : x < 2 ^ f.width) : ∃ neg ex fr, ex < 2 ^ f.ebits ∧ fr < 2 ^ f.fbits ∧
    x = f.pack neg ex fr := by
  have hp : 0 < 2 ^ f.fbits := Nat.two_pow_pos _
  have he : 0 < 2 ^ f.ebits := Nat.two_pow_pos _
  have hw : x < 2 * f.signBit := by
    rw [FFmt.width, Nat.add_assoc, pow_add, pow_one] at hx
    exact hx
  refine ⟨decide (f.signBit ≤ x), x / 2 ^ f.fbits % 2 ^ f.ebits, x % 2 ^ f.fbits, Nat.mod_lt _ he, Nat.mod_lt _ hp, ?_⟩
  have hlow : x / 2 ^ f.fbits % 2 ^ f.ebits * 2 ^ f.fbits + x % 2 ^ f.fbits = x % f.signBit := by
    rw [FFmt.signBit, Nat.add_comm f.ebits, pow_add, Nat.mod_mul]
    ring
  rw [FFmt.pack, hlow]
  by_cases h : f.signBit ≤ x
  · rw [if_pos (by simpa using h), Nat.mod_eq_sub_mod h, Nat.mod_eq_of_lt (by omega)]
    omega
  · rw [if_neg (by simpa using h), Nat.mod_eq_of_lt (by omega), Nat.zero_add]

/-! ### Codes of magnitudes -/

/-- The exponent of the smallest step of a format. -/
def FFmt.qmin (f : FFmt) : Int := f.emin - f.fbits

/-- The code of the magnitude `k * 2 ^ q`. -/
def FFmt.code (f : FFmt) (q : Int) (k : Nat) : Nat := (q - f.qmin).toNat * 2 ^ f.fbits + k

/-- A multiple of a step of the format, with a full significand unless the step is the smallest. -/
def FFmt.Normed (f : FFmt) (q : Int) (k : Nat) : Prop := f.qmin ≤ q ∧ (q = f.qmin ∨ 2 ^ f.fbits ≤ k)

theorem infBits_lt (f : FFmt) : f.infBits < f.signBit := by
  rw [FFmt.infBits, FFmt.signBit, pow_add]
  exact Nat.mul_lt_mul_of_pos_right (Nat.sub_lt (Nat.two_pow_pos _) Nat.one_pos) (Nat.two_pow_pos _)

theorem maxBits_lt (f : FFmt) : f.maxBits < f.signBit := by
  have hinf := infBits_lt f
  have hpos : 0 < 2 ^ (f.ebits + f.fbits) := Nat.two_pow_pos _
  unfold FFmt.maxBits
  rw [FFmt.signBit] at *
  split <;> omega

/-- A code no larger than that of the largest finite value is no infinity and no NaN. -/
theorem finite_fields {f : FFmt} (hf : f.Proper) {ex fr : Nat} (hex : ex < 2 ^ f.ebits) (hfr : fr < 2 ^ f.fbits) :
    ex * 2 ^ f.fbits + fr ≤ f.maxBits ↔ ¬(ex = 2 ^ f.ebits - 1 ∧ f.form = .ieee) ∧
      ¬(ex = 2 ^ f.ebits - 1 ∧ f.form = .e4m3 ∧ fr = 2 ^ f.fbits - 1) := by
  obtain ⟨he1, hf1⟩ := hf
  have hp : 2 ≤ 2 ^ f.fbits := le_self_pow₀ one_le_two (by omega)
  have he : 2 ≤ 2 ^ f.ebits := le_self_pow₀ one_le_two (by omega)
  have hlt := fields_lt (f := f) hex hfr
  rw [FFmt.signBit] at hlt
  have htop : ex ≠ 2 ^ f.ebits - 1 → ex * 2 ^ f.fbits + 2 * 2 ^ f.fbits ≤ 2 ^ (f.ebits + f.fbits) := fun h => by
    rw [pow_add, ← Nat.add_mul]
    exact Nat.mul_le_mul_right _ (by omega)
  have hinf : f.infBits + 2 ^ f.fbits = 2 ^ (f.ebits + f.fbits) := by
    rw [FFmt.infBits, pow_add, ← Nat.succ_mul]
    congr 1
    omega
  have hinfpos : 0 < f.infBits := Nat.mul_pos (by omega) (by omega)
  have hlast : ex = 2 ^ f.ebits - 1 → ex * 2 ^ f.fbits = f.infBits := fun h => by rw [FFmt.infBits, h]
  unfold FFmt.maxBits
  by_cases h : ex = 2 ^ f.ebits - 1
  · have ha := hlast h
    cases hform : f.form <;> simp only [eq_true h, reduceCtorEq, true_and, false_and, and_true, and_false, not_true, not_false_eq_true,
      iff_true, iff_false]
    all_goals clear h hlast htop hex; omega
  · have ha := htop h
    cases hform : f.form <;> simp only [eq_false h, reduceCtorEq, false_and, and_true, not_false_eq_true, iff_true]
    all_goals omega

/-- The value of an encoding of a finite magnitude. -/
theorem value_pack {f : FFmt} (hf : f.Proper) {neg : Bool} {ex fr : Nat} (hex : ex < 2 ^ f.ebits) (hfr : fr < 2 ^ f.fbits)
    (hmax : ex * 2 ^ f.fbits + fr ≤ f.maxBits) : f.value (f.pack neg ex fr) =
      if ex = 0 then .fin neg fr f.qmin else .fin neg (2 ^ f.fbits + fr) (f.qmin + (ex - 1 : Nat)) := by
  obtain ⟨hieee, he4m3⟩ := (finite_fields hf hex hfr).1 hmax
  unfold FFmt.value
  rw [bitsAt_sign hex hfr, bitsAt_exponent hex hfr, bitsAt_fraction hfr]
  dsimp only
  rw [if_neg (by simpa using hieee), if_neg (by simpa [and_assoc] using he4m3)]
  by_cases h0 : ex = 0
  · rw [if_pos h0, if_pos h0]
    rfl
  · rw [if_neg h0, if_neg h0, FFmt.qmin, FFmt.emin]
    congr 1
    omega

/-- The value of an encoding of an infinity or a NaN is none. -/
theorem real_pack_special {f : FFmt} (hf : f.Proper) {neg : Bool} {ex fr : Nat} (hex : ex < 2 ^ f.ebits) (hfr : fr < 2 ^ f.fbits)
    (hmax : ¬ex * 2 ^ f.fbits + fr ≤ f.maxBits) (n : Bool) (m : Nat) (e : Int) : f.value (f.pack neg ex fr) ≠ .fin n m e := by
  rw [finite_fields hf hex hfr, not_and_or, not_not, not_not] at hmax
  unfold FFmt.value
  rw [bitsAt_sign hex hfr, bitsAt_exponent hex hfr, bitsAt_fraction hfr]
  dsimp only
  rcases hmax with ⟨h1, h2⟩ | ⟨h1, h2, h3⟩
  · rw [if_pos (by simp [h1, h2])]
    split <;> simp
  · rw [if_neg (by simp [h2]), if_pos (by simp [h1, h2, h3])]
    simp

/-- The code of a finite magnitude with at most a full significand. -/
theorem value_code {f : FFmt} (hf : f.Proper) {q : Int} {k : Nat} (hn : f.Normed q k) (hk : k < 2 ^ (f.fbits + 1))
    (hmax : f.code q k ≤ f.maxBits) (neg : Bool) : f.value ((if neg then f.signBit else 0) + f.code q k) = .fin neg k q := by
  obtain ⟨hq, hfull⟩ := hn
  have hmaxlt : f.maxBits < 2 ^ f.ebits * 2 ^ f.fbits := by
    rw [← pow_add]
    exact maxBits_lt f
  rw [pow_succ] at hk
  by_cases hsmall : k < 2 ^ f.fbits
  · have hmin : q = f.qmin := hfull.resolve_right (by omega)
    have hpack := value_pack hf (neg := neg) (ex := 0) (Nat.two_pow_pos _) hsmall (by rw [FFmt.code, hmin] at hmax; simpa using hmax)
    rw [if_pos rfl, ← hmin] at hpack
    rw [← hpack, FFmt.pack, FFmt.code, hmin, Int.sub_self]
    rfl
  · obtain ⟨d, hd⟩ := Int.eq_ofNat_of_zero_le (show 0 ≤ q - f.qmin by omega)
    have hcode : f.code q k = (d + 1) * 2 ^ f.fbits + (k - 2 ^ f.fbits) := by
      rw [FFmt.code, hd, Int.toNat_natCast, Nat.add_mul, Nat.one_mul]
      omega
    have hex : d + 1 < 2 ^ f.ebits := by
      rw [hcode] at hmax
      exact Nat.lt_of_mul_lt_mul_right (lt_of_le_of_lt (Nat.le_of_add_right_le hmax) hmaxlt)
    have hpack := value_pack hf (neg := neg) hex (show k - 2 ^ f.fbits < 2 ^ f.fbits by omega) (hcode ▸ hmax)
    rw [if_neg (Nat.succ_ne_zero d)] at hpack
    rw [hcode, ← FFmt.pack, hpack]
    congr 1 <;> omega

/-- The encoding of a finite value is its code. -/
theorem code_of_value {f : FFmt} (hf : f.Proper) {x : Nat} (hx : x < 2 ^ f.width) {neg : Bool} {k : Nat} {q : Int}
    (hv : f.value x = .fin neg k q) : x = (if neg then f.signBit else 0) + f.code q k ∧ f.Normed q k ∧ k < 2 ^ (f.fbits + 1) ∧
      f.code q k ≤ f.maxBits := by
  obtain ⟨n, ex, fr, hex, hfr, rfl⟩ := exists_pack hx
  by_cases hmax : ex * 2 ^ f.fbits + fr ≤ f.maxBits
  · rw [value_pack hf hex hfr hmax] at hv
    rw [pow_succ]
    split at hv
    next h0 =>
      obtain ⟨rfl, rfl, rfl⟩ := FVal.fin.inj hv
      have hcode : f.code f.qmin fr = ex * 2 ^ f.fbits + fr := by rw [FFmt.code, Int.sub_self, h0]; rfl
      rw [hcode]
      exact ⟨rfl, ⟨le_refl _, .inl rfl⟩, by omega, hmax⟩
    next h0 =>
      obtain ⟨rfl, rfl, rfl⟩ := FVal.fin.inj hv
      have hcode : f.code (f.qmin + (ex - 1 : Nat)) (2 ^ f.fbits + fr) = ex * 2 ^ f.fbits + fr := by
        obtain ⟨d, rfl⟩ := Nat.exists_eq_succ_of_ne_zero h0
        rw [FFmt.code, add_sub_cancel_left, Int.toNat_natCast]
        simp only [Nat.succ_eq_add_one, Nat.add_sub_cancel]
        ring
      rw [hcode]
      exact ⟨rfl, ⟨by omega, .inr (by omega)⟩, by omega, hmax⟩
  · exact absurd hv (real_pack_special hf hex hfr hmax _ _ _)

end Sys2Proof.Machine
end

section
/-!
Rounding of an exact value (R114 to R117): what each mode does with the discarded bits, and when the result is exact.
-/
namespace Sys2Proof.Machine
open Sys2Proof.Claims

/-! ### Magnitudes -/

/-- Does a mode raise the truncated magnitude `t`, when `r` of `u` parts of a unit were discarded. -/
def raises (mode : RMode) (neg : Bool) (t r u : Nat) : Bool :=
  match mode with
  | .rne => decide (u < 2 * r) || decide (2 * r = u) && decide (t % 2 = 1)
  | .rtz => false
  | .rup => decide (r ≠ 0) && !neg
  | .rdn => decide (r ≠ 0) && neg
  | .rna => decide (u ≤ 2 * r)
  | .sr w => decide (2 ^ 32 ≤ r * 2 ^ 32 / u + w)

theorem raises_rne (n : Bool) (t r u : Nat) : raises .rne n t r u = decide (u < 2 * r ∨ 2 * r = u ∧ t % 2 = 1) := by
  simp [raises]
theorem raises_rtz (n : Bool) (t r u : Nat) : raises .rtz n t r u = false := rfl
theorem raises_rup (n : Bool) (t r u : Nat) : raises .rup n t r u = (decide (r ≠ 0) && !n) := rfl
theorem raises_rdn (n : Bool) (t r u : Nat) : raises .rdn n t r u = (decide (r ≠ 0) && n) := rfl
theorem raises_rna (n : Bool) (t r u : Nat) : raises .rna n t r u = decide (u ≤ 2 * r) := rfl
theorem raises_sr (w : Nat) (n : Bool) (t r u : Nat) : raises (.sr w) n t r u = decide (2 ^ 32 ≤ r * 2 ^ 32 / u + w) := rfl

/-- The top 32 of `k` discarded bits. -/
theorem top_discarded (r k : Nat) : (if 32 ≤ k then r >>> (k - 32) else r <<< (32 - k)) = r * 2 ^ 32 / 2 ^ k := by
  by_cases h : 32 ≤ k
  · rw [if_pos h, Nat.shiftRight_eq_div_pow]
    conv_rhs => rw [← Nat.sub_add_cancel h, pow_add]
    exact (Nat.mul_div_mul_right _ _ (Nat.two_pow_pos 32)).symm
  · have h32 : (2 : Nat) ^ 32 = 2 ^ (32 - k) * 2 ^ k := by
      rw [← pow_add]
      congr 1
      omega
    rw [if_neg h, Nat.shiftLeft_eq, h32, ← Nat.mul_assoc, Nat.mul_div_cancel _ (Nat.two_pow_pos k)]

section
variable {mode : RMode} {n : Bool} {m : Nat} {e q : Int}

theorem roundMag_coarser (h : q ≤ e) : roundMag mode ⟨n, m, e, false⟩ q = (m * 2 ^ (e - q).toNat, false) := by
  rw [roundMag, if_pos h, Nat.shiftLeft_eq]

/-- Rounding to a coarser step `2 ^ (k + 1)`. -/
theorem roundMag_step (k : Nat) : roundMag mode ⟨n, m, e, false⟩ (e + (k + 1 : Nat)) =
    (m / 2 ^ (k + 1) + (if raises mode n (m / 2 ^ (k + 1)) (m % 2 ^ (k + 1)) (2 ^ (k + 1)) then 1 else 0),
      decide (m % 2 ^ (k + 1) ≠ 0)) := by
  have hsh : ((e + (k + 1 : Nat) : Int) - e).toNat = k + 1 := by omega
  have hne : ∀ x : Nat, (x != 0) = decide (x ≠ 0) := fun x => by by_cases hx : x = 0 <;> simp [hx]
  have hge : ¬(e + (k + 1 : Nat) : Int) ≤ e := by omega
  rw [roundMag, if_neg hge]
  dsimp only
  rw [hsh, Nat.add_sub_cancel, Nat.shiftRight_eq_div_pow, Bool.or_false, hne, top_discarded]
  refine Prod.ext ?_ rfl
  generalize m / 2 ^ (k + 1) = t
  generalize m % 2 ^ (k + 1) = r
  have hu : 2 ^ (k + 1) = 2 * 2 ^ k := pow_succ' _ _
  dsimp only
  rw [apply_ite (t + ·), Nat.add_zero]
  refine if_congr ?_ rfl rfl
  cases mode <;> simp [raises] <;> omega

/-- Rounding to a step that is coarser. -/
theorem roundMag_finer (h : e < q) : roundMag mode ⟨n, m, e, false⟩ q =
    (m / 2 ^ (q - e).toNat + (if raises mode n (m / 2 ^ (q - e).toNat) (m % 2 ^ (q - e).toNat) (2 ^ (q - e).toNat) then 1 else 0),
      decide (m % 2 ^ (q - e).toNat ≠ 0)) := by
  obtain ⟨k, hk⟩ := Nat.exists_eq_succ_of_ne_zero (show (q - e).toNat ≠ 0 by omega)
  have hq : q = e + (k + 1 : Nat) := by omega
  rw [hk, hq]
  exact roundMag_step k

end

/-- A discarded part of nothing raises no magnitude. -/
theorem raises_exact {mode : RMode} (hw : ∀ w, mode = .sr w → w < 2 ^ 32) (n : Bool) (t : Nat) {u : Nat} (hu : 0 < u) :
    raises mode n t 0 u = false := by
  cases mode with
  | sr w => simpa [raises] using hw w rfl
  | rne => simp [raises]; omega
  | rna => simp [raises]; omega
  | rtz => rfl
  | rup => simp [raises]
  | rdn => simp [raises]

/-- Magnitudes with two steps are compared at the smaller one. -/
theorem scale_iff {m k : Nat} {e q : Int} (h : q ≤ e) : (m : ℚ) * 2 ^ e = k * 2 ^ q ↔ m * 2 ^ (e - q).toNat = k := by
  have h2 : (2 : ℚ) ≠ 0 := two_ne_zero
  have he : (2 : ℚ) ^ e = ((2 ^ (e - q).toNat : Nat) : ℚ) * 2 ^ q := by
    rw [Nat.cast_pow, ← zpow_natCast, Nat.cast_ofNat, ← zpow_add₀ h2]
    congr 1
    omega
  rw [he, ← mul_assoc, mul_left_inj' (zpow_ne_zero _ h2), ← Nat.cast_mul, Nat.cast_inj]

/-- A multiple of the step is its own rounding. -/
theorem roundMag_of_multiple {mode : RMode} {n : Bool} {m k : Nat} {e q : Int}
    (hw : (∀ w, mode = .sr w → w < 2 ^ 32) ∨ q ≤ e) (h : (m : ℚ) * 2 ^ e = k * 2 ^ q) :
    roundMag mode ⟨n, m, e, false⟩ q = (k, false) := by
  by_cases hq : q ≤ e
  · rw [roundMag_coarser hq, (scale_iff hq).1 h]
  · have hu : 0 < 2 ^ (q - e).toNat := Nat.two_pow_pos _
    have hm : k * 2 ^ (q - e).toNat = m := (scale_iff (by omega)).1 h.symm
    rw [roundMag_finer (by omega), ← hm, Nat.mul_mod_left, Nat.mul_div_cancel _ hu,
      raises_exact (hw.resolve_right hq) n k hu]
    rfl

/-- The rounded magnitude is the exact one when, and only when, the rounding is exact. -/
theorem roundMag_exact_iff {mode : RMode} (hw : ∀ w, mode = .sr w → w < 2 ^ 32) (n : Bool) (m : Nat) (e q : Int) :
    (roundMag mode ⟨n, m, e, false⟩ q).2 = false ↔
      (m : ℚ) * 2 ^ e = ((roundMag mode ⟨n, m, e, false⟩ q).1 : ℚ) * 2 ^ q := by
  refine ⟨fun h => ?_, fun h => congrArg Prod.snd (roundMag_of_multiple (.inl hw) h)⟩
  by_cases hq : q ≤ e
  · rw [roundMag_coarser hq]
    exact (scale_iff hq).2 rfl
  · have hu : 0 < 2 ^ (q - e).toNat := Nat.two_pow_pos _
    rw [roundMag_finer (by omega)] at h ⊢
    have h0 : m % 2 ^ (q - e).toNat = 0 := by simpa using h
    rw [h0, raises_exact hw n _ hu]
    exact ((scale_iff (by omega)).2 (Nat.div_mul_cancel (Nat.dvd_of_mod_eq_zero h0))).symm

/-! ### The modes (R114 to R116) -/

theorem hivemix_eq (k c : Word) : hivemix k c = mix k c := rfl

/-- A stochastic element takes the high half of the mix of its key and counter. -/
theorem modeAt_sr (c : SrBank) (i : Nat) : modeAt c .sr i =
    .sr ((mix (c.seed ^^^ ((c.lcell &&& 0xFFFF) <<< 32)) (c.srctr + BitVec.ofNat 64 i)).toNat / 4294967296) := by
  have h : ∀ w : Word, bitsAt w.toNat 32 32 = w.toNat / 4294967296 := fun w => by
    have := w.isLt
    rw [bitsAt, Nat.shiftRight_eq_div_pow, Nat.mod_eq_of_lt (by omega)]
  exact congrArg RMode.sr (h _)

/-- The mode that code 0 names is that of sr.fpctl. -/
theorem modeAt_dyn (c : SrBank) (i : Nat) : modeAt c .dyn i = modeAt c (Rnd.ofCode (c.fpctl.extractLsb' 0 3)) i := by
  unfold modeAt resolveRnd
  cases h : Rnd.ofCode (c.fpctl.extractLsb' 0 3) <;> simp

/-- A quotient after an addend less than the divisor. -/
theorem add_div_of_lt (m : Nat) {c u : Nat} (hc : c < u) : (m + c) / u = m / u + if u ≤ m % u + c then 1 else 0 := by
  rw [Nat.add_div (by omega), Nat.div_eq_of_lt hc, Nat.mod_eq_of_lt hc, Nat.add_zero]

theorem roundingModes : RoundingModes := by
  refine ⟨modeAt_dyn, modeAt_sr, fun n m e k => ?_⟩
  intro q u x
  have hstep : ∀ mode, roundMag mode x q = (m / u + (if raises mode n (m / u) (m % u) u then 1 else 0), decide (m % u ≠ 0)) :=
    fun mode => roundMag_step k
  have hu : u = 2 * 2 ^ k := pow_succ' _ _
  have hpos : 0 < 2 ^ k := Nat.two_pow_pos k
  have hr : m % u < u := Nat.mod_lt _ (by omega)
  have hm : m / u * u + m % u = m := Nat.div_add_mod' m u
  simp only [hstep, add_div_of_lt m (show u - 1 < u by omega), add_div_of_lt m (show u / 2 < u by omega), raises_rne, raises_rtz,
    raises_rup, raises_rdn, raises_rna, raises_sr, decide_eq_true_eq]
  refine ⟨?_, rfl, ?_, ?_, ?_, fun w => trivial, fun r => trivial⟩
  · generalize m / u = t, m % u = r at *
    by_cases hup : u < 2 * r ∨ 2 * r = u ∧ t % 2 = 1
    · rw [if_pos hup, Nat.add_mul, Nat.one_mul]
      omega
    · rw [if_neg hup, Nat.add_zero]
      omega
  · have h1 : u ≤ m % u + (u - 1) ↔ m % u ≠ 0 := by omega
    cases n <;> simp [h1]
  · have h1 : u ≤ m % u + (u - 1) ↔ m % u ≠ 0 := by omega
    cases n <;> simp [h1]
  · have h1 : u ≤ m % u + u / 2 ↔ u ≤ 2 * (m % u) := by omega
    simp [h1]

/-! ### Rounding into a format (R115) -/

/-- The sign part of an encoding. -/
def FFmt.signPart (f : FFmt) (neg : Bool) : Nat := if neg then f.signBit else 0

/-- The exponent of the last kept bit of a value. -/
def FFmt.step (f : FFmt) (m : Nat) (e : Int) : Int := max ((Nat.log2 m : Int) + e - f.fbits) f.qmin

theorem flags_no_overflow (a b : Bool) : (fWhen a fIX ||| fWhen b fUF).getLsbD 0 = a ∧ (fWhen a fIX ||| fWhen b fUF).getLsbD 2 = false := by
  cases a <;> cases b <;> decide

section
variable {f : FFmt} {mode : RMode} {n : Bool} {m : Nat} {e : Int}

theorem roundTo_zero : roundTo f mode ⟨n, 0, e, false⟩ = ⟨f.signPart n, 0⟩ := rfl

/-- A magnitude beyond the largest finite value overflows. -/
theorem roundTo_overflow (hm : m ≠ 0)
    (h : f.maxBits < f.code (f.step m e) (roundMag mode ⟨n, m, e, false⟩ (f.step m e)).1) :
    roundTo f mode ⟨n, m, e, false⟩ = ⟨f.signPart n + overflowBits f mode n, 5⟩ := by
  unfold roundTo
  dsimp only
  rw [if_neg (by simp [hm])]
  exact if_pos h

/-- Any other gets its code, inexact as its magnitude is; only an inexact one may underflow. -/
theorem roundTo_code (hm : m ≠ 0)
    (h : f.code (f.step m e) (roundMag mode ⟨n, m, e, false⟩ (f.step m e)).1 ≤ f.maxBits) :
    ∃ tiny, roundTo f mode ⟨n, m, e, false⟩ =
      ⟨f.signPart n + f.code (f.step m e) (roundMag mode ⟨n, m, e, false⟩ (f.step m e)).1,
        fWhen (roundMag mode ⟨n, m, e, false⟩ (f.step m e)).2 fIX |||
          fWhen ((roundMag mode ⟨n, m, e, false⟩ (f.step m e)).2 && tiny) fUF⟩ := by
  unfold roundTo
  dsimp only
  rw [if_neg (by simp [hm])]
  exact ⟨_, if_neg (Nat.not_lt.2 h)⟩

end

/-- A value of the format is a multiple of its own step. -/
theorem step_of_normed {f : FFmt} {q : Int} {k : Nat} (hn : f.Normed q k) (hk : k < 2 ^ (f.fbits + 1)) (hk0 : k ≠ 0) :
    f.step k q = q := by
  obtain ⟨hq, hfull⟩ := hn
  unfold FFmt.step
  have hlt : Nat.log2 k < f.fbits + 1 := (Nat.log2_lt hk0).2 hk
  rcases hfull with rfl | hfull
  · omega
  · have hle : f.fbits ≤ Nat.log2 k := (Nat.le_log2 hk0).2 hfull
    omega

/-- A number lies between neighbouring powers of two in one way only. -/
theorem binade_unique {x : ℚ} {a b : Int} (ha : (2 : ℚ) ^ a ≤ x) (ha' : x < 2 ^ (a + 1)) (hb : (2 : ℚ) ^ b ≤ x)
    (hb' : x < 2 ^ (b + 1)) : a = b := by
  have h1 := (zpow_lt_zpow_iff_right₀ one_lt_two).1 (lt_of_le_of_lt ha hb')
  have h2 := (zpow_lt_zpow_iff_right₀ one_lt_two).1 (lt_of_le_of_lt hb ha')
  omega

/-- The binade of `m * 2 ^ e`. -/
theorem log2_binade {m : Nat} (hm : m ≠ 0) (e : Int) :
    (2 : ℚ) ^ ((Nat.log2 m : Int) + e) ≤ m * 2 ^ e ∧ (m : ℚ) * 2 ^ e < 2 ^ ((Nat.log2 m : Int) + e + 1) := by
  have h2 : (2 : ℚ) ≠ 0 := two_ne_zero
  have hpos : (0 : ℚ) < 2 ^ e := zpow_pos two_pos e
  have hle : 2 ^ Nat.log2 m ≤ m := Nat.log2_self_le hm
  have hlt : m < 2 ^ (Nat.log2 m + 1) := Nat.lt_log2_self
  constructor
  · rw [zpow_add₀ h2, zpow_natCast]
    gcongr
    exact_mod_cast hle
  · rw [add_right_comm, zpow_add₀ h2]
    gcongr
    exact_mod_cast hlt

theorem ne_zero_of_magnitude {m k : Nat} {e q : Int} (hm : m ≠ 0) (h : (m : ℚ) * 2 ^ e = (k : ℚ) * 2 ^ q) : k ≠ 0 := by
  rintro rfl
  have hpos : (2 : ℚ) ^ e ≠ 0 := zpow_ne_zero e two_ne_zero
  simp [hm, hpos] at h

/-- Equal magnitudes have one step. -/
theorem step_congr (f : FFmt) {m k : Nat} {e q : Int} (hm : m ≠ 0) (h : (m : ℚ) * 2 ^ e = (k : ℚ) * 2 ^ q) :
    f.step m e = f.step k q := by
  have hk := ne_zero_of_magnitude hm h
  have htop : (Nat.log2 m : Int) + e = Nat.log2 k + q :=
    binade_unique (log2_binade hm e).1 (log2_binade hm e).2 (h ▸ (log2_binade hk q).1) (h ▸ (log2_binade hk q).2)
  rw [FFmt.step, FFmt.step, htop]

/-- Rounding a number that the format holds gives its encoding, in every mode, and raises nothing. -/
theorem roundTo_of_value {f : FFmt} (hf : f.Proper) {mode : RMode} {n : Bool} {m k y : Nat} {e q : Int} (hm : m ≠ 0)
    (hw : (∀ w, mode = .sr w → w < 2 ^ 32) ∨ q ≤ e) (hy : y < 2 ^ f.width) (hv : f.value y = .fin n k q)
    (h : (m : ℚ) * 2 ^ e = (k : ℚ) * 2 ^ q) : roundTo f mode ⟨n, m, e, false⟩ = ⟨y, 0⟩ := by
  obtain ⟨hcode, hn, hk, hmax⟩ := code_of_value hf hy hv
  have hstep : f.step m e = q := (step_congr f hm h).trans (step_of_normed hn hk (ne_zero_of_magnitude hm h))
  have hround : roundMag mode ⟨n, m, e, false⟩ q = (k, false) := roundMag_of_multiple hw h
  obtain ⟨tiny, hres⟩ := roundTo_code (f := f) (mode := mode) (n := n) (e := e) hm (by rw [hstep, hround]; exact hmax)
  rw [hres, hstep, hround, hcode]
  simp [fWhen, FFmt.signPart]

theorem roundingIsExactOnValues : RoundingIsExactOnValues := by
  intro f hf r x n m e hx hv
  have hp := proper_of_mem hf
  by_cases hm : m = 0
  · obtain ⟨hcode, ⟨hq, hfull⟩, -, -⟩ := code_of_value hp hx hv
    subst hm
    have he : e = f.qmin := hfull.resolve_right (Nat.not_le.2 (Nat.two_pow_pos _))
    rw [hcode, he, FFmt.code, Int.sub_self, Int.toNat_zero, Nat.zero_mul]
    rfl
  · exact roundTo_of_value hp hm (.inr (le_refl e)) hx hv rfl

/-! ### A stochastic result (R115, R116) -/

/-- Codes follow the magnitudes. -/
theorem code_le_iff {f : FFmt} {q q' : Int} {k k' : Nat} (hn : f.Normed q k) (hn' : f.Normed q' k')
    (hk : k ≤ 2 ^ (f.fbits + 1)) (hk' : k' < 2 ^ (f.fbits + 1)) :
    f.code q k ≤ f.code q' k' ↔ (k : ℚ) * 2 ^ q ≤ k' * 2 ^ q' := by
  obtain ⟨hq, hfull⟩ := hn
  obtain ⟨hq', hfull'⟩ := hn'
  rw [pow_succ] at hk hk'
  unfold FFmt.code
  rcases lt_trichotomy q q' with h | rfl | h
  · have hbig : 2 ^ f.fbits ≤ k' := hfull'.resolve_left (by omega)
    obtain ⟨j, hj⟩ := Nat.exists_eq_succ_of_ne_zero (show (q' - q).toNat ≠ 0 by omega)
    have hd : (q' - f.qmin).toNat = (q - f.qmin).toNat + (j + 1) := by omega
    have hscale : (k' : ℚ) * 2 ^ q' = ((k' * 2 ^ (j + 1) : Nat) : ℚ) * 2 ^ q := (scale_iff h.le).2 (by rw [hj])
    rw [hscale, mul_le_mul_iff_left₀ (zpow_pos two_pos q), Nat.cast_le, hd]
    refine iff_of_true ?_ ?_
    · have : 1 * 2 ^ f.fbits ≤ (j + 1) * 2 ^ f.fbits := Nat.mul_le_mul_right _ (by omega)
      rw [Nat.add_mul]
      omega
    · calc k ≤ 2 ^ f.fbits * 2 ^ 1 := hk
        _ ≤ k' * 2 ^ (j + 1) := Nat.mul_le_mul hbig (Nat.pow_le_pow_right two_pos (by omega))
  · rw [mul_le_mul_iff_left₀ (zpow_pos two_pos q), Nat.cast_le]
    omega
  · have hbig : 2 ^ f.fbits ≤ k := hfull.resolve_left (by omega)
    obtain ⟨j, hj⟩ := Nat.exists_eq_succ_of_ne_zero (show (q - q').toNat ≠ 0 by omega)
    have hd : (q - f.qmin).toNat = (q' - f.qmin).toNat + (j + 1) := by omega
    have hscale : (k : ℚ) * 2 ^ q = ((k * 2 ^ (j + 1) : Nat) : ℚ) * 2 ^ q' := (scale_iff h.le).2 (by rw [hj])
    rw [hscale, mul_le_mul_iff_left₀ (zpow_pos two_pos q'), Nat.cast_le, hd]
    refine iff_of_false ?_ (Nat.not_le.2 ?_)
    · have : 1 * 2 ^ f.fbits ≤ (j + 1) * 2 ^ f.fbits := Nat.mul_le_mul_right _ (by omega)
      rw [Nat.add_mul]
      omega
    · calc k' < 2 ^ f.fbits * 2 ^ 1 := hk'
        _ ≤ k * 2 ^ (j + 1) := Nat.mul_le_mul hbig (Nat.pow_le_pow_right two_pos (by omega))

/-- The largest finite value. -/
theorem value_maxBits {f : FFmt} (hf : f.Proper) : ∃ k q, f.value f.maxBits = .fin false k q ∧ f.Normed q k ∧
    k < 2 ^ (f.fbits + 1) ∧ f.code q k = f.maxBits := by
  have hlt := maxBits_lt f
  have hw : f.maxBits < 2 ^ f.width := by
    rw [FFmt.width, Nat.add_assoc, pow_add, ← FFmt.signBit]
    omega
  obtain ⟨neg, ex, fr, hex, hfr, hx⟩ := exists_pack hw
  have hpack := hx
  unfold FFmt.pack at hx
  have hneg : neg = false := by
    by_contra h
    rw [if_pos (by simpa using h)] at hx
    omega
  rw [hneg, if_neg Bool.false_ne_true, Nat.zero_add] at hx
  have hfin : ∃ k q, f.value f.maxBits = .fin neg k q := by
    rw [hpack, value_pack hf hex hfr hx.ge]
    split
    · exact ⟨_, _, rfl⟩
    · exact ⟨_, _, rfl⟩
  obtain ⟨k, q, hv⟩ := hfin
  obtain ⟨hcode, hn, hk, -⟩ := code_of_value hf hw hv
  subst hneg
  exact ⟨k, q, hv, hn, hk, by simpa using hcode.symm⟩

/-- The magnitude of a step's multiple, rounded up perhaps to the next binade. -/
theorem real_code {f : FFmt} (hf : f.Proper) {q : Int} {k : Nat} (hn : f.Normed q k) (hk : k ≤ 2 ^ (f.fbits + 1))
    (hmax : f.code q k ≤ f.maxBits) (neg : Bool) : real (f.value (f.signPart neg + f.code q k)) = real (.fin neg k q) := by
  rcases hk.lt_or_eq with hk | rfl
  · exact congrArg real (value_code hf hn hk hmax neg)
  · obtain ⟨hq, -⟩ := hn
    have hcarry : f.code q (2 ^ (f.fbits + 1)) = f.code (q + 1) (2 ^ f.fbits) := by
      have hd : (q + 1 - f.qmin).toNat = (q - f.qmin).toNat + 1 := by omega
      rw [FFmt.code, FFmt.code, hd, pow_succ]
      ring
    rw [hcarry] at hmax ⊢
    have hv := value_code hf ⟨by omega, .inr (le_refl _)⟩ (Nat.pow_lt_pow_right one_lt_two (Nat.lt_succ_self _)) hmax neg
    rw [FFmt.signPart, hv]
    rw [real, real, zpow_add₀ (two_ne_zero' ℚ), pow_succ]
    push_cast
    ring_nf

/-- A rounded magnitude is normed at its step, with at most one carry out of the significand. -/
theorem roundMag_normed {f : FFmt} {mode : RMode} {n : Bool} {m : Nat} {e : Int} (hm : m ≠ 0) :
    f.Normed (f.step m e) (roundMag mode ⟨n, m, e, false⟩ (f.step m e)).1 ∧
      (roundMag mode ⟨n, m, e, false⟩ (f.step m e)).1 ≤ 2 ^ (f.fbits + 1) := by
  have hle : 2 ^ Nat.log2 m ≤ m := Nat.log2_self_le hm
  have hlt : m < 2 ^ (Nat.log2 m + 1) := Nat.lt_log2_self
  have hstep : f.step m e = max ((Nat.log2 m : Int) + e - f.fbits) f.qmin := rfl
  generalize f.step m e = q at *
  by_cases hq : q ≤ e
  · rw [roundMag_coarser hq]
    refine ⟨⟨by omega, ?_⟩, ?_⟩
    · by_cases hmin : q = f.qmin
      · exact .inl hmin
      · refine .inr ?_
        calc 2 ^ f.fbits = 2 ^ Nat.log2 m * 2 ^ (e - q).toNat := by rw [← pow_add]; congr 1; omega
          _ ≤ m * 2 ^ (e - q).toNat := Nat.mul_le_mul_right _ hle
    · calc m * 2 ^ (e - q).toNat ≤ 2 ^ (Nat.log2 m + 1) * 2 ^ (e - q).toNat := Nat.mul_le_mul_right _ hlt.le
        _ = 2 ^ (Nat.log2 m + 1 + (e - q).toNat) := (pow_add _ _ _).symm
        _ ≤ 2 ^ (f.fbits + 1) := Nat.pow_le_pow_right two_pos (by omega)
  · have hdiv : m / 2 ^ (q - e).toNat < 2 ^ (f.fbits + 1) := by
      refine Nat.div_lt_of_lt_mul (lt_of_lt_of_le hlt ?_)
      rw [← pow_add]
      exact Nat.pow_le_pow_right two_pos (by omega)
    rw [roundMag_finer (by omega)]
    refine ⟨⟨by omega, ?_⟩, ?_⟩
    · by_cases hmin : q = f.qmin
      · exact .inl hmin
      · refine .inr (le_trans ((Nat.le_div_iff_mul_le (Nat.two_pow_pos _)).2 ?_) (Nat.le_add_right _ _))
        calc 2 ^ f.fbits * 2 ^ (q - e).toNat = 2 ^ Nat.log2 m := by rw [← pow_add]; congr 1; omega
          _ ≤ m := hle
    · dsimp only
      split <;> omega

theorem signPart_eq (f : FFmt) (n : Bool) : f.signPart n = if n then 2 ^ (f.width - 1) else 0 := by
  have h : f.width - 1 = f.ebits + f.fbits := by rw [FFmt.width]; omega
  rw [h]
  rfl

/-- A magnitude within the largest finite value has its code within the largest finite code. -/
theorem code_le_maxBits_iff {f : FFmt} (hf : f.Proper) {q : Int} {k : Nat} (hn : f.Normed q k) (hk : k ≤ 2 ^ (f.fbits + 1)) :
    f.code q k ≤ f.maxBits ↔ (k : ℚ) * 2 ^ q ≤ magn (f.value f.maxBits) := by
  obtain ⟨k', q', hv, hn', hk', hcode⟩ := value_maxBits hf
  have hmagn : magn (f.value f.maxBits) = (k' : ℚ) * 2 ^ q' := by
    rw [hv]
    simp [magn, real, abs_of_nonneg, zpow_nonneg]
  rw [hmagn, ← hcode]
  exact code_le_iff hn hn' hk hk'

theorem stochasticResult : StochasticResult := by
  intro f hf n m e w hm hw q hq u k r
  have hp : f.Proper := by
    refine proper_of_mem ?_
    simp only [List.mem_cons, List.not_mem_nil, or_false] at hf ⊢
    tauto
  have hround : roundMag (.sr w) ⟨n, m, e, false⟩ (f.step m e) = (k, decide (m % u ≠ 0)) := by
    refine (roundMag_finer (show e < f.step m e from hq)).trans ?_
    rw [raises_sr]
    simp only [decide_eq_true_eq]
    rfl
  obtain ⟨hn, hk⟩ := roundMag_normed (f := f) (mode := .sr w) (n := n) (e := e) hm
  rw [hround] at hn hk
  have hfit := code_le_maxBits_iff hp hn hk
  refine ⟨fun hle => ?_, fun hgt => ?_⟩
  · have hmax := hfit.2 hle
    obtain ⟨tiny, hres⟩ := roundTo_code (f := f) (mode := .sr w) (n := n) (e := e) hm (by rw [hround]; exact hmax)
    rw [hround] at hres
    have hr : r = _ := hres
    rw [hr]
    exact ⟨real_code hp hn hk hmax n, flags_no_overflow _ _⟩
  · have hmax := mt hfit.1 (not_le.2 hgt)
    have hr : r = _ := roundTo_overflow (f := f) (mode := .sr w) (n := n) (e := e) hm (by rw [hround]; exact Nat.not_le.1 hmax)
    rw [hr, signPart_eq]
    refine ⟨rfl, ?_⟩
    dsimp only
    congr 1
    simp only [List.mem_cons, List.not_mem_nil, or_false] at hf
    rcases hf with rfl | rfl | rfl | rfl | rfl | rfl <;> rfl

/-- Settles O21: each mode on the discarded bits, rounding of a value that the format holds, and the stochastic result by the
order of codes. -/
theorem rounding : Obligations.Rounding := ⟨roundingModes, roundingIsExactOnValues, stochasticResult⟩

end Sys2Proof.Machine
end

section
/-!
Lanes of a source, saturation (R107, R194, R219) and the sign forms (R224, R237).
-/
namespace Sys2Proof.Machine
open Sys2Proof.Claims

/-! ### Results fit their format -/

theorem overflowBits_lt (f : FFmt) (mode : RMode) (n : Bool) : overflowBits f mode n < f.signBit := by
  have h : overflowBits f mode n = f.infBits ∨ overflowBits f mode n = f.maxBits := ite_eq_or_eq _ _ _
  rcases h with h | h
  · exact h ▸ infBits_lt f
  · exact h ▸ maxBits_lt f

theorem nanBits_lt {f : FFmt} (hf : f.Proper) : f.nanBits < f.signBit := by
  obtain ⟨-, h1⟩ := hf
  have hhalf : 2 ^ f.fbits = 2 * 2 ^ (f.fbits - 1) := by rw [← pow_succ', Nat.sub_add_cancel h1]
  have hpos : 0 < 2 ^ (f.fbits - 1) := Nat.two_pow_pos _
  have hinf : f.infBits + 2 ^ f.fbits = f.signBit := by
    rw [FFmt.infBits, FFmt.signBit, pow_add, ← Nat.succ_mul]
    congr 1
    have : 0 < 2 ^ f.ebits := Nat.two_pow_pos _
    omega
  unfold FFmt.nanBits
  split
  · exact Nat.sub_lt (Nat.two_pow_pos _) Nat.one_pos
  · omega

theorem two_signBit (f : FFmt) : 2 ^ f.width = 2 * f.signBit := by rw [FFmt.width, Nat.add_assoc, pow_add, pow_one]; rfl

theorem roundTo_bits_lt (f : FFmt) (mode : RMode) (x : Ex) : (roundTo f mode x).bits < 2 ^ f.width := by
  have hsign : (if x.neg then f.signBit else 0) ≤ f.signBit := by split <;> omega
  have hpos : 0 < f.signBit := Nat.two_pow_pos _
  rw [two_signBit]
  unfold roundTo
  dsimp only
  split
  · dsimp only
    omega
  · split
    · have := overflowBits_lt f mode x.neg
      dsimp only
      omega
    · have := maxBits_lt f
      dsimp only
      omega

theorem round_bits_lt {f : FFmt} (hf : f.Proper) (mode : RMode) (x : Raw) : (x.round f mode).bits < 2 ^ f.width := by
  have hnan := nanBits_lt hf
  have hinf := infBits_lt f
  cases x with
  | nan iv =>
    rw [two_signBit]
    show f.nanBits < _
    omega
  | inf neg dz =>
    rw [two_signBit]
    unfold Raw.round
    dsimp only
    split
    · dsimp only
      split <;> omega
    · dsimp only
      omega
  | ex x => exact roundTo_bits_lt f mode x

/-! ### Lanes of a source -/

/-- The types of block elements, which no lane source has. -/
def blockTy (t : Ty) : Bool := t == .bfp8 || t == .bfp4

theorem blockTy_of_isInt {t : Ty} (h : t.isInt = true) : blockTy t = false := by
  cases t <;> revert h <;> decide
theorem blockTy_of_isVF {t : Ty} (h : t.isVF = true) : blockTy t = false := by
  cases t <;> revert h <;> decide
theorem Ty.isInt_of_isVF {t : Ty} (h : t.isVF = true) : t.isInt = false := by
  cases t <;> revert h <;> decide


theorem Ty.fmt_width {t : Ty} (h : t.isInt = false) (hb : blockTy t = false) : (Ty.fmt t).width = t.bits := by
  cases t <;> revert h hb <;> decide

theorem immBits_lt {t : Ty} (hb : blockTy t = false) (k : BitVec 7) : immBits t k < 2 ^ t.bits := by
  unfold immBits
  split
  next => exact wrapNat_lt _ _
  next h =>
    dsimp only
    split
    · have := round_bits_lt (Ty.fmt_proper t) .rne (rawOf (intVal (immInt k)))
      rwa [Ty.fmt_width (by simpa using h) hb] at this
    · exact Nat.mod_lt _ (Nat.two_pow_pos _)

theorem Regs.vs_length (R : Regs) (t : Ty) (x : VSrc) : (R.vs t x).length = t.lanes := by
  cases x with
  | reg x => simp [Regs.vs, Regs.vrLanes, Ty.lanes_eq]
  | imm k => simp [Regs.vs]

theorem Regs.vs_lt (R : Regs) {t : Ty} (hb : blockTy t = false) (x : VSrc) {n : Nat} (h : n ∈ R.vs t x) : n < 2 ^ t.bits := by
  cases x with
  | reg x =>
    obtain ⟨j, -, rfl⟩ := List.mem_map.1 h
    exact laneOf_lt _ _ _
  | imm k => exact List.eq_of_mem_replicate h ▸ immBits_lt hb k

theorem lane_lt (s : State) {t : Ty} (hb : blockTy t = false) (x : VSrc) (j : Nat) : lane s t x j < 2 ^ t.bits := by
  unfold lane
  by_cases h : j < (s.th.regs.vs t x).length
  · rw [List.getD_eq_getElem _ _ h]
    exact Regs.vs_lt _ hb _ (List.getElem_mem h)
  · rw [List.getD_eq_default _ _ (by omega)]
    exact Nat.two_pow_pos _

/-- The lanes of two sources, combined. -/
theorem zipWith_lane {α : Type} (s : State) (t : Ty) (x y : VSrc) (f : Nat → Nat → α) (d : α) {j : Nat} (hj : j < t.lanes) :
    (List.zipWith f (s.th.regs.vs t x) (s.th.regs.vs t y)).getD j d = f (lane s t x j) (lane s t y j) := by
  have hx : j < (s.th.regs.vs t x).length := by rwa [Regs.vs_length]
  have hy : j < (s.th.regs.vs t y).length := by rwa [Regs.vs_length]
  rw [lane, lane, List.getD_eq_getElem _ _ (by rw [List.length_zipWith]; omega), List.getElem_zipWith,
    List.getD_eq_getElem _ _ hx, List.getD_eq_getElem _ _ hy]

/-- The low bits of a number, read by type. -/
theorem val_ofNat (t : Ty) (n : Nat) : val t (BitVec.ofNat 64 n) = intOf t n := by
  have hdvd : 2 ^ t.bits ∣ 2 ^ 64 := Nat.pow_dvd_pow 2 (by cases t <;> decide)
  have h : (BitVec.ofNat 64 n).toNat % 2 ^ t.bits = n % 2 ^ t.bits := by
    rw [BitVec.toNat_ofNat, Nat.mod_mod_of_dvd _ hdvd]
  unfold val intOf signedOf
  rw [h]

theorem val_laneW (s : State) (t : Ty) (x : VSrc) (j : Nat) : val t (laneW s t x j) = intOf t (lane s t x j) := val_ofNat _ _

/-! ### Saturation -/

theorem clamped_eq (t : Ty) (r : Int) : clamped t r = clampTo t r := by
  have hle : intMin t.signed t.bits ≤ intMax t.signed t.bits := by
    have h1 : 0 < 2 ^ (t.bits - 1) := Nat.two_pow_pos _
    have h2 : 0 < 2 ^ t.bits := Nat.two_pow_pos _
    unfold intMin intMax
    split <;> omega
  show (if r < intMin t.signed t.bits then intMin t.signed t.bits
    else if intMax t.signed t.bits < r then intMax t.signed t.bits else r) = clampTo t r
  unfold clampTo
  split
  · omega
  · split <;> omega

theorem SrBank.setSv_eq (c : SrBank) (b : Bool) : c.setSv b = { c with fpstat := if b then c.fpstat ||| 0x20 else c.fpstat } := by
  cases b <;> rfl

/-- A result in a register, and sr.fpstat.sv. -/
def Ctx.satResult (c : Ctx) (q : BitVec 8) (lat : Nat) (x : VWord) (sv : Bool) : Ctx :=
  { c.result q lat x with sr := (c.result q lat x).sr.setSv sv }

theorem satResult_outcome {s : State} {q : BitVec 8} {lat : Nat} {x : VWord} (sv : Bool)
    (hl : lands s.th (s.th.result q lat x) q lat x) :
    goesTo (.next { s with th := (s.th.satResult q lat x sv).retire }) fun u => onlyRegsFp s u ∧ lands s.th u.th q lat x ∧
      u.th.sr.srctr = s.th.sr.srctr ∧ u.th.sr.fpstat = if sv then s.th.sr.fpstat ||| 0x20 else s.th.sr.fpstat := by
  have hsr : (s.th.result q lat x).sr = s.th.sr := by rw [Ctx.result_only]
  have heq : s.th.satResult q lat x sv = { s.th with
      regs := (s.th.result q lat x).regs, openW := (s.th.result q lat x).openW, sr := s.th.sr.setSv sv } := by
    unfold Ctx.satResult
    rw [hsr]
    conv_lhs => rw [Ctx.result_only]
  rw [heq, Ctx.retire_with, SrBank.setSv_eq]
  exact ⟨_, rfl, ⟨rfl, fun _ => rfl, ⟨rfl, rfl, rfl⟩, rfl⟩, hl, rfl, rfl⟩

theorem givesSat_of_resSat {h : Hdr} {s : State} {t : Ty} {d : BitVec 6} {f : Ctx → Int} (hp : predOn h s.th.regs = true) :
    givesSat s (whole h (fun c => c.resSat t d (f c)) s) t d (f s.th) := by
  have hon : whole h (fun c => c.resSat t d (f c)) s = .next { s with th :=
      (s.th.satResult (specG d) 1 ((extByType t (clampTo t (f s.th))).zeroExtend 256) (clampTo t (f s.th) != f s.th)).retire } := by
    simp only [whole, State.mapTh, hp, if_true]
    rfl
  obtain ⟨u, hu, honly, hlands, hctr, hstat⟩ := satResult_outcome (clampTo t (f s.th) != f s.th)
    (Ctx.resG_lands s.th d 1 (extByType t (clampTo t (f s.th))))
  rw [hon]
  refine ⟨u, hu, honly, by rwa [clamped_eq], hctr, ?_⟩
  rw [hstat, clamped_eq]
  by_cases hc : clampTo t (f s.th) = f s.th <;> simp [hc]

theorem exec_saturating : ∀ p ∈ saturating, ∀ h s,
    (∀ o, exec (p.1 h o) s = whole h (fun c => c.resSat o.ty o.d (p.2.2 o.ty (c.regs.gs o.a) (c.regs.gs o.b))) s) ∧
      ∀ o, exec (p.2.1 h o) s = whole h (fun c => c.resSat o.ty o.d (p.2.2 o.ty (c.regs.gs o.a) (o.imm.signExtend 64))) s := by
  simp only [saturating, List.forall_mem_cons, List.not_mem_nil, false_implies, implies_true, and_true]
  exact ⟨fun _ _ => ⟨fun _ => rfl, fun _ => rfl⟩, fun _ _ => ⟨fun _ => rfl, fun _ => rfl⟩⟩

theorem scalarSaturating : ScalarSaturating := by
  intro p hm h s hp
  obtain ⟨hreg, himm⟩ := exec_saturating p hm h s
  refine ⟨fun o _ => ?_, fun o _ => ?_⟩
  · rw [hreg]
    exact givesSat_of_resSat hp
  · rw [himm]
    exact givesSat_of_resSat hp

theorem exec_laneSat : ∀ p ∈ laneSat, ∃ f : Ty → Nat → Nat → Int, (∀ h o s, exec (p.1 h o) s = vsat f h o s) ∧
    ∀ s t x y j, p.2 t (laneW s t x j) (laneW s t y j) = f t (lane s t x j) (lane s t y j) := by
  simp only [laneSat, List.forall_mem_cons, List.not_mem_nil, false_implies, implies_true, and_true]
  refine ⟨⟨opAdd, fun _ _ _ => rfl, fun s t x y j => ?_⟩, ⟨opSub, fun _ _ _ => rfl, fun s t x y j => ?_⟩⟩
  · rw [val_laneW, val_laneW]
    rfl
  · rw [val_laneW, val_laneW]
    rfl

/-- The lanes of a saturating form before they are clamped. -/
def satLanes (f : Ty → Nat → Nat → Int) (o : VBin) (s : State) : List Int :=
  List.zipWith (f o.ty) (s.th.regs.vs o.ty o.a) (s.th.regs.vs o.ty o.b)

/-- Some active lane was clamped. -/
def satClamps (f : Ty → Nat → Nat → Int) (h : Hdr) (o : VBin) (s : State) : Bool :=
  (List.range o.ty.lanes).any fun j =>
    active h s.th o.ty j && clampTo o.ty ((satLanes f o s).getD j 0) != (satLanes f o s).getD j 0

theorem vsat_eq (f : Ty → Nat → Nat → Int) (h : Hdr) (o : VBin) (s : State) : vsat f h o s = .next { s with th :=
    (s.th.satResult (specV o.d) 2 (s.th.mergeV (predMask h s.th.regs) o.ty o.d
      ((satLanes f o s).map fun r => wrapNat o.ty.bits (clampTo o.ty r))) (satClamps f h o s)).retire } := rfl

theorem vectorSaturating : VectorSaturating := by
  intro p hm h o s _ r
  obtain ⟨f, hexec, hval⟩ := exec_laneSat p hm
  have hr : ∀ j < o.ty.lanes, (satLanes f o s).getD j 0 = r j := fun j hj =>
    (zipWith_lane s o.ty o.a o.b _ _ hj).trans (hval s o.ty o.a o.b j).symm
  have hsv : satClamps f h o s = true ↔ ∃ j < o.ty.lanes, isActive h s o.ty j = true ∧ clamped o.ty (r j) ≠ r j := by
    simp only [satClamps, List.any_eq_true, List.mem_range, Bool.and_eq_true, bne_iff_ne, clamped_eq]
    refine exists_congr fun j => and_congr_right fun hj => ?_
    rw [hr j hj]
    rfl
  obtain ⟨u, hu, honly, hlands, hctr, hstat⟩ := satResult_outcome (satClamps f h o s) (Ctx.resV_lands s.th o.d 2
    (s.th.mergeV (predMask h s.th.regs) o.ty o.d ((satLanes f o s).map fun r => wrapNat o.ty.bits (clampTo o.ty r))))
  rw [hexec, vsat_eq]
  refine ⟨u, hu, honly, ⟨_, hlands, fun j hj => ?_⟩, hctr, hstat.trans (if_congr hsv rfl rfl)⟩
  have hlen : j < (satLanes f o s).length := by
    rw [satLanes, List.length_zipWith, Regs.vs_length, Regs.vs_length]
    omega
  have hlane : ((satLanes f o s).map fun r => wrapNat o.ty.bits (clampTo o.ty r)).getD j 0 =
      wrapTo o.ty (clamped o.ty (r j)) := by
    rw [← hr j hj, List.getD_eq_getElem _ _ (by rwa [List.length_map]), List.getElem_map, List.getD_eq_getElem _ _ hlen, clamped_eq]
    rfl
  rw [laneOf_mergeV s h o.ty o.d _ hj, hlane]

/-- Settles O18: a saturating form lands the nearest value of the type, and sr.fpstat.sv says whether it differs. -/
theorem saturating_holds : Obligations.Saturating := ⟨scalarSaturating, vectorSaturating⟩

end Sys2Proof.Machine
end

section
/-!
Floating minima, maxima and sign forms (R113, R224, R237).
-/
namespace Sys2Proof.Machine
open Sys2Proof.Claims

/-! ### Sign forms -/

theorem xor_two_pow {k y : Nat} (h : y < 2 ^ k) : y ^^^ 2 ^ k = 2 ^ k + y := by
  have hor : 2 ^ k + y = 2 ^ k ||| y := by simpa using Nat.two_pow_add_eq_or_of_lt h 1
  rw [hor]
  refine Nat.eq_of_testBit_eq fun i => ?_
  rw [Nat.testBit_xor, Nat.testBit_or, Nat.testBit_two_pow]
  by_cases hi : k = i
  · subst hi
    simp [Nat.testBit_lt_two_pow h]
  · simp [hi]

/-- The sign bit inverted. -/
theorem xor_sign {k x : Nat} (h : x < 2 * 2 ^ k) : (x ^^^ 2 ^ k) % (2 * 2 ^ k) = x % 2 ^ k + (1 - x / 2 ^ k) * 2 ^ k := by
  by_cases hx : x < 2 ^ k
  · rw [xor_two_pow hx, Nat.mod_eq_of_lt (by omega), Nat.mod_eq_of_lt hx, Nat.div_eq_of_lt hx]
    omega
  · obtain ⟨y, rfl⟩ := Nat.exists_eq_add_of_le (Nat.not_lt.1 hx)
    have hy : y < 2 ^ k := by omega
    rw [← xor_two_pow hy, Nat.xor_assoc, Nat.xor_self, Nat.xor_zero, xor_two_pow hy, Nat.mod_eq_of_lt (by omega),
      Nat.add_mod_left, Nat.mod_eq_of_lt hy, Nat.add_div_left _ (Nat.two_pow_pos k), Nat.div_eq_of_lt hy]
    omega

theorem exec_floatSign : ∀ p ∈ floatSign, ∃ g : FFmt → Nat → Nat,
    (∀ h o s, exec (p.1 h o) s = vsign g h o s) ∧ (∀ h o s, exec (p.2.1 h o) s = fsign g h o s) ∧
      (∀ f x, x < 2 ^ f.width → g f x = x % f.signBit + p.2.2 (x / f.signBit) * f.signBit) ∧
        ∀ f x, g f x < 2 ^ f.width := by
  simp only [floatSign, List.forall_mem_cons, List.not_mem_nil, false_implies, implies_true, and_true]
  have hpos : ∀ f : FFmt, 0 < f.signBit := fun f => Nat.two_pow_pos _
  refine ⟨⟨signClear, fun _ _ _ => rfl, fun h o s => (exec_floatSign64 h o s).1, fun f x _ => ?_, fun f x => ?_⟩,
    ⟨signFlip, fun _ _ _ => rfl, fun h o s => (exec_floatSign64 h o s).2, fun f x hx => ?_, fun f x => ?_⟩⟩
  · rw [Nat.zero_mul, Nat.add_zero]
    rfl
  · rw [two_signBit]
    exact lt_trans (Nat.mod_lt _ (hpos f)) (by linarith [hpos f])
  · rw [two_signBit] at hx
    exact xor_sign hx
  · rw [two_signBit]
    exact Nat.mod_lt _ (by linarith [hpos f])

theorem floatSign_isVF {p : (Hdr → VFUn → Instr) × (Hdr → FUn → Instr) × (Nat → Nat)} (hp : p ∈ floatSign) {h : Hdr} {o : VFUn}
    (hwf : (p.1 h o).wellFormed = true) : o.ty.isVF = true := by
  have hwf' : o.wf false = true := by
    simp only [floatSign, List.mem_cons, List.not_mem_nil, or_false] at hp
    rcases hp with rfl | rfl <;> exact hwf
  simp only [VFUn.wf, Bool.and_eq_true] at hwf'
  exact hwf'.1.1

/-- The flags of nothing raised. -/
theorem SrBank.raise_zero (c : SrBank) : c.raise 0 = c := by simp [SrBank.raise]

/-- A form of the FP64 unit that raises nothing and consumes nothing is one that writes its result. -/
theorem fwhole_silent {h : Hdr} {s : State} {f : Ctx → RMode → Nat} {put : Ctx → Nat → Ctx} (hp : predOn h s.th.regs = true) :
    fwhole h .rne 0 (fun c m => ⟨f c m, 0⟩) put s = whole h (fun c => put c (f s.th (modeAt s.th.sr .rne 0))) s := by
  have hquiet : orFlags [(0 : FFlags)] &&& fpEnables s.th.sr = 0 := by simp
  rw [fwhole_on hp, fpFinish_noTrap hquiet]
  have h0 : orFlags [(0 : FFlags)] = 0 := rfl
  rw [h0, SrBank.raise_zero]
  simp only [whole, State.mapTh, hp, if_true]
  rfl

theorem signLanes {p : (Hdr → VFUn → Instr) × (Hdr → FUn → Instr) × (Nat → Nat)} (hp : p ∈ floatSign) {h : Hdr} {o : VFUn}
    {s : State} (hty : o.ty.isVF = true) : givesV s (exec (p.1 h o) s) h o.ty o.d 4 fun j =>
      lane s o.ty o.a j % 2 ^ (o.ty.bits - 1) + p.2.2 (lane s o.ty o.a j / 2 ^ (o.ty.bits - 1)) * 2 ^ (o.ty.bits - 1) := by
  obtain ⟨g, hexec, -, hg, hfit⟩ := exec_floatSign p hp
  have hb := blockTy_of_isVF hty
  have hw := Ty.fmt_width (Ty.isInt_of_isVF hty) hb
  have hsign : (Ty.fmt o.ty).signBit = 2 ^ (o.ty.bits - 1) := by
    rw [← hw, FFmt.signBit, FFmt.width]
    congr 1
    omega
  have hlane : ∀ x < 2 ^ o.ty.bits, g (Ty.fmt o.ty) x =
      x % 2 ^ (o.ty.bits - 1) + p.2.2 (x / 2 ^ (o.ty.bits - 1)) * 2 ^ (o.ty.bits - 1) := fun x hx => by
    rw [← hsign]
    exact hg _ _ (hw.symm ▸ hx)
  rw [hexec, vsign]
  obtain ⟨u, hu, honly, x, hl, hx⟩ := vlanes_lands (h := h) (t := o.ty) (d := o.d) (lat := 4) (s := s)
    (f := fun c => (c.regs.vs o.ty o.a).map (g (Ty.fmt o.ty))) (fun y hy => by
      obtain ⟨z, hz, rfl⟩ := List.mem_map.1 hy
      exact hw ▸ hfit _ z)
  refine ⟨u, hu, honly, x, hl, fun j hj => (hx j hj).trans (if_congr Iff.rfl ?_ rfl)⟩
  have hlen : j < (s.th.regs.vs o.ty o.a).length := by rwa [Regs.vs_length]
  have hval : lane s o.ty o.a j = (s.th.regs.vs o.ty o.a)[j] := List.getD_eq_getElem _ _ hlen
  rw [List.getD_eq_getElem _ _ (by rwa [List.length_map]), List.getElem_map, ← hval]
  exact hlane _ (lane_lt s hb o.a j)

theorem signAndMinMax : SignAndMinMax := by
  intro h s
  refine ⟨fun p hm => ⟨fun o _ => ?_, fun o hon => ?_⟩, fun p hm => ⟨fun o hwf => ?_, fun o hon hlt => ?_⟩⟩
  · intro r
    rw [(exec_floatMinMax p hm h s).1, vfminmax]
    exact vfloat_outcome (r := r) fun _ _ => rfl
  · intro r
    rw [(exec_floatMinMax p hm h s).2, fmm]
    exact fwhole_putF hon
  · exact signLanes hm (floatSign_isVF hm hwf)
  · obtain ⟨g, -, hexec, hg, -⟩ := exec_floatSign p hm
    rw [hexec, fsign, fwhole_silent hon, hg .f64 _ hlt]
    exact whole_resG hon

/-! ### The order of values -/

theorem compare_map {α β : Type} [LinearOrder α] [LinearOrder β] {f : α → β} (hf : StrictMono f) (a b : α) :
    compare (f a) (f b) = compare a b := by
  rw [← cmp_eq_compare, ← cmp_eq_compare]
  exact hf.cmp_map_eq a b

/-- A finite value as a multiple of a smaller step. -/
theorem real_scaled {n : Bool} {m : Nat} {e e0 : Int} (h : e0 ≤ e) :
    real (.fin n m e) = some ((scaled n m e e0 : ℚ) * 2 ^ e0) := by
  have hm : (m : ℚ) * 2 ^ e = ((m * 2 ^ (e - e0).toNat : Nat) : ℚ) * 2 ^ e0 := (scale_iff h).2 rfl
  rw [real, scaled, Nat.shiftLeft_eq, mul_assoc, hm]
  cases n <;> simp

/-- The order of two finite values is that of their numbers. -/
theorem cmpVal_real {a b : FVal} {x y : ℚ} (ha : real a = some x) (hb : real b = some y) : cmpVal a b = compare x y := by
  cases a with
  | nan s => cases ha
  | inf n => cases ha
  | fin n m e =>
    cases b with
    | nan s => cases hb
    | inf n => cases hb
    | fin n' m' e' =>
      have hmono : StrictMono fun k : Int => (k : ℚ) * 2 ^ min e e' := fun k l hkl =>
        mul_lt_mul_of_pos_right (Int.cast_lt.2 hkl) (zpow_pos two_pos _)
      rw [real_scaled (min_le_left e e')] at ha
      rw [real_scaled (min_le_right e e')] at hb
      rw [← Option.some.inj ha, ← Option.some.inj hb]
      exact (compare_map hmono _ _).symm

theorem lessVal_real {a b : FVal} {x y : ℚ} (ha : real a = some x) (hb : real b = some y) :
    lessVal a b = true ↔ x < y ∨ x = y ∧ a.neg? = true ∧ b.neg? = false := by
  rw [lessVal, cmpVal_real ha hb]
  rcases lt_trichotomy x y with h | h | h
  · rw [compare_lt_iff_lt.2 h]
    simp [h]
  · rw [compare_eq_iff_eq.2 h]
    simp [h]
  · rw [compare_gt_iff_gt.2 h]
    simp [h.le, h.ne']

/-! ### Minimum and maximum (R113) -/

theorem isNan_iff (v : FVal) : v.isNan = (nanSig v).isSome := by cases v <;> rfl
theorem isSig_iff (v : FVal) : v.isSig = decide (nanSig v = some true) := by
  cases v with
  | nan s => cases s <;> rfl
  | inf n => rfl
  | fin n m e => rfl

theorem fminmax_nan {f : FFmt} {isMax : Bool} {a b : Nat}
    (h : (nanSig (f.value a)).isSome = true ∨ (nanSig (f.value b)).isSome = true) : fminmax f isMax a b =
      ⟨f.nanBits, if nanSig (f.value a) = some true ∨ nanSig (f.value b) = some true then 16 else 0⟩ := by
  unfold fminmax
  dsimp only
  rw [isNan_iff, isNan_iff, if_pos (by simpa using h), isSig_iff, isSig_iff, fWhen]
  simp only [Bool.or_eq_true, decide_eq_true_eq]
  rfl

theorem fminmax_number {f : FFmt} {isMax : Bool} {a b : Nat} (ha : nanSig (f.value a) = none) (hb : nanSig (f.value b) = none) :
    fminmax f isMax a b = ⟨if (if isMax then lessVal (f.value a) (f.value b) else lessVal (f.value b) (f.value a)) then b else a, 0⟩ := by
  unfold fminmax
  dsimp only
  rw [isNan_iff, isNan_iff, ha, hb, if_neg (by simp)]
  cases isMax <;> rfl

theorem nanSig_of_real {v : FVal} {x : ℚ} (h : real v = some x) : nanSig v = none := by
  cases v with
  | nan sig => cases h
  | inf n => cases h
  | fin n m e => rfl

/-- The value of an encoding by its fields. -/
theorem value_fields {f : FFmt} {neg : Bool} {ex fr : Nat} (hex : ex < 2 ^ f.ebits) (hfr : fr < 2 ^ f.fbits) :
    f.value (f.pack neg ex fr) =
      if ex == 2 ^ f.ebits - 1 && f.form == .ieee then if fr = 0 then .inf neg else .nan (fr < 2 ^ (f.fbits - 1))
      else if ex == 2 ^ f.ebits - 1 && f.form == .e4m3 && fr == 2 ^ f.fbits - 1 then .nan false
      else if ex = 0 then .fin neg fr (f.emin - f.fbits)
      else .fin neg (2 ^ f.fbits + fr) ((ex : Int) - f.bias - f.fbits) := by
  unfold FFmt.value
  rw [bitsAt_sign hex hfr, bitsAt_exponent hex hfr, bitsAt_fraction hfr]

/-- The sign bit of a value. -/
theorem sign_of_value {f : FFmt} {x : Nat} (hx : x < 2 ^ f.width) (h : nanSig (f.value x) = none) :
    x / 2 ^ (f.width - 1) = if (f.value x).neg? then 1 else 0 := by
  obtain ⟨neg, ex, fr, hex, hfr, rfl⟩ := exists_pack hx
  have hneg : (f.value (f.pack neg ex fr)).neg? = neg := by
    rw [value_fields hex hfr] at h ⊢
    split at h
    · split at h
      · rename_i h1 h2
        rw [if_pos h1, if_pos h2]
        rfl
      · cases h
    · split at h
      · cases h
      · rename_i h1 h2
        rw [if_neg h1, if_neg h2]
        split <;> rfl
  have hlt := fields_lt (f := f) hex hfr
  have hw : f.width - 1 = f.ebits + f.fbits := by rw [FFmt.width]; omega
  rw [hneg, hw, ← FFmt.signBit, FFmt.pack]
  cases neg
  · simp [Nat.div_eq_of_lt hlt]
  · simp [Nat.add_div_left _ (show 0 < f.signBit from Nat.two_pow_pos _), Nat.div_eq_of_lt hlt]

/-- An infinity has one encoding. -/
theorem inf_code {f : FFmt} {x : Nat} (hx : x < 2 ^ f.width) {n : Bool} (h : f.value x = .inf n) :
    x = f.signPart n + f.infBits := by
  obtain ⟨neg, ex, fr, hex, hfr, rfl⟩ := exists_pack hx
  rw [value_fields hex hfr] at h
  split at h
  next htop =>
    split at h
    next hzero =>
      obtain rfl := FVal.inf.inj h
      simp only [Bool.and_eq_true, beq_iff_eq] at htop
      rw [FFmt.pack, FFmt.infBits, htop.1, hzero]
      rfl
    next => cases h
  next =>
    split at h
    · cases h
    · split at h <;> cases h

theorem less_posInf (v : FVal) : lessVal (.inf false) v = false := by
  cases v with
  | nan s => rfl
  | inf n => cases n <;> rfl
  | fin n m e => rfl
theorem less_to_posInf {v : FVal} (h : nanSig v = none) : lessVal v (.inf false) = true ∨ v = .inf false := by
  cases v with
  | nan s => cases h
  | inf n =>
    cases n
    · exact .inr rfl
    · exact .inl rfl
  | fin n m e => exact .inl rfl
theorem less_negInf {v : FVal} (h : nanSig v = none) : lessVal (.inf true) v = true ∨ v = .inf true := by
  cases v with
  | nan s => cases h
  | inf n =>
    cases n
    · exact .inl rfl
    · exact .inr rfl
  | fin n m e => exact .inl rfl
theorem less_to_negInf (v : FVal) : lessVal v (.inf true) = false := by
  cases v with
  | nan s => rfl
  | inf n => cases n <;> rfl
  | fin n m e => rfl

/-- Which of two numbers is selected. -/
theorem select_real {f : FFmt} (isMax : Bool) {a b : Nat} {x y : ℚ} (hx : real (f.value a) = some x)
    (hy : real (f.value b) = some y) :
    real (f.value (if (if isMax then lessVal (f.value a) (f.value b) else lessVal (f.value b) (f.value a)) then b else a)) =
      some (if isMax then max x y else min x y) := by
  cases isMax with
  | true =>
    simp only [if_true]
    by_cases h : lessVal (f.value a) (f.value b) = true
    · rw [if_pos h, hy, max_eq_right]
      rcases (lessVal_real hx hy).1 h with h | ⟨h, -⟩
      · exact h.le
      · exact h.le
    · rw [if_neg h, hx, max_eq_left]
      exact not_lt.1 fun hlt => h ((lessVal_real hx hy).2 (.inl hlt))
  | false =>
    simp only [Bool.false_eq_true, if_false]
    by_cases h : lessVal (f.value b) (f.value a) = true
    · rw [if_pos h, hy, min_eq_right]
      rcases (lessVal_real hy hx).1 h with h | ⟨h, -⟩
      · exact h.le
      · exact h.le
    · rw [if_neg h, hx, min_eq_left]
      exact not_lt.1 fun hlt => h ((lessVal_real hy hx).2 (.inl hlt))

/-- Of two zeros the smaller is −0 when only it is. -/
theorem lessVal_zero {v w : FVal} (hv : real v = some 0) (hw : real w = some 0) : lessVal v w = (v.neg? && !w.neg?) := by
  rw [Bool.eq_iff_iff, lessVal_real hv hw]
  simp

/-- Of two zeros the minimum is −0 when one of them is, and the maximum +0. -/
theorem select_zero {f : FFmt} (isMax : Bool) {a b : Nat} (ha : a < 2 ^ f.width) (hb : b < 2 ^ f.width)
    (hx : real (f.value a) = some 0) (hy : real (f.value b) = some 0) :
    (if (if isMax then lessVal (f.value a) (f.value b) else lessVal (f.value b) (f.value a)) then b else a) / 2 ^ (f.width - 1) =
      if isMax then min (a / 2 ^ (f.width - 1)) (b / 2 ^ (f.width - 1))
      else max (a / 2 ^ (f.width - 1)) (b / 2 ^ (f.width - 1)) := by
  have hsigns : ∀ M n m : Bool,
      (if (if M then n && !m else m && !n) then (if m then 1 else 0) else if n then 1 else 0) =
        if M then min (if n then 1 else 0) (if m then 1 else 0) else max (if n then 1 else 0) (if m then 1 else 0) := by
    decide
  rw [apply_ite (· / 2 ^ (f.width - 1)), sign_of_value ha (nanSig_of_real hx), sign_of_value hb (nanSig_of_real hy),
    lessVal_zero hx hy, lessVal_zero hy hx]
  exact hsigns isMax _ _

theorem minMaxValues : MinMaxValues := by
  intro f hf isMax a ha b hb r
  have hnum (hna : nanSig (f.value a) = none) (hnb : nanSig (f.value b) = none) :
      r = ⟨if (if isMax then lessVal (f.value a) (f.value b) else lessVal (f.value b) (f.value a)) then b else a, 0⟩ :=
    fminmax_number hna hnb
  have hsame {n : Bool} (h : f.value a = .inf n) (h' : f.value b = .inf n) : a = b := (inf_code ha h).trans (inf_code hb h').symm
  refine ⟨fun h => ?_, fun hna hnb => ?_, fun x y hx hy => ?_, fun h hnb => ?_, fun h hnb => ?_, fun h hna => ?_, fun h hna => ?_⟩
  · have hr : r = _ := fminmax_nan h
    rw [hr]
    exact ⟨rfl, rfl⟩
  · rw [hnum hna hnb]
    exact ⟨rfl, (ite_eq_or_eq _ _ _).symm⟩
  · rw [hnum (nanSig_of_real hx) (nanSig_of_real hy)]
    exact ⟨select_real isMax hx hy, fun hx0 hy0 => select_zero isMax ha hb (hx0 ▸ hx) (hy0 ▸ hy)⟩
  · rw [hnum (by rw [h]; rfl) hnb]
    rcases less_to_posInf hnb with hl | hv
    · cases isMax <;> simp [h, less_posInf, hl]
    · simp [hsame h hv]
  · rw [hnum (by rw [h]; rfl) hnb]
    rcases less_negInf hnb with hl | hv
    · cases isMax <;> simp [h, less_to_negInf, hl]
    · simp [hsame h hv]
  · rw [hnum hna (by rw [h]; rfl)]
    rcases less_to_posInf hna with hl | hv
    · cases isMax <;> simp [h, less_posInf, hl]
    · simp [hsame hv h]
  · rw [hnum hna (by rw [h]; rfl)]
    rcases less_negInf hna with hl | hv
    · cases isMax <;> simp [h, less_to_negInf, hl]
    · simp [hsame hv h]

/-- Settles O23: the wiring of the forms, the sign bit as an exclusive or, and the order of values. -/
theorem floatSignAndMinMax : Obligations.FloatSignAndMinMax := ⟨signAndMinMax, minMaxValues⟩

end Sys2Proof.Machine
end

section
/-!
Compares into mask registers (R113, R199, R221, R240), and estimates (R227).
-/
namespace Sys2Proof.Machine
open Sys2Proof.Claims

/-! ### Relations -/

/-- A relation on two integers by their order. -/
theorem holds_compare (a b : Int) : Rel.holds .eq (compare a b) = decide (a = b) ∧ Rel.holds .ne (compare a b) = decide (a ≠ b) ∧
    Rel.holds .lt (compare a b) = decide (a < b) ∧ Rel.holds .le (compare a b) = decide (a ≤ b) ∧
    Rel.holds .gt (compare a b) = decide (b < a) ∧ Rel.holds .ge (compare a b) = decide (b ≤ a) := by
  rcases lt_trichotomy a b with h | rfl | h
  · rw [compare_lt_iff_lt.2 h]
    simp [Rel.holds, h, h.le, h.ne, h.not_ge, h.not_gt]
  · rw [compare_eq_iff_eq.2 rfl]
    simp [Rel.holds]
  · rw [compare_gt_iff_gt.2 h]
    simp [Rel.holds, h, h.le, h.ne', h.not_ge, h.not_gt]

/-! ### Scalar compares -/

/-- A test on the low bits of two words. -/
theorem opTst_eq (t : Ty) (a b : Word) : opTst t a.toNat b.toNat = decide (low t (a &&& b) ≠ 0) := by
  rw [low, BitVec.toNat_and, opTst, cutTo, Bool.eq_iff_iff]
  simp

theorem opTstz_eq (t : Ty) (a b : Word) : opTstz t a.toNat b.toNat = decide (low t (a &&& b) = 0) := by
  rw [low, BitVec.toNat_and, opTstz, cutTo, Bool.eq_iff_iff]
  simp

theorem exec_relations : ∀ p ∈ relations, ∃ f : Ty → Nat → Nat → Bool, (∀ h o s, exec (p.1 h o) s = mcmp f h o s) ∧
    (∀ h o s, exec (p.2.1 h o) s = mimm f h o s) ∧ ∀ t a b, f t a.toNat b.toNat = p.2.2 t a b := by
  simp only [relations, List.forall_mem_cons, List.not_mem_nil, false_implies, implies_true, and_true]
  exact ⟨⟨opRel .eq, fun _ _ _ => rfl, fun _ _ _ => rfl, fun t a b => (holds_compare _ _).1⟩,
    ⟨opRel .ne, fun _ _ _ => rfl, fun _ _ _ => rfl, fun t a b => (holds_compare _ _).2.1⟩,
    ⟨opRel .lt, fun _ _ _ => rfl, fun _ _ _ => rfl, fun t a b => (holds_compare _ _).2.2.1⟩,
    ⟨opRel .le, fun _ _ _ => rfl, fun _ _ _ => rfl, fun t a b => (holds_compare _ _).2.2.2.1⟩,
    ⟨opRel .gt, fun _ _ _ => rfl, fun _ _ _ => rfl, fun t a b => (holds_compare _ _).2.2.2.2.1⟩,
    ⟨opRel .ge, fun _ _ _ => rfl, fun _ _ _ => rfl, fun t a b => (holds_compare _ _).2.2.2.2.2⟩,
    ⟨opTst, fun _ _ _ => rfl, fun _ _ _ => rfl, opTst_eq⟩, ⟨opTstz, fun _ _ _ => rfl, fun _ _ _ => rfl, opTstz_eq⟩⟩

theorem scalarCompare : ScalarCompare := by
  intro p hm h s hp
  obtain ⟨f, hreg, himm, hf⟩ := exec_relations p hm
  refine ⟨fun o _ => ?_, fun o _ => ?_⟩
  · rw [hreg, ← hf]
    exact whole_resM hp
  · rw [himm, ← hf]
    exact whole_resM hp

/-! ### FP64 compares -/

theorem fp64Compare : Fp64Compare := by
  intro p hm h o s hp r
  rw [exec_laneRelations64 p hm, fcmpInto]
  have hbit : ((if r.1 then 1 else 0) == 1) = r.1 := by cases r.1 <;> rfl
  refine fwhole_outcome (val := fun x => (allOrNone (x == 1)).zeroExtend 256) hp (fun _ _ => rfl)
    (fun _ => Ctx.resM_lands _ _ _ _) fun d hd => ?_
  dsimp only at hd
  rw [show (if (fcompare .f64 p.2.2.1 (s.th.regs.fs o.a) (s.th.regs.fs o.b)).1 then 1 else 0) = if r.1 then 1 else 0 from rfl,
    hbit] at hd
  exact hd

/-! ### Lane compares -/

theorem testBit_bitsAt (x lo n i : Nat) : (bitsAt x lo n).testBit i = (decide (i < n) && x.testBit (lo + i)) := by
  rw [bitsAt, Nat.testBit_mod_two_pow, Nat.testBit_shiftRight]

/-- The bits of packed lanes. -/
theorem testBit_packLanes {w : Nat} (hw : 0 < w) (xs : List Nat) (k : Nat) :
    (packLanes w xs).testBit k = (xs.getD (k / w) 0).testBit (k % w) := by
  have h := congrArg (fun x => x.testBit (k % w)) (packLanes_lane w xs (k / w))
  have hlt := Nat.mod_lt k hw
  simpa [testBit_bitsAt, Nat.testBit_mod_two_pow, hlt, Nat.div_add_mod] using h

theorem getLsbD_mergeMask (h : Hdr) (s : State) (t : Ty) (d : BitVec 3) (holds : List Bool) {k : Nat} (hk : k < 32) :
    (mergeMask h s.th t d holds).getLsbD k =
      if isActive h s t (k / t.bytes) then holds.getD (k / t.bytes) false else (s.th.regs.rm d).getLsbD k := by
  have hlane : k / t.bytes < t.lanes := Nat.div_lt_of_lt_mul (by rw [Nat.mul_comm, Ty.lanes_bytes]; exact hk)
  have hlt := Nat.mod_lt k (Ty.bytes_pos t)
  rw [mergeMask, BitVec.getLsbD_ofNat, decide_eq_true hk, Bool.true_and, testBit_packLanes (Ty.bytes_pos t), getD_map_range _ _ hlane]
  show Nat.testBit (if isActive h s t (k / t.bytes) then _ else _) _ = _
  by_cases ha : isActive h s t (k / t.bytes) = true
  · rw [if_pos ha, if_pos ha]
    cases holds.getD (k / t.bytes) false <;> simp [Nat.testBit_two_pow_sub_one, hlt]
  · rw [if_neg ha, if_neg ha, testBit_bitsAt, decide_eq_true hlt, Bool.true_and, Nat.mul_comm, Nat.div_add_mod]
    exact (BitVec.testBit_toNat _)

theorem exec_laneRelations : ∀ p ∈ laneRelations, (∀ h s o, exec (p.1 h o) s = vcmp p.2.2.1 h o s) ∧
    ∀ a b : Int, p.2.2.1.holds (compare a b) = p.2.2.2 a b := by
  simp only [laneRelations, List.forall_mem_cons, List.not_mem_nil, false_implies, implies_true, and_true]
  exact ⟨⟨fun _ _ _ => rfl, fun a b => (holds_compare a b).1⟩, ⟨fun _ _ _ => rfl, fun a b => (holds_compare a b).2.1⟩,
    ⟨fun _ _ _ => rfl, fun a b => (holds_compare a b).2.2.1⟩, ⟨fun _ _ _ => rfl, fun a b => (holds_compare a b).2.2.2.1⟩,
    ⟨fun _ _ _ => rfl, fun a b => (holds_compare a b).2.2.2.2.1⟩, ⟨fun _ _ _ => rfl, fun a b => (holds_compare a b).2.2.2.2.2⟩⟩

theorem vectorCompare : VectorCompare := by
  intro p hm h o s _ holds fs
  obtain ⟨hexec, hrel⟩ := exec_laneRelations p hm
  have hlane : ∀ j < o.ty.lanes, (List.zipWith (laneRel p.2.2.1 o.ty) (s.th.regs.vs o.ty o.a) (s.th.regs.vs o.ty o.b)).getD j
      (false, 0) = (holds j, if o.ty.isInt then 0 else (fcompare (Ty.fmt o.ty) p.2.2.1 (lane s o.ty o.a j) (lane s o.ty o.b j)).2) := by
    intro j hj
    rw [zipWith_lane s o.ty o.a o.b _ _ hj, laneRel]
    dsimp only [holds]
    rw [← hrel, val_laneW, val_laneW]
    cases o.ty.isInt <;> rfl
  have hfs : ((List.range o.ty.lanes).map fun j => if active h s.th o.ty j then
      ((List.zipWith (laneRel p.2.2.1 o.ty) (s.th.regs.vs o.ty o.a) (s.th.regs.vs o.ty o.b)).getD j (false, 0)).2 else 0) = fs := by
    refine List.map_congr_left fun j hj => ?_
    rw [hlane j (List.mem_range.1 hj)]
    show (if isActive h s o.ty j then _ else _) = _
    cases isActive h s o.ty j <;> cases o.ty.isInt <;> rfl
  rw [hexec, vcmp, hfs]
  refine fpFinish_outcome_rne (q := specM o.d) (lat := 2) (x := (mergeMask h s.th o.ty o.d
    ((List.zipWith (laneRel p.2.2.1 o.ty) (s.th.regs.vs o.ty o.a) (s.th.regs.vs o.ty o.b)).map Prod.fst)).zeroExtend 256)
    (fun _ => rfl) (Ctx.resM_lands s.th o.d 2 _) fun d hd => ⟨_, hd, fun k hk => ?_⟩
  have hk' : k / o.ty.bytes < o.ty.lanes := Nat.div_lt_of_lt_mul (by rw [Nat.mul_comm, Ty.lanes_bytes]; exact hk)
  rw [getLsbD_mergeMask h s o.ty o.d _ hk]
  refine if_congr Iff.rfl ?_ rfl
  have hfst := congrArg Prod.fst (hlane _ hk')
  exact (List.getD_map _ (false, (0 : FFlags)) Prod.fst).trans hfst

/-- Settles O25: a compare is the order of its operands, and each bit of the mask belongs to one lane. -/
theorem compares : Obligations.Compares := ⟨scalarCompare, vectorCompare, fp64Compare⟩

/-! ### Estimates (R227) -/

/-- A function of a NaN is that NaN. -/
theorem rawFn_nan (f : Fn) (p : Nat) (sig : Bool) : rawFn f p (.nan sig) = .nan sig := by cases f <;> rfl

theorem fnEstimate_nan {f : Fn} {t : Ty} {x : Nat} {sig : Bool} (h : (Ty.fmt t).value x = .nan sig) :
    fnEstimate f t x = ⟨(Ty.fmt t).nanBits, if sig then 16 else 0⟩ := by
  unfold fnEstimate
  dsimp only
  rw [h, rawFn_nan]
  rfl

/-- Is the bound of a function relative. -/
def relative (f : Fn) : Bool := f == .rcp || f == .rsqrt || f == .exp

/-- What an estimate is chosen by: within the bound where the nearest value is, next to it where it is not. -/
def estFits (f : Fn) (t : Ty) (v : Ex) (c : FVal) : Bool :=
  if estHolds (relative f) v ((Ty.fmt t).value (roundTo (Ty.fmt t) .rne v).bits) then estHolds (relative f) v c
  else estNear (relative f) (Ty.fmt t) v c

/-- The value `c` when it fits, and the nearest value when it does not. -/
def estPick (f : Fn) (t : Ty) (v : Ex) (c : Nat) : FRes :=
  match (Ty.fmt t).value c with
  | .fin _ _ _ => if estFits f t v ((Ty.fmt t).value c) then ⟨c, 0⟩ else ⟨(roundTo (Ty.fmt t) .rne v).bits, 0⟩
  | _ => ⟨(roundTo (Ty.fmt t) .rne v).bits, 0⟩

theorem fnEstimate_of_exact {f : Fn} {t : Ty} {x : Nat} {v : Ex} (h : rawFn f estBits ((Ty.fmt t).value x) = .ex v) :
    ∃ (big special : Bool) (b : Nat), fnEstimate f t x = if big then ⟨b, fOF⟩
      else if special then ⟨(roundTo (Ty.fmt t) .rne v).bits, 0⟩
      else estPick f t v (Config.estimate f.code t.code.toNat x % 2 ^ (Ty.fmt t).width) := by
  unfold fnEstimate
  dsimp only
  rw [h]
  exact ⟨_, _, _, rfl⟩

/-- An estimate of an exact value: an overflow, the nearest value, or a value that fits. -/
theorem fnEstimate_exact {f : Fn} {t : Ty} {x : Nat} {v : Ex} (h : rawFn f estBits ((Ty.fmt t).value x) = .ex v) :
    (∃ b, fnEstimate f t x = ⟨b, fOF⟩) ∨ fnEstimate f t x = ⟨(roundTo (Ty.fmt t) .rne v).bits, 0⟩ ∨
      ∃ c, fnEstimate f t x = ⟨c, 0⟩ ∧ estFits f t v ((Ty.fmt t).value c) = true := by
  obtain ⟨big, special, b, heq⟩ := fnEstimate_of_exact h
  rw [heq]
  cases big with
  | true => exact .inl ⟨b, rfl⟩
  | false =>
    cases special with
    | true => exact .inr (.inl rfl)
    | false =>
      simp only [Bool.false_eq_true, if_false]
      generalize Config.estimate f.code t.code.toNat x % 2 ^ (Ty.fmt t).width = c
      unfold estPick
      split
      · split
        next hfits => exact .inr (.inr ⟨c, rfl, hfits⟩)
        next => exact .inr (.inl rfl)
      · exact .inr (.inl rfl)

theorem fnEstimate_flags (f : Fn) (t : Ty) (x : Nat) : (fnEstimate f t x).flags &&& 3 = 0 := by
  cases hraw : rawFn f estBits ((Ty.fmt t).value x) with
  | ex v =>
    have hflags : (fnEstimate f t x).flags = fOF ∨ (fnEstimate f t x).flags = 0 := by
      rcases fnEstimate_exact hraw with ⟨b, h⟩ | h | ⟨c, h, -⟩
      · exact .inl (congrArg FRes.flags h)
      · exact .inr (congrArg FRes.flags h)
      · exact .inr (congrArg FRes.flags h)
    rcases hflags with h | h
    · rw [h]
      decide
    · rw [h]
      decide
  | nan iv =>
    have h : fnEstimate f t x = ⟨(Ty.fmt t).nanBits, fWhen iv fIV⟩ := by
      unfold fnEstimate
      dsimp only
      rw [hraw]
      rfl
    rw [h]
    cases iv <;> simp [fWhen, fIV]
  | inf neg dz =>
    have h : fnEstimate f t x = Raw.round (Ty.fmt t) .rne (.inf neg dz) := by
      unfold fnEstimate
      dsimp only
      rw [hraw]
    rw [h, Raw.round]
    split
    · cases dz <;> simp [fWhen, fDZ]
    · simp [fIV]

/-- An estimate keeps the bound where the nearest value does, and is the nearest value or next to the bound where it does not. -/
theorem fnEstimate_bound {f : Fn} {t : Ty} {x : Nat} {v : Ex} (h : rawFn f estBits ((Ty.fmt t).value x) = .ex v)
    (hov : (fnEstimate f t x).flags.getLsbD 2 = false) :
    (estHolds (relative f) v ((Ty.fmt t).value (roundTo (Ty.fmt t) .rne v).bits) = true →
      estHolds (relative f) v ((Ty.fmt t).value (fnEstimate f t x).bits) = true) ∧
    (estHolds (relative f) v ((Ty.fmt t).value (roundTo (Ty.fmt t) .rne v).bits) = false →
      (fnEstimate f t x).bits = (roundTo (Ty.fmt t) .rne v).bits ∨
        estNear (relative f) (Ty.fmt t) v ((Ty.fmt t).value (fnEstimate f t x).bits) = true) := by
  rcases fnEstimate_exact h with ⟨b, he⟩ | he | ⟨c, he, hfits⟩
  · have hbit : fOF.getLsbD 2 = true := by decide
    rw [he, hbit] at hov
    cases hov
  · rw [he]
    exact ⟨id, fun _ => .inl rfl⟩
  · rw [he]
    rw [estFits] at hfits
    exact ⟨fun hnear => by rwa [if_pos hnear] at hfits, fun hnear => .inr (by rwa [if_neg (by simp [hnear])] at hfits)⟩

theorem exec_estimates : ∀ p ∈ estimates, ∀ h s o, exec (p.1 h o) s = vest p.2 h o s := by
  simp only [estimates, List.forall_mem_cons, List.not_mem_nil, false_implies, implies_true, and_true]
  exact ⟨fun _ _ _ => rfl, fun _ _ _ => rfl, fun _ _ _ => rfl, fun _ _ _ => rfl, fun _ _ _ => rfl, fun _ _ _ => rfl⟩

theorem estimates_hold : Estimates := by
  intro p hm h o s _
  rw [exec_estimates p hm, vest]
  refine ⟨fun hdet => ?_, fun hdet => ?_, fun x => ?_⟩
  · rw [if_pos hdet]
    exact faultOut_faults s 0 (by decide) (by decide)
  · intro r
    rw [if_neg hdet]
    exact vfloat_outcome (r := r) fun _ _ => rfl
  · have hrel : relative p.2 = decide (p.2 = .rcp ∨ p.2 = .rsqrt ∨ p.2 = .exp) := by cases p.2 <;> rfl
    rw [← hrel]
    exact ⟨fnEstimate_flags _ _ _, fun sig hv => fnEstimate_nan hv, fun v hv _ _ hov => fnEstimate_bound hv hov⟩

/-- Settles O24: the functions are forms of lanes and of the FP64 unit, and an estimate is a value that fits the bound. -/
theorem floatFunctions_hold : Obligations.FloatFunctions := ⟨roundedFunctions, estimates_hold⟩

end Sys2Proof.Machine
end

section
/-!
Conversions and what they give (R113, R228, R240).
-/
namespace Sys2Proof.Machine
open Sys2Proof.Claims

/-! ### Conversions of lanes (R228) -/

/-- The first destination lane that a conversion writes. -/
def cvtFirst (o : VCvt) : Nat :=
  if o.src.lanes < o.ty.lanes then o.part.toNat * min o.src.lanes o.ty.lanes else 0

/-- Is a destination lane one of those that a conversion writes, and active. -/
def cvtIn (h : Hdr) (s : State) (o : VCvt) (j : Nat) : Bool :=
  decide (cvtFirst o ≤ j ∧ j < cvtFirst o + min o.src.lanes o.ty.lanes) && isActive h s o.ty j

theorem cvtIndex_eq (o : VCvt) (j : Nat) : cvtIndex o j =
    if cvtFirst o ≤ j ∧ j < cvtFirst o + min o.src.lanes o.ty.lanes then some (j - cvtFirst o) else none := by
  unfold cvtIndex cvtFirst
  dsimp only
  split
  · rfl
  · simp

/-- The source lane of a destination lane. -/
theorem cvtSource_eq (o : VCvt) (j : Nat) : cvtSource o (j - cvtFirst o) =
    if o.ty.lanes < o.src.lanes then o.part.toNat * min o.src.lanes o.ty.lanes + j else j - cvtFirst o := by
  unfold cvtSource
  split
  next hlt =>
    rw [cvtFirst, if_neg (by omega), Nat.sub_zero, min_eq_right hlt.le]
  next => rfl

/-- The converted element of a destination lane. -/
def cvtLane (s : State) (o : VCvt) (j : Nat) : FRes :=
  convert o.src o.ty (modeAt s.th.sr o.rm (j - cvtFirst o))
    (lane s o.src o.a (if o.ty.lanes < o.src.lanes then o.part.toNat * min o.src.lanes o.ty.lanes + j else j - cvtFirst o))

/-- The lanes of a conversion: those outside the n keep their value and raise nothing. -/
def cvtRes (h : Hdr) (s : State) (o : VCvt) : List FRes :=
  (List.range o.ty.lanes).map fun j => if cvtIn h s o j then cvtLane s o j else ⟨laneR s o.ty o.d j, 0⟩

theorem execVcvt_eq (h : Hdr) (o : VCvt) (s : State) : exec (.vcvt h o) s =
    fpFinish s ((cvtRes h s o).map FRes.flags) fun c =>
      c.fpResult (specV o.d) 4 (ofLanes o.ty.bits ((cvtRes h s o).map FRes.bits)) o.rm (min o.src.lanes o.ty.lanes) := by
  have hres : ((List.range o.ty.lanes).map fun jd => match cvtIndex o jd with
      | none => (⟨(s.th.regs.vl o.ty o.d).getD jd 0, 0⟩ : FRes)
      | some i =>
        if active h s.th o.ty jd then convert o.src o.ty (modeAt s.th.sr o.rm i) ((s.th.regs.vs o.src o.a).getD (cvtSource o i) 0)
        else ⟨(s.th.regs.vl o.ty o.d).getD jd 0, 0⟩) = cvtRes h s o := by
    refine List.map_congr_left fun j hj => ?_
    rw [vl_getD s o.ty o.d (List.mem_range.1 hj), cvtIndex_eq, cvtIn]
    by_cases hin : cvtFirst o ≤ j ∧ j < cvtFirst o + min o.src.lanes o.ty.lanes
    · rw [if_pos hin, decide_eq_true hin, Bool.true_and]
      dsimp only
      rw [cvtSource_eq]
      rfl
    · rw [if_neg hin, decide_eq_false hin, Bool.false_and]
      rfl
  rw [← hres]
  rfl

theorem vcvt_outcome (h : Hdr) (o : VCvt) (s : State) :
    fpOutcome s (exec (.vcvt h o) s) ((List.range o.ty.lanes).map fun j => if cvtIn h s o j then (cvtLane s o j).flags else 0)
      o.rm (min o.src.lanes o.ty.lanes) fun c => ∃ x, lands s.th c (specV o.d) 4 x ∧ ∀ j < o.ty.lanes, laneOf o.ty.bits x j =
        if cvtIn h s o j then (cvtLane s o j).bits % 2 ^ o.ty.bits else laneR s o.ty o.d j := by
  have hflags : (cvtRes h s o).map FRes.flags =
      (List.range o.ty.lanes).map fun j => if cvtIn h s o j then (cvtLane s o j).flags else 0 := by
    rw [cvtRes, List.map_map]
    exact List.map_congr_left fun j _ => apply_ite FRes.flags (cvtIn h s o j = true) _ _
  rw [execVcvt_eq, ← hflags]
  refine fpFinish_outcome (fun _ => rfl) (Ctx.resV_lands s.th o.d 4 _) fun c hc => ⟨_, hc, fun j hj => ?_⟩
  have hj' : j < 256 / o.ty.bits := by rwa [Ty.lanes_eq]
  rw [laneOf_ofLanes _ (lane_fits hj'), cvtRes, List.map_map, getD_map_range _ _ hj]
  dsimp only [Function.comp]
  by_cases hin : cvtIn h s o j = true
  · rw [if_pos hin, if_pos hin]
  · rw [if_neg hin, if_neg hin]
    exact Nat.mod_eq_of_lt (laneOf_lt _ _ _)

theorem conversions : Conversions := by
  refine fun h s => ⟨fun o _ => vcvt_outcome h o s, fun o _ hon => ?_⟩
  intro r
  have hr : r = convert o.src o.ty (modeAt s.th.sr o.rm 0) (s.th.regs.cvtBits o.src o.a) := by
    dsimp only [r]
    cases o.a <;> rfl
  clear_value r
  subst hr
  rw [exec_fcvt]
  exact fwhole_outcome (val := fun x => (if o.ty.isInt then extByType o.ty (x : Int) else zext64 o.ty.bits x).zeroExtend 256)
    hon (fun _ _ => rfl) (fun _ => Ctx.resG_lands _ _ _ _) fun _ hd => hd

/-! ### What a conversion gives (R113) -/

theorem convert_eq (src dst : Ty) (mode : RMode) (x : Nat) : convert src dst mode x =
    if dst.isInt then floatToInt dst.signed dst.bits mode (valueOf src x) else (rawOf (valueOf src x)).round (Ty.fmt dst) mode := rfl

/-- A signed magnitude. -/
theorem signed_magnitude_inj {n n' : Bool} {a b : ℚ} (ha : 0 < a) (hb : 0 ≤ b)
    (h : (if n then -1 else 1) * a = (if n' then -1 else 1) * b) : n = n' ∧ a = b := by
  cases n <;> cases n' <;> simp at h ⊢ <;> linarith

/-- A number that the format holds arrives as it is. -/
theorem round_of_held {f : FFmt} (hf : f.Proper) {mode : RMode} (hw : ∀ w, mode = .sr w → w < 2 ^ 32) {n : Bool} {m y : Nat}
    {e : Int} (hy : y < 2 ^ f.width) (h : real (f.value y) = real (.fin n m e)) :
    real (f.value (roundTo f mode ⟨n, m, e, false⟩).bits) = real (.fin n m e) ∧ (roundTo f mode ⟨n, m, e, false⟩).flags = 0 := by
  by_cases hm : m = 0
  · subst hm
    have hcode : f.code f.qmin 0 = 0 := by rw [FFmt.code, Int.sub_self, Int.toNat_zero, Nat.zero_mul]
    have hv := value_code hf (q := f.qmin) (k := 0) ⟨le_refl _, .inl rfl⟩ (Nat.two_pow_pos _) (by rw [hcode]; exact Nat.zero_le _) n
    rw [hcode] at hv
    rw [roundTo_zero]
    refine ⟨?_, rfl⟩
    rw [FFmt.signPart, ← Nat.add_zero (if n = true then f.signBit else 0), hv, real, real, Nat.cast_zero, mul_zero, zero_mul, zero_mul]
  · have hpos : (0 : ℚ) < m * 2 ^ e := mul_pos (by exact_mod_cast Nat.pos_of_ne_zero hm) (zpow_pos two_pos _)
    cases hv : f.value y with
    | nan sig =>
      rw [hv] at h
      cases h
    | inf n' =>
      rw [hv] at h
      cases h
    | fin n' k q =>
      have heq : (if n then -1 else 1) * ((m : ℚ) * 2 ^ e) = (if n' then -1 else 1) * ((k : ℚ) * 2 ^ q) := by
        rw [hv, real, real, mul_assoc, mul_assoc] at h
        exact (Option.some.inj h).symm
      obtain ⟨rfl, hmag⟩ := signed_magnitude_inj hpos (by positivity) heq
      rw [roundTo_of_value hf hm (.inl hw) hy hv hmag, ← h]
      exact ⟨rfl, rfl⟩

/-- A floating value in an integer: its rounded number, exact when the number is one. -/
theorem floatToInt_fin {t : Ty} {mode : RMode} (hw : ∀ w, mode = .sr w → w < 2 ^ 32) (n : Bool) (m : Nat) (e : Int) :
    let k : Int := (if n then -1 else 1) * ((roundMag mode ⟨n, m, e, false⟩ 0).1 : Int)
    floatToInt t.signed t.bits mode (.fin n m e) =
      if k < intMin t.signed t.bits then ⟨wrapTo t (intMin t.signed t.bits), 16⟩
      else if intMax t.signed t.bits < k then ⟨wrapTo t (intMax t.signed t.bits), 16⟩
      else ⟨wrapTo t k, if real (.fin n m e) = some (k : ℚ) then 0 else 1⟩ := by
  intro k
  have hk : (if n then -((roundMag mode ⟨n, m, e, false⟩ 0).1 : Int) else (roundMag mode ⟨n, m, e, false⟩ 0).1) = k := by
    cases n <;> simp [k]
  have hexact : real (.fin n m e) = some (k : ℚ) ↔ (roundMag mode ⟨n, m, e, false⟩ 0).2 = false := by
    rw [roundMag_exact_iff hw, real, Option.some.injEq, zpow_zero, mul_one, mul_assoc]
    cases n <;> simp [k]
  have hflag : fWhen (roundMag mode ⟨n, m, e, false⟩ 0).2 fIX = if real (.fin n m e) = some (k : ℚ) then 0 else 1 := by
    rw [fWhen]
    by_cases h : (roundMag mode ⟨n, m, e, false⟩ 0).2 = false
    · rw [if_pos (hexact.2 h), h]
      rfl
    · rw [if_neg (mt hexact.1 h), if_pos (by simpa using h)]
      rfl
  rw [← hflag, ← hk]
  rfl

theorem valueOf_eq (src : Ty) (x : Nat) : valueOf src x =
    if src.isInt then intVal (val src (BitVec.ofNat 64 x)) else (Ty.fmt src).value x := by
  rw [val_ofNat]
  rfl

theorem conversionValues : ConversionValues := by
  intro src dst mode x _ r f lo hi v hx hw
  have hv : valueOf src x = v := valueOf_eq src x
  have hr : r = _ := convert_eq src dst mode x
  rw [hv] at hr
  clear_value r
  refine ⟨fun sig h => ?_, fun n h => ?_, fun n m e h hint => ?_, fun n m e y h hint hy heq => ?_⟩
  · rw [h] at hr
    by_cases hint : dst.isInt = true
    · rw [if_pos hint] at hr ⊢
      exact hr
    · rw [if_neg hint] at hr ⊢
      exact hr
  · rw [h] at hr
    by_cases hint : dst.isInt = true
    · rw [if_pos hint] at hr ⊢
      exact hr
    · rw [if_neg hint] at hr ⊢
      rw [hr, rawOf, Raw.round]
      by_cases hform : f.form = .ieee
      · rw [if_pos hform, if_pos (by simpa using hform), ← signPart_eq]
        rfl
      · rw [if_neg hform, if_neg (by simpa using hform)]
        rfl
  · rw [h, if_pos hint] at hr
    rw [hr, h]
    exact floatToInt_fin hw n m e
  · rw [hint] at hr
    rw [h] at hr heq ⊢
    rw [hr]
    exact round_of_held (Ty.fmt_proper dst) hw hy heq

end Sys2Proof.Machine
end

section
/-!
Block formats: exponent pairs and codes (R110, R111), and the instructions that make and read them (R229 to R231).
-/
namespace Sys2Proof.Machine
open Sys2Proof.Claims

/-! ### Magnitudes -/

theorem magn_fin (n : Bool) (m : Nat) (e : Int) : magn (.fin n m e) = (m : ℚ) * 2 ^ e := by
  have hpos : (0 : ℚ) ≤ (m : ℚ) * 2 ^ e := by positivity
  rw [magn, real, mul_assoc]
  cases n <;> simp [abs_of_nonneg hpos]

theorem magn_special {v : FVal} (h : real v = none) : magn v = 0 := by rw [magn, h]; rfl

/-- Comparison of two scaled magnitudes. -/
theorem scaled_le_iff {m k : Nat} {e q e0 : Int} (he : e0 ≤ e) (hq : e0 ≤ q) :
    scaled false m e e0 ≤ scaled false k q e0 ↔ (m : ℚ) * 2 ^ e ≤ (k : ℚ) * 2 ^ q := by
  have hm : (m : ℚ) * 2 ^ e = ((m * 2 ^ (e - e0).toNat : Nat) : ℚ) * 2 ^ e0 := (scale_iff he).2 rfl
  have hk : (k : ℚ) * 2 ^ q = ((k * 2 ^ (q - e0).toNat : Nat) : ℚ) * 2 ^ e0 := (scale_iff hq).2 rfl
  rw [hm, hk, mul_le_mul_iff_left₀ (zpow_pos two_pos e0), Nat.cast_le, scaled, scaled, Nat.shiftLeft_eq, Nat.shiftLeft_eq]
  exact Int.ofNat_le

theorem magLe_iff (a b : Nat × Int) : magLe a b = true ↔ (a.1 : ℚ) * 2 ^ a.2 ≤ (b.1 : ℚ) * 2 ^ b.2 := by
  rw [magLe, decide_eq_true_eq]
  exact scaled_le_iff (min_le_left _ _) (min_le_right _ _)

/-- The largest element of a block in terms of the step of its exponent (R111). -/
def blockBound (four : Bool) : ℚ := (bfpMax four : ℚ) / 2 ^ bfpQ four

theorem withinBnd_iff (four : Bool) (m : Nat) (e k : Int) :
    withinBnd four m e k = true ↔ (m : ℚ) * 2 ^ e ≤ blockBound four * 2 ^ k := by
  have hpos : (0 : ℚ) < 2 ^ bfpQ four := by positivity
  rw [withinBnd, decide_eq_true_eq, scaled_le_iff (min_le_left _ _) (min_le_right _ _), zpow_add₀ (two_ne_zero' ℚ), zpow_natCast,
    blockBound, div_mul_eq_mul_div, le_div_iff₀ hpos, mul_assoc]

/-! ### The exponent pair of a block (R111) -/

/-- The largest finite magnitude of a block bounds them all, and one of them is it. -/
theorem blockMax_spec (xs : List FVal) : (∀ v ∈ xs, magn v ≤ ((blockMax xs).1 : ℚ) * 2 ^ (blockMax xs).2) ∧
    ((blockMax xs).1 ≠ 0 → ∃ v ∈ xs, magn v = ((blockMax xs).1 : ℚ) * 2 ^ (blockMax xs).2) := by
  induction xs with
  | nil => simp [blockMax]
  | cons x xs ih =>
    obtain ⟨hall, hsome⟩ := ih
    have hpos : (0 : ℚ) ≤ ((blockMax xs).1 : ℚ) * 2 ^ (blockMax xs).2 := by positivity
    have hskip (hx : blockMax (x :: xs) = blockMax xs) (hle : magn x ≤ ((blockMax xs).1 : ℚ) * 2 ^ (blockMax xs).2) :
        (∀ v ∈ x :: xs, magn v ≤ ((blockMax (x :: xs)).1 : ℚ) * 2 ^ (blockMax (x :: xs)).2) ∧
        ((blockMax (x :: xs)).1 ≠ 0 → ∃ v ∈ x :: xs, magn v = ((blockMax (x :: xs)).1 : ℚ) * 2 ^ (blockMax (x :: xs)).2) := by
      rw [hx]
      refine ⟨List.forall_mem_cons.2 ⟨hle, hall⟩, fun h => ?_⟩
      obtain ⟨v, hv, heq⟩ := hsome h
      exact ⟨v, List.mem_cons_of_mem _ hv, heq⟩
    cases x with
    | nan s => exact hskip rfl (by rw [magn_special rfl]; exact hpos)
    | inf n => exact hskip rfl (by rw [magn_special rfl]; exact hpos)
    | fin n m e =>
      by_cases hle : magLe (m, e) (blockMax xs) = true
      · exact hskip (if_pos hle) (by rw [magn_fin]; exact (magLe_iff _ _).1 hle)
      · have hx : blockMax (.fin n m e :: xs) = (m, e) := if_neg hle
        have hlt := lt_of_not_ge (mt (magLe_iff _ _).2 hle)
        rw [hx]
        refine ⟨List.forall_mem_cons.2 ⟨(magn_fin n m e).le, fun v hv => (hall v hv).trans hlt.le⟩, fun _ =>
          ⟨_, List.mem_cons_self, magn_fin n m e⟩⟩

/-- Does a block hold an infinity or a NaN. -/
theorem special_eq (xs : List FVal) : (xs.any fun v => match v with | .fin _ _ _ => false | _ => true) =
    xs.any fun v => (real v).isNone := by
  congr 1
  funext v
  cases v <;> rfl

/-- The exponent of a block whose largest magnitude is `m * 2 ^ e`. -/
def blockExp (four : Bool) (m : Nat) (e : Int) : Nat :=
  let h := if withinBnd four m e ((Nat.log2 m : Int) + e) then (Nat.log2 m : Int) + e + 127 else (Nat.log2 m : Int) + e + 128
  if h < 1 then 1 else if h > 254 then 254 else h.toNat

theorem clamp_exponent (h : Int) : (if h < 1 then 1 else if h > 254 then 254 else h.toNat) = (max 1 (min 254 h)).toNat := by
  split
  · omega
  · split <;> omega

theorem bfpPair_eq (four : Bool) (xs : List FVal) {hi : Nat}
    (hhi : hi = if (blockMax xs).1 = 0 then 0 else blockExp four (blockMax xs).1 (blockMax xs).2) :
    bfpPair four xs = if xs.any fun v => (real v).isNone then (hi, 0xFF)
      else (if hi = 0 then 0 else max (hi - bfpGap four) 1, hi) := by
  rw [hhi, ← special_eq]
  rfl

theorem bfpPair_zero {four : Bool} {xs : List FVal} (h : ∀ v ∈ xs, magn v = 0) :
    bfpPair four xs = if xs.any fun v => (real v).isNone then (0, 0xFF) else (0, 0) := by
  refine bfpPair_eq four xs (hi := 0) ?_
  have h0 : (blockMax xs).1 = 0 := by
    by_contra hne
    obtain ⟨v, hv, heq⟩ := (blockMax_spec xs).2 hne
    have hpos : (0 : ℚ) < ((blockMax xs).1 : ℚ) * 2 ^ (blockMax xs).2 := by positivity
    rw [h v hv] at heq
    exact hpos.ne heq
  rw [if_pos h0]

/-- The exponent of a block by the binade of its largest magnitude. -/
theorem bfpPair_binade {four : Bool} {xs : List FVal} {M : ℚ} {e : Int} (hall : ∀ v ∈ xs, magn v ≤ M)
    (hsome : ∃ v ∈ xs, magn v = M) (hlow : (2 : ℚ) ^ e ≤ M) (hhigh : M < 2 ^ (e + 1)) :
    let hi := (max 1 (min 254 (if M ≤ blockBound four * 2 ^ e then e + 127 else e + 128))).toNat
    bfpPair four xs = if xs.any fun v => (real v).isNone then (hi, 0xFF) else (max (hi - bfpGap four) 1, hi) := by
  intro hi
  obtain ⟨hle, hex⟩ := blockMax_spec xs
  have hMpos : 0 < M := lt_of_lt_of_le (zpow_pos two_pos e) hlow
  obtain ⟨v, hv, hvM⟩ := hsome
  have hne : (blockMax xs).1 ≠ 0 := by
    intro h0
    have := hle v hv
    rw [hvM, h0, Nat.cast_zero, zero_mul] at this
    exact absurd hMpos (not_lt.2 this)
  obtain ⟨w, hw, hwm⟩ := hex hne
  have hM : ((blockMax xs).1 : ℚ) * 2 ^ (blockMax xs).2 = M := le_antisymm (hwm ▸ hall w hw) (hvM ▸ hle v hv)
  have he : (Nat.log2 (blockMax xs).1 : Int) + (blockMax xs).2 = e := by
    obtain ⟨h1, h2⟩ := log2_binade hne (blockMax xs).2
    rw [hM] at h1 h2
    exact binade_unique h1 h2 hlow hhigh
  have hhi : blockExp four (blockMax xs).1 (blockMax xs).2 = hi := by
    have hwithin := withinBnd_iff four (blockMax xs).1 (blockMax xs).2 e
    rw [hM] at hwithin
    unfold blockExp
    dsimp only [hi]
    rw [he, if_congr hwithin rfl rfl]
    exact clamp_exponent _
  have hpos : hi ≠ 0 := by omega
  rw [bfpPair_eq four xs (hi := hi) (by rw [if_neg hne, hhi]), if_neg hpos]

/-! ### The code of an element (R111, R230) -/

theorem bfpEncode_fin (four : Bool) {e0 e1 : Nat} {mode : RMode} (s : Bool) (h1 : e1 ≠ 0xFF) (h0 : e0 ≠ 0xFF)
    (hw : ∀ w, mode = .sr w → w < 2 ^ 32) (m : Nat) (e : Int) :
    let sel := !(decide (e0 ≠ 0 ∧ magn (.fin s m e) ≤ blockBound four * (2 : ℚ) ^ ((e0 : Int) - 127)))
    let E := if sel then e1 else e0
    let k := (roundMag mode ⟨s, m, e + bfpQ four + 127 - (E : Int), false⟩ 0).1
    bfpEncode four e0 e1 mode s (.fin s m e) = ⟨bfpCode four sel s (if E = 0 then 0 else min k (bfpMax four)),
      if E = 0 then (if m = 0 then 0 else 1) else if bfpMax four < k then 5
        else if (k : ℚ) = magn (.fin s m e) * 2 ^ bfpQ four * 2 ^ (127 - (E : Int)) then 0 else 1⟩ := by
  intro sel E k
  have hsel : (!(decide (e1 = 0xFF) || (decide (e0 ≠ 0) && withinBnd four m e ((e0 : Int) - 127)))) = sel := by
    rw [decide_eq_false h1, Bool.false_or, Bool.eq_iff_iff]
    simp [sel, ← withinBnd_iff, magn_fin]
  have hE : E ≠ 0xFF := by
    dsimp only [E]
    split
    · exact h1
    · exact h0
  have hexact : (k : ℚ) = magn (.fin s m e) * 2 ^ bfpQ four * 2 ^ (127 - (E : Int)) ↔
      (roundMag mode ⟨s, m, e + bfpQ four + 127 - (E : Int), false⟩ 0).2 = false := by
    have h2 : (2 : ℚ) ≠ 0 := two_ne_zero
    have hmag : magn (.fin s m e) * 2 ^ bfpQ four * 2 ^ (127 - (E : Int)) = (m : ℚ) * 2 ^ (e + bfpQ four + 127 - (E : Int)) := by
      rw [magn_fin, ← zpow_natCast, mul_assoc, mul_assoc, ← zpow_add₀ h2, ← zpow_add₀ h2, add_sub_assoc, add_assoc]
    rw [roundMag_exact_iff hw, hmag, zpow_zero, mul_one, eq_comm]
  unfold bfpEncode
  dsimp only
  rw [hsel]
  change (if E = 0 then (⟨bfpCode four sel s 0, fWhen (m ≠ 0) fIX⟩ : FRes) else if E = 0xFF then ⟨bfpCode four sel s 1, fIV⟩
    else if k > bfpMax four then ⟨bfpCode four sel s (bfpMax four), fOF ||| fIX⟩
    else ⟨bfpCode four sel s k, fWhen (roundMag mode ⟨s, m, e + bfpQ four + 127 - (E : Int), false⟩ 0).2 fIX⟩) = _
  rw [if_neg hE]
  by_cases hE0 : E = 0
  · rw [if_pos hE0, if_pos hE0, if_pos hE0, fWhen]
    by_cases hm : m = 0 <;> simp [hm, fIX]
  · rw [if_neg hE0, if_neg hE0, if_neg hE0]
    by_cases hk : bfpMax four < k
    · rw [if_pos hk, if_pos hk, min_eq_right hk.le]
      rfl
    · rw [if_neg hk, if_neg hk, min_eq_left (not_lt.1 hk), fWhen]
      by_cases hx : (roundMag mode ⟨s, m, e + bfpQ four + 127 - (E : Int), false⟩ 0).2 = false
      · rw [if_pos (hexact.2 hx), hx]
        rfl
      · rw [if_neg (mt hexact.1 hx), if_pos (by simpa using hx)]
        rfl

theorem blockCodes : BlockCodes := by
  intro four mmax qlog gap mb bnd
  refine ⟨fun xs => ⟨bfpPair_zero, fun M e hall hsome hlow hhigh => bfpPair_binade hall hsome hlow hhigh⟩,
    fun e0 e1 mode s h1 h0 hw m e => bfpEncode_fin four s h1 h0 hw m e⟩

/-! ### The block instructions (R229 to R231) -/

theorem predOn_of_plain {h : Hdr} (hp : h.plain = true) (R : Regs) : predOn h R = true := by
  simp only [Hdr.plain, Bool.and_eq_true, beq_iff_eq, Bool.not_eq_true'] at hp
  obtain ⟨hreg, hneg⟩ := hp
  rw [predOn, predMask, hneg, hreg]
  simp [Regs.rm]

theorem exec_vbfpx (h : Hdr) (o : Vbfpx) (s : State) : exec (.vbfpx h o) s = whole h (fun c => c.resG o.d 4
    (BitVec.ofNat 64 ((bfpPair (o.ty == .bfp4) ((c.regs.block o.base).map FFmt.f32.value)).2 * 256 +
      (bfpPair (o.ty == .bfp4) ((c.regs.block o.base).map FFmt.f32.value)).1))) s := rfl

/-- What `vbfpe` writes. -/
def encodedV (hi : Bool) (o : Vbfpe) (old : VWord) (rs : List FRes) : VWord :=
  if o.ty = .bfp4 then
    BitVec.ofNat 256 (if hi then old.toNat % 2 ^ 128 + packLanes 4 (rs.map FRes.bits) * 2 ^ 128
      else old.toNat / 2 ^ 128 * 2 ^ 128 + packLanes 4 (rs.map FRes.bits))
  else ofLanes 8 (rs.map FRes.bits)

theorem vbfpe_eq (hi : Bool) (o : Vbfpe) (s : State) : vbfpe hi o s =
    fpFinish s ((encodeBlock s.th o.ty o.rm o.base (s.th.regs.gr o.b)).map FRes.flags) fun c =>
      c.fpResult (specV o.d) 4 (encodedV hi o (c.regs.rv o.d) (encodeBlock s.th o.ty o.rm o.base (s.th.regs.gr o.b))) o.rm 32 := rfl

theorem encodeBlock_length (c : Ctx) (ty : Ty) (rm : Rnd) (base : BitVec 5) (pair : Word) :
    (encodeBlock c ty rm base pair).length = 32 := by
  simp only [encodeBlock, Regs.block, Regs.vl, lanesOf, List.length_flatMap, List.length_mapIdx, List.length_map, List.length_range]
  rfl

theorem vbfpe_outcome (hi : Bool) (o : Vbfpe) (s : State) {P : VWord → Prop}
    (hP : P (encodedV hi o (s.th.regs.rv o.d) (encodeBlock s.th o.ty o.rm o.base (s.th.regs.gr o.b)))) :
    fpOutcome s (vbfpe hi o s) ((encodeBlock s.th o.ty o.rm o.base (s.th.regs.gr o.b)).map FRes.flags) o.rm 32 fun c =>
      ∃ x, lands s.th c (specV o.d) 4 x ∧ P x := by
  rw [vbfpe_eq]
  refine fpFinish_outcome (q := specV o.d) (lat := 4)
    (x := encodedV hi o (s.th.regs.rv o.d) (encodeBlock s.th o.ty o.rm o.base (s.th.regs.gr o.b))) (fun _ => ?_)
    (Ctx.resV_lands s.th o.d 4 _) fun c hc => ⟨_, hc, hP⟩
  rfl

/-- Bits above a split. -/
theorem bitsAt_high (x lo n a : Nat) : bitsAt x (a + lo) n = bitsAt (x / 2 ^ a) lo n := by
  rw [bitsAt, bitsAt, Nat.shiftRight_add, Nat.shiftRight_eq_div_pow x a]

/-- A lane of four bits below and above the half of a register. -/
theorem lane4_halves (high low : Nat) (hlow : low < 2 ^ 128) (hhigh : high < 2 ^ 128) {j : Nat} (hj : j < 64) :
    laneOf 4 (BitVec.ofNat 256 (high * 2 ^ 128 + low)) j = if j < 32 then bitsAt low (4 * j) 4 else bitsAt high (4 * (j - 32)) 4 := by
  have hfit : high * 2 ^ 128 + low < 2 ^ 256 := by omega
  rw [laneOf, BitVec.toNat_ofNat, Nat.mod_eq_of_lt hfit]
  by_cases h : j < 32
  · rw [if_pos h, ← bitsAt_mod (k := 128) (by omega), Nat.mul_comm high, Nat.mul_add_mod, Nat.mod_eq_of_lt hlow]
  · have hsplit : 4 * j = 128 + 4 * (j - 32) := by omega
    rw [if_neg h, hsplit, bitsAt_high, Nat.mul_comm high, Nat.mul_add_div (Nat.two_pow_pos _), Nat.div_eq_of_lt hlow, Nat.add_zero]

theorem packLanes_lt (w : Nat) (xs : List Nat) : packLanes w xs < 2 ^ (w * xs.length) := by
  induction xs with
  | nil => simp [packLanes]
  | cons x xs ih =>
    have hx : x % 2 ^ w < 2 ^ w := Nat.mod_lt _ (Nat.two_pow_pos w)
    rw [packLanes, List.length_cons, Nat.mul_succ, Nat.add_comm (w * xs.length), pow_add]
    calc x % 2 ^ w + 2 ^ w * packLanes w xs < 2 ^ w * (packLanes w xs + 1) := by rw [Nat.mul_add]; omega
      _ ≤ 2 ^ w * 2 ^ (w * xs.length) := Nat.mul_le_mul_left _ ih

/-- The code of an element, among those that `vbfpe` packs. -/
theorem map_bits_getD (rs : List FRes) (j : Nat) : (rs.map FRes.bits).getD j 0 = (rs.getD j ⟨0, 0⟩).bits :=
  List.getD_map rs (⟨0, 0⟩ : FRes) FRes.bits

section
variable (o : Vbfpe) (old : VWord) {rs : List FRes} (hlen : rs.length = 32)

/-- BFP8 fills the register. -/
theorem encodedV_bfp8 (hi : Bool) (hty : o.ty = .bfp8) {j : Nat} (hj : j < 32) :
    laneOf 8 (encodedV hi o old rs) j = (rs.getD j ⟨0, 0⟩).bits % 256 := by
  have hv : encodedV hi o old rs = ofLanes 8 (rs.map FRes.bits) := if_neg (by rw [hty]; decide)
  rw [hv, laneOf_ofLanes _ (by omega), map_bits_getD]
  rfl

include hlen

theorem packed_half_lt : packLanes 4 (rs.map FRes.bits) < 2 ^ 128 := by
  have h := packLanes_lt 4 (rs.map FRes.bits)
  rwa [List.length_map, hlen] at h

/-- BFP4 fills the low half and keeps the high one. -/
theorem encodedV_low (hty : o.ty = .bfp4) {j : Nat} (hj : j < 64) :
    laneOf 4 (encodedV false o old rs) j = if j < 32 then (rs.getD j ⟨0, 0⟩).bits % 16 else laneOf 4 old j := by
  have hold : old.toNat / 2 ^ 128 < 2 ^ 128 := by have := old.isLt; omega
  have hv : encodedV false o old rs = BitVec.ofNat 256 (old.toNat / 2 ^ 128 * 2 ^ 128 + packLanes 4 (rs.map FRes.bits)) := if_pos hty
  rw [hv, lane4_halves _ _ (packed_half_lt hlen) hold hj, packLanes_lane, map_bits_getD]
  by_cases h : j < 32
  · rw [if_pos h, if_pos h]
    rfl
  · have hsplit : 4 * j = 128 + 4 * (j - 32) := by omega
    rw [if_neg h, if_neg h, laneOf, hsplit, bitsAt_high]

/-- BFP4 fills the high half and keeps the low one. -/
theorem encodedV_high (hty : o.ty = .bfp4) {j : Nat} (hj : j < 64) :
    laneOf 4 (encodedV true o old rs) j = if j < 32 then laneOf 4 old j else (rs.getD (j - 32) ⟨0, 0⟩).bits % 16 := by
  have hv : encodedV true o old rs = BitVec.ofNat 256 (packLanes 4 (rs.map FRes.bits) * 2 ^ 128 + old.toNat % 2 ^ 128) := by
    rw [Nat.add_comm]
    exact if_pos hty
  rw [hv, lane4_halves _ _ (Nat.mod_lt _ (Nat.two_pow_pos _)) (packed_half_lt hlen) hj, packLanes_lane, map_bits_getD]
  by_cases h : j < 32
  · rw [if_pos h, if_pos h, bitsAt_mod (by omega)]
    rfl
  · rw [if_neg h, if_neg h]
    rfl

end

/-- The code of element `j` of those that `vbfpd` decodes. -/
def blockElement (c : Ctx) (o : Vbfpd) (j : Nat) : Nat :=
  if o.ty == .bfp4 then bitsAt ((c.regs.vrLanes 8 o.a).getD (16 * (o.n.toNat / 4) + (8 * (o.n.toNat % 4) + j) / 2) 0) (4 * (j % 2)) 4
  else (c.regs.vrLanes 8 o.a).getD (8 * o.n.toNat + j) 0

/-- Two BFP4 codes lie in a byte. -/
theorem blockElement_eq (c : Ctx) (o : Vbfpd) (j : Nat) : blockElement c o j =
    if o.ty = .bfp4 then
      (c.regs.vrLanes 8 o.a).getD (16 * (o.n.toNat / 4) + 4 * (o.n.toNat % 4) + j / 2) 0 / 16 ^ (j % 2) % 16
    else (c.regs.vrLanes 8 o.a).getD (8 * o.n.toNat + j) 0 := by
  have hbyte : 16 * (o.n.toNat / 4) + (8 * (o.n.toNat % 4) + j) / 2 = 16 * (o.n.toNat / 4) + 4 * (o.n.toNat % 4) + j / 2 := by
    omega
  unfold blockElement
  refine if_congr beq_iff_eq ?_ rfl
  rw [hbyte, bitsAt, Nat.shiftRight_eq_div_pow, pow_mul]
  rfl

/-- The eight elements that `vbfpd` decodes. -/
def decodedLanes (c : Ctx) (o : Vbfpd) : List Nat :=
  (List.range 8).map fun j =>
    ((rawOf (bfpValue (o.ty == .bfp4) (blockElement c o j) (bitsAt (c.regs.gr o.b).toNat 0 8)
      (bitsAt (c.regs.gr o.b).toNat 8 8))).round .f32 .rne).bits

theorem exec_vbfpd (h : Hdr) (o : Vbfpd) (s : State) :
    exec (.vbfpd h o) s = vlanes h .f32 o.d 4 (fun c => decodedLanes c o) s := rfl

theorem blockFormats : BlockFormats := by
  refine fun h s => ⟨fun o hwf => ?_, fun o => ⟨fun _ hty => ?_, fun _ hty => ?_, fun hwf => ?_⟩, fun o _ => ?_⟩
  · have hplain : h.plain = true := by
      have hwf' : o.wf h = true := hwf
      simp only [Vbfpx.wf, Bool.and_eq_true] at hwf'
      exact hwf'.2
    rw [exec_vbfpx]
    exact whole_resG (predOn_of_plain hplain _)
  · exact vbfpe_outcome false o s fun j hj => encodedV_bfp8 o _ false hty hj
  · exact vbfpe_outcome false o s fun j hj => encodedV_low o _ (encodeBlock_length _ _ _ _ _) hty hj
  · have hty : o.ty = .bfp4 := by
      have hwf' : o.wf true h = true := hwf
      simp only [Vbfpe.wf, Bool.and_eq_true] at hwf'
      simpa using hwf'.1.1.1
    exact vbfpe_outcome true o s fun j hj => encodedV_high o _ (encodeBlock_length _ _ _ _ _) hty hj
  · rw [exec_vbfpd]
    obtain ⟨u, hu, honly, x, hl, hx⟩ := vlanes_lands (h := h) (t := .f32) (d := o.d) (lat := 4) (s := s)
      (f := fun c => decodedLanes c o) (fun y hy => by
        obtain ⟨j, -, rfl⟩ := List.mem_map.1 hy
        exact round_bits_lt (f := .f32) (Ty.fmt_proper .f32) .rne _)
    refine ⟨u, hu, honly, x, hl, fun j hj => (hx j hj).trans (if_congr Iff.rfl ?_ rfl)⟩
    refine (getD_map_range _ _ (show j < 8 from hj)).trans ?_
    dsimp only
    rw [blockElement_eq]
    rfl

/-- Settles O26: lane by lane for the conversions, exactness of a rounding for their values, and the order of magnitudes for the
exponent pairs and codes. -/
theorem conversionsAndBlocks : Obligations.ConversionsAndBlocks := ⟨conversions, conversionValues, blockFormats, blockCodes⟩

end Sys2Proof.Machine
end

section
/-!
Single-address atomics and reductions (R126, R262, R269, R270): their checks, and the operations that enter the queue.
-/
namespace Sys2Proof.Machine
open Sys2Proof.Claims

/-! ### Atomics (R269) -/

/-- The order of an atomic. -/
def amoOrder (c : Ctx) (o : Amo) : Order := if o.ar then ⟨true, some (scopeValue c o.s)⟩ else ⟨false, none⟩

/-- What an atomic does at its home, its reply going to `n`. -/
def amoAct (op : RmwOp) (s : State) (o : Amo) (n : Nat) : Act :=
  .amo op o.ty (BitVec.ofNat 64 (storeBits s.th.regs o.ty o.b)) (BitVec.ofNat 64 ((s.th.regs.rg o.d).toNat % 2 ^ o.ty.bits)) n

/-- The atomic after its determinism and predicate checks. -/
def atomicBody (op : RmwOp) (o : Amo) (s : State) : Out :=
  match firstFault [if o.ar then scopeFault s.th o.s else none, alignFault (addr s o.a o.disp) o.ty.bytes] with
  | some t => faultOut s t
  | none =>
    match s.place s.th .write (isSp o.a.r) (addr s o.a o.disp) o.ty.bytes with
    | .error t => faultOut s t
    | .ok ps =>
      match atomicHome (addr s o.a o.disp) ps with
      | some t => faultOut s t
      | none => placed s .read (ps.map fun p => (p, 0)) allLive fun c =>
        (c.expect (.g o.d o.ty) 1 o.ty.bytes).2.pushAll
          (ps.map fun p => p.op (amoOrder s.th o) (amoAct op s o (c.expect (.g o.d o.ty) 1 o.ty.bytes).1))

theorem atomicOp_eq (op : RmwOp) (h : Hdr) (o : Amo) (s : State) : atomicOp op h o s =
    onDet 1 (fun s => s.isFree s.th || o.ty.isFloat) (onPred h (atomicBody op o)) s := rfl

theorem exec_atomics : ∀ p ∈ atomics, ∀ h o s, exec (p.1 h o) s = atomicOp p.2 h o s := by
  simp only [atomics, List.forall_mem_cons, List.not_mem_nil, false_implies, implies_true, and_true]
  exact ⟨fun _ _ _ => rfl, fun _ _ _ => rfl, fun _ _ _ => rfl, fun _ _ _ => rfl, fun _ _ _ => rfl, fun _ _ _ => rfl,
    fun _ _ _ => rfl, fun _ _ _ => rfl⟩

/-- The context of an atomic whose parts have entered its queue and its meters. -/
def Ctx.withAtomic (c : Ctx) (dest : Dest) (len : Nat) (ps : List Part) (ord : Order) (act : Nat → Act) : Ctx :=
  (((c.expect dest 1 len).2.pushAll (ps.map fun p => p.op ord (act (c.expect dest 1 len).1))).charge ps).run

theorem Ctx.withAtomic_eq (c : Ctx) (dest : Dest) (len : Nat) (ps : List Part) (ord : Order) (act : Nat → Act) :
    c.withAtomic dest len ps ord act = { c with
      pend := c.pend ++ [⟨c.mq.next, c.pc, dest, 1, List.replicate len 0, false⟩]
      mq := { c.mq with
        next := c.mq.next + 1 + ps.length
        iq := c.mq.iq ++ numbered (c.mq.next + 1) ps fun k p => p.op ord (act c.mq.next) k }
      status := .running
      meters := (c.charge ps).meters } := by
  unfold Ctx.withAtomic
  rw [Ctx.pushAll_map]
  unfold Ctx.expect Ctx.fresh Ctx.charge Ctx.run
  rfl

section
variable {op : RmwOp} {o : Amo} {s : State} (hscope : o.ar = true → scopeOk (scopeValue s.th o.s) = true)
include hscope

theorem arScope_none : (if o.ar then scopeFault s.th o.s else none) = none := by
  by_cases har : o.ar = true
  · rw [if_pos har, scopeFault_ok (hscope har)]
  · rw [if_neg har]

theorem atomicBody_misaligned (hal : (addr s o.a o.disp).toNat % o.ty.bytes ≠ 0) :
    faults s (atomicBody op o s) 0x14 0 (addr s o.a o.disp) := by
  refine faults_of_eq ?_
  rw [atomicBody, arScope_none hscope, alignFault_bad hal]
  rfl

variable (hal : (addr s o.a o.disp).toNat % o.ty.bytes = 0)
include hal

theorem atomicBody_aligned : atomicBody op o s =
    match s.place s.th .write (isSp o.a.r) (addr s o.a o.disp) o.ty.bytes with
    | .error t => faultOut s t
    | .ok ps =>
      match atomicHome (addr s o.a o.disp) ps with
      | some t => faultOut s t
      | none => placed s .read (ps.map fun p => (p, 0)) allLive fun c =>
        (c.expect (.g o.d o.ty) 1 o.ty.bytes).2.pushAll
          (ps.map fun p => p.op (amoOrder s.th o) (amoAct op s o (c.expect (.g o.d o.ty) 1 o.ty.bytes).1)) := by
  rw [atomicBody, arScope_none hscope, alignFault_ok hal]
  rfl

theorem atomicBody_unplaced {t : Trap} (hplace : s.place s.th .write (isSp o.a.r) (addr s o.a o.disp) o.ty.bytes = .error t) :
    atomicBody op o s = .next (s.trap t) := by
  rw [atomicBody_aligned hscope hal, hplace]
  rfl

variable {ps : List Part} (hplace : s.place s.th .write (isSp o.a.r) (addr s o.a o.disp) o.ty.bytes = .ok ps)
include hplace

theorem atomicBody_host (hhost : noHost ps = false) : faults s (atomicBody op o s) 0x15 0 (addr s o.a o.disp) := by
  refine faults_of_eq ?_
  rw [atomicBody_aligned hscope hal, hplace]
  dsimp only
  rw [atomicHome_eq, hhost]
  rfl

/-- An atomic that passes its checks asks for the old value. -/
theorem atomicBody_places (hhost : noHost ps = true) (habs : s.absentPart ps = none) :
    goesTo (atomicBody op o s) fun t =>
      places s t [⟨s.th.mq.next, s.th.pc, .g o.d o.ty, 1, List.replicate o.ty.bytes 0, false⟩]
        (numbered (s.th.mq.next + 1) ps fun k p => p.op (amoOrder s.th o) (amoAct op s o s.th.mq.next) k)
        (s.th.mq.next + 1 + ps.length) ps (s.badParts ps) := by
  have hmeter : (ps.map fun p => (p, 0)).map (meterPart allLive) = ps := by
    rw [List.map_map]
    exact (List.map_congr_left fun p _ => meterPart_every (p, 0)).trans (List.map_id' ps)
  have hparts : (ps.map fun p => (p, 0)).map Prod.fst = ps := by
    rw [List.map_map]
    exact List.map_id' ps
  rw [atomicBody_aligned hscope hal, hplace]
  dsimp only
  rw [atomicHome_eq, hhost, if_pos rfl]
  dsimp only [placed]
  rw [hmeter, hparts, habs]
  dsimp only
  rw [settleAccess_read]
  exact places_settled (Ctx.withAtomic_eq s.th (.g o.d o.ty) o.ty.bytes ps (amoOrder s.th o) (amoAct op s o)) ps _

end

theorem atomics_hold : Atomics := by
  intro p hm h o s _ ea det
  have hrun : exec (p.1 h o) s = onDet 1 (fun s => s.isFree s.th || o.ty.isFloat) (onPred h (atomicBody p.2 o)) s :=
    (exec_atomics p hm h o s).trans (atomicOp_eq _ _ _ _)
  rw [hrun]
  refine ⟨fun hdet => ?_, fun hdet hoff => ?_, fun hdet hon hscope => ?_⟩
  · simp only [det, Bool.and_eq_true, decide_eq_true_eq] at hdet
    obtain ⟨happ, hlevel⟩ := hdet
    exact faults_of_eq (onDet_fault happ hlevel _)
  · rw [onDet_pass hdet]
    exact onPred_off hoff
  · rw [onDet_pass hdet, onPred_on hon]
    exact ⟨atomicBody_misaligned hscope, fun hal => ⟨fun t => atomicBody_unplaced hscope hal, fun ps hplace =>
      ⟨atomicBody_host hscope hal hplace, atomicBody_places hscope hal hplace⟩⟩⟩

/-! ### Reductions (R270) -/

theorem exec_reductions : ∀ p ∈ reductions, ∀ h o s, exec (p.1 h o) s = reduction p.2 h o s := by
  simp only [reductions, List.forall_mem_cons, List.not_mem_nil, false_implies, implies_true, and_true]
  exact ⟨fun _ _ _ => rfl, fun _ _ _ => rfl, fun _ _ _ => rfl, fun _ _ _ => rfl, fun _ _ _ => rfl, fun _ _ _ => rfl⟩

/-- The context of operations that answer nothing, entered into its queue and its meters. -/
def Ctx.withOps (c : Ctx) (ps : List Part) (g : Part → Nat → MemOp) (counted : List Part) : Ctx :=
  ((c.pushAll (ps.map g)).charge counted).run

theorem Ctx.withOps_eq (c : Ctx) (ps : List Part) (g : Part → Nat → MemOp) (counted : List Part) :
    c.withOps ps g counted = { c with
      pend := c.pend ++ []
      mq := { c.mq with next := c.mq.next + ps.length, iq := c.mq.iq ++ numbered c.mq.next ps fun k p => g p k }
      status := .running
      meters := (c.charge counted).meters } := by
  unfold Ctx.withOps
  rw [Ctx.pushAll_map, List.append_nil]
  rfl

section
variable {op : RmwOp} {ty : Ty} {a : GReg} {disp : BitVec 14} {n : Nat} {live : Nat → Bool} {elems : Nat → List (Nat × Word)} {s : State}

theorem reduceOp_misaligned (hal : (addr s a disp).toNat % n ≠ 0) :
    faults s (reduceOp op ty a disp n live elems s) 0x14 0 (addr s a disp) := by
  refine faults_of_eq ?_
  rw [reduceOp, effAddr_th]
  rw [alignFault_bad hal]
  rfl

theorem reduceOp_places (hal : (addr s a disp).toNat % n = 0) {ps : List Part}
    (hplace : s.place s.th .write (a.r == 62) (addr s a disp) n = .ok ps) (hhost : noHost ps = true)
    (hseal : s.sealedPart ps = none) (habs : s.absentPart ps = none) :
    goesTo (reduceOp op ty a disp n live elems s) fun t =>
      places s t [] (numbered s.th.mq.next ps fun k q => q.op ⟨false, none⟩ (.red op ty (elems (q.pa % 64))) k)
        (s.th.mq.next + ps.length) (metered live (ps.map fun q => (q, 0))) false := by
  have hparts : (ps.map fun p => (p, 0)).map Prod.fst = ps := by
    rw [List.map_map]
    exact List.map_id' ps
  rw [reduceOp, effAddr_th]
  rw [alignFault_ok hal]
  simp only [isSp, hplace, atomicHome_eq, hhost, if_true]
  dsimp only [placed]
  rw [hparts, habs]
  dsimp only
  rw [settleAccess, if_pos rfl, hseal]
  exact places_settled (held := false) (Ctx.withOps_eq s.th ps (fun q => q.op ⟨false, none⟩ (.red op ty (elems (q.pa % 64))))
    (metered live (ps.map fun q => (q, 0)))) ps

end

/-- A reduction after its determinism check. -/
def reductionBody (op : RmwOp) (h : Hdr) (o : Red) (s : State) : Out :=
  match o.b with
  | .g b => onPred h (reduceOp op o.ty o.a o.disp o.ty.bytes allLive fun off => [(off, BitVec.ofNat 64 (storeBits s.th.regs o.ty b))]) s
  | .v x => onLanes h o.ty (reduceOp op o.ty o.a o.disp 32 (liveLane h s.th.regs o.ty) (redLanes h s.th.regs o.ty x)) s

theorem reduction_eq (op : RmwOp) (h : Hdr) (o : Red) (s : State) :
    reduction op h o s = onDet 1 (fun _ => o.ty.isFloat) (reductionBody op h o) s := by
  refine congrArg (fun f => onDet 1 (fun _ => o.ty.isFloat) f s) (funext fun s => ?_)
  unfold reductionBody
  cases o.b with
  | g b => unfold onPred; rfl
  | v x => unfold onLanes; rfl

/-- The elements of a v source are those of its active lanes. -/
theorem redLanes_eq (h : Hdr) (s : State) (t : Ty) (x : VReg) (off : Nat) : redLanes h s.th.regs t x off =
    ((List.range t.lanes).filter fun j => isActive h s t j).map fun j =>
      (off + j * t.bytes, BitVec.ofNat 64 (lane s t (.reg x) j)) := by
  unfold redLanes
  dsimp only
  rw [activeLanes_filter]
  rfl

/-- The checks of a reduction that runs when `isOn` says so. -/
theorem reduce_checked {op : RmwOp} {ty : Ty} {a : GReg} {disp : BitVec 14} {n : Nat} {live : Nat → Bool}
    {elems : Nat → List (Nat × Word)} {s : State} {isOn : Bool} {o : Out}
    (ho : o = if isOn then reduceOp op ty a disp n live elems s else .next s.retire) :
    (isOn = false → goesOn s o) ∧ (isOn = true → (addr s a disp).toNat % n ≠ 0 → faults s o 0x14 0 (addr s a disp)) ∧
    (isOn = true → (addr s a disp).toNat % n = 0 → ∀ ps, s.place s.th .write (a.r == 62) (addr s a disp) n = .ok ps →
      noHost ps = true → s.sealedPart ps = none → s.absentPart ps = none → goesTo o fun t =>
        places s t [] (numbered s.th.mq.next ps fun k q => q.op ⟨false, none⟩ (.red op ty (elems (q.pa % 64))) k)
          (s.th.mq.next + ps.length) (metered live (ps.map fun q => (q, 0))) false) := by
  rw [ho]
  cases isOn with
  | false => exact ⟨fun _ => rfl, fun h => absurd h Bool.false_ne_true, fun h => absurd h Bool.false_ne_true⟩
  | true => exact ⟨fun h => absurd h.symm Bool.false_ne_true, fun _ => reduceOp_misaligned, fun _ hal _ => reduceOp_places hal⟩

/-- The checks of a reduction, its determinism check first. -/
theorem reduction_checked {op : RmwOp} {h : Hdr} {o : Red} {n : Nat} {live : Nat → Bool} {elems : Nat → List (Nat × Word)}
    {s : State} {isOn : Bool}
    (hbody : reductionBody op h o s = if isOn then reduceOp op o.ty o.a o.disp n live elems s else .next s.retire) :
    let det := o.ty.isFloat && decide (1 ≤ detLevel s.th)
    (det = true → faults s (reduction op h o s) 0x07 0 0) ∧ (det = false → isOn = false → goesOn s (reduction op h o s)) ∧
    (det = false → isOn = true → (addr s o.a o.disp).toNat % n ≠ 0 → faults s (reduction op h o s) 0x14 0 (addr s o.a o.disp)) ∧
    (det = false → isOn = true → (addr s o.a o.disp).toNat % n = 0 →
      ∀ ps, s.place s.th .write (o.a.r == 62) (addr s o.a o.disp) n = .ok ps →
        noHost ps = true → s.sealedPart ps = none → s.absentPart ps = none → goesTo (reduction op h o s) fun t =>
          places s t [] (numbered s.th.mq.next ps fun k q => q.op ⟨false, none⟩ (.red op o.ty (elems (q.pa % 64))) k)
            (s.th.mq.next + ps.length) (metered live (ps.map fun q => (q, 0))) false) := by
  intro det
  obtain ⟨hoff, hmis, hplaces⟩ := reduce_checked hbody
  rw [reduction_eq]
  refine ⟨fun hdet => ?_, fun hdet => ?_, fun hdet => ?_, fun hdet => ?_⟩
  · simp only [det, Bool.and_eq_true, decide_eq_true_eq] at hdet
    obtain ⟨happ, hlevel⟩ := hdet
    exact faults_of_eq (onDet_fault happ hlevel _)
  · rwa [onDet_pass hdet]
  · rwa [onDet_pass hdet]
  · rwa [onDet_pass hdet]

theorem reductionBody_g {op : RmwOp} {h : Hdr} {o : Red} {s : State} {b : GSrc} (hb : o.b = .g b) : reductionBody op h o s =
    if predOn h s.th.regs then
      reduceOp op o.ty o.a o.disp o.ty.bytes every (fun off => [(off, BitVec.ofNat 64 (storeBits s.th.regs o.ty b))]) s
    else .next s.retire := by
  rw [reductionBody, hb]
  rfl

theorem reductionBody_v {op : RmwOp} {h : Hdr} {o : Red} {s : State} {x : VReg} (hb : o.b = .v x) : reductionBody op h o s =
    if anyLane h s o.ty then reduceOp op o.ty o.a o.disp 32 (inLane h s o.ty) (fun off =>
      ((List.range o.ty.lanes).filter fun j => isActive h s o.ty j).map fun j =>
        (off + j * o.ty.bytes, BitVec.ofNat 64 (lane s o.ty (.reg x) j))) s
    else .next s.retire := by
  have helems : redLanes h s.th.regs o.ty x = _ := funext fun off => redLanes_eq h s o.ty x off
  rw [← helems, ← liveLane_eq, ← activeLanes_any, reductionBody, hb]
  rfl

theorem reductions_hold : Reductions := by
  intro p hm h o s _
  rw [exec_reductions p hm]
  obtain ⟨ty, a, disp, b⟩ := o
  cases b with
  | g b => exact reduction_checked (reductionBody_g rfl)
  | v x => exact reduction_checked (reductionBody_v rfl)

/-- Settles O31: the checks are passed one after another, and what passes them is placed. -/
theorem atomicsAndReductions : Obligations.AtomicsAndReductions := ⟨atomics_hold, reductions_hold⟩

end Sys2Proof.Machine
end

section
/-!
Inline `mma` (R249 to R253): its checks, the reads of a K block, and the pass over a block that has been read.
-/
namespace Sys2Proof.Machine
open Sys2Proof.Claims

/-! ### A matrix instruction in line (R242) -/

/-- What the main sequencer makes of a matrix instruction that it passes. -/
def matOut (s : State) : EngOut → Out
  | .done u c => .next { u with th := c.run }.retire
  | .trap u c t => faultOut { u with th := c } t
  | .wait why => parkOut s why
  | .busy u c => parkOut { u with th := c } .drain
  | .absent k => .fault (.absentStack k)

theorem inlineMat_on {h : Hdr} {s : State} (hp : predOn h s.th.regs = true) (hf : s.th.matrixForked = false)
    (f : Ctx → State → EngOut) : inlineMat h f s = matOut s (f s.th s) := by
  unfold inlineMat
  rw [hp, hf]
  cases f s.th s <;> rfl

theorem exec_mma (h : Hdr) (o : MmaOp) (s : State) : exec (.mma h o) s = inlineMat h (matMma o) s := rfl

/-- The entries that an access used moved; the context that acts is set afterwards. -/
theorem tlbTouch_with (s : State) (c d : Ctx) (ps : List Part) :
    ∃ cells combs, { s.tlbTouch c ps with th := d } = { s with th := d, cells := cells, combs := combs } := by
  obtain ⟨cells, combs, hu⟩ := s.tlbTouch_mapTh id c ps
  have hs : s.tlbTouch c ps = { s with th := s.th, cells := cells, combs := combs } := hu
  exact ⟨cells, combs, by rw [hs]⟩

/-! ### Before the first block (R249) -/

section
variable {o : MmaOp} {s : State} (hrun : s.th.mrun = none)
include hrun

theorem matMma_unstreamed {t : Trap} (ha : s.aStream s.th (blockBytes o.ta) = .error t) :
    matOut s (matMma o s.th s) = .next (s.trap t) := by
  unfold matMma mmaStep
  rw [hrun]
  dsimp only
  rw [ha]
  rfl

variable {a : AStream} (ha : s.aStream s.th (blockBytes o.ta) = .ok a)
include ha

theorem matMma_checkFails {t : Trap} (hc : s.mmaChecks s.th a o = some t) : matOut s (matMma o s.th s) = .next (s.trap t) := by
  unfold matMma mmaStep
  rw [hrun]
  dsimp only
  rw [ha]
  dsimp only
  rw [hc]
  rfl

theorem matMma_begun (hc : s.mmaChecks s.th a o = none) : matOut s (matMma o s.th s) =
    .next { s with th := { s.th with mrun := some ⟨a, false, none⟩, status := .parked .drain } } := by
  unfold matMma mmaStep
  rw [hrun]
  dsimp only
  rw [ha]
  dsimp only
  rw [hc]
  rfl

end

/-- A range past the last block is a matrix-descriptor fault. -/
theorem mmaChecks_past {s : State} {a : AStream} {o : MmaOp} (h : o.nkb.toNat ≤ s.th.mat.koff.toNat) :
    s.mmaChecks s.th a o = some ⟨cMatrix, 0, BitVec.ofNat 64 (32 * s.th.mat.koff.toNat)⟩ := by
  have hbad : descriptorBad s.th a o = some (BitVec.ofNat 64 (32 * s.th.mat.koff.toNat)) := if_pos h
  unfold State.mmaChecks
  rw [hbad]

/-! ### The reads of a block (R250) -/

theorem gatherParts_ok {f : Nat → Except Trap (List (Part × Nat))} {A : Nat → List (Part × Nat)} :
    ∀ {is : List Nat}, (∀ i ∈ is, f i = .ok (A i)) → gatherParts f is = .ok (is.flatMap A)
  | [], _ => rfl
  | i :: is, h => by
    rw [gatherParts, h i List.mem_cons_self]
    dsimp only
    rw [gatherParts_ok fun k hk => h k (List.mem_cons_of_mem _ hk)]
    rfl

theorem kBlock_ok {s : State} {a : AStream} {o : MmaOp} {kb : Nat} {A B : Nat → List (Part × Nat)}
    (hA : ∀ i < 16, s.aBlock s.th a o.ta kb i = .ok (A i))
    (hB : ∀ j < 8, s.bBlock s.th (16 * (blockBytes o.ta + 2)) o.tb kb j = .ok (B j)) :
    s.kBlock s.th a o kb = .ok ((List.range 16).flatMap A ++ (List.range 8).flatMap B) := by
  have has : gatherParts (s.aBlock s.th a o.ta kb) (List.range 16) = .ok ((List.range 16).flatMap A) :=
    gatherParts_ok fun i hi => hA i (List.mem_range.1 hi)
  have hbs : gatherParts (s.bBlock s.th (bBase o) o.tb kb) (List.range 8) = .ok ((List.range 8).flatMap B) :=
    gatherParts_ok fun j hj => hB j (List.mem_range.1 hj)
  unfold State.kBlock
  rw [has]
  dsimp only
  rw [hbs]

theorem Ctx.pushLoad_eq (c : Ctx) (dest : Dest) (len : Nat) (ps : List (Part × Nat)) (o : Order) :
    c.pushLoad dest len ps o = { c with
      pend := c.pend ++ [⟨c.mq.next, c.pc, dest, ps.length, List.replicate len 0, false⟩]
      mq := { c.mq with
        next := c.mq.next + 1 + ps.length
        iq := c.mq.iq ++ numbered (c.mq.next + 1) ps fun k p => p.1.op o (.load c.mq.next p.2 p.1.len []) k } } := by
  unfold Ctx.pushLoad
  dsimp only
  rw [Ctx.pushAll_map]
  rfl

/-- A context whose `mma` waits for the reads of a block. -/
def Ctx.reading (c : Ctx) (r : MatRun) : Ctx := { c with mrun := some { r with waiting := true } }

section
variable {o : MmaOp} {s : State} {r : MatRun} (hrun : s.th.mrun = some r)
include hrun

theorem matMma_waits (hw : r.waiting = true) : waits s (matOut s (matMma o s.th s)) .drain := by
  unfold matMma mmaStep
  rw [hrun]
  dsimp only
  rw [if_pos hw]
  exact parkOut_waits s .drain

variable (hw : r.waiting = false) (hbuf : r.buf = none)
include hw hbuf

theorem matMma_unread {t : Trap} (hk : s.kBlock s.th r.a o s.th.mat.koff.toNat = .error t) :
    matOut s (matMma o s.th s) = .next (s.trap t) := by
  unfold matMma mmaStep
  rw [hrun]
  dsimp only
  rw [hw, hbuf]
  simp only [Bool.false_eq_true, if_false, hk]
  rfl

theorem matMma_reads {ps : List (Part × Nat)} (hk : s.kBlock s.th r.a o s.th.mat.koff.toNat = .ok ps)
    (habs : s.absentPart (ps.map Prod.fst) = none) :
    goesTo (matOut s (matMma o s.th s)) fun t => memoryKept s t ∧ t = { s with th := t.th, cells := t.cells, combs := t.combs } ∧
      t.th = { s.th with
        mrun := some { r with waiting := true }, status := .parked .drain, meters := (s.th.charge (ps.map Prod.fst)).meters,
        pend := s.th.pend ++ [⟨s.th.mq.next, s.th.pc, .mat, ps.length,
          List.replicate (16 * (blockBytes o.ta + 2) + 8 * (blockBytes o.tb + 2)) 0, false⟩],
        mq := { s.th.mq with next := s.th.mq.next + 1 + ps.length, iq := s.th.mq.iq ++ numbered (s.th.mq.next + 1) ps fun k p =>
          ⟨k, p.1.home, p.1.pa, BitVec.ofNat 64 p.1.va, ⟨false, none⟩, .load s.th.mq.next p.2 p.1.len [], false,
            cleanEntry p.1⟩ } } := by
  have hout : matOut s (matMma o s.th s) = parkOut { s.tlbTouch (s.th.reading r) (ps.map Prod.fst) with
      th := ((s.th.reading r).pushLoad .mat (blockLen o) ps .plain).charge (ps.map Prod.fst) } .drain := by
    unfold matMma mmaStep
    rw [hrun]
    dsimp only
    rw [hw, hbuf]
    simp only [Bool.false_eq_true, if_false, hk, habs]
    rfl
  obtain ⟨cells, combs, hu⟩ := tlbTouch_with s (s.th.reading r)
    (((s.th.reading r).pushLoad .mat (blockLen o) ps .plain).charge (ps.map Prod.fst)) (ps.map Prod.fst)
  rw [hout, hu, Ctx.pushLoad_eq]
  exact ⟨_, rfl, fun _ => rfl, rfl, rfl⟩

end

/-! ### Flags of rows -/

theorem orFlags_append (xs ys : List FFlags) : orFlags (xs ++ ys) = orFlags xs ||| orFlags ys := by
  induction xs with
  | nil => simp
  | cons x xs ih => rw [List.cons_append, orFlags_cons, orFlags_cons, ih, BitVec.or_assoc]

theorem orFlags_flatMap {α : Type} (xs : List α) (f : α → List FFlags) :
    orFlags (xs.flatMap f) = orFlags (xs.map fun x => orFlags (f x)) := by
  induction xs with
  | nil => rfl
  | cons x xs ih => rw [List.flatMap_cons, orFlags_append, List.map_cons, orFlags_cons, ih]

/-- No element raised an enabled exception. -/
theorem orFlags_and_eq_zero {fs : List FFlags} {en : FFlags} : orFlags fs &&& en = 0 ↔ ∀ f ∈ fs, f &&& en = 0 := by
  induction fs with
  | nil => simp
  | cons f fs ih =>
    have hor : (f ||| orFlags fs) &&& en = (f &&& en) ||| (orFlags fs &&& en) := by
      refine BitVec.eq_of_getLsbD_eq fun i _ => ?_
      simp only [BitVec.getLsbD_and, BitVec.getLsbD_or, Bool.and_or_distrib_right]
    rw [orFlags_cons, hor, List.forall_mem_cons, ← ih]
    exact BitVec.or_eq_zero_iff

/-- A stretch of a list over numbers. -/
theorem map_range_slice {α : Type} (f : Nat → α) {n a b : Nat} (h : a + b ≤ n) :
    (((List.range n).map f).drop a).take b = (List.range b).map fun j => f (a + j) := by
  refine List.ext_getElem (by simp; omega) fun i h1 h2 => ?_
  simp

/-- The flags of the rows of 128 results. -/
theorem rowFlags_map (f : Nat → FRes) : rowFlags ((List.range 128).map f) =
    (List.range 16).map fun i => orFlags ((List.range 8).map fun j => (f (8 * i + j)).flags) := by
  refine List.map_congr_left fun i hi => ?_
  have hi := List.mem_range.1 hi
  rw [map_range_slice f (by omega), List.map_map]
  rfl

/-- The flags of the rows are those of all elements. -/
theorem orFlags_rowFlags (f : Nat → FRes) :
    orFlags (rowFlags ((List.range 128).map f)) = orFlags ((List.range 128).map fun n => (f n).flags) := by
  have hrows : List.range 128 = (List.range 16).flatMap fun i => (List.range 8).map fun j => 8 * i + j := by decide
  rw [rowFlags_map, hrows, List.map_flatMap, orFlags_flatMap]
  simp only [List.map_map]
  rfl

/-! ### The pass over a block (R250, R118) -/

section
variable (s : State) (o : MmaOp) (buf : List Byte)

/-- The results of a pass. -/
def passRes : List FRes := (List.range 128).map fun n => addedBlock s o buf (n / 8) (n % 8)

theorem accumulate_eq :
    accumulate (s.th.mat.acc o.acc) (bufBlocks o.ta 0 16 buf) (bufBlocks o.tb (bBase o) 8 buf) = passRes s o buf := by
  refine List.map_congr_left fun n hn => ?_
  have hn := List.mem_range.1 hn
  have hrow : n / 8 < 16 := by omega
  have hcol : n % 8 < 8 := by omega
  have hn8 : 8 * (n / 8) + n % 8 = n := by omega
  rw [bufBlocks, bufBlocks, getD_map_range _ _ hrow, getD_map_range _ _ hcol]
  dsimp only
  rw [Nat.zero_add]
  unfold addedBlock elem
  rw [hn8]
  rfl

theorem rowFlags_passRes : rowFlags (passRes s o buf) =
    (List.range 16).map fun i => orFlags ((List.range 8).map fun j => (addedBlock s o buf i j).flags) := by
  rw [passRes, rowFlags_map]
  refine List.map_congr_left fun i _ => congrArg orFlags (List.map_congr_left fun j hj => ?_)
  have hj := List.mem_range.1 hj
  have hrow : (8 * i + j) / 8 = i := by omega
  have hcol : (8 * i + j) % 8 = j := by omega
  rw [hrow, hcol]

theorem orFlags_passRes : orFlags (rowFlags (passRes s o buf)) = blockFlags s o buf := orFlags_rowFlags _

/-- The accumulator after a pass. -/
def passAcc : Vector (BitVec 32) 128 :=
  Vector.ofFn fun k : Fin 128 => BitVec.ofNat 32 (((passRes s o buf).map FRes.bits).getD k.val 0)

/-- The accumulators and the offset after a pass, which returns to 0 after the last block. -/
def passMat : MatState :=
  { s.th.mat.setAcc o.acc (passAcc s o buf) with
    koff := if o.nkb.toNat ≤ s.th.mat.koff.toNat + 1 then 0 else s.th.mat.koff + 1 }

theorem elem_passMat {i j : Nat} (hi : i < 16) (hj : j < 8) :
    elem (passMat s o buf) o.acc i j = (addedBlock s o buf i j).bits % 2 ^ 32 := by
  have hn : 8 * i + j < 128 := by omega
  have hrow : (8 * i + j) / 8 = i := by omega
  have hcol : (8 * i + j) % 8 = j := by omega
  have hacc : (if o.acc then (passMat s o buf).a1 else (passMat s o buf).a0) = passAcc s o buf := by
    unfold passMat MatState.setAcc
    cases o.acc <;> rfl
  have hbits : ((passRes s o buf).map FRes.bits).getD (8 * i + j) 0 = (addedBlock s o buf i j).bits := by
    rw [passRes, List.map_map, getD_map_range _ _ hn]
    dsimp only [Function.comp]
    rw [hrow, hcol]
  unfold elem
  rw [hacc, passAcc, List.getD_eq_getElem _ _ (by simpa using hn), Vector.getElem_toList, Vector.getElem_ofFn, hbits,
    BitVec.toNat_ofNat]

theorem onlyAcc_passMat : onlyAcc { s.th.mat with
    koff := if o.nkb.toNat ≤ s.th.mat.koff.toNat + 1 then 0 else s.th.mat.koff + 1 } (passMat s o buf) o.acc := by
  unfold onlyAcc passMat MatState.setAcc
  cases o.acc <;> rfl

/-- The enabled exceptions that sr.fpstat holds after an FP trap. -/
theorem trapStat_enabled (old : Word) (all en : FFlags) (k : Nat) : (trapStat old all en k).extractLsb' 8 5 = en := by
  have hbits : ∀ i < 5, (0xFFFFFFFFFFC0E0FF#64).getLsbD (8 + i) = false := by decide
  have hclear (i : Nat) (hi : i < 5) : (0xFFFFFFFFFFC0E0FF#64)[8 + i] = false := hbits i hi
  refine BitVec.eq_of_getLsbD_eq fun i hi => ?_
  have h64 : 8 + i < 64 := by omega
  have h16 : 8 + i < 16 := by omega
  unfold trapStat
  simp [hclear i hi, hi, h64, h16]

/-- The lane that sr.fpstat holds after an FP trap. -/
theorem trapStat_lane (old : Word) (all en : FFlags) (k : Nat) :
    (trapStat old all en k).extractLsb' 16 6 = BitVec.ofNat 6 k := by
  have hbits : ∀ i < 6, (0xFFFFFFFFFFC0E0FF#64).getLsbD (16 + i) = false := by decide
  have hclear (i : Nat) (hi : i < 6) : (0xFFFFFFFFFFC0E0FF#64)[16 + i] = false := hbits i hi
  refine BitVec.eq_of_getLsbD_eq fun i hi => ?_
  have h64 : 16 + i < 64 := by omega
  have hen : en.getLsbD (16 + i - 8) = false := BitVec.getLsbD_of_ge _ _ (by omega)
  have hi64 : i < 64 := by omega
  have hlane : (BitVec.ofNat 64 (k % 64))[i] = (BitVec.ofNat 6 k)[i] := by
    rw [← BitVec.getLsbD_eq_getElem, ← BitVec.getLsbD_eq_getElem, BitVec.getLsbD_ofNat, BitVec.getLsbD_ofNat,
      show (64 : Nat) = 2 ^ 6 from rfl, Nat.testBit_mod_two_pow]
    simp [hi, hi64]
  unfold trapStat
  simp [hclear i hi, hi, h64, hen, hlane]

/-- The context after a pass. -/
def passCtx : Ctx := { s.th with mat := passMat s o buf, sr := s.th.sr.raise (blockFlags s o buf) }

theorem mmaAdd_quiet (h : blockFlags s o buf &&& fpEnables s.th.sr = 0) : mmaAdd o buf s.th =
    .added (passCtx s o buf) (decide (o.nkb.toNat ≤ s.th.mat.koff.toNat + 1)) := by
  rw [← orFlags_passRes] at h
  unfold mmaAdd
  rw [accumulate_eq]
  dsimp only
  rw [SrBank.fpDone_quiet h, orFlags_passRes]
  simp only [Bool.false_eq_true, if_false, decide_eq_true_eq]
  rfl

/-- sr.fpstat after a pass that traps: the lane is the first row with an enabled exception. -/
def passStat : Word :=
  trapStat s.th.sr.fpstat (blockFlags s o buf) (blockFlags s o buf &&& fpEnables s.th.sr)
    (fpLane (fpEnables s.th.sr) (rowFlags (passRes s o buf)) 0)

theorem mmaAdd_trap (h : blockFlags s o buf &&& fpEnables s.th.sr ≠ 0) :
    mmaAdd o buf s.th = .trap (s.withStat (passStat s o buf)).th ⟨cFp, 0, 0⟩ := by
  rw [← orFlags_passRes] at h
  unfold mmaAdd
  rw [accumulate_eq]
  dsimp only
  rw [SrBank.fpDone_trap h, orFlags_passRes]
  rfl

end

section
variable {o : MmaOp} {s : State} {r : MatRun} (hrun : s.th.mrun = some r) {buf : List Byte} (hw : r.waiting = false)
  (hbuf : r.buf = some buf)
include hrun hw hbuf

theorem mmaStep_adds : mmaStep o s.th.mrun s.th s = mmaAdd o buf s.th := by
  unfold mmaStep
  rw [hrun]
  dsimp only
  rw [hw, hbuf]
  rfl

theorem matMma_adds (hq : blockFlags s o buf &&& fpEnables s.th.sr = 0) :
    goesTo (matOut s (matMma o s.th s)) fun t => onlyContext s t ∧ memoryKept s t ∧
      (∀ i < 16, ∀ j < 8, elem t.th.mat o.acc i j = (addedBlock s o buf i j).bits % 2 ^ 32) ∧
      onlyAcc { s.th.mat with
        koff := if o.nkb.toNat ≤ s.th.mat.koff.toNat + 1 then 0 else s.th.mat.koff + 1 } t.th.mat o.acc ∧
      t.th.sr = { s.th.sr with fpstat := s.th.sr.fpstat ||| (blockFlags s o buf).zeroExtend 64 } ∧
      (o.nkb.toNat ≤ s.th.mat.koff.toNat + 1 → advances s t ∧ t.th = { s.th with
        status := .running, mrun := none, mat := t.th.mat, sr := t.th.sr, pc := t.th.pc, grp := t.th.grp,
        loops := t.th.loops }) ∧
      (s.th.mat.koff.toNat + 1 < o.nkb.toNat → t.th = { s.th with
        status := .parked .drain, mrun := some { r with buf := none }, mat := t.th.mat, sr := t.th.sr }) := by
  have hstep : mmaStep o s.th.mrun s.th s = _ := (mmaStep_adds hrun hw hbuf).trans (mmaAdd_quiet s o buf hq)
  unfold matMma
  rw [hstep]
  by_cases hlast : o.nkb.toNat ≤ s.th.mat.koff.toNat + 1
  · rw [decide_eq_true hlast]
    have hmat : ({ passCtx s o buf with mrun := none }.run).retire.mat = passMat s o buf := Ctx.retire_mat _
    have hsr : ({ passCtx s o buf with mrun := none }.run).retire.sr = s.th.sr.raise (blockFlags s o buf) := Ctx.retire_sr _
    refine ⟨_, rfl, rfl, fun _ => rfl, ?_, ?_, hsr, fun _ => ⟨advances_retire rfl rfl rfl rfl, ?_⟩,
      fun h => absurd hlast (Nat.not_le.2 h)⟩
    · intro i hi j hj
      exact (congrArg (elem · o.acc i j) hmat).trans (elem_passMat s o buf hi hj)
    · exact (congrArg (onlyAcc _ · o.acc) hmat).mpr (onlyAcc_passMat s o buf)
    · refine (Ctx.retire_parts _).trans ?_
      dsimp only [State.retire, State.mapTh]
      rw [hmat, hsr]
      rfl
  · rw [decide_eq_false hlast]
    refine ⟨_, rfl, rfl, fun _ => rfl, fun i hi j hj => elem_passMat s o buf hi hj, onlyAcc_passMat s o buf, rfl,
      fun h => absurd h hlast, fun _ => ?_⟩
    dsimp only [passCtx]
    rw [hrun]
    rfl

theorem matMma_traps (ht : blockFlags s o buf &&& fpEnables s.th.sr ≠ 0) :
    goesTo (matOut s (matMma o s.th s)) fun t => t.th.mat = s.th.mat ∧
      t.th.sr.fpstat.extractLsb' 8 5 = blockFlags s o buf &&& fpEnables s.th.sr ∧
      (∃ i < 16, t.th.sr.fpstat.extractLsb' 16 6 = BitVec.ofNat 6 i ∧
        (∃ j < 8, (addedBlock s o buf i j).flags &&& fpEnables s.th.sr ≠ 0) ∧
        ∀ k < i, ∀ j < 8, (addedBlock s o buf k j).flags &&& fpEnables s.th.sr = 0) ∧
      stopsOn { s with th := { s.th with sr := { s.th.sr with fpstat := t.th.sr.fpstat } } } t 0x1B 0 0 := by
  have hstep : mmaStep o s.th.mrun s.th s = _ := (mmaStep_adds hrun hw hbuf).trans (mmaAdd_trap s o buf ht)
  have hout : matOut s (matMma o s.th s) = .next ((s.withStat (passStat s o buf)).trap ⟨cFp, 0, 0⟩) := by
    unfold matMma
    rw [hstep]
    rfl
  obtain ⟨hstat, hstop⟩ := stopsOn_fpTrap s (passStat s o buf) 0
  obtain ⟨-, -, hmat, -⟩ := stoppedCtx_keeps hstop.1
  have hrows : orFlags (rowFlags (passRes s o buf)) &&& fpEnables s.th.sr ≠ 0 := by rwa [orFlags_passRes]
  obtain ⟨i, hi, hlane, hraised, hbefore⟩ := fpLane_first hrows 0
  rw [Nat.zero_add] at hlane
  rw [rowFlags_passRes] at hi hraised hbefore
  rw [List.length_map, List.length_range] at hi
  have hrow (k : Nat) (hk : k < 16) : orFlags ((List.range 8).map fun j => (addedBlock s o buf k j).flags) &&&
      fpEnables s.th.sr = 0 ↔ ∀ j < 8, (addedBlock s o buf k j).flags &&& fpEnables s.th.sr = 0 := by
    rw [orFlags_and_eq_zero]
    simp only [List.forall_mem_map, List.mem_range]
  rw [getD_map_range _ _ hi, ne_eq, hrow i hi] at hraised
  push Not at hraised
  rw [hout]
  refine ⟨_, rfl, hmat, ?_, ⟨i, hi, ?_, hraised, fun k hk => ?_⟩, ?_⟩
  · rw [hstat]
    exact trapStat_enabled _ _ _ _
  · rw [hstat, passStat, hlane]
    exact trapStat_lane _ _ _ _
  · have hbefore := hbefore k hk
    rwa [getD_map_range _ _ (hk.trans hi), hrow k (hk.trans hi)] at hbefore
  · rw [hstat]
    exact hstop

end

/-- Inline `mma`, step by step (R249 to R253). -/
theorem matrixMultiplication : MatrixMultiplication := by
  intro h o s hp hf
  rw [exec_mma, inlineMat_on hp hf]
  refine ⟨fun hrun => ⟨fun t => matMma_unstreamed hrun, fun a ha => ⟨fun hpast => ?_, fun t => matMma_checkFails hrun ha,
      matMma_begun hrun ha⟩⟩, fun r hrun => matMma_waits hrun, fun r hrun hw hbuf => ⟨fun t => matMma_unread hrun hw hbuf,
      fun A B hA hB habs => matMma_reads hrun hw hbuf (kBlock_ok hA hB) habs⟩,
    fun r buf hrun hw hbuf => ⟨matMma_adds hrun hw hbuf, matMma_traps hrun hw hbuf⟩⟩
  rw [matMma_checkFails hrun ha (mmaChecks_past hpast)]
  exact faultOut_faults s _ (by decide) (by decide)

end Sys2Proof.Machine
end

section
/-!
Where `mma` reads (R247, R248): the addresses of its blocks and of their exponent pairs, and the pages of A.
-/
namespace Sys2Proof.Machine
open Sys2Proof.Claims

/-! ### Blocks of A -/

/-- A page that allows no decoding is a format fault at the access. -/
theorem decodeEntry_of_seen {s : State} {c : Ctx} (va : Word) {x : Part} {e : TlbEntry} (hseen : s.seenEntry c x = some e) :
    s.decodeEntry c va x = .error ⟨cFormat, 0, va⟩ ∨ s.decodeEntry c va x = .ok e := by
  unfold State.decodeEntry
  rw [hseen]
  dsimp only
  by_cases hraw : (fmtEbits e.fmt = 0 || e.geom % 4 != 0 || e.geom / 4 == 3) = true
  · exact Or.inl (if_pos hraw)
  · rw [if_neg hraw]
    by_cases hslot : fmtCb e.fmt ≠ 0 ∧ (e.cdelta = 0 ∨ fmtSlots e.fmt ≤ e.slot)
    · exact Or.inl (if_pos hslot)
    · exact Or.inr (if_neg hslot)

section
variable {s : State} {c : Ctx} {a : AStream} {t : Ty} {kb i : Nat}

theorem aBlock_eq {ps qs : List Part} {e : Option TlbEntry} (helems : s.aElems c a t i kb = .ok (ps, e))
    (hpair : s.aPair c a t i kb e = .ok qs) :
    s.aBlock c a t kb i =
      .ok (fromHere (i * (blockBytes t + 2)) ps ++ fromHere (i * (blockBytes t + 2) + blockBytes t) qs) := by
  unfold State.aBlock
  rw [helems]
  dsimp only
  rw [hpair]

/-- A block without an exponent pair. -/
theorem aBlock_single {ps : List Part} {e : Option TlbEntry} (ht : t.isBfp = false)
    (helems : s.aElems c a t i kb = .ok (ps, e)) : s.aBlock c a t kb i = .ok (fromHere (i * (blockBytes t + 2)) ps) := by
  have hpair : s.aPair c a t i kb e = .ok [] := if_pos (by rw [ht]; rfl)
  exact (aBlock_eq helems hpair).trans (congrArg _ (List.append_nil _))

theorem aPair_fixed (ht : t.isBfp = true) :
    s.aPair c a t i kb none = s.placeAt c .read (a.expo c.mat (blockBytes t) i kb) 2 := if_neg (by simp [ht])

theorem aPair_paged (ht : t.isBfp = true) (e : TlbEntry) :
    s.aPair c a t i kb (some e) = s.companion c e (a.blk c.mat i kb) := if_neg (by simp [ht])

theorem aElems_fixed {ps : List Part} (hlow : c.mat.abase.toNat + i * a.rsx + kb * a.ksx < 2 ^ 40)
    (hplace : s.placeAt c .read (a.blk c.mat i kb) (blockBytes t) = .ok ps) : s.aElems c a t i kb = .ok (ps, none) := by
  have hblk : (a.blk c.mat i kb).toNat < 2 ^ 40 := by
    rw [AStream.blk, BitVec.toNat_ofNat]
    exact (Nat.mod_le _ _).trans_lt hlow
  unfold State.aElems
  dsimp only
  rw [hplace]
  exact if_pos hblk

/-! ### Pages of A -/

variable (hhigh : 2 ^ 40 ≤ c.mat.abase.toNat + i * a.rsx + kb * a.ksx)
  (hword : c.mat.abase.toNat + i * a.rsx + kb * a.ksx < 2 ^ 64)
include hhigh hword

/-- The address of a block in paged space. -/
theorem not_blk_fixed : ¬ (a.blk c.mat i kb).toNat < 2 ^ 40 := by
  rw [AStream.blk, BitVec.toNat_ofNat, Nat.mod_eq_of_lt hword]
  exact Nat.not_lt.2 hhigh

variable {x : Part} {ps : List Part} {e : TlbEntry}
  (hplace : s.placeAt c .read (a.blk c.mat i kb) (blockBytes t) = .ok (x :: ps))
include hplace

/-- A page that allows no decoding, whatever is wrong with it. -/
theorem aElems_undecoded {u : Trap} (hd : s.decodeEntry c (a.blk c.mat i kb) x = .error u) :
    s.aElems c a t i kb = .error u := by
  unfold State.aElems
  dsimp only
  rw [hplace]
  dsimp only
  rw [if_neg (not_blk_fixed hhigh hword), List.head?_cons, Option.map_some, hd]

theorem aElems_decoded (hd : s.decodeEntry c (a.blk c.mat i kb) x = .ok e) :
    s.aElems c a t i kb = if e.fmt ≠ pageFmtOf t ∨ e.geom ≠ 4 * a.tiling then .error ⟨cFormat, 0, a.blk c.mat i kb⟩
      else .ok (x :: ps, some e) := by
  unfold State.aElems
  dsimp only
  rw [hplace]
  dsimp only
  rw [if_neg (not_blk_fixed hhigh hword), List.head?_cons, Option.map_some, hd]

variable (hseen : s.seenEntry c x = some e)
include hseen

/-- A page with another format or another tiling. -/
theorem aBlock_wrongPage (hwrong : e.fmt ≠ pageFmtOf t ∨ e.geom ≠ 4 * a.tiling) :
    s.aBlock c a t kb i = .error ⟨cFormat, 0, a.blk c.mat i kb⟩ := by
  have helems : s.aElems c a t i kb = .error ⟨cFormat, 0, a.blk c.mat i kb⟩ := by
    rcases decodeEntry_of_seen (a.blk c.mat i kb) hseen with hd | hd
    · exact aElems_undecoded hhigh hword hplace hd
    · exact (aElems_decoded hhigh hword hplace hd).trans (if_pos hwrong)
  unfold State.aBlock
  rw [helems]

/-- A page with the format of the type and the tiling of the stream. -/
theorem aElems_rightPage (hfmt : e.fmt = pageFmtOf t) (hgeom : e.geom = 4 * a.tiling) (htiling : a.tiling ≤ 2)
    (hbits : fmtEbits e.fmt ≠ 0) (hslot : fmtCb e.fmt ≠ 0 → e.cdelta ≠ 0 ∧ e.slot < fmtSlots e.fmt) :
    s.aElems c a t i kb = .ok (x :: ps, some e) := by
  have hgood : ¬ (fmtEbits e.fmt = 0 || e.geom % 4 != 0 || e.geom / 4 == 3) = true := by
    have hrow : e.geom % 4 = 0 := by omega
    have htile : e.geom / 4 ≠ 3 := by omega
    simp [hbits, hrow, htile]
  have hcomp : ¬ (fmtCb e.fmt ≠ 0 ∧ (e.cdelta = 0 ∨ fmtSlots e.fmt ≤ e.slot)) := fun ⟨hcb, hor⟩ =>
    hor.elim (hslot hcb).1 (Nat.not_le.2 (hslot hcb).2)
  have hd : s.decodeEntry c (a.blk c.mat i kb) x = .ok e := by
    rw [State.decodeEntry, hseen]
    dsimp only
    rw [if_neg hgood, if_neg hcomp]
  exact (aElems_decoded hhigh hword hplace hd).trans (if_neg (not_or.2 ⟨not_not.2 hfmt, not_not.2 hgeom⟩))

end

/-! ### The formats of pages (R247) -/

theorem pageFormats_pageFmtOf : ∀ p ∈ pageFormats, pageFmtOf p.1 = p.2 := by decide

theorem pageFormats_fmtEbits : ∀ p ∈ pageFormats, fmtEbits p.2 ≠ 0 := by decide

/-- Only the formats of block-floating-point types have blocks. -/
theorem pageFormats_fmtCb : ∀ p ∈ pageFormats, p.1.isBfp = false → fmtCb p.2 = 0 := by decide

/-! ### Blocks of B -/

/-- A byte of a sub-slice of the own vault slice. -/
theorem sliceAddr_eq (c : Ctx) (j off : Nat) : sliceAddr c j off =
    BitVec.ofNat 64 (0x200000000 + cellFci c.cell / 128 * 0x1000000 + cellIdx c.cell * 0x20000 + j * 0x4000 + off) := rfl

section
variable {s : State} {c : Ctx} {t : Ty} {kb j : Nat} {ps : List Part} (base : Nat)
  (hplace : s.placeAt c .read (sliceAddr c j (c.mat.bo.toNat + kb * blockBytes t)) (blockBytes t) = .ok ps)
include hplace

theorem bBlock_single (ht : t.isBfp = false) : s.bBlock c base t kb j = .ok (fromHere (base + j * (blockBytes t + 2)) ps) := by
  unfold State.bBlock
  rw [hplace]
  exact if_pos (by rw [ht]; rfl)

theorem bBlock_pair (ht : t.isBfp = true) {qs : List Part}
    (hpair : s.placeAt c .read (sliceAddr c j (c.mat.xo.toNat + 2 * kb)) 2 = .ok qs) : s.bBlock c base t kb j =
      .ok (fromHere (base + j * (blockBytes t + 2)) ps ++ fromHere (base + j * (blockBytes t + 2) + blockBytes t) qs) := by
  unfold State.bBlock
  rw [hplace]
  dsimp only
  rw [if_neg (by simp [ht]), hpair]

end

/-! ### The strides of A (R247) -/

theorem aStream_fixed (s : State) (c : Ctx) (bb : Nat) (h : c.mat.abase.toNat < 2 ^ 40) :
    s.aStream c bb = .ok ⟨c.mat.rs.toNat, c.mat.ks.toNat, 0, false⟩ := if_pos h

theorem aStream_paged {s : State} {c : Ctx} {e : TlbEntry} (bb : Nat)
    (h : 2 ^ 48 ≤ c.mat.abase.toNat ∨ 2 ^ 40 ≤ c.mat.abase.toNat ∧ c.mat.abase.toNat < 2 ^ 41 ∧
      (s.frameRec (combFrame c.comb)).imported c.mat.abase.toNat = true)
    (he : s.tlbFind c c.mat.abase.toNat = some e) : s.aStream c bb = .ok (if e.geom / 4 = 1 then ⟨bb, 16 * bb, 1, true⟩
      else ⟨c.mat.rs.toNat, c.mat.ks.toNat, e.geom / 4, true⟩) := by
  have hfixed : ¬ c.mat.abase.toNat < 2 ^ 40 := by omega
  have hhole : ¬ (2 ^ 41 ≤ c.mat.abase.toNat ∧ c.mat.abase.toNat < 2 ^ 48) := by omega
  have hpeer : ¬ (decide (c.mat.abase.toNat < 2 ^ 48) &&
      !(s.frameRec (combFrame c.comb)).imported c.mat.abase.toNat) = true := by
    rcases h with hglobal | ⟨-, -, himport⟩
    · rw [decide_eq_false (Nat.not_lt.2 hglobal)]
      exact Bool.false_ne_true
    · rw [himport, Bool.not_true, Bool.and_false]
      exact Bool.false_ne_true
  unfold State.aStream
  dsimp only
  rw [if_neg hfixed, if_neg hhole, if_neg hpeer, he]
  exact (apply_ite Except.ok _ _ _).symm

/-- Where `mma` reads (R247, R248). -/
theorem matrixOperands : MatrixOperands := by
  refine ⟨fun s c a t kb i ps ht hlow hplace => aBlock_single ht (aElems_fixed hlow hplace),
    fun s c a t kb i ps qs ht hlow hplace hpair => ?_, fun s c base t kb j ps ht hplace => ?_,
    fun s c base t kb j ps qs ht hplace hpair => ?_, fun s c a p hp kb i x ps e hhigh hword hplace hseen => ?_,
    fun s c h bb => aStream_fixed s c bb h, fun s c bb e h he => aStream_paged bb h he⟩
  · rw [← Nat.add_assoc] at hlow hplace
    exact aBlock_eq (aElems_fixed hlow hplace) ((aPair_fixed ht).trans hpair)
  · rw [Nat.add_assoc] at hplace
    exact bBlock_single base hplace ht
  · rw [Nat.add_assoc _ c.mat.bo.toNat] at hplace
    rw [Nat.add_assoc _ c.mat.xo.toNat] at hpair
    exact bBlock_pair base hplace ht hpair
  · have hpage := pageFormats_pageFmtOf p hp
    refine ⟨fun hwrong => aBlock_wrongPage hhigh hword hplace hseen (by rwa [hpage]), fun hfmt hgeom htiling => ?_⟩
    have hbits : fmtEbits e.fmt ≠ 0 := hfmt ▸ pageFormats_fmtEbits p hp
    have hright := aElems_rightPage hhigh hword hplace hseen (hfmt.trans hpage.symm) hgeom htiling hbits
    refine ⟨fun ht => aBlock_single ht (hright fun hcb => absurd (hfmt ▸ pageFormats_fmtCb p hp ht) hcb),
      fun qs ht hdelta hslot hpair => ?_⟩
    exact aBlock_eq (hright fun _ => ⟨hdelta, hslot⟩) ((aPair_paged ht e).trans hpair)

end Sys2Proof.Machine
end

section
/-!
The stores of `mdrain` (R255, R256): what they write, and how their bytes lie in the parts of a placed access.
-/
namespace Sys2Proof.Machine
open Sys2Proof.Claims

/-! ### The pieces of a range (R84) -/

/-- Where the pieces of a range begin and end. -/
def lineCut (va len i : Nat) : Nat := if i = 0 then va else min (va + len) (va / 64 * 64 + 64 * i)

/-- The number of pieces of a range. -/
def lineCount (va len : Nat) : Nat := (va % 64 + len + 63) / 64

theorem lineCut_mono (va len i : Nat) : lineCut va len i ≤ lineCut va len (i + 1) := by
  have hnext : lineCut va len (i + 1) = min (va + len) (va / 64 * 64 + 64 * (i + 1)) := if_neg (Nat.succ_ne_zero i)
  rw [hnext]
  unfold lineCut
  split <;> omega

theorem lineCut_last (va len : Nat) : lineCut va len (lineCount va len) = va + len := by
  unfold lineCut lineCount
  split <;> omega

theorem splitLines_eq_cuts (va len : Nat) : splitLines va len =
    (List.range (lineCount va len)).map fun i => (lineCut va len i, lineCut va len (i + 1) - lineCut va len i) := by
  refine List.map_congr_left fun i hi => ?_
  have hi : i < lineCount va len := List.mem_range.1 hi
  unfold lineCount at hi
  have hfirst : (if i = 0 then va else va / 64 * 64 + 64 * i) = lineCut va len i := by
    unfold lineCut
    split <;> omega
  dsimp only
  rw [hfirst]
  rfl

/-- Consecutive pieces of a list make up the list. -/
theorem flatMap_pieces {α : Type} (bs : List α) {cut : Nat → Nat} (hmono : ∀ i, cut i ≤ cut (i + 1)) (n : Nat) :
    (List.range n).flatMap (fun i => (bs.drop (cut i - cut 0)).take (cut (i + 1) - cut i)) = bs.take (cut n - cut 0) := by
  induction n with
  | zero => simp
  | succ n ih =>
    have hstart : cut 0 ≤ cut n := monotone_nat_of_le_succ hmono (Nat.zero_le n)
    have hlen : cut (n + 1) - cut 0 = (cut n - cut 0) + (cut (n + 1) - cut n) := by
      have := hmono n
      omega
    rw [List.range_succ, List.flatMap_append, ih, List.flatMap_singleton, hlen, List.take_add]

/-! ### Parts that cover a range -/

/-- The addresses of a part. -/
def Part.range (p : Part) : Nat × Nat := (p.va, p.len)

/-- A placement whose parts, if it succeeds, are as `P` says. -/
def Places (P : List Part → Prop) (x : Except Trap (List Part)) : Prop := ∀ ps, x = .ok ps → P ps

/-- The parts are the pieces of a range of a length. -/
def Covering (len : Nat) (ps : List Part) : Prop := ∃ v, ps.map Part.range = splitLines v len

section
variable {P : List Part → Prop}

theorem places_error (t : Trap) : Places P (.error t) := fun _ h => nomatch h

theorem places_ok {ps : List Part} (h : P ps) : Places P (.ok ps) := fun _ hp => Except.ok.inj hp ▸ h

theorem Places.ite {C : Prop} [Decidable C] {x y : Except Trap (List Part)} (hx : Places P x) (hy : Places P y) :
    Places P (if C then x else y) := by
  split
  · exact hx
  · exact hy

end

theorem covering_fixedParts (va pa len : Nat) (l : MLevel) : Covering len (fixedParts va pa len l) := by
  refine ⟨va, ?_⟩
  rw [fixedParts, List.map_map]
  exact List.map_id _

theorem State.pagedParts_ranges (s : State) (c : Ctx) (use : Use) (sup : Bool) (ls : List (Nat × Nat)) :
    Places (fun ps => ps.map Part.range = ls) (s.pagedParts c use sup ls) := by
  induction ls with
  | nil => exact places_ok rfl
  | cons l ls ih =>
    have hcons (p : Part) (hp : p.range = l) (qs : List Part) (hqs : s.pagedParts c use sup ls = .ok qs) :
        Places (fun ps => ps.map Part.range = l :: ls) (.ok (p :: qs)) :=
      places_ok (congrArg₂ List.cons hp (ih qs hqs))
    unfold State.pagedParts
    refine .ite (places_error _) (.ite (places_error _) ?_)
    split
    · refine .ite (places_error _) (.ite (places_error _) ?_)
      split
      · exact places_error _
      · next qs hqs => exact hcons _ rfl qs hqs
    · split
      · exact places_error _
      · refine .ite (places_error _) (.ite (places_error _) ?_)
        split
        · exact places_error _
        · split
          · exact places_error _
          · next qs hqs => exact hcons _ rfl qs hqs

theorem placesCovering_paged (s : State) (c : Ctx) (use : Use) (sup : Bool) (va len : Nat) :
    Places (Covering len) (s.pagedParts c use sup (splitLines va len)) := fun ps h =>
  ⟨va, s.pagedParts_ranges c use sup _ ps h⟩

theorem placesCovering_user (s : State) (c : Ctx) (i : CellId) (use : Use) (va : Word) (len : Nat) :
    Places (Covering len) (s.userPlace c i use va len) := by
  have herr (t : Trap) : Places (Covering len) (.error t) := places_error t
  have hfixed (a pa : Nat) (l : MLevel) : Places (Covering len) (.ok (fixedParts a pa len l)) :=
    places_ok (covering_fixedParts a pa len l)
  have hpaged (a : Nat) := placesCovering_paged s c use (s.superstep c) a len
  unfold State.userPlace
  refine .ite (.ite (herr _) (hfixed _ _ _)) (.ite ?_ (.ite ?_ (.ite (.ite (herr _) (hpaged _))
    (.ite (.ite (herr _) (hpaged _)) (herr _)))))
  · exact .ite (.ite (herr _) (hfixed _ _ _)) (.ite (herr _) (.ite (herr _) (hfixed _ _ _)))
  · exact .ite (herr _) (.ite (herr _) (hfixed _ _ _))

theorem placesCovering_service (s : State) (c : Ctx) (n : Nat) (use : Use) (va : Word) (len : Nat) :
    Places (Covering len) (s.servicePlace c n use va len) := by
  have hfixed (a pa : Nat) (l : MLevel) : Places (Covering len) (.ok (fixedParts a pa len l)) :=
    places_ok (covering_fixedParts a pa len l)
  unfold State.servicePlace
  refine .ite (hfixed _ _ _) (.ite (hfixed _ _ _) (.ite (hfixed _ _ _) ?_))
  split
  · exact places_error _
  · exact placesCovering_user s _ _ use va len

theorem placesCovering_stack (s : State) (c : Ctx) (use : Use) (va : Word) (len : Nat) :
    Places (Covering len) (s.placeStack c use va len) := by
  unfold State.placeStack
  exact .ite (places_ok (covering_fixedParts _ _ _ _)) (.ite (placesCovering_paged s c use _ _ len)
    (.ite (places_error _) (.ite (places_error _) (places_error _))))

/-- The parts of a placed access are the pieces of a range of its length. -/
theorem placesCovering (s : State) (c : Ctx) (use : Use) (stack : Bool) (va : Word) (len : Nat) :
    Places (Covering len) (s.place c use stack va len) := by
  unfold State.place
  refine .ite (placesCovering_stack s c use va len) ?_
  unfold State.placeAt
  split
  · exact placesCovering_user s c _ use va len
  · exact placesCovering_service s c _ use va len
  · exact places_error _

/-! ### The bytes of placed stores -/

/-- The parts that cover a range hold its bytes in order. -/
theorem partData_bytes {ps : List Part} {bs : List Byte} (h : Covering bs.length ps) :
    (partData bs (fromHere 0 ps)).flatMap Prod.snd = bs.map some := by
  obtain ⟨v, hv⟩ := h
  have hpieces : (partData bs (fromHere 0 ps)).flatMap Prod.snd =
      ((ps.map Part.range).flatMap fun q => (bs.drop (q.1 - (((ps.map Part.range).head?.map Prod.fst).getD 0))).take q.2).map
        some := by
    rw [List.head?_map, Option.map_map, List.flatMap_map, List.map_flatMap, partData, fromHere, withOffsets, List.map_map,
      List.flatMap_map]
    simp only [Nat.zero_add]
    rfl
  have hlen : bs.length = lineCut v bs.length (lineCount v bs.length) - lineCut v bs.length 0 := by
    rw [lineCut_last]
    exact (Nat.add_sub_cancel_left v _).symm
  have hstart : ∀ i ∈ List.range (lineCount v bs.length),
      ((splitLines v bs.length).head?.map Prod.fst).getD 0 = lineCut v bs.length 0 := by
    intro i hi
    have hpos : 0 < lineCount v bs.length := (Nat.zero_le i).trans_lt (List.mem_range.1 hi)
    rw [splitLines_eq_cuts, List.head?_map, List.head?_range, if_neg hpos.ne']
    rfl
  rw [hpieces, hv]
  refine congrArg (List.map some) ?_
  calc (splitLines v bs.length).flatMap (fun q =>
        (bs.drop (q.1 - (((splitLines v bs.length).head?.map Prod.fst).getD 0))).take q.2)
      = (List.range (lineCount v bs.length)).flatMap fun i => (bs.drop (lineCut v bs.length i - lineCut v bs.length 0)).take
          (lineCut v bs.length (i + 1) - lineCut v bs.length i) := by
        conv_lhs => rw [splitLines_eq_cuts, List.flatMap_map, ← splitLines_eq_cuts]
        exact List.flatMap_congr fun i hi => by rw [hstart i hi]
    _ = bs.take (lineCut v bs.length (lineCount v bs.length) - lineCut v bs.length 0) :=
        flatMap_pieces bs (lineCut_mono v bs.length) _
    _ = bs := by rw [← hlen, List.take_length]

theorem atByte_ok {place : Word → Nat → Except Trap (List Part)} {va : Word} {len : Nat} {ps : List Part}
    (h : atByte place va len = .ok ps) : place va len = .ok ps := by
  unfold atByte at h
  cases hp : place va len with
  | ok qs => rwa [hp] at h
  | error t =>
    rw [hp] at h
    dsimp only at h
    split at h <;> cases h

theorem placeStores_cons {s : State} {c : Ctx} {d : DrainStore} {ds : List DrainStore} {ps : List (Part × List (Option Byte))}
    (h : s.placeStores c (d :: ds) = .ok ps) : ∃ qs rs, s.place c .write d.stack d.va d.bytes.length = .ok qs ∧
      s.placeStores c ds = .ok rs ∧ ps = partData d.bytes (fromHere 0 qs) ++ rs := by
  unfold State.placeStores at h
  cases hd : s.placeDrain c d with
  | error t => rw [hd] at h; cases h
  | ok qs =>
    cases hs : s.placeStores c ds with
    | error t => rw [hd, hs] at h; cases h
    | ok rs =>
      rw [hd, hs] at h
      exact ⟨qs, rs, atByte_ok hd, rfl, (Except.ok.inj h).symm⟩

/-- Placed stores hold their bytes in order. -/
theorem placeStores_bytes {s : State} {c : Ctx} {ds : List DrainStore} :
    ∀ {ps : List (Part × List (Option Byte))}, s.placeStores c ds = .ok ps →
      ps.flatMap Prod.snd = (ds.flatMap DrainStore.bytes).map some := by
  induction ds with
  | nil =>
    intro ps h
    obtain rfl := Except.ok.inj h
    rfl
  | cons d ds ih =>
    intro ps h
    obtain ⟨qs, rs, hplace, hrest, rfl⟩ := placeStores_cons h
    rw [List.flatMap_append, partData_bytes (placesCovering s c .write _ _ _ qs hplace), ih hrest, List.flatMap_cons, List.map_append]

/-- Every store is placed, and its parts are among those of all. -/
theorem placeStores_mem {s : State} {c : Ctx} {ds : List DrainStore} :
    ∀ {ps : List (Part × List (Option Byte))}, s.placeStores c ds = .ok ps → ∀ d ∈ ds,
      ∃ qs, s.place c .write d.stack d.va d.bytes.length = .ok qs ∧ ∀ q ∈ qs, q ∈ ps.map Prod.fst := by
  induction ds with
  | nil => exact fun _ d hd => nomatch hd
  | cons d ds ih =>
    intro ps h e he
    obtain ⟨qs, rs, hplace, hrest, rfl⟩ := placeStores_cons h
    rw [List.map_append]
    rcases List.mem_cons.1 he with rfl | he
    · refine ⟨qs, hplace, fun q hq => List.mem_append_left _ ?_⟩
      have hparts : (partData e.bytes (fromHere 0 qs)).map Prod.fst = qs := by
        simp [partData, fromHere, withOffsets, Function.comp_def]
      rwa [hparts]
    · obtain ⟨us, hplace, hmem⟩ := ih hrest e he
      exact ⟨us, hplace, fun q hq => List.mem_append_right _ (hmem q hq)⟩

/-! ### What a drain stores -/

/-- An element of a drain is the product of an element of the accumulator and its two scales. -/
theorem drainRaw_eq (o : MdrainOp) (s : State) (n : Nat) : drainRaw o s.th n =
    rawProd3 (FFmt.f32.value (elem s.th.mat o.acc (n / 8) (n % 8)))
      (if o.nos then .fin false 1 0 else FFmt.f32.value (laneR s .f32 (o.vr + BitVec.ofNat 5 (n / 8 / 8)) (n / 8 % 8)))
      (if o.nos then .fin false 1 0 else FFmt.f32.value (laneR s .f32 o.vc (n % 8))) := by
  unfold drainRaw elem
  rw [show 8 * (n / 8) + n % 8 = n by omega]
  rfl

/-- The stores of a float drain: a row each. -/
theorem drainStores_float {o : MdrainOp} {c : Ctx} (ht : o.ty.isBfp = false) : (drainStores o false c).1 =
    (List.range 16).map fun i => ⟨c.regs.gr o.a + BitVec.ofNat 64 i * c.regs.gr o.b, o.a.r == 62,
      bytesOf (8 * o.ty.bytes) (packLanes o.ty.bits ((List.range 8).map fun j =>
        ((drainRaw o c (8 * i + j)).round (Ty.fmt o.ty) (modeAt c.sr o.rm (8 * i + j))).bits))⟩ := by
  have hfloat : (drainStores o false c).1 = (List.range 16).map fun i => ⟨c.regs.gr o.a + BitVec.ofNat 64 i * c.regs.gr o.b,
      o.a.r == 62, bytesOf (8 * o.ty.bytes) (packLanes o.ty.bits ((((drainFloat o c).drop (8 * i)).take 8).map FRes.bits))⟩ := by
    unfold drainStores
    rw [ht]
    rfl
  rw [hfloat]
  refine List.map_congr_left fun i hi => ?_
  have hi := List.mem_range.1 hi
  rw [drainFloat, map_range_slice _ (by omega), List.map_map]
  rfl

/-- The FP32 value of an element that a block-floating-point drain encodes. -/
def drainT (o : MdrainOp) (c : Ctx) (n : Nat) : FRes := (drainRaw o c n).round .f32 .rne

/-- The exponent pair of a block of a drain. -/
def drainPair (o : MdrainOp) (c : Ctx) (b : Nat) : Nat × Nat :=
  bfpPair (o.ty == .bfp4) ((List.range 32).map fun k => FFmt.f32.value (drainT o c (32 * b + k)).bits)

/-- An element that a block-floating-point drain has encoded. -/
def drainCode (o : MdrainOp) (c : Ctx) (n : Nat) : FRes :=
  bfpEncode (o.ty == .bfp4) (drainPair o c (n / 32)).1 (drainPair o c (n / 32)).2 (modeAt c.sr o.rm n)
    (decide ((drainT o c n).bits / 2 ^ 31 % 2 = 1)) (FFmt.f32.value (drainT o c n).bits)

theorem mapIdx_map_range {α β : Type} (f : Nat → α) (g : Nat → α → β) (n : Nat) :
    ((List.range n).map f).mapIdx g = (List.range n).map fun i => g i (f i) :=
  List.ext_getElem (by simp) fun i h1 h2 => by simp

theorem drainBfp_pairs (o : MdrainOp) (c : Ctx) : (drainBfp o c).2 = (List.range 4).map (drainPair o c) := by
  refine List.map_congr_left fun b hb => ?_
  have hb := List.mem_range.1 hb
  rw [map_range_slice _ (by omega), List.map_map]
  rfl

/-- An FP32 value encoded under a pair, with the flags of both roundings. -/
def drainEncode (o : MdrainOp) (c : Ctx) (p : Nat × Nat) (n : Nat) (r : FRes) : FRes :=
  let e := bfpEncode (o.ty == .bfp4) p.1 p.2 (modeAt c.sr o.rm n) (bitsAt r.bits 31 1 == 1) (FFmt.f32.value r.bits)
  ⟨e.bits, e.flags ||| r.flags⟩

theorem drainBfp_codes (o : MdrainOp) (c : Ctx) :
    (drainBfp o c).1.map FRes.bits = (List.range 128).map fun n => (drainCode o c n).bits := by
  have hres : (drainBfp o c).1 = ((List.range 128).map (drainT o c)).mapIdx fun n r =>
      drainEncode o c ((drainBfp o c).2.getD (n / 32) (0, 0)) n r := by
    unfold drainBfp
    dsimp only
    refine congrArg₂ List.mapIdx ?_ ?_
    · funext n r
      rfl
    · rfl
  rw [hres, mapIdx_map_range, List.map_map]
  refine List.map_congr_left fun n hn => ?_
  have hn := List.mem_range.1 hn
  have hsign : (bitsAt (drainT o c n).bits 31 1 == 1) = decide ((drainT o c n).bits / 2 ^ 31 % 2 = 1) := by
    rw [bitsAt, Nat.shiftRight_eq_div_pow]
    rfl
  dsimp only [Function.comp]
  rw [drainBfp_pairs, getD_map_range _ _ (by omega), drainEncode, hsign]
  rfl

/-- The two stores of a block-floating-point drain: its elements, and the pairs of its blocks. -/
theorem drainStores_bfp {o : MdrainOp} {c : Ctx} (ht : o.ty.isBfp = true) : (drainStores o false c).1 =
    [⟨c.regs.gr o.a, o.a.r == 62, bytesOf (16 * if o.ty == .bfp4 then 4 else 8)
        (packLanes (if o.ty == .bfp4 then 4 else 8) ((List.range 128).map fun n => (drainCode o c n).bits))⟩,
      ⟨c.regs.gr o.b, o.b.r == 62, (List.range 4).flatMap fun b =>
        [BitVec.ofNat 8 (drainPair o c b).1, BitVec.ofNat 8 (drainPair o c b).2]⟩] := by
  have hbits : (if o.ty = .bfp4 then 4 else 8) = if o.ty == .bfp4 then 4 else 8 := by simp only [beq_iff_eq]
  have hpairs : (drainBfp o c).2.flatMap (fun p => [BitVec.ofNat 8 p.1, BitVec.ofNat 8 p.2]) = (List.range 4).flatMap fun b =>
      [BitVec.ofNat 8 (drainPair o c b).1, BitVec.ofNat 8 (drainPair o c b).2] := by
    rw [drainBfp_pairs, List.flatMap_map]
  rw [← hbits, ← hpairs, ← drainBfp_codes]
  unfold drainStores
  rw [ht]
  rfl

end Sys2Proof.Machine
end

section
/-!
Inline `mdrain`, step by step (R255 to R257), and what it leaves of its context.
-/
namespace Sys2Proof.Machine
open Sys2Proof.Claims

theorem exec_mdrain (h : Hdr) (o : MdrainOp) (s : State) : exec (.mdrain h o) s = inlineMat h (matDrain o) s := rfl

/-! ### Stores that enter the queue of a context -/

theorem Ctx.pushStore_plain (c : Ctx) (ps : List (Part × List (Option Byte))) : c.pushStore ps .plain false = { c with
    mq := { c.mq with next := c.mq.next + ps.length, iq := c.mq.iq ++ numbered c.mq.next ps fun k p =>
      ⟨k, p.1.home, p.1.pa, BitVec.ofNat 64 p.1.va, ⟨false, none⟩, .store p.2, false, cleanEntry p.1⟩ } } :=
  Ctx.pushAll_map c ps _

/-- The mark of a drain and the stores that follow it in program order. -/
theorem Ctx.pushStore_marked (c : Ctx) (ps : List (Part × List (Option Byte))) :
    (c.expect Dest.none 1 0).2.pushStore ps .plain false = { c with
      pend := c.pend ++ [⟨c.mq.next, c.pc, .none, 1, [], false⟩]
      mq := { c.mq with next := c.mq.next + 1 + ps.length, iq := c.mq.iq ++ numbered (c.mq.next + 1) ps fun k p =>
        ⟨k, p.1.home, p.1.pa, BitVec.ofNat 64 p.1.va, ⟨false, none⟩, .store p.2, false, cleanEntry p.1⟩ } } := by
  rw [Ctx.pushStore_plain]
  rfl

/-! ### What a drain leaves (R257) -/

/-- A context that a drain without a trap leaves: the flags, the counter values, and the accumulator of a `zero` drain. -/
def afterDrain (o : MdrainOp) (fs : FFlags) (c : Ctx) : Ctx := { c with
  sr := { c.sr with
    fpstat := c.sr.fpstat ||| fs.zeroExtend 64,
    srctr := if resolveRnd c.sr.fpctl o.rm = Rnd.sr then c.sr.srctr + 128 else c.sr.srctr },
  mat := if o.zero then (if o.acc then { c.mat with a1 := Vector.replicate 128 0 }
    else { c.mat with a0 := Vector.replicate 128 0 }) else c.mat }

theorem drainEnd_quiet {o : MdrainOp} {fs : List FFlags} {c : Ctx} (h : orFlags fs &&& fpEnables c.sr = 0) :
    drainEnd o fs c = afterDrain o (orFlags fs) c := by
  unfold drainEnd
  rw [SrBank.fpDone_quiet h, SrBank.consume_eq]
  unfold afterDrain
  cases o.zero <;> cases o.acc <;> rfl

/-! ### Before the stores have been placed -/

section
variable {o : MdrainOp} {s : State} (hmark : s.th.drainMark = none)
include hmark

/-- A drain that traps before it has placed its stores. -/
theorem matDrain_stops {c : Ctx} {t : Trap} (hd : drainOf o false s.th s = .trap c t) :
    matOut s (matDrain o s.th s) = .next (({ s with th := c } : State).trap t) := by
  unfold matDrain
  rw [hmark]
  dsimp only
  rw [hd]
  rfl

theorem matDrain_checkFails {t : Trap} (hc : s.drainChecks s.th o (drainStores o false s.th).1 = some t) :
    matOut s (matDrain o s.th s) = .next (s.trap t) := by
  have hd : drainOf o false s.th s = .trap s.th t := by
    unfold drainOf
    dsimp only
    rw [hc]
  exact matDrain_stops hmark hd

end

/-- A block-floating-point destination that is not aligned. -/
theorem drainChecks_unaligned {s : State} {c : Ctx} {o : MdrainOp} (ds : List DrainStore)
    (h : o.ty = .bfp8 ∧ (c.regs.gr o.a).toNat % 32 ≠ 0 ∨ o.ty = .bfp4 ∧ (c.regs.gr o.a).toNat % 16 ≠ 0) :
    s.drainChecks c o ds = some ⟨cMatrix, 0, c.regs.gr o.a⟩ := if_pos h

section
variable {o : MdrainOp} {s : State} {ps : List (Part × List (Option Byte))}
  (hmark : s.th.drainMark = none)
  (hcheck : s.drainChecks s.th o (drainStores o false s.th).1 = none)
  (hplace : s.placeStores s.th (drainStores o false s.th).1 = .ok ps)
include hcheck hplace

/-- Nothing keeps the stores of a drain from issuing. -/
theorem drainOf_stores (habs : s.absentPart (ps.map Prod.fst) = none) (hseal : s.sealedPart (ps.map Prod.fst) = none)
    (hq : orFlags (drainStores o false s.th).2 &&& fpEnables s.th.sr = 0) : drainOf o false s.th s =
    .stores ps ((afterDrain o (orFlags (drainStores o false s.th).2) s.th).charge (ps.map Prod.fst)) := by
  unfold drainOf
  dsimp only
  rw [hcheck]
  dsimp only
  rw [hplace, ← drainEnd_quiet hq]
  dsimp only
  rw [SrBank.fpDone_quiet hq, habs, hseal]
  rfl

include hmark

/-- With an enabled exception no store issues. -/
theorem matDrain_traps (ht : orFlags (drainStores o false s.th).2 &&& fpEnables s.th.sr ≠ 0) :
    goesTo (matOut s (matDrain o s.th s)) fun t => t.th.mat = s.th.mat ∧ t.th.mq = s.th.mq ∧ t.th.sr.srctr = s.th.sr.srctr ∧
      stopsOn { s with th := { s.th with sr := { s.th.sr with fpstat := t.th.sr.fpstat } } } t 0x1B 0 0 := by
  let x := trapStat s.th.sr.fpstat (orFlags (drainStores o false s.th).2)
    (orFlags (drainStores o false s.th).2 &&& fpEnables s.th.sr)
    (fpLane (fpEnables s.th.sr) (drainStores o false s.th).2 0)
  have hd : drainOf o false s.th s = .trap (s.withStat x).th ⟨cFp, 0, 0⟩ := by
    unfold drainOf
    dsimp only
    rw [hcheck]
    dsimp only
    rw [hplace, SrBank.fpDone_trap ht]
    rfl
  obtain ⟨hstat, hstop⟩ := stopsOn_fpTrap s x 0
  obtain ⟨-, -, hmat, hmq, -, hctr⟩ := stoppedCtx_keeps hstop.1
  rw [matDrain_stops hmark hd]
  refine ⟨_, rfl, hmat, hmq, hctr, ?_⟩
  rw [show ((({ s with th := (s.withStat x).th } : State).trap ⟨cFp, 0, 0⟩).th.sr.fpstat) = x from hstat]
  exact hstop

variable (habs : s.absentPart (ps.map Prod.fst) = none) (hseal : s.sealedPart (ps.map Prod.fst) = none)
  (hq : orFlags (drainStores o false s.th).2 &&& fpEnables s.th.sr = 0)
include habs hseal hq

/-- A drain that keeps its accumulator is over when its stores have been placed. -/
theorem matDrain_keeps (hz : o.zero = false) : goesTo (matOut s (matDrain o s.th s)) fun t =>
    memoryKept s t ∧ advances s t ∧ t = { s with th := t.th, cells := t.cells, combs := t.combs } ∧
      t.th = { afterDrain o (orFlags (drainStores o false s.th).2) s.th with
        status := .running, pc := t.th.pc, grp := t.th.grp, loops := t.th.loops,
        meters := (s.th.charge (ps.map Prod.fst)).meters,
        mq := { s.th.mq with next := s.th.mq.next + ps.length, iq := s.th.mq.iq ++ numbered s.th.mq.next ps fun k p =>
          ⟨k, p.1.home, p.1.pa, BitVec.ofNat 64 p.1.va, ⟨false, none⟩, .store p.2, false, cleanEntry p.1⟩ } } := by
  have hout : matOut s (matDrain o s.th s) = .next ({ s.tlbTouch s.th (ps.map Prod.fst) with
      th := ((((afterDrain o (orFlags (drainStores o false s.th).2) s.th).charge (ps.map Prod.fst)).pushStore ps .plain
        false).run).retire } : State) := by
    unfold matDrain
    rw [hmark]
    dsimp only
    rw [drainOf_stores hcheck hplace habs hseal hq, hz]
    rfl
  obtain ⟨cells, combs, hu⟩ := tlbTouch_with s s.th _ (ps.map Prod.fst)
  rw [hout, hu, Ctx.pushStore_plain]
  exact ⟨_, rfl, fun _ => rfl, advances_retire rfl rfl rfl rfl, rfl, Ctx.retire_parts _⟩

/-- A `zero` drain waits with its mark until its last store has issued. -/
theorem matDrain_marks (hz : o.zero = true) : goesTo (matOut s (matDrain o s.th s)) fun t =>
    memoryKept s t ∧ t = { s with th := t.th, cells := t.cells, combs := t.combs } ∧
      t.th = { s.th with
        status := .parked .drain, meters := (s.th.charge (ps.map Prod.fst)).meters,
        pend := s.th.pend ++ [⟨s.th.mq.next, s.th.pc, .none, 1, [], false⟩],
        mq := { s.th.mq with next := s.th.mq.next + 1 + ps.length, iq := s.th.mq.iq ++ numbered (s.th.mq.next + 1) ps fun k p =>
            ⟨k, p.1.home, p.1.pa, BitVec.ofNat 64 p.1.va, ⟨false, none⟩, .store p.2, false, cleanEntry p.1⟩ } } := by
  have hout : matOut s (matDrain o s.th s) = parkOut { s.tlbTouch s.th (ps.map Prod.fst) with
      th := ((s.th.expect Dest.none 1 0).2.pushStore ps .plain false).charge (ps.map Prod.fst) } .drain := by
    unfold matDrain
    rw [hmark]
    dsimp only
    rw [drainOf_stores hcheck hplace habs hseal hq, hz]
    rfl
  obtain ⟨cells, combs, hu⟩ := tlbTouch_with s s.th (((s.th.expect Dest.none 1 0).2.pushStore ps .plain false).charge
    (ps.map Prod.fst)) (ps.map Prod.fst)
  rw [hout, hu, Ctx.pushStore_marked]
  exact ⟨_, rfl, fun _ => rfl, rfl, rfl⟩

end

/-! ### A `zero` drain whose stores have been placed -/

theorem drainMark_eq_find (c : Ctx) : c.drainMark = c.pend.find? fun p => decide (p.dest = .none ∧ p.pc = c.pc) := by
  have hpred : (fun p : Pend => p.dest == Dest.none && p.pc == c.pc) = fun p => decide (p.dest = .none ∧ p.pc = c.pc) := by
    funext p
    rw [Bool.decide_and]
    rfl
  rw [Ctx.drainMark, hpred]

theorem drainMark_eq_none {c : Ctx} (h : ∀ p ∈ c.pend, ¬ (p.dest = .none ∧ p.pc = c.pc)) : c.drainMark = none := by
  rw [drainMark_eq_find, List.find?_eq_none]
  exact fun p hp => by simpa only [decide_eq_true_eq] using h p hp

/-- A context without the mark of a drain. -/
def Ctx.unmark (c : Ctx) (p : Pend) : Ctx := { c with pend := c.pend.filter fun x => x.id != p.id }

section
variable {o : MdrainOp} {s : State} {p : Pend} (hmark : s.th.drainMark = some p)
include hmark

theorem matDrain_waits (hy : ∃ y ∈ s.th.mq.iq, p.id < y.seq) : waits s (matOut s (matDrain o s.th s)) .drain := by
  have hany : (s.th.mq.iq.any fun x => decide (p.id < x.seq)) = true := by simpa using hy
  unfold matDrain
  rw [hmark]
  dsimp only
  rw [if_pos hany]
  exact parkOut_waits s .drain

theorem matDrain_ends (hy : ∀ y ∈ s.th.mq.iq, y.seq ≤ p.id)
    (hq : orFlags (drainStores o false s.th).2 &&& fpEnables s.th.sr = 0) :
    goesTo (matOut s (matDrain o s.th s)) fun t => onlyContext s t ∧ memoryKept s t ∧ advances s t ∧
      t.th = { afterDrain o (orFlags (drainStores o false s.th).2) s.th with
        status := .running, pc := t.th.pc, grp := t.th.grp, loops := t.th.loops,
        pend := s.th.pend.filter fun y => y.id != p.id } := by
  have hnone : ¬ (s.th.mq.iq.any fun x => decide (p.id < x.seq)) = true := by simpa using hy
  have hout : matOut s (matDrain o s.th s) = .next { s with
      th := ((afterDrain o (orFlags (drainStores o false s.th).2) (s.th.unmark p)).run).retire } := by
    unfold matDrain
    rw [hmark]
    dsimp only
    rw [if_neg hnone, ← Ctx.unmark, drainEnd_quiet (c := s.th.unmark p) hq]
    rfl
  rw [hout]
  exact ⟨_, rfl, rfl, fun _ => rfl, advances_retire rfl rfl rfl rfl, Ctx.retire_parts _⟩

end

/-- Inline `mdrain`, all or nothing (R255 to R257). -/
theorem matrixDrain : MatrixDrain := by
  intro h o s hp hf
  rw [exec_mdrain, inlineMat_on hp hf]
  intro r x marked drained
  have hx : drainRaw o s.th = x := funext (drainRaw_eq o s)
  refine ⟨fun ht => hx ▸ drainStores_float ht, fun ht => hx ▸ drainStores_bfp ht, fun hnone => ?_, fun p hfind _ => ?_⟩
  · have hmark : s.th.drainMark = none := drainMark_eq_none hnone
    have hunaligned (h : o.ty = .bfp8 ∧ (s.th.regs.gr o.a).toNat % 32 ≠ 0 ∨ o.ty = .bfp4 ∧
        (s.th.regs.gr o.a).toNat % 16 ≠ 0) : faults s (matOut s (matDrain o s.th s)) 0x1A 0 (s.th.regs.gr o.a) := by
      rw [matDrain_checkFails hmark (drainChecks_unaligned _ h)]
      exact faultOut_faults s _ (by decide) (by decide)
    refine ⟨fun t => matDrain_checkFails hmark, fun ht ha => hunaligned (.inl ⟨ht, ha⟩),
      fun ht ha => hunaligned (.inr ⟨ht, ha⟩), fun ps hcheck hplace habs hseal => ?_⟩
    exact ⟨placeStores_bytes hplace, placeStores_mem hplace, matDrain_keeps hmark hcheck hplace habs hseal,
      matDrain_marks hmark hcheck hplace habs hseal, matDrain_traps hmark hcheck hplace⟩
  · have hmark : s.th.drainMark = some p := (drainMark_eq_find s.th).trans hfind
    exact ⟨matDrain_waits hmark, matDrain_ends hmark⟩

/-- Settles O42: the passes of `mma` (`matrixMultiplication`), the addresses of its operands (`matrixOperands`), and
`mdrain`, whose placed stores cover their ranges in order (`matrixDrain`). -/
theorem matrixMultiply : Obligations.MatrixMultiply := ⟨matrixMultiplication, matrixOperands, matrixDrain⟩

end Sys2Proof.Machine
end

section
/-!
Contests of the waggle plane (R150 to R154): which contest is due, whom it takes, and what its result brings.
-/
namespace Sys2Proof.Machine
open Sys2Proof.Claims

/-! ### Candidates (R151, R152) -/

/-- `Cand.beats` is the lexicographic order: the greatest key, then the greatest die, then the lowest
logical number and time. -/
theorem Cand.beats_iff (a b : Cand) : Cand.beats a b = true ↔ b.key.toNat < a.key.toNat ∨ (a.key = b.key ∧
    (b.die < a.die ∨ (a.die = b.die ∧ (a.logical < b.logical ∨ (a.logical = b.logical ∧ a.time < b.time))))) := by
  unfold Cand.beats
  by_cases hk : a.key = b.key
  · by_cases hd : a.die = b.die
    · by_cases hl : a.logical = b.logical <;> simp [hk, hd, hl]
    · simp [hk, hd]
  · simp [hk]

/-- The same in numbers. -/
theorem Cand.beats_iff_toNat (a b : Cand) : Cand.beats a b = true ↔ b.key.toNat < a.key.toNat ∨
    (a.key.toNat = b.key.toNat ∧ (b.die < a.die ∨ (a.die = b.die ∧
      (a.logical < b.logical ∨ (a.logical = b.logical ∧ a.time < b.time))))) := by
  rw [Cand.beats_iff, BitVec.toNat_inj]

theorem Cand.not_beats_iff (a b : Cand) : Cand.beats a b = false ↔ ¬ (b.key.toNat < a.key.toNat ∨
    (a.key.toNat = b.key.toNat ∧ (b.die < a.die ∨ (a.die = b.die ∧
      (a.logical < b.logical ∨ (a.logical = b.logical ∧ a.time < b.time)))))) := by
  rw [← Cand.beats_iff_toNat, Bool.not_eq_true]

theorem Cand.beats_irrefl (a : Cand) : Cand.beats a a = false := by
  rw [Cand.not_beats_iff]
  omega

theorem Cand.beats_asymm {a b : Cand} (h : Cand.beats a b = true) : Cand.beats b a = false := by
  rw [Cand.beats_iff_toNat] at h
  rw [Cand.not_beats_iff]
  omega

theorem Cand.not_beats_trans {a b c : Cand} (hab : Cand.beats a b = false) (hbc : Cand.beats b c = false) :
    Cand.beats a c = false := by
  rw [Cand.not_beats_iff] at *
  omega

/-- Candidates have a best one, unless there is none. -/
theorem bestCand_eq_none {cs : List Cand} (h : bestCand cs = none) : cs = [] := by
  cases cs with
  | nil => rfl
  | cons x xs =>
    rw [bestCand] at h
    split at h
    · exact nomatch h
    · split at h <;> exact nomatch h

/-- The best of candidates is one of them that no other beats. -/
theorem bestCand_spec {cs : List Cand} {w : Cand} (h : bestCand cs = some w) :
    w ∈ cs ∧ ∀ x ∈ cs, Cand.beats x w = false := by
  induction cs generalizing w with
  | nil => exact nomatch h
  | cons x xs ih =>
    rw [bestCand] at h
    cases hy : bestCand xs with
    | none =>
      rw [hy] at h
      obtain rfl : x = w := Option.some.inj h
      rw [bestCand_eq_none hy]
      exact ⟨List.mem_singleton_self x, List.forall_mem_singleton.2 x.beats_irrefl⟩
    | some y =>
      obtain ⟨hmem, hbest⟩ := ih hy
      rw [hy] at h
      dsimp only at h
      cases hb : Cand.beats y x with
      | true =>
        obtain rfl : y = w := Option.some.inj ((if_pos hb).symm.trans h)
        exact ⟨List.mem_cons_of_mem x hmem, List.forall_mem_cons.2 ⟨Cand.beats_asymm hb, hbest⟩⟩
      | false =>
        obtain rfl : x = w := Option.some.inj ((if_neg (by simp [hb])).symm.trans h)
        exact ⟨List.mem_cons_self, List.forall_mem_cons.2
          ⟨x.beats_irrefl, fun z hz => Cand.not_beats_trans (hbest z hz) hb⟩⟩

/-- One comparison of the header (R151). -/
def headerStep (last : Nat) (best : Option Nat) (id : Nat) : Option Nat :=
  match best with
  | none => some id
  | some b => if contestCode last b < contestCode last id then some id else some b

theorem headerWinner_eq (last : Nat) (cs : List Cand) :
    headerWinner last cs = (cs.map fun x => x.id).foldl (headerStep last) none := rfl

/-- The comparisons leave one of the identifiers, whose header code is the greatest. -/
theorem headerStep_foldl (last b : Nat) (ids : List Nat) : ∃ id ∈ b :: ids,
    ids.foldl (headerStep last) (some b) = some id ∧ ∀ i ∈ b :: ids, contestCode last i ≤ contestCode last id := by
  induction ids generalizing b with
  | nil => exact ⟨b, List.mem_singleton_self b, rfl, List.forall_mem_singleton.2 le_rfl⟩
  | cons i is ih =>
    by_cases hlt : contestCode last b < contestCode last i
    · have hstep : headerStep last (some b) i = some i := if_pos hlt
      obtain ⟨id, hmem, hfold, hmax⟩ := ih i
      refine ⟨id, List.mem_cons_of_mem b hmem, by rw [List.foldl_cons, hstep, hfold], List.forall_mem_cons.2 ⟨?_, hmax⟩⟩
      exact hlt.le.trans (hmax i List.mem_cons_self)
    · have hstep : headerStep last (some b) i = some b := if_neg hlt
      obtain ⟨id, hmem, hfold, hmax⟩ := ih b
      obtain ⟨hb, his⟩ := List.forall_mem_cons.1 hmax
      have hmem' := List.cons_subset_cons b (List.subset_cons_self i is) hmem
      refine ⟨id, hmem', by rw [List.foldl_cons, hstep, hfold], List.forall_mem_cons.2 ⟨hb, List.forall_mem_cons.2 ⟨?_, his⟩⟩⟩
      exact (not_lt.1 hlt).trans hb

/-- The identifier that wins the header is one of the candidates', and its header code is the greatest (R151). -/
theorem headerWinner_spec {last id : Nat} {cs : List Cand} (h : headerWinner last cs = some id) :
    (∃ x ∈ cs, x.id = id) ∧ ∀ x ∈ cs, contestCode last x.id ≤ contestCode last id := by
  cases cs with
  | nil => exact nomatch h
  | cons y ys =>
    obtain ⟨id', hmem, hfold, hmax⟩ := headerStep_foldl last y.id (ys.map fun x => x.id)
    obtain rfl : id' = id := Option.some.inj (hfold.symm.trans h)
    rw [← List.map_cons (f := fun x : Cand => x.id)] at hmem hmax
    exact ⟨List.mem_map.1 hmem, List.forall_mem_map.1 hmax⟩

/-! ### The contest that is due (R150, R153) -/

theorem State.lane_id (s : State) (l : Nat) : (s.lane l).id = l := by
  unfold State.lane
  cases h : s.plane.lanes.find? fun x => x.id == l with
  | none => rfl
  | some x => simpa using List.find?_some h

section
variable {s t : State} {l : Nat} {x : Lane} (hx : x.id = l)
  (ht : t.plane.lanes = upsert (fun y => y.id == l) x s.plane.lanes)
include hx ht

theorem State.lane_upsert_same : t.lane l = x := by
  rw [State.lane, ht, find?_upsert_same (p := fun y : Lane => y.id == l) (beq_iff_eq.2 hx)]
  rfl

theorem State.lane_upsert_other {m : Nat} (hm : m ≠ l) : t.lane m = s.lane m := by
  have hkeep := find?_upsert_other (p := fun y : Lane => y.id == l) (q := fun y => y.id == m) (x := x)
    (beq_eq_false_iff_ne.2 (hx.trans_ne hm.symm))
    (fun y hy => beq_eq_false_iff_ne.2 ((beq_iff_eq.1 hy).trans_ne hm.symm)) s.plane.lanes
  rw [State.lane, ht, hkeep, State.lane]

end

/-- The first contest of a lane has begun, and is the least that a candidate finds. -/
theorem State.firstContest_spec {s : State} {l q : Nat} (h : s.firstContest l = some q) :
    (s.lane l).next ≤ q ∧ 210 * q ≤ s.now ∧
      ∀ x ∈ s.plane.cands, s.enters l x = true → q ≤ max (s.lane l).next (x.time / 210 + 1) := by
  obtain ⟨hmin, hnow⟩ := Option.filter_eq_some_iff.1 h
  obtain ⟨hmem, hleast⟩ := List.min?_eq_some_iff.1 hmin
  obtain ⟨y, -, rfl⟩ := List.mem_map.1 hmem
  refine ⟨le_max_left .., of_decide_eq_true hnow, fun x hx he => hleast _ ?_⟩
  exact List.mem_map.2 ⟨x, List.mem_filter.2 ⟨hx, he⟩, rfl⟩

theorem State.mem_eligible {s : State} {l start : Nat} {x : Cand} :
    x ∈ s.eligible l start ↔ x ∈ s.plane.cands ∧ s.enters l x = true ∧ x.time < start := by
  simp [State.eligible]

/-- The contest that is due takes the identifier that wins the header. -/
theorem State.dueContest_spec {s : State} {l q : Nat} {cs : List Cand} (h : s.dueContest l = some (q, cs)) :
    s.firstContest l = some q ∧ ∃ id, headerWinner (s.lane l).last (s.eligible l (210 * q)) = some id ∧
      cs = (s.eligible l (210 * q)).filter fun x => x.id == id := by
  obtain ⟨q', hq, hd⟩ := Option.bind_eq_some_iff.1 h
  obtain ⟨id, hid, heq⟩ := Option.map_eq_some_iff.1 hd
  obtain ⟨rfl, rfl⟩ := Prod.mk.inj heq
  exact ⟨hq, id, hid, rfl⟩

/-! ### A contest runs (R150 to R152) -/

theorem evWaggleContest_idle {s : State} {l : Nat} (h : s.dueContest l = none) : exec (.evWaggleContest l) s = .next s := by
  show execEvWaggleContest l s = _
  rw [execEvWaggleContest, h, ite_self]

theorem contestants_eq {l : Nat} {cs : List Cand} {w : Cand} (h : bestCand cs = some w) :
    contestants l cs = if l = 15 then [w] else cs := by
  rw [contestants, h]
  rfl

/-- The state after a contest that `w` won among `cs`. -/
def State.contested (s : State) (l q : Nat) (cs : List Cand) (w : Cand) : State :=
  { s with plane :=
    { lanes := upsert (fun y => y.id == l) { s.lane l with last := w.id, next := q + 1 } s.plane.lanes,
      cands := updateAll (fun x => (contestants l cs).any (Cand.same x)) (fun x => { x with committed := true }) s.plane.cands,
      results := s.plane.results ++ [⟨l, w.id, w.key, w.die, w.logical, w.cid, contestants l cs, 210 * q + 210⟩] } }

theorem evWaggleContest_runs {s : State} {l q : Nat} {cs : List Cand} {w : Cand} (hl : l < 16)
    (hd : s.dueContest l = some (q, cs)) (hw : bestCand cs = some w) :
    exec (.evWaggleContest l) s = .next (s.contested l q cs w) := by
  show execEvWaggleContest l s = _
  rw [execEvWaggleContest, if_pos hl, hd]
  dsimp only
  rw [hw]
  rfl

theorem State.contested_lane (s : State) (l q : Nat) (cs : List Cand) (w : Cand) :
    (s.contested l q cs w).lane l = { s.lane l with last := w.id, next := q + 1 } :=
  State.lane_upsert_same (s := s) (x := { s.lane l with last := w.id, next := q + 1 }) (s.lane_id l) rfl

/-- A contest that is due: the winner, what becomes of its lane, and its result. -/
theorem contestRuns {s : State} {l q : Nat} {cs : List Cand} (hl : l < 16) (hd : s.dueContest l = some (q, cs)) :
    goesTo (exec (.evWaggleContest l) s) fun t => planeOnly s t ∧ ∃ w ∈ cs,
      cs = (s.plane.cands.filter fun x => s.enters l x && decide (x.time < 210 * q) && x.id == w.id) ∧
      (∀ x ∈ s.plane.cands, s.enters l x = true → x.time < 210 * q →
        contestCode (s.lane l).last x.id ≤ contestCode (s.lane l).last w.id) ∧ (∀ x ∈ cs, Cand.beats x w = false) ∧
      t.lane l = { s.lane l with last := w.id, next := q + 1 } ∧ t.plane.results = s.plane.results ++
        [⟨l, w.id, w.key, w.die, w.logical, w.cid, if l = 15 then [w] else cs, 210 * q + 210⟩] := by
  obtain ⟨-, id, hwin, hcs⟩ := State.dueContest_spec hd
  obtain ⟨⟨y, hy, hyid⟩, hmax⟩ := headerWinner_spec hwin
  have hycs : y ∈ cs := hcs ▸ List.mem_filter.2 ⟨hy, beq_iff_eq.2 hyid⟩
  cases hw : bestCand cs with
  | none => exact absurd hycs (bestCand_eq_none hw ▸ List.not_mem_nil)
  | some w =>
    obtain ⟨hmem, hbest⟩ := bestCand_spec hw
    obtain rfl : w.id = id := by
      rw [hcs] at hmem
      exact beq_iff_eq.1 (List.mem_filter.1 hmem).2
    refine ⟨_, evWaggleContest_runs hl hd hw, ⟨fun _ => rfl, rfl, rfl, rfl⟩, w, hmem, ?_, fun x hx he ht => ?_, hbest,
      s.contested_lane l q cs w, ?_⟩
    · rw [hcs, State.eligible, List.filter_filter]
      exact List.filter_congr fun x _ => Bool.and_comm ..
    · exact hmax x (State.mem_eligible.2 ⟨hx, he, ht⟩)
    · rw [← contestants_eq hw]
      rfl

/-! ### The result (R134, R154, R296) -/

/-- The plane after the result of a contest has left it: its candidates are out of their lane, and a claim contest makes a
new cut on lane 15. -/
def State.resulted (s : State) (l : Nat) (r : ContestResult) : State :=
  let s := { s with plane := { s.plane with
    results := dropFirst (fun y => y.lane == l && y.due ≤ s.now) s.plane.results,
    cands := s.plane.cands.filter fun x => !(x.committed && r.cands.any (Cand.same x)) } }
  if l = 15 then s.cutLane else s

theorem evContestResult_single {s : State} {l : Nat} {r : ContestResult} {x : Cand}
    (hr : s.plane.results.find? (fun y => y.lane == l && y.due ≤ s.now) = some r) (hx : r.cands = [x]) :
    exec (.evContestResult l) s =
      .next (if l = 15 then (s.resulted l r).grantClaim x else (s.resulted l r).contestDone r x) := by
  show execEvContestResult l s = _
  rw [execEvContestResult, hr, State.resulted]
  dsimp only
  rw [hx]
  rfl

/-- The result leaves contexts, memory, regions, hub and claims as they are. -/
theorem State.resulted_eq (s : State) (l : Nat) (r : ContestResult) :
    s.resulted l r = { s with plane := (s.resulted l r).plane } := by
  unfold State.resulted
  dsimp only
  split <;> rfl

theorem State.ctx?_resulted {s : State} {cid : CtxId} {c : Ctx} (hc : s.ctx? cid = some c) (l : Nat) (r : ContestResult) :
    (s.resulted l r).ctx? cid = some c := by
  rw [State.resulted_eq]
  exact hc

/-- The result of lane 15 has left the plane, and its winner `x` holds its patches (R134). -/
def State.granted (s : State) (r : ContestResult) (x : Cand) : State := { s with
  plane := (s.resulted 15 r).plane
  claims := s.claims ++ [⟨x.cid, x.id - 0xCF0, x.np, .idle, false, false, false, 0, [], [], s.now, [], [], [], 0, 0⟩] }

/-- A change of a context after a result: of the rest only the plane and the claims may be new. -/
theorem planeOnly_updCtx (s : State) (p : Plane) (cl : List Claim) (cid : CtxId) {f : Ctx → Ctx}
    (hf : ∀ c, (f c).regs = c.regs) : planeOnly s ({ s with plane := p, claims := cl }.updCtx cid f) :=
  ⟨fun _ => rfl, rfl, rfl, State.updCtx_th_keeps (proj := Ctx.regs) hf _ cid⟩

section
variable {s : State} {l : Nat} {r : ContestResult} {x : Cand} {c : Ctx} {e : Entry} {es : List Entry}
  (hr : s.plane.results.find? (fun y => y.lane == l && y.due ≤ s.now) = some r) (hx : r.cands = [x])
  (hc : s.ctx? x.cid = some c) (hop : e.op = x.op)
include hr hx hc hop

/-- A program that contended learns the result (R154, R296). -/
theorem resultReaches (hl : l ≠ 15) (hq : c.queue 6 = e :: es) (hwork : ∃ k l i, e.work = .contend k l i) :
    goesTo (exec (.evContestResult l) s) fun t => planeOnly s t ∧ ctxIs t x.cid fun d =>
      d.queue 6 = courseOf (c.queue 6) e.op (.done .done r.key
        (BitVec.ofNat 64 ((if x.cid = r.winner then 2 ^ 63 else 0) + r.die * 2 ^ 32 + r.logical))) := by
  obtain ⟨k, lane, i, hwork⟩ := hwork
  have hc' := State.ctx?_resulted hc l r
  have hfind : (c.queue 6).find? (fun y => y.op == x.op) = some e := by
    rw [hq]
    exact List.find?_cons_of_pos (beq_iff_eq.2 hop)
  have hdone : (s.resulted l r).contestDone r x =
      (s.resulted l r).updCtx x.cid fun c => c.entryDone 6 e.op .done (r.words x).1 (r.words x).2 := by
    rw [State.contestDone, hc', Option.bind_some, hfind]
    dsimp only
    rw [hwork]
  refine ⟨_, (evContestResult_single hr hx).trans (by rw [if_neg hl, hdone]), ?_, ?_⟩
  · rw [State.resulted_eq]
    exact planeOnly_updCtx s _ s.claims x.cid fun _ => rfl
  · exact ⟨_, State.ctx?_updCtx hc' fun _ => rfl, c.queue_setEntry e.op _ (by decide)⟩

/-- The winner of a claim contest receives its patches (R134). -/
theorem claimGranted (hl : l = 15) (hq : c.queue 7 = e :: es) (hb : e.course = .begun)
    (hwork : ∃ d n, e.work = .fabric (.claim d n)) :
    goesTo (exec (.evContestResult l) s) fun t => planeOnly s t ∧
      t.claims = s.claims ++ [⟨x.cid, x.id - 0xCF0, x.np, .idle, false, false, false, 0, [], [], s.now, [], [], [], 0, 0⟩] ∧
      ctxIs t x.cid fun d => d.queue 7 = courseOf (c.queue 7) e.op
        (.done .done (BitVec.ofNat 64 ((x.id - 0xCF0) * 2 ^ 16 + x.np)) 0) := by
  obtain ⟨die, n, hwork⟩ := hwork
  subst hl
  have hentry : ((s.resulted 15 r).fabricEntry x.cid).filter (fun e => e.op == x.op) = some e := by
    rw [fabricEntry_begun (State.ctx?_resulted hc 15 r) hq hb]
    exact Option.filter_eq_some_iff.2 ⟨rfl, beq_iff_eq.2 hop⟩
  have hgrant : (s.resulted 15 r).grantClaim x = (s.granted r x).updCtx x.cid fun c =>
      c.entryDone 7 e.op .done (BitVec.ofNat 64 ((x.id - 0xCF0) * 2 ^ 16 + x.np)) 0 := by
    rw [State.grantClaim, hentry]
    dsimp only
    rw [hwork]
    exact congrArg (State.updCtx · x.cid _) (by rw [State.resulted_eq, State.granted])
  have hc' : (s.granted r x).ctx? x.cid = some c := hc
  refine ⟨_, (evContestResult_single hr hx).trans (by rw [if_pos rfl, hgrant]), ?_, rfl, ?_⟩
  · exact planeOnly_updCtx s _ _ x.cid fun _ => rfl
  · exact ⟨_, State.ctx?_updCtx hc' fun _ => rfl, c.queue_setEntry e.op _ (by decide)⟩

end

/-- Settles O51: the header takes the greatest code (`headerWinner_spec`), the best of its candidates is beaten by none
(`bestCand_spec`), and a result reaches the context that waits for it (`resultReaches`, `claimGranted`). -/
theorem contests : Obligations.Contests := by
  intro s l lane
  refine ⟨evWaggleContest_idle, fun q cs hl hd => ⟨?_, contestRuns hl hd⟩, Cand.beats_iff,
    fun r x hr hx c e es hc => ⟨?_, ?_⟩⟩
  · exact State.firstContest_spec (State.dueContest_spec hd).1
  · exact fun hl hq hop hwork => resultReaches hr hx hc hop hl hq hwork
  · exact fun hl hq hop hb hwork => claimGranted hr hx hc hop hl hq hb hwork

end Sys2Proof.Machine
end

section
/-!
Fabric instructions place their entry on queue 7 (R280, R297; log 33): their checks, the entry, and the wait for the head of
the queue.
-/
namespace Sys2Proof.Machine
open Sys2Proof.Claims

/-! ### The forms -/

/-- A fabric instruction runs through `onFabric`, with its handle, its table address and its work. -/
theorem fabricForm_onFabric {s : State} {i : Instr} {h : Hdr} {hd : Option (BitVec 4)} {tab : Option Word} {w : AfOp}
    (hi : fabricForm s i = some (h, hd, tab, w)) : ∃ table o body, table s = tab ∧ o s = w ∧
      ∀ u : State, detLevel u.th = 0 → exec i u = onFabric h hd table o body u := by
  unfold fabricForm at hi
  split at hi
  case h_7 h' o =>
    simp only [Option.some.injEq, Prod.mk.injEq] at hi
    obtain ⟨rfl, rfl, rfl, rfl⟩ := hi
    exact ⟨fun _ => none, fun s => .sample (s.th.regs.gr o.a) [] [] 0 0, _, rfl, rfl, fun u hu =>
      onDet_pass (applies := fun _ => true) (s := u) (by simp [hu]) _⟩
  case h_4 h' o =>
    simp only [Option.some.injEq, Prod.mk.injEq] at hi
    obtain ⟨rfl, rfl, rfl, rfl⟩ := hi
    exact ⟨fun _ => none, fun s => .scale (s.th.regs.gr o.a) (s.th.regs.gs o.b), _, rfl, rfl, fun u _ => rfl⟩
  case h_10 => exact nomatch hi
  all_goals
    simp only [Option.some.injEq, Prod.mk.injEq] at hi
    obtain ⟨rfl, rfl, rfl, rfl⟩ := hi
    exact ⟨_, _, _, rfl, rfl, fun u _ => rfl⟩

section
variable {h : Hdr} {hd : Option (BitVec 4)} {table : State → Option Word} {o : State → AfOp} {body : Entry → State → Out}
  {s : State} {e : Entry} (hp : predOn h s.th.regs = true)
include hp

/-- What was placed is not placed again. -/
theorem onFabric_again (he : s.th.issuing? = some e) : onFabric h hd table o body s = atFabricHead body e s := by
  rw [onFabric, onPred_on hp, he]

theorem onFabric_fault {t : Trap} (hn : s.th.issuing? = none)
    (ht : firstFault [hd.bind (busyFault s.th), (table s).bind fun a => alignFault a 8] = some t) :
    onFabric h hd table o body s = faultOut s t := by
  rw [onFabric, onPred_on hp, hn]
  dsimp only
  rw [ht]

theorem onFabric_place (hn : s.th.issuing? = none)
    (ht : firstFault [hd.bind (busyFault s.th), (table s).bind fun a => alignFault a 8] = none)
    (he : (s.mapTh fun c => c.placeFabric hd (o s) s.now).th.issuing? = some e) :
    onFabric h hd table o body s = atFabricHead body e (s.mapTh fun c => c.placeFabric hd (o s) s.now) := by
  rw [onFabric, onPred_on hp, hn]
  dsimp only
  rw [ht]
  dsimp only
  rw [he]

end

/-! ### The entry that is placed -/

/-- What a change makes of the queue that it names is all that counts. -/
theorem Ctx.mapQ_congr {c : Ctx} {q : Nat} (hq : q < 8) {f g : List Entry → List Entry} (h : f (c.queue q) = g (c.queue q)) :
    c.mapQ q f = c.mapQ q g := by
  have hqueue : c.queue q = c.eq.get ⟨q, hq⟩ := dif_pos hq
  rw [hqueue] at h
  have heq : (c.mapQ q f).eq = (c.mapQ q g).eq := by
    refine congrArg Vector.ofFn (funext fun i => ?_)
    by_cases hi : i.val = q
    · obtain rfl : i = ⟨q, hq⟩ := Fin.ext hi
      rw [if_pos rfl, if_pos rfl, h]
    · rw [if_neg hi, if_neg hi]
  exact congrArg (fun x => { c with eq := x }) heq

theorem Ctx.mapQ_mapQ (c : Ctx) (q : Nat) (f g : List Entry → List Entry) :
    (c.mapQ q f).mapQ q g = c.mapQ q fun es => g (f es) := by
  have heq : ((c.mapQ q f).mapQ q g).eq = (c.mapQ q fun es => g (f es)).eq := by
    refine congrArg Vector.ofFn (funext fun i => ?_)
    have hget : (c.mapQ q f).eq.get i = if i.val = q then f (c.eq.get i) else c.eq.get i := Vector.getElem_ofFn ..
    rw [hget]
    split <;> rfl
  exact congrArg (fun x => { c with eq := x }) heq

/-- The entry that a fabric instruction places (R280). -/
def fabricPlaced (s : State) (hd : Option (BitVec 4)) (w : AfOp) : Entry :=
  ⟨opNum s, s.th.mq.next, .fabric w, .waiting, false, s.now, hd.map fun i => (i, hand s i), false⟩

/-- Placing keeps what the handle held with the new entry alone, when no entry bears its number. -/
theorem placeFabric_fresh {s : State} (hop : ∀ e ∈ s.th.queue 7, e.op ≠ opNum s) (hd : Option (BitVec 4)) (w : AfOp) :
    (s.mapTh fun c => c.placeFabric hd w s.now) = placedFabric s hd w := by
  have hkeep : updateAll (fun e => e.op == opId s.th) (fun e => { e with undo := hd.map fun i => (i, s.th.handle i) })
      (s.th.queue 7 ++ [⟨opId s.th, s.th.mq.next, .fabric w, .waiting, false, s.now, none, false⟩]) =
      s.th.queue 7 ++ [fabricPlaced s hd w] := by
    rw [updateAll, List.map_append]
    have hold := updateAll_none (p := fun e : Entry => e.op == opId s.th) (xs := s.th.queue 7)
      (fun e he => beq_eq_false_iff_ne.2 (hop e he)) fun e => { e with undo := hd.map fun i => (i, s.th.handle i) }
    exact congrArg₂ (· ++ ·) hold (congrArg (List.cons · []) (if_pos (beq_self_eq_true _)))
  have hq := (Ctx.mapQ_mapQ s.th 7 (· ++ [⟨opId s.th, s.th.mq.next, .fabric w, .waiting, false, s.now, none, false⟩])
    (updateAll (fun e => e.op == opId s.th) fun e => { e with undo := hd.map fun i => (i, s.th.handle i) })).trans
    (Ctx.mapQ_congr (g := (· ++ [fabricPlaced s hd w])) (by decide) hkeep)
  cases hd with
  | none =>
    exact congrArg (fun c : Ctx => { s with th := { c with
      nextOp := s.th.nextOp + 1, mq := { s.th.mq with next := s.th.mq.next + 1 } } }) hq
  | some i =>
    exact congrArg (fun c : Ctx => { s with th := { c with
      h := s.th.h.set i.toNat ⟨.pending, 0, 0, opNum s, true⟩ i.isLt
      nextOp := s.th.nextOp + 1, mq := { s.th.mq with next := s.th.mq.next + 1 } } }) hq

theorem placedFabric_issuing {s : State} (hn : s.th.issuing? = none) (hd : Option (BitVec 4)) (w : AfOp) :
    (placedFabric s hd w).th.issuing? = some (fabricPlaced s hd w) := by
  have hqueue : (placedFabric s hd w).th.queue 7 = s.th.queue 7 ++ [fabricPlaced s hd w] :=
    (s.th.queue_mapQ 7 (· ++ [fabricPlaced s hd w]) (by decide)).trans (if_pos rfl)
  rw [Ctx.issuing?] at hn ⊢
  rw [hqueue, List.find?_append, hn]
  rfl

/-! ### The checks of R280 -/

theorem fabricChecks_busy {s : State} {x : BitVec 4} (hx : (hand s x).st = .pending) (table : Option Word) :
    firstFault [(some x).bind (busyFault s.th), table.bind fun a => alignFault a 8] = some ⟨0x18, 0, x.zeroExtend 64⟩ := by
  rw [Option.bind_some, busyFault_pending hx]
  rfl

theorem fabricChecks_free {s : State} {hd : Option (BitVec 4)} (hx : ∀ x, hd = some x → (hand s x).st ≠ .pending)
    (table : Option Word) : firstFault [hd.bind (busyFault s.th), table.bind fun a => alignFault a 8] =
      table.bind fun a => alignFault a 8 := by
  have hbusy : hd.bind (busyFault s.th) = none := by
    cases hd with
    | none => rfl
    | some x => exact busyFault_free (hx x rfl)
  rw [hbusy]
  cases table.bind fun a => alignFault a 8 <;> rfl

/-! ### The wait for the head (R97) -/

theorem atFabricHead_waits {s : State} {e : Entry}
    (h : (s.th.queue 7).head?.map Entry.op ≠ some e.op ∨ s.th.ackedBelow e.seq = false) (body : Entry → State → Out) :
    atFabricHead body e s = parkOut s .fabric := by
  refine if_neg fun hboth => ?_
  obtain ⟨hhead, hacked⟩ := Bool.and_eq_true_iff.1 hboth
  obtain hother | hlate := h
  · refine hother ?_
    cases hq : (s.th.queue 7).head? with
    | none => simp [hq] at hhead
    | some y => simpa [hq] using hhead
  · exact Bool.false_ne_true (hlate.symm.trans hacked)

/-- An entry at the head whose earlier operations are acknowledged issues (R97, R280). -/
theorem onFabric_atHead {h : Hdr} {hd : Option (BitVec 4)} {table : State → Option Word} {o : State → AfOp}
    {body : Entry → State → Out} {s : State} {e : Entry} (hp : predOn h s.th.regs = true) (he : atHead s e) :
    onFabric h hd table o body s = body e s := by
  obtain ⟨hhead, hwaiting, hacked⟩ := he
  have hissuing : s.th.issuing? = some e := by
    cases hq : s.th.queue 7 with
    | nil => simp [hq] at hhead
    | cons y ys =>
      obtain rfl : y = e := by simpa [hq] using hhead
      rw [Ctx.issuing?, hq]
      exact List.find?_cons_of_pos hwaiting
  rw [onFabric_again hp hissuing]
  exact if_pos (by simp [hhead, hacked])

/-- A fabric instruction places its entry after its checks, once, and waits for the head of its queue (R280). -/
theorem fabricIssue : FabricIssue := by
  intro s i h hd tab w hi hp hdet
  obtain ⟨table, o, body, rfl, rfl, hrun⟩ := fabricForm_onFabric hi
  refine ⟨fun hqueue => ?_, fun e he hw => ?_⟩
  · have hn : s.th.issuing? = none := List.find?_eq_none.2 fun e he => Bool.not_eq_true _ ▸ (hqueue e he).1
    refine ⟨?_, fun hfree => ⟨fun a ha hmis => ?_, fun hal => ?_⟩⟩
    · rintro x rfl hx
      exact faults_of_eq ((hrun s hdet).trans (onFabric_fault hp hn (fabricChecks_busy hx _)))
    · refine faults_of_eq ((hrun s hdet).trans (onFabric_fault hp hn ((fabricChecks_free hfree _).trans ?_)))
      rw [ha]
      exact if_neg hmis
    · have hal' : ((table s).bind fun a => alignFault a 8) = none :=
        Option.bind_eq_none_iff.2 fun a ha => if_pos (hal a ha)
      have hplace := placeFabric_fresh (fun e he => (hqueue e he).2) hd (o s)
      have hissuing := placedFabric_issuing hn hd (o s)
      rw [hrun s hdet, hrun (placedFabric s hd (o s)) hdet,
        onFabric_place hp hn ((fabricChecks_free hfree _).trans hal') (hplace ▸ hissuing), hplace]
      exact (onFabric_again (s := placedFabric s hd (o s)) hp hissuing).symm
  · rw [hrun s hdet, onFabric_again hp he, atFabricHead_waits hw]
    exact parkOut_waits s .fabric

end Sys2Proof.Machine
end

section
/-!
The continuous fabric at the head of queue 7 (R134 to R142, R298): an issue that faults, one that begins its operation, one
that resolves it, the reads of a table and of a sample list, and the nine operations.
-/
namespace Sys2Proof.Machine
open Sys2Proof.Claims

/-! ### The three outcomes of an issue -/

/-- What has been dropped is not dropped again. -/
theorem State.ioDrop_ioDrop (s : State) (src : Source) (id : Nat) : (s.ioDrop src id).ioDrop src id = s.ioDrop src id := by
  unfold State.ioDrop
  simp only [List.filter_filter, Bool.and_self]

/-- A check at the head fails with the fault that it names. -/
theorem fabricFault_headFaults (s : State) (e : Entry) {cause : Nat} (addr : Word) (hc : cause < 65536 := by decide) :
    headFaults s (fabricFault e ⟨cause, 0, addr⟩ s) e cause addr := by
  unfold fabricFault headFaults
  cases e.undo with
  | none => exact ⟨_, rfl, stopsOn_trap _ hc (show 0 < 65536 by decide)⟩
  | some x => exact ⟨_, rfl, stopsOn_trap _ hc (show 0 < 65536 by decide)⟩

/-- The answers that have been read are dropped with the entry. -/
theorem fabricFault_ioDrop (s : State) (e : Entry) (t : Trap) :
    fabricFault e t (s.ioDrop (.engine s.th.cid 7) e.op) = fabricFault e t s := by
  have hdrop (f : Ctx → Ctx) : ((s.ioDrop (.engine s.th.cid 7) e.op).mapTh f).ioDrop (.engine s.th.cid 7) e.op =
      (s.mapTh f).ioDrop (.engine s.th.cid 7) e.op := (s.mapTh f).ioDrop_ioDrop ..
  exact congrArg (faultOut · t) (hdrop _)

/-- The context after an issue that begins its operation. -/
theorem issueBegun_th (e : Entry) (w : AfOp) (s : State) : (issueBegun e w s).th =
    { withQ7 s.th (fun es => es.map fun y => if y.op == e.op then
        { y with work := .fabric w, course := .begun, since := s.now, undo := none } else y) with
      status := .running, pc := s.retire.th.pc, grp := s.retire.th.grp, loops := s.retire.th.loops } :=
  Ctx.retire_congr (c := s.th) rfl rfl rfl

/-- An issue that begins: beside the context only claims, plane, network and the count of free values may be new. -/
theorem headBegins_issueBegun {s t : State} {e : Entry} {w : AfOp} {cl : List Claim} {P : State → Prop}
    (hth : t.th = (issueBegun e w s).th)
    (hrest : t = { s with th := t.th, claims := t.claims, plane := t.plane, net := t.net, tick := t.tick })
    (hmem : memoryKept s t) (hcl : t.claims = cl) (hP : P t) : headBegins s (.next t) e w cl P := by
  rw [issueBegun_th] at hth
  refine ⟨t, rfl, hmem, ?_, hP, hcl, hrest, ?_⟩
  · rw [advances, hth]
    exact ⟨rfl, rfl, rfl⟩
  · rw [hth]

/-- The handles of a context after an issue that resolves the operation of an entry (R54). -/
def Ctx.resolvedHandles (c : Ctx) (e : Entry) (st : HState) (res : Word) : Vector Handle 16 :=
  match e.undo with
  | none => c.h
  | some (i, _) => c.h.set i.toNat ⟨st, res, 0, e.op, true⟩ i.isLt

/-- The context after an issue that resolves its operation. -/
theorem issueDone_th (e : Entry) (st : HState) (res : Word) (s : State) : (issueDone e st res s).th =
    { withQ7 s.th (fun es => es.filter fun y => y.op != e.op) with
      h := s.th.resolvedHandles e st res
      status := .running, pc := s.retire.th.pc, grp := s.retire.th.grp, loops := s.retire.th.loops } := by
  unfold issueDone Ctx.resolvedHandles
  cases e.undo with
  | none => exact Ctx.retire_congr (c := s.th) rfl rfl rfl
  | some x => exact Ctx.retire_congr (c := s.th) rfl rfl rfl

/-- An issue that resolves: beside the context, which may count for its meters, only claims and plane may be new. -/
theorem headLeaves_issueDone {s t : State} {e : Entry} {st : HState} {res : Word} {cl : List Claim} {f : Ctx → Ctx}
    {P : State → Prop} {m : Meters} (hth : t.th = { (issueDone e st res s).th with meters := m })
    (hf : f (withQ7 s.th fun es => es.filter fun y => y.op != e.op) =
      { withQ7 s.th fun es => es.filter fun y => y.op != e.op with meters := m })
    (hrest : t = { s with th := t.th, claims := cl, plane := t.plane }) (hmem : memoryKept s t) (hP : P t) :
    headLeaves s (.next t) e st res cl f P := by
  rw [issueDone_th] at hth
  refine ⟨t, rfl, hmem, ?_, hP, hrest, ?_⟩
  · rw [advances, hth]
    exact ⟨rfl, rfl, rfl⟩
  · rw [hf, hth]
    rfl

/-- An issue that resolves and may change the claims. -/
theorem headResolves_issueDone (s : State) (e : Entry) (st : HState) (res : Word) (cl : List Claim) :
    headResolves s (.next { issueDone e st res s with claims := cl }) e st res cl id := by
  refine headLeaves_issueDone (m := s.th.meters) ?_ rfl rfl (fun _ => rfl) rfl
  dsimp only
  rw [issueDone_th]
  rfl

/-! ### Reads (R298) -/

/-- The checks of an address do not look at the network. -/
theorem State.pagedParts_net (s : State) (n : Net) (c : Ctx) (use : Use) (sup : Bool) (ps : List (Nat × Nat)) :
    ({ s with net := n } : State).pagedParts c use sup ps = s.pagedParts c use sup ps := by
  induction ps with
  | nil => rfl
  | cons p ps ih =>
    rw [State.pagedParts, State.pagedParts, ih]
    rfl

theorem State.userPlace_net (s : State) (n : Net) (c : Ctx) (i : CellId) (use : Use) (va : Word) (len : Nat) :
    ({ s with net := n } : State).userPlace c i use va len = s.userPlace c i use va len := by
  unfold State.userPlace
  simp only [State.pagedParts_net]
  rfl

theorem State.placeAt_net (s : State) (n : Net) (c : Ctx) (use : Use) (va : Word) (len : Nat) :
    ({ s with net := n } : State).placeAt c use va len = s.placeAt c use va len := by
  unfold State.placeAt State.servicePlace
  simp only [State.userPlace_net]
  rfl

theorem State.placeAt_ioDrop (s : State) (src : Source) (id : Nat) (c : Ctx) (use : Use) (va : Word) (len : Nat) :
    (s.ioDrop src id).placeAt c use va len = s.placeAt c use va len := s.placeAt_net _ c use va len

section
variable {s : State} {e : Entry} (k : List Byte → State → Out) {a : Word} {len : Nat}

/-- The reads of an entry go out, one for each part. -/
theorem fabricRead_starts (hio : s.io? (.engine s.th.cid 7) e.op = none) {ps : List Part}
    (hps : s.placeAt s.th.asUnit .read a len = .ok ps) (habs : s.absentPart ps = none) :
    startsRead s (fabricRead a len k e s) e ps.length len := by
  obtain ⟨cells, combs, hu⟩ := s.tlbTouch_mapTh (fun c => c.charge ps) s.th ps
  have hrun : fabricRead a len k e s = parkOut
      (State.ioSendReads { s with th := s.th.charge ps, cells := cells, combs := combs } (.engine s.th.cid 7) e.op len
        (fromHere 0 ps)) .fabric := by
    rw [fabricRead, hio, Option.isNone_none, if_pos rfl, hps]
    dsimp only
    rw [habs]
    dsimp only
    rw [hu]
  have hsent := State.ioSendReads_io? (s := { s with th := s.th.charge ps, cells := cells, combs := combs }) hio len
    (fromHere 0 ps)
  have hlen : (fromHere 0 ps).length = ps.length := by simp [fromHere, withOffsets]
  refine ⟨_, hrun, fun _ => rfl, rfl, rfl, rfl, rfl, rfl, rfl, _, hsent, hlen, List.length_replicate, rfl⟩

/-- The bytes that the answers have brought are given on. -/
theorem fabricRead_answered {x : Io} (hio : s.io? (.engine s.th.cid 7) e.op = some x) (hreads : x.reads = 0)
    (hbad : x.bad = none) : fabricRead a len k e s = k x.buf (s.ioDrop (.engine s.th.cid 7) e.op) := by
  rw [fabricRead]
  simp [hio, State.ioRead?, State.ioBad, State.ioBytes, hreads, hbad]

end

/-! ### Claims -/

section
variable {h : Hdr} {s : State} {e : Entry} {k : Claim} (hp : predOn h s.th.regs = true) (he : atHead s e)
include hp he

/-- Without a claim an operation takes the fabric-state fault (R135). -/
theorem unclaimed_faults (hk : s.claimOf s.th.cid = none) (o : HOp) {p : Hdr → HOp → Instr}
    (hmem : p ∈ ([.afcal, .afrun, .afstop, .afrel] : List (Hdr → HOp → Instr))) :
    ∃ a, headFaults s (exec (p h o) s) e 0x1E a := by
  have hfault (f : Claim → Entry → State → Out) (w : AfOp) :
      ∃ a, headFaults s (onFabric h (some o.h) (fun _ => none) (fun _ => w) (withClaim f) s) e 0x1E a := by
    rw [onFabric_atHead hp he, withClaim, hk]
    exact ⟨_, fabricFault_headFaults s e _⟩
  simp only [List.mem_cons, List.not_mem_nil, or_false] at hmem
  obtain rfl | rfl | rfl | rfl := hmem
  · exact hfault _ .cal
  · exact hfault _ .run
  · exact hfault _ .stop
  · exact hfault _ .rel

/-- `afclaim` registers its candidate on lane 15, unless the context holds a claim (R134). -/
theorem afclaimHead (o : AfClaim) : (s.claimOf s.th.cid ≠ none → ∃ a, headFaults s (exec (.afclaim h o) s) e 0x1E a) ∧
    (s.claimOf s.th.cid = none →
      headBegins s (exec (.afclaim h o) s) e (.claim o.die o.np.toNat) s.claims fun t =>
        t.net = s.net ∧ t.tick = s.tick ∧ t.plane = { s.plane with cands := s.plane.cands ++
          [⟨15, 0xCF0 + (if o.die then 1 else 0), claimKey (((s.regionOf s.th).map fun r => r.a.effPrio).getD 0) s.now,
            combFrame s.th.comb, s.th.logical, s.th.cid, e.op, s.now, false, o.np.toNat⟩] }) := by
  have hrun : exec (.afclaim h o) s = execAfclaim h o s := rfl
  rw [hrun, execAfclaim]
  dsimp only
  rw [onFabric_atHead hp he]
  refine ⟨fun hk => ?_, fun hk => ?_⟩
  · rw [if_pos (Option.isSome_iff_ne_none.2 hk)]
    exact ⟨_, fabricFault_headFaults s e _⟩
  · rw [if_neg (by simp [hk])]
    exact headBegins_issueBegun rfl rfl (fun _ => rfl) rfl ⟨rfl, rfl, rfl⟩

variable (hk : s.claimOf s.th.cid = some k)
include hk

/-- `afcal` begins in the state IDLE (R136). -/
theorem afcalHead (o : HOp) : (k.st = .idle → headBegins s (exec (.afcal h o) s) e .cal s.claims fun t => t.plane = s.plane) ∧
    (k.st ≠ .idle → ∃ a, headFaults s (exec (.afcal h o) s) e 0x1E a) := by
  have hrun : exec (.afcal h o) s = execAfcal h o s := rfl
  rw [hrun, execAfcal, onFabric_atHead hp he, withClaim, hk]
  refine ⟨fun hst => ?_, fun hst => ?_⟩
  · dsimp only
    rw [if_pos hst]
    exact headBegins_issueBegun rfl rfl (fun _ => rfl) rfl rfl
  · dsimp only
    rw [if_neg hst]
    exact ⟨_, fabricFault_headFaults s e _⟩

/-- `afrun` starts a configured claim from its initial states (R135). -/
theorem afrunHead (o : HOp) : (k.cfg = true → headResolves s (exec (.afrun h o) s) e .done (BitVec.ofNat 64 s.now)
      (claimsWith s { k with
        st := .run, sat := false, sint := 0, latched := [], held := [], calm := 0,
        xi := (List.range (64 * k.np)).map (initialXi k.kept) }) id) ∧
    (k.cfg = false → ∃ a, headFaults s (exec (.afrun h o) s) e 0x1E a) := by
  have hrun : exec (.afrun h o) s = execAfrun h o s := rfl
  rw [hrun, execAfrun, onFabric_atHead hp he, withClaim, hk]
  refine ⟨fun hcfg => ?_, fun hcfg => ?_⟩
  · dsimp only
    rw [if_neg (by simp [hcfg])]
    exact headResolves_issueDone s e .done _ _
  · dsimp only
    rw [if_pos (by simp [hcfg])]
    exact ⟨_, fabricFault_headFaults s e _⟩

/-- `afstop` holds a running claim (R135). -/
theorem afstopHead (o : HOp) : headResolves s (exec (.afstop h o) s) e .done 0
    (claimsWith s { k with st := if k.st = .run then .hold else k.st }) id := by
  have hrun : exec (.afstop h o) s = execAfstop h o s := rfl
  rw [hrun, execAfstop, onFabric_atHead hp he, withClaim, hk]
  exact headResolves_issueDone s e .done _ _

end

/-! ### afrel (R134, R373) -/

theorem State.cutLane_lane (s : State) : (s.cutLane.lane 15).next = max (s.lane 15).next ((s.now + 209) / 210) ∧
    (s.cutLane.lane 15).last = (s.lane 15).last ∧ ∀ l, l ≠ 15 → s.cutLane.lane l = s.lane l := by
  have hid : ({ s.lane 15 with next := max (s.lane 15).next ((s.now + 209) / 210) } : Lane).id = 15 := s.lane_id 15
  have hcut := State.lane_upsert_same (s := s) (t := s.cutLane) hid rfl
  exact ⟨by rw [hcut], by rw [hcut], fun l hl => State.lane_upsert_other (s := s) (t := s.cutLane) hid rfl hl⟩

/-- A context of which the pool holds no copy changes in its place alone. -/
theorem State.updCtx_th {s : State} (hpool : ∀ c ∈ s.pool, c.cid ≠ s.th.cid) (f : Ctx → Ctx) :
    s.updCtx s.th.cid f = s.mapTh f := by
  have hnone := updateAll_none (p := fun x : Ctx => x.cid == s.th.cid) (xs := s.pool)
    (fun c hc => beq_eq_false_iff_ne.2 (hpool c hc)) f
  rw [State.updCtx, hnone, if_pos rfl]
  rfl

/-- The patch counter of a context that has held `n` patches for a microsecond (R373). -/
def Meters.addPatch (m : Meters) (n : Nat) : Meters := { m with patch := satAdd m.patch n }

/-- The claim of the context in turn ends: it is metered and leaves, and lane 15 has a new cut. -/
theorem State.endClaim_th {s : State} {k : Claim} (hk : s.claimOf s.th.cid = some k) (hpool : ∀ c ∈ s.pool, c.cid ≠ s.th.cid) :
    s.endClaim s.th.cid = State.cutLane { s with
      th := { s.th with meters := s.th.meters.addPatch (k.np * ((s.now - k.since) / 1000)) }
      claims := s.claims.filter fun x => x.cid != s.th.cid } := by
  have hpatch (n : Nat) : s.addPatch s.th.cid n = s.mapTh fun c => { c with meters := c.meters.addPatch n } :=
    State.updCtx_th hpool _
  rw [State.endClaim, hpatch, hk]
  exact if_neg (by simp [show (s.mapTh _).claimOf s.th.cid = some k from hk])

/-- `afrel` returns the patches of the claim. -/
theorem afrelHead {h : Hdr} {s : State} {e : Entry} {k : Claim} (hp : predOn h s.th.regs = true) (he : atHead s e)
    (hk : s.claimOf s.th.cid = some k) (hpool : ∀ c ∈ s.pool, c.cid ≠ s.th.cid) (o : HOp) :
    headLeaves s (exec (.afrel h o) s) e .done 0 (s.claims.filter fun x => x.cid != s.th.cid) (fun c =>
      { c with meters := { c.meters with patch := satAdd c.meters.patch (k.np * ((s.now - k.since) / 1000)) } }) fun t =>
      t.plane = { s.plane with lanes := t.plane.lanes } ∧
      (t.lane 15).next = max (s.lane 15).next ((s.now + 209) / 210) ∧ (t.lane 15).last = (s.lane 15).last ∧
      ∀ l, l ≠ 15 → t.lane l = s.lane l := by
  have hcid : (issueDone e .done 0 s).th.cid = s.th.cid := by rw [issueDone_th]; rfl
  have hmeters : (issueDone e .done 0 s).th.meters = s.th.meters := by rw [issueDone_th]; rfl
  have hend := State.endClaim_th (s := issueDone e .done 0 s) (hcid ▸ hk) (hcid ▸ hpool)
  have hrun : exec (.afrel h o) s = execAfrel h o s := rfl
  rw [hrun, execAfrel, onFabric_atHead hp he, withClaim, hk]
  dsimp only
  rw [← hcid, hend, hcid, hmeters]
  exact headLeaves_issueDone rfl rfl rfl (fun _ => rfl) ⟨rfl, State.cutLane_lane _⟩

/-! ### afscale (R142) -/

/-- The scale that a list gives an integrator (log 74). -/
def scaleOf (sc : List (Nat × Int)) (n : Nat) : Int := ((sc.find? fun y => y.1 == n).map Prod.snd).getD 0

theorem scaleOf_setScale (sc : List (Nat × Int)) (m n : Nat) (x : Int) :
    scaleOf (setScale sc m x) n = if n = m then x else scaleOf sc n := by
  by_cases hn : n = m
  · subst hn
    have hset := find?_upsert_same (p := fun y : Nat × Int => y.1 == n) (x := (n, x)) (beq_self_eq_true n) sc
    rw [if_pos rfl, scaleOf, setScale, hset]
    rfl
  · have hkeep := find?_upsert_other (p := fun y : Nat × Int => y.1 == m) (q := fun y => y.1 == n) (x := (m, x))
      (beq_eq_false_iff_ne.2 (Ne.symm hn)) (fun y hy => by simp [beq_iff_eq.1 hy, Ne.symm hn]) sc
    rw [if_neg hn, scaleOf, setScale, hkeep]
    rfl

theorem scaleOf_setScales (ns : List Nat) (sc : List (Nat × Int)) (n : Nat) (x : Int) :
    scaleOf (ns.foldl (fun sc n => setScale sc n x) sc) n = if n ∈ ns then x else scaleOf sc n := by
  induction ns generalizing sc with
  | nil => rfl
  | cons m ms ih =>
    rw [List.foldl_cons, ih, scaleOf_setScale]
    by_cases hm : n = m <;> by_cases hms : n ∈ ms <;> simp [hm, hms]

/-- The integrators that the operand of `afscale` names (R142). -/
theorem mem_scaleRange (a : Word) (n : Nat) :
    n ∈ (List.range (bitsAt a.toNat 16 8)).map (· + bitsAt a.toNat 0 12) ↔
      a.toNat % 4096 ≤ n ∧ n < a.toNat % 4096 + a.toNat / 65536 % 256 := by
  have hbase : bitsAt a.toNat 0 12 = a.toNat % 4096 := rfl
  have hcount : bitsAt a.toNat 16 8 = a.toNat / 65536 % 256 := by
    rw [bitsAt, Nat.shiftRight_eq_div_pow]
    norm_num
  rw [hbase, hcount, List.mem_map]
  refine ⟨?_, fun ⟨hlow, hhigh⟩ => ⟨n - a.toNat % 4096, List.mem_range.2 (by omega), Nat.sub_add_cancel hlow⟩⟩
  rintro ⟨i, hi, rfl⟩
  have hlt := List.mem_range.1 hi
  omega

section
variable {h : Hdr} {s : State} {e : Entry} {k : Claim} (hp : predOn h s.th.regs = true) (he : atHead s e)
  (hk : s.claimOf s.th.cid = some k)
include hp he hk

/-- `afscale` sets the scales of the integrators that it names (R142, R298). -/
theorem afscaleHead (o : AfScale) : let a := s.th.regs.gr o.a
    let x := s.th.regs.gs o.b
    (x.toInt < -32 ∨ 31 < x.toInt → headFaults s (exec (.afscale h o) s) e 0x1F x) ∧
    (scaleBad k.np a x = none → ∃ sc, headResolves s (exec (.afscale h o) s) e .done 0 (claimsWith s { k with scales := sc }) id ∧
      ∀ n, ((sc.find? fun y => y.1 == n).map Prod.snd).getD 0 =
        if a.toNat % 4096 ≤ n ∧ n < a.toNat % 4096 + a.toNat / 65536 % 256 then x.toInt
        else ((k.scales.find? fun y => y.1 == n).map Prod.snd).getD 0) := by
  intro a x
  have hrun : exec (.afscale h o) s = execAfscale h o s := rfl
  rw [hrun, execAfscale, onFabric_atHead hp he, withClaim, hk]
  dsimp only
  refine ⟨fun hx => ?_, fun hok => ?_⟩
  · have hbad : scaleBad k.np a x = some x := if_pos hx
    rw [hbad]
    exact fabricFault_headFaults s e x
  · rw [hok]
    refine ⟨_, headResolves_issueDone s e .done 0 _, fun n => ?_⟩
    have hset := scaleOf_setScales ((List.range (bitsAt a.toNat 16 8)).map (· + bitsAt a.toNat 0 12)) k.scales n x.toInt
    simp only [mem_scaleRange] at hset
    exact hset

/-! ### afsettle (R138, R139) -/

/-- `afsettle` begins on a running claim that has not saturated, with a parameter that R298 allows. -/
theorem afsettleHead (o : AfA) (hst : k.st = .run) : let p := s.th.regs.gr o.a
    (settleBad p = true → headFaults s (exec (.afsettle h o) s) e 0x1F p) ∧
    (settleBad p = false → k.sat = true → headFaults s (exec (.afsettle h o) s) e 0x20 (k.sint.zeroExtend 64)) ∧
    (settleBad p = false → k.sat = false → headBegins s (exec (.afsettle h o) s) e (.settle p)
      (claimsWith s { k with calm := 0 }) fun t => t.plane = s.plane) := by
  intro p
  have hrun : exec (.afsettle h o) s = execAfsettle h o s := rfl
  rw [hrun, execAfsettle, onFabric_atHead hp he, withClaim, hk]
  dsimp only
  rw [if_neg (not_not.2 hst)]
  refine ⟨fun hbad => ?_, fun hok hsat => ?_, fun hok hsat => ?_⟩
  · rw [if_pos hbad]
    exact fabricFault_headFaults s e p
  · rw [if_neg (Bool.not_eq_true _ ▸ hok), satFault, if_pos hsat]
    exact fabricFault_headFaults s e _
  · rw [if_neg (Bool.not_eq_true _ ▸ hok), satFault, if_neg (Bool.not_eq_true _ ▸ hsat)]
    exact headBegins_issueBegun rfl rfl (fun _ => rfl) rfl rfl

/-! ### afcfg (R133, log 32, log 33) -/

/-- What `afcfg` does with a claim that does not run: the table has been read, or its next entry is read. -/
theorem afcfg_reads (o : AfA) (hst : k.st ≠ .run) {ws : List Word} (hws : e.work = .fabric (.cfg (s.th.regs.gr o.a) ws)) :
    exec (.afcfg h o) s = if tableOver ws then loadTable k e s
      else fabricRead (s.th.regs.gr o.a + BitVec.ofNat 64 (8 * ws.length)) 8 (fun bs s =>
        parkOut (s.mapTh fun c => c.setEntry 7 e.op fun y =>
          { y with work := .fabric (.cfg (s.th.regs.gr o.a) (ws ++ [BitVec.ofNat 64 (bytesAt bs 0 8)])) }) .fabric) e s := by
  have hentries : e.entries = ws := by rw [Entry.entries, hws]
  have hrun : exec (.afcfg h o) s = execAfcfg h o s := rfl
  rw [hrun, execAfcfg, onFabric_atHead hp he, withClaim, hk]
  dsimp only
  rw [if_neg hst, hentries]
  rfl

/-- `afcfg` loads a whole table, refuses one as a whole, or reads its next entry (R133). -/
theorem afcfgHead (o : AfA) (hst : k.st ≠ .run) {ws : List Word} (hws : e.work = .fabric (.cfg (s.th.regs.gr o.a) ws)) :
    let i := Instr.afcfg h o
    (tableOver ws = true → ∀ n, cfgError k.np ws (ws.getLast?.any fun w => cfgKind w == 0) = some n →
      headResolves s (exec i s) e .failed (BitVec.ofNat 64 (7 * 2 ^ 48 + n)) s.claims id) ∧
    (tableOver ws = true → cfgError k.np ws (ws.getLast?.any fun w => cfgKind w == 0) = none →
      headResolves s (exec i s) e .done (BitVec.ofNat 64 ws.length)
        (claimsWith s { k with st := .idle, cfg := true, sat := false, sint := 0, latched := [], table := ws }) id) ∧
    (tableOver ws = false → s.io? (.engine s.th.cid 7) e.op = none → ∀ ps,
      s.placeAt s.th.asUnit .read (s.th.regs.gr o.a + BitVec.ofNat 64 (8 * ws.length)) 8 = .ok ps →
      s.absentPart ps = none → startsRead s (exec i s) e ps.length 8) ∧
    (tableOver ws = false → ∀ x, s.io? (.engine s.th.cid 7) e.op = some x → x.reads = 0 → x.bad = none →
      goesTo (exec i s) fun t => memoryKept s t ∧ t.claims = s.claims ∧ t.th.pc = s.th.pc ∧ t.th.status = .parked .fabric ∧
        t.io? (.engine s.th.cid 7) e.op = none ∧ t.th.queue 7 = (s.th.queue 7).map fun y => if y.op == e.op then
          { y with work := .fabric (.cfg (s.th.regs.gr o.a) (ws ++ [BitVec.ofNat 64 (ofBytes (x.buf.take 8))])) } else y) := by
  have hentries : e.entries = ws := by rw [Entry.entries, hws]
  dsimp only
  rw [afcfg_reads hp he hk o hst hws]
  refine ⟨fun hover n herr => ?_, fun hover herr => ?_, fun hover hio ps hps habs => ?_, fun hover x hio hreads hbad => ?_⟩
  · rw [if_pos hover, loadTable, hentries, herr]
    exact headResolves_issueDone s e .failed _ s.claims
  · rw [if_pos hover, loadTable, hentries, herr]
    exact headResolves_issueDone s e .done _ _
  · rw [if_neg (Bool.not_eq_true _ ▸ hover)]
    exact fabricRead_starts _ hio hps habs
  · rw [if_neg (Bool.not_eq_true _ ▸ hover), fabricRead_answered _ hio hreads hbad]
    refine ⟨_, rfl, fun _ => rfl, rfl, rfl, rfl, State.io?_ioDrop s _ _, ?_⟩
    exact (s.th.queue_mapQ 7 _ (by decide)).trans (if_pos rfl)

/-! ### afsample (R140, R141, log 75) -/

/-- `afsample` reads its list on a claim that is not IDLE; then its checks in the order of log 75, and the sample. -/
theorem afsample_reads (hdet : detLevel s.th = 0) (o : AfSample) (hst : k.st ≠ .idle) : exec (.afsample h o) s =
    fabricRead (s.th.regs.gr o.b) (2 * o.cnt.toNat) (fun bs s =>
      let d := s.th.regs.gr o.a
      let ns := sampleNums bs o.cnt.toNat
      match firstFault [(sampleBad k.np d ns).map operandFault, satFault k] with
      | some t => fabricFault e t s
      | none =>
        match s.placeAt s.th.asUnit .write d (4 * o.cnt.toNat) with
        | .error t => fabricFault e t s
        | .ok _ =>
          let x := k.sample s.tick s.now ns
          .next (issueBegun e (.sample d ns x.1 x.2 s.now) s).bump) e s := by
  have hrun : exec (.afsample h o) s = execAfsample h o s := rfl
  rw [hrun, execAfsample, onDet_pass (by simp [hdet]), onFabric_atHead hp he, withClaim, hk]
  dsimp only
  rw [if_neg hst]
  rfl

/-- The list of a sample is read and its checks have passed, but for the destination; the answers are dropped. -/
theorem afsample_listed (hdet : detLevel s.th = 0) (o : AfSample) (hst : k.st ≠ .idle) {x : Io}
    (hio : s.io? (.engine s.th.cid 7) e.op = some x) (hreads : x.reads = 0) (hbad : x.bad = none) :
    exec (.afsample h o) s =
      let d := s.th.regs.gr o.a
      let ns := sampleNums x.buf o.cnt.toNat
      let u := s.ioDrop (.engine s.th.cid 7) e.op
      match firstFault [(sampleBad k.np d ns).map operandFault, satFault k] with
      | some t => fabricFault e t s
      | none =>
        match s.placeAt s.th.asUnit .write d (4 * o.cnt.toNat) with
        | .error t => fabricFault e t s
        | .ok _ =>
          .next (issueBegun e (.sample d ns (k.sample s.tick s.now ns).1 (k.sample s.tick s.now ns).2 s.now) u).bump := by
  rw [afsample_reads hp he hk hdet o hst, fabricRead_answered _ hio hreads hbad]
  simp only [fabricFault_ioDrop, State.placeAt_ioDrop]
  rfl

/-- `afsample` reads its list; then it faults on an operand or on sat, or takes its sample (R140, R298). -/
theorem afsampleHead (hdet : detLevel s.th = 0) (o : AfSample) (hst : k.st ≠ .idle) : let d := s.th.regs.gr o.a
    let n := o.cnt.toNat
    (s.io? (.engine s.th.cid 7) e.op = none → ∀ ps, s.placeAt s.th.asUnit .read (s.th.regs.gr o.b) (2 * n) = .ok ps →
      s.absentPart ps = none → startsRead s (exec (.afsample h o) s) e ps.length (2 * n)) ∧
    ∀ x, s.io? (.engine s.th.cid 7) e.op = some x → x.reads = 0 → x.bad = none →
      let ns := (List.range n).map fun k => ofBytes ((x.buf.drop (2 * k)).take 2)
      (∀ y, sampleBad k.np d ns = some y → headFaults s (exec (.afsample h o) s) e 0x1F y) ∧
      (sampleBad k.np d ns = none → k.sat = true →
        headFaults s (exec (.afsample h o) s) e 0x20 (k.sint.zeroExtend 64)) ∧
      ∀ qs, sampleBad k.np d ns = none → k.sat = false → s.placeAt s.th.asUnit .write d (4 * n) = .ok qs →
        headBegins s (exec (.afsample h o) s) e (.sample d ns (k.sample s.tick s.now ns).1 (k.sample s.tick s.now ns).2 s.now)
          s.claims fun t => t.plane = s.plane ∧ t.tick = s.tick + 1 := by
  intro d n
  refine ⟨fun hio ps hps habs => ?_, fun x hio hreads hbad => ?_⟩
  · rw [afsample_reads hp he hk hdet o hst]
    exact fabricRead_starts _ hio hps habs
  · intro ns
    have hns : sampleNums x.buf o.cnt.toNat = ns := rfl
    rw [afsample_listed hp he hk hdet o hst hio hreads hbad, hns]
    dsimp only
    refine ⟨fun y hy => ?_, fun hy hsat => ?_, fun qs hy hsat hqs => ?_⟩
    · rw [hy]
      exact fabricFault_headFaults s e y
    · rw [hy, satFault, if_pos hsat]
      exact fabricFault_headFaults s e _
    · rw [hy, satFault, if_neg (Bool.not_eq_true _ ▸ hsat), hqs]
      exact headBegins_issueBegun rfl rfl (fun _ => rfl) rfl ⟨rfl, rfl⟩

end

/-- The operations of the continuous fabric at the head of queue 7 (R134 to R142, R298). -/
theorem fabricAtHead : FabricAtHead := by
  intro h s e hp hdet he
  refine ⟨fun p hmem o hk => unclaimed_faults hp he hk o hmem, afclaimHead hp he, fun k hk => ⟨fun o => ?_, ?_, ?_, ?_, ?_⟩⟩
  · obtain ⟨hcal, hcalBusy⟩ := afcalHead hp he hk o
    obtain ⟨hrun, hrunBare⟩ := afrunHead hp he hk o
    exact ⟨hcal, hcalBusy, hrun, hrunBare, afstopHead hp he hk o, fun hpool => afrelHead hp he hk hpool o⟩
  · exact fun o => afscaleHead hp he hk o
  · exact fun o hst => afsettleHead hp he hk o hst
  · exact fun o hst ws hws => afcfgHead hp he hk o hst hws
  · exact fun o hst => afsampleHead hp he hk hdet o hst

/-- Settles O45: a fabric instruction places its entry after its checks and waits for the head of its queue (`fabricIssue`);
there it faults, begins its operation or resolves it (`fabricAtHead`). -/
theorem fabricOperations : Obligations.FabricOperations := ⟨fabricIssue, fabricAtHead⟩

end Sys2Proof.Machine
end
